-- ==== Sys2Proof/Word.lean ====
section
/-!
DEFINITION. Word.lean: the word types of the K8 and their plainest views. Chapter 03 gives scalar registers of
64 bits, chapter 04 gives 64-bit instruction words, and chapter 09 addresses memory by the byte.
-/
namespace Sys2Proof

/-- A 64-bit scalar register or register value (03 R46). -/
abbrev Word := BitVec 64

/-- A byte of memory. -/
abbrev Byte := BitVec 8

/-- An FP32 bit pattern (05 R106). -/
abbrev F32 := BitVec 32

/-- An address descriptor of 256 bits (03 R48). -/
abbrev Desc := BitVec 256

/-- A logical core of the package, 0 to 31 (00 R4). -/
abbrev CoreId := Fin 32

/-- A die of the package, 0 to 7 (00 R4). -/
abbrev DieId := Fin 8

/-- A fabric port of the package, 0 to 23 (00 R4). -/
abbrev PortId := Fin 24

end Sys2Proof
end

