-- ==== Sys2Proof/Syntax.lean ====
section
/-!
DEFINITION. Syntax.lean: the commands the package takes, one constructor per row of spec/opcode_table.json, in the
table's order. A command is what reaches the package from outside (a host or management access, a message, a pin) or
the moment at which one of its engines completes a step. What only the outside knows at that moment (bytes read from
host memory, a measured value, whether a read met a fault) stands in the command as an operand. Operands are typed so
that a unit that does not exist cannot be named.
-/
namespace Sys2Proof

/-- The header fields of a Kamevesa word below its opcode (04 Table 4.1). -/
structure Hdr where
  gp : BitVec 3
  gn : Bool
  len : BitVec 2
  deriving DecidableEq, Repr

/-- What the array hardware does to a read or write beyond what the stored bits say: nothing, an error that the retry
clears, an error that the retry does not clear, or one after which the poison form does not read back either
(09 R202, R203). -/
inductive MemOutcome where
  | good | transient | lasting | hard
  deriving DecidableEq, Repr

/-- How a cache line fill ended (03 R69): filled, filled after the retry, fetched again because the cache's own array
was uncorrectable, or bad after a second failure. -/
inductive FillOutcome where
  | filled | retried | refetched | bad
  deriving DecidableEq, Repr

/-- Where a unit takes a frame from: the receive buffer of a port, or the frames that other dies of the package sent to a
die over the bridges. -/
inductive FrameSrc where
  | port (p : PortId)
  | die (d : DieId)
  deriving DecidableEq, Repr

/-- How a conversion of a remote temperature channel ended (19 R439): a reading in 0.125 °C, or the excitation left
compliance above or below its range. -/
inductive RemoteResult where
  | good (reading : Int)
  | opened
  | shorted
  deriving DecidableEq, Repr

/-- What a bond self-test of a die's Stratus finds (18 R416): failing lanes as (layer, group), and the package addresses of
256-byte lines in rows that fail. -/
structure BondResult where
  lanes : List (Nat × Nat)
  rows : List Nat
  deriving DecidableEq, Repr

/-- A write of the host that changes which MSI-X vectors of a function are masked (15 R348): a vector's own mask cleared,
or MSI-X Enable and Function Mask of the function's MSI-X capability written. -/
inductive MsixWrite where
  | vector (vec : Fin 2048)
  | control (enable mask : Bool)
  deriving DecidableEq, Repr

/-- What the decoder of a port made of a frame (10 R211): the symbols it corrected, and whether a codeword of the frame was
uncorrectable. -/
structure FecOutcome where
  fixed : Nat
  bad : Bool
  deriving DecidableEq, Repr

/-- A register as a 4-byte read names it: its function and its BAR0 offset (15 Table 15.3, 20 R455). -/
structure RegPlace where
  fn : Fin 2
  addr : BitVec 28
  deriving DecidableEq, Repr

/-- What the host link comes up with beside its rate: its width, and log2 of the size that the host then gives BAR2
(15 R337, Table 15.3). -/
structure LinkSetup where
  width : BitVec 8
  bar2 : BitVec 8
  deriving DecidableEq, Repr

/-- The commands of the package: the rows of spec/opcode_table.json. -/
inductive Instr where
  /-- SOP (R80). Controller computes SD = FN(SA, SB) for an integer or FP32 scalar function. -/
  | sop (core : CoreId) (h : Hdr) (f : BitVec 51)
  /-- SOPI (R80). Controller computes SD = FN(SA, IMM) with a sign-extended or FP32 immediate. -/
  | sopi (core : CoreId) (h : Hdr) (f : BitVec 51)
  /-- SLI (R80). Controller writes the following 64-bit word into SD. `imm` is the second word. -/
  | sli (core : CoreId) (h : Hdr) (f : BitVec 51) (imm : BitVec 64)
  /-- SLD (R82). Scalar load of 1 to 8 bytes from SEG:(SA + OFF), checked as one element, stalling the controller. -/
  | sld (core : CoreId) (h : Hdr) (f : BitVec 51)
  /-- SST (R82). Scalar store of 1 to 8 bytes to SEG:(SA + OFF), checked as one element, stalling the controller. -/
  | sst (core : CoreId) (h : Hdr) (f : BitVec 51)
  /-- SCMP (R83). Writes predicate PD from the condition code applied to SA and SB. -/
  | scmp (core : CoreId) (h : Hdr) (f : BitVec 51)
  /-- SCMPI (R83). Writes predicate PD from the condition code applied to SA and a sign-extended immediate. -/
  | scmpi (core : CoreId) (h : Hdr) (f : BitVec 51)
  /-- PSET (R83). Writes PD from a 4-bit truth table over two predicates. -/
  | pset (core : CoreId) (h : Hdr) (f : BitVec 51)
  /-- BR (R84). Branches to PC + 8 × OFF, with the target checked under R57. -/
  | br (core : CoreId) (h : Hdr) (f : BitVec 51)
  /-- CALL (R84). Writes PC + 8 into SD and branches relative to PC. -/
  | call (core : CoreId) (h : Hdr) (f : BitVec 51)
  /-- JMPR (R84). Branches to the address held in SA. -/
  | jmpr (core : CoreId) (h : Hdr) (f : BitVec 51)
  /-- SRD (R85). Writes into SD a core, frame, step, tick, seed or loss-scale value selected by SEL. -/
  | srd (core : CoreId) (h : Hdr) (f : BitVec 51)
  /-- DSET (R86). Writes the low bits of SA into one field of an address descriptor. -/
  | dset (core : CoreId) (h : Hdr) (f : BitVec 51)
  /-- DGET (R86). Reads one field of an address descriptor into SD. -/
  | dget (core : CoreId) (h : Hdr) (f : BitVec 51)
  /-- DLD (R86). Loads a 32-byte address descriptor from memory. -/
  | dld (core : CoreId) (h : Hdr) (f : BitVec 51)
  /-- DST (R86). Stores a 32-byte address descriptor to memory. -/
  | dst (core : CoreId) (h : Hdr) (f : BitVec 51)
  /-- DADV (R86). Advances a descriptor's BASE and ORIGIN along dimension 1 or 2. -/
  | dadv (core : CoreId) (h : Hdr) (f : BitVec 51)
  /-- VBIN (R87). Issues an elementwise binary vector function to the VECTOR queue. -/
  | vbin (core : CoreId) (h : Hdr) (f : BitVec 51)
  /-- VFMA (R87). Issues a fused multiply-add into D to the VECTOR queue. -/
  | vfma (core : CoreId) (h : Hdr) (f : BitVec 51)
  /-- VUN (R87). Issues a unary or transcendental vector function to the VECTOR queue. -/
  | vun (core : CoreId) (h : Hdr) (f : BitVec 51)
  /-- VRED (R88). Issues a row reduction along dimension 0 in fixed order to the VECTOR queue. -/
  | vred (core : CoreId) (h : Hdr) (f : BitVec 51)
  /-- MMUL (R92). Issues a folded tile matrix product into an accumulator set or a descriptor to the MATRIX queue. -/
  | mmul (core : CoreId) (h : Hdr) (f : BitVec 51)
  /-- MWLD (R93). Loads and holds one stationary weight block per logical engine. -/
  | mwld (core : CoreId) (h : Hdr) (f : BitVec 51)
  /-- MRD (R94). Reads out an accumulator set into D with conversion and an optional clear. -/
  | mrd (core : CoreId) (h : Hdr) (f : BitVec 51)
  /-- PMV (R96). Issues a Purl path matrix-vector product for up to 8 vectors to the PURL queue. -/
  | pmv (core : CoreId) (h : Hdr) (f : BitVec 51)
  /-- DMA (R177). Reads and checks a 64-byte DMA descriptor at issue and queues it on a channel. -/
  | dma (core : CoreId) (h : Hdr) (f : BitVec 51)
  /-- TLD (R98). Issues a tile load from Stratus or HBM to scratchpad, with optional expansion, expert-buffer read
  and row-mask record. -/
  | tld (core : CoreId) (h : Hdr) (f : BitVec 51)
  /-- COLL (R238). Reads and checks a collective descriptor at issue and submits it to the die's collectives
  engine. -/
  | coll (core : CoreId) (h : Hdr) (f : BitVec 51)
  /-- EXCH (R260). Reads and checks an exchange descriptor at issue and submits it to the die's Skein unit. -/
  | exch (core : CoreId) (h : Hdr) (f : BitVec 51)
  /-- UPD (R307). Reads and checks an update descriptor and submits selected blocks to the die's Cirrus unit. `w1`
  to `w3` are the later words. -/
  | upd (core : CoreId) (h : Hdr) (f : BitVec 51) (w1 w2 w3 : BitVec 64)
  /-- FEND (R58). Ends the core's issue for the frame. -/
  | fend (core : CoreId) (h : Hdr) (f : BitVec 51)
  /-- WAITQ (R64). Stalls the controller until at most K instructions of queue Q remain unfinished. -/
  | waitq (core : CoreId) (h : Hdr) (f : BitVec 51)
  /-- BANKSET (R61). Requests a handover of owner and DMA_SHARE for the masked scratchpad banks. -/
  | bankset (core : CoreId) (h : Hdr) (f : BitVec 51)
  /-- FLAGSET (R100). Raises USER flags in the package's contribution for the current frame. -/
  | flagset (core : CoreId) (h : Hdr) (f : BitVec 51)
  /-- FLAGRD (R101). Reads the payload of a kept earlier frame, stalling until it is final, or returns 2^63. -/
  | flagrd (core : CoreId) (h : Hdr) (f : BitVec 51)
  /-- PTAG (R102). Charges the core's later energy in the frame to another phase tag. -/
  | ptag (core : CoreId) (h : Hdr) (f : BitVec 51)
  /-- RESERVED_OPCODE_TRAP (R79). An instruction with a class X opcode traps with ILLEGAL_INSTRUCTION. `op` is the
  major opcode. -/
  | reservedOpcodeTrap (core : CoreId) (op : BitVec 7) (h : Hdr) (f : BitVec 51)
  /-- TRAP_RECORD_WRITE (R67). Once the units have finished, the core writes its trap record, becomes TRAPPED and
  raises CORE_TRAP and STOP_REQUEST. -/
  | trapRecordWrite (core : CoreId)
  /-- ICACHE_LINE_FILL (R69). A missed or refetched instruction-cache line arrives from Stratus, or is marked bad
  after a second failure. `line` is the line's offset within the code. -/
  | icacheLineFill (core : CoreId) (line : Nat) (how : FillOutcome)
  /-- ISSUE_QUEUE_SPACE (R56). The controller resumes issue when the full queue it needs gains a free slot. -/
  | issueQueueSpace (core : CoreId)
  /-- SCALAR_ACCESS_DONE (R82). The data or acceptance of a stalled scalar access arrives and the controller
  resumes. -/
  | scalarAccessDone (core : CoreId) (how : MemOutcome)
  /-- DESCRIPTOR_FETCH_DONE (R97). A DMA, COLL, EXCH or UPD descriptor read at issue arrives and the controller
  resumes. -/
  | descriptorFetchDone (core : CoreId) (how : MemOutcome)
  /-- QUEUE_INSTRUCTION_DONE (R64). A unit finishes a queued instruction, whatever its status, and DONE[q]
  increments. `q` is the queue; `wait` is how many cycles the unit waited for weights (06 R133). -/
  | queueInstructionDone (core : CoreId) (q : Fin 10) (wait : Nat)
  /-- WAITQ_RELEASE (R64). ISSUED minus DONE of the waited queue falls to K and the controller resumes. -/
  | waitqRelease (core : CoreId)
  /-- HANDOVER_EFFECT (R61). A bank handover takes effect four cycles after the old owner's last access, releasing
  waiting units. `waited` is how many cycles units waited for the handover. -/
  | handoverEffect (core : CoreId) (bank : Fin 8) (waited : Nat)
  /-- FEND_RETIRE (R58). FEND retires when every queue of the core is drained, completing the core's part of the
  frame. `elapsed` is the core's elapsed cycles in the frame (02 R37). -/
  | fendRetire (core : CoreId) (elapsed : Nat)
  /-- FLAGRD_PAYLOAD_FINAL (R101). A FLAGRD stalled on a provisional payload completes when that payload becomes
  final. -/
  | flagrdPayloadFinal (core : CoreId)
  /-- SRD_SCALE_RELEASE (R292). An SRD 0x08 stalled on an undecided earlier step completes once that decision is
  made or abandoned. -/
  | srdScaleRelease (core : CoreId)
  /-- MATRIX_FOLD_BOUNDARY (R127). A fold ends on all engines, and the next fold, a stop or a Cirrus product may
  begin. -/
  | matrixFoldBoundary (core : CoreId)
  /-- CIRRUS_PRODUCT_END (R322). A Cirrus engine product ends, the stationary block is reloaded and the MATRIX
  queue resumes. -/
  | cirrusProductEnd (core : CoreId)
  /-- BULK_CHANNEL_ASSIGN (R175). A memory-to-memory descriptor waiting in a core channel is passed to a free bulk
  channel. -/
  | bulkChannelAssign (core : CoreId) (ch : Fin 4)
  /-- DMA_SEGMENT_DONE (R178). A DMA segment's writes complete, and the next segment may start. `how` is what the
  memories did to the segment's accesses. -/
  | dmaSegmentDone (core : CoreId) (ch : Fin 4) (how : MemOutcome)
  /-- DMA_SEGMENT_FAILED (R179). A segment fails twice, its destination and unstarted segments are poisoned, and
  DMA_HALTED is raised. `atDest` tells whether a write failed rather than a read; `inFlight` is how many later
  segments were in flight. -/
  | dmaSegmentFailed (core : CoreId) (ch : Fin 4) (atDest : Bool) (inFlight : Fin 4)
  /-- STREAM_IN (R185). A STREAM_IN descriptor delivers whole rows from an inbound ring against the frame's
  snapshots and advances CONSUMED. -/
  | streamIn (core : CoreId) (ch : Fin 4)
  /-- STREAM_OUT (R186). A STREAM_OUT descriptor writes whole rows into an outbound ring and then advances
  PRODUCED. -/
  | streamOut (core : CoreId) (ch : Fin 4)
  /-- TIMEBASE_TICK (R224). The master's timebase fires tick t and sends a MARKER on every trained port. `delays`
  is the time from the tick to the sending of the MARKER on each port, in units of 62.5 ps. -/
  | timebaseTick (delays : List Nat)
  /-- TICK_IN_EDGE (R476). A rising edge on TICK_IN is accepted as τ_t in EXTERNAL mode, or ignored and counted.
  `gap` is the time since the last accepted edge in ns, and `delays` as in TIMEBASE_TICK. -/
  | tickInEdge (gap : Nat) (delays : List Nat)
  /-- MARKER_RECEIVE (R225). A MARKER arrives, is forwarded, and starts the hold of Λ − E before its tick arrives.
  `fec` is the decoder's outcome, and `delays` is each port's time from its arrival to sending it on. -/
  | markerReceive (port : PortId) (frame : List Byte) (fec : FecOutcome) (delays : List Nat)
  /-- TICK_CONFLICT_END (R24). TICK_TIMEOUT periods pass without a foreign marker and the conflict ends. -/
  | tickConflictEnd
  /-- TICK_ARRIVAL (R225). The hold ends and tick t arrives, advancing the counter and pulsing TICK_OUT. -/
  | tickArrival
  /-- WAVE_RECEIVE (R227). A WAVE frame is merged into W[s] and forwarded when it adds bits. `settle` is the time
  from the wave's origin to this update in ns. -/
  | waveReceive (port : PortId) (frame : List Byte) (fec : FecOutcome) (settle : Nat)
  /-- TICK_LOSS (R27). No tick within TICK_TIMEOUT periods stops the image and enters STOPPED. -/
  | tickLoss
  /-- FRAME_START (R28). Once every start condition holds, the package starts frame n: cores start at ENTRY, rings
  are snapshotted and clocks are set. -/
  | frameStart
  /-- FRAME_COMPLETE (R28). The last core, DMA, collective, exchange and Cirrus block of a frame finishes and the
  contribution is sealed. -/
  | frameComplete
  /-- FRAME_WATCHDOG (R59). A core that has not completed its frame within FRAME_WATCHDOG periods traps with
  WATCHDOG. -/
  | frameWatchdog (core : CoreId)
  /-- CORE_STOP_RECORD (R71). After its units finish, a stopped core records cause STOP and becomes STOPPED. -/
  | coreStopRecord (core : CoreId)
  /-- IMAGE_END (R30). A finite image whose last frame, decisions and refreshes are done ends, and IMAGE_ENDED is
  raised. -/
  | imageEnd
  /-- COMMAND_FETCH (R341). The K8 fetches the head command of a queue whose head differs from SQ_TAIL and whose
  completion ring has room. `bytes` is the command read from host memory, `none` when both attempts failed. -/
  | commandFetch (bytes : Option (List Byte))
  /-- NOP (R343). A host command that does nothing and completes. -/
  | nop (queue : Fin 64)
  /-- COPY_TO_DEVICE (R346). A host copy into device memory in chunks of 256 KiB. -/
  | copyToDevice (queue : Fin 64)
  /-- COPY_FROM_DEVICE (R346). A host copy from device memory in chunks of 256 KiB. -/
  | copyFromDevice (queue : Fin 64)
  /-- COPY_CHUNK_DONE (R346). A copy chunk completes or fails lastingly, and the copy completes when all chunks are
  reported. `slot` counts among the chunks in flight; `data` is what the host read returned (`none` when both
  attempts failed), `retried` says that a second attempt succeeded, `how` what the device memory did, and
  `inFlight` how many other chunks are in flight when the chunk fails. -/
  | copyChunkDone (queue : Fin 64) (slot : Fin 4) (data : Option (List Byte)) (retried : Bool) (how : MemOutcome) (inFlight : Fin 4)
  /-- LOAD_IMAGE (R343). Reads, checks and loads an image, then runs admission. `bytes` is the image read from host
  memory, `none` when a read failed twice. -/
  | loadImage (queue : Fin 64) (bytes : Option (List Byte))
  /-- START (R28). Arms the loaded image at START_TICK and START_STEP, or refuses a past tick. -/
  | start (queue : Fin 64)
  /-- STOP (R343). The host raises STOP_REQUEST for the loaded image. -/
  | stop (queue : Fin 64)
  /-- STOP_COMMAND_COMPLETE (R343). STOP completes when every used core is STOPPED or TRAPPED. -/
  | stopCommandComplete (queue : Fin 64)
  /-- RESUME (R73). Resumes every stopped core at RESUME_TICK with renumbered frames, or reports NOT_RESUMABLE. -/
  | resume (queue : Fin 64)
  /-- UNLOAD (R343). Discards the loaded image, clears trap records and returns the cores to IDLE. -/
  | unload (queue : Fin 64)
  /-- EXPORT_SHARD (R297). Writes export records of a shard's committed state to host memory. -/
  | exportShard (queue : Fin 64)
  /-- IMPORT_SHARD (R299). Writes elements of export records into a shard by logical coordinates. `bytes` is the
  source read from host memory, `none` when a read failed twice. -/
  | importShard (queue : Fin 64) (bytes : Option (List Byte))
  /-- SQ_TAIL_WRITE (R341). A doorbell write sets a queue's submission tail. `good`: the write is 4 bytes wide and
  aligned; `ep`: the request carries EP. -/
  | sqTailWrite (queue : Fin 64) (value : BitVec 32) (good ep : Bool)
  /-- CQ_HEAD_WRITE (R341). A doorbell write frees completion slots of a queue. `good`: the write is 4 bytes wide
  and aligned; `ep`: the request carries EP. -/
  | cqHeadWrite (queue : Fin 64) (value : BitVec 32) (good ep : Bool)
  /-- EVR_HEAD_WRITE (R347). A doorbell write frees slots of an event ring. `good`: the write is 4 bytes wide and
  aligned; `ep`: the request carries EP. -/
  | evrHeadWrite (ring : Fin 8) (value : BitVec 32) (good ep : Bool)
  /-- QUEUE_ENABLE (R341). Setting Q_CTRL_q.EN starts a queue, or restarts one from ERROR. `value` is the word
  written to Q_CTRL, whose EN is taken as 1. -/
  | queueEnable (queue : Fin 64) (value : BitVec 64)
  /-- QUEUE_DISABLE (R350). Clearing Q_CTRL_q.EN disables a queue. `value` is the word written to Q_CTRL, whose EN
  is taken as 0. -/
  | queueDisable (queue : Fin 64) (value : BitVec 64)
  /-- EVENT_RING_ENABLE (R347). Setting EVR_CTRL_r.EN enables an event ring and restarts its SEQ. `value` is the
  word written to EVR_CTRL, whose EN is taken as 1. -/
  | eventRingEnable (ring : Fin 8) (value : BitVec 64)
  /-- EVENT_RING_DISABLE (R350). Clearing EVR_CTRL_r.EN disables an event ring. `value` is the word written to
  EVR_CTRL, whose EN is taken as 0. -/
  | eventRingDisable (ring : Fin 8) (value : BitVec 64)
  /-- WIN_BASE_WRITE (R339). Sets the package address of BAR2 offset 0, ignored if unaligned. -/
  | winBaseWrite (value : BitVec 64)
  /-- BAR2_READ (R339). A host read through the memory window, after earlier posted writes. -/
  | bar2Read (offset : BitVec 41) (len : Nat) (how : MemOutcome)
  /-- BAR2_WRITE (R339). A host write through the memory window, merged, poisoned or discarded as the target
  requires. `ep`: the request carries EP; `atomic`: it is an AtomicOp request. -/
  | bar2Write (offset : BitVec 41) (bytes : List Byte) (ep atomic : Bool)
  /-- BAR0_BAD_ACCESS (R6). A BAR0 access of the wrong size or alignment is refused and logged. -/
  | bar0BadAccess (write : Bool)
  /-- REGISTER_WRITE (R8). A write to a register without a row of its own acts by its access types. `req` is the
  requester: 0 the host, 1 to 8 a Zenith core, 9 to 16 a die's debug block; `addr` is a BAR0 offset of function
  `fn`; `wide` says that the write is 8 bytes wide; `how` is what the memory does when the write starts a decoded
  code-test read. -/
  | registerWrite (req : Fin 17) (fn : Fin 2) (addr : BitVec 28) (wide : Bool) (value : BitVec 64) (how : MemOutcome)
  /-- MSIX_UNMASK (R348). Unmasking a vector with its pending bit set signals it once. `what` is the write by which the
  host unmasks. -/
  | msixUnmask (fn : Fin 2) (what : MsixWrite)
  /-- LOW_HALF_READ (R455). A 4-byte read of a 64-bit register's low half captures a snapshot of the whole value.
  `reg` names the register by any offset in it: the low three bits are ignored. -/
  | lowHalfRead (req : Fin 17) (reg : RegPlace)
  /-- HIGH_HALF_READ (R455). A 4-byte read of the high half returns the snapshot's high half when tagged for that
  register. `reg` is as in LOW_HALF_READ. -/
  | highHalfRead (req : Fin 17) (reg : RegPlace)
  /-- NF_RECORD_CLEAR (R121). Writing 1 to NF_STATUS.VALID clears a core's first-position record. -/
  | nfRecordClear (core : CoreId)
  /-- FLR_FUNCTION0 (R340). A function level reset of function 0 aborts commands, disables queues and rings, and
  performs a compute reset. -/
  | flrFunction0
  /-- FLR_FUNCTION1 (R340). A function level reset of function 1 resets the mailbox and releases host locks. -/
  | flrFunction1
  /-- PERST_N_ASSERT (R396). Assertion of PERST_N acts as function level resets of both functions and resets the
  host link. -/
  | perstNAssert
  /-- PERST_N_RELEASE (R404). With PERST_N high and stage 2 ended, the PCI Express link trains. `rate` and the
  width of `link` are those the host link trains to. -/
  | perstNRelease (rate : BitVec 8) (link : LinkSetup)
  /-- ENYTRE_READ (R358). Returns bytes of an object's value, snapshotting at OFFSET 0. `master` is 0 the host, 1
  Contrail; `secure` says that the request came inside the master's SPDM session. -/
  | enytreRead (master : Fin 2) (seq : BitVec 8) (index : BitVec 16) (sub : BitVec 8) (len : BitVec 16) (offset : BitVec 32) (secure : Bool)
  /-- ENYTRE_WRITE (R357). Sets an object's whole value, subject to access, range, state and lock. -/
  | enytreWrite (master : Fin 2) (seq : BitVec 8) (index : BitVec 16) (sub : BitVec 8) (offset : BitVec 32) (data : List Byte) (secure : Bool)
  /-- ENYTRE_LOCK (R366). Locks an index, breaking the other master's lock where the class gives precedence. -/
  | enytreLock (master : Fin 2) (seq : BitVec 8) (index : BitVec 16) (sub : BitVec 8) (secure : Bool)
  /-- ENYTRE_UNLOCK (R367). Releases a master's lock on an index. -/
  | enytreUnlock (master : Fin 2) (seq : BitVec 8) (index : BitVec 16) (sub : BitVec 8) (secure : Bool)
  /-- ENYTRE_DESCRIBE (R356). Returns an object's type, access and size. -/
  | enytreDescribe (master : Fin 2) (seq : BitVec 8) (index : BitVec 16) (sub : BitVec 8)
  /-- ENYTRE_BAD_OPCODE (R357). A message with an unassigned opcode, or NOTIFY sent to the K8, is answered OPCODE.
  An opcode that is assigned, and not NOTIFY, makes it no such message. -/
  | enytreBadOpcode (master : Fin 2) (opcode seq : BitVec 8) (index : BitVec 16) (sub : BitVec 8)
  /-- LOCK_LEASE_EXPIRY (R367). LOCK_LEASE passes without a request from a master and its locks end. -/
  | lockLeaseExpiry (master : Fin 2)
  /-- MAILBOX_GO (R360). The host submits the request buffer, and the response follows with DONE. `value` is the
  word written to MBX_CTRL. -/
  | mailboxGo (value : BitVec 32)
  /-- STATE_COMMAND_OPERATIONAL (R354). STATE_COMMAND 1 moves PREOP to OPERATIONAL. -/
  | stateCommandOperational (master : Fin 2) (seq : BitVec 8) (secure : Bool)
  /-- STATE_COMMAND_PREOP (R354). STATE_COMMAND 2 moves OPERATIONAL with no image to PREOP. -/
  | stateCommandPreop (master : Fin 2) (seq : BitVec 8) (secure : Bool)
  /-- STATE_COMMAND_STOP (R365). STATE_COMMAND 3 stops as the host's STOP command, from either master whatever the
  lock. -/
  | stateCommandStop (master : Fin 2) (seq : BitVec 8) (secure : Bool)
  /-- RESERVATION_WRITE (R36). A write to a host reservation object re-runs admission and is refused if it fails.
  `sub` is the subindex of 0x2110: 2, 4 or 5. -/
  | reservationWrite (master : Fin 2) (seq : BitVec 8) (sub : BitVec 8) (value : BitVec 32) (secure : Bool)
  /-- POWER_BUDGET_WRITE (R423). Sets the package budget, applied at the next controller step. -/
  | powerBudgetWrite (master : Fin 2) (seq : BitVec 8) (value : BitVec 16) (secure : Bool)
  /-- PACKAGE_RESET_WRITE (R396). A write of 0xA5 to PACKAGE_RESET performs a package reset. -/
  | packageResetWrite (master : Fin 2) (seq : BitVec 8) (secure : Bool)
  /-- COMPUTE_RESET_WRITE (R396). A write of 1 to COMPUTE_RESET performs a compute reset. -/
  | computeResetWrite (master : Fin 2) (seq : BitVec 8) (secure : Bool)
  /-- COMPUTE_RESET_BOND_WRITE (R411). A write of 2 to COMPUTE_RESET performs a compute reset with the bond
  self-test. -/
  | computeResetBondWrite (master : Fin 2) (seq : BitVec 8) (secure : Bool)
  /-- ZENITH_WATCHDOG_EXPIRY (R352). A Zenith watchdog expires, ending its claims and restarting its firmware. -/
  | zenithWatchdogExpiry (die : DieId)
  /-- ZENITH_RESTART_DONE (R353). A restarted Zenith resumes service. -/
  | zenithRestartDone (die : DieId)
  /-- I3C_ENTDAA (R361). Contrail takes a dynamic address by ENTDAA. -/
  | i3cEntdaa (addr : BitVec 7)
  /-- I3C_SETDASA (R361). Contrail takes a dynamic address from its static address. -/
  | i3cSetdasa (static addr : BitVec 7)
  /-- I3C_SETMRL (R361). The bus owner sets Contrail's maximum read length. -/
  | i3cSetmrl (n : BitVec 16)
  /-- I3C_SETMWL (R361). The bus owner sets Contrail's maximum write length. -/
  | i3cSetmwl (n : BitVec 16)
  /-- I3C_RSTDAA (R367). Loss of the dynamic address ends Contrail's locks. -/
  | i3cRstdaa
  /-- I3C_TARGET_RESET (R367). An I3C target reset ends Contrail's locks. -/
  | i3cTargetReset
  /-- MCTP_MESSAGE_RECEIVE (R362). An MCTP message is reassembled and dispatched by type, or discarded. `body` is
  the message after its type byte; `good` says that every PEC was right and reassembly succeeded; `secure` as for
  ENYTRE_READ. -/
  | mctpMessageReceive (type : BitVec 8) (body : List Byte) (good secure : Bool)
  /-- MCTP_SET_ENDPOINT_ID (R362). The bus owner assigns the MCTP endpoint ID. -/
  | mctpSetEndpointId (eid : BitVec 8)
  /-- MCTP_GET_ENDPOINT_ID (R362). Returns the MCTP endpoint ID. -/
  | mctpGetEndpointId
  /-- MCTP_GET_VERSION_SUPPORT (R362). Returns the supported MCTP versions. -/
  | mctpGetVersionSupport
  /-- MCTP_GET_MESSAGE_TYPE_SUPPORT (R362). Returns the supported MCTP message types. -/
  | mctpGetMessageTypeSupport
  /-- PLDM_BASE_DISCOVERY (R363). Answers a PLDM type 0 discovery request. -/
  | pldmBaseDiscovery (master : Fin 2)
  /-- PLDM_SENSOR_READ (R363). Returns a sensor reading taken from the sensor map. -/
  | pldmSensorRead (master : Fin 2) (sensor : BitVec 16)
  /-- PLDM_SET_THRESHOLD (R363). Writes a sensor threshold to its dictionary object under arbitration. `sub` is the
  subindex of the threshold's object. -/
  | pldmSetThreshold (master : Fin 2) (sensor : BitVec 16) (sub : BitVec 8) (data : List Byte)
  /-- PLDM_REQUEST_UPDATE (R370). Begins a firmware update, or refuses one while another is running. -/
  | pldmRequestUpdate (master : Fin 2)
  /-- PLDM_TRANSFER_END (R370). The end of a component transfer verifies the inactive slot's signature and rollback
  number. `image` holds the component's signed bytes and signature; `version` and `rollback` are those it states. -/
  | pldmTransferEnd (master : Fin 2) (image : List Byte) (version : BitVec 32) (rollback : BitVec 16)
  /-- PLDM_ACTIVATE_FIRMWARE (R370). Marks the verified slot pending for the next package reset. `selfContained`
  asks for self-contained activation. -/
  | pldmActivateFirmware (master : Fin 2) (selfContained : Bool)
  /-- SPDM_GET_VERSION (R375). Answers an SPDM GET_VERSION. -/
  | spdmGetVersion (master : Fin 2)
  /-- SPDM_GET_CAPABILITIES (R375). Answers an SPDM GET_CAPABILITIES. -/
  | spdmGetCapabilities (master : Fin 2)
  /-- SPDM_NEGOTIATE_ALGORITHMS (R375). Negotiates the single SPDM algorithm set. `offers` says that the requester
  offers the one algorithm set that the K8 supports. -/
  | spdmNegotiateAlgorithms (master : Fin 2) (offers : Bool)
  /-- SPDM_GET_DIGESTS (R375). Returns certificate chain digests. -/
  | spdmGetDigests (master : Fin 2)
  /-- SPDM_GET_CERTIFICATE (R375). Returns the device identity chain from slot 0. -/
  | spdmGetCertificate (master : Fin 2) (slot : BitVec 8) (offset len : BitVec 16)
  /-- SPDM_CHALLENGE (R375). Answers an SPDM challenge with a signature. -/
  | spdmChallenge (master : Fin 2) (slot : BitVec 8)
  /-- SPDM_GET_MEASUREMENTS (R376). Returns the measurement digests, signed on request. `index` is the measurement
  asked for, 0 for their number and 255 for all. -/
  | spdmGetMeasurements (master : Fin 2) (index : BitVec 8) (signed : Bool)
  /-- SPDM_KEY_EXCHANGE (R375). Begins a secured session by key exchange. -/
  | spdmKeyExchange (master : Fin 2) (slot : BitVec 8)
  /-- SPDM_FINISH (R375). Completes the establishment of a secured session. `good` says that the requester's verify
  data is right. -/
  | spdmFinish (master : Fin 2) (good : Bool)
  /-- SPDM_HEARTBEAT (R375). Keeps a secured session alive. -/
  | spdmHeartbeat (master : Fin 2)
  /-- SPDM_KEY_UPDATE (R375). Updates a secured session's keys. -/
  | spdmKeyUpdate (master : Fin 2)
  /-- SPDM_END_SESSION (R375). Ends a secured session. -/
  | spdmEndSession (master : Fin 2)
  /-- LICENCE_INSTALL (R373). Validates and installs a licence record in the store. -/
  | licenceInstall (master : Fin 2) (record : List Byte)
  /-- LICENCE_LIST (R373). Lists the installed licence records. -/
  | licenceList (master : Fin 2)
  /-- LICENCE_REMOVE (R373). Removes a licence by serial inside a secured session unless it is in use. `secure`
  says that the request came inside the master's SPDM session. -/
  | licenceRemove (master : Fin 2) (serial : BitVec 64) (secure : Bool)
  /-- SOURCE_ASSERT (R380). An event source asserts, pending or queueing the source and writing records to its
  destinations. An occurrence of the event of a source, or the beginning of the condition of a level source, with
  its details. -/
  | sourceAssert (source : BitVec 12) (d0 : BitVec 64) (d1 : BitVec 32)
  /-- STORM_WINDOW_END (R382). A 1 ms interval ends and each source's assertion count restarts. -/
  | stormWindowEnd
  /-- EXT_INPUT_FILTER_CHANGE (R381). A synchronised external input holds a new level for FILTER cycles and the
  filtered level changes. Input 0 to 19 is VR_ALERT_N_i and 20 is BOARD_ALERT_N; the filtered level takes the other
  value. -/
  | extInputFilterChange (input : Fin 21)
  /-- EXT_INPUT_GLITCH (R381). A pulse shorter than FILTER cycles ends and is counted. -/
  | extInputGlitch (input : Fin 21)
  /-- QUARANTINE_RELEASE (R382). Writing RELEASE ends quarantine, re-asserting an active level source. -/
  | quarantineRelease (source : BitVec 12)
  /-- CLAIM_READ (R385). A Zenith read of CLAIM takes the highest-priority normal source routed to it. -/
  | claimRead (zenith : DieId)
  /-- COMPLETE_WRITE (R385). A Zenith write to COMPLETE ends a normal claim, re-pending or idling the source. -/
  | completeWrite (zenith : DieId) (source : BitVec 12)
  /-- CLAIM_FAST_READ (R387). A Zenith read of CLAIM_FAST takes the lowest-numbered fast source routed to it. -/
  | claimFastRead (zenith : DieId)
  /-- COMPLETE_FAST_WRITE (R387). A Zenith write to COMPLETE_FAST ends its fast claim. -/
  | completeFastWrite (zenith : DieId) (source : BitVec 12)
  /-- SRC_STATUS_LEVEL_SAMPLE (R386). The claimer's first SRC_STATUS read samples LEVEL and records a vanished
  claim. -/
  | srcStatusLevelSample (zenith : DieId) (source : BitVec 12)
  /-- IC_MODE_QUEUE_WRITE (R389). Zenith puts the controller in QUEUE mode, ending claims and flushing pending
  sources as records. -/
  | icModeQueueWrite (die : DieId)
  /-- IC_MODE_CLAIM_WRITE (R389). Zenith returns the controller to CLAIM mode if its queue is empty. -/
  | icModeClaimWrite (die : DieId)
  /-- EQ_HEAD_ADVANCE (R390). Zenith advances the event queue's HEAD, freeing slots. HEAD advances by `n` records,
  or by all that the queue holds. -/
  | eqHeadAdvance (die : DieId) (n : Nat)
  /-- CONTRAIL_EVENT_SEND (R391). A queued event record is sent to the bus owner as a PLDM event message. -/
  | contrailEventSend
  /-- REGION_APPLY (R192). APPLY checks the die's region settings and starts initialising changed regions. -/
  | regionApply (die : DieId)
  /-- REGION_APPLY_DONE (R192). Region initialisation ends, BUSY clears and REGION_APPLIED is raised. -/
  | regionApplyDone (die : DieId)
  /-- SCRUB_STEP (R205). The scrubber reads, decodes and rewrites the next queued or swept unit. `hbm` names the
  memory; `how` is what the array does to the read. -/
  | scrubStep (die : DieId) (hbm : Bool) (how : MemOutcome)
  /-- CT_READ_RAW (R207). Copies data and check bits of a target into the buffers without decoding. `target` is the
  TARGET field written with the command. -/
  | ctReadRaw (die : DieId) (target : BitVec 4)
  /-- CT_WRITE_RAW (R207). Writes the buffers to a target without encoding. -/
  | ctWriteRaw (die : DieId) (target : BitVec 4)
  /-- CT_ENCODE (R207). Computes the check value of CT_DATA into CT_CHECK. -/
  | ctEncode (die : DieId) (target : BitVec 4)
  /-- CT_READ_DECODED (R207). Performs an ordinary decoded read of a target and reports its outcome. -/
  | ctReadDecoded (die : DieId) (target : BitVec 4) (how : MemOutcome)
  /-- CACHE_WRITE_BACK (R172). CACHE_CTRL.WRITE_BACK writes back every dirty line of the die's slices. -/
  | cacheWriteBack (die : DieId)
  /-- CACHE_DEMOTE (R171). CACHE_CTRL.DEMOTE demotes every KEEP line to NORMAL. -/
  | cacheDemote (die : DieId)
  /-- KEEP_WIN_WRITE (R188). A keep window write takes effect at the next frame start, or raises
  KEEP_WINDOW_INVALID. -/
  | keepWinWrite (die : DieId) (n : Fin 8) (value : BitVec 64)
  /-- RING_REG_WRITE (R188). A RING_n write takes effect at the next frame start. -/
  | ringRegWrite (die : DieId) (n : Fin 16) (value : BitVec 64)
  /-- PORT_ENABLE (R219). PORT_CTRL.EN set to 1 starts link training. -/
  | portEnable (port : PortId)
  /-- PORT_DISABLE (R219). PORT_CTRL.EN set to 0 disables the port and fails its unacknowledged frames. -/
  | portDisable (port : PortId)
  /-- PORT_RETRAIN_WRITE (R219). PORT_CTRL.RETRAIN moves an UP port to RETRAINING. -/
  | portRetrainWrite (port : PortId)
  /-- PORT_TRAINED (R219). Lanes train and lock with the partner in the same FEC mode, and the port starts
  measuring. The operands are the partner's package identifier, port and FEC mode. -/
  | portTrained (port : PortId) (pkg : BitVec 16) (pport : BitVec 8) (fec : BitVec 2)
  /-- PORT_TRAIN_SLOW (R219). One second of training without success raises PORT_TRAIN_SLOW once. -/
  | portTrainSlow (port : PortId)
  /-- PROBE_SEND (R222). A port sends its periodic PROBE request. `stamp` is the time of sending in units of 62.5
  ps. -/
  | probeSend (port : PortId) (stamp : BitVec 64)
  /-- PROBE_RECEIVE (R222). A PROBE request is echoed, or an echo updates the latency d and may bring the port UP.
  `fec` is the decoder's outcome; `arrive` is the time of arrival and `turn` the time to the echo, in units of
  62.5 ps. -/
  | probeReceive (port : PortId) (frame : List Byte) (fec : FecOutcome) (arrive : BitVec 64) (turn : BitVec 32)
  /-- PROBE_TIMEOUT (R222). A PROBE request without an echo within 100 µs is abandoned. -/
  | probeTimeout (port : PortId)
  /-- MEASURE_TIMEOUT (R219). MEASURING without 16 consistent round trips in 10 ms returns to TRAINING. -/
  | measureTimeout (port : PortId)
  /-- CODEWORD_LOCK_LOSS (R219). Loss of codeword lock moves an UP port to RETRAINING. -/
  | codewordLockLoss (port : PortId)
  /-- RETRAIN_TIMEOUT (R219). RETRAIN_TIMEOUT passes in RETRAINING and the port goes DOWN. -/
  | retrainTimeout (port : PortId)
  /-- DATA_FRAME_SEND (R216). A DATA frame is sent once its VC credit allows, possibly with Dropstitch injection. -/
  | dataFrameSend (port : PortId) (vc : Fin 3)
  /-- DATA_FRAME_RECEIVE (R217). A DATA frame is accepted, forwarded, placed or answered with NAK. `fixed` is the
  number of symbols that FEC corrected, and `bad` says that the frame came in an uncorrectable codeword. -/
  | dataFrameReceive (port : PortId) (frame : List Byte) (fixed : Nat) (bad : Bool)
  /-- CTRL_FRAME_RECEIVE (R217). A CTRL frame updates acknowledgements and credits, or triggers a replay on NAK. -/
  | ctrlFrameReceive (port : PortId) (frame : List Byte) (fec : FecOutcome)
  /-- ACK_TIMER (R217). 100 ns after an unacknowledged acceptance the receiver sends a CTRL frame. -/
  | ackTimer (port : PortId)
  /-- DROPSTITCH_TRIGGER_OFF (R232). TRIGGER 0 disarms fault injection at once. The operands are the other fields
  of DS_CTRL. -/
  | dropstitchTriggerOff (port : PortId) (drop corrupt reorder : BitVec 16) (classes : BitVec 4)
  /-- DROPSTITCH_TRIGGER_NOW (R232). TRIGGER 1 arms injection from the write. The operands are the other fields of
  DS_CTRL. -/
  | dropstitchTriggerNow (port : PortId) (drop corrupt reorder : BitVec 16) (classes : BitVec 4)
  /-- DROPSTITCH_TRIGGER_TICK (R232). TRIGGER 2 arms injection from tick DS_TICK. The operands are the other fields
  of DS_CTRL. -/
  | dropstitchTriggerTick (port : PortId) (drop corrupt reorder : BitVec 16) (classes : BitVec 4)
  /-- DROPSTITCH_SINGLE_SHOT (R232). TRIGGER 3 injects once into the first eligible frame and returns TRIGGER to 0.
  The operands are the other fields of DS_CTRL. -/
  | dropstitchSingleShot (port : PortId) (drop corrupt reorder : BitVec 16) (classes : BitVec 4)
  /-- COLL_ACCEPT (R235). The collectives engine accepts a queued COLL when it has fewer than 8 in progress. -/
  | collAccept (die : DieId)
  /-- COLL_CHUNK_RECEIVE (R482). A collective frame arrives, is added or placed, and the next ring-step frame is
  sent. `src` is the buffer whose first frame that need not wait is taken. -/
  | collChunkReceive (src : FrameSrc)
  /-- COLL_COMPLETE (R250). A collective ends and writes its completion record, raising EXCHANGE_FAULT for failed
  segments. `slot` is the collective's place in the engine; `lost` says that data it waits for has failed at its
  sender. -/
  | collComplete (die : DieId) (slot : Fin 8) (lost : Bool)
  /-- EXCH_ACCEPT (R256). Skein accepts a queued EXCH when it has fewer than 8 in progress. -/
  | exchAccept (die : DieId)
  /-- MANIFEST_RECEIVE (R266). A manifest arrives, and when all G are held the member places offers and sends
  grants. `src` is the port whose first waiting manifest that need not wait is taken. -/
  | manifestReceive (src : PortId)
  /-- GRANT_RECEIVE (R266). A grant arrives, and the source marks entries and sends token rows. `src` is the port
  whose first waiting grant that need not wait is taken. -/
  | grantReceive (src : PortId)
  /-- ROW_RECEIVE (R268). A token row arrives whole, is written to its buffer row, and FILL advances. `src` is the
  port whose first waiting row frame that need not wait is taken. -/
  | rowReceive (src : PortId)
  /-- RETURN_RECEIVE (R271). A returned row arrives into STAGE, and a token's DST row is written once all its
  returns are in. `src` is the port whose first waiting return frame that need not wait is taken. -/
  | returnReceive (src : PortId)
  /-- DISPATCH_FINISH (R268). All buffers are COMPLETE and all sent rows acknowledged, and the DISPATCH finishes.
  `slot` is the exchange's place in the unit. -/
  | dispatchFinish (die : DieId) (slot : Fin 8)
  /-- EXCH_COMPLETE (R276). An exchange ends and writes its completion record, raising EXCHANGE_FAULT for failed
  segments. `slot` is the exchange's place in the unit; `lost` says that data it waits for has failed at its
  sender. -/
  | exchComplete (die : DieId) (slot : Fin 8) (lost : Bool)
  /-- UPD_ACCEPT (R310). Cirrus accepts a queued UPD, reads the shard table and commit record, and starts FILLING. -/
  | updAccept (die : DieId)
  /-- GRADIENT_HANDOFF (R310). The collectives engine hands a gradient value to Cirrus once an accepted UPD selects
  its block. `slot` is the place of the feeding collective in the die's engine. -/
  | gradientHandoff (die : DieId) (slot : Fin 8)
  /-- BAND_READY (R323). A row band's last value arrives in the staging ring and its blocks run. `slot` is the
  update's place in the unit, `elem` the first element of the band in the shard. -/
  | bandReady (die : DieId) (slot : Fin 16) (elem : Nat)
  /-- BLOCK_WRITTEN (R314). A block's new values are written to the shadow slot, and the record becomes READY after
  the last block. `slot` is the update's place in the unit, `block` the block's place among those it selects. -/
  | blockWritten (die : DieId) (slot : Fin 16) (block : Nat)
  /-- REFRESH_END (R326). A refresh of the working copy and fingerprint ends and fingerprint messages are sent.
  `rec` is the record's place among those the die tracks. -/
  | refreshEnd (die : DieId) (rec : Nat)
  /-- FINGERPRINT_RECEIVE (R329). A fingerprint message arrives, and the member compares once it holds all of them.
  `src` is the port whose first waiting message is taken; `late` says that it has waited for GAUGE_TIMEOUT. -/
  | fingerprintReceive (src : PortId) (late : Bool)
  /-- GAUGE_TIMEOUT_EXPIRY (R329). GAUGE_TIMEOUT passes and the member compares with missing messages. `rec` is the
  record's place among those the die tracks. -/
  | gaugeTimeoutExpiry (die : DieId) (rec : Nat)
  /-- REPAIR_DONE (R330). A repair ends, and the record is refreshed and fingerprinted afresh. `rec` is the
  record's place among those the die tracks; `data` is what the broadcast brought of the source's committed slots
  (none on the source itself); `failed` says that the broadcast failed. -/
  | repairDone (die : DieId) (rec : Nat) (data : Option (List Byte)) (failed : Bool)
  /-- CONTROLLER_STEP (R426). Every 10 µs the die controller plans clocks, voltages and sends AVSBus commands.
  `dieMw` (without Stratus) and `stackMw` (with it) are power in mW; `cores` is each core's energy since the last
  step in µJ, `rest` the die's other energy; `soon` says that the next frame starts within 30 µs. -/
  | controllerStep (die : DieId) (dieMw stackMw : Nat) (cores : List Nat) (rest : Nat) (soon : Bool)
  /-- PACKAGE_STEP (R431). Zenith 0 sets each die's share of the budget. `mw` is the 1 ms average of the package
  power in mW, `mj` the energy since the last step in mJ. -/
  | packageStep (mw mj : Nat)
  /-- AVSBUS_COMMAND_DONE (R430). A regulator confirms or fails a voltage command, with one repeat before
  AVSBUS_ERROR. `status` is what the regulator reports. -/
  | avsbusCommandDone (die : DieId) (ok : Bool) (status : BitVec 32)
  /-- DROOP_DETECT (R432). A droop detector stretches a core's clock within 2 cycles. -/
  | droopDetect (die : DieId)
  /-- VR_ALERT_FALL (R433). VR_ALERT_N_g falls and its domain enters its lowest state within 1 µs. -/
  | vrAlertFall (group : Fin 20)
  /-- VR_ALERT_HOLD_END (R433). VR_ALERT_HOLD after the alert rises, the lowest state ends. -/
  | vrAlertHoldEnd (group : Fin 20)
  /-- BROWNOUT_DIP (R434). A rail group falls below its warning level and its domain enters its lowest state. `mv`
  is the reading in mV. -/
  | brownoutDip (group : Fin 20) (mv : Nat)
  /-- BROWNOUT_HOLD_END (R434). BROWNOUT_HOLD after recovery, the lowest state ends and BROWNOUT is raised. -/
  | brownoutHoldEnd (group : Fin 20)
  /-- RAIL_RESET_LEVEL (R422). A rail group below its reset level performs a package reset. -/
  | railResetLevel (group : Fin 20)
  /-- SENSOR_READ (R436). Every 100 µs the die sensors are read. `readings` holds the 64 sensors' readings in 0.125
  °C; `stack` the HBM stack's where it was read, and whether it lies in the faster-refresh range. -/
  | sensorRead (die : DieId) (readings : List Int) (stack : Option (Int × Bool))
  /-- SENSOR_CHECK (R437). Every 1 ms sensors are compared with the thermal model, becoming suspect or restored.
  `estimates` holds the thermal model's estimates in 0.125 °C. -/
  | sensorCheck (die : DieId) (estimates : List Int)
  /-- THERMAL_THROTTLE_STEP (R438). Every 1 ms above THROTTLE_TEMP or HBM_LIMIT the clocks drop by 100 MHz. -/
  | thermalThrottleStep (die : DieId)
  /-- REMOTE_CONVERSION (R439). A remote channel converts once per millisecond, raising warnings or faults. -/
  | remoteConversion (channel : Fin 8) (result : RemoteResult)
  /-- THERMAL_TRIP (R441). A privileged comparator trips, THERMTRIP_N falls and all work clocks stop. `reading` is
  the comparator's sensor in 0.125 °C. -/
  | thermalTrip (die : DieId) (reading : Int)
  /-- AGEING_REPLAN (R443). Every 1,000 hours the guard bands and f_age are re-planned. `growth` is the largest
  delay growth of each physical core's monitors in 0.001%. -/
  | ageingReplan (growth : List Nat)
  /-- OPERATING_HOUR (R417). An operating hour passes and a bond self-test may become due. -/
  | operatingHour
  /-- BOND_TEST_GRACE_EXPIRY (R417). A due bond test past its grace raises BOND_TEST_DUE, repeated every 24 hours. -/
  | bondTestGraceExpiry
  /-- VDD_AON_RISE (R396). VDD_AON rises into regulation and performs a package reset. `testEn` is TEST_EN as
  SYS_RESET_N rises; `cool` says that every privileged sensor reads below TRIP_TEMP − 10 °C. -/
  | vddAonRise (testEn cool : Bool)
  /-- SYS_RESET_N_LOW (R396). SYS_RESET_N held low for 1 µs performs a package reset. `testEn` is TEST_EN as
  SYS_RESET_N rises; `cool` says that every privileged sensor reads below TRIP_TEMP − 10 °C. -/
  | sysResetNLow (testEn cool : Bool)
  /-- BOOT_ROM (R401). Stage 1 reads the fuses, sets the grade and chooses and verifies a firmware slot. -/
  | bootRom
  /-- FIRMWARE_START (R400). Stage 2 starts the Zenith firmware, checks the rails, locks PLLs and trains the
  bridges. `rails` has bit g set for a rail group that has not held its range for 1 ms; `order` lists the groups in
  the order they first reached 90%; `bridges` has a bit set for a bridge that does not train; `rate` and `width`
  are those the host link trains to. -/
  | firmwareStart (rails : BitVec 20) (order : List (Fin 20)) (bridges : BitVec 10) (rate width : BitVec 8)
  /-- RAILS_WAITING (R402). One second of waiting for the rails raises RAILS_WAITING once. -/
  | railsWaiting (rails : BitVec 20)
  /-- STRATUS_BRINGUP (R403). Stage 3a runs the bond self-test, repairs and initialises Stratus. -/
  | stratusBringup (die : DieId) (bond : BondResult)
  /-- HBM_BRINGUP (R403). Stage 3b trains, repairs and initialises the HBM stack, retrying once. `fails` lists the
  training step at which each failed attempt failed; `repaired` the fenced pages that found a repair resource. -/
  | hbmBringup (die : DieId) (fails : List Nat) (repaired : List Nat)
  /-- COMPUTE_BRINGUP (R400). Stage 5 enables the compute rails, runs the swatch test and asserts READY. `swatch`
  lists, for each physical core, the units that fail, with the format code of the first failing run: engines 0 to
  4, and 7 for the core's own test. -/
  | computeBringup (swatch : List (List (Nat × Nat)))
  /-- PENDING_SLOT_TIMEOUT (R401). A pending slot that has not reached PREOP in 10 s is abandoned with a package
  reset. -/
  | pendingSlotTimeout
  /-- COMPUTE_RESET_CONTINUE (R411). After refreshes end, units are reset, Stratus initialised, the swatch test
  runs and READY rises. `bond` is the outcome of the bond self-test of each die where one runs; `swatch` is as for
  COMPUTE_BRINGUP. -/
  | computeResetContinue (bond : List BondResult) (swatch : List (List (Nat × Nat)))
  /-- PLL_UNLOCK (R456). A PLL loses lock and its domain's clock is gated. `pll` is the bit of PLL_LOCK; `us` the
  time in which it will relock, 0 if it will not. -/
  | pllUnlock (die : DieId) (pll : Fin 13) (us : Nat)
  /-- PLL_RELOCK (R456). A PLL regains lock and its clock resumes. -/
  | pllRelock (die : DieId) (pll : Fin 13)
  /-- REFCLK_LOSS (R457). A reference clock leaves its limits with the effects of its row. `ref` is 0 PCIE_REFCLK,
  1 SERDES_REFCLK, 2 AON_CLK; `khz` the frequency measured, 0 if absent. -/
  | refclkLoss (ref : Fin 3) (khz : Nat)
  /-- CROSSING_TIMEOUT (R454). An access waiting 40 µs for a stopped clock completes with all ones or is discarded.
  `req` is 0 the host, 1 to 8 a Zenith core, 9 to 16 a debug block; `half` says that a half of 4 bytes is accessed. -/
  | crossingTimeout (req : Fin 17) (write half : Bool) (offset : BitVec 28)
  /-- CROSS_INFO_CLEAR (R459). Writing 1 to CROSS_TIMEOUT clears CROSS_INFO. -/
  | crossInfoClear (die : DieId)
  /-- VR_ALERT_RISE (R433). VR_ALERT_N_g rises, unfiltered, and the VR_ALERT_HOLD countdown of the group's lowest
  state begins. -/
  | vrAlertRise (group : Fin 20)
  /-- RAIL_ABOVE_WARNING_LEVEL (R434). A rail group in brown-out rises back above its warning level, and the
  BROWNOUT_HOLD countdown begins. `mv` is the lowest reading of the dip, `us` the time below the level. -/
  | railAboveWarningLevel (group : Fin 20) (mv us : Nat)
  /-- REFCLK_RETURN (R457). A lost PCIE_REFCLK or SERDES_REFCLK returns within limits, so the host link retrains
  and the fed PLLs and ports can relock and retrain. `rate` and `width` are those the host link trains to. -/
  | refclkReturn (ref : Fin 2) (rate width : BitVec 8)
  /-- VDD_AON_LOSS (R398). VDD_AON is lost, ending all work and clearing the always-on state (fenced-page tables,
  hour counters, ageing record). -/
  | vddAonLoss
  /-- EXPORT_RECORD_DONE (R297). One export record has been read from the committed slot and written, and the
  export either goes on to the next record or completes. -/
  | exportRecordDone
  /-- FUSE_UPDATE (R374). A fuse update raises the revocation epoch (or another fused value), invalidating licences
  at the next entry into PREOP and changing measurement 3 at the next package reset. `epoch` and `rollback` are the
  values the fuses hold after the update. -/
  | fuseUpdate (epoch : BitVec 32) (rollback : BitVec 16)
  deriving DecidableEq, Repr

end Sys2Proof
end

