-- ==== Sys2Proof/Decode.lean ====
section
/-!
DEFINITION. Decode.lean: the opcodes that 04 Table 4.2 assigns, and the commands that words of the opcode table spell. The
table gives none of its rows any bits, so no word spells a command (notes/assumptions/1.md).
-/
namespace Sys2Proof

/-- Is a major opcode assigned (04 Table 4.2); every other one forms class X and traps. -/
def assignedOp (op : Nat) : Bool :=
  (0x01 ≤ op && op ≤ 0x11) || (0x20 ≤ op && op ≤ 0x23) || (0x30 ≤ op && op ≤ 0x33) || op == 0x40 || op == 0x41
    || op == 0x50 || op == 0x51 || (0x58 ≤ op && op ≤ 0x5D) || op == 0x60

/-- The command that a word of `nbits` bits spells: none, since spec/opcode_table.json gives no row a field. -/
def decodeTableWord (_nbits _w : Nat) : Option Instr := none

end Sys2Proof
end

