-- ==== Sys2Proof/Machine/Kv.lean ====
section
/-!
DEFINITION. Machine/Kv.lean: sparse tables and memories. A table is a list of (key, value) pairs in one canonical form:
keys strictly rising and no value equal to what an unlisted key reads as. Memory (`List Host.Cell`) is one such table.
-/
namespace Sys2Proof

/-- A sparse table from numbers to values. -/
abbrev Kv (α : Type) := List (Nat × α)

variable {α : Type}

/-- The value at key `a`; `d` is what an unlisted key reads as. -/
def kvGet (d : α) : Kv α → Nat → α
  | [], _ => d
  | (k, v) :: m, a => if k = a then v else kvGet d m a

/-- The table without key `a`. -/
def kvDel (m : Kv α) (a : Nat) : Kv α := m.filter (fun c => c.1 != a)

/-- The table with `(a, v)` put before the first larger key. -/
def kvIns : Kv α → Nat → α → Kv α
  | [], a, v => [(a, v)]
  | (k, w) :: m, a, v => if a < k then (a, v) :: (k, w) :: m else (k, w) :: kvIns m a v

/-- The table with key `a` reading `v`; writing the default removes the entry. -/
def kvSet [DecidableEq α] (d : α) (m : Kv α) (a : Nat) (v : α) : Kv α :=
  if v = d then kvDel m a else kvIns (kvDel m a) a v

/-- The table with key `a` updated by `f`. -/
def kvMod [DecidableEq α] (d : α) (m : Kv α) (a : Nat) (f : α → α) : Kv α :=
  kvSet d m a (f (kvGet d m a))

/-- The table without the keys in `[lo, lo + n)`. -/
def kvClear (m : Kv α) (lo n : Nat) : Kv α := m.filter (fun c => !(lo ≤ c.1 && c.1 < lo + n))

/-- The entries with keys in `[lo, lo + n)`. -/
def kvRange (m : Kv α) (lo n : Nat) : Kv α := m.filter (fun c => lo ≤ c.1 && c.1 < lo + n)

/-- Consecutive keys from `a` set to the listed values. -/
def kvSetList [DecidableEq α] (d : α) : Kv α → Nat → List α → Kv α
  | m, _, [] => m
  | m, a, v :: vs => kvSetList d (kvSet d m a v) (a + 1) vs

/-- Every key strictly rising. -/
def kvSorted : Kv α → Bool
  | [] => true
  | [_] => true
  | (k, _) :: (k', v') :: m => k < k' && kvSorted ((k', v') :: m)

/-- The canonical form: keys strictly rising and no entry equal to the default. -/
def kvWf [DecidableEq α] (d : α) (m : Kv α) : Bool := kvSorted m && m.all (fun c => c.2 != d)

/-- The bytes `[a, a + n)` of a memory whose unlisted bytes read as 0. -/
def memRead (m : List Host.Cell) (a n : Nat) : List Byte := (List.range n).map fun i => kvGet 0#8 m (a + i)

/-- One byte of a memory written. -/
def memSet (m : List Host.Cell) (a : Nat) (b : Byte) : List Host.Cell := kvSet 0#8 m a b

/-- Consecutive bytes of a memory written from address `a`. -/
def memWrite (m : List Host.Cell) (a : Nat) (bs : List Byte) : List Host.Cell := kvSetList 0#8 m a bs

/-- The canonical form of a memory. -/
def memWf (m : List Host.Cell) : Bool := kvWf 0#8 m

end Sys2Proof
end

