-- ==== Sys2Proof/Machine/Bits.lean ====
section
/-!
DEFINITION. Machine/Bits.lean: bit fields, sign extension, little-endian byte order, rounding divisions and the other
plain helpers that every chapter of the specification uses.
-/
namespace Sys2Proof

/-- Bits `[lo + w - 1 : lo]` of a number. -/
def fld (x lo w : Nat) : Nat := x / 2 ^ lo % 2 ^ w

/-- Bit `i` of a number. -/
def bitAt (x i : Nat) : Bool := x / 2 ^ i % 2 == 1

/-- The number `x` with bits `[lo + w - 1 : lo]` replaced by the low `w` bits of `v`. -/
def setFld (x lo w v : Nat) : Nat :=
  x / 2 ^ (lo + w) * 2 ^ (lo + w) + v % 2 ^ w * 2 ^ lo + x % 2 ^ lo

/-- The number with bit `i` set to `b`. -/
def setBitAt (x i : Nat) (b : Bool) : Nat := setFld x i 1 b.toNat

/-- The low `w` bits of `x` as a two's complement number. -/
def sgn (w x : Nat) : Int :=
  let y := x % 2 ^ w
  if y < 2 ^ (w - 1) then (y : Int) else (y : Int) - (2 ^ w : Nat)

/-- A number reduced into `w` bits of two's complement. -/
def unsgn (w : Nat) (i : Int) : Nat := (i % (2 ^ w : Nat)).toNat

/-- Division rounded up; 0 when the divisor is 0. -/
def cdiv (a b : Nat) : Nat := if b = 0 then 0 else (a + b - 1) / b

/-- `a` rounded up to a multiple of `b`. -/
def roundUp (a b : Nat) : Nat := cdiv a b * b

/-- A number from its bytes, least significant first. -/
def leNat : List Byte → Nat
  | [] => 0
  | b :: bs => b.toNat + 256 * leNat bs

/-- The `n` low bytes of a number, least significant first. -/
def leBytes : Nat → Nat → List Byte
  | 0, _ => []
  | n + 1, x => BitVec.ofNat 8 x :: leBytes n (x / 256)

/-- Bytes `[off, off + n)` of a byte list, zero beyond its end. -/
def bytesAt (bs : List Byte) (off n : Nat) : List Byte := (List.range n).map fun i => bs.getD (off + i) 0#8

/-- The little-endian number of `n` bytes at `off` of a byte list. -/
def leAt (bs : List Byte) (off n : Nat) : Nat := leNat (bytesAt bs off n)

/-- A byte list padded with zeros or cut to `n` bytes. -/
def fitBytes (n : Nat) (bs : List Byte) : List Byte := bytesAt bs 0 n

/-- Is every byte of the list zero. -/
def allZero (bs : List Byte) : Bool := bs.all (· == 0#8)

/-- The number of one bits among the low `n` bits. -/
def popBits : Nat → Nat → Nat
  | 0, _ => 0
  | n + 1, x => x % 2 + popBits n (x / 2)

/-- The positions of the one bits among the low `n` bits, ascending. -/
def onesOf (n x : Nat) : List Nat := (List.range n).filter fun i => bitAt x i

/-- The distance from `b` forward to `a` modulo `2 ^ w`. -/
def distMod (w a b : Nat) : Nat := (a + (2 ^ w - b % 2 ^ w)) % 2 ^ w

/-- Serial comparison of wrapping numbers: `a` precedes `b` (02 R43). -/
def precedes (w a b : Nat) : Bool := a % 2 ^ w != b % 2 ^ w && distMod w b a < 2 ^ (w - 1)

/-- Is `n` a power of two. -/
def isPow2 (n : Nat) : Bool := n != 0 && 2 ^ n.log2 == n

/-- The list with position `i` replaced by `f` of it; unchanged when there is no position `i`. -/
def modAt {α : Type} (l : List α) (i : Nat) (f : α → α) : List α :=
  match l, i with
  | [], _ => []
  | x :: xs, 0 => f x :: xs
  | x :: xs, i + 1 => x :: modAt xs i f

/-- The first position of the list that meets `p`. -/
def indexOf? {α : Type} (p : α → Bool) : List α → Option Nat
  | [] => none
  | x :: xs => if p x then some 0 else (indexOf? p xs).map (· + 1)

/-- The largest of a list of numbers; 0 of the empty list. -/
def maxOf (l : List Nat) : Nat := l.foldl Nat.max 0

/-- The sum of a list of numbers. -/
def sumOf (l : List Nat) : Nat := l.foldl (· + ·) 0

end Sys2Proof
end

