-- ==== Sys2Proof/Machine/Codes.lean ====
section
/-!
DEFINITION. Machine/Codes.lean: the check codes. Chapter 09: the Reed-Solomon page code over GF(2^10), and the extended
Hamming code of bytes and words. Chapter 02: CRC-32. Chapter 07: zero-run form.
A stored check value is held as its deviation from the code of the stored data, so a deviation of 0 is a valid value and
the syndrome of a read depends on the deviation alone (both codes are linear).
-/
namespace Sys2Proof

/-! ## GF(2^10) (09 R194) -/

/-- Multiplication by α: shift, and reduce by x^10 + x^3 + 1. -/
def gfX (a : Nat) : Nat := if a < 512 then 2 * a else (2 * a) ^^^ 0x409

/-- Multiplication, bit by bit of the second factor. -/
def gfMulGo : Nat → Nat → Nat → Nat
  | 0, _, _ => 0
  | n + 1, a, b => (if b % 2 = 1 then a else 0) ^^^ gfMulGo n (gfX a) (b / 2)

/-- Multiplication in GF(2^10). -/
def gfMul (a b : Nat) : Nat := gfMulGo 10 a b

/-- Powers by repeated squaring of the base. -/
def gfPowGo : Nat → Nat → Nat → Nat
  | 0, _, _ => 1
  | n + 1, a, k => gfMul (if k % 2 = 1 then a else 1) (gfPowGo n (gfMul a a) (k / 2))

/-- `a ^ k` in GF(2^10), for exponents below 2^10. -/
def gfPow (a k : Nat) : Nat := gfPowGo 10 a (k % 1023)

/-- The inverse of a non-zero element. -/
def gfInv (a : Nat) : Nat := gfPow a 1022

/-- Evaluation of a polynomial given from its highest coefficient down. -/
def gfEval (x : Nat) (p : List Nat) : Nat := p.foldl (fun acc c => gfMul acc x ^^^ c) 0

/-- A polynomial (lowest coefficient first) times (x - r). -/
def gfMulRoot (p : List Nat) (r : Nat) : List Nat :=
  List.zipWith (· ^^^ ·) (0 :: p) (p.map (gfMul r) ++ [0])

/-- The generator of strength t, lowest coefficient first (09 R194). -/
def rsGen (t : Nat) : List Nat := (List.range (2 * t)).foldl (fun p i => gfMulRoot p (gfPow 2 i)) [1]

/-- One step of the division by the generator: the remainder register (highest first) takes the next symbol. -/
def rsStep (g : List Nat) (reg : List Nat) (d : Nat) : List Nat :=
  let k := reg.headD 0 ^^^ d
  List.zipWith (fun r c => r ^^^ gfMul k c) (reg.drop 1 ++ [0]) g

/-- The check symbols C_0 to C_(2t-1) of the data symbols D_0 to D_409 (09 R194). -/
def rsEncode (t : Nat) (data : List Nat) : List Nat :=
  let g := (rsGen t).reverse.drop 1
  data.foldl (rsStep g) (List.replicate (2 * t) 0)

/-- A number cut into `n` symbols of 10 bits, the first lowest. -/
def symbols10 : Nat → Nat → List Nat
  | 0, _ => []
  | n + 1, x => x % 1024 :: symbols10 n (x / 1024)

/-- Symbols of 10 bits packed into a number, the first lowest. -/
def packSymbols : List Nat → Nat
  | [] => 0
  | x :: xs => x % 1024 + 1024 * packSymbols xs

/-- The check value of a page's 512 bytes as one number, symbol j at bits 10j (09 R194). -/
def pageCheck (t : Nat) (data : List Byte) : Nat := packSymbols (rsEncode t (symbols10 410 (leNat data)))

/-- The syndromes S_0 to S_(2t-1) of a deviation of the check symbols. -/
def rsSyndromes (t dev : Nat) : List Nat :=
  let c := symbols10 (2 * t) dev
  (List.range (2 * t)).map fun i => gfEval (gfPow 2 i) c

/-- The state of the Berlekamp-Massey iteration: locator, previous locator, its length, shift, last discrepancy. -/
structure BmState where
  c : List Nat
  b : List Nat
  l : Nat
  m : Nat
  d : Nat

/-- Coefficient `i` of a polynomial. -/
def coef (p : List Nat) (i : Nat) : Nat := p.getD i 0

/-- The sum of two polynomials. -/
def gfAddPoly (p q : List Nat) : List Nat :=
  (List.range (max p.length q.length)).map fun i => coef p i ^^^ coef q i

/-- The discrepancy of a locator at position n. -/
def bmDisc (s c : List Nat) (l n : Nat) : Nat :=
  (List.range (l + 1)).foldl (fun acc i => if i ≤ n then acc ^^^ gfMul (coef c i) (coef s (n - i)) else acc) 0

/-- One step of the Berlekamp-Massey iteration. -/
def bmStep (s : List Nat) (st : BmState) (n : Nat) : BmState :=
  let d := bmDisc s st.c st.l n
  if d = 0 then { st with m := st.m + 1 }
  else
    let k := gfMul d (gfInv st.d)
    let c' := gfAddPoly st.c (List.replicate st.m 0 ++ st.b.map (gfMul k))
    if 2 * st.l ≤ n then ⟨c', st.c, n + 1 - st.l, 1, d⟩ else { st with c := c', m := st.m + 1 }

/-- The error locator of the syndromes, lowest coefficient first, with its length. -/
def bmRun (s : List Nat) : BmState := (List.range s.length).foldl (bmStep s) ⟨[1], [1], 0, 1, 1⟩

/-- The error value at locator root X (the inverse of the root), by Forney's formula for syndromes from α^0. -/
def forney (s c : List Nat) (x : Nat) : Nat :=
  let xi := gfInv x
  let om := (List.range s.length).map fun i =>
    (List.range (i + 1)).foldl (fun acc j => acc ^^^ gfMul (coef c j) (coef s (i - j))) 0
  let num := gfEval xi om.reverse
  let der := (List.range c.length).foldl
    (fun acc i => if i % 2 = 1 then acc ^^^ gfMul (coef c i) (gfPow xi (i - 1)) else acc) 0
  gfMul x (gfMul num (gfInv der))

/-- The errors found at the first `n` powers of x: positions (the exponent of x) and values. -/
def rsErrors (s c : List Nat) (n : Nat) : List (Nat × Nat) :=
  ((List.range n).filter fun p => gfEval (gfInv (gfPow 2 p)) c.reverse == 0).map fun p => (p, forney s c (gfPow 2 p))

/-- What a page read finds from the deviation of its check symbols: the errors as (power of x, value), where powers
below 2t are check symbols; none when more than t symbols are in error (09 R195). -/
def rsDecode (t dev : Nat) : Option (List (Nat × Nat)) :=
  let s := rsSyndromes t dev
  if s.all (· == 0) then some []
  else
    let st := bmRun s
    if t < st.l then none
    else
      let es := rsErrors s (st.c.take (st.l + 1)) (2 * t + 410)
      if es.length = st.l && es.all (fun e => e.2 != 0 && (e.1 != 2 * t || e.2 < 64)) then some es else none

/-- The bits of a page's data that the errors invert, as one number (data symbol i has power 2t + 409 - i). -/
def rsDataMask (t : Nat) (es : List (Nat × Nat)) : Nat :=
  es.foldl (fun acc e => if e.1 < 2 * t then acc else acc ^^^ e.2 * 2 ^ (10 * (2 * t + 409 - e.1))) 0

/-- Check bytes per page of a strength. -/
def pageCheckBytes (t : Nat) : Nat := 5 * t / 2

/-! ## The byte and word codes (09 R196, R197) -/

/-- The positions of the data bits: the numbers from 1 that are not powers of two. -/
def hamPos (m r : Nat) : List Nat := ((List.range (m + r)).map (· + 1)).filter (fun p => !isPow2 p) |>.take m

/-- The parity of the bits of a number of `n` bits. -/
def parityOf (n x : Nat) : Nat := popBits n x % 2

/-- Check bit i: the parity of the data bits whose position has bit i. -/
def hamBit (m r d i : Nat) : Nat :=
  ((hamPos m r).zipIdx.foldl (fun acc p => if bitAt p.1 i then acc + fld d p.2 1 else acc) 0) % 2

/-- The check value of `m` data bits (09 R196). -/
def hamCheck (m r d : Nat) : Nat :=
  let c := (List.range r).foldl (fun acc i => acc + hamBit m r d i * 2 ^ i) 0
  c + (popBits m d + popBits r c) % 2 * 2 ^ r

/-- The check value of a byte. -/
def byteCheck (d : Nat) : Nat := hamCheck 8 4 d

/-- The check value of a word. -/
def wordCheck (d : Nat) : Nat := hamCheck 32 6 d

/-- The outcomes of a read (09 Tables 9.2 and 9.3). -/
inductive ReadOut where
  | clean
  | corrected (mask : Nat)
  | checkOnly
  | uncorrectable
  | poisoned
  deriving DecidableEq, Repr

/-- What a read of `m` data bits finds from the deviation of its `r + 1` check bits (09 Table 9.3). The parity over
data and check is even for a valid value, so the parity of the deviation is p. -/
def hamDecode (m r dev : Nat) : ReadOut :=
  let s := fld dev 0 r
  let p := parityOf (r + 1) dev
  if s = 0 then (if p = 0 then .clean else .checkOnly)
  else if p = 0 then .uncorrectable
  else if isPow2 s then .checkOnly
  else match indexOf? (· == s) (hamPos m r) with
    | some k => .corrected (2 ^ k)
    | none => .uncorrectable

/-- A word or byte read: poison form first (data 0 and every check bit set), then the code (09 R198). -/
def hamRead (m r data dev : Nat) : ReadOut :=
  if data = 0 && dev = 2 ^ (r + 1) - 1 then .poisoned else hamDecode m r dev

/-- A page read: poison form first, then the code (09 R195). -/
def pageRead (t : Nat) (zeroData : Bool) (dev : Nat) : ReadOut :=
  if dev = 0 then .clean
  else if zeroData && dev = 2 ^ (20 * t) - 1 then .poisoned
  else match rsDecode t dev with
    | none => .uncorrectable
    | some es => if rsDataMask t es = 0 then .checkOnly else .corrected (rsDataMask t es)

/-! ## CRC-32 of IEEE 802.3 (02 R31) -/

/-- Eight shifts of the reflected register. -/
def crcShift : Nat → BitVec 32 → BitVec 32
  | 0, c => c
  | n + 1, c => crcShift n (if c.getLsbD 0 then (c >>> 1) ^^^ 0xEDB88320#32 else c >>> 1)

/-- One byte into the register. -/
def crcByte (c : BitVec 32) (b : Byte) : BitVec 32 := crcShift 8 (c ^^^ b.zeroExtend 32)

/-- The CRC-32 of a list of bytes. -/
def crc32 (bs : List Byte) : Nat := (~~~ (bs.foldl crcByte 0xFFFFFFFF#32)).toNat

/-! ## Zero-run form (07 R152) -/

/-- The words of a chunk of 256 bytes that are not zero words. -/
def zrMask (chunk : List Byte) : Nat :=
  (List.range 64).foldl (fun acc i => if allZero (bytesAt chunk (4 * i) 4) then acc else acc + 2 ^ i) 0

/-- A chunk of 256 bytes encoded (07 Table 7.8). -/
def zrChunk (chunk : List Byte) : List Byte :=
  let m := zrMask chunk
  leBytes 8 m ++ ((onesOf 64 m).map fun i => bytesAt chunk (4 * i) 4).flatten

/-- A row encoded: its chunks one after another. -/
def zrRow (raw : List Byte) : List Byte :=
  ((List.range (cdiv raw.length 256)).map fun c => zrChunk (bytesAt raw (256 * c) 256)).flatten

/-- The bytes that row space takes (07 R154). -/
def zrSpace (raw : Nat) : Nat := cdiv raw 256 * 264

/-- One chunk decoded from the front of the bytes: its 256 raw bytes, and the bytes it took. -/
def zrUnchunk (bs : List Byte) : List Byte × Nat :=
  let m := leAt bs 0 8
  let go := (List.range 64).foldl (fun (acc : List (List Byte) × Nat) i =>
    if bitAt m i then (acc.1 ++ [bytesAt bs acc.2 4], acc.2 + 4) else (acc.1 ++ [[0#8, 0#8, 0#8, 0#8]], acc.2))
    ([], 8)
  (go.1.flatten, go.2)

/-- `n` chunks decoded one after another. -/
def zrUnrow : Nat → List Byte → List Byte
  | 0, _ => []
  | n + 1, bs => let c := zrUnchunk bs; c.1 ++ zrUnrow n (bs.drop c.2)

/-- A row of `raw` bytes expanded from its encoded bytes; words beyond the row are discarded (07 R153). -/
def zrExpand (raw : Nat) (bs : List Byte) : List Byte := fitBytes raw (zrUnrow (cdiv raw 256) bs)

/-- How many encoded bytes the row's `n` chunks take. -/
def zrLength : Nat → List Byte → Nat
  | 0, _ => 0
  | n + 1, bs => let k := 8 + 4 * popBits 64 (leAt bs 0 8); k + zrLength n (bs.drop k)

end Sys2Proof
end

