-- ==== Sys2Proof/Config.lean ====
section
/-!
DEFINITION. Config.lean: what an implementation fixes and the free values. A free value is an opaque constant: no
proof can see it, and a statement about it holds whatever it is.
-/
namespace Sys2Proof

/-- The value of the n-th open choice of a run: a value the specification does not state. -/
opaque Config.freeValue : Nat → Nat

/-- The voltage in mV that the fused table of a die gives for a clock in MHz (19 R429). -/
opaque Config.fusedMv : Nat → Nat → Nat

/-- SHA-384 of a list of bytes, as a number of 384 bits (16 R376). -/
opaque Config.sha384 : List Byte → Nat

/-- Does the ECDSA P-384 signature of a record or a firmware slot verify under the key fused for it (16 R370, R372). -/
opaque Config.signed : List Byte → Bool

/-- DEVICE_UID, SERIAL and the bytes of the boot ROM: fixed for a part (16 R378, R376). -/
opaque Config.deviceUid : Nat

/-- SERIAL of the part, up to 32 characters (16 R378). -/
opaque Config.serial : List Byte

/-- The digest of the boot ROM of this stepping (16 R376). -/
opaque Config.romDigest : Nat

/-- The sensor map that the firmware holds (16 R363, R378). -/
opaque Config.sensorMap : List Byte

/-- The size of the flash that JESD216 discovery finds (16 R378). -/
opaque Config.flashBytes : Nat

/-- The digest of the signed bytes that a firmware slot holds before any update (16 R376). -/
opaque Config.slotDigest : Nat → Nat

/-- The device identity chain of certificate slot 0 (16 R375). -/
opaque Config.certChain : List Byte

end Sys2Proof
end

