-- ==== Sys2Proof/Machine/Formats.lean ====
section
/-!
DEFINITION. Machine/Formats.lean: the number formats of chapter 05. Values are exact (a NaN, an infinity, or a signed
dyadic), every rounding is one named operation, and FP32 arithmetic is exact arithmetic rounded once.
-/
namespace Sys2Proof

/-- An exact value: the sign is kept on zeros. `fin neg m e` is `(-1)^neg * m * 2^e`. -/
inductive Val where
  | nan
  | inf (neg : Bool)
  | fin (neg : Bool) (m : Nat) (e : Int)
  deriving DecidableEq, Repr

/-- Positive zero. -/
def vZero : Val := .fin false 0 0

/-- The value 1. -/
def vOne : Val := .fin false 1 0

/-- The element formats of Table 5.1. -/
inductive Elem where
  | fp32 | fp16 | bf16 | e4m3 | e5m2 | e3m2 | e2m3 | e2m1 | int8 | int4 | int32
  deriving DecidableEq, Repr

/-- A format: an element format, with E8M0 block scales or without (05 R105). -/
structure Format where
  elem : Elem
  mx : Bool
  deriving DecidableEq, Repr

/-- Table 5.1: the format of a FORMAT code; none for a reserved code (05 R105). -/
def formatOf (code : Nat) : Option Format :=
  match code with
  | 0x01 => some ⟨.fp32, false⟩
  | 0x02 => some ⟨.fp16, false⟩
  | 0x03 => some ⟨.bf16, false⟩
  | 0x04 => some ⟨.e4m3, false⟩
  | 0x05 => some ⟨.e5m2, false⟩
  | 0x06 => some ⟨.e3m2, false⟩
  | 0x07 => some ⟨.e2m3, false⟩
  | 0x08 => some ⟨.e2m1, false⟩
  | 0x09 => some ⟨.int8, false⟩
  | 0x0A => some ⟨.int4, false⟩
  | 0x0B => some ⟨.int32, false⟩
  | 0x10 => some ⟨.e4m3, true⟩
  | 0x11 => some ⟨.e5m2, true⟩
  | 0x12 => some ⟨.e3m2, true⟩
  | 0x13 => some ⟨.e2m3, true⟩
  | 0x14 => some ⟨.e2m1, true⟩
  | 0x15 => some ⟨.int8, true⟩
  | _ => none

/-- Bits per element (Table 5.1). -/
def Elem.width : Elem → Nat
  | .fp32 => 32 | .int32 => 32 | .fp16 => 16 | .bf16 => 16 | .e4m3 => 8 | .e5m2 => 8
  | .int8 => 8 | .e3m2 => 6 | .e2m3 => 6 | .e2m1 => 4 | .int4 => 4

/-- The rate factor r of the format's matrix rate class (Table 6.1); none where the format has no class. -/
def Format.rate (f : Format) : Option Nat :=
  match f.elem with
  | .fp16 => some 1 | .bf16 => some 1
  | .e4m3 => some 2 | .e5m2 => some 2 | .int8 => some 2
  | .e3m2 => some 4 | .e2m3 => some 4 | .e2m1 => some 4 | .int4 => some 4
  | .fp32 => none | .int32 => none

/-- Is the element format an integer format (05 R107). -/
def Elem.isInt : Elem → Bool
  | .int8 => true | .int4 => true | .int32 => true
  | .fp32 => false | .fp16 => false | .bf16 => false | .e4m3 => false | .e5m2 => false
  | .e3m2 => false | .e2m3 => false | .e2m1 => false

/-- The bytes a row of `c` elements occupies (05 R108, R109). -/
def rowBytes (f : Format) (c : Nat) : Nat :=
  if f.mx then cdiv c 32 * 4 * f.elem.width + 4 * cdiv (cdiv c 32) 4 else cdiv (c * f.elem.width) 8

/-! ## Layouts (05 R106) -/

/-- How a float format ends its range: IEEE infinities and NaNs, one NaN code only, or no special code (Table 5.2). -/
inductive Special where
  | ieee | nanOnly | none
  deriving DecidableEq, Repr

/-- The fields of Table 5.2. -/
structure Layout where
  e : Nat
  m : Nat
  bias : Nat
  special : Special
  deriving DecidableEq, Repr

/-- Table 5.2; integer formats have no layout. -/
def Elem.layout : Elem → Option Layout
  | .fp32 => some ⟨8, 23, 127, .ieee⟩
  | .fp16 => some ⟨5, 10, 15, .ieee⟩
  | .bf16 => some ⟨8, 7, 127, .ieee⟩
  | .e5m2 => some ⟨5, 2, 15, .ieee⟩
  | .e4m3 => some ⟨4, 3, 7, .nanOnly⟩
  | .e3m2 => some ⟨3, 2, 3, .none⟩
  | .e2m3 => some ⟨2, 3, 1, .none⟩
  | .e2m1 => some ⟨2, 1, 1, .none⟩
  | .int8 => Option.none
  | .int4 => Option.none
  | .int32 => Option.none

/-- The layout of FP32. -/
def layFp32 : Layout := ⟨8, 23, 127, .ieee⟩

/-- The value of an encoding under a layout (05 R106). -/
def decodeLayout (l : Layout) (x : Nat) : Val :=
  let s := bitAt x (l.e + l.m)
  let ex := fld x l.m l.e
  let ma := fld x 0 l.m
  if l.special == .ieee && ex == 2 ^ l.e - 1 then (if ma == 0 then .inf s else .nan)
  else if l.special == .nanOnly && ex == 2 ^ l.e - 1 && ma == 2 ^ l.m - 1 then .nan
  else if ex == 0 then .fin s ma (1 - (l.bias : Int) - l.m)
  else .fin s (2 ^ l.m + ma) ((ex : Int) - l.bias - l.m)

/-- The exact value of an element's bits, before any block scale (05 R106, R107). -/
def decodeElem (f : Format) (x : Nat) : Val :=
  match f.elem.layout with
  | some l => decodeLayout l x
  | none =>
    let i := sgn f.elem.width x
    .fin (i < 0) i.natAbs (if f.mx then -6 else 0)

/-- Multiplication of a value by a power of two, exact. -/
def Val.shift (v : Val) (k : Int) : Val :=
  match v with
  | .fin s m e => .fin s m (e + k)
  | .nan => .nan
  | .inf s => .inf s

/-- The value of an element under its E8M0 scale byte (05 R110). -/
def applyScale (v : Val) (x : Nat) : Val := if x = 255 then .nan else v.shift ((x : Int) - 127)

/-! ## Exact arithmetic -/

/-- The sign of a value. -/
def Val.neg : Val → Bool
  | .nan => false
  | .inf s => s
  | .fin s _ _ => s

/-- The value with its sign flipped; NaN stays NaN. -/
def Val.negate : Val → Val
  | .nan => .nan
  | .inf s => .inf (!s)
  | .fin s m e => .fin (!s) m e

/-- The value with its sign cleared. -/
def Val.abs : Val → Val
  | .nan => .nan
  | .inf _ => .inf false
  | .fin _ m e => .fin false m e

/-- Is the value NaN. -/
def Val.isNan : Val → Bool
  | .nan => true | .inf _ => false | .fin _ _ _ => false

/-- Is the value a number. -/
def Val.isFin : Val → Bool
  | .nan => false | .inf _ => false | .fin _ _ _ => true

/-- Is the value a zero. -/
def Val.isZero : Val → Bool
  | .nan => false | .inf _ => false | .fin _ m _ => m == 0

/-- The signed numerator of a number over `2 ^ -e`, for `e` at most its own exponent. -/
def scaledInt (s : Bool) (m : Nat) (e e0 : Int) : Int :=
  let k : Int := (m * 2 ^ (e - e0).toNat : Nat)
  if s then -k else k

/-- Exact addition: a sum of zeros is -0 only when both are -0, and any other exact zero is +0. -/
def Val.add : Val → Val → Val
  | .nan, _ => .nan
  | _, .nan => .nan
  | .inf s, .inf t => if s = t then .inf s else .nan
  | .inf s, .fin _ _ _ => .inf s
  | .fin _ _ _, .inf t => .inf t
  | .fin s m e, .fin t n g =>
    if m = 0 && n = 0 then .fin (s && t) 0 0
    else
      let e0 := min e g
      let k := scaledInt s m e e0 + scaledInt t n g e0
      .fin (k < 0) k.natAbs e0

/-- Exact multiplication. -/
def Val.mul : Val → Val → Val
  | .nan, _ => .nan
  | _, .nan => .nan
  | .inf s, .inf t => .inf (s != t)
  | .inf s, .fin t n _ => if n = 0 then .nan else .inf (s != t)
  | .fin s m _, .inf t => if m = 0 then .nan else .inf (s != t)
  | .fin s m e, .fin t n g => .fin (s != t) (m * n) (e + g)

/-- Exact comparison of two numbers or infinities, with -0 equal to +0; false where either is NaN. -/
def Val.lt : Val → Val → Bool
  | .nan, _ => false
  | _, .nan => false
  | .inf s, .inf t => s && !t
  | .inf s, .fin _ _ _ => s
  | .fin _ _ _, .inf t => !t
  | .fin s m e, .fin t n g => let e0 := min e g; scaledInt s m e e0 < scaledInt t n g e0

/-- Equality of values as numbers; false where either is NaN. -/
def Val.eq (a b : Val) : Bool := !a.isNan && !b.isNan && !a.lt b && !b.lt a

/-- The order that places -0 below +0 (04 Table 4.4, 05 R113). -/
def Val.ltZ (a b : Val) : Bool := a.lt b || (a.isZero && b.isZero && a.neg && !b.neg)

/-! ## Rounding (05 R115, R116) -/

/-- The rounding modes of 05 R113; `sr` carries the 16 random bits u. -/
inductive RMode where
  | rne
  | rtz
  | sr (u : Nat)
  deriving DecidableEq, Repr

/-- `num / den * 2 ^ e` rounded to a whole number of `2 ^ q` (05 R116). -/
def roundQ (mode : RMode) (num den : Nat) (e q : Int) : Nat :=
  let a := num * 2 ^ (e - q).toNat
  let b := den * 2 ^ (q - e).toNat
  let n := a / b
  let r := a % b
  match mode with
  | .rne => if 2 * r > b || (2 * r == b && n % 2 == 1) then n + 1 else n
  | .rtz => n
  | .sr u => if r * 65536 / b > u then n + 1 else n

/-- The floor of the base-2 logarithm of the positive ratio `num / den`. -/
def log2Ratio (num den : Nat) : Int :=
  let k : Int := (num.log2 : Int) - den.log2
  if den * 2 ^ k.toNat ≤ num * 2 ^ (-k).toNat then k else k - 1

/-- The floor of the base-2 logarithm of a non-zero number. -/
def Val.log2 : Val → Int
  | .nan => 0
  | .inf _ => 0
  | .fin _ m e => m.log2 + e

/-- The smallest normal exponent of a layout. -/
def Layout.emin (l : Layout) : Int := 1 - (l.bias : Int)

/-- The magnitude bits of the largest finite value of a layout. -/
def Layout.maxBits (l : Layout) : Nat :=
  match l.special with
  | .ieee => (2 ^ l.e - 1) * 2 ^ l.m - 1
  | .nanOnly => 2 ^ (l.e + l.m) - 2
  | .none => 2 ^ (l.e + l.m) - 1

/-- The magnitude bits that encode `n * 2 ^ q`, where `q` is the quantum of 05 R115 (a carry into a new binade
takes that binade's encoding). -/
def encodeMag (l : Layout) (n : Nat) (q : Int) : Nat :=
  let qmin := l.emin - l.m
  ((q - qmin).toNat) * 2 ^ l.m + n

/-- What a conversion gives: the bits, and whether a finite value became an infinity (05 R117). -/
structure Conv where
  bits : Nat
  overflow : Bool
  deriving DecidableEq, Repr

/-- The sign placed above the magnitude bits of a layout. -/
def withSign (l : Layout) (s : Bool) (mag : Nat) : Nat := mag + s.toNat * 2 ^ (l.e + l.m)

/-- The infinity magnitude of a layout, or its largest finite value where it has none (Table 5.4). -/
def Layout.infBits (l : Layout) (sat : Bool) : Nat :=
  if l.special == .ieee && !sat then (2 ^ l.e - 1) * 2 ^ l.m else l.maxBits

/-- The canonical NaN of a layout, or the entry of Table 5.4 (05 R115). -/
def Layout.nanBits (l : Layout) : Nat :=
  match l.special with
  | .ieee => (2 ^ l.e - 1) * 2 ^ l.m + 2 ^ (l.m - 1)
  | .nanOnly => 2 ^ (l.e + l.m) - 1
  | .none => l.maxBits

/-- The positive ratio `num / den * 2 ^ e` of sign `s` converted into a layout (05 R115 to R117). `sat` is set for
the MX elements, which saturate. -/
def roundLayout (l : Layout) (sat : Bool) (mode : RMode) (s : Bool) (num den : Nat) (e : Int) : Conv :=
  if num = 0 then ⟨withSign l s 0, false⟩
  else
    let q := max (log2Ratio num den + e) l.emin - l.m
    let mag := encodeMag l (roundQ mode num den e q) q
    if mag ≤ l.maxBits then ⟨withSign l s mag, false⟩
    else if l.special == .ieee && !sat then
      match mode with
      | .rtz => ⟨withSign l s l.maxBits, false⟩
      | .rne => ⟨withSign l s (l.infBits false), true⟩
      | .sr _ => ⟨withSign l s (l.infBits false), true⟩
    else ⟨withSign l s l.maxBits, false⟩

/-- A value converted into a float layout (05 R115, Table 5.4). -/
def convLayout (l : Layout) (sat : Bool) (mode : RMode) : Val → Conv
  | .nan => ⟨l.nanBits, false⟩
  | .inf s => ⟨withSign l s (l.infBits sat), false⟩
  | .fin s m e => roundLayout l sat mode s m 1 e

/-- A value converted into a two's complement integer of `w` bits and quantum `2 ^ q` (Table 5.4). -/
def convInt (w : Nat) (q : Int) (mode : RMode) : Val → Conv
  | .nan => ⟨0, false⟩
  | .inf s => ⟨if s then 2 ^ (w - 1) else 2 ^ (w - 1) - 1, false⟩
  | .fin s m e =>
    let n := roundQ mode m 1 e q
    ⟨if s then (if 2 ^ (w - 1) < n then 2 ^ (w - 1) else (2 ^ w - n) % 2 ^ w)
      else min n (2 ^ (w - 1) - 1), false⟩

/-- A value converted into an element of a format, its block scale already divided out (05 R115 to R117). -/
def convElem (f : Format) (mode : RMode) (v : Val) : Conv :=
  match f.elem.layout with
  | some l => convLayout l f.mx mode v
  | none => convInt f.elem.width (if f.mx then -6 else 0) mode v

/-! ## FP32 (05 R113) -/

/-- The value of an FP32 bit pattern. -/
def valOf (x : F32) : Val := decodeLayout layFp32 x.toNat

/-- A value rounded to FP32 with round to nearest even. -/
def toF32 (v : Val) : F32 := BitVec.ofNat 32 (convLayout layFp32 false .rne v).bits

/-- The canonical NaN (05 R113). -/
def f32Nan : F32 := 0x7FC00000#32

/-- FP32 one. -/
def f32One : F32 := 0x3F800000#32

/-- A zero of the value's sign when the value is an FP32 subnormal, and the value otherwise (05 R114). -/
def flushF32 (x : F32) : F32 :=
  if fld x.toNat 23 8 = 0 then BitVec.ofNat 32 (fld x.toNat 31 1 * 2 ^ 31) else x

/-- FP32 addition. -/
def fadd (a b : F32) : F32 := toF32 ((valOf a).add (valOf b))

/-- FP32 multiplication. -/
def fmul (a b : F32) : F32 := toF32 ((valOf a).mul (valOf b))

/-- FP32 subtraction. -/
def fsub (a b : F32) : F32 := toF32 ((valOf a).add (valOf b).negate)

/-- FP32 fused multiply-add with one rounding. -/
def ffma (a b c : F32) : F32 := toF32 (((valOf a).mul (valOf b)).add (valOf c))

/-- The addition of 06 R130: round to nearest even, subnormal results flushed. -/
def addFlush (a b : F32) : F32 := flushF32 (fadd a b)

/-- FP32 division, correctly rounded (05 R113). -/
def fdiv (a b : F32) : F32 :=
  match valOf a, valOf b with
  | .nan, _ => f32Nan
  | _, .nan => f32Nan
  | .inf _, .inf _ => f32Nan
  | .inf s, .fin t _ _ => toF32 (.inf (s != t))
  | .fin s _ _, .inf t => toF32 (.fin (s != t) 0 0)
  | .fin s m e, .fin t n g =>
    if n = 0 then (if m = 0 then f32Nan else toF32 (.inf (s != t)))
    else BitVec.ofNat 32 (roundLayout layFp32 false .rne (s != t) m n (e - g)).bits

/-- The minimum of two FP32 values that returns NaN when either is NaN (05 R113). -/
def fminNan (a b : F32) : F32 :=
  if (valOf a).isNan || (valOf b).isNan then f32Nan else if (valOf b).ltZ (valOf a) then b else a

/-- The maximum of two FP32 values that returns NaN when either is NaN (05 R113). -/
def fmaxNan (a b : F32) : F32 :=
  if (valOf a).isNan || (valOf b).isNan then f32Nan else if (valOf a).ltZ (valOf b) then b else a

/-- FMIN of the controller: the other operand when exactly one is NaN (04 Table 4.4). -/
def fminNum (a b : F32) : F32 :=
  if (valOf a).isNan then (if (valOf b).isNan then f32Nan else b)
  else if (valOf b).isNan then a else fminNan a b

/-- FMAX of the controller: the other operand when exactly one is NaN (04 Table 4.4). -/
def fmaxNum (a b : F32) : F32 :=
  if (valOf a).isNan then (if (valOf b).isNan then f32Nan else b)
  else if (valOf b).isNan then a else fmaxNan a b

/-! ## Roots and transcendental functions, correctly rounded (06 R134) -/

/-- The integer square root found bit by bit from `2 ^ (k - 1)` down. -/
def isqrtGo : Nat → Nat → Nat → Nat
  | 0, _, r => r
  | k + 1, x, r => let t := r + 2 ^ k; isqrtGo k x (if t * t ≤ x then t else r)

/-- The integer square root of `x < 2 ^ 512`. -/
def isqrt (x : Nat) : Nat := isqrtGo 256 x 0

/-- A truncated real `n * 2 ^ e` that is not exact, or exact when `exact` holds, rounded to FP32: the sticky bit keeps
the rounding right whenever `n` has more bits than FP32 needs. -/
def stickyF32 (s exact : Bool) (n : Nat) (e : Int) : F32 :=
  if exact then toF32 (.fin s n e) else toF32 (.fin s (2 * n + 1) (e - 1))

/-- RN of the square root of a positive number. -/
def sqrtPos (m : Nat) (e : Int) : F32 :=
  let k := (e + 128) % 2
  let x := m * 2 ^ (128 + k.toNat)
  let r := isqrt x
  stickyF32 false (r * r == x) r ((e - 128 - k) / 2)

/-- RN of the reciprocal square root of a positive number. -/
def rsqrtPos (m : Nat) (e : Int) : F32 :=
  let k := e % 2
  let n := m * 2 ^ k.toNat
  let x := 2 ^ 256 / n
  let r := isqrt x
  stickyF32 false (r * r * n == 2 ^ 256) r (-128 - (e - k) / 2)

/-- Fractional bits of the fixed-point evaluation. -/
def fxP : Nat := 352

/-- The natural logarithm of 2 in fixed point. -/
def fxLn2 : Nat :=
  0xb17217f7d1cf79abc9e3b39803f2f6af40f343267298b62d8a0d175b8baafa2be7b876206debac98559552fb

/-- π in fixed point. -/
def fxPi : Nat :=
  0x3243f6a8885a308d313198a2e03707344a4093822299f31d0082efa98ec4e6c89452821e638d01377be5466cf

/-- The sum of `z ^ i / i!` for a fixed-point `z`, term by term. -/
def fxExpGo : Nat → Nat → Nat → Nat → Nat → Nat
  | 0, _, _, _, acc => acc
  | k + 1, i, z, t, acc => let t' := t * z / (i * 2 ^ fxP); fxExpGo k (i + 1) z t' (acc + t')

/-- `exp z` in fixed point for `0 ≤ z < 1`. -/
def fxExp (z : Nat) : Nat := fxExpGo 90 1 z (2 ^ fxP) (2 ^ fxP)

/-- The alternating series of sine (from `t = z`, `i = 1`) or cosine (from `t = 1`, `i = 0`). -/
def fxTrigGo : Nat → Nat → Nat → Int → Int → Int
  | 0, _, _, _, acc => acc
  | k + 1, i, z, t, acc =>
    let t' := -(t * z * z / ((i + 1) * (i + 2) * 2 ^ (2 * fxP) : Nat))
    fxTrigGo k (i + 2) z t' (acc + t')

/-- The series of the inverse hyperbolic tangent. -/
def fxAtanhGo : Nat → Nat → Nat → Nat → Nat → Nat
  | 0, _, _, _, acc => acc
  | k + 1, i, z, t, acc => let t' := t * z * z / 2 ^ (2 * fxP); fxAtanhGo k (i + 2) z t' (acc + t' / (i + 2))

/-- A number as a fixed-point integer, rounded down. -/
def fxOf (s : Bool) (m : Nat) (e : Int) : Int :=
  let n : Int := (m * 2 ^ (e + fxP).toNat : Nat)
  let d : Int := (2 ^ (-(e + fxP)).toNat : Nat)
  (if s then -n else n) / d

/-- RN(2 ^ y) of a number `y`; |y| beyond 4096 overflows or vanishes. -/
def exp2Fin (s : Bool) (m : Nat) (e : Int) : F32 :=
  if m = 0 then f32One
  else if (Val.fin false 4096 0).lt (.fin false m e) then (if s then 0#32 else toF32 (.inf false))
  else
    let y := fxOf s m e
    let n := y / (2 ^ fxP : Nat)
    let f := (y % (2 ^ fxP : Nat)).toNat
    stickyF32 false (e ≥ 0 || m % 2 ^ (-e).toNat == 0) (fxExp (f * fxLn2 / 2 ^ fxP)) (n - fxP)

/-- RN(log2 x) of a positive number. -/
def log2Pos (m : Nat) (e : Int) : F32 :=
  let k := m.log2
  let z := (m - 2 ^ k) * 2 ^ fxP / (m + 2 ^ k)
  let ln := 2 * fxAtanhGo 120 1 z z z
  let i : Int := ((k : Int) + e) * (2 ^ fxP : Nat) + (ln * 2 ^ fxP / fxLn2 : Nat)
  stickyF32 (i < 0) (m == 2 ^ k) i.natAbs (-(fxP : Int))

/-- RN(tanh x) of a number. -/
def tanhFin (s : Bool) (m : Nat) (e : Int) : F32 :=
  if (Val.fin false m e).lt (.fin false 1 (-13)) then toF32 (.fin s m e)
  else if (Val.fin false 16 0).lt (.fin false m e) then toF32 (.fin s 1 0)
  else
    let y := (fxOf false m (e + 1)).toNat
    let n := y / fxLn2
    let t := fxExp (y % fxLn2) * 2 ^ n
    stickyF32 s false ((t - 2 ^ fxP) * 2 ^ fxP / (t + 2 ^ fxP)) (-(fxP : Int))

/-- RN of the sine (`ph = 0`) or cosine (`ph = 1`) of a number: reduced by quarter turns, then by series. -/
def trigFin (ph : Nat) (s : Bool) (m : Nat) (e : Int) : F32 :=
  if ph = 0 && (Val.fin false m e).lt (.fin false 1 (-13)) then toF32 (.fin s m e)
  else
    let y := (fxOf false m e).toNat
    let k := 2 * y / fxPi
    let z := y - k * fxPi / 2
    let q := (k + ph) % 4
    let v := if q % 2 = 0 then fxTrigGo 60 1 z z z else fxTrigGo 60 0 z (2 ^ fxP) (2 ^ fxP)
    let n := (q ≥ 2) != (s && ph == 0)
    stickyF32 ((v < 0) != n) false v.natAbs (-(fxP : Int))

/-- RECIP (06 Table 6.5, Table 6.6). -/
def vRecip (x : F32) : F32 := fdiv f32One x

/-- SQRT. -/
def vSqrt (x : F32) : F32 :=
  match valOf x with
  | .nan => f32Nan
  | .inf s => if s then f32Nan else x
  | .fin s m e => if m = 0 then x else if s then f32Nan else sqrtPos m e

/-- RSQRT. -/
def vRsqrt (x : F32) : F32 :=
  match valOf x with
  | .nan => f32Nan
  | .inf s => if s then f32Nan else 0#32
  | .fin s m e => if m = 0 then toF32 (.inf s) else if s then f32Nan else rsqrtPos m e

/-- EXP2 of an FP32 value. -/
def vExp2 (x : F32) : F32 :=
  match valOf x with
  | .nan => f32Nan
  | .inf s => if s then 0#32 else x
  | .fin s m e => exp2Fin s m e

/-- EXP: EXP2(fl(x × C_E)). -/
def vExp (x : F32) : F32 := vExp2 (fmul x 0x3FB8AA3B#32)

/-- LOG: fl(LOG2(x) × C_L). -/
def vLog (x : F32) : F32 :=
  match valOf x with
  | .nan => f32Nan
  | .inf s => if s then f32Nan else x
  | .fin s m e =>
    if m = 0 then toF32 (.inf true) else if s then f32Nan else fmul (log2Pos m e) 0x3F317218#32

/-- TANH. -/
def vTanh (x : F32) : F32 :=
  match valOf x with
  | .nan => f32Nan
  | .inf s => toF32 (.fin s 1 0)
  | .fin s m e => if m = 0 then x else tanhFin s m e

/-- The FP32 value with its sign flipped (NaN stays the canonical NaN). -/
def fneg (x : F32) : F32 := toF32 (valOf x).negate

/-- SIGMOID: RECIP(fl(1 + EXP(−x))). -/
def vSigmoid (x : F32) : F32 := vRecip (fadd f32One (vExp (fneg x)))

/-- SILU: fl(x × SIGMOID(x)), with Table 6.6 at −∞. -/
def vSilu (x : F32) : F32 :=
  if valOf x = .inf true then 0x80000000#32 else fmul x (vSigmoid x)

/-- GELU in its tanh form, with Table 6.6 at the infinities. -/
def vGelu (x : F32) : F32 :=
  if valOf x = .inf true then 0x80000000#32
  else if valOf x = .inf false then x
  else
    let x3 := fmul (fmul x x) x
    let u := fadd x (fmul 0x3D372713#32 x3)
    let t := vTanh (fmul 0x3F4C422A#32 u)
    fmul (fmul 0x3F000000#32 x) (fadd f32One t)

/-- SIN. -/
def vSin (x : F32) : F32 :=
  match valOf x with
  | .nan => f32Nan
  | .inf _ => f32Nan
  | .fin s m e => if m = 0 then x else trigFin 0 s m e

/-- COS. -/
def vCos (x : F32) : F32 :=
  match valOf x with
  | .nan => f32Nan
  | .inf _ => f32Nan
  | .fin s m e => if m = 0 then f32One else trigFin 1 s m e

/-! ## Rows (05 R108 to R112) -/

/-- A row as read: its bits as one number, and a number whose bit `b` is set when byte `b` lies in a poisoned word. -/
structure Row where
  bits : Nat
  bad : Nat
  deriving DecidableEq, Repr

/-- The raw bits of element `j` of a row. -/
def rowElem (f : Format) (r : Row) (j : Nat) : Nat := fld r.bits (j * f.elem.width) f.elem.width

/-- The byte offset of the block scale bytes of a row of `c` elements (05 R109). -/
def scaleOff (f : Format) (c : Nat) : Nat := cdiv c 32 * 4 * f.elem.width

/-- Does element `j` touch a poisoned word. -/
def rowElemBad (f : Format) (c : Nat) (r : Row) (j : Nat) : Bool :=
  let lo := j * f.elem.width / 8
  let hi := (j * f.elem.width + f.elem.width - 1) / 8
  fld r.bad lo (hi - lo + 1) != 0 || (f.mx && bitAt r.bad (scaleOff f c + j / 32))

/-- Element `j` of a row of `c` elements, exact and with its block scale; a poisoned element is NaN (09 R200). -/
def rowVal (f : Format) (c : Nat) (r : Row) (j : Nat) : Val :=
  if rowElemBad f c r j then .nan
  else
    let v := decodeElem f (rowElem f r j)
    if f.mx then applyScale v (fld r.bits (8 * (scaleOff f c + j / 32)) 8) else v

/-- Element `j` of a row as the FP32 value the vector unit computes with (05 R110, 04 R88). -/
def rowF32 (f : Format) (c : Nat) (r : Row) (j : Nat) : F32 := toF32 (rowVal f c r j)

/-- EMAX of 05 R112. -/
def Elem.emax : Elem → Int
  | .e4m3 => 8 | .e5m2 => 15 | .e3m2 => 4 | .e2m3 => 2 | .e2m1 => 2 | .int8 => 0
  | .fp32 => 0 | .fp16 => 0 | .bf16 => 0 | .int4 => 0 | .int32 => 0

/-- The larger of two magnitudes. -/
def absMax (a b : Val) : Val := if a.lt b.abs then b.abs else a

/-- The E8M0 scale of a block of FP32 values (05 R112). -/
def blockScale (el : Elem) (vs : List Val) : Nat :=
  if vs.any (fun v => !v.isFin) then 255
  else
    let amax := vs.foldl absMax vZero
    if amax.isZero then 0 else (min (max (amax.log2 - el.emax + 127) 0) 254).toNat

/-- Element codes packed at `w` bits each, the first lowest (05 R108). -/
def packCodes (w : Nat) : List Nat → Nat
  | [] => 0
  | x :: xs => x % 2 ^ w + 2 ^ w * packCodes w xs

/-- The list cut into blocks of 32. -/
def blocks32 {α : Type} : Nat → List α → List (List α)
  | 0, _ => []
  | k + 1, l => if l.isEmpty then [] else l.take 32 :: blocks32 k (l.drop 32)

/-- One MX block converted: its element codes padded to 32, and its scale (05 R112). -/
def mxBlock (f : Format) (vs : List (Val × RMode)) : List Conv × Nat :=
  let x := blockScale f.elem (vs.map (·.1))
  let cs := vs.map fun v => if x = 255 then ⟨0, false⟩ else convElem f v.2 (v.1.shift (127 - (x : Int)))
  (cs ++ List.replicate (32 - vs.length) ⟨0, false⟩, x)

/-- A row written: its bytes, and for each element whether conversion alone produced an infinity. -/
structure RowOut where
  bytes : List Byte
  overflow : List Bool
  deriving DecidableEq, Repr

/-- A row of FP32 values, each with its rounding mode, converted into a format (05 R108, R109, R112, R115). -/
def writeRow (f : Format) (vs : List (F32 × RMode)) : RowOut :=
  let xs := vs.map fun v => (valOf v.1, v.2)
  if f.mx then
    let bl := (blocks32 (vs.length + 1) xs).map (mxBlock f)
    let codes := (bl.map (·.1)).flatten
    let data := leBytes (bl.length * 4 * f.elem.width) (packCodes f.elem.width (codes.map (·.bits)))
    let sc := bl.map fun b => BitVec.ofNat 8 b.2
    ⟨data ++ fitBytes (4 * cdiv bl.length 4) sc, (codes.map (·.overflow)).take vs.length⟩
  else
    let codes := xs.map fun v => convElem f v.2 v.1
    ⟨leBytes (rowBytes f vs.length) (packCodes f.elem.width (codes.map (·.bits))), codes.map (·.overflow)⟩

/-! ## The Cable generator (05 R118) -/

/-- The four words of the generator. -/
abbrev Quad := BitVec 32 × BitVec 32 × BitVec 32 × BitVec 32

/-- The quarter round on four words in the order a, b, c, d. -/
def cableQr (a b c d : BitVec 32) : Quad :=
  let a := a + b; let d := (d ^^^ a).rotateLeft 16
  let c := c + d; let b := (b ^^^ c).rotateLeft 12
  let a := a + b; let d := (d ^^^ a).rotateLeft 8
  let c := c + d; let b := (b ^^^ c).rotateLeft 4
  (a, b, c, d)

/-- qr(x, 0, 1, 2, 3). -/
def qr0123 (x : Quad) : Quad := cableQr x.1 x.2.1 x.2.2.1 x.2.2.2

/-- qr(x, 1, 2, 3, 0). -/
def qr1230 (x : Quad) : Quad := let y := cableQr x.2.1 x.2.2.1 x.2.2.2 x.1; (y.2.2.2, y.1, y.2.1, y.2.2.1)

/-- qr(x, 2, 3, 0, 1). -/
def qr2301 (x : Quad) : Quad := let y := cableQr x.2.2.1 x.2.2.2 x.1 x.2.1; (y.2.2.1, y.2.2.2, y.1, y.2.1)

/-- qr(x, 3, 0, 1, 2). -/
def qr3012 (x : Quad) : Quad := let y := cableQr x.2.2.2 x.1 x.2.1 x.2.2.1; (y.2.1, y.2.2.1, y.2.2.2, y.1)

/-- The step key (05 R118). -/
def stepKey (seed step : Nat) : Quad :=
  qr1230 (qr0123 (BitVec.ofNat 32 seed, BitVec.ofNat 32 (seed / 2 ^ 32),
    BitVec.ofNat 32 step ^^^ 0x9E3779B9#32, BitVec.ofNat 32 (step / 2 ^ 32) ^^^ 0x3C6EF372#32))

/-- The 16 random bits u of an element (05 R118). -/
def cable (seed step tensor plane row col : Nat) : Nat :=
  let k := stepKey seed step
  let x : Quad :=
    (k.1 ^^^ BitVec.ofNat 32 (col % 2 ^ 24) ^^^ (BitVec.ofNat 32 (plane % 256) <<< 24),
     k.2.1 ^^^ BitVec.ofNat 32 (row % 2 ^ 24) ^^^ (BitVec.ofNat 32 (plane / 256 % 256) <<< 24),
     k.2.2.1 ^^^ BitVec.ofNat 32 tensor, k.2.2.2)
  (qr3012 (qr2301 (qr1230 (qr0123 x)))).1.toNat / 65536

end Sys2Proof
end

