-- ==== Sys2Proof/Machine/Objects.lean ====
section
/-!
DEFINITION. Machine/Objects.lean: the Enytre dictionary's objects, one row per object of the specification's object
tables: index, subindex, name, type, access class, default, and the range a write must lie in (16 R355 to R357 and
the object table of every chapter). A default the tables give from the fuses, from the grade or as "kept" is 0 here
and is computed or set where the object is read.
-/
namespace Sys2Proof

/-- The object types of 00 R9 that the tables use. -/
inductive ObjType where
  | bool | u8 | u16 | u32 | u64 | i16 | f32 | string | octets | record
  deriving DecidableEq, Repr

/-- The access classes of 00 R9. -/
inductive ObjAccess where
  | ro | rw | wo | const | rwp
  deriving DecidableEq, Repr

/-- One object of the dictionary. -/
structure Obj where
  index : Nat
  sub : Nat
  name : String
  type : ObjType
  access : ObjAccess
  default : Nat
  lo : Int
  hi : Int
  deriving DecidableEq, Repr

/-- The width in bits of a numeric type; 0 for the types of variable size. -/
def ObjType.width : ObjType → Nat
  | .bool => 8 | .u8 => 8 | .u16 => 16 | .u32 => 32 | .u64 => 64 | .i16 => 16 | .f32 => 32
  | .string => 0 | .octets => 0 | .record => 0

/-- The key of an object in the dictionary's state. -/
def objKey (index sub : Nat) : Nat := index * 256 + sub

/-- Objects 0x1000 to 0x1200. -/
def objRows0 : List Obj := [
  ⟨0x1000, 0x01, "VENDOR", .string, .const, 0, 0, 0⟩,
  ⟨0x1000, 0x02, "PRODUCT", .string, .const, 0, 0, 0⟩,
  ⟨0x1000, 0x03, "ORDERING_CODE", .string, .const, 0, 0, 0⟩,
  ⟨0x1000, 0x04, "GRADE", .string, .ro, 0, 0, 0⟩,
  ⟨0x1000, 0x05, "SERIAL", .string, .const, 0, 0, 0⟩,
  ⟨0x1000, 0x06, "DEVICE_UID", .octets, .const, 0, 0, 0⟩,
  ⟨0x1000, 0x07, "STEPPING", .u8, .const, 16, 0, 255⟩,
  ⟨0x1000, 0x08, "CORES_AVAILABLE", .u8, .ro, 32, 0, 255⟩,
  ⟨0x1000, 0x09, "PACKAGE_ID", .u16, .rwp, 0, 0, 65535⟩,
  ⟨0x1001, 0x01, "DEVICE_STATE", .u8, .ro, 0, 0, 255⟩,
  ⟨0x1001, 0x02, "STATE_COMMAND", .u8, .wo, 0, 0, 255⟩,
  ⟨0x1001, 0x03, "STATE_CAUSE", .u16, .ro, 0, 0, 65535⟩,
  ⟨0x1002, 0x01, "FW_VERSION", .u32, .ro, 0, 0, 4294967295⟩,
  ⟨0x1002, 0x02, "FW_PENDING", .u32, .ro, 0, 0, 4294967295⟩,
  ⟨0x1002, 0x03, "FW_SLOT", .u8, .ro, 0, 0, 255⟩,
  ⟨0x1002, 0x04, "FW_ROLLBACK", .u16, .ro, 0, 0, 65535⟩,
  ⟨0x1002, 0x05, "FLASH_BYTES", .u64, .ro, 0, 0, 18446744073709551615⟩,
  ⟨0x1002, 0x06, "ZENITH_RESTARTS", .u32, .ro, 0, 0, 4294967295⟩,
  ⟨0x1100, 0x01, "I3C_STATIC_ADDR", .u8, .rwp, 58, 8, 119⟩,
  ⟨0x1100, 0x02, "I3C_DYNAMIC_ADDR", .u8, .ro, 0, 0, 255⟩,
  ⟨0x1100, 0x03, "MCTP_EID", .u8, .ro, 0, 0, 255⟩,
  ⟨0x1100, 0x04, "CONTRAIL_MESSAGES", .u32, .ro, 0, 0, 4294967295⟩,
  ⟨0x1100, 0x05, "CONTRAIL_DISCARDED", .u32, .ro, 0, 0, 4294967295⟩,
  ⟨0x1101, 0x01, "LOCK_LEASE", .u16, .rw, 10000, 100, 60000⟩,
  ⟨0x1101, 0x02, "LOCKS_BROKEN", .u32, .ro, 0, 0, 4294967295⟩,
  ⟨0x1101, 0x03, "HOST_LOCKS", .u8, .ro, 0, 0, 255⟩,
  ⟨0x1101, 0x04, "CONTRAIL_LOCKS", .u8, .ro, 0, 0, 255⟩,
  ⟨0x1101, 0x05, "MAILBOX_IGNORED", .u32, .ro, 0, 0, 4294967295⟩,
  ⟨0x1102, 0x01, "CONTRAIL_SEVERITY", .u8, .rw, 2, 0, 4⟩,
  ⟨0x1200, 0x01, "SENSOR_MAP", .record, .ro, 0, 0, 0⟩]

/-- Objects 0x2100 to 0x2600. -/
def objRows1 : List Obj := [
  ⟨0x2100, 0x01, "TICK_MODE", .u8, .rwp, 0, 0, 3⟩,
  ⟨0x2100, 0x02, "BASE_PERIOD", .u32, .rwp, 100000, 2000, 10000000⟩,
  ⟨0x2100, 0x03, "FLAG_LATENCY", .u8, .rwp, 1, 1, 4⟩,
  ⟨0x2100, 0x04, "TICK_TIMEOUT", .u8, .rw, 4, 2, 255⟩,
  ⟨0x2100, 0x05, "TICK_DELAY", .u32, .rwp, 5000, 200, 1000000⟩,
  ⟨0x2101, 0x01, "STRETCH_POLICY", .u8, .rw, 2, 0, 2⟩,
  ⟨0x2101, 0x02, "STRETCH_K", .u8, .rw, 4, 1, 255⟩,
  ⟨0x2101, 0x03, "STRETCH_STEP", .u32, .rw, 5000, 1, 1000000⟩,
  ⟨0x2101, 0x04, "STRETCH_MAX", .u32, .rw, 0, 0, 10000000⟩,
  ⟨0x2101, 0x05, "RELAX_N", .u16, .rw, 1000, 1, 65535⟩,
  ⟨0x2110, 0x01, "ADMIT_MARGIN", .u16, .rwp, 500, 0, 5000⟩,
  ⟨0x2110, 0x02, "HOST_HBM_SHARE", .u16, .rw, 500, 500, 5000⟩,
  ⟨0x2110, 0x03, "SCRUB_SHARE", .u16, .const, 100, 0, 65535⟩,
  ⟨0x2110, 0x04, "HOST_STRATUS_RESERVE", .u32, .rw, 0, 0, 4096⟩,
  ⟨0x2110, 0x05, "HOST_PORT_SHARE", .u16, .rw, 0, 0, 5000⟩,
  ⟨0x2130, 0x01, "ADMIT_REASON", .u16, .ro, 0, 0, 65535⟩,
  ⟨0x2130, 0x02, "ADMIT_DESC", .u32, .ro, 0, 0, 4294967295⟩,
  ⟨0x2130, 0x03, "ADMIT_UNIT", .u16, .ro, 0, 0, 65535⟩,
  ⟨0x2130, 0x04, "ADMIT_DEMAND", .u32, .ro, 0, 0, 4294967295⟩,
  ⟨0x2130, 0x05, "ADMIT_BUDGET", .u32, .ro, 0, 0, 4294967295⟩,
  ⟨0x2200, 0x01, "FRAME_WATCHDOG", .u8, .rw, 32, 0, 255⟩,
  ⟨0x2300, 0x01, "GLOBAL_SEED", .u64, .rw, 0, 0, 18446744073709551615⟩,
  ⟨0x2400, 0x01, "KEEP_SHARE", .u8, .rw, 50, 0, 75⟩,
  ⟨0x2400, 0x02, "PREFETCH", .bool, .rw, 1, 0, 1⟩,
  ⟨0x2400, 0x03, "LINE_PAIRING", .bool, .rw, 1, 0, 1⟩,
  ⟨0x2500, 0x01, "SCRUB_HOURS", .u16, .rw, 24, 1, 720⟩,
  ⟨0x2500, 0x02, "SCRUB_ENABLE", .bool, .rw, 1, 0, 1⟩,
  ⟨0x2600, 0x01, "PORT_ENABLE", .u32, .rwp, 16777215, 0, 16777215⟩,
  ⟨0x2600, 0x02, "RETRAIN_TIMEOUT", .u16, .rw, 50, 1, 10000⟩,
  ⟨0x2600, 0x03, "RETRAIN_LIMIT", .u8, .rw, 4, 1, 255⟩]

/-- Objects 0x2700 to 0x6202. -/
def objRows2 : List Obj := [
  ⟨0x2700, 0x01, "LOSS_SCALE_MODE", .u8, .rw, 0, 0, 1⟩,
  ⟨0x2700, 0x02, "LOSS_SCALE_INIT", .u8, .rw, 16, 0, 24⟩,
  ⟨0x2700, 0x03, "CLEAN_LIMIT", .u16, .rw, 2000, 1, 65535⟩,
  ⟨0x2800, 0x01, "GAUGE_POLICY", .u8, .rw, 0, 0, 2⟩,
  ⟨0x2800, 0x02, "GAUGE_SOURCE", .u8, .rw, 0, 0, 255⟩,
  ⟨0x2800, 0x03, "GAUGE_TIMEOUT", .u16, .rw, 100, 1, 60000⟩,
  ⟨0x2900, 0x01, "STORM_LIMIT", .u16, .rw, 64, 1, 65535⟩,
  ⟨0x2A00, 0x01, "PACKAGE_RESET", .u8, .wo, 0, 0, 255⟩,
  ⟨0x2A00, 0x02, "COMPUTE_RESET", .u8, .wo, 0, 0, 255⟩,
  ⟨0x2A00, 0x03, "BOND_TEST_HOURS", .u16, .rw, 1000, 100, 10000⟩,
  ⟨0x2A00, 0x04, "BOND_TEST_GRACE", .u16, .rw, 168, 1, 10000⟩,
  ⟨0x6001, 0x01, "WRITE_LOCK_VIOLATIONS", .u32, .ro, 0, 0, 4294967295⟩,
  ⟨0x6100, 0x01, "TICK_COUNT", .u64, .ro, 0, 0, 18446744073709551615⟩,
  ⟨0x6100, 0x02, "CURRENT_PERIOD", .u32, .ro, 100000, 0, 4294967295⟩,
  ⟨0x6100, 0x03, "LATE_TICKS", .u32, .ro, 0, 0, 4294967295⟩,
  ⟨0x6100, 0x04, "STRETCHES", .u32, .ro, 0, 0, 4294967295⟩,
  ⟨0x6100, 0x05, "DEMAND_OVERRUNS", .u32, .ro, 0, 0, 4294967295⟩,
  ⟨0x6100, 0x06, "FRAME_INDEX", .u32, .ro, 0, 0, 4294967295⟩,
  ⟨0x6100, 0x07, "WAVE_SETTLE_MAX", .u32, .ro, 0, 0, 4294967295⟩,
  ⟨0x6100, 0x08, "TICK_HOPS", .u8, .ro, 0, 0, 255⟩,
  ⟨0x6100, 0x09, "TICK_IN_IGNORED", .u32, .ro, 0, 0, 4294967295⟩,
  ⟨0x6200, 0x01, "CORE_TRAPS", .u32, .ro, 0, 0, 4294967295⟩,
  ⟨0x6200, 0x02, "TRAPS_DISCARDED", .u32, .ro, 0, 0, 4294967295⟩,
  ⟨0x6200, 0x03, "ICACHE_REFETCHES", .u32, .ro, 0, 0, 4294967295⟩,
  ⟨0x6200, 0x04, "REGFILE_CORRECTED", .u32, .ro, 0, 0, 4294967295⟩,
  ⟨0x6200, 0x05, "HANDOVER_WAIT_CYCLES", .u64, .ro, 0, 0, 18446744073709551615⟩,
  ⟨0x6201, 0x01, "NONFINITE_INSTRUCTIONS", .u32, .ro, 0, 0, 4294967295⟩,
  ⟨0x6201, 0x02, "NONFINITE_FLAGGED", .u32, .ro, 0, 0, 4294967295⟩,
  ⟨0x6202, 0x01, "MATRIX_FOLDS", .u64, .ro, 0, 0, 18446744073709551615⟩,
  ⟨0x6202, 0x02, "MATRIX_GROUPS_SKIPPED", .u64, .ro, 0, 0, 18446744073709551615⟩,
  ⟨0x6202, 0x03, "MATRIX_BANK_CYCLES", .u64, .ro, 0, 0, 18446744073709551615⟩]

/-- Objects 0x6202 to 0x6620. -/
def objRows3 : List Obj := [
  ⟨0x6202, 0x04, "PURL_WAIT_CYCLES", .u64, .ro, 0, 0, 18446744073709551615⟩,
  ⟨0x6203, 0x01, "PATTERN_CODES_INVALID", .u64, .ro, 0, 0, 18446744073709551615⟩,
  ⟨0x6203, 0x02, "BLOCK_MASKS_INVALID", .u32, .ro, 0, 0, 4294967295⟩,
  ⟨0x6203, 0x03, "ENGINE_LOADS_SKIPPED", .u64, .ro, 0, 0, 18446744073709551615⟩,
  ⟨0x6203, 0x04, "ROWS_SKIPPED", .u64, .ro, 0, 0, 18446744073709551615⟩,
  ⟨0x6203, 0x05, "ZR_RAW_BYTES", .u64, .ro, 0, 0, 18446744073709551615⟩,
  ⟨0x6203, 0x06, "ZR_BYTES", .u64, .ro, 0, 0, 18446744073709551615⟩,
  ⟨0x6203, 0x07, "BYTE_OVERRUNS", .u32, .ro, 0, 0, 4294967295⟩,
  ⟨0x6400, 0x01, "CACHE_HITS", .u64, .ro, 0, 0, 18446744073709551615⟩,
  ⟨0x6400, 0x02, "CACHE_MISSES", .u64, .ro, 0, 0, 18446744073709551615⟩,
  ⟨0x6400, 0x03, "KEEP_OVER_SHARE", .u64, .ro, 0, 0, 18446744073709551615⟩,
  ⟨0x6400, 0x04, "PAIRED_FRAMES", .u32, .ro, 0, 0, 4294967295⟩,
  ⟨0x6400, 0x05, "PREFETCH_BYTES", .u64, .ro, 0, 0, 18446744073709551615⟩,
  ⟨0x6400, 0x06, "PREFETCH_DROPPED", .u64, .ro, 0, 0, 18446744073709551615⟩,
  ⟨0x6400, 0x07, "PARTIAL_PAGE_WRITES", .u64, .ro, 0, 0, 18446744073709551615⟩,
  ⟨0x6400, 0x08, "DMA_SEGMENTS_FAILED", .u32, .ro, 0, 0, 4294967295⟩,
  ⟨0x6400, 0x09, "DMA_HALTS", .u32, .ro, 0, 0, 4294967295⟩,
  ⟨0x6400, 0x0A, "DMA_POISON_COPIED", .u32, .ro, 0, 0, 4294967295⟩,
  ⟨0x6400, 0x0B, "DMA_TRANSIENT", .u32, .ro, 0, 0, 4294967295⟩,
  ⟨0x6400, 0x0C, "STREAM_SHORT", .u32, .ro, 0, 0, 4294967295⟩,
  ⟨0x6400, 0x0D, "RING_INVALID", .u32, .ro, 0, 0, 4294967295⟩,
  ⟨0x6400, 0x0E, "HBM_TAGS_PEAK", .u16, .ro, 0, 0, 65535⟩,
  ⟨0x6620, 0x01, "EXCHANGES_DONE", .u64, .ro, 0, 0, 18446744073709551615⟩,
  ⟨0x6620, 0x02, "EXCHANGES_FAILED", .u32, .ro, 0, 0, 4294967295⟩,
  ⟨0x6620, 0x03, "ENTRIES_DROPPED", .u64, .ro, 0, 0, 18446744073709551615⟩,
  ⟨0x6620, 0x04, "ENTRIES_DEFERRED", .u64, .ro, 0, 0, 18446744073709551615⟩,
  ⟨0x6620, 0x05, "ENTRIES_PLACED", .u64, .ro, 0, 0, 18446744073709551615⟩,
  ⟨0x6620, 0x06, "CHOICES_INVALID", .u32, .ro, 0, 0, 4294967295⟩,
  ⟨0x6620, 0x07, "ROWS_POISONED", .u32, .ro, 0, 0, 4294967295⟩,
  ⟨0x6620, 0x08, "FRAMES_REFUSED", .u32, .ro, 0, 0, 4294967295⟩]

/-- Objects 0x6620 to 0x6900. -/
def objRows4 : List Obj := [
  ⟨0x6620, 0x09, "EXCHANGES_ABORTED", .u32, .ro, 0, 0, 4294967295⟩,
  ⟨0x6630, 0x01, "COLLECTIVES_DONE", .u64, .ro, 0, 0, 18446744073709551615⟩,
  ⟨0x6630, 0x02, "COLLECTIVES_FAILED", .u32, .ro, 0, 0, 4294967295⟩,
  ⟨0x6630, 0x03, "FRAMES_FORWARDED", .u64, .ro, 0, 0, 18446744073709551615⟩,
  ⟨0x6630, 0x04, "FRAMES_REFUSED", .u32, .ro, 0, 0, 4294967295⟩,
  ⟨0x6630, 0x05, "FRAMES_UNROUTABLE", .u32, .ro, 0, 0, 4294967295⟩,
  ⟨0x6630, 0x06, "COLLECTIVES_ABORTED", .u32, .ro, 0, 0, 4294967295⟩,
  ⟨0x6700, 0x01, "LOSS_SCALE_EXP", .u8, .ro, 16, 0, 255⟩,
  ⟨0x6700, 0x02, "CLEAN_COUNT", .u16, .ro, 0, 0, 65535⟩,
  ⟨0x6700, 0x03, "LAST_DECIDED_STEP", .u64, .ro, 0, 0, 18446744073709551615⟩,
  ⟨0x6700, 0x04, "STEPS_COMMITTED", .u32, .ro, 0, 0, 4294967295⟩,
  ⟨0x6700, 0x05, "STEPS_SKIPPED", .u32, .ro, 0, 0, 4294967295⟩,
  ⟨0x6700, 0x06, "STEPS_ABANDONED", .u32, .ro, 0, 0, 4294967295⟩,
  ⟨0x6700, 0x07, "EXPORT_RECORDS", .u32, .ro, 0, 0, 4294967295⟩,
  ⟨0x6700, 0x08, "EXPORTS_OVERTAKEN", .u32, .ro, 0, 0, 4294967295⟩,
  ⟨0x6700, 0x09, "IMPORT_REFUSED", .u32, .ro, 0, 0, 4294967295⟩,
  ⟨0x6800, 0x01, "BLOCKS_UPDATED", .u64, .ro, 0, 0, 18446744073709551615⟩,
  ⟨0x6800, 0x02, "BLOCKS_FAILED", .u32, .ro, 0, 0, 4294967295⟩,
  ⟨0x6800, 0x03, "COMMITS", .u32, .ro, 0, 0, 4294967295⟩,
  ⟨0x6800, 0x04, "SHADOWS_DISCARDED", .u32, .ro, 0, 0, 4294967295⟩,
  ⟨0x6800, 0x05, "NONFINITE_WRITES", .u32, .ro, 0, 0, 4294967295⟩,
  ⟨0x6800, 0x06, "GAUGE_MISMATCHES", .u32, .ro, 0, 0, 4294967295⟩,
  ⟨0x6800, 0x07, "REPAIRS", .u32, .ro, 0, 0, 4294967295⟩,
  ⟨0x6800, 0x08, "GAUGE_REFUSED", .u32, .ro, 0, 0, 4294967295⟩,
  ⟨0x6800, 0x09, "CIRRUS_FAULT_COMMITS", .u32, .ro, 0, 0, 4294967295⟩,
  ⟨0x6800, 0x0A, "REFRESH_BYTES", .u64, .ro, 0, 0, 18446744073709551615⟩,
  ⟨0x6900, 0x01, "COMMANDS_DONE", .u64, .ro, 0, 0, 18446744073709551615⟩,
  ⟨0x6900, 0x02, "HOST_BYTES", .u64, .ro, 0, 0, 18446744073709551615⟩,
  ⟨0x6900, 0x03, "HOST_TRANSIENT", .u32, .ro, 0, 0, 4294967295⟩,
  ⟨0x6900, 0x04, "EVENTS_DISCARDED", .u32, .ro, 0, 0, 4294967295⟩]

/-- Objects 0x6900 to 0xA100. -/
def objRows5 : List Obj := [
  ⟨0x6900, 0x05, "DOORBELLS_DISCARDED", .u32, .ro, 0, 0, 4294967295⟩,
  ⟨0x6900, 0x06, "LINK_RATE", .u8, .ro, 0, 0, 255⟩,
  ⟨0x6900, 0x07, "LINK_WIDTH", .u8, .ro, 0, 0, 255⟩,
  ⟨0x6910, 0x01, "EVENTS_RAISED", .u64, .ro, 0, 0, 18446744073709551615⟩,
  ⟨0x6910, 0x02, "QUARANTINES", .u32, .ro, 0, 0, 4294967295⟩,
  ⟨0x6910, 0x03, "GLITCHES_FILTERED", .u32, .ro, 0, 0, 4294967295⟩,
  ⟨0x6910, 0x04, "VANISHED_CLAIMS", .u32, .ro, 0, 0, 4294967295⟩,
  ⟨0x6910, 0x05, "COMPLETIONS_IGNORED", .u32, .ro, 0, 0, 4294967295⟩,
  ⟨0x6910, 0x06, "EQ_DISCARDED", .u32, .ro, 0, 0, 4294967295⟩,
  ⟨0x6910, 0x07, "CONTRAIL_EVENTS_DISCARDED", .u32, .ro, 0, 0, 4294967295⟩,
  ⟨0x6920, 0x01, "CROSS_TIMEOUTS", .u32, .ro, 0, 0, 4294967295⟩,
  ⟨0x6920, 0x02, "PLL_UNLOCKS", .u32, .ro, 0, 0, 4294967295⟩,
  ⟨0x6920, 0x03, "REFCLK_LOSSES", .u32, .ro, 0, 0, 4294967295⟩,
  ⟨0x6920, 0x04, "CROSS_FALLBACKS", .u64, .ro, 0, 0, 18446744073709551615⟩,
  ⟨0xA000, 0x01, "POWER_BUDGET", .u16, .rw, 0, 0, 65535⟩,
  ⟨0xA000, 0x02, "POWER_FLOOR", .u16, .const, 0, 0, 65535⟩,
  ⟨0xA000, 0x03, "POWER_CAP", .u16, .const, 0, 0, 65535⟩,
  ⟨0xA000, 0x04, "CLOCK_MODE", .u8, .rwp, 2, 0, 2⟩,
  ⟨0xA000, 0x05, "PACE_SLACK", .u16, .rw, 1000, 100, 3000⟩,
  ⟨0xA010, 0x01, "THROTTLE_TEMP", .u8, .rw, 100, 85, 105⟩,
  ⟨0xA010, 0x02, "CRIT_TEMP", .u8, .const, 110, 0, 255⟩,
  ⟨0xA010, 0x03, "TRIP_TEMP", .u8, .const, 115, 0, 255⟩,
  ⟨0xA010, 0x04, "HBM_LIMIT", .u8, .rw, 83, 70, 84⟩,
  ⟨0xA010, 0x05, "VR_ALERT_HOLD", .u16, .rw, 100, 10, 10000⟩,
  ⟨0xA010, 0x06, "BROWNOUT_HOLD", .u16, .rw, 100, 100, 10000⟩,
  ⟨0xA030, 0x01, "GUARANTEED_CLOCK", .u16, .ro, 0, 0, 65535⟩,
  ⟨0xA030, 0x02, "CLOCK_MAX", .u16, .const, 0, 0, 65535⟩,
  ⟨0xA030, 0x03, "AGEING_CLOCK", .u16, .ro, 0, 0, 65535⟩,
  ⟨0xA040, 0x01, "RAIL_ORDER", .record, .ro, 0, 0, 0⟩,
  ⟨0xA100, 0x01, "PACKAGE_POWER", .f32, .ro, 0, 0, 4294967295⟩]

/-- Objects 0xA100 to 0xC200. -/
def objRows6 : List Obj := [
  ⟨0xA100, 0x02, "PACKAGE_ENERGY", .u64, .ro, 0, 0, 18446744073709551615⟩,
  ⟨0xA100, 0x03, "POWER_PEAK", .f32, .ro, 0, 0, 4294967295⟩,
  ⟨0xA200, 0x01, "PHASE_TABLE", .record, .ro, 0, 0, 0⟩,
  ⟨0xA300, 0x01, "THERMAL_LIMIT_MS", .u32, .ro, 0, 0, 4294967295⟩,
  ⟨0xA300, 0x02, "DROOP_STRETCHES", .u64, .ro, 0, 0, 18446744073709551615⟩,
  ⟨0xA300, 0x03, "VR_ALERTS", .u32, .ro, 0, 0, 4294967295⟩,
  ⟨0xA300, 0x04, "BROWNOUTS", .u32, .ro, 0, 0, 4294967295⟩,
  ⟨0xA300, 0x05, "SENSORS_SUSPECT", .u16, .ro, 0, 0, 65535⟩,
  ⟨0xA300, 0x06, "REMOTE_DISCARDED", .u32, .ro, 0, 0, 4294967295⟩,
  ⟨0xA300, 0x07, "BUDGET_EXCEEDED", .u32, .ro, 0, 0, 4294967295⟩,
  ⟨0xA300, 0x08, "AVS_RETRIES", .u32, .ro, 0, 0, 4294967295⟩,
  ⟨0xC100, 0x01, "CORRECTED", .u64, .ro, 0, 0, 18446744073709551615⟩,
  ⟨0xC100, 0x02, "CHECK_ONLY", .u64, .ro, 0, 0, 18446744073709551615⟩,
  ⟨0xC100, 0x03, "TRANSIENT", .u32, .ro, 0, 0, 4294967295⟩,
  ⟨0xC100, 0x04, "LASTING", .u32, .ro, 0, 0, 4294967295⟩,
  ⟨0xC100, 0x05, "FENCED_PAGES", .u16, .ro, 0, 0, 65535⟩,
  ⟨0xC100, 0x06, "POISON_READS", .u64, .ro, 0, 0, 18446744073709551615⟩,
  ⟨0xC100, 0x07, "POISON_WRITTEN", .u64, .ro, 0, 0, 18446744073709551615⟩,
  ⟨0xC100, 0x08, "WRITES_LOST", .u32, .ro, 0, 0, 4294967295⟩,
  ⟨0xC100, 0x09, "REWRITE_OVERFLOWS", .u32, .ro, 0, 0, 4294967295⟩,
  ⟨0xC100, 0x0A, "SCRUB_PASSES", .u32, .ro, 0, 0, 4294967295⟩,
  ⟨0xC100, 0x0B, "SCRUB_PROGRESS", .u8, .ro, 0, 0, 255⟩,
  ⟨0xC110, 0x01, "FENCE_LOG", .record, .ro, 0, 0, 0⟩,
  ⟨0xC200, 0x01, "CORE_MASK", .u32, .ro, 4294967295, 0, 4294967295⟩,
  ⟨0xC200, 0x02, "ENGINE_MAP", .record, .ro, 0, 0, 0⟩,
  ⟨0xC200, 0x03, "SWATCH_RUNS", .u32, .ro, 0, 0, 4294967295⟩,
  ⟨0xC200, 0x04, "SWATCH_FAILURES", .u32, .ro, 0, 0, 4294967295⟩,
  ⟨0xC200, 0x05, "SPARES_LEFT", .u8, .ro, 32, 0, 255⟩,
  ⟨0xC200, 0x06, "READY_TIME", .u32, .ro, 0, 0, 4294967295⟩,
  ⟨0xC200, 0x07, "ENGINE_FAILS", .octets, .ro, 0, 0, 0⟩]

/-- Objects 0xC200 to 0xD010. -/
def objRows7 : List Obj := [
  ⟨0xC200, 0x08, "RESETS_MERGED", .u32, .ro, 0, 0, 4294967295⟩,
  ⟨0xC210, 0x01, "OPERATING_HOURS", .u32, .ro, 0, 0, 4294967295⟩,
  ⟨0xC210, 0x02, "BOND_TEST_HOUR", .u32, .ro, 0, 0, 4294967295⟩,
  ⟨0xC210, 0x03, "BOND_GROUPS_SPARED", .u16, .ro, 0, 0, 65535⟩,
  ⟨0xC210, 0x04, "SPARE_ROWS_LEFT", .u16, .ro, 1024, 0, 65535⟩,
  ⟨0xC210, 0x05, "BOND_TEST_DUE", .bool, .ro, 0, 0, 1⟩,
  ⟨0xC300, 0x01, "GUARD_BANDS", .octets, .ro, 0, 0, 0⟩,
  ⟨0xC300, 0x02, "MARGIN_MV", .i16, .ro, 0, 0, 65535⟩,
  ⟨0xC300, 0x03, "HOURS_TO_EOL", .u32, .ro, 4294967295, 0, 4294967295⟩,
  ⟨0xC300, 0x04, "LAST_REPLAN_HOUR", .u32, .ro, 0, 0, 4294967295⟩,
  ⟨0xD000, 0x01, "LICENCE_FEATURES", .u32, .ro, 0, 0, 4294967295⟩,
  ⟨0xD000, 0x02, "LICENCE_MAX_GROUP", .u16, .ro, 64, 0, 65535⟩,
  ⟨0xD000, 0x03, "LICENCES_INSTALLED", .u8, .ro, 0, 0, 255⟩,
  ⟨0xD000, 0x04, "REVOKE_EPOCH", .u32, .ro, 0, 0, 4294967295⟩,
  ⟨0xD010, 0x01, "SPDM_SESSIONS", .u8, .ro, 0, 0, 255⟩,
  ⟨0xD010, 0x02, "SPDM_FAILURES", .u32, .ro, 0, 0, 4294967295⟩,
  ⟨0xD010, 0x03, "SECURE_ONLY", .bool, .rwp, 0, 0, 1⟩]

/-- The objects of one port, at index 0x6600 + k (10 Table 10.16). -/
def objRowsPort : List Obj := [
  ⟨0x6600, 0x01, "FEC_CORRECTED", .u64, .ro, 0, 0, 18446744073709551615⟩,
  ⟨0x6600, 0x02, "FRAMES_IN_ERROR", .u64, .ro, 0, 0, 18446744073709551615⟩,
  ⟨0x6600, 0x03, "TRANSIENT", .u32, .ro, 0, 0, 4294967295⟩,
  ⟨0x6600, 0x04, "LASTING", .u32, .ro, 0, 0, 4294967295⟩,
  ⟨0x6600, 0x05, "VIOLATIONS", .u32, .ro, 0, 0, 4294967295⟩,
  ⟨0x6600, 0x06, "FRAMES_FAILED", .u32, .ro, 0, 0, 4294967295⟩,
  ⟨0x6600, 0x07, "DATA_BYTES_TX", .u64, .ro, 0, 0, 18446744073709551615⟩,
  ⟨0x6600, 0x08, "DATA_BYTES_RX", .u64, .ro, 0, 0, 18446744073709551615⟩]

/-- The objects of one remote sensor channel, at index 0xA020 + n (19 R448). -/
def objRowsRemote : List Obj := [
  ⟨0xA020, 0x01, "REMOTE_MODE", .u8, .rw, 0, 0, 2⟩,
  ⟨0xA020, 0x02, "IDEALITY", .u16, .rw, 10080, 9500, 10500⟩,
  ⟨0xA020, 0x03, "NTC_RES_25C", .u32, .rw, 10000, 1000, 1000000⟩,
  ⟨0xA020, 0x04, "NTC_BETA", .u16, .rw, 3435, 2000, 6000⟩,
  ⟨0xA020, 0x05, "REMOTE_WARN", .i16, .rw, 90, -40, 150⟩,
  ⟨0xA020, 0x06, "REMOTE_CRIT", .i16, .rw, 100, -40, 150⟩,
  ⟨0xA020, 0x07, "REMOTE_ACTION", .u8, .rw, 0, 0, 1⟩,
  ⟨0xA020, 0x08, "REMOTE_TEMP", .f32, .ro, 0, 0, 4294967295⟩,
  ⟨0xA020, 0x09, "REMOTE_STATUS", .u8, .ro, 0, 0, 255⟩]

/-- The power objects of one die, at index 0xA110 + d (19 R448). -/
def objRowsDie : List Obj := [
  ⟨0xA110, 0x01, "DIE_POWER", .f32, .ro, 0, 0, 4294967295⟩,
  ⟨0xA110, 0x02, "STACK_POWER", .f32, .ro, 0, 0, 4294967295⟩,
  ⟨0xA110, 0x03, "DIE_SHARE", .f32, .ro, 0, 0, 4294967295⟩,
  ⟨0xA110, 0x04, "HBM_TEMP", .f32, .ro, 0, 0, 4294967295⟩]

/-- A licence record, at subindex 0x01 to 0x10 of 0xD001 (16 R378). -/
def objLicence : Obj := ⟨0xD001, 0x01, "LICENCE_n", .record, .ro, 0, 0, 0⟩

/-- The objects outside the indexed families. -/
def objRows : List Obj :=
  objRows0 ++ objRows1 ++ objRows2 ++ objRows3 ++ objRows4 ++ objRows5 ++ objRows6 ++ objRows7

/-- The object named index:subindex; none for an unassigned index or subindex (00 R9). -/
def objFind (index sub : Nat) : Option Obj :=
  if 0x6600 ≤ index && index < 0x6618 then objRowsPort.find? (fun o => o.sub == sub)
  else if 0xA020 ≤ index && index < 0xA028 then objRowsRemote.find? (fun o => o.sub == sub)
  else if 0xA110 ≤ index && index < 0xA118 then objRowsDie.find? (fun o => o.sub == sub)
  else if index == 0xD001 then (if 1 ≤ sub && sub ≤ 0x10 then some objLicence else none)
  else objRows.find? (fun o => o.index == index && o.sub == sub)

/-- Is some object assigned at this index. -/
def objIndexExists (index : Nat) : Bool :=
  (0x6600 ≤ index && index < 0x6618) || (0xA020 ≤ index && index < 0xA028) || (0xA110 ≤ index && index < 0xA118)
    || index == 0xD001 || objRows.any (fun o => o.index == index)

/-- The default of an object by its key. -/
def objDefault (key : Nat) : Nat :=
  match objFind (key / 256) (key % 256) with
  | some o => o.default
  | none => 0

/-- The width of an object by its key; 64 where it has no numeric width. -/
def objWidth (key : Nat) : Nat :=
  match objFind (key / 256) (key % 256) with
  | some o => if o.type.width = 0 then 64 else o.type.width
  | none => 64

end Sys2Proof
end

