-- ==== Sys2Proof/Machine/State.lean ====
section
/-!
DEFINITION. Machine/State.lean: the state of the package, whole, as plain data, and the state right after a package
reset. Every part cites the chapter that names it; INVENTORY.md lists every piece with its rule and its reset value.
-/
namespace Sys2Proof.Machine

/-- The model has no faults of its own: the specification answers every access and every error with an effect (a trap,
a poison form, a status, an event), and each is a next state. -/
inductive Fault where
  deriving DecidableEq, Repr

/-- Why a command has no meaning. `notModelled` is raised by the dispatch alone, for a command whose meaning is not
written yet; it is safe (nothing can be proved of such a command). -/
inductive Refusal where
  | notModelled (mnemonic : String)
  deriving DecidableEq, Repr

/-- What the package does to the outside, newest first in `State.out`. -/
inductive Output where
  /-- A posted write to host memory; `ep` is the EP bit. -/
  | hostWrite (addr : Nat) (bytes : List Byte) (ep : Bool)
  /-- An MSI-X message of function `fn`, with the address and data of its table entry. -/
  | msix (fn vec addr data : Nat)
  /-- A completion of a host read: the bytes, and the EP bit. -/
  | readData (bytes : List Byte) (ep : Bool)
  /-- A completion of status Unsupported Request. -/
  | unsupported
  /-- An error logged through AER: 0 Unsupported Request, 1 Poisoned TLP Received. -/
  | aer (kind : Nat)
  /-- The value a Zenith core reads from one of its own registers. -/
  | zenithRead (core : Nat) (value : Nat)
  /-- The value a debug block reads from a register. -/
  | debugRead (die : Nat) (value : Nat)
  /-- A frame sent on a port. -/
  | frame (port : Nat) (bytes : List Byte)
  /-- A response on the Contrail port or the mailbox: the master (0 host, 1 Contrail) and the bytes. -/
  | reply (master : Nat) (bytes : List Byte)
  /-- An MCTP message body sent by Contrail: message type and bytes. -/
  | mctp (type : Nat) (bytes : List Byte)
  /-- An AVSBus frame: die, rail select, millivolts. -/
  | avs (die rail mv : Nat)
  /-- A pin changes level, or pulses: 0 READY, 1 THERMTRIP_N, 2 TICK_OUT, 3 the Contrail in-band interrupt. -/
  | pin (name : Nat) (level : Bool)
  deriving DecidableEq, Repr

/-! ## Cores (chapter 03) -/

/-- CORE_STATUS.STATE (03 Table 3.10). -/
inductive CoreSt where
  | idle | waiting | running | stopping | stopped | trapped
  deriving DecidableEq, Repr

/-- A trap record: the registers of 03 Tables 3.13 to 3.19. -/
structure TrapRec where
  valid : Bool
  cause : Nat
  queue : Nat
  frame : Nat
  pc : Nat
  addr : Nat
  detail : Nat
  foldsTotal : Nat
  foldsDone : Nat
  mpc : Nat
  step : Nat
  deriving DecidableEq, Repr

/-- The first-position record of a core (05 Tables 5.6 to 5.8), with the issue number that decides which of two
instructions of one frame is the earlier. -/
structure NfRec where
  valid : Bool
  frame : Nat
  queue : Nat
  kind : Nat
  overflow : Bool
  multiple : Bool
  pc : Nat
  tensor : Nat
  i2 : Nat
  i1 : Nat
  i0 : Nat
  seq : Nat
  deriving DecidableEq, Repr

/-- The vector instructions (04 R87). -/
inductive VecKind where
  | vbin | vfma | vun | vred
  deriving DecidableEq, Repr

/-- The operands a queued instruction carries from its issue (04 R78). -/
inductive QOp where
  | vec (kind : VecKind) (d a b : Desc) (fn bm : Nat) (sb : F32) (rnd : Nat) (flags : Bool)
  | mmul (a w d abm arm : Desc) (dk : Bool) (acc : Nat) (accum wstat : Bool) (spar : Nat) (bmen rmen : Bool)
      (rnd : Nat) (flags : Bool) (ssa ssw ssd : F32)
  | mwld (w : Desc) (spar : Nat)
  | mrd (d : Desc) (acc : Nat) (clear : Bool) (rnd : Nat) (flags : Bool) (q : F32)
  | pmv (y x w : Desc) (rnd : Nat) (flags : Bool) (ssx ssw ssy : F32)
  | dma (desc : List Byte)
  | tld (src dst rec : Desc) (men exb zr : Bool)
  | coll (desc : List Byte)
  | exch (desc : List Byte)
  | upd (desc : List Byte) (w1 w2 w3 : Nat)
  deriving DecidableEq, Repr

/-- What one non-finite element of an instruction was (05 R121). -/
structure NfElem where
  kind : Nat
  overflow : Bool
  tensor : Nat
  i2 : Nat
  i1 : Nat
  i0 : Nat
  deriving DecidableEq, Repr

/-- An instruction waiting or running in one of the ten unit queues (03 R63): its program counter, its place in the
program order, the frame and step it was issued in, and how far it has run. -/
structure QInst where
  op : QOp
  pc : Nat
  seq : Nat
  frame : Nat
  step : Nat
  /-- Folds run, or DMA segments ended. -/
  done : Nat
  /-- The mask records an MMUL read before its first fold: block mask and row mask, with their poison bits. -/
  bmask : Row
  rmask : Row
  masksRead : Bool
  /-- The first non-finite element so far. -/
  nf : Option NfElem
  /-- Segment map codes so far, with the bytes each segment wrote at the destination (08 R180). -/
  codes : List (Nat × Nat)
  /-- The bulk channel that runs a memory-to-memory descriptor (08 R175). -/
  bulk : Option Nat
  /-- The unit of the die has accepted the instruction (COLL, EXCH, CIRRUS queues). -/
  accepted : Bool
  /-- A stationary block captured for WSTAT = 1 or an operand of the instruction lies in scratchpad (03 R61). -/
  scratch : Bool
  /-- A stop came between its folds: the weights of its next fold are fetched afresh (06 R127). -/
  resumed : Bool
  /-- The row of a zero-run transfer cut by the end of a segment: its number and its raw bytes so far (07 R153, R155). -/
  row : Option (Nat × Row)
  deriving DecidableEq, Repr

/-- The shape of the stationary blocks held in program order (04 R91 rule 8, R93). -/
structure HeldShape where
  fmt : Nat
  k : Nat
  n : Nat
  spar : Nat
  deriving DecidableEq, Repr

/-- Stationary weights: for each column, the kept weights in stored order as (logical k, value) (06 R124, 07 R143). -/
structure WTile where
  shape : HeldShape
  cols : List (List (Nat × Val))
  deriving DecidableEq, Repr

/-- A bank handover that has not taken effect (03 R61). -/
structure Handover where
  bank : Nat
  owner : Nat
  share : Bool
  seq : Nat
  deriving DecidableEq, Repr

/-- Why the controller is stalled (03 R56, R64, 04 R82, R97, R101, 13 R292). -/
inductive Stall where
  | none
  | queue (q : Nat)
  | load (sd : Nat) (seg off size : Nat) (sx : Bool)
  | store (value : Nat) (seg off size : Nat)
  | descLoad (ad : Nat) (seg off : Nat)
  | descStore (value : Desc) (seg off : Nat)
  | fetchDesc (q : Nat) (seg off : Nat) (word w1 w2 w3 : Nat)
  | waitq (q k issued : Nat)
  | flagrd (sd frame : Nat)
  | scale (sd step : Nat)
  deriving DecidableEq, Repr

/-- Cycles and energy a core has used in the running frame, which 02 R37 compares with the declared demands. -/
structure CoreUse where
  engine : Nat
  vector : Nat
  purl : Nat
  elapsed : Nat
  overrun : List Nat
  /-- The phase tags that PTAG or FEND replaced since the last step of the power controller, oldest first (04 R102). -/
  tagsWas : List Nat
  deriving DecidableEq, Repr

/-- One logical core (03 Table 3.1, R74, 05 R121). -/
structure CoreState where
  st : CoreSt
  frame : Nat
  step : Nat
  pc : Word
  sregs : Vector Word 32
  adescs : Vector Desc 16
  preds : BitVec 8
  /-- Accumulator words, keyed by (((set * 4 + engine) * 128 + row) * 128 + column). -/
  acc : Kv F32
  /-- Sum store words, keyed by ((engine * 1024 + row) * 128 + column). -/
  sum : Kv F32
  banks : BitVec 32
  hand : List Handover
  queues : Vector (List QInst) 10
  issued : Vector (BitVec 32) 10
  done : Vector (BitVec 32) 10
  /-- Instructions issued since the image started: the program order that 03 R61 and 05 R121 compare by. -/
  seq : Nat
  stall : Stall
  fend : Bool
  completed : Bool
  trapPend : Option TrapRec
  /-- The queues that may still finish the work they had begun when the core began to stop (03 R67). -/
  drain : Nat
  trap : TrapRec
  held : Option WTile
  heldIss : Option HeldShape
  tag : BitVec 8
  nf : NfRec
  /-- Instruction cache lines marked bad: (offset of the line within the code, failing Stratus page). -/
  badLines : List (Nat × Nat)
  /-- Lines present in the instruction cache, by offset within the code. -/
  lines : List Nat
  fenced : BitVec 4
  /-- Register file words in error: key = 32 * file + register; 1 correctable, 2 uncorrectable (03 R70). -/
  regErr : Kv Nat
  /-- Deviation of the 7-bit check of an accumulator, sum store or operand buffer word (09 R196). -/
  accDev : Kv Nat
  sumDev : Kv Nat
  bufWord : Kv Nat
  bufDev : Kv Nat
  /-- Operand buffer, instruction cache and cache frame words are held as value + 1; 0 is a word that the code-test window has
  not written since its array last took data. -/
  icWord : Kv Nat
  icDev : Kv Nat
  use : CoreUse
  deriving DecidableEq, Repr

/-- No trap recorded. -/
def TrapRec.empty : TrapRec := ⟨false, 0, 0, 0, 0, 0, 0, 0, 0, 0, 0⟩

/-- No NONFINITE instruction recorded. -/
def NfRec.empty : NfRec := ⟨false, 0, 0, 0, false, false, 0, 0, 0, 0, 0, 0⟩

/-- A core after a reset: idle, every register zero, every bank owned by DMA (03 R47, Table 3.12). -/
def CoreState.reset : CoreState where
  st := .idle
  frame := 0
  step := 0
  pc := 0
  sregs := Vector.replicate 32 0
  adescs := Vector.replicate 16 0
  preds := 1
  acc := []
  sum := []
  banks := 0x44444444#32
  hand := []
  queues := Vector.replicate 10 []
  issued := Vector.replicate 10 0
  done := Vector.replicate 10 0
  seq := 0
  stall := .none
  fend := false
  completed := false
  trapPend := none
  drain := 0
  trap := .empty
  held := none
  heldIss := none
  tag := 0
  nf := .empty
  badLines := []
  lines := []
  fenced := 0
  regErr := []
  accDev := []
  sumDev := []
  bufWord := []
  bufDev := []
  icWord := []
  icDev := []
  use := ⟨0, 0, 0, 0, [], []⟩

/-! ## Images and runs (chapter 02) -/

/-- A segment table entry (03 Table 3.3). -/
structure Seg where
  base : Nat
  bytes : Nat
  kind : Nat
  access : Nat
  core : Nat
  initBytes : Nat
  initOffset : Nat
  deriving DecidableEq, Repr

/-- A core record of a frame descriptor (02 Table 2.4). -/
structure CoreDemand where
  crit : Nat
  engine : Nat
  vector : Nat
  purl : Nat
  cirrus : Nat
  scratch : Nat
  entry : Nat
  deriving DecidableEq, Repr

/-- A die record of a frame descriptor (02 Table 2.4). -/
structure DieDemand where
  hbm : Nat
  stratus : Nat
  bridge : Nat
  coll : Nat
  exch : Nat
  cirrus : Nat
  stratusMib : Nat
  hbmMib : Nat
  deriving DecidableEq, Repr

/-- A frame descriptor (02 Table 2.4). -/
structure FrameDesc where
  tag : Nat
  decisionWait : Bool
  update : Bool
  cores : List CoreDemand
  dies : List DieDemand
  ports : List Nat
  deriving DecidableEq, Repr

/-- A schedule entry (02 Table 2.3). -/
structure SchedEntry where
  first : Nat
  count : Nat
  reps : Nat
  isStep : Bool
  deriving DecidableEq, Repr

/-- A loaded image (02 Table 2.2). -/
structure Image where
  cores : Nat
  group : Nat
  latency : Nat
  training : Bool
  licences : Nat
  imageBytes : Nat
  codeBytes : Nat
  segs : List Seg
  frames : List FrameDesc
  sched : List SchedEntry
  deriving DecidableEq, Repr

/-- What the loaded image is doing (02 R28, R30, R42). -/
inductive RunPhase where
  | loaded | armed | running | stopped | ended
  deriving DecidableEq, Repr

/-- A place in the schedule: entry, repetition, descriptor within the repetition. -/
structure Cursor where
  entry : Nat
  rep : Nat
  idx : Nat
  deriving DecidableEq, Repr

/-- A step of the running image that is not yet decided: its number, and its first and last frame (01 R23, 02 R41). -/
structure StepRec where
  num : Nat
  first : Nat
  last : Nat
  deriving DecidableEq, Repr

/-- A payload delivered (02 R40). -/
structure Payload where
  bits : Nat
  final : Bool
  deriving DecidableEq, Repr

/-- The package's run of its image (02 R28 to R42, 03 R73). -/
structure Run where
  image : Option Image
  phase : RunPhase
  startTick : Nat
  startStep : Nat
  /-- The frame that starts next: its number and its place in the schedule. -/
  next : Nat
  cursor : Cursor
  /-- A frame is running. -/
  active : Bool
  /-- The number of the frame running, or of the last one run. -/
  frame : Nat
  /-- The frame descriptor and the step number of that frame. -/
  desc : Nat
  step : Nat
  /-- A step has been run since START. -/
  stepRun : Bool
  /-- Flags raised for the running frame, or for the next one while none runs. -/
  contrib : Nat
  /-- The tick that arrived while the frame was running made it late. -/
  late : Bool
  steps : List StepRec
  /-- The loss-scale exponent of each step whose earlier steps are all decided (13 R292); 25 where not known yet. -/
  scales : Kv Nat
  /-- e and c after the decision of each step, and after an import of it: what an export record reports of a commit
  (13 Table 13.6). -/
  decided : Kv (Nat × Nat)
  /-- The stop of 02 R42 has reached the package, at this tick. -/
  stopTick : Option Nat
  /-- The source that caused the stop, 0 for a command or another package. -/
  stopCause : Nat
  /-- The place in the schedule and step of the frame that a stop interrupted (03 R73). -/
  stoppedAt : Option Cursor
  /-- Bytes moved in the frame, by (kind, unit): kind 0 HBM, 1 Stratus, 2 bridge per direction, 3 port per direction
  (07 R157). -/
  bytes : Kv Nat
  /-- Units whose count already exceeded its declaration in this frame. -/
  overs : List (Nat × Nat)
  /-- Always-on cycle at which the frame started, for the watchdog of 03 R59. -/
  startedAt : Nat
  /-- An import has set e and c since an image last started (13 R291, R299). -/
  imported : Bool
  deriving DecidableEq, Repr

/-- No image. -/
def Run.reset : Run where
  image := none
  phase := .loaded
  startTick := 0
  startStep := 0
  next := 0
  cursor := ⟨0, 0, 0⟩
  active := false
  frame := 0
  desc := 0
  step := 0
  stepRun := false
  contrib := 0
  late := false
  steps := []
  scales := []
  decided := []
  stopTick := none
  stopCause := 0
  stoppedAt := none
  bytes := []
  overs := []
  startedAt := 0
  imported := false

/-! ## Memories (chapters 08 and 09) -/

/-- The hint of a cache line (08 R169). -/
inductive Hint where
  | normal | keep | evictFirst
  deriving DecidableEq, Repr

/-- A line held by a cache set, most recently used first in its set's list (08 R168 to R173). -/
structure CacheLine where
  line : Nat
  hint : Hint
  sectors : BitVec 4
  dirty : Bool
  /-- The line shares one frame with its pair partner. -/
  paired : Bool
  /-- The way of its set whose frame holds it. -/
  way : Nat
  deriving DecidableEq, Repr

/-- A unit whose lasting failure fences it and moves the package to FAULT (01 R15). -/
inductive FailUnit where
  | hbm (die : Nat)
  | slice (die slice : Nat)
  | stratus (die layer : Nat)
  | cirrus (die : Nat)
  | skein (die : Nat)
  | bridge (index : Nat)
  | zenith (die : Nat)
  deriving DecidableEq, Repr

/-- What ageing and upsets have done to the memories: the outcome that the next read of an array meets where its command
gives none (09 R202; the model's own field), the scratchpad words with a hard fault (09 R203), and the units that have
failed for good and are fenced (01 R11, R15). -/
structure Wear where
  next : MemOutcome
  dead : List Nat
  units : List FailUnit
  deriving DecidableEq, Repr

/-- Nothing worn. -/
def Wear.reset : Wear := ⟨.good, [], []⟩

/-- A code-test window (09 R207). -/
structure CodeTest where
  target : Nat
  addr : Nat
  result : Nat
  outcome : Nat
  data : List Byte
  check : List Byte
  deriving DecidableEq, Repr

/-- The memory, protection and cache state of one die (chapters 08 and 09). -/
structure DieMem where
  /-- REGION_n as written and as applied: 0 to 7 Stratus, 8 to 15 HBM. -/
  region : Vector (BitVec 64) 16
  applied : Vector (BitVec 64) 16
  /-- PROT_CTRL.STATUS, and the regions being initialised while BUSY. -/
  protStatus : Nat
  protBusy : Option Nat
  /-- RING_n and KEEP_WIN_n as written and in force. -/
  ring : Vector (BitVec 64) 16
  ringNow : Vector (BitVec 64) 16
  keep : Vector (BitVec 64) 8
  keepNow : Vector (BitVec 64) 8
  /-- Cache sets, keyed by slice * 512 + set. -/
  cache : Kv (List CacheLine)
  /-- The line each core's last sector miss in a slice was to, keyed by core * 16 + slice (08 R174). -/
  lastMiss : Kv Nat
  /-- Words of cache frames that differ from memory, held as value + 1, and the deviations of cache words' check bits. A word
  of a resident line has the key (die offset / 4); a word of a frame that holds no single line has the key
  2^40 + ((slice * 512 + set) * 16 + way) * 64 + word. -/
  cacheWord : Kv Nat
  cacheDev : Kv Nat
  /-- Fenced-page tables and rewrite queues: Stratus and HBM (09 R203, R205). -/
  fencedS : List Nat
  fencedH : List Nat
  /-- Pages fenced beyond a full table (09 R203). -/
  fencedX : List Nat
  rewriteS : List Nat
  rewriteH : List Nat
  /-- The next address of each sweep. -/
  sweepS : Nat
  sweepH : Nat
  /-- Bulk channels in use: the core each runs for, and its channel (08 R175). -/
  bulk : Vector (Option (Nat × Nat)) 8
  ct : CodeTest
  deriving DecidableEq, Repr

/-- REGION_0 after a package reset: enabled, paged, strength 4, the whole memory (09 R192, Table 9.6). -/
def regionReset (mib : Nat) : BitVec 64 := BitVec.ofNat 64 (2 ^ 63 + mib * 2 ^ 32)

/-- The region registers after a package reset. -/
def regionsReset : Vector (BitVec 64) 16 :=
  ((Vector.replicate 16 0).set 0 (regionReset 8192)).set 8 (regionReset 65536)

/-- A die's memory system after a package reset. -/
def DieMem.reset : DieMem where
  region := regionsReset
  applied := regionsReset
  protStatus := 0
  protBusy := none
  ring := Vector.replicate 16 0
  ringNow := Vector.replicate 16 0
  keep := Vector.replicate 8 0
  keepNow := Vector.replicate 8 0
  cache := []
  lastMiss := []
  cacheWord := []
  cacheDev := []
  fencedS := []
  fencedH := []
  fencedX := []
  rewriteS := []
  rewriteH := []
  sweepS := 0
  sweepH := 0
  bulk := Vector.replicate 8 none
  ct := ⟨0, 0, 0, 0, [], []⟩

/-! ## Host interface (chapter 15) -/

/-- A host command as fetched (15 Table 15.4). -/
structure HostCmd where
  op : Nat
  flags : Nat
  id : Nat
  a : Nat
  b : Nat
  c : Nat
  d : Nat
  /-- Map codes of the chunks of a copy reported so far, 255 for a chunk not yet reported. -/
  chunks : List Nat
  /-- The command waits for an event after its start (STOP). -/
  started : Bool
  /-- A reset has ended the copy: its chunks in flight still complete, and it then completes ABORTED (15 R340, R346). -/
  ended : Bool
  deriving DecidableEq, Repr

/-- A submission and completion queue pair (15 R341, R350). -/
structure HostQueue where
  sqBase : Nat
  cqBase : Nat
  en : Bool
  irqEn : Bool
  vector : Nat
  size : Nat
  /-- Q_STATUS.STATE and CAUSE. -/
  st : Nat
  cause : Nat
  sqHead : Nat
  sqTail : Nat
  cqHead : Nat
  cqWrite : Nat
  /-- Completion entries written and not yet freed by CQ_HEAD. -/
  cqUsed : Nat
  phase : Bool
  cmd : Option HostCmd
  deriving DecidableEq, Repr

/-- A disabled queue with vector `v`. -/
def HostQueue.reset (v : Nat) : HostQueue :=
  ⟨0, 0, false, false, v, 4, 0, 0, 0, 0, 0, 0, 0, true, none⟩

/-- An event ring (15 R347). -/
structure EventRing where
  base : Nat
  en : Bool
  irqEn : Bool
  vector : Nat
  size : Nat
  head : Nat
  tail : Nat
  /-- Records written and not yet freed by EVR_HEAD. -/
  used : Nat
  phase : Bool
  seq : Nat
  deriving DecidableEq, Repr

/-- A disabled ring with vector `v`. -/
def EventRing.reset (v : Nat) : EventRing := ⟨0, false, false, v, 4, 0, 0, 0, true, 0⟩

/-- What the host sets in a function's configuration space (15 R337, R348): MSI-X Enable and Function Mask, power state
D3hot, and ASPM L1. -/
structure FnConfig where
  msixEn : Bool
  fnMask : Bool
  d3hot : Bool
  aspmL1 : Bool
  deriving DecidableEq, Repr

/-- A function's configuration space after reset: MSI-X and ASPM L1 disabled, power state D0 (15 R337). -/
def FnConfig.reset : FnConfig := ⟨false, false, false, false⟩

/-- An export in progress (13 R297): its queue, the shard table read at its start, the arrays asked for, the slot that was
committed and the record's fields at the start, the next piece, and what it has written. -/
structure ExportJob where
  queue : Nat
  flags : Nat
  table : List Byte
  commit : Nat
  slot : Nat
  step : Nat
  lossExp : Nat
  clean : Nat
  next : Nat
  dest : Nat
  room : Nat
  written : Nat
  bytes : Nat
  poisoned : Bool
  /-- Cirrus has begun to write into the slot that the export reads (13 R297). -/
  overrun : Bool
  deriving DecidableEq, Repr

/-- The host interface of the package (chapter 15). -/
structure HostIf where
  queues : Vector HostQueue 64
  rings : Vector EventRing 8
  winBase : Nat
  /-- log2 of the size of BAR2 (15 R338). -/
  bar2Log2 : Nat
  /-- The configuration space of each function (15 R337). -/
  cfg : Vector FnConfig 2
  /-- The MSI-X tables: key = function * 4096 + vector; address words, and data with the vector control above it. -/
  msixAddr : Kv Nat
  msixData : Kv Nat
  msixPend : Kv Bool
  /-- The queue served last, for the round robin of 15 R342. -/
  lastQueue : Nat
  /-- Queues with a fetched image command, in the order of their fetch (15 R342). -/
  order : List Nat
  /-- An export in progress. -/
  job : Option ExportJob
  /-- The link is trained: rate and width stand in the dictionary. -/
  linkUp : Bool
  perstLow : Bool
  deriving DecidableEq, Repr

/-- The host interface after a package reset. -/
def HostIf.reset : HostIf where
  queues := Vector.ofFn fun q => HostQueue.reset q.val
  rings := Vector.ofFn fun r => EventRing.reset (64 + r.val)
  winBase := 0
  bar2Log2 := 41
  cfg := Vector.replicate 2 .reset
  msixAddr := []
  msixData := []
  msixPend := []
  lastQueue := 63
  order := []
  job := none
  linkUp := false
  perstLow := false

/-! ## Events and interrupts (chapter 17) -/

/-- SRC_STATUS.STATE (17 Table 17.2). -/
inductive SrcSt where
  | idle | pending | active | quarantined
  deriving DecidableEq, Repr

/-- One event source (17 R382, R383, Tables 17.6 and 17.7). -/
structure SrcRec where
  cfg : BitVec 64
  st : SrcSt
  core : Nat
  fast : Bool
  repend : Bool
  level : Bool
  /-- The LEVEL sample of the claim in progress (17 R386). -/
  sample : Option Bool
  count : Nat
  vanished : Nat
  detail0 : Nat
  detail1 : Nat
  /-- Assertions in the current 1 ms interval. -/
  storm : Nat
  /-- Quarantined while its claim is still ACTIVE. -/
  quar : Bool
  deriving DecidableEq, Repr

/-- One die's interrupt controller (17 R389, R390, Tables 17.9 and 17.10). -/
structure IntCtl where
  claimMode : Bool
  entry : Nat
  sizeLog2 : Nat
  head : Nat
  tail : Nat
  seq : Nat
  slots : Kv (List Byte)
  deriving DecidableEq, Repr

/-- An external input: the filtered level (true while active, that is low), and EXT_FILTER_i (17 R381). -/
structure ExtIn where
  filtered : Bool
  filter : Nat
  deriving DecidableEq, Repr

/-- The events side of the package. -/
structure Irq where
  src : Kv SrcRec
  ic : Vector IntCtl 8
  ext : Vector ExtIn 21
  /-- Zenith cores that are restarting take no part in routing (16 R352). -/
  restarting : BitVec 8
  /-- The Contrail event queue: records and the sequence number (17 R391). -/
  contrail : List (List Byte)
  contrailSeq : Nat
  deriving DecidableEq, Repr

/-- The events side after a package reset: every controller in QUEUE mode, every source idle. -/
def Irq.reset : Irq where
  src := []
  ic := Vector.replicate 8 ⟨false, 0, 8, 0, 0, 0, []⟩
  ext := Vector.replicate 21 ⟨false, 25⟩
  restarting := 0
  contrail := []
  contrailSeq := 0

/-! ## The tick network (chapters 02 and 10) -/

/-- A merged wave (10 Table 10.9): OPEN, and the 64 FLAGS entries as one number of 16 bits each. -/
structure Wave where
  openBits : Nat
  flags : Nat
  deriving DecidableEq, Repr

/-- A contribution of this package for a frame (02 R39, R40). -/
structure Contrib where
  bits : Nat
  sealed : Bool
  deriving DecidableEq, Repr

/-- The package's part of the tick network. -/
structure TickNet where
  /-- The tick counter (02 R26), and whether any tick has arrived since the package reset. -/
  count : Nat
  arrived : Bool
  /-- The ticks whose hold has not ended, oldest first (10 R225). -/
  holds : List Nat
  /-- The last tick fired or received, whose later copies are only compared. -/
  seen : Option Nat
  /-- The current period in ns, and the stretch policy's two counts (02 R38). -/
  period : Nat
  lateRun : Nat
  clearRun : Nat
  waves : Kv Wave
  /-- The oldest tick at which this package originated a wave since the reset. -/
  firstWave : Option Nat
  /-- Contributions by frame number. -/
  contribs : Kv Contrib
  payloads : Kv Payload
  /-- TICK_PAYLOAD (02 Table 2.10): frame, and payload. -/
  lastFrame : Nat
  lastPayload : Payload
  /-- The last 64 ticks at which this package delivered a payload, newest first, with what it delivered. -/
  delivered : List (Nat × Payload)
  /-- A conflict of masters is active; the always-on cycle of the last foreign marker (02 R24). -/
  conflict : Bool
  conflictAt : Nat
  /-- BASE_PERIOD of the last marker received (02 R25). -/
  markerBase : Option Nat
  /-- The intervals between the last accepted TICK_IN edges in ns, newest first, since the mode was set. -/
  edges : List Nat
  edgesSeen : Nat
  /-- When TICK_DELAY_EXCEEDED was last raised. -/
  exceededAt : Option Nat
  deriving DecidableEq, Repr

/-- The tick network after a package reset. -/
def TickNet.reset : TickNet where
  count := 0
  arrived := false
  holds := []
  seen := none
  period := 100000
  lateRun := 0
  clearRun := 0
  waves := []
  firstWave := none
  contribs := []
  payloads := []
  lastFrame := 0
  lastPayload := ⟨0, false⟩
  delivered := []
  conflict := false
  conflictAt := 0
  markerBase := none
  edges := []
  edgesSeen := 0
  exceededAt := none

/-! ## Fabric ports (chapter 10) and the route and topology tables (chapter 11) -/

/-- The port states (10 Table 10.4). -/
inductive PortSt where
  | disabled | training | measuring | up | retraining | quiescent | down
  deriving DecidableEq, Repr

/-- What a DATA frame carries, so that its fate can be reported to the unit that sent it: a frame forwarded for
another package, a chunk of a collective, a message or row of an exchange (kind 0 manifest, 1 grant, 2 row, 3 return,
with its item), or a fingerprint message. -/
inductive FrameOwner where
  | transit
  | coll (die frame id chunk : Nat)
  | exch (die frame id kind item : Nat)
  | gauge
  deriving DecidableEq, Repr

/-- A DATA frame that waits to be sent on a port; `arrival` is the port whose receive buffer a forwarded frame holds, with
that port's epoch at its arrival. -/
structure OutFrame where
  dest : Nat
  addr : Nat
  tag : Nat
  payload : List Byte
  owner : FrameOwner
  arrival : Option (Nat × Nat)
  deriving DecidableEq, Repr

/-- A DATA frame in the replay buffer (10 R217). -/
structure SentFrame where
  seq : Nat
  vc : Nat
  bytes : List Byte
  owner : FrameOwner
  replayed : Bool
  deriving DecidableEq, Repr

/-- A DATA frame in a receive buffer (10 R216). `epoch` is the port's epoch at its arrival. -/
structure RxFrame where
  dest : Nat
  addr : Nat
  tag : Nat
  payload : List Byte
  epoch : Nat
  deriving DecidableEq, Repr

/-- One fabric port (10 R209 to R233). -/
structure Port where
  en : Bool
  tickEn : Bool
  fec : Nat
  trim : Nat
  st : PortSt
  /-- The FEC mode that the last training selected. -/
  fecNow : Nat
  lastCause : Nat
  retrains : Nat
  /-- Partner identifier and port, as last exchanged, and the one whose link was last in service. -/
  partner : Option (Nat × Nat)
  served : Option (Nat × Nat)
  partnerQuiescent : Bool
  /-- PORT_TRAIN_SLOW was raised in this training. -/
  slow : Bool
  /-- A port in RETRAINING has trained again and is measuring. -/
  remeasuring : Bool
  /-- The latency d in use, and one that replaces it at the next tick (10 R222). -/
  d : Nat
  dNext : Option Nat
  /-- STAMPs of the requests outstanding, oldest first, and the values measured in this state, newest first. -/
  probes : List Nat
  measured : List Int
  /-- Sending: the next SEQ, the replay buffer, and units sent and freed by the partner, per VC. -/
  txSeq : Nat
  unacked : List SentFrame
  sent : Vector Nat 3
  credit : Vector Nat 3
  outq : Vector (List OutFrame) 3
  /-- Receiving: the next SEQ, whether frames are discarded after a NAK, frames accepted since the last CTRL frame,
  units received and freed per VC, and the buffers. -/
  rxSeq : Nat
  discarding : Bool
  sinceAck : Nat
  /-- Credit was freed since the last CTRL frame. -/
  owed : Bool
  recv : Vector Nat 3
  freed : Vector Nat 3
  rx : Vector (List RxFrame) 3
  epoch : Nat
  /-- After RETRAINING, DATA frames wait for the partner's CTRL frame with its credit counts (10 Table 10.4). -/
  awaitCtrl : Bool
  /-- Violations of the last millisecond as (class, time), and when PORT_VIOLATION was last raised. -/
  viols : List (Nat × Nat)
  violAt : Option Nat
  /-- Times of entry into RETRAINING in the last second. -/
  retrainAt : List Nat
  /-- DS_CTRL, DS_TICK and DS_SEED; whether a write waits for the next frame boundary; the tick at which injection
  began; j; and the frames held back by REORDER, the one to be sent first at the head (10 R232). -/
  dsCtrl : Nat
  dsTick : Nat
  dsSeed : Nat
  dsWait : Bool
  dsArmed : Option Nat
  dsJ : Nat
  dsHeld : List (List Byte)
  deriving DecidableEq, Repr

/-- A port after a package reset, before EN is set from PORT_ENABLE. -/
def Port.reset : Port where
  en := false
  tickEn := true
  fec := 0
  trim := 0
  st := .disabled
  fecNow := 0
  lastCause := 0
  retrains := 0
  partner := none
  served := none
  partnerQuiescent := false
  slow := false
  remeasuring := false
  d := 0
  dNext := none
  probes := []
  measured := []
  txSeq := 0
  unacked := []
  sent := Vector.replicate 3 0
  credit := Vector.replicate 3 0
  outq := Vector.replicate 3 []
  rxSeq := 0
  discarding := false
  sinceAck := 0
  owed := false
  recv := Vector.replicate 3 0
  freed := Vector.replicate 3 0
  rx := Vector.replicate 3 []
  epoch := 0
  awaitCtrl := false
  viols := []
  violAt := none
  retrainAt := []
  dsCtrl := 0
  dsTick := 0
  dsSeed := 0
  dsWait := false
  dsArmed := none
  dsJ := 0
  dsHeld := []

/-- The ports, and the tables of chapter 11. -/
structure Fabric where
  ports : Vector Port 24
  /-- ROUTE_p (11 Table 11.7). -/
  route : Kv Nat
  /-- TOPO_STAGE_n_s by 4n + s, and TOPO_MEMBERS_n_s_i by (4n + s) * 16 + i (11 Tables 11.8, 11.9). -/
  stage : Kv Nat
  members : Kv Nat
  deriving DecidableEq, Repr

/-- The fabric after a package reset: PORT_ENABLE sets EN of every port once the reset has ended (10 R219). -/
def Fabric.reset : Fabric := ⟨Vector.replicate 24 Port.reset, [], [], []⟩

/-! ## Collectives, Skein and Cirrus (chapters 11, 12 and 14) -/

/-- A ring stage as a collective runs it: a reduction or a gather over `n` members, this member's rank, the members'
package identifiers or die numbers in ring order, the STAGE and STEP values its frames carry, and where its data lies:
the first DST byte of its span for a gather, the first element of its input for a reduction. -/
structure CollPhase where
  reduce : Bool
  stage : Nat
  n : Nat
  rank : Nat
  isLocal : Bool
  ids : List Nat
  step0 : Nat
  base : Nat
  /-- Elements of the input of a reduction, or bytes of one member's block of a gather. -/
  size : Nat
  /-- The phase belongs to the replica combination of 14 R324. -/
  replica : Bool
  /-- The format code of its elements on the wire: FP32 or FP16. -/
  wire : Nat
  /-- A reduction: its input, with the sums in place as they are formed; none is poison. -/
  vals : List (Option F32)
  /-- A gather: this member's own block; none is poison. -/
  block : List (Option Byte)
  /-- Ranges of `vals` or of `block` that the phase before has not yet left here. -/
  gaps : List (Nat × Nat)
  /-- Pieces of the first chunk not yet sent: offset and bytes. -/
  unsent : List (Nat × Nat)
  /-- Parts of the chunks that have not arrived: ring step, from byte, to byte. -/
  due : List (Nat × Nat × Nat)
  deriving DecidableEq, Repr

/-- An entry of a PERMUTE map (11 Table 11.4). -/
structure PermRange where
  rank : Nat
  offset : Nat
  bytes : Nat
  peer : Nat
  deriving DecidableEq, Repr

/-- Data of a chunk in zero-run form that has not all arrived. -/
structure CollPart where
  step : Nat
  rank : Nat
  offset : Nat
  bytes : List Byte
  poison : Bool
  deriving DecidableEq, Repr

/-- A collective in progress on a die (11 R235, R482). -/
structure CollRun where
  core : Nat
  seq : Nat
  pc : Nat
  frame : Nat
  id : Nat
  desc : List Byte
  /-- The phases of its reduction and gather, or of the replica combination of a segment, in order. -/
  phases : List CollPhase
  parts : List CollPart
  /-- For each segment, the bytes still missing and its code. -/
  segs : List (Nat × Nat)
  /-- PERMUTE: the incoming map as it was read; none is an entry read as poison. -/
  inMap : List (Option PermRange)
  /-- TO_CIRRUS: the shard's values, the ranges of it not yet summed, and how many values are handed over. -/
  shard : List (Option F32)
  shardGaps : List (Nat × Nat)
  handed : Nat
  /-- Ranges of elements that waited for a chunk that failed (11 R250). -/
  missed : List (Nat × Nat)
  /-- Ranges of the shard whose combination with the replicas failed (14 R324). -/
  repMissed : List (Nat × Nat)
  nonfinite : Bool
  /-- A combination with the replicas gave NONFINITE status (14 R324). -/
  repNonfinite : Bool
  aborted : Bool
  /-- Accepted while a collective of the same pair was in progress (11 R236). -/
  duplicate : Bool
  deriving DecidableEq, Repr

/-- A frame between two dies of the package (11 R239). -/
structure LocalFrame where
  src : Nat
  payload : List Byte
  deriving DecidableEq, Repr

/-- A die's collectives engine. -/
structure CollEngine where
  runs : List CollRun
  /-- The core served last (round robin). -/
  last : Nat
  inbox : List LocalFrame
  deriving DecidableEq, Repr

/-- Part of a message or row of an exchange that has not all arrived (12 R275). -/
structure ExchPart where
  kind : Nat
  rank : Nat
  expert : Nat
  index : Nat
  late : Bool
  offset : Nat
  bytes : List Byte
  poison : Bool
  deriving DecidableEq, Repr

/-- A row this member granted: local expert, buffer row, source rank and code (255 while it is awaited). -/
structure ExchRow where
  expert : Nat
  row : Nat
  rank : Nat
  code : Nat
  deriving DecidableEq, Repr

/-- An exchange in progress on a die (12 R256). -/
structure ExchRun where
  core : Nat
  seq : Nat
  pc : Nat
  frame : Nat
  step : Nat
  id : Nat
  desc : List Byte
  parts : List ExchPart
  /-- Manifests held, as (source rank, words), and ranks whose grant has arrived. -/
  manifests : List (Nat × List Nat)
  granted : List Nat
  /-- The offers of this member's own manifest to each rank: (rank, expert, entries), late entries above 2^31. -/
  offers : List (Nat × Nat × List Nat)
  /-- Codes of the member's list entries, 255 while open. -/
  entries : List Nat
  rows : List ExchRow
  /-- COMBINE: STAGE slots filled, as (slot, poisoned); codes of the DST rows; codes of the returns sent. -/
  slots : List (Nat × Bool)
  tokens : List Nat
  returns : List Nat
  /-- List entries whose row this member sent. -/
  sent : List Nat
  nonfinite : Bool
  aborted : Bool
  finished : Bool
  duplicate : Bool
  deriving DecidableEq, Repr

/-- A die's Skein unit. -/
structure SkeinUnit where
  runs : List ExchRun
  last : Nat
  deriving DecidableEq, Repr

/-- An update in progress (14 R304). -/
structure UpdRun where
  core : Nat
  seq : Nat
  pc : Nat
  frame : Nat
  step : Nat
  desc : List Byte
  /-- The shard table as read at acceptance: header and piece records. -/
  table : List Byte
  /-- Package address of the commit record. -/
  commit : Nat
  first : Nat
  count : Nat
  lr : F32
  wd : F32
  /-- Block codes, 255 while open. -/
  codes : List Nat
  /-- Gradient values received and not yet consumed, by element of the shard; none is poison. -/
  grads : List (Nat × Option F32)
  /-- Bands in the staging ring, oldest first: first element, place in the ring, and bytes. -/
  bands : List (Nat × Nat × Nat)
  /-- Bytes of the ring given to bands so far. -/
  ringPos : Nat
  /-- First elements of the bands whose last value has arrived. -/
  ready : List Nat
  /-- Blocks whose engine products are still to run, in order: block, core, products left. -/
  prods : List (Nat × Nat × Nat)
  /-- FREEZE: committed auxiliary state that it copied was poison. -/
  auxBad : Bool
  deriving DecidableEq, Repr

/-- A commit record that a die tracks: its address, the shard table's address, the step pending, the block shape and
COLL_ID of the step's UPDs, the blocks selected, and what its last UPD gave (14 R309, R312). -/
structure RecTrack where
  addr : Nat
  table : Nat
  pending : Option Nat
  blockRows : Nat
  blockCols : Nat
  collId : Nat
  frame : Nat
  /-- The blocks selected in the step, as (first, count). -/
  selected : List (Nat × Nat)
  workSr : Bool
  repTopo : Nat
  repStages : Nat
  /-- The state while the unit works on the record: 4 refreshing, 5 repairing, 0 neither. -/
  busy : Nat
  /-- This member's fingerprint messages not yet compared, the oldest first. -/
  own : List (List Byte)
  /-- REP_RANK of the member a repair copies from. -/
  source : Nat
  /-- The source of a repair that begins when the record is IDLE. -/
  repairDue : Option Nat
  /-- What the step's updates keep of each auxiliary slot, as (offset, bytes). -/
  auxTaken : List (Nat × Nat)
  deriving DecidableEq, Repr

/-- A fingerprint message held (14 R329). -/
structure GaugeMsg where
  bytes : List Byte
  deriving DecidableEq, Repr

/-- A die's Cirrus unit. -/
structure CirrusUnit where
  upds : List UpdRun
  last : Nat
  recs : List RecTrack
  msgs : List GaugeMsg
  deriving DecidableEq, Repr

/-- The exchange units of a die. -/
structure DieUnits where
  coll : CollEngine
  skein : SkeinUnit
  cirrus : CirrusUnit
  deriving DecidableEq, Repr

/-- A die's units with nothing in progress. -/
def DieUnits.reset : DieUnits := ⟨⟨[], 3, []⟩, ⟨[], 3⟩, ⟨[], 3, [], []⟩⟩

/-! ## Power, temperature and ageing (chapter 19), and the clock domains (chapter 20) -/

/-- One on-die sensor (19 R436, R437): reading and estimate in 0.125 °C, suspect, and the consecutive checks in which it
differed by more than 8 °C, or agreed within 4 °C. -/
structure Sensor where
  reading : Int
  estimate : Int
  suspect : Bool
  off : Nat
  agree : Nat
  deriving DecidableEq, Repr

/-- The learning record of one phase tag on one die (19 R427): occurrences, and for each of the last 16 its energy in µJ,
the elapsed cycles of the die's four cores, and its time in µs, newest first. -/
structure PhaseRec where
  count : Nat
  occs : List (Nat × List Nat × Nat)
  lastClock : Nat
  deriving DecidableEq, Repr

/-- The power state of one die. -/
structure PowerDie where
  /-- The last confirmed VDD_CORE voltage in mV, and a command not yet confirmed: its voltage, and whether it is the
  repeat (19 R430). -/
  voltage : Nat
  asked : Option (Nat × Bool)
  avsFault : Bool
  /-- Die and Stratus power in mW, 10 µs average, and the 25 MHz steps of R431. -/
  stackMw : Nat
  stackSteps : Nat
  /-- The 100 MHz steps of the die's and the stack's thermal limits (19 R438). -/
  thermal : Nat
  hbm : Nat
  sensors : Vector Sensor 64
  hbmTemp : Int
  /-- A sensor of the die stands at or above CRIT_TEMP. -/
  crit : Bool
  /-- Droop stretches since the last DROOP_ACTIVITY, and when that was. -/
  droops : Nat
  droopAt : Option Nat
  /-- Energy of the running frame by phase tag, in µJ; a cause of R435 acted in the frame. -/
  energy : Kv Nat
  throttled : Bool
  phases : Kv PhaseRec
  deriving DecidableEq, Repr

/-- CORE_CLOCK_n (19 Table 19.7). -/
structure CoreClk where
  plan : Nat
  now : Nat
  floor : Nat
  deriving DecidableEq, Repr

/-- A rail group (19 R422, R433, R434): its alert input is low; its alert holds the lowest state; it is below its warning
level; its dip holds the lowest state, with the lowest reading in mV, the cycle at which the dip began, and its duration
below the level in µs; and when it last rose above the level. -/
structure RailGroup where
  alertLow : Bool
  alertHeld : Bool
  dipLow : Bool
  dipHeld : Bool
  dipMv : Nat
  dipAt : Nat
  dipUs : Nat
  upAt : Option Nat
  deriving DecidableEq, Repr

/-- A remote channel: REMOTE_WARNING is active. -/
structure Remote where
  warn : Bool
  crit : Bool
  deriving DecidableEq, Repr

/-- One ageing re-plan: OPERATING_HOURS, and the guard bands of the dies. -/
structure Replan where
  hour : Nat
  guards : List Nat
  deriving DecidableEq, Repr

/-- The power controller. -/
structure Power where
  dies : Vector PowerDie 8
  clk : Vector CoreClk 32
  groups : Vector RailGroup 20
  remote : Vector Remote 8
  /-- The budget in force, and the clock limit of R425 in MHz. -/
  budget : Nat
  cap : Option Nat
  /-- 19 R440: every core runs at 800 MHz until a resume or an unload. -/
  halted : Bool
  /-- 19 R441: a privileged comparator has tripped. -/
  tripped : Bool
  /-- Guard bands in mV and the re-plans, newest first: kept on VDD_AON (19 R445). -/
  guard : Vector Nat 8
  replans : List Replan
  /-- The largest delay growth of each physical core in 0.001%, as last measured (16 Table 16.15). -/
  growth : List Nat
  deriving DecidableEq, Repr

/-- A die's power state after a package reset. -/
def PowerDie.reset : PowerDie where
  voltage := 0
  asked := none
  avsFault := false
  stackMw := 0
  stackSteps := 0
  thermal := 0
  hbm := 0
  sensors := Vector.replicate 64 ⟨0, 0, false, 0, 0⟩
  hbmTemp := 0
  crit := false
  droops := 0
  droopAt := none
  energy := []
  throttled := false
  phases := []

/-- The power controller after a package reset. -/
def Power.reset : Power where
  dies := Vector.replicate 8 PowerDie.reset
  clk := Vector.replicate 32 ⟨0, 0, 0⟩
  groups := Vector.replicate 20 ⟨false, false, false, false, 0, 0, 0, none⟩
  remote := Vector.replicate 8 ⟨false, false⟩
  budget := 0
  cap := none
  halted := false
  tripped := false
  guard := Vector.replicate 8 0
  replans := []
  growth := []

/-- CROSS_INFO of a die (20 Table 20.6). -/
structure CrossInfo where
  timeout : Bool
  requester : Nat
  write : Bool
  offset : Nat
  deriving DecidableEq, Repr

/-- The clocks: PLL_LOCK and CROSS_INFO of each die, the time each PLL last lost lock (by 16 * die + bit), the references,
and the snapshot of each requester (0 host, 1 to 8 Zenith, 9 to 16 debug) as (register address, value) (20 R455). -/
structure Clocks where
  lock : Vector Nat 8
  cross : Vector CrossInfo 8
  lost : Kv (Option Nat)
  aonInternal : Bool
  serdesOk : Bool
  pcieOk : Bool
  snaps : Vector (Option (Nat × Nat)) 17
  deriving DecidableEq, Repr

/-- The clocks after a package reset: every field of Tables 20.5 and 20.6 reads 0. -/
def Clocks.reset : Clocks where
  lock := Vector.replicate 8 0
  cross := Vector.replicate 8 ⟨false, 0, false, 0⟩
  lost := []
  aonInternal := false
  serdesOk := false
  pcieOk := false
  snaps := Vector.replicate 17 none

/-! ## Bring-up, reset, yield and firmware (chapters 16 and 18) -/

/-- A physical core at its last swatch test: its own test failed, and its engines that failed (18 R406, R407). -/
structure PhysCore where
  coreFail : Bool
  failed : BitVec 5
  deriving DecidableEq, Repr

/-- A firmware slot of the flash (16 R370): it verifies, its version and rollback number, and its marks. -/
structure FwSlot where
  valid : Bool
  version : Nat
  rollback : Nat
  pending : Bool
  /-- SHA-384 of its signed bytes once an update has written the slot; none for what it held before. -/
  digest : Option Nat
  deriving DecidableEq, Repr

/-- What 18 R396 to R421 keep. -/
structure Life where
  /-- RESET_STATUS (18 Table 18.7). -/
  stage : Nat
  lastPackage : Nat
  lastCompute : Nat
  computeResets : Nat
  packageResets : Nat
  /-- READY is driven high. -/
  ready : Bool
  /-- The always-on cycle at which the bring-up or compute reset began. -/
  beganAt : Nat
  /-- A compute reset waits for Cirrus refreshes to end (step 2). -/
  resetting : Bool
  /-- It runs the bond self-test. -/
  withBond : Bool
  /-- Dies whose stages 3a and 3b have ended; whether a stack failed for good. -/
  stratusUp : BitVec 8
  hbmUp : BitVec 8
  /-- A failure that moves the package to FAULT when bring-up ends: the source. -/
  failCause : Option Nat
  railsWaited : Bool
  phys : Vector PhysCore 32
  /-- Logical cores present, 0 before the first swatch test (18 R408). -/
  present : BitVec 32
  /-- ENGINE_FAILS, and engine failures not repaired: kept on VDD_AON. -/
  fails : Kv Nat
  /-- Lane groups whose spare is in use, by (die * 4 + layer) * 512 + group, and spare rows used, by die * 4 + layer. -/
  lanes : Kv Nat
  rows : Kv Nat
  /-- The fused grade code, and whether the grade carries the suffix D. -/
  fuse : Nat
  dGrade : Bool
  /-- Fused rollback number and revocation epoch (18 R414, 16 R374). -/
  fuseRollback : Nat
  fuseEpoch : Nat
  /-- The revocation epoch in force since the last entry into PREOP. -/
  epoch : Nat
  /-- Grade code, rollback number and revocation epoch as the last package reset measured them (16 R376). -/
  fuseMeasured : Nat × Nat × Nat
  /-- Slots A and B, the active one, the running one, and an update in progress with whether its component has been
  verified. -/
  slots : Vector FwSlot 2
  active : Fin 2
  running : Fin 2
  update : Option Bool
  /-- Running from a slot marked pending that has not reached PREOP. -/
  trial : Bool
  /-- A due bond test: the hour at which it became due, and when BOND_TEST_DUE was last raised. -/
  bondDue : Option Nat
  bondRaised : Option Nat
  /-- Health records written to flash, and whether flash holds a valid one: the guard bands and failure counts. -/
  health : Option (List Nat × Kv Nat)
  /-- The order in which the rail groups first reached 90% at the last bring-up (21 R472). -/
  railOrder : List Nat
  /-- VDD_AON is down; it has been down since the health record was last restored (16 R371, 18 R398). -/
  aonOff : Bool
  aonLost : Bool
  /-- TEST_EN as sampled when SYS_RESET_N last rose (21 R467). -/
  testEn : Bool
  deriving DecidableEq, Repr

/-- The life cycle right after the package reset that VDD_AON causes: stage 1, READY low. -/
def Life.reset : Life where
  stage := 1
  lastPackage := 1
  lastCompute := 0
  computeResets := 0
  packageResets := 1
  ready := false
  beganAt := 0
  resetting := false
  withBond := false
  stratusUp := 0
  hbmUp := 0
  failCause := none
  railsWaited := false
  phys := Vector.replicate 32 ⟨false, 0⟩
  present := 0
  fails := []
  lanes := []
  rows := []
  fuse := 0x40
  dGrade := false
  fuseRollback := 0
  fuseEpoch := 0
  epoch := 0
  fuseMeasured := (0x40, 0, 0)
  slots := Vector.replicate 2 ⟨true, 0x01000000, 0, false, none⟩
  active := 0
  running := 0
  update := none
  trial := false
  bondDue := none
  bondRaised := none
  health := none
  railOrder := []
  aonOff := false
  aonLost := true
  testEn := false

/-! ## Management (chapter 16) -/

/-- A snapshot a master holds (16 R358): the object, its whole value, and when it was taken. -/
structure Snap where
  key : Nat
  bytes : List Byte
  time : Nat
  deriving DecidableEq, Repr

/-- An installed licence record, and whether it is valid since the last check (16 R372 to R374). -/
structure Licence where
  bytes : List Byte
  valid : Bool
  deriving DecidableEq, Repr

/-- What one master has reached with the SPDM responder (16 R375): 0 nothing, 1 version, 2 capabilities, 3 algorithms;
a key exchange not finished; and a session. -/
structure Spdm where
  step : Nat
  exchanging : Bool
  session : Bool
  deriving DecidableEq, Repr

/-- The management side of the package. Masters: 0 the host, 1 Contrail. -/
structure Mgmt where
  /-- Locks held, as (index, master). -/
  locks : List (Nat × Nat)
  snaps : Vector (Option Snap) 2
  /-- The mailbox: IRQ_EN, KIND, BUSY, DONE, request and response buffers, and MBX_EVENT. -/
  irqEn : Bool
  kind : Bool
  busy : Bool
  mbxDone : Bool
  request : List Byte
  response : List Byte
  evIndex : Nat
  evState : Bool
  evLock : Bool
  /-- The last watchdog expiry of each Zenith core. -/
  watchdog : Vector (Option Nat) 8
  /-- I3C maximum read and write length. -/
  mrl : Nat
  mwl : Nat
  licences : List Licence
  spdm : Vector Spdm 2
  /-- The bytes of the loaded image, of the RWP values as of the last entry into OPERATIONAL, and of the running firmware
  slot, that 16 R376 measures. -/
  imageBytes : List Byte
  rwpValues : List (Nat × Nat)
  deriving DecidableEq, Repr

/-- Management after a package reset. -/
def Mgmt.reset : Mgmt where
  locks := []
  snaps := Vector.replicate 2 none
  irqEn := false
  kind := false
  busy := false
  mbxDone := false
  request := []
  response := []
  evIndex := 0
  evState := false
  evLock := false
  watchdog := Vector.replicate 8 none
  mrl := 0
  mwl := 0
  licences := []
  spdm := Vector.replicate 2 ⟨0, false, false⟩
  imageBytes := []
  rwpValues := []

/-! ## The state -/

/-- The state of the package. -/
structure State where
  /-- The commands that are waiting, first in, first out. -/
  pending : List Instr
  /-- Always-on cycles (25 MHz) since the state began: what time-driven rules compare. -/
  now : Nat
  /-- What the package has done to the outside, newest first. -/
  out : List Output
  /-- How many free values have been drawn: the model's own field. -/
  free : Nat
  /-- The Enytre dictionary's numeric values, by key; an unlisted object holds its default (16 R355). -/
  dict : Kv Nat
  /-- Stratus and HBM, by package address; an unlisted byte reads as 0 (08 R159). -/
  mem : List Host.Cell
  /-- Deviation of a page's check symbols from the code of its data, by the page's address (09 R194). -/
  pageDev : Kv Nat
  /-- Deviation of a byte's check bits, by the byte's address (09 R196). -/
  byteDev : Kv Nat
  /-- Scratchpads, by core * 2^24 + offset. -/
  scratch : List Host.Cell
  /-- Deviation of a scratchpad word's check bits, by the word's key. -/
  wordDev : Kv Nat
  /-- FENCE_LOG: die, memory and address, newest first (09 R208). -/
  fenceLog : List (Nat × Nat × Nat)
  wear : Wear
  cores : Vector CoreState 32
  dies : Vector DieMem 8
  host : HostIf
  irq : Irq
  run : Run
  tick : TickNet
  fabric : Fabric
  units : Vector DieUnits 8
  /-- The logical cores on whose engines a Cirrus product runs (03 R66). -/
  cirrusOn : List Nat
  /-- The highest frame number whose delivered payload carried EXCHANGE_FAULT (11 R251, 12 R278). -/
  faulted : Option Nat
  power : Power
  clocks : Clocks
  life : Life
  mgmt : Mgmt
  deriving DecidableEq, Repr

/-- The package right after a package reset (18 R396). -/
def State.reset : State where
  pending := []
  now := 0
  out := []
  free := 0
  dict := []
  mem := []
  pageDev := []
  byteDev := []
  scratch := []
  wordDev := []
  fenceLog := []
  wear := .reset
  cores := Vector.replicate 32 CoreState.reset
  dies := Vector.replicate 8 DieMem.reset
  host := HostIf.reset
  irq := Irq.reset
  run := Run.reset
  tick := TickNet.reset
  fabric := Fabric.reset
  units := Vector.replicate 8 DieUnits.reset
  cirrusOn := []
  faulted := none
  power := Power.reset
  clocks := Clocks.reset
  life := Life.reset
  mgmt := Mgmt.reset

end Sys2Proof.Machine
end

