-- ==== Sys2Proof/Machine/Ops.lean ====
section
/-!
DEFINITION. Machine/Ops.lean: the named operations over the state that every family of commands uses: its vectors,
the dictionary and its counters, outputs to the outside, and free values.
-/
namespace Sys2Proof.Machine

/-- The answer of a command that has its effect. -/
abbrev Result := Host.Outcome State Fault Refusal

/-- The element `i` of a vector changed by `f`. -/
def vmod {α : Type} {n : Nat} (v : Vector α n) (i : Fin n) (f : α → α) : Vector α n := v.set i (f v[i])

/-- A logical core's state. -/
def State.core (s : State) (c : CoreId) : CoreState := s.cores[c]

/-- The state with logical core `c` replaced. -/
def State.setCore (s : State) (c : CoreId) (x : CoreState) : State := { s with cores := s.cores.set c x }

/-- The state with logical core `c` changed by `f`. -/
def State.modCore (s : State) (c : CoreId) (f : CoreState → CoreState) : State := s.setCore c (f (s.core c))

/-- A die's memory system. -/
def State.die (s : State) (d : DieId) : DieMem := s.dies[d]

/-- The state with a die's memory system changed by `f`. -/
def State.modDie (s : State) (d : DieId) (f : DieMem → DieMem) : State := { s with dies := vmod s.dies d f }

/-- The die that hosts a logical core (00 R4). -/
def dieOf (c : CoreId) : DieId := ⟨c.val / 4, by omega⟩

/-- The index of a die, from a number reduced modulo 8. -/
def dieFin (d : Nat) : DieId := ⟨d % 8, Nat.mod_lt _ (by decide)⟩

/-- The index of a logical core, from a number reduced modulo 32. -/
def coreFin (c : Nat) : CoreId := ⟨c % 32, Nat.mod_lt _ (by decide)⟩

/-- The index of a port, from a number reduced modulo 24. -/
def portFin (p : Nat) : PortId := ⟨p % 24, Nat.mod_lt _ (by decide)⟩

/-- Every logical core, in order. -/
def allCores : List CoreId := List.finRange 32

/-- Every die, in order. -/
def allDies : List DieId := List.finRange 8

/-- An output added to the record of what the package did. -/
def State.emit (s : State) (o : Output) : State := { s with out := o :: s.out }

/-- A numeric dictionary value; an object not written holds its default. -/
def State.obj (s : State) (key : Nat) : Nat := kvGet (objDefault key) s.dict key

/-- A numeric dictionary value set. -/
def State.setObj (s : State) (key v : Nat) : State := { s with dict := kvSet (objDefault key) s.dict key v }

/-- A dictionary counter advanced by `n`; counters wrap at their width. -/
def State.bumpBy (s : State) (key n : Nat) : State := s.setObj key ((s.obj key + n) % 2 ^ objWidth key)

/-- A dictionary counter advanced by one. -/
def State.bump (s : State) (key : Nat) : State := s.bumpBy key 1

/-- A free value: nothing constrains it, and each draw is its own. -/
def State.draw (s : State) : Nat × State := (Config.freeValue s.free, { s with free := s.free + 1 })

/-- The state changed by `f` for each element of the list, in order. -/
def State.each {α : Type} (l : List α) (f : State → α → State) (s : State) : State := l.foldl f s

/-- The state changed by `f` when the condition holds. -/
def State.when (s : State) (b : Bool) (f : State → State) : State := if b then f s else s

/-- Nanoseconds as always-on cycles of 40 ns, rounded up. -/
def cyclesOfNs (ns : Nat) : Nat := cdiv ns 40

/-- Microseconds as always-on cycles. -/
def cyclesOfUs (us : Nat) : Nat := us * 25

/-- Milliseconds as always-on cycles. -/
def cyclesOfMs (ms : Nat) : Nat := ms * 25000

/-! Dictionary keys that several families use. -/

/-- TICK_MODE (02 R24). -/
def kTickMode : Nat := 0x210001
/-- BASE_PERIOD (02 R25). -/
def kBasePeriod : Nat := 0x210002
/-- FLAG_LATENCY (02 R39). -/
def kFlagLatency : Nat := 0x210003
/-- TICK_TIMEOUT (02 R27). -/
def kTickTimeout : Nat := 0x210004
/-- GLOBAL_SEED (05 R122). -/
def kSeed : Nat := 0x230001
/-- PACKAGE_ID (01 R18). -/
def kPackageId : Nat := 0x100009
/-- DEVICE_STATE (16 R354). -/
def kDeviceState : Nat := 0x100101
/-- LOSS_SCALE_EXP (13 R291). -/
def kScale : Nat := 0x670001

/-! ## The running image -/

/-- The number of logical cores the loaded image uses; 0 without an image. -/
def State.usedCores (s : State) : Nat :=
  match s.run.image with
  | some i => i.cores
  | none => 0

/-- Is logical core `c` used by the loaded image. -/
def State.usesCore (s : State) (c : CoreId) : Bool := c.val < s.usedCores

/-- The frame descriptor of the frame running, or last run. -/
def State.frameDesc (s : State) : Option FrameDesc :=
  match s.run.image with
  | some i => i.frames[s.run.desc]?
  | none => none

/-- Does the frame descriptor in force carry UPDATE (03 R66). -/
def State.isUpdateFrame (s : State) : Bool :=
  match s.frameDesc with
  | some d => d.update
  | none => false

/-- A segment of the loaded image. -/
def State.seg (s : State) (k : Nat) : Option Seg :=
  match s.run.image with
  | some i => i.segs[k]?
  | none => none

/-- CODE_BYTES of the loaded image. -/
def State.codeBytes (s : State) : Nat :=
  match s.run.image with
  | some i => i.codeBytes
  | none => 0

/-- Is an image loaded. -/
def State.hasImage (s : State) : Bool := s.run.image.isSome

/-! ## Licences (16 R372, R374) -/

/-- FEATURES of a licence record. -/
def Licence.features (l : Licence) : Nat := leAt l.bytes 0x18 4
/-- MAX_GROUP. -/
def Licence.maxGroup (l : Licence) : Nat := leAt l.bytes 0x1C 2
/-- SERIAL. -/
def Licence.serial (l : Licence) : Nat := leAt l.bytes 0x20 8
/-- EPOCH. -/
def Licence.epoch (l : Licence) : Nat := leAt l.bytes 0x28 4

/-- LICENCE_FEATURES. -/
def State.features (s : State) : Nat :=
  (s.mgmt.licences.filter (·.valid)).foldl (fun acc l => acc ||| l.features % 16) 0

/-- LICENCE_MAX_GROUP. -/
def State.maxGroup (s : State) : Nat :=
  (s.mgmt.licences.filter (·.valid)).foldl (fun acc l => if bitAt l.features 1 then max acc l.maxGroup else acc) 64

/-- Is a licensed feature granted: 0 Cirrus matrix rules, 1 group above 64, 2 Dropstitch, 3 extended telemetry. -/
def State.licensed (s : State) (bit : Nat) : Bool := bitAt s.features bit

end Sys2Proof.Machine
end

