-- ==== Sys2Proof/Machine/Events.lean ====
section
/-!
DEFINITION. Machine/Events.lean: raising an event (chapter 17). An assertion moves its source under Table 17.2 and
writes records to the destinations its routing enables: the die's queue, a host ring, vectors, and Contrail.
-/
namespace Sys2Proof.Machine

/-- What Table 17.1 and the tables of chapters 18 to 20 fix of a source: level or edge, class, priority, severity. -/
structure SrcInfo where
  level : Bool
  fast : Bool
  prio : Nat
  sev : Nat
  deriving DecidableEq, Repr

/-- An edge source of the normal class. -/
def edgeSrc (prio sev : Nat) : Option SrcInfo := some ⟨false, false, prio, sev⟩

/-- A level source of the normal class. -/
def levelSrc (prio sev : Nat) : Option SrcInfo := some ⟨true, false, prio, sev⟩

/-- An edge source of the fast class. -/
def fastSrc (sev : Nat) : Option SrcInfo := some ⟨false, true, 0, sev⟩

/-- The sources of every die (17 Table 17.1, 18 Table 18.10, 19 Table 19.12, 20 Table 20.6). -/
def srcInfoAll (l : Nat) : Option SrcInfo :=
  if 1 ≤ l && l ≤ 4 then edgeSrc 8 2
  else if 5 ≤ l && l ≤ 8 then edgeSrc 6 2
  else if 16 ≤ l && l ≤ 18 then edgeSrc 3 0
  else if 19 ≤ l && l ≤ 21 then edgeSrc 7 2
  else if 22 ≤ l && l ≤ 24 then edgeSrc 4 1
  else if 25 ≤ l && l ≤ 30 then edgeSrc 3 1
  else match l with
  | 9 => levelSrc 5 1
  | 10 => edgeSrc 2 1
  | 11 => edgeSrc 7 2
  | 12 => edgeSrc 7 2
  | 13 => edgeSrc 1 0
  | 14 => edgeSrc 1 0
  | 32 => edgeSrc 5 2
  | 33 => edgeSrc 9 2
  | 34 => edgeSrc 9 2
  | 35 => edgeSrc 9 1
  | 64 => levelSrc 6 1
  | 65 => fastSrc 2
  | 66 => fastSrc 3
  | 67 => edgeSrc 4 1
  | 68 => edgeSrc 1 0
  | 69 => edgeSrc 2 0
  | 70 => levelSrc 5 1
  | 71 => fastSrc 2
  | 72 => levelSrc 5 1
  | 73 => edgeSrc 7 2
  | 74 => edgeSrc 1 0
  | 96 => edgeSrc 5 2
  | 97 => edgeSrc 7 2
  | 160 => edgeSrc 6 2
  | 161 => edgeSrc 5 1
  | 162 => edgeSrc 8 2
  | 163 => edgeSrc 4 1
  | 164 => edgeSrc 3 0
  | 165 => edgeSrc 6 1
  | 166 => edgeSrc 4 1
  | _ => none

/-- The sources of die 0 alone. -/
def srcInfoDie0 (l : Nat) : Option SrcInfo :=
  if 288 ≤ l && l ≤ 307 then some ⟨true, true, 0, 2⟩
  else match l with
  | 98 => fastSrc 3
  | 168 => edgeSrc 8 1
  | 169 => edgeSrc 9 2
  | 170 => levelSrc 4 1
  | 171 => edgeSrc 4 1
  | 172 => fastSrc 3
  | 256 => levelSrc 10 2
  | 257 => fastSrc 3
  | 258 => edgeSrc 4 1
  | 259 => edgeSrc 4 1
  | 260 => edgeSrc 4 1
  | 261 => fastSrc 3
  | 262 => fastSrc 3
  | 263 => edgeSrc 3 1
  | 264 => edgeSrc 2 1
  | 265 => edgeSrc 6 0
  | 266 => edgeSrc 2 1
  | 267 => edgeSrc 5 2
  | 268 => edgeSrc 5 2
  | 269 => edgeSrc 4 0
  | 308 => levelSrc 4 1
  | 320 => edgeSrc 3 0
  | 321 => levelSrc 7 2
  | 322 => levelSrc 5 1
  | 323 => edgeSrc 8 2
  | 324 => edgeSrc 5 1
  | 325 => edgeSrc 8 1
  | _ => none

/-- What is fixed of source number `n`; none for a reserved source (17 R379). -/
def srcInfo (n : Nat) : Option SrcInfo :=
  if n ≥ 4096 then none
  else match srcInfoAll (n % 512) with
    | some i => some i
    | none => if n < 512 then srcInfoDie0 n else none

/-- The default TARGETS: the die's own Zenith, and another core for ZENITH_RESTART (17 R384). -/
def srcTargets (n : Nat) : Nat :=
  let d := n / 512
  if n % 512 = 35 then (if d = 0 then 2 else 1) else 2 ^ d

/-- SRC_CFG after reset (17 Table 17.6). -/
def srcCfgReset (n : Nat) : BitVec 64 :=
  match srcInfo n with
  | none => 0
  | some i => BitVec.ofNat 64
      (2 ^ 63 + i.fast.toNat * 2 ^ 62 + i.prio * 2 ^ 58 + srcTargets n * 2 ^ 50 + i.sev * 2 ^ 48)

/-- A source after reset: idle. -/
def srcReset (n : Nat) : SrcRec :=
  ⟨srcCfgReset n, .idle, 0, false, false, false, none, 0, 0, 0, 0, 0, false⟩

/-- A source's state. -/
def State.src (s : State) (n : Nat) : SrcRec := kvGet (srcReset n) s.irq.src n

/-- A source's state replaced. -/
def State.setSrc (s : State) (n : Nat) (r : SrcRec) : State :=
  { s with irq := { s.irq with src := kvSet (srcReset n) s.irq.src n r } }

/-- The interrupt controller of a die. -/
def State.ic (s : State) (d : DieId) : IntCtl := s.irq.ic[d]

/-- The interrupt controller of a die replaced. -/
def State.setIc (s : State) (d : DieId) (x : IntCtl) : State := { s with irq := { s.irq with ic := s.irq.ic.set d x } }

/-- SRC_CFG fields (17 Table 17.6). -/
def SrcRec.en (r : SrcRec) : Bool := bitAt r.cfg.toNat 63
/-- CLASS fast. -/
def SrcRec.isFast (r : SrcRec) : Bool := bitAt r.cfg.toNat 62
/-- PRIO. -/
def SrcRec.prio (r : SrcRec) : Nat := fld r.cfg.toNat 58 4
/-- TARGETS. -/
def SrcRec.targets (r : SrcRec) : Nat := fld r.cfg.toNat 50 8
/-- SEVERITY. -/
def SrcRec.sev (r : SrcRec) : Nat := fld r.cfg.toNat 48 2
/-- HOST_EN. -/
def SrcRec.hostEn (r : SrcRec) : Bool := bitAt r.cfg.toNat 31
/-- HOST_RING. -/
def SrcRec.hostRing (r : SrcRec) : Nat := fld r.cfg.toNat 28 3
/-- F1_VEC. -/
def SrcRec.f1Vec (r : SrcRec) : Nat := fld r.cfg.toNat 24 4
/-- F0_EN. -/
def SrcRec.f0En (r : SrcRec) : Bool := bitAt r.cfg.toNat 23
/-- F0_VEC. -/
def SrcRec.f0Vec (r : SrcRec) : Nat := fld r.cfg.toNat 12 11

/-! ## Vectors -/

/-- The default data word of a vector: masked, data 0. -/
def msixDataReset : Nat := 2 ^ 32

/-- The configuration space of a function. -/
def State.fnConfig (s : State) (fn : Nat) : FnConfig := if fn = 0 then s.host.cfg[0] else s.host.cfg[1]

/-- A vector is signalled, or its pending bit is set while it or its function is masked; a function whose MSI-X is not
enabled signals nothing (15 R348). PRESUMED of PCI Express (log 158). -/
def signalVector (s : State) (fn vec : Nat) : State :=
  let k := fn * 4096 + vec
  let d := kvGet msixDataReset s.host.msixData k
  if !(s.fnConfig fn).msixEn then s
  else if bitAt d 32 || (s.fnConfig fn).fnMask then { s with host := { s.host with msixPend := kvSet false s.host.msixPend k true } }
  else s.emit (.msix fn vec (kvGet 0 s.host.msixAddr k) (fld d 0 32))

/-! ## Records (17 Table 17.4) -/

/-- The 32 bytes of an event record. -/
def recordBytes (seq src kind sev tick d0 d1 : Nat) (phase : Bool) : List Byte :=
  leBytes 4 seq ++ leBytes 2 src ++ leBytes 1 kind ++ leBytes 1 sev ++ leBytes 8 tick ++ leBytes 8 d0 ++ leBytes 4 d1
    ++ leBytes 3 0 ++ leBytes 1 phase.toNat

/-- What is written to a destination that has `free` usable slots: the record, the OVERFLOW record in the last free
slot, or nothing (17 R390). -/
def recordKind (free kind : Nat) : Option Nat := if free = 0 then none else if free = 1 then some 3 else some kind

/-- A record to a die's event queue (17 R390). Its ring of 2^SIZE_LOG2 slots holds one record less than its size,
because HEAD equal to TAIL means empty. -/
def eqRecord (s : State) (d : DieId) (n kind sev d0 d1 : Nat) : State :=
  let q := s.ic d
  let size := 2 ^ q.sizeLog2
  let free := size - 1 - (q.tail + size - q.head % size) % size
  let q' := { q with seq := (q.seq + 1) % 2 ^ 32 }
  match recordKind free kind with
  | none => (s.setIc d q').bump 0x691006
  | some k =>
    let bs := recordBytes q.seq n k sev s.tick.count d0 d1 false
    s.setIc d { q' with slots := kvSet [] q.slots q.tail bs, tail := (q.tail + 1) % size }

/-- A record to a host event ring (15 R347, 17 R391), which holds as many records as it has slots. -/
def ringRecord (s : State) (r : Fin 8) (n kind sev d0 d1 : Nat) : State :=
  let q := s.host.rings[r]
  if !q.en then s
  else
    let size := 2 ^ q.size
    let free := size - q.used
    let put (x : EventRing) : State := { s with host := { s.host with rings := s.host.rings.set r x } }
    let seq' := (q.seq + 1) % 2 ^ 32
    match recordKind free kind with
    | none => (put { q with seq := seq' }).bump 0x690004
    | some k =>
      let bs := recordBytes q.seq n k sev s.tick.count d0 d1 q.phase
      let t := (q.tail + 1) % size
      let s1 := (put { q with seq := seq', tail := t, used := q.used + 1, phase := if t = 0 then !q.phase else q.phase }).emit
        (.hostWrite (q.base + 32 * q.tail) bs false)
      s1.when q.irqEn fun x => signalVector x 0 q.vector

/-- A record to Contrail's queue of 64 (17 R391). -/
def contrailRecord (s : State) (n kind sev d0 d1 : Nat) : State :=
  let seq := s.irq.contrailSeq
  let s1 := { s with irq := { s.irq with contrailSeq := (seq + 1) % 2 ^ 32 } }
  match recordKind (64 - s.irq.contrail.length) kind with
  | none => s1.bump 0x691007
  | some k =>
    let bs := recordBytes seq n k sev s.tick.count d0 d1 false
    { s1 with irq := { s1.irq with contrail := s1.irq.contrail ++ [bs] } }

/-- The destinations of 17 R391, which neither the mode nor EN affects. -/
def sendRecords (s : State) (n kind d0 d1 : Nat) : State :=
  let r := s.src n
  let s1 := s.when r.hostEn fun x => ringRecord x ⟨r.hostRing % 8, Nat.mod_lt _ (by decide)⟩ n kind r.sev d0 d1
  let s2 := s1.when (2 ≤ r.f1Vec) fun x => signalVector x 1 r.f1Vec
  let s3 := s2.when r.f0En fun x => signalVector x 0 r.f0Vec
  s3.when (s3.obj 0x110201 ≤ r.sev) fun x => contrailRecord x n kind r.sev d0 d1

/-! ## Assertion -/

/-- The Zenith side of an assertion in mode CLAIM (17 Table 17.2). -/
def pendSource (r : SrcRec) : SrcRec :=
  match r.st with
  | .idle => { r with st := .pending }
  | .pending => r
  | .active => { r with repend := true }
  | .quarantined => r

/-- The Zenith side of an assertion: it pends its source, or writes a record to the die's queue (17 R383, R389). -/
def zenithSide (s : State) (n kind d0 d1 : Nat) : State :=
  let d := dieFin (n / 512)
  let r := s.src n
  if !r.en then s
  else if (s.ic d).claimMode then s.setSrc n (pendSource r)
  else eqRecord s d n kind r.sev d0 d1

/-- A source enters QUARANTINED, or will on completion of the claim in progress, with one QUARANTINE record to every
destination its routing enables (17 R382). -/
def quarantine (s : State) (n d0 d1 : Nat) : State :=
  let r := s.src n
  let s1 := (s.setSrc n (if r.st = .active then { r with quar := true } else { r with st := .quarantined })).bump 0x691002
  let d := dieFin (n / 512)
  let s2 := s1.when (r.en && !(s.ic d).claimMode) fun x => eqRecord x d n 2 r.sev d0 d1
  sendRecords s2 n 2 d0 d1

/-- Source `n` asserts with its details (17 R380 to R383). -/
def raise (s : State) (n d0 d1 : Nat) : State :=
  match srcInfo n with
  | none => s
  | some _ =>
    let r := s.src n
    if r.st = .quarantined || r.quar then s.setSrc n { r with count := (r.count + 1) % 65536 }
    else
      let r' := { r with count := (r.count + 1) % 65536, storm := r.storm + 1,
                         detail0 := d0 % 2 ^ 64, detail1 := d1 % 2 ^ 32 }
      let s1 := (s.setSrc n r').bump 0x691001
      if s.obj 0x290001 < r'.storm then quarantine s1 n d0 d1
      else sendRecords (zenithSide s1 n 0 d0 d1) n 0 d0 d1

/-- A local source of a die asserts. -/
def raiseOn (s : State) (d : DieId) (l d0 d1 : Nat) : State := raise s (512 * d.val + l) d0 d1

/-- An internal level source's condition begins (an assertion) or ends (17 R380). -/
def setLevel (s : State) (n : Nat) (on : Bool) (d0 d1 : Nat) : State :=
  let r := s.src n
  let s1 := s.setSrc n { r with level := on }
  s1.when (on && !r.level) fun x => raise x n d0 d1

/-- An internal level source of a die. -/
def setLevelOn (s : State) (d : DieId) (l : Nat) (on : Bool) (d0 d1 : Nat) : State :=
  setLevel s (512 * d.val + l) on d0 d1

/-! ## Device states (16 R354, R356, R360) -/

/-- The header of an Enytre message (16 Table 16.3). -/
def enytreHead (op seq index sub status len off : Nat) : List Byte :=
  leBytes 1 op ++ leBytes 1 seq ++ leBytes 2 index ++ leBytes 1 sub ++ leBytes 1 status ++ leBytes 2 len ++ leBytes 4 off

/-- Lompen's PCI vendor ID before a vendor-defined MCTP message body (16 Table 16.9). -/
def mctpVendor : List Byte := [0x1F#8, 0x4E#8]

/-- A NOTIFY to the master on Contrail, announced by an in-band interrupt, once the port has an address. -/
def notifyContrail (s : State) (index sub : Nat) (data : List Byte) : State :=
  if s.obj 0x110002 = 0 then s
  else
    let r := s.draw
    (r.2.emit (.mctp 0x7E (mctpVendor ++ enytreHead 6 r.1 index sub 0 data.length 0 ++ data))).emit (.pin 3 true)

/-- MBX_EVENT.STATE is set and vector 1 of function 1 signalled (16 Table 16.8). -/
def mailboxState (s : State) : State := signalVector { s with mgmt := { s.mgmt with evState := true } } 1 1

/-- The device state changes with its cause: STATE_CHANGED is raised, and both masters are told (16 R354, R356, R360). -/
def setDeviceState (s : State) (st cause : Nat) : State :=
  if s.obj kDeviceState = st then s
  else notifyContrail (mailboxState (raise ((s.setObj kDeviceState st).setObj 0x100103 cause) 265 (st + cause * 256) 0))
    0x1001 1 (leBytes 1 st)

/-- READY driven to a level (18 Table 18.6). -/
def driveReady (s : State) (level : Bool) : State :=
  if s.life.ready == level then s else { s with life := { s.life with ready := level } }.emit (.pin 0 level)

/-- Every core stops issuing and every queue stops where it is; the image runs no further frame. -/
def freezeImage (s : State) : State :=
  { s with run := { s.run with phase := if s.run.image.isSome then .stopped else s.run.phase }
           cores := s.cores.map fun x => { x with st := if x.st == .trapped || x.st == .idle then x.st else .stopped, drain := 0 } }

/-- A failure moves the package to FAULT, in which no image runs and READY stays low; only a package reset leaves it
(01 R15, 16 R354, 18 R413). -/
def enterFault (s : State) (cause : Nat) : State :=
  if s.obj kDeviceState = 4 then s
  else
    let s1 := freezeImage (driveReady (setDeviceState s 4 cause) false)
    { s1 with life := { s1.life with stage := 15 } }

/-- A unit is fenced for good (01 R11, R15). -/
def fenceUnit (s : State) (u : FailUnit) : State :=
  { s with wear := { s.wear with units := u :: s.wear.units.filter (· != u) } }

/-- A unit has failed for good: it is fenced, and the package enters FAULT (01 R15). -/
def failUnit (s : State) (u : FailUnit) (cause : Nat) : State := enterFault (fenceUnit s u) cause

end Sys2Proof.Machine
end

