-- ==== Sys2Proof/Machine/Cache.lean ====
section
/-!
DEFINITION. Machine/Cache.lean: the package address map, the paths between dies, the per-frame byte counts, and the
memory-side cache (08 R159 to R174, 07 R157). The cache never holds a value that memory would not return, so its state
is which lines it holds in which frames, how they are marked, the words of its frames that an error or the code-test window
has changed (09 R196, R203, R207), and what its counters count.
-/
namespace Sys2Proof.Machine

/-! ## The address map -/

/-- The die whose memory holds a package address (08 R160). -/
def homeDie (a : Nat) : Option DieId :=
  if a < 0x001000000000 then some (dieFin (a / 2 ^ 33))
  else if 0x010000000000 ≤ a && a < 0x018000000000 then some (dieFin (a / 2 ^ 36))
  else none

/-- Is the address in HBM (rather than Stratus). -/
def isHbm (a : Nat) : Bool := 0x010000000000 ≤ a

/-- The offset of an address within its memory on its die. -/
def dieOffset (a : Nat) : Nat := if isHbm a then a % 2 ^ 36 else a % 2 ^ 33

/-- The package address of offset `o` of a die's Stratus (false) or HBM (true). -/
def addrOf (d : DieId) (hbm : Bool) (o : Nat) : Nat :=
  if hbm then 0x010000000000 + d.val * 2 ^ 36 + o else d.val * 2 ^ 33 + o

/-- The layer of a Stratus die offset (08 R160). -/
def stratusLayer (o : Nat) : Nat := ((o / 2 ^ 8) ^^^ (o / 2 ^ 12) ^^^ (o / 2 ^ 16)) % 4

/-- The size in bytes of a die's Stratus or HBM (08 R159). -/
def memBytes (hbm : Bool) : Nat := if hbm then 2 ^ 36 else 2 ^ 33

/-! ## Paths and byte counts -/

/-- One hop from die `a` towards die `b`: along the row first, then across (01 R17). -/
def nextHop (a b : Nat) : Nat :=
  if a % 4 < b % 4 then a + 1 else if b % 4 < a % 4 then a - 1 else b

/-- The hops of the path from die `a` to die `b`, at most `n` of them. -/
def pathGo : Nat → Nat → Nat → List (Nat × Nat)
  | 0, _, _ => []
  | n + 1, a, b => if a = b then [] else (a, nextHop a b) :: pathGo n (nextHop a b) b

/-- The bridges that a transfer from die `a` to die `b` crosses, each as (die left, die entered). -/
def diePath (a b : DieId) : List (Nat × Nat) := pathGo 4 a.val b.val

/-- The key of a byte count: kind 0 HBM, 1 Stratus, 2 a bridge direction, 3 a port direction. -/
def byteKey (kind unit : Nat) : Nat := kind * 1024 + unit

/-- The declared bytes of a count's unit in the frame running, with the unit number and the field offset that the
event carries (02 Table 2.4). -/
def declaredBytes (fd : FrameDesc) (kind unit : Nat) : Nat × Nat × Nat :=
  let die (i : Nat) (f : DieDemand → Nat) : Nat := ((fd.dies[i]?).map f).getD 0
  if kind = 0 then (die unit (·.hbm), unit, 0x00)
  else if kind = 1 then (die unit (·.stratus), unit, 0x08)
  else if kind = 2 then (die (unit / 8) (·.bridge), unit / 8, 0x10)
  else (fd.ports.getD (unit / 2) 0, unit / 2, 0x00)

/-- DEMAND_OVERRUN: a measured demand exceeds its declaration (02 R37). -/
def demandOverrun (s : State) (unit offset : Nat) : State :=
  raise (s.bump 0x610005) 263 (s.run.frame % 2 ^ 32) (unit % 65536 + offset * 65536)

/-- Bytes counted at a unit during a frame. The first time the count exceeds its declaration, DEMAND_OVERRUN is raised
(07 R157). -/
def countBytes (s : State) (kind unit n : Nat) : State :=
  if !s.run.active || n = 0 then s
  else
    let k := byteKey kind unit
    let v := kvGet 0 s.run.bytes k + n
    let s1 := { s with run := { s.run with bytes := kvSet 0 s.run.bytes k v } }
    match s.frameDesc with
    | none => s1
    | some fd =>
      let (lim, u, off) := declaredBytes fd kind unit
      if lim < v && !s.run.overs.contains (kind, u) then
        demandOverrun ({ s1 with run := { s1.run with overs := (kind, u) :: s1.run.overs } }.bump 0x620307) u off
      else s1

/-- Bytes counted on each bridge of a path. -/
def countPath (s : State) (a b : DieId) (n : Nat) : State :=
  s.each (diePath a b) fun x h => countBytes x 2 (h.1 * 8 + h.2) n

/-- So many bytes between a requester on die `d` and an address, counted at its memory and on each bridge crossed. -/
def countAt (s : State) (d : DieId) (a m : Nat) (write : Bool) : State :=
  match homeDie a with
  | none => s
  | some hd =>
    let s1 := countBytes s (if isHbm a then 0 else 1) hd.val m
    if write then countPath s1 d hd m else countPath s1 hd d m

/-! ## The cache -/

/-- The XOR of the nibbles of a pair index, at most 16 of them (08 R168). -/
def sliceGo : Nat → Nat → Nat
  | 0, _ => 0
  | n + 1, p => (p % 16) ^^^ sliceGo n (p / 16)

/-- The slice of a line index. -/
def sliceOf (line : Nat) : Nat := sliceGo 16 (line / 2)

/-- The key of the set of a line index: slice * 512 + set (08 R168). -/
def cacheSetKey (line : Nat) : Nat := sliceOf line * 512 + line / 2 / 16 % 512

/-- The lines of a set, most recently used first. -/
def cacheSet (m : DieMem) (line : Nat) : List CacheLine := kvGet [] m.cache (cacheSetKey line)

/-! ### Words of a frame (09 R196, R203) -/

/-- A byte of a byte region written in its poison form. -/
def poisonByte (s : State) (a : Nat) : State :=
  { s with mem := memSet s.mem a 0, byteDev := kvSet 0 s.byteDev a 0x1F }.bump 0xC10007

/-- MEM_UNCORRECTABLE of an SRAM array: its code-test target and the CT_ADDR value of the word (17 Table 17.1). -/
def sramUncorrectable (s : State) (d : DieId) (tgt addr : Nat) : State :=
  raiseOn s d 11 (2 * 2 ^ 62 + tgt * 2 ^ 58 + addr % 2 ^ 52) 0

/-- The line of HBM that holds cache word `k`, its die offset over 4. -/
def wordLine (k : Nat) : Nat := k / 64

/-- Cache word `k` as memory gives it. -/
def memWord (s : State) (d : DieId) (k : Nat) : Nat := leNat (memRead s.mem (addrOf d true (4 * k)) 4)

/-- Cache word `k` as its frame holds it: its data, and the deviation of its check bits. -/
def frameWord (s : State) (d : DieId) (k : Nat) : Nat × Nat :=
  (match kvGet 0 (s.die d).cacheWord k with | 0 => memWord s d k | v + 1 => v, kvGet 0 (s.die d).cacheDev k)

/-- Cache word `k` given a value and a deviation. -/
def setFrameWord (s : State) (d : DieId) (k v dev : Nat) : State :=
  let m := memWord s d k
  s.modDie d fun x => { x with cacheWord := kvSet 0 x.cacheWord k (if v = m then 0 else v + 1), cacheDev := kvSet 0 x.cacheDev k dev }

/-- The changed words among cache words `[k, k + n)`, each once. -/
def changedWords (m : DieMem) (k n : Nat) : List Nat :=
  let a := (kvRange m.cacheWord k n).map (·.1)
  a ++ ((kvRange m.cacheDev k n).map (·.1)).filter fun i => !a.contains i

/-- What the frames of words `[k, k + n)` held besides memory's data is gone. -/
def clearWords (s : State) (d : DieId) (k n : Nat) : State :=
  s.modDie d fun x => { x with cacheWord := kvClear x.cacheWord k n, cacheDev := kvClear x.cacheDev k n }

/-- The CT_ADDR value of word `k` of a line: slice, set, way, and the word's bytes below the frame's alignment. -/
def frameAddr (l : CacheLine) (k : Nat) : Nat :=
  sliceOf l.line * 2 ^ 48 + cacheSetKey l.line % 512 * 2 ^ 32 + l.way % 16 * 2 ^ 24 + 4 * (k % 64)

/-- A word of a dirty line that its frame has lost: its four bytes go back in byte poison form (09 R203). -/
def loseWord (s : State) (d : DieId) (l : CacheLine) (k : Nat) : State :=
  let s1 := s.each ((List.range 4).map (addrOf d true (4 * k) + ·)) poisonByte
  sramUncorrectable ((clearWords s1 d k 1).bump 0xC10004) d 5 (frameAddr l k)

/-- A changed word of a dirty line written back to its byte region. -/
def backWord (d : DieId) (l : CacheLine) (s : State) (k : Nat) : State :=
  let w := frameWord s d k
  let put (x : State) (v : Nat) : State :=
    { x with mem := memWrite x.mem (addrOf d true (4 * k)) (leBytes 4 v)
             byteDev := kvClear x.byteDev (addrOf d true (4 * k)) 4 }
  match hamRead 32 6 w.1 w.2 with
  | .clean => put s w.1
  | .checkOnly => put (s.bump 0xC10002) w.1
  | .corrected mask => put (s.bump 0xC10001) (w.1 ^^^ mask)
  | .poisoned => s.each ((List.range 4).map (addrOf d true (4 * k) + ·)) poisonByte
  | .uncorrectable => loseWord s d l k

/-- A line's changed words settled: written back from a dirty line, dropped with a clean one. -/
def settleLine (d : DieId) (s : State) (l : CacheLine) : State :=
  let ks := changedWords (s.die d) (64 * l.line) 64
  if ks.isEmpty then s
  else clearWords (s.when l.dirty fun x => x.each ks (backWord d l)) d (64 * l.line) 64

/-- The state with a set's lines replaced: a line that leaves is written back where it is dirty, and what its frame held
is gone; what the code-test window placed in a frame that takes a line is gone too. -/
def setCacheSet (s : State) (d : DieId) (line : Nat) (ls : List CacheLine) : State :=
  let k := cacheSetKey line
  let gone := (cacheSet (s.die d) line).filter fun l => !ls.any fun x => x.line == l.line
  (s.each gone (settleLine d)).modDie d fun m => { m with
    cache := kvSet [] m.cache k ls
    cacheWord := ls.foldl (fun w l => kvClear w (2 ^ 40 + (k * 16 + l.way) * 64) 64) m.cacheWord
    cacheDev := ls.foldl (fun w l => kvClear w (2 ^ 40 + (k * 16 + l.way) * 64) 64) m.cacheDev }

/-- The line resident in a die's slices, when it is. -/
def residentLine (s : State) (d : DieId) (line : Nat) : Option CacheLine :=
  (cacheSet (s.die d) line).find? fun l => l.line == line

/-- Cache word `k` is read from its frame: the outcome as CT_STATUS gives it (0 clean, 1 corrected, 2 check-only,
3 transient, 4 lasting, 5 poisoned), and the state after. An uncorrectable word of a clean line invalidates the line, which
is fetched again (09 R196, R203). -/
def readFrameWord (s : State) (d : DieId) (k : Nat) : Nat × State :=
  match residentLine s d (wordLine k) with
  | none => (0, s)
  | some l =>
    let w := frameWord s d k
    match hamRead 32 6 w.1 w.2 with
    | .clean => (0, s)
    | .checkOnly => (2, (setFrameWord s d k w.1 0).bump 0xC10002)
    | .corrected mask => (1, (setFrameWord s d k (w.1 ^^^ mask) 0).bump 0xC10001)
    | .poisoned => (5, s.bump 0xC10006)
    | .uncorrectable =>
      if l.dirty then (4, loseWord s d l k) else (3, (clearWords s d (64 * l.line) 64).bump 0xC10003)

/-- The words of `[o, o + n)` of a die's HBM that a read takes from frames in which they were changed, each with its
outcome, and the state after. -/
def readFrames (s : State) (d : DieId) (o n : Nat) : List (Nat × Nat) × State :=
  if n = 0 then ([], s)
  else (changedWords (s.die d) (o / 4) ((o + n - 1) / 4 - o / 4 + 1)).foldl (fun acc k =>
    let r := readFrameWord acc.2 d k
    (acc.1 ++ [(k, r.1)], r.2)) ([], s)

/-- Bytes written at `[o, o + n)` of a die's HBM merge into the changed words of resident frames: a word written whole gets
its new value, of one written in part the other bytes stay. -/
def writeFrames (s : State) (d : DieId) (o : Nat) (bs : List Byte) : State :=
  if bs.isEmpty then s
  else s.each (changedWords (s.die d) (o / 4) ((o + bs.length - 1) / 4 - o / 4 + 1)) fun x k =>
    if o ≤ 4 * k && 4 * k + 4 ≤ o + bs.length then clearWords x d k 1
    else
      let r := readFrameWord x d k
      let old := leBytes 4 (frameWord r.2 d k).1
      let new := old.zipIdx.map fun p => if o ≤ 4 * k + p.2 && 4 * k + p.2 < o + bs.length then bs.getD (4 * k + p.2 - o) 0 else p.1
      if (changedWords (r.2.die d) k 1).isEmpty || r.1 = 5 then r.2
      else r.2.modDie d fun m => { m with cacheWord := kvSet 0 m.cacheWord k (leNat new + 1) }

/-- The lowest way of a set that no line takes. -/
def freeWay (ls : List CacheLine) : Nat := ((List.range 16).find? fun n => !ls.any fun l => l.way == n).getD 0

/-- The frames the lines of a set take: a pair takes one (08 R173). -/
def framesUsed (ls : List CacheLine) : Nat :=
  (ls.filter (fun l => !l.paired)).length + (ls.filter (·.paired)).length / 2

/-- The keep limit of a set (08 R170). -/
def keepLimit (s : State) : Nat := 16 * s.obj 0x240001 / 100

/-- The KEEP lines of a set. -/
def keepCount (ls : List CacheLine) : Nat := (ls.filter (·.hint == .keep)).length

/-- The least recently used line that meets a condition. -/
def lruWhere (ls : List CacheLine) (p : CacheLine → Bool) : Option CacheLine := (ls.filter p).getLast?

/-- The victim of a full set (08 R170). -/
def cacheVictim (limit : Nat) (ls : List CacheLine) : Option CacheLine :=
  let overs := if limit < keepCount ls then lruWhere ls (·.hint == .keep) else none
  overs <|> lruWhere ls (·.hint == .evictFirst) <|> lruWhere ls (·.hint == .normal) <|> lruWhere ls (fun _ => true)

/-- A set with a free frame: the victim's frame is emptied when all 16 are taken. A pair leaves together. -/
def makeRoom (limit : Nat) (ls : List CacheLine) : List CacheLine × Nat :=
  if framesUsed ls < 16 then (ls, 0)
  else match cacheVictim limit ls with
    | none => (ls, 0)
    | some v =>
      if v.paired then (ls.filter (fun l => l.line / 2 != v.line / 2), 1)
      else (ls.filter (fun l => l.line != v.line), 0)

/-- The non-zero words of a line. -/
def lineWords (s : State) (d : DieId) (line : Nat) : Nat :=
  let a := addrOf d true (line * 256)
  ((List.range 64).filter fun i => !allZero (memRead s.mem (a + 4 * i) 4)).length

/-- Can two lines share a frame (08 R173). -/
def canPair (s : State) (d : DieId) (a b : CacheLine) : Bool :=
  a.sectors == 0xF#4 && b.sectors == 0xF#4 && a.hint == b.hint && lineWords s d a.line ≤ 30 && lineWords s d b.line ≤ 30

/-- The pairing of a line and its partner brought up to date after an access. -/
def updatePairing (s : State) (d : DieId) (line : Nat) : State :=
  let ls := cacheSet (s.die d) line
  match ls.find? (·.line == line), ls.find? (fun l => l.line == line ^^^ 1) with
  | some a, some b =>
    let pair := canPair s d a b && (a.paired || s.obj 0x240003 == 1)
    if pair == a.paired then s
    else if pair then
      (setCacheSet s d line (ls.map fun l =>
        if l.line / 2 = line / 2 then { l with paired := true, way := min a.way b.way } else l)).bump 0x640004
    else
      let ls1 := ls.map fun l => if l.line / 2 = line / 2 then { l with paired := false } else l
      let rest := ls1.filter (fun l => l.line != (line ^^^ 1))
      let room := makeRoom (keepLimit s) rest
      let kept := if framesUsed ls1 ≤ 16 then rest else room.1
      let alone (l : CacheLine) : CacheLine := if l.line = (line ^^^ 1) then { l with way := freeWay kept } else l
      let ls2 := if framesUsed ls1 ≤ 16 then ls1.map alone
        else room.1 ++ (ls1.filter (fun l => l.line == line ^^^ 1)).map alone
      (setCacheSet s d line ls2).setObj 0x640004
        ((s.obj 0x640004 + 2 ^ 32 - 1 - (if framesUsed ls1 ≤ 16 then 0 else room.2)) % 2 ^ 32)
  | _, _ => s

/-- A line's hint after a hit (08 R171). -/
def hitHint (limit : Nat) (ls : List CacheLine) (old new : Hint) : Hint :=
  match new, old with
  | .keep, .keep => .keep
  | .keep, o => if keepCount ls < limit then .keep else o
  | .evictFirst, .normal => .evictFirst
  | _, o => o

/-- An access to the sectors `mask` of one line with a hint (08 R169 to R173). `byteRegion` makes a write allocate and
leave the line dirty; in a paged region a write goes to memory. -/
def cacheLineAccess (s : State) (d : DieId) (line : Nat) (mask : BitVec 4) (hint : Hint) (write byteRegion : Bool) :
    State :=
  let ls := cacheSet (s.die d) line
  let limit := keepLimit s
  match ls.find? (·.line == line) with
  | some l =>
    let hits := popBits 4 (mask &&& l.sectors).toNat
    let miss := popBits 4 (mask &&& ~~~l.sectors).toNat
    let fills := if write && !byteRegion then l.sectors else l.sectors ||| mask
    let l' := { l with sectors := fills, hint := hitHint limit ls l.hint hint, dirty := l.dirty || (write && byteRegion) }
    let s1 := setCacheSet s d line (l' :: ls.filter (fun x => x.line != line))
    updatePairing ((s1.bumpBy 0x640001 hits).bumpBy 0x640002 miss) d line
  | none =>
    let s1 := s.bumpBy 0x640002 (popBits 4 mask.toNat)
    if write && !byteRegion then s1
    else
      let demote := hint == .keep && limit ≤ keepCount ls
      let room := makeRoom limit ls
      let s2 := s1.when demote fun x => x.bump 0x640003
      let s3 := s2.when (room.2 != 0) fun x => x.setObj 0x640004 ((x.obj 0x640004 + 2 ^ 32 - 1) % 2 ^ 32)
      let l' : CacheLine := ⟨line, if demote then .normal else hint, mask, write && byteRegion, false, freeWay room.1⟩
      updatePairing (setCacheSet s3 d line (l' :: room.1)) d line

/-- The sectors of line `line` that the die offsets `[o, o + n)` touch. -/
def sectorMask (line o n : Nat) : BitVec 4 :=
  BitVec.ofNat 4 ((List.range 4).foldl (fun acc i =>
    let lo := line * 256 + 64 * i
    if lo < o + n && o < lo + 64 then acc + 2 ^ i else acc) 0)

/-- An access to `[o, o + n)` of a die's HBM (08 R167). -/
def cacheAccess (s : State) (d : DieId) (o n : Nat) (hint : Hint) (write byteRegion : Bool) : State :=
  if n = 0 then s
  else s.each ((List.range ((o + n - 1) / 256 - o / 256 + 1)).map (o / 256 + ·)) fun x line =>
    cacheLineAccess x d line (sectorMask line o n) hint write byteRegion

/-- Line `ln` filled whole by a prefetch, when a sector of it is missing. Whether the stack's request queue is so full that
the prefetch is dropped is a free value. The prefetched line carries NORMAL where the load's hint is KEEP: the hint of a
prefetch is not stated (DESIGN CHOICE, notes/assumptions/146.md). -/
def prefetchLine (s : State) (d : DieId) (hint : Hint) (ln : Nat) : State :=
  let ls := cacheSet (s.die d) ln
  let have' := ((ls.find? (·.line == ln)).map (·.sectors)).getD 0
  if have' == 0xF#4 then s
  else
    let r := s.draw
    if r.1 % 2 = 1 then r.2.bump 0x640006
    else match ls.find? (·.line == ln) with
      | some l =>
        let x1 := setCacheSet r.2 d ln (ls.map fun y => if y.line = ln then { y with sectors := 0xF#4 } else y)
        updatePairing (x1.bumpBy 0x640005 (64 * (4 - popBits 4 l.sectors.toNat))) d ln
      | none =>
        let room := makeRoom (keepLimit r.2) ls
        let x1 := r.2.when (room.2 != 0) fun y => y.setObj 0x640004 ((y.obj 0x640004 + 2 ^ 32 - 1) % 2 ^ 32)
        let l : CacheLine := ⟨ln, if hint = .keep then .normal else hint, 0xF#4, false, false, freeWay room.1⟩
        updatePairing ((setCacheSet x1 d ln (l :: room.1)).bumpBy 0x640005 256) d ln

/-- A core's sector miss in the slice of a line is the last one it had there (08 R174). -/
def noteMiss (s : State) (d : DieId) (c : CoreId) (line : Nat) : State :=
  s.modDie d fun m => { m with lastMiss := kvSet 0 m.lastMiss (c.val * 16 + sliceOf line) (line + 1) }

/-- The prefetch that a scalar load's sector miss starts: the line's other sectors, and line L + 1 when the core's
previous miss in the slice was to L - 1 (08 R174). -/
def prefetch (s : State) (d : DieId) (c : CoreId) (line : Nat) (missed : Bool) (hint : Hint) : State :=
  if !missed then s
  else
    let prev := kvGet 0 (s.die d).lastMiss (c.val * 16 + sliceOf line)
    let s1 := s.when (s.obj 0x240002 == 1) fun x =>
      (prefetchLine x d hint line).when (prev == line && line != 0 && line + 1 < 2 ^ 28) fun y =>
        prefetchLine y d hint (line + 1)
    noteMiss s1 d c line

/-- Is a die offset of HBM in an enabled keep window (08 R169, Table 8.12). -/
def inKeepWindow (m : DieMem) (o : Nat) : Bool :=
  m.keepNow.toList.any fun w =>
    bitAt w.toNat 63 && fld w.toNat 0 20 + fld w.toNat 20 20 ≤ 1048576
      && fld w.toNat 0 20 ≤ o / 65536 && o / 65536 < fld w.toNat 0 20 + fld w.toNat 20 20

/-- The hint of a scalar access (08 R169). -/
def scalarHint (s : State) (a : Nat) : Hint :=
  match homeDie a with
  | some d => if isHbm a && inKeepWindow (s.die d) (dieOffset a) then .keep else .normal
  | none => .normal

end Sys2Proof.Machine
end

