-- ==== Sys2Proof/Machine/Protect.lean ====
section
/-!
DEFINITION. Machine/Protect.lean: regions, and every read and write of Stratus, HBM and scratchpad through its check
code, with poison, retry, lasting errors and fencing (chapter 09).
-/
namespace Sys2Proof.Machine

/-! ## Regions (09 R190, R191) -/

/-- EN of REGION_n (09 Table 9.6). -/
def regEn (r : BitVec 64) : Bool := bitAt r.toNat 63
/-- KIND: a byte region. -/
def regIsByte (r : BitVec 64) : Bool := bitAt r.toNat 60
/-- STRENGTH code. -/
def regStrength (r : BitVec 64) : Nat := fld r.toNat 58 2
/-- SIZE in bytes. -/
def regSize (r : BitVec 64) : Nat := fld r.toNat 32 25 * 2 ^ 20
/-- BASE in bytes. -/
def regBase (r : BitVec 64) : Nat := fld r.toNat 0 25 * 2 ^ 20

/-- The number of correctable symbols of a strength code. -/
def strengthOf (code : Nat) : Nat := if code = 0 then 4 else if code = 1 then 8 else 16

/-- The data area of a region in bytes (09 R191). -/
def regData (r : BitVec 64) : Nat :=
  if regIsByte r then 64 * (regSize r / 104)
  else 512 * (regSize r / (512 + pageCheckBytes (strengthOf (regStrength r))))

/-- A region that covers an address: its die, memory, index, settings, and the package address it starts at. -/
structure RegionHit where
  die : DieId
  hbm : Bool
  index : Nat
  reg : BitVec 64
  start : Nat

/-- The strength of the page code of a hit. -/
def RegionHit.t (h : RegionHit) : Nat := strengthOf (regStrength h.reg)

/-- Is the hit a byte region. -/
def RegionHit.isByte (h : RegionHit) : Bool := regIsByte h.reg

/-- The applied region whose data area holds a package address. -/
def regionOf (s : State) (a : Nat) : Option RegionHit :=
  match homeDie a with
  | none => none
  | some d =>
    let o := dieOffset a
    let lo := if isHbm a then 8 else 0
    let rs := ((s.die d).applied.toList.drop lo).take 8
    match indexOf? (fun r => regEn r && regBase r ≤ o && o < regBase r + regData r) rs with
    | none => none
    | some i => let r := rs.getD i 0; some ⟨d, isHbm a, i, r, addrOf d (isHbm a) (regBase r)⟩

/-- Does `[a, a + n)` lie wholly in the data area of one region. -/
def inOneRegion (s : State) (a n : Nat) : Bool :=
  match regionOf s a with
  | none => false
  | some h => a + n ≤ h.start + regData h.reg

/-! ## Fencing and poison -/

/-- The page that holds an address. -/
def pageOf (a : Nat) : Nat := a / 512 * 512

/-- Is the address's page fenced (09 R203). -/
def isFenced (s : State) (d : DieId) (a : Nat) : Bool :=
  let m := s.die d
  (if isHbm a then m.fencedH else m.fencedS).contains (pageOf a) || m.fencedX.contains (pageOf a)

/-- Is a page of a paged region in poison form. -/
def pagePoisoned (s : State) (t page : Nat) : Bool :=
  kvGet 0 s.pageDev page == 2 ^ (20 * t) - 1 && (kvRange s.mem page 512).isEmpty

/-- A page written in its poison form (09 R198). -/
def poisonPage (s : State) (t page : Nat) : State :=
  { s with mem := kvClear s.mem page 512, pageDev := kvSet 0 s.pageDev page (2 ^ (20 * t) - 1) }.bump 0xC10007

/-- The pages that `[a, a + n)` touches. -/
def pagesOf (a n : Nat) : List Nat :=
  if n = 0 then [] else (List.range ((a + n - 1) / 512 - a / 512 + 1)).map fun i => (a / 512 + i) * 512

/-- Pairs of the lines written brought up to date with their new words (08 R173). -/
def rePair (s : State) (d : DieId) (o n : Nat) : State :=
  if n = 0 then s
  else s.each ((List.range ((o + n - 1) / 256 - o / 256 + 1)).map (o / 256 + ·)) fun x line => updatePairing x d line

/-- Words of a die's HBM are written to memory in poison form: resident copies of them hold what memory holds (08 R167). -/
def dropFrames (s : State) (h : RegionHit) (a n : Nat) : State :=
  s.when h.hbm fun x => clearWords x h.die (dieOffset a / 4) (cdiv (dieOffset a + n) 4 - dieOffset a / 4)

/-- Every unit of protection that `[a, a + n)` touches written in poison form (09 R199). The write of HBM goes through the
slice with its hint (08 R167). -/
def poisonMem (s : State) (a n : Nat) (hint : Hint) : State :=
  match regionOf s a with
  | none => s
  | some h =>
    let s0 := s.when h.hbm fun x => cacheAccess x h.die (dieOffset a) n hint true h.isByte
    let s1 := if h.isByte then (dropFrames s0 h a n).each ((List.range n).map (a + ·)) fun x b =>
        if isFenced x h.die b then x.bump 0xC10008 else poisonByte x b
      else s0.each (pagesOf a n) fun x p =>
        if isFenced x h.die p then x.bump 0xC10008 else poisonPage (dropFrames x h p 512) h.t p
    s1.when h.hbm fun x => rePair x h.die (dieOffset a) n

/-- MEM_UNCORRECTABLE of Stratus or HBM (17 Table 17.1). -/
def memUncorrectable (s : State) (d : DieId) (a : Nat) : State :=
  raiseOn s d 11 ((if isHbm a then 2 ^ 62 else 0) + a % 2 ^ 48) 0

/-- A location entered in FENCE_LOG, which holds 1,024 entries (09 R208). -/
def logFence (s : State) (d : DieId) (memory a : Nat) : State :=
  { s with fenceLog := ((d.val, memory, a) :: s.fenceLog).take 1024 }

/-- A page with a hard fault is fenced. When its table is full, the stack or the Stratus layer has failed for good and
the page is handled as a fenced page without an entry (09 R203). -/
def fencePage (s : State) (d : DieId) (a : Nat) : State :=
  let p := pageOf a
  let m := s.die d
  let hbm := isHbm a
  let tbl := if hbm then m.fencedH else m.fencedS
  let d0 := (if hbm then 2 ^ 62 else 0) + p % 2 ^ 48
  if isFenced s d a then s
  else if (if hbm then 256 else 64) ≤ tbl.length then
    failUnit (logFence (s.modDie d fun m => { m with fencedX := p :: m.fencedX }) d hbm.toNat p)
      (if hbm then .hbm d.val else .stratus d.val (stratusLayer (a % 2 ^ 33))) (512 * d.val + 11)
  else
    let s1 := s.modDie d fun m =>
      if hbm then { m with fencedH := p :: m.fencedH } else { m with fencedS := p :: m.fencedS }
    raiseOn (logFence s1 d hbm.toNat p) d 12 d0 (tbl.length + 1)

/-- A lasting error at an address: the poison form over the unit, the count, the event, and fencing when the poison
form does not read back (09 R202, R203). -/
def lastingError (s : State) (h : RegionHit) (a : Nat) (hard : Bool) : State :=
  let s1 := if h.isByte then poisonByte s a else poisonPage s h.t (pageOf a)
  let s2 := memUncorrectable (s1.bump 0xC10004) h.die (if h.isByte then a / 64 * 64 else pageOf a)
  s2.when hard fun x => fencePage x h.die a

/-- A page queued for rewrite (09 R205). -/
def queueRewrite (s : State) (d : DieId) (a : Nat) : State :=
  let m := s.die d
  let q := if isHbm a then m.rewriteH else m.rewriteS
  if q.contains (pageOf a) then s
  else if 64 ≤ q.length then s.bump 0xC10009
  else s.modDie d fun m =>
    if isHbm a then { m with rewriteH := m.rewriteH ++ [pageOf a] } else { m with rewriteS := m.rewriteS ++ [pageOf a] }

/-! ## Reads -/

/-- What a read gives: its bytes, the bytes that are poisoned (bit i for byte i), the lowest byte of a unit that failed
for good, and the state after. -/
structure Load where
  bytes : List Byte
  bad : Nat
  failed : Option Nat
  s : State

/-- The pages of a write `[a, a + n)` of which it covers only a part. -/
def partPages (a n : Nat) : Nat :=
  if n = 0 then 0
  else if a / 512 = (a + n - 1) / 512 then (if n = 512 then 0 else 1)
  else (if a % 512 = 0 then 0 else 1) + (if (a + n) % 512 = 0 then 0 else 1)

/-- Bytes of a transfer that 08 Table 8.11 counts: HBM in whole 64-byte transfers, and in a paged region a write's
pages whole, a page covered in part twice. -/
def movedBytes (s : State) (a n : Nat) (write : Bool) : Nat :=
  match regionOf s a with
  | some h =>
    if write && !h.isByte && n != 0 then 512 * ((a + n - 1) / 512 - a / 512 + 1 + partPages a n)
    else if h.hbm then roundUp (a % 64 + n) 64 else n
  | none => n

/-- A transfer of `n` bytes between a requester on die `d` and an address, counted as 08 Table 8.11 says. -/
def countMove (s : State) (d : DieId) (a n : Nat) (write : Bool) : State := countAt s d a (movedBytes s a n write) write

/-- The bytes of the page as the decoder returns them. -/
def pageData (s : State) (page mask : Nat) : List Byte :=
  leBytes 512 (leNat (memRead s.mem page 512) ^^^ mask)

/-- Bits set for the bytes of `[a, a + n)` that lie in `[u, u + w)`. -/
def coverMask (a n u w : Nat) : Nat :=
  let lo := max a u
  let hi := min (a + n) (u + w)
  if hi ≤ lo then 0 else (2 ^ (hi - lo) - 1) * 2 ^ (lo - a)

/-- The first failing unit kept as the lowest. -/
def firstFail (old : Option Nat) (a : Nat) : Option Nat :=
  match old with
  | none => some a
  | some b => some (min a b)

/-- One page's part of a read (09 R195, Table 9.2, R202). -/
def loadPage (h : RegionHit) (a n : Nat) (l : Load) (page : Nat) : Load :=
  let s := l.s
  let cover := coverMask a n page 512
  if isFenced s h.die page then { l with bad := l.bad ||| cover, s := s.bump 0xC10006 }
  else
    let dev := kvGet 0 s.pageDev page
    match pageRead h.t (kvRange s.mem page 512).isEmpty dev with
    | .clean => l
    | .poisoned => { l with bad := l.bad ||| cover, s := s.bump 0xC10006 }
    | .checkOnly => { l with s := queueRewrite (s.bump 0xC10002) h.die page }
    | .corrected mask =>
      let lo := max a page
      let k := min (a + n) (page + 512) - lo
      let fixed := bytesAt (pageData s page mask) (lo - page) k
      { l with bytes := l.bytes.take (lo - a) ++ fixed ++ l.bytes.drop (lo - a + k)
               s := queueRewrite (s.bump 0xC10001) h.die page }
    | .uncorrectable =>
      { l with bad := l.bad ||| cover, failed := firstFail l.failed (max a page), s := lastingError s h page false }

/-- One byte's part of a read of a byte region. Demand reads queue pages alone for rewrite; a line of a byte region that
holds an error waits for the sweep (09 Table 9.2, R205). -/
def loadByte (h : RegionHit) (a n : Nat) (l : Load) (b : Nat) : Load :=
  let s := l.s
  if isFenced s h.die b then { l with bad := l.bad ||| coverMask a n b 1, s := s.bump 0xC10006 }
  else
    let v := (kvGet 0#8 s.mem b).toNat
    match hamRead 8 4 v (kvGet 0 s.byteDev b) with
    | .clean => l
    | .poisoned => { l with bad := l.bad ||| coverMask a n b 1, s := s.bump 0xC10006 }
    | .checkOnly => { l with s := s.bump 0xC10002 }
    | .corrected mask => { l with bytes := l.bytes.set (b - a) (BitVec.ofNat 8 (v ^^^ mask)), s := s.bump 0xC10001 }
    | .uncorrectable =>
      { l with bad := l.bad ||| coverMask a n b 1, failed := firstFail l.failed b, s := lastingError s h b false }

/-- What the array hardware adds to a read at its first unit (09 R202). -/
def loadOutcome (h : RegionHit) (a n : Nat) (how : MemOutcome) (l : Load) : Load :=
  match how with
  | .good => l
  | .transient => { l with s := l.s.bump 0xC10003 }
  | .lasting =>
    { l with bad := l.bad ||| (if h.isByte then coverMask a n a 1 else coverMask a n (pageOf a) 512)
             failed := firstFail l.failed a, s := lastingError l.s h a false }
  | .hard =>
    { l with bad := l.bad ||| (if h.isByte then coverMask a n a 1 else coverMask a n (pageOf a) 512)
             failed := firstFail l.failed a, s := lastingError l.s h a true }

/-- What the array hardware does to a read: what its command gives, or what an upset has prepared for the next read
(notes/assumptions/147.md). -/
def takeUpset (s : State) (how : MemOutcome) : MemOutcome × State :=
  if how = .good && s.wear.next != .good then (s.wear.next, { s with wear := { s.wear with next := .good } }) else (how, s)

/-- The bytes of a read that come from changed words of resident frames in place of memory's (09 R196, R203). -/
def overlay (d : DieId) (a n : Nat) (l : Load) (p : Nat × Nat) : Load :=
  let w := addrOf d true (4 * p.1)
  let lo := max a w
  let k := min (a + n) (w + 4) - lo
  if p.2 = 5 then { l with bad := l.bad ||| coverMask a n w 4 }
  else if p.2 = 4 then { l with failed := firstFail l.failed lo }
  else
    let bs := bytesAt (leBytes 4 (frameWord l.s d p.1).1) (lo - w) k
    { l with bytes := l.bytes.take (lo - a) ++ bs ++ l.bytes.drop (lo - a + k) }

/-- A read of `[a, a + n)` of Stratus or HBM with a cache hint. A range outside every region reads as nothing. -/
def memLoad (s : State) (a n : Nat) (hint : Option Hint) (how : MemOutcome) : Load :=
  match regionOf s a with
  | none => ⟨List.replicate n 0#8, 2 ^ n - 1, some a, s⟩
  | some h =>
    let s0 := match hint with
      | none => s
      | some hi => if h.hbm then cacheAccess s h.die (dieOffset a) n hi false h.isByte else s
    let f := if h.hbm then readFrames s0 h.die (dieOffset a) n else ([], s0)
    let l0 : Load := ⟨memRead f.2.mem a n, 0, none, f.2⟩
    let l1 :=
      if h.isByte then ((List.range n).map (a + ·)).foldl (loadByte h a n) l0
      else (pagesOf a n).foldl (loadPage h a n) l0
    let l2 := f.1.foldl (overlay h.die a n) l1
    let u := takeUpset l2.s how
    loadOutcome h a n u.1 { l2 with s := u.2 }

/-- The bytes at `[a, a + n)` of Stratus or HBM as their code gives them, with the poisoned ones marked: what a read finds,
looked at before it is made. -/
def seeBytes (s : State) (a n : Nat) : List Byte × Nat :=
  let l := memLoad { s with wear := { s.wear with next := .good } } a n none .good
  (l.bytes, l.bad)

/-! ## Writes -/

/-- A whole page written with its valid check symbols, unless it is fenced. -/
def storePage (s : State) (h : RegionHit) (page : Nat) (bs : List Byte) : State :=
  if isFenced s h.die page then s.bump 0xC10008
  else { s with mem := memWrite (kvClear s.mem page 512) page bs, pageDev := kvSet 0 s.pageDev page 0 }

/-- Part of a page written as one read, merge and write of the page (08 R166, 09 R201, R202). -/
def storePart (s : State) (h : RegionHit) (page off : Nat) (bs : List Byte) : State :=
  let s1 := s.bump 0x640007
  if isFenced s h.die page then s1.bump 0xC10008
  else
    let merge (x : State) (old : List Byte) : State := storePage x h page (old.take off ++ bs ++ old.drop (off + bs.length))
    let u := takeUpset s1 .good
    let lost (hard : Bool) : State := memUncorrectable ((lastingError u.2 h page hard).bump 0xC10008) h.die page
    let s2 := u.2.when (u.1 = .transient) fun x => x.bump 0xC10003
    if u.1 = .lasting || u.1 = .hard then lost (u.1 = .hard)
    else match pageRead h.t (kvRange s.mem page 512).isEmpty (kvGet 0 s.pageDev page) with
    | .clean => merge s2 (memRead s.mem page 512)
    | .checkOnly => merge (s2.bump 0xC10002) (memRead s.mem page 512)
    | .corrected mask => merge (s2.bump 0xC10001) (pageData s page mask)
    | .poisoned => memUncorrectable (s2.bump 0xC10008) h.die page
    | .uncorrectable => lost false

/-- One byte of a byte region written with its check bits (09 R197). -/
def storeByte (s : State) (h : RegionHit) (b : Nat) (v : Byte) : State :=
  if isFenced s h.die b then s.bump 0xC10008
  else { s with mem := memSet s.mem b v, byteDev := kvSet 0 s.byteDev b 0 }

/-- The part of a byte list for one page of a write at `a`. -/
def storePageAt (h : RegionHit) (a : Nat) (bs : List Byte) (s : State) (page : Nat) : State :=
  let lo := max a page
  let hi := min (a + bs.length) (page + 512)
  let part := bytesAt bs (lo - a) (hi - lo)
  if hi - lo = 512 then storePage s h page part else storePart s h page (lo - page) part

/-- A write of bytes at a package address with a cache hint; memory that no region covers takes nothing (09 R190). -/
def memStore (s : State) (a : Nat) (bs : List Byte) (hint : Option Hint) : State :=
  match regionOf s a with
  | none => s
  | some h =>
    let s0 := match hint with
      | none => s
      | some hi => if h.hbm then cacheAccess s h.die (dieOffset a) bs.length hi true h.isByte else s
    let sf := if h.hbm then writeFrames s0 h.die (dieOffset a) bs else s0
    let s1 := if h.isByte then sf.each bs.zipIdx fun x p => storeByte x h (a + p.2) p.1
      else (pagesOf a bs.length).foldl (storePageAt h a bs) sf
    if h.hbm && hint.isSome then rePair s1 h.die (dieOffset a) bs.length else s1

/-- Zeros with valid check bytes over a region's whole data area (09 R192). -/
def clearRegion (s : State) (start n : Nat) : State :=
  { s with mem := kvClear s.mem start n, pageDev := kvClear s.pageDev start n, byteDev := kvClear s.byteDev start n }

/-! ## Scratchpad (09 R196 to R203) -/

/-- The key of a byte of a core's scratchpad. -/
def scratchKey (c : CoreId) (off : Nat) : Nat := c.val * 2 ^ 24 + off

/-- The words that `[off, off + n)` touches, as keys. -/
def wordsOf (c : CoreId) (off n : Nat) : List Nat :=
  if n = 0 then [] else (List.range ((off + n - 1) / 4 - off / 4 + 1)).map fun i => scratchKey c ((off / 4 + i) * 4)

/-- MEM_UNCORRECTABLE of scratchpad: memory 2, code-test target 2, and the word (17 Table 17.1). -/
def scratchUncorrectable (s : State) (c : CoreId) (off : Nat) : State :=
  raiseOn s (dieOf c) 11 (2 * 2 ^ 62 + 2 * 2 ^ 58 + (c.val % 4) * 2 ^ 48 + off) 0

/-- A scratchpad word written in its poison form. -/
def poisonWord (s : State) (k : Nat) : State :=
  { s with scratch := kvClear s.scratch k 4, wordDev := kvSet 0 s.wordDev k 0x7F }.bump 0xC10007

/-- Poison of the words that a store left with a hard fault: such a word stays poisoned until the next compute reset
(09 R203). -/
def keepDead (s : State) (ks : List Nat) : State :=
  { s with scratch := (ks.filter s.wear.dead.contains).foldl (fun m k => kvClear m k 4) s.scratch
           wordDev := (ks.filter s.wear.dead.contains).foldl (fun m k => kvSet 0 m k 0x7F) s.wordDev }

/-- Every word that `[off, off + n)` of a scratchpad touches written in poison form. -/
def poisonScratch (s : State) (c : CoreId) (off n : Nat) : State := s.each (wordsOf c off n) poisonWord

/-- A lasting error of a scratchpad word (09 R202, R203). -/
def scratchLasting (s : State) (c : CoreId) (off : Nat) (hard : Bool) : State :=
  let s1 := scratchUncorrectable ((poisonWord s (scratchKey c (off / 4 * 4))).bump 0xC10004) c (off / 4 * 4)
  s1.when hard fun x => logFence { x with wear := { x.wear with dead := scratchKey c (off / 4 * 4) :: x.wear.dead } }
    (dieOf c) 2 (scratchKey c (off / 4 * 4))

/-- One word's part of a scratchpad read. -/
def loadWord (c : CoreId) (off n : Nat) (l : Load) (k : Nat) : Load :=
  let s := l.s
  let v := leNat (memRead s.scratch k 4)
  let a := scratchKey c off
  let cover := coverMask a n k 4
  match hamRead 32 6 v (kvGet 0 s.wordDev k) with
  | .clean => l
  | .poisoned => { l with bad := l.bad ||| cover, s := s.bump 0xC10006 }
  | .checkOnly => { l with s := s.bump 0xC10002 }
  | .corrected mask =>
    let lo := max a k
    let m := min (a + n) (k + 4) - lo
    let fixed := bytesAt (leBytes 4 (v ^^^ mask)) (lo - k) m
    { l with bytes := l.bytes.take (lo - a) ++ fixed ++ l.bytes.drop (lo - a + m), s := s.bump 0xC10001 }
  | .uncorrectable =>
    { l with bad := l.bad ||| cover, failed := firstFail l.failed (max a k - scratchKey c 0)
             s := scratchLasting s c (k - scratchKey c 0) false }

/-- A read of `[off, off + n)` of a core's scratchpad. -/
def scratchLoad (s : State) (c : CoreId) (off n : Nat) (how : MemOutcome) : Load :=
  let l := (wordsOf c off n).foldl (loadWord c off n) ⟨memRead s.scratch (scratchKey c off) n, 0, none, s⟩
  let u := takeUpset l.s how
  match u.1 with
  | .good => l
  | .transient => { l with s := u.2.bump 0xC10003 }
  | .lasting => { l with bad := l.bad ||| coverMask off n (off / 4 * 4) 4, failed := firstFail l.failed off
                         s := scratchLasting u.2 c off false }
  | .hard => { l with bad := l.bad ||| coverMask off n (off / 4 * 4) 4, failed := firstFail l.failed off
                      s := scratchLasting u.2 c off true }

/-- A write of bytes into a core's scratchpad: every word it covers gets valid check bits, except that a word with a hard
fault stays poisoned (09 R203). -/
def scratchStore (s : State) (c : CoreId) (off : Nat) (bs : List Byte) : State :=
  keepDead { s with scratch := memWrite s.scratch (scratchKey c off) bs
                    wordDev := (wordsOf c off bs.length).foldl (fun m k => kvSet 0 m k 0) s.wordDev } (wordsOf c off bs.length)

/-- A scratchpad range as a row of bits with the bytes in poisoned words marked. -/
def Load.row (l : Load) : Row := ⟨leNat l.bytes, l.bad⟩

end Sys2Proof.Machine
end

