-- ==== Sys2Proof/Machine/Flags.lean ====
section
/-!
DEFINITION. Machine/Flags.lean: every flag computation: the condition codes of compares (04 Table 4.7), the package's
contribution to the tick payload (02 R39, Table 2.7a), and the NONFINITE status (05 R120, R121).
-/
namespace Sys2Proof.Machine

/-- The condition code applied to two scalars; none for a reserved code (04 Table 4.7). -/
def condition (cc : Nat) (a x : Word) : Option Bool :=
  let fa := valOf (a.setWidth 32)
  let fx := valOf (x.setWidth 32)
  match cc with
  | 0 => some (a == x)
  | 1 => some (a != x)
  | 2 => some (a.slt x)
  | 3 => some (x.sle a)
  | 4 => some (a.ult x)
  | 5 => some (x.ule a)
  | 6 => some (fa.lt fx)
  | 7 => some (fa.lt fx || fa.eq fx)
  | 8 => some (fa.eq fx)
  | _ => none

/-- NONFINITE (02 Table 2.7a). -/
def flagNonfinite : Nat := 1
/-- EXCHANGE_FAULT. -/
def flagExchange : Nat := 2
/-- LATE. -/
def flagLate : Nat := 4
/-- STOP_REQUEST. -/
def flagStop : Nat := 8
/-- GAUGE_MISMATCH. -/
def flagGauge : Nat := 16

/-- Flags raised in the package's contribution: for the frame running, or for the next one it will run (02 R39). -/
def raiseFlags (s : State) (bits : Nat) : State := { s with run := { s.run with contrib := s.run.contrib ||| bits } }

/-! ## NONFINITE -/

/-- What an FP32 value written, and whether its conversion alone made an infinity, say of the status: KIND, or none
when the element is finite (05 R120, Table 5.6). -/
def nfKind (x : F32) (overflow : Bool) : Option (Nat × Bool) :=
  match valOf x with
  | .nan => some (1, false)
  | .inf neg => some (if neg then 3 else 2, false)
  | .fin neg _ _ => if overflow then some (if neg then 3 else 2, true) else none

/-- Is an instruction of frame `f` and issue number `seq` earlier than the recorded one (05 R121). -/
def nfEarlier (r : NfRec) (f seq : Nat) : Bool := precedes 32 f r.frame || (f == r.frame && seq < r.seq)

/-- The record after a NONFINITE instruction (05 R121). -/
def nfMerge (r : NfRec) (f queue pc seq : Nat) (e : NfElem) : NfRec :=
  let n : NfRec := ⟨true, f, queue, e.kind, e.overflow, r.valid, pc, e.tensor, e.i2, e.i1, e.i0, seq⟩
  if !r.valid then n else if nfEarlier r f seq then n else { r with multiple := true }

/-- An instruction ends with NONFINITE status: counted, recorded, and flagged under FLAGS = 1 (05 R120, R121). -/
def noteNonfinite (s : State) (c : CoreId) (f queue pc seq : Nat) (flags : Bool) (e : NfElem) : State :=
  let s1 := s.modCore c fun x => { x with nf := nfMerge x.nf (f % 2 ^ 32) queue pc seq e }
  (s1.bump 0x620101).when flags fun x => raiseFlags (x.bump 0x620102) flagNonfinite

end Sys2Proof.Machine
end

