-- ==== Sys2Proof/Machine/Operands.lean ====
section
/-!
DEFINITION. Machine/Operands.lean: what every Kamevesa instruction does before its own effect: fetch, guard and header
checks (04 R76, R77), registers and address descriptors (03 R46 to R50), the segment checks (03 R51 to R54), bank
ownership (03 R60, R61), traps (03 R67, R68), and issue into a queue (03 R56).
-/
namespace Sys2Proof.Machine

/-! ## Registers (03 R46) -/

/-- A scalar register; s0 reads as zero. -/
def CoreState.sreg (x : CoreState) (i : Nat) : Word := if i % 32 = 0 then 0 else x.sregs[i % 32]'(Nat.mod_lt _ (by decide))

/-- The key of a register file word: file 0 scalar, 1 descriptor, 2 predicate. -/
def regKey (file i : Nat) : Nat := 64 * file + i

/-- A scalar register written, with a fresh code; writes to s0 are discarded. -/
def CoreState.setSreg (x : CoreState) (i : Nat) (v : Word) : CoreState :=
  if i % 32 = 0 then x else
    { x with sregs := x.sregs.set (i % 32) v (Nat.mod_lt _ (by decide)), regErr := kvSet 0 x.regErr (regKey 0 (i % 32)) 0 }

/-- A predicate; p0 reads as 1. -/
def CoreState.pred (x : CoreState) (i : Nat) : Bool := i % 8 == 0 || x.preds.getLsbD (i % 8)

/-- A predicate written, with a fresh code; writes to p0 are discarded. -/
def CoreState.setPred (x : CoreState) (i : Nat) (b : Bool) : CoreState :=
  if i % 8 = 0 then x else
    { x with preds := BitVec.ofNat 8 (setBitAt x.preds.toNat (i % 8) b), regErr := kvSet 0 x.regErr (regKey 2 (i % 8)) 0 }

/-- An address descriptor. -/
def CoreState.adesc (x : CoreState) (i : Nat) : Desc := x.adescs[i % 16]'(Nat.mod_lt _ (by decide))

/-- An address descriptor written, with a fresh code. -/
def CoreState.setAdesc (x : CoreState) (i : Nat) (d : Desc) : CoreState :=
  { x with adescs := x.adescs.set (i % 16) d (Nat.mod_lt _ (by decide)), regErr := kvSet 0 x.regErr (regKey 1 (i % 16)) 0 }

/-- An FP32 scale named by a scalar register; register 0 stands for 1.0 (05 R111). -/
def CoreState.scale (x : CoreState) (i : Nat) : F32 := if i = 0 then f32One else (x.sreg i).setWidth 32

/-! ## Address descriptors (03 Table 3.2) -/

/-- BASE. -/
def dBase (d : Desc) : Nat := fld d.toNat 0 48
/-- SEG. -/
def dSeg (d : Desc) : Nat := fld d.toNat 48 8
/-- FORMAT. -/
def dFormat (d : Desc) : Nat := fld d.toNat 56 8
/-- STRIDE1. -/
def dStride1 (d : Desc) : Int := sgn 32 (fld d.toNat 64 32)
/-- STRIDE2. -/
def dStride2 (d : Desc) : Int := sgn 32 (fld d.toNat 96 32)
/-- EXTENT0_M1. -/
def dExt0 (d : Desc) : Nat := fld d.toNat 128 12
/-- EXTENT1_M1. -/
def dExt1 (d : Desc) : Nat := fld d.toNat 140 12
/-- EXTENT2_M1. -/
def dExt2 (d : Desc) : Nat := fld d.toNat 152 12
/-- TENSOR_ID. -/
def dTensor (d : Desc) : Nat := fld d.toNat 164 20
/-- ORIGIN0. -/
def dOrigin0 (d : Desc) : Nat := fld d.toNat 184 24
/-- ORIGIN1. -/
def dOrigin1 (d : Desc) : Nat := fld d.toNat 208 24
/-- ORIGIN2. -/
def dOrigin2 (d : Desc) : Nat := fld d.toNat 232 16
/-- The reserved field. -/
def dReserved (d : Desc) : Nat := fld d.toNat 248 8

/-- The format of a descriptor, or FP32 where the code is reserved (the checks then trap). -/
def dFmt (d : Desc) : Format := (formatOf (dFormat d)).getD ⟨.fp32, false⟩

/-- The bytes of a row of a descriptor (03 R48). -/
def dRowBytes (d : Desc) : Nat := rowBytes (dFmt d) (dExt0 d + 1)

/-- The bit position and width of a FIELD code of DSET and DGET; none for a reserved code (04 Table 4.9). -/
def dField (code : Nat) : Option (Nat × Nat) :=
  match code with
  | 0 => some (0, 48) | 1 => some (48, 8) | 2 => some (56, 8) | 3 => some (64, 32) | 4 => some (96, 32)
  | 5 => some (128, 12) | 6 => some (140, 12) | 7 => some (152, 12) | 8 => some (164, 20) | 9 => some (184, 24)
  | 10 => some (208, 24) | 11 => some (232, 16) | _ => none

/-! ## Traps (03 R67, R68) -/

/-- A trap cause of 03 Table 3.8 with its detail and address. -/
structure TrapInfo where
  cause : Nat
  detail : Nat
  seg : Nat
  off : Nat
  deriving DecidableEq, Repr

/-- TRAP_ADDR of a trap (03 Table 3.15). -/
def TrapInfo.addr (t : TrapInfo) : Nat := t.seg % 256 * 2 ^ 48 + t.off % 2 ^ 48

/-- A cause without an address. -/
def plainTrap (cause detail : Nat) : TrapInfo := ⟨cause, detail, 0, 0⟩

/-- The trap that holds when several arise in one cycle: the lowest code (03 R68). -/
def lowestTrap : List TrapInfo → Option TrapInfo
  | [] => none
  | t :: ts =>
    match lowestTrap ts with
    | none => some t
    | some u => some (if u.cause < t.cause then u else t)

/-- The queues whose head may finish the work it is doing when the core stops (03 R67 step 2). -/
def drainSet (x : CoreState) : Nat :=
  (List.range 7).foldl (fun acc q => if (x.queues[q % 10]'(Nat.mod_lt _ (by decide))).isEmpty then acc else acc + 2 ^ q) 0

/-- A core traps: the first cause is held until its record is written, and every later cause is counted and discarded.
A cause that arises while the core is stopping takes the place of STOP. `queue` is 0xFF for the controller. -/
def trapCore (s : State) (c : CoreId) (t : TrapInfo) (queue pc : Nat) : State :=
  let x := s.core c
  if x.trapPend.isSome || x.st = .trapped then s.bump 0x620002
  else
    let r : TrapRec := ⟨true, t.cause, queue, x.frame % 2 ^ 32, pc, t.addr, t.detail % 2 ^ 64, 0, 0, 0, x.step⟩
    s.setCore c { x with st := .stopping, trapPend := some r, stall := .none
                         drain := if x.st = .stopping then x.drain else drainSet x }

/-! ## Fetch, guard and header (03 R55 to R57, 04 R76, R77) -/

/-- The first word of an instruction (04 Table 4.1). -/
def instrWord (op : Nat) (h : Hdr) (f : BitVec 51) : Nat :=
  op % 128 * 2 ^ 57 + h.gp.toNat * 2 ^ 54 + h.gn.toNat * 2 ^ 53 + h.len.toNat * 2 ^ 51 + f.toNat

/-- The words that LEN gives; one word when LEN is 3 (04 R77). -/
def lenWords (len : Nat) : Nat := if len = 1 then 2 else if len = 2 then 4 else 1

/-- LEN of an instruction of so many words (04 Table 4.1). -/
def lenCode (words : Nat) : Nat := if words = 2 then 1 else if words = 4 then 2 else 0

/-- Can the controller of a core issue now. -/
def canIssue (x : CoreState) : Bool := x.st == .running && x.stall == .none && !x.fend

/-- The CODE segment of a core's die. -/
def codeSeg (s : State) (c : CoreId) : Nat :=
  match s.run.image with
  | none => 0
  | some i => (indexOf? (fun g => g.kind == 0 && g.base / 2 ^ 33 == (dieOf c).val) i.segs).getD 0

/-- FETCH_BOUNDS of a target: TRAP_ADDR is the CODE segment and the offset of its line (03 R57, Table 3.8). -/
def fetchBounds (s : State) (c : CoreId) (t : Nat) : TrapInfo := ⟨3, t, codeSeg s c, t / 256 * 256⟩

/-- The trap of a fetch at the core's program counter: past the code, at the first word that is not there, or in a line
marked bad (03 R57, R69). -/
def fetchTrap (s : State) (c : CoreId) (words : Nat) : Option TrapInfo :=
  let x := s.core c
  let pc := x.pc.toNat
  if s.codeBytes < pc + 8 * words then some (fetchBounds s c (pc + 8 * ((s.codeBytes - pc) / 8)))
  else match x.badLines.find? (fun l => pc / 256 * 256 ≤ l.1 && l.1 < pc + 8 * words) with
    | some l => some ⟨2, (dieOf c).val * 2 ^ 48 + l.2 % 2 ^ 48, codeSeg s c, l.1⟩
    | none => none

/-! ### The instruction cache (03 R55, R69, 09 R196) -/

/-- The package address of an offset of the core's code. -/
def codeAddr (s : State) (c : CoreId) (off : Nat) : Nat := ((s.seg (codeSeg s c)).map (·.base)).getD 0 + off

/-- The frame of the 64 KiB cache that holds the line at an offset of the code. Which frame it is is not stated
(notes/assumptions/140.md). -/
def icFrame (off : Nat) : Nat := off / 256 % 256

/-- A line of the instruction cache marked bad, with the page that fails. -/
def markLine (s : State) (c : CoreId) (line page : Nat) : State :=
  s.modCore c fun x => { x with badLines := (line, page) :: x.badLines.filter (fun l => l.1 != line)
                                lines := x.lines.filter (· != line) }

/-- A line present in its frame, in place of the line the frame held. -/
def fillLine (s : State) (c : CoreId) (line : Nat) : State :=
  s.modCore c fun x => { x with lines := line :: x.lines.filter (fun l => icFrame l != icFrame line)
                                badLines := x.badLines.filter (fun l => l.1 != line)
                                icWord := kvClear x.icWord (icFrame line * 64) 64
                                icDev := kvClear x.icDev (icFrame line * 64) 64 }

/-- The line at an offset of the code is read from the core's CODE segment: it is present, or marked bad after a second
failure; a poisoned line is bad without retry (03 R69, 09 R200). -/
def readLine (s : State) (core : CoreId) (off : Nat) (how : MemOutcome) : State :=
  let a := codeAddr s core off
  let n := min 256 (((s.seg (codeSeg s core)).map (·.bytes)).getD 0 - off)
  let l := memLoad s a n none how
  if l.bad = 0 then fillLine l.s core off
  else markLine l.s core off (pageOf ((l.failed).getD (a + ((indexOf? (bitAt l.bad) (List.range n)).getD 0))))

/-- The key of the cache word that holds the code byte at an offset. -/
def icKey (off : Nat) : Nat := icFrame off * 64 + off % 256 / 4

/-- A word of the instruction cache, from the frame or from the CODE segment. -/
def icVal (s : State) (c : CoreId) (off : Nat) : Nat :=
  match kvGet 0 (s.core c).icWord (icKey off) with
  | 0 => leNat (memRead s.mem (codeAddr s c off / 4 * 4) 4)
  | v + 1 => v

/-- The fetch reads the cache word at an offset of the code. A corrected word is counted; an uncorrectable one drops the
line, which is fetched again and logged as transient (03 R69, 09 R196, R202); a poisoned one is not retried (09 R200). -/
def fetchWord (c : CoreId) (s : State) (off : Nat) : State :=
  let x := s.core c
  let k := icKey off
  if kvGet 0 x.icDev k = 0 || !x.lines.contains (off / 256 * 256) then s
  else
    let v := icVal s c off
    let heal (w : Nat) (t : State) : State :=
      t.modCore c fun y => { y with icWord := kvSet 0 y.icWord k (w + 1), icDev := kvSet 0 y.icDev k 0 }
    match hamRead 32 6 v (kvGet 0 x.icDev k) with
    | .clean => s
    | .checkOnly => (heal v s).bump 0xC10002
    | .corrected mask => (heal (v ^^^ mask) s).bump 0xC10001
    | .poisoned => (markLine s c (off / 256 * 256) (pageOf (codeAddr s c off))).bump 0xC10006
    | .uncorrectable => readLine ((s.bump 0x620003).bump 0xC10003) c (off / 256 * 256) .good

/-- The fetch of `words` words at the core's program counter reads its cache. -/
def fetchCode (s : State) (c : CoreId) (words : Nat) : State :=
  if (s.core c).icDev.isEmpty then s
  else s.each ((List.range (2 * words)).map fun i => (s.core c).pc.toNat + 4 * i) (fetchWord c)

/-- Scalar registers as register keys. -/
def sKeys (l : List Nat) : List Nat := l.map (regKey 0)

/-- Descriptors as register keys. -/
def aKeys (l : List Nat) : List Nat := l.map (regKey 1)

/-- The uncorrectable register among those read, as TRAP_DETAIL gives it (03 R70). -/
def regTrap (x : CoreState) (keys : List Nat) : Option TrapInfo :=
  match keys.find? (fun k => kvGet 0 x.regErr k == 2) with
  | some k => some (plainTrap 0x0E (k / 64 + (k % 64) * 4))
  | none => none

/-- Corrected register errors among those read are counted and cleared (03 R70). -/
def regCorrect (s : State) (c : CoreId) (keys : List Nat) : State :=
  s.each keys fun y k =>
    if kvGet 0 (y.core c).regErr k = 1 then
      (y.modCore c fun x => { x with regErr := kvSet 0 x.regErr k 0 }).bump 0x620004
    else y

/-- The program counter advanced by so many words, and one more instruction in program order. -/
def CoreState.advance (x : CoreState) (words : Nat) : CoreState :=
  { x with pc := x.pc + BitVec.ofNat 64 (8 * words), seq := x.seq + 1 }

/-- The guard of an instruction (04 Table 4.1). -/
def guardOf (x : CoreState) (h : Hdr) : Bool := x.pred h.gp.toNat != h.gn

/-- Bits `[lo + w - 1 : lo]` of the format fields. -/
def ff (f : BitVec 51) (lo w : Nat) : Nat := fld f.toNat lo w

/-- The queue of an instruction by its opcode and fields, 0xFF for one of the controller's own (03 Tables 3.7, 3.13). -/
def queueOfOp (op : Nat) (f : BitVec 51) : Nat :=
  if 0x20 ≤ op && op ≤ 0x23 then 1
  else if 0x30 ≤ op && op ≤ 0x32 then 0
  else match op with
    | 0x33 => 2
    | 0x40 | 0x41 => 3 + ff f 49 2
    | 0x50 => 7
    | 0x51 => 8
    | 0x60 => 9
    | _ => 0xFF

/-- What every instruction does before its own effect. `legal` is checks 3 to 5 of R77 as far as they need no memory
system; `reads` lists the registers read; `checks` the traps of its operands. Of a register in error and a breach of the
operands, found in one cycle, the lower code is recorded (03 R68). A trap of the fetch or of the guard names the controller,
a later one the queue of the instruction (notes/assumptions/138.md). -/
def issue (s0 : State) (c : CoreId) (op words : Nat) (h : Hdr) (f : BitVec 51) (legal : Bool) (reads : List Nat)
    (checks : List TrapInfo) (act : State → State) : State :=
  let x := s0.core c
  let pc := x.pc.toNat
  let s := fetchCode s0 c (lenWords h.len.toNat)
  if !canIssue x then s0
  else match fetchTrap s c 1 with
  | some t => trapCore s c t 0xFF pc
  | none =>
    match regTrap x [regKey 2 h.gp.toNat] with
    | some t => trapCore s c t 0xFF pc
    | none =>
      if !guardOf x h then (regCorrect s c [regKey 2 h.gp.toNat]).modCore c fun y => y.advance (lenWords h.len.toNat)
      else if h.len.toNat != lenCode words then trapCore s c (plainTrap 4 (instrWord op h f)) (queueOfOp op f) pc
      else match fetchTrap s c words with
        | some t => trapCore s c t 0xFF pc
        | none =>
          if !legal then trapCore s c (plainTrap 4 (instrWord op h f)) (queueOfOp op f) pc
          else match lowestTrap (checks ++ (regTrap x reads).toList) with
            | some t => trapCore s c (if t.cause = 4 then plainTrap 4 (instrWord op h f) else t) (queueOfOp op f) pc
            | none => act (regCorrect s c (regKey 2 h.gp.toNat :: reads))

/-- A branch target is a multiple of 8 below CODE_BYTES (03 R57). -/
def targetOk (s : State) (t : Word) : Bool := t.toNat % 8 == 0 && t.toNat < s.codeBytes

/-- A control transfer to `t`, or FETCH_BOUNDS at the branch (03 R57). -/
def jumpTo (s : State) (c : CoreId) (t : Word) : State :=
  if targetOk s t then s.modCore c fun x => { x with pc := t, seq := x.seq + 1 }
  else trapCore s c (fetchBounds s c t.toNat) 0xFF (s.core c).pc.toNat

/-! ## Segment checks (03 R53, R54) -/

/-- A range of memory as a descriptor names it. -/
structure Ext where
  seg : Nat
  base : Nat
  row : Nat
  ext1 : Nat
  stride1 : Int
  ext2 : Nat
  stride2 : Int

/-- The range of an address descriptor. -/
def dExt (d : Desc) : Ext := ⟨dSeg d, dBase d, dRowBytes d, dExt1 d, dStride1 d, dExt2 d, dStride2 d⟩

/-- A span of a dimension added to a range. -/
def spanAdd (r : Int × Int) (m1 : Nat) (st : Int) : Int × Int :=
  let sp := m1 * st
  if sp < 0 then (r.1 + sp, r.2) else (r.1, r.2 + sp)

/-- The first row's range, then with dimension 1, then with dimension 2: (lowest byte, highest byte). -/
def Ext.range0 (e : Ext) : Int × Int := ((e.base : Int), (e.base : Int) + e.row - 1)
/-- With dimension 1. -/
def Ext.range1 (e : Ext) : Int × Int := spanAdd e.range0 e.ext1 e.stride1
/-- With dimension 2. -/
def Ext.range (e : Ext) : Int × Int := spanAdd e.range1 e.ext2 e.stride2

/-- Does a range lie in a segment of so many bytes. -/
def inSeg (r : Int × Int) (bytes : Nat) : Bool := 0 ≤ r.1 && r.2 < bytes

/-- BOUNDS at a dimension: the address is the lowest byte outside the segment of the range up to that dimension, at which
the range first leaves the segment (the model's choice, notes/assumptions/16.md). -/
def boundsAt (e : Ext) (num dim : Nat) (r : Int × Int) (bytes : Nat) : TrapInfo :=
  ⟨5, num % 256 + dim * 256, e.seg, unsgn 48 (if r.1 < 0 then r.1 else max r.1 bytes)⟩

/-- The BOUNDS check of a range (03 R53). -/
def boundsTrap (s : State) (e : Ext) (num : Nat) : Option TrapInfo :=
  match s.seg e.seg with
  | none => some ⟨5, num % 256 + 3 * 256, e.seg, e.base⟩
  | some g =>
    if !inSeg e.range0 g.bytes then some (boundsAt e num 0 e.range0 g.bytes)
    else if !inSeg e.range1 g.bytes then some (boundsAt e num 1 e.range1 g.bytes)
    else if !inSeg e.range g.bytes then some (boundsAt e num 2 e.range g.bytes)
    else none

/-- The ACCESS check of a range: rights, the owner of a SCRATCH segment, and the kinds the instruction allows. -/
def accessTrap (s : State) (c : CoreId) (e : Ext) (num : Nat) (write : Bool) (kinds : List Nat) : Option TrapInfo :=
  match s.seg e.seg with
  | none => none
  | some g =>
    if !bitAt g.access (if write then 1 else 0) || (g.kind == 1 && g.core != c.val) || !kinds.contains g.kind then
      some ⟨6, num % 256 + write.toNat * 256, e.seg, unsgn 48 e.range.1⟩
    else none

/-- The ALIGNMENT check of a write into scratchpad (03 R54). TRAP_ADDR is the lowest byte of the whole extent (the model's
choice, notes/assumptions/16.md). -/
def alignTrap (s : State) (e : Ext) (num : Nat) (write : Bool) : Option TrapInfo :=
  match s.seg e.seg with
  | none => none
  | some g =>
    if write && g.kind == 1 && (e.base % 4 != 0 || e.row % 4 != 0 || (e.ext1 != 0 && e.stride1 % 4 != 0)
        || (e.ext2 != 0 && e.stride2 % 4 != 0)) then some ⟨7, num % 256, e.seg, unsgn 48 e.range.1⟩
    else none

/-- The checks of R53 and R54 on a range, in the order bounds, access, alignment. -/
def checkExt (s : State) (c : CoreId) (e : Ext) (num : Nat) (write : Bool) (kinds : List Nat) : List TrapInfo :=
  match boundsTrap s e num with
  | some t => [t]
  | none =>
    match accessTrap s c e num write kinds with
    | some t => [t]
    | none => (alignTrap s e num write).toList

/-- Every kind of segment. -/
def anyKind : List Nat := [0, 1, 2, 3]

/-- ILLEGAL_INSTRUCTION; `issue` fills in the word. -/
def illegal : TrapInfo := plainTrap 4 0

/-- ILLEGAL_INSTRUCTION unless the condition holds. -/
def require (b : Bool) : List TrapInfo := if b then [] else [illegal]

/-- ILLEGAL_INSTRUCTION of a descriptor that an instruction of the controller reads with a non-zero reserved field (03 R50).
Its FORMAT is not checked: such an instruction moves no element by it (the model's choice, notes/assumptions/139.md). -/
def reservedTrap (d : Desc) : List TrapInfo := require (dReserved d == 0)

/-- The reserved field and the FORMAT code of a descriptor (03 R50, 05 R105). -/
def descOk (d : Desc) : Bool := dReserved d == 0 && (formatOf (dFormat d)).isSome

/-- The checks of an address descriptor that an instruction names (04 R78). -/
def checkDesc (s : State) (c : CoreId) (d : Desc) (num : Nat) (write : Bool) (kinds : List Nat) : List TrapInfo :=
  if descOk d then checkExt s c (dExt d) num write kinds else [illegal]

/-- The checks of a scalar access of `size` bytes: one element of descriptor number 0xFF, aligned to `align`
(03 R53, R54, 04 R82, R86). -/
def checkScalar (s : State) (c : CoreId) (seg off size align : Nat) (write : Bool) : List TrapInfo :=
  let e : Ext := ⟨seg, off, size, 0, 0, 0, 0⟩
  match boundsTrap s e 0xFF with
  | some t => [t]
  | none =>
    match accessTrap s c e 0xFF write anyKind with
    | some t => [t]
    | none =>
      match s.seg seg with
      | none => []
      | some g =>
        let scratch := g.kind == 1
        let paged := !scratch && (match regionOf s (g.base + off) with | some h => !h.isByte | none => false)
        let misaligned := off % align != 0 || (write && scratch && size % 4 != 0)
        if write && paged && align = size then [⟨8, 0, seg, off⟩]
        else if misaligned then [⟨7, 0xFF, seg, off⟩]
        else if write && paged then [⟨8, 0, seg, off⟩]
        else []

/-! ## Bank ownership (03 R60 to R62) -/

/-- The owner code of a bank, as last taken effect. -/
def bankOwner (x : CoreState) (b : Nat) : Nat := fld x.banks.toNat (4 * b) 3

/-- DMA_SHARE of a bank. -/
def bankShare (x : CoreState) (b : Nat) : Bool := bitAt x.banks.toNat (4 * b + 3)

/-- May a unit of owner code `u` reach a bank. -/
def mayAccess (x : CoreState) (u b : Nat) : Bool := bankOwner x b == u || (u == 4 && bankShare x b)

/-- The banks that `[off, off + n)` of a scratchpad touches, ascending. -/
def banksOf (off n : Nat) : List Nat :=
  if n = 0 then [] else (List.range 8).filter fun b => off / 2 ^ 21 ≤ b && b ≤ (off + n - 1) / 2 ^ 21

/-- BANK_OWNER: bank, owner, and the requester's owner code (03 Table 3.8). -/
def bankTrap (x : CoreState) (u b : Nat) : TrapInfo := plainTrap 9 (b + bankOwner x b * 16 + u * 256)

/-- The first bank of the list that a unit may not reach. -/
def bankDenied (x : CoreState) (u : Nat) (bs : List Nat) : Option TrapInfo :=
  (bs.find? fun b => !mayAccess x u b).map (bankTrap x u)

/-- Does a handover issued before instruction `seq` still wait on one of these banks: the unit waits (03 R61). -/
def handoverWaits (x : CoreState) (seq : Nat) (bs : List Nat) : Bool :=
  x.hand.any fun h => h.seq < seq && bs.contains h.bank

/-! ## Issue into a queue (03 R56, R64) -/

/-- A queue of a core. -/
def CoreState.queue (x : CoreState) (q : Nat) : List QInst := x.queues[q % 10]'(Nat.mod_lt _ (by decide))

/-- A queue of a core replaced. -/
def CoreState.setQueue (x : CoreState) (q : Nat) (l : List QInst) : CoreState :=
  { x with queues := x.queues.set (q % 10) l (Nat.mod_lt _ (by decide)) }

/-- ISSUED[q]. -/
def CoreState.issuedOf (x : CoreState) (q : Nat) : BitVec 32 := x.issued[q % 10]'(Nat.mod_lt _ (by decide))

/-- DONE[q]. -/
def CoreState.doneOf (x : CoreState) (q : Nat) : BitVec 32 := x.done[q % 10]'(Nat.mod_lt _ (by decide))

/-- DONE[q] incremented. -/
def CoreState.incDone (x : CoreState) (q : Nat) : CoreState :=
  { x with done := x.done.set (q % 10) (x.doneOf q + 1) (Nat.mod_lt _ (by decide)) }

/-- ISSUED[q] incremented. -/
def CoreState.incIssued (x : CoreState) (q : Nat) : CoreState :=
  { x with issued := x.issued.set (q % 10) (x.issuedOf q + 1) (Nat.mod_lt _ (by decide)) }

/-- A fresh queued instruction of a core. -/
def mkQInst (s : State) (c : CoreId) (op : QOp) (scratch : Bool) : QInst :=
  let x := s.core c
  ⟨op, x.pc.toNat, x.seq, s.run.frame, x.step, 0, ⟨0, 0⟩, ⟨0, 0⟩, false, none, [], none, false, scratch, false, none⟩

/-- An instruction placed in its queue, or a stall while the queue holds 16 (03 R56, R64). The program counter moves
past the instruction when it is placed. -/
def enqueue (s : State) (c : CoreId) (q words : Nat) (op : QOp) (scratch : Bool) (onIssue : CoreState → CoreState) :
    State :=
  let x := s.core c
  if 16 ≤ (x.queue q).length then s.setCore c { x with stall := .queue q }
  else s.setCore c (onIssue (((x.setQueue q (x.queue q ++ [mkQInst s c op scratch])).incIssued q).advance words))

/-- May queue `q` of a core work now: the core runs, or the queue is finishing what it had begun when the core began to
stop (03 R67). -/
def mayWork (x : CoreState) (q : Nat) : Bool := x.st == .running || (x.st == .stopping && bitAt x.drain q)

/-- The queue has finished the work it had begun. -/
def drained (x : CoreState) (q : Nat) : CoreState := { x with drain := setBitAt x.drain q false }

/-- The instruction at the head of queue `q` leaves it, done (03 R64). -/
def finishHead (s : State) (c : CoreId) (q : Nat) : State :=
  s.modCore c fun x => drained ((x.setQueue q ((x.queue q).drop 1)).incDone q) q

/-- The instruction at the head of queue `q` replaced. -/
def setHead (s : State) (c : CoreId) (q : Nat) (i : QInst) : State :=
  s.modCore c fun x => x.setQueue q (i :: (x.queue q).drop 1)

end Sys2Proof.Machine
end

