-- ==== Sys2Proof/Machine/Scalar.lean ====
section
/-!
DEFINITION. Machine/Scalar.lean: the scalar class, opcodes 0x01 to 0x11, and the trap of a reserved opcode
(04 R79 to R86).
-/
namespace Sys2Proof.Machine

/-- An FP32 function of the low halves, its result zero-extended (04 R80). -/
def f32Fn (g : F32 → F32 → F32) (a b : Word) : Word := (g (a.setWidth 32) (b.setWidth 32)).setWidth 64

/-- FCVTIF: a signed 64-bit integer converted to FP32. -/
def cvtIntToF32 (a : Word) : Word := (toF32 (.fin (a.toInt < 0) a.toInt.natAbs 0)).setWidth 64

/-- FCVTFI: an FP32 value converted to a signed 64-bit integer, toward zero and saturating; NaN gives 0. -/
def cvtF32ToInt (a : Word) : Word := BitVec.ofNat 64 (convInt 64 0 .rtz (valOf (a.setWidth 32))).bits

/-- The scalar functions of 04 Table 4.4; none for a reserved code. -/
def scalarFn (fn : Nat) (a b : Word) : Option Word :=
  match fn with
  | 0x00 => some (a + b)
  | 0x01 => some (a - b)
  | 0x02 => some (a * b)
  | 0x03 => some (BitVec.ofNat 64 (a.toNat * b.toNat / 2 ^ 64))
  | 0x04 => some (if b = 0 then BitVec.allOnes 64 else a / b)
  | 0x05 => some (if b = 0 then a else a % b)
  | 0x06 => some (a &&& b)
  | 0x07 => some (a ||| b)
  | 0x08 => some (a ^^^ b)
  | 0x09 => some (a <<< (b.toNat % 64))
  | 0x0A => some (a >>> (b.toNat % 64))
  | 0x0B => some (a.sshiftRight (b.toNat % 64))
  | 0x0C => some (if b.slt a then b else a)
  | 0x0D => some (if a.slt b then b else a)
  | 0x0E => some (if b.ult a then b else a)
  | 0x0F => some (if a.ult b then b else a)
  | 0x10 => some (f32Fn fadd a b)
  | 0x11 => some (f32Fn fsub a b)
  | 0x12 => some (f32Fn fmul a b)
  | 0x13 => some (f32Fn fminNum a b)
  | 0x14 => some (f32Fn fmaxNum a b)
  | 0x15 => some (cvtIntToF32 a)
  | 0x16 => some (cvtF32ToInt a)
  | _ => none

/-- The immediate operand: a bit pattern for the FP32 functions of two operands, sign-extended otherwise (04 R80). -/
def immOperand (fn : Nat) (imm : BitVec 32) : Word :=
  if 0x10 ≤ fn && fn ≤ 0x14 then imm.setWidth 64 else imm.signExtend 64

/-- The controller writes a scalar register and moves on. -/
def writeSreg (s : State) (c : CoreId) (words i : Nat) (v : Word) : State :=
  s.modCore c fun x => (x.setSreg i v).advance words

/-- The controller writes a predicate and moves on. -/
def writePred (s : State) (c : CoreId) (i : Nat) (b : Bool) : State := s.modCore c fun x => (x.setPred i b).advance 1

/-- The controller stalls on a memory access (04 R82). -/
def stallOn (s : State) (c : CoreId) (st : Stall) : State := s.modCore c fun x => { x with stall := st }

/-- SOP: SD = FN(SA, SB) (04 R80). -/
def execSop (core : CoreId) (h : Hdr) (f : BitVec 51) (s : State) : Result :=
  let x := s.core core
  let r := scalarFn (ff f 30 6) (x.sreg (ff f 41 5)) (x.sreg (ff f 36 5))
  .next (issue s core 0x01 1 h f (ff f 0 30 == 0 && r.isSome) (sKeys [ff f 41 5, ff f 36 5]) []
    fun t => writeSreg t core 1 (ff f 46 5) (r.getD 0))

/-- SOPI: SD = FN(SA, IMM) (04 R80). -/
def execSopi (core : CoreId) (h : Hdr) (f : BitVec 51) (s : State) : Result :=
  let x := s.core core
  let fn := ff f 35 6
  let r := scalarFn fn (x.sreg (ff f 41 5)) (immOperand fn (BitVec.ofNat 32 (ff f 0 32)))
  .next (issue s core 0x02 1 h f (ff f 32 3 == 0 && r.isSome) (sKeys [ff f 41 5]) []
    fun t => writeSreg t core 1 (ff f 46 5) (r.getD 0))

/-- SLI: the following word into SD (04 R80). -/
def execSli (core : CoreId) (h : Hdr) (f : BitVec 51) (imm : BitVec 64) (s : State) : Result :=
  .next (issue s core 0x03 2 h f (ff f 0 46 == 0) [] [] fun t => writeSreg t core 2 (ff f 46 5) imm)

/-- The byte address of a scalar access: SA + sext(OFF), modulo 2^64 (04 R82). -/
def scalarOff (x : CoreState) (sa off : Nat) : Nat := (x.sreg sa + BitVec.ofInt 64 (sgn 30 off)).toNat

/-- SLD: a scalar load of 1, 2, 4 or 8 bytes; the controller stalls until the data arrives (04 R82). -/
def execSld (core : CoreId) (h : Hdr) (f : BitVec 51) (s : State) : Result :=
  let x := s.core core
  let size := 2 ^ ff f 39 2
  let off := scalarOff x (ff f 41 5) (ff f 0 30)
  let seg := ff f 30 8
  .next (issue s core 0x04 1 h f true (sKeys [ff f 41 5]) (checkScalar s core seg off size size false)
    fun t => stallOn t core (.load (ff f 46 5) seg off size (ff f 38 1 == 1)))

/-- SST: a scalar store of 1, 2, 4 or 8 bytes; the controller stalls until it is accepted (04 R82). -/
def execSst (core : CoreId) (h : Hdr) (f : BitVec 51) (s : State) : Result :=
  let x := s.core core
  let size := 2 ^ ff f 39 2
  let off := scalarOff x (ff f 41 5) (ff f 0 30)
  let seg := ff f 30 8
  .next (issue s core 0x05 1 h f (ff f 38 1 == 0) (sKeys [ff f 41 5, ff f 46 5])
    (checkScalar s core seg off size size true)
    fun t => stallOn t core (.store ((x.sreg (ff f 46 5)).toNat % 2 ^ (8 * size)) seg off size))

/-- SCMP: PD = CC(SA, SB) (04 R83). -/
def execScmp (core : CoreId) (h : Hdr) (f : BitVec 51) (s : State) : Result :=
  let x := s.core core
  let r := condition (ff f 32 4) (x.sreg (ff f 41 5)) (x.sreg (ff f 36 5))
  .next (issue s core 0x06 1 h f (ff f 46 2 == 0 && ff f 0 32 == 0 && r.isSome) (sKeys [ff f 41 5, ff f 36 5]) []
    fun t => writePred t core (ff f 48 3) (r.getD false))

/-- SCMPI: PD = CC(SA, IMM), the immediate sign-extended (04 R83). -/
def execScmpi (core : CoreId) (h : Hdr) (f : BitVec 51) (s : State) : Result :=
  let x := s.core core
  let r := condition (ff f 32 4) (x.sreg (ff f 41 5)) ((BitVec.ofNat 32 (ff f 0 32)).signExtend 64)
  .next (issue s core 0x07 1 h f (ff f 46 2 == 0 && ff f 36 5 == 0 && r.isSome) (sKeys [ff f 41 5]) []
    fun t => writePred t core (ff f 48 3) (r.getD false))

/-- PSET: PD from a truth table over two predicates (04 R83). -/
def execPset (core : CoreId) (h : Hdr) (f : BitVec 51) (s : State) : Result :=
  let x := s.core core
  let i := 2 * (x.pred (ff f 45 3)).toNat + (x.pred (ff f 42 3)).toNat
  .next (issue s core 0x08 1 h f (ff f 0 38 == 0) [regKey 2 (ff f 45 3), regKey 2 (ff f 42 3)] []
    fun t => writePred t core (ff f 48 3) (bitAt (ff f 38 4) i))

/-- The target of a relative branch: PC + 8 × sext(OFF) (04 R84). -/
def branchTarget (pc : Word) (off : Nat) : Word := pc + BitVec.ofInt 64 (8 * sgn 32 off)

/-- BR: a relative branch (04 R84). -/
def execBr (core : CoreId) (h : Hdr) (f : BitVec 51) (s : State) : Result :=
  .next (issue s core 0x09 1 h f (ff f 32 19 == 0) [] []
    fun t => jumpTo t core (branchTarget (t.core core).pc (ff f 0 32)))

/-- CALL: PC + 8 into SD, and a relative branch (04 R84). A target out of bounds traps and writes nothing. -/
def execCall (core : CoreId) (h : Hdr) (f : BitVec 51) (s : State) : Result :=
  .next (issue s core 0x0A 1 h f (ff f 32 14 == 0) [] []
    fun t =>
      let pc := (t.core core).pc
      let tg := branchTarget pc (ff f 0 32)
      if targetOk t tg then jumpTo (t.modCore core fun x => x.setSreg (ff f 46 5) (pc + 8)) core tg
      else jumpTo t core tg)

/-- JMPR: a branch to SA (04 R84). -/
def execJmpr (core : CoreId) (h : Hdr) (f : BitVec 51) (s : State) : Result :=
  .next (issue s core 0x0B 1 h f (ff f 46 5 == 0 && ff f 0 41 == 0) (sKeys [ff f 41 5]) []
    fun t => jumpTo t core ((t.core core).sreg (ff f 41 5)))

/-- The value SRD reads for SEL; none for a reserved selector or for SEL 0x08, which may have to wait
(04 Table 4.8). -/
def srdValue (s : State) (c : CoreId) (sel : Nat) : Option Word :=
  let x := s.core c
  match sel with
  | 0 => some (BitVec.ofNat 64 c.val)
  | 1 => some (BitVec.ofNat 64 s.usedCores)
  | 2 => some (BitVec.ofNat 64 (dieOf c).val)
  | 3 => some (BitVec.ofNat 64 (x.frame % 2 ^ 32))
  | 4 => some (BitVec.ofNat 64 x.step)
  | 5 => some (BitVec.ofNat 64 (s.obj kPackageId))
  | 6 => some (BitVec.ofNat 64 s.tick.count)
  | 7 => some (BitVec.ofNat 64 (s.obj kSeed))
  | _ => none

/-- The loss-scale exponent of a step, once every earlier step is decided or abandoned (13 R292). -/
def stepScale (s : State) (step : Nat) : Option Nat :=
  let e := kvGet 25 s.run.scales step
  if e = 25 then none else some e

/-- SRD 0x08: the exponent of the frame's step, or a stall until it is known (13 R292). -/
def srdScale (s : State) (c : CoreId) (sd : Nat) : State :=
  match stepScale s (s.core c).step with
  | some e => writeSreg s c 1 sd (BitVec.ofNat 64 e)
  | none => stallOn s c (.scale sd (s.core c).step)

/-- SRD: a core, frame, step, tick, seed or loss-scale value into SD (04 R85). -/
def execSrd (core : CoreId) (h : Hdr) (f : BitVec 51) (s : State) : Result :=
  let sel := ff f 38 8
  .next (issue s core 0x0C 1 h f (ff f 0 38 == 0 && sel ≤ 8) [] []
    fun t => if sel = 8 then srdScale t core (ff f 46 5)
             else writeSreg t core 1 (ff f 46 5) ((srdValue t core sel).getD 0))

/-- A descriptor with one field replaced by the low bits of a value (04 R86). -/
def descWith (d : Desc) (field : Nat × Nat) (v : Nat) : Desc := BitVec.ofNat 256 (setFld d.toNat field.1 field.2 v)

/-- DSET: the low bits of SA into one field of a descriptor (04 R86). -/
def execDset (core : CoreId) (h : Hdr) (f : BitVec 51) (s : State) : Result :=
  let fd := dField (ff f 43 4)
  .next (issue s core 0x0D 1 h f (ff f 0 38 == 0 && fd.isSome) (aKeys [ff f 47 4] ++ sKeys [ff f 38 5])
    (reservedTrap ((s.core core).adesc (ff f 47 4)))
    fun t => t.modCore core fun x =>
      (x.setAdesc (ff f 47 4) (descWith (x.adesc (ff f 47 4)) (fd.getD (0, 0)) (x.sreg (ff f 38 5)).toNat)).advance 1)

/-- The value of a descriptor's field: strides sign-extended, the others zero-extended (04 R86). -/
def descField (d : Desc) (code : Nat) : Option Word :=
  (dField code).map fun p =>
    let v := fld d.toNat p.1 p.2
    if code = 3 || code = 4 then BitVec.ofInt 64 (sgn 32 v) else BitVec.ofNat 64 v

/-- DGET: a field of a descriptor into SD (04 R86). -/
def execDget (core : CoreId) (h : Hdr) (f : BitVec 51) (s : State) : Result :=
  let r := descField ((s.core core).adesc (ff f 42 4)) (ff f 38 4)
  .next (issue s core 0x0E 1 h f (ff f 0 38 == 0 && r.isSome) (aKeys [ff f 42 4])
    (reservedTrap ((s.core core).adesc (ff f 42 4)))
    fun t => writeSreg t core 1 (ff f 46 5) (r.getD 0))

/-- DLD: 32 bytes from memory into a descriptor; the controller stalls until they arrive (04 R86). -/
def execDld (core : CoreId) (h : Hdr) (f : BitVec 51) (s : State) : Result :=
  let off := scalarOff (s.core core) (ff f 42 5) (ff f 0 30)
  let seg := ff f 30 8
  .next (issue s core 0x0F 1 h f (ff f 38 4 == 0) (sKeys [ff f 42 5]) (checkScalar s core seg off 32 8 false)
    fun t => stallOn t core (.descLoad (ff f 47 4) seg off))

/-- DST: a descriptor into memory (04 R86). -/
def execDst (core : CoreId) (h : Hdr) (f : BitVec 51) (s : State) : Result :=
  let x := s.core core
  let off := scalarOff x (ff f 42 5) (ff f 0 30)
  let seg := ff f 30 8
  .next (issue s core 0x10 1 h f (ff f 38 4 == 0) (sKeys [ff f 42 5] ++ aKeys [ff f 47 4])
    (reservedTrap (x.adesc (ff f 47 4)) ++ checkScalar s core seg off 32 8 true)
    fun t => stallOn t core (.descStore (x.adesc (ff f 47 4)) seg off))

/-- A descriptor advanced by `n` along dimension 1 or 2: BASE by n strides, ORIGIN by n (04 R86). -/
def descAdvance (d : Desc) (dim : Nat) (n : Word) : Desc :=
  let st := if dim = 1 then dStride1 d else dStride2 d
  let d1 := descWith d (0, 48) (unsgn 48 (dBase d + n.toInt * st))
  if dim = 1 then descWith d1 (208, 24) (unsgn 24 (dOrigin1 d + n.toInt))
  else descWith d1 (232, 16) (unsgn 16 (dOrigin2 d + n.toInt))

/-- DADV: BASE and ORIGIN of a descriptor advanced by SA (04 R86). -/
def execDadv (core : CoreId) (h : Hdr) (f : BitVec 51) (s : State) : Result :=
  let dim := ff f 40 2
  .next (issue s core 0x11 1 h f (ff f 0 40 == 0 && (dim == 1 || dim == 2)) (aKeys [ff f 47 4] ++ sKeys [ff f 42 5])
    (reservedTrap ((s.core core).adesc (ff f 47 4)))
    fun t => t.modCore core fun x =>
      (x.setAdesc (ff f 47 4) (descAdvance (x.adesc (ff f 47 4)) dim (x.sreg (ff f 42 5)))).advance 1)

/-- A word whose opcode is of class X: a no-op while its guard is false, whatever its LEN, and otherwise
ILLEGAL_INSTRUCTION (04 R77 step 1, R79). An assigned opcode is no such word: it issues by the row of its own instruction,
and this command changes nothing (notes/assumptions/4.md). -/
def execReservedOpcodeTrap (core : CoreId) (op : BitVec 7) (h : Hdr) (f : BitVec 51) (s : State) : Result :=
  .next (if assignedOp op.toNat then s else issue s core op.toNat 1 h f false [] [] id)

/-! ## The access a stalled controller waits for (04 R82) -/

/-- The trap of a scalar read that failed for good or met poison: DATA_UNCORRECTABLE or POISON_CONSUMED at the lowest
failing byte (03 Table 3.8, 09 R200, R202). -/
def loadTrap (l : Load) (seg off start : Nat) : Option TrapInfo :=
  match l.failed with
  | some a => some ⟨0x0B, 0, seg, off + (a - start)⟩
  | none => if l.bad = 0 then none else
      some ⟨0x0C, 0, seg, off + ((indexOf? (bitAt l.bad) (List.range l.bytes.length)).getD 0)⟩

/-- A scalar access counted where 08 Table 8.11 says. -/
def countScalar (s : State) (c : CoreId) (a : Nat) (write : Bool) : State :=
  countAt s (dieOf c) a (if isHbm a then (if s.obj 0x240002 = 1 then 512 else 64) else 256) write

/-- Does a scalar access miss its sector in the slice of its address. -/
def sectorMiss (s : State) (a : Nat) : Bool :=
  isHbm a && (match homeDie a with
    | some d => !((cacheSet (s.die d) (dieOffset a / 256)).any fun l =>
        l.line == dieOffset a / 256 && l.sectors.getLsbD (dieOffset a / 64 % 4))
    | none => false)

/-- A scalar load of `n` bytes with its cache hint and prefetch (08 R169, R174). -/
def scalarMemLoad (s : State) (c : CoreId) (a n : Nat) (how : MemOutcome) : Load :=
  let hint := scalarHint s a
  let miss := sectorMiss s a
  let l := memLoad (countScalar s c a false) a n (some hint) how
  match homeDie a with
  | some d => if isHbm a then { l with s := prefetch l.s d c (dieOffset a / 256) miss hint } else l
  | none => l

/-- What a stalled access of `n` bytes at a segment's offset meets first: the wait for a handover, the trap of a bank,
or nothing (03 R60, R61). -/
inductive Gate where
  | wait
  | trap (t : TrapInfo)
  | pass
  deriving DecidableEq, Repr

/-- The gate of a unit's access to banks of the core's scratchpad. -/
def bankGate (x : CoreState) (unit seq : Nat) (bs : List Nat) : Gate :=
  if handoverWaits x seq bs then .wait
  else match bankDenied x unit bs with
    | some t => .trap t
    | none => .pass

/-- The gate of a controller's access. -/
def scalarGate (s : State) (c : CoreId) (g : Seg) (off n : Nat) : Gate :=
  if g.kind = 1 then bankGate (s.core c) 0 (s.core c).seq (banksOf (g.base + off) n) else .pass

/-- A read of `n` bytes of a segment by the controller. -/
def segLoad (s : State) (c : CoreId) (g : Seg) (off n : Nat) (how : MemOutcome) : Load :=
  if g.kind = 1 then scratchLoad s c (g.base + off) n how else scalarMemLoad s c (g.base + off) n how

/-- The byte `failed` of a load refers to. -/
def segStart (g : Seg) (off : Nat) : Nat := g.base + off

/-- A write of bytes into a segment by the controller. -/
def segStore (s : State) (c : CoreId) (g : Seg) (off : Nat) (bs : List Byte) : State :=
  if g.kind = 1 then scratchStore s c (g.base + off) bs
  else
    let a := g.base + off
    let t := memStore (countScalar s c a true) a bs (some (scalarHint s a))
    match homeDie a with
    | some d => t.when (sectorMiss s a) fun x => noteMiss x d c (dieOffset a / 256)
    | none => t

/-- The controller resumes past the instruction it stalled on. -/
def CoreState.resume (x : CoreState) (words : Nat) : CoreState := { x.advance words with stall := .none }

/-- The value a scalar load writes: zero-extended, or sign-extended under SX (04 R82). -/
def extendLoad (size : Nat) (sx : Bool) (v : Nat) : Word :=
  if sx then BitVec.ofInt 64 (sgn (8 * size) v) else BitVec.ofNat 64 v

/-- A controller read: the gate, then the bytes or the trap, then `k` with the bytes. -/
def ctrlRead (s : State) (c : CoreId) (seg off n : Nat) (how : MemOutcome) (k : State → List Byte → State) : State :=
  match s.seg seg with
  | none => s
  | some g =>
    match scalarGate s c g off n with
    | .wait => s
    | .trap t => trapCore s c t 0xFF (s.core c).pc.toNat
    | .pass =>
      let l := segLoad s c g off n how
      match loadTrap l seg off (segStart g off) with
      | some t => trapCore l.s c t 0xFF (s.core c).pc.toNat
      | none => k l.s l.bytes

/-- A controller write: the gate, then the store. -/
def ctrlWrite (s : State) (c : CoreId) (seg off : Nat) (bs : List Byte) : State :=
  match s.seg seg with
  | none => s
  | some g =>
    match scalarGate s c g off bs.length with
    | .wait => s
    | .trap t => trapCore s c t 0xFF (s.core c).pc.toNat
    | .pass => (segStore s c g off bs).modCore c (·.resume 1)

/-- SCALAR_ACCESS_DONE: the access a stalled SLD, SST, DLD or DST waits for is made, and the controller resumes
(04 R82, R86). Without such a stall nothing happens. -/
def execScalarAccessDone (core : CoreId) (how : MemOutcome) (s : State) : Result :=
  match (s.core core).stall with
  | .load sd seg off size sx =>
    .next (ctrlRead s core seg off size how fun t bs =>
      t.modCore core fun x => (x.setSreg sd (extendLoad size sx (leNat bs))).resume 1)
  | .store v seg off size => .next (ctrlWrite s core seg off (leBytes size v))
  | .descLoad ad seg off =>
    .next (ctrlRead s core seg off 32 how fun t bs =>
      t.modCore core fun x => (x.setAdesc ad (BitVec.ofNat 256 (leNat bs))).resume 1)
  | .descStore d seg off => .next (ctrlWrite s core seg off (leBytes 32 d.toNat))
  | .none => .next s
  | .queue _ => .next s
  | .fetchDesc _ _ _ _ _ _ _ => .next s
  | .waitq _ _ _ => .next s
  | .flagrd _ _ => .next s
  | .scale _ _ => .next s

end Sys2Proof.Machine
end

