-- ==== Sys2Proof/Machine/Vector.lean ====
section
/-!
DEFINITION. Machine/Vector.lean: the vector unit, opcodes 0x20 to 0x23 (04 R87 to R89, 06 R134, R135), and what the
matrix unit and the Purl path share with it: tiles in scratchpad, rounding modes, and busy cycles.
-/
namespace Sys2Proof.Machine

/-! ## Tiles in scratchpad -/

/-- The scratchpad offset of row `r` of plane `p` of a descriptor (03 R48). -/
def rowAt (s : State) (d : Desc) (p r : Nat) : Nat :=
  let g := ((s.seg (dSeg d)).map (·.base)).getD 0
  ((g : Int) + dBase d + r * dStride1 d + p * dStride2 d).toNat

/-- The rounding mode of the RND code for an element of a destination (04 Table 4.10, 05 R118). -/
def rmodeOf (s : State) (rnd step : Nat) (d : Desc) (p r j : Nat) : RMode :=
  match rnd with
  | 0 => .rne
  | 1 => .rtz
  | _ => .sr (cable (s.obj kSeed) step (dTensor d) ((dOrigin2 d + p) % 2 ^ 16) ((dOrigin1 d + r) % 2 ^ 24)
      ((dOrigin0 d + j) % 2 ^ 24))

/-- The first non-finite element of a row of FP32 values (05 R120, R121). -/
def firstNf (d : Option Desc) (p r j0 : Nat) : List (F32 × Bool) → Option NfElem
  | [] => none
  | v :: vs =>
    match nfKind v.1 v.2 with
    | some k => some ⟨k.1, k.2, (d.map dTensor).getD 0, p, r, j0⟩
    | none => firstNf d p r (j0 + 1) vs

/-- A row of FP32 values converted into row `r` of plane `p` of a destination, with its first non-finite element. -/
def storeRow (s : State) (c : CoreId) (d : Desc) (rnd step p r : Nat) (vs : List F32) : State × Option NfElem :=
  let out := writeRow (dFmt d) (vs.zipIdx.map fun v => (v.1, rmodeOf s rnd step d p r v.2))
  (scratchStore s c (rowAt s d p r) out.bytes, firstNf (some d) p r 0 (vs.zip out.overflow))

/-- A row of a descriptor as read. -/
def loadRow (s : State) (c : CoreId) (d : Desc) (p r : Nat) : Row × State :=
  let l := scratchLoad s c (rowAt s d p r) (dRowBytes d) .good
  (l.row, l.s)

/-- The FP32 values of a row of a descriptor. -/
def rowF32s (d : Desc) (row : Row) : List F32 := (List.range (dExt0 d + 1)).map (rowF32 (dFmt d) (dExt0 d + 1) row)

/-- The banks that a row touches. -/
def rowBanks (s : State) (d : Desc) (p r : Nat) : List Nat := banksOf (rowAt s d p r) (dRowBytes d)

/-- The rows of a descriptor in ascending plane and then row order. -/
def rowsOf (d : Desc) : List (Nat × Nat) :=
  ((List.range (dExt2 d + 1)).map fun p => (List.range (dExt1 d + 1)).map fun r => (p, r)).flatten

/-- Bytes of `[off, off + n)` in bank `b`. -/
def bankBytes (b : Nat) (r : Nat × Nat) : Nat := min (r.1 + r.2) ((b + 1) * 2 ^ 21) - max r.1 (b * 2 ^ 21)

/-- The bytes of a list of ranges in the busiest of the eight banks. -/
def busiestBank (rs : List (Nat × Nat)) : Nat :=
  maxOf ((List.range 8).map fun b => sumOf (rs.map (bankBytes b)))

/-- The byte ranges, within a row of `c` elements, of elements `lo` to `hi − 1` with their block scale bytes. -/
def elemRanges (f : Format) (c off lo hi : Nat) : List (Nat × Nat) :=
  if hi ≤ lo then []
  else
    let a := lo * f.elem.width / 8
    let e := cdiv (hi * f.elem.width) 8
    (off + a, e - a) :: (if f.mx then [(off + scaleOff f c + lo / 32, cdiv hi 32 - lo / 32)] else [])

/-! ## Busy cycles (02 R37, 06 R136) -/

/-- The declared core record of the frame running. -/
def coreDemand (s : State) (c : CoreId) : Option CoreDemand := s.frameDesc.bind fun d => d.cores[c.val]?

/-- DEMAND_OVERRUN of a core's unit, once a frame: `off` is the field's offset in the core record (02 Table 2.4). -/
def overrunIf (s : State) (c : CoreId) (off used declared : Nat) : State :=
  if declared < used && !(s.core c).use.overrun.contains off then
    demandOverrun (s.modCore c fun x => { x with use := { x.use with overrun := off :: x.use.overrun } }) c.val off
  else s

/-- Busy cycles of the vector unit. -/
def chargeVector (s : State) (c : CoreId) (n : Nat) : State :=
  let s1 := s.modCore c fun x => { x with use := { x.use with vector := x.use.vector + n } }
  match coreDemand s c with
  | none => s1
  | some d => overrunIf s1 c 0x08 (s1.core c).use.vector d.vector

/-- Busy cycles of the matrix unit. -/
def chargeEngine (s : State) (c : CoreId) (n : Nat) : State :=
  let s1 := s.modCore c fun x => { x with use := { x.use with engine := x.use.engine + n } }
  match coreDemand s c with
  | none => s1
  | some d => overrunIf s1 c 0x04 (s1.core c).use.engine d.engine

/-- Busy cycles of the Purl path. -/
def chargePurl (s : State) (c : CoreId) (n : Nat) : State :=
  let s1 := s.modCore c fun x => { x with use := { x.use with purl := x.use.purl + n } }
  match coreDemand s c with
  | none => s1
  | some d => overrunIf s1 c 0x0C (s1.core c).use.purl d.purl

/-! ## Functions (04 Table 4.11) -/

/-- VBIN's functions. -/
def vbinFn (fn : Nat) (a b : F32) : F32 :=
  match fn with
  | 0 => fadd a b
  | 1 => fsub a b
  | 2 => fmul a b
  | 3 => fminNan a b
  | 4 => fmaxNan a b
  | _ => fdiv a b

/-- ABS: the value with its sign clear. -/
def fabs (a : F32) : F32 := toF32 (valOf a).abs

/-- VUN's functions. -/
def vunFn (fn : Nat) (a : F32) : F32 :=
  match fn with
  | 0 => toF32 (valOf a)
  | 1 => fneg a
  | 2 => fabs a
  | 3 => vRecip a
  | 4 => vSqrt a
  | 5 => vRsqrt a
  | 6 => vExp a
  | 7 => vLog a
  | 8 => vTanh a
  | 9 => vSigmoid a
  | 10 => vSilu a
  | 11 => vGelu a
  | 12 => vSin a
  | _ => vCos a

/-- The elements of a row gathered into 256 parts by position, then the parts folded in pairs (04 R88). -/
def partSums (g : F32 → F32 → F32) (z : F32) (xs : List F32) : List F32 :=
  (List.range 256).map fun i =>
    (xs.zipIdx.filter fun x => x.2 % 256 == i).foldl (fun acc x => g acc x.1) z

/-- Neighbours combined in pairs. -/
def pairUp (g : F32 → F32 → F32) : List F32 → List F32
  | a :: b :: t => g a b :: pairUp g t
  | l => l

/-- Eight halvings of 256 parts. -/
def treeOf (g : F32 → F32 → F32) (l : List F32) : F32 :=
  ((List.range 8).foldl (fun acc _ => pairUp g acc) l).headD 0#32

/-- The fixed-order reduction of a row. -/
def rowReduce (g : F32 → F32 → F32) (z : F32) (xs : List F32) : F32 := treeOf g (partSums g z xs)

/-- The lowest index of the maximum; −0 lies below +0. -/
def argmaxGo : List F32 → Nat → F32 → Nat → Nat
  | [], _, _, best => best
  | x :: xs, i, m, best => if (valOf m).ltZ (valOf x) then argmaxGo xs (i + 1) x i else argmaxGo xs (i + 1) m best

/-- ARGMAX of a row: the first NaN if there is one. -/
def argmax (xs : List F32) : Nat :=
  match indexOf? (fun x => (valOf x).isNan) xs with
  | some i => i
  | none => match xs with
    | [] => 0
    | x :: t => argmaxGo t 1 x 0

/-- VRED's functions of a row. -/
def vredFn (fn : Nat) (xs : List F32) : F32 :=
  match fn with
  | 0 => rowReduce fadd 0#32 xs
  | 1 => rowReduce fmaxNan 0xFF800000#32 xs
  | 2 => rowReduce fminNan 0x7F800000#32 xs
  | 3 => rowReduce fadd 0#32 (xs.map fun x => fmul x x)
  | _ => toF32 (.fin false (argmax xs) 0)

/-- The number of functions of each vector instruction. -/
def vecFns : VecKind → Nat
  | .vbin => 6
  | .vfma => 1
  | .vun => 14
  | .vred => 5

/-- The rate factor of a function. -/
def vecRate (k : VecKind) (fn : Nat) : Nat :=
  match k with
  | .vbin => if fn = 5 then 4 else 1
  | .vun => if 3 ≤ fn then 4 else 1
  | .vfma => 1
  | .vred => 1

/-! ## Issue (04 R87) -/

/-- Does a vector instruction have a second operand. -/
def vecHasB : VecKind → Bool
  | .vbin => true
  | .vfma => true
  | .vun => false
  | .vred => false

/-- The extents rules of R87. -/
def vecExtents (k : VecKind) (bm : Nat) (d a b : Desc) : Bool :=
  dExt1 d == dExt1 a && dExt2 d == dExt2 a && dExt0 d == (if k = .vred then 0 else dExt0 a)
    && (!vecHasB k || bm != 0 || (dExt0 b == dExt0 a && dExt1 b == dExt1 a && dExt2 b == dExt2 a))
    && (!vecHasB k || bm != 1 || (dExt0 b == dExt0 a && dExt1 b == 0 && dExt2 b == 0))

/-- The reserved and enumerated fields of a vector instruction (04 Table 4.10). -/
def vecLegal (k : VecKind) (f : BitVec 51) : Bool :=
  let bm := ff f 31 2
  ff f 0 23 == 0 && ff f 33 6 < vecFns k && bm ≤ 2 && ff f 24 2 ≤ 2 && (vecHasB k || bm == 0)
    && ((vecHasB k && bm ≤ 1) || ff f 39 4 == 0) && ((vecHasB k && bm == 2) || ff f 26 5 == 0)

/-- The checks of a vector instruction at issue (04 R87, 03 R53). -/
def vecChecks (s : State) (c : CoreId) (k : VecKind) (f : BitVec 51) : List TrapInfo :=
  let x := s.core c
  let bm := ff f 31 2
  let d := x.adesc (ff f 47 4)
  let a := x.adesc (ff f 43 4)
  let b := x.adesc (ff f 39 4)
  require (vecExtents k bm d a b)
    ++ checkDesc s c d (ff f 47 4) true [1] ++ checkDesc s c a (ff f 43 4) false [1]
    ++ (if k = .vfma then checkDesc s c d (ff f 47 4) false [1] else [])
    ++ (if vecHasB k && bm ≤ 1 then checkDesc s c b (ff f 39 4) false [1] else [])

/-- The operation of a vector instruction with its operands as read at issue. -/
def vecOp (x : CoreState) (k : VecKind) (f : BitVec 51) : QOp :=
  .vec k (x.adesc (ff f 47 4)) (x.adesc (ff f 43 4)) (x.adesc (ff f 39 4)) (ff f 33 6) (ff f 31 2)
    ((x.sreg (ff f 26 5)).setWidth 32) (ff f 24 2) (ff f 23 1 == 1)

/-- A vector instruction is checked and placed in the VECTOR queue. -/
def issueVec (s : State) (c : CoreId) (k : VecKind) (op : Nat) (h : Hdr) (f : BitVec 51) : State :=
  let reads := aKeys ([ff f 47 4, ff f 43 4] ++ if vecHasB k && ff f 31 2 ≤ 1 then [ff f 39 4] else []) ++
    sKeys (if vecHasB k && ff f 31 2 == 2 then [ff f 26 5] else [])
  issue s c op 1 h f (vecLegal k f) reads (vecChecks s c k f) fun t =>
    enqueue t c 1 1 (vecOp (s.core c) k f) true id

/-- VBIN: an elementwise function of two operands (04 R87). -/
def execVbin (core : CoreId) (h : Hdr) (f : BitVec 51) (s : State) : Result := .next (issueVec s core .vbin 0x20 h f)

/-- VFMA: D = A × B + D, one rounding (04 R87). -/
def execVfma (core : CoreId) (h : Hdr) (f : BitVec 51) (s : State) : Result := .next (issueVec s core .vfma 0x21 h f)

/-- VUN: a function of one operand (04 R87). -/
def execVun (core : CoreId) (h : Hdr) (f : BitVec 51) (s : State) : Result := .next (issueVec s core .vun 0x22 h f)

/-- VRED: a reduction along dimension 0 (04 R88). -/
def execVred (core : CoreId) (h : Hdr) (f : BitVec 51) (s : State) : Result := .next (issueVec s core .vred 0x23 h f)

/-! ## Execution (04 R88, R89) -/

/-- The operands of a queued vector instruction. -/
structure VecOp where
  kind : VecKind
  d : Desc
  a : Desc
  b : Desc
  fn : Nat
  bm : Nat
  sb : F32
  rnd : Nat
  flags : Bool

/-- The ranges a vector instruction accesses for a row, in order: A, B, D. -/
def vecRowBanks (s : State) (v : VecOp) (p r : Nat) : List Nat :=
  rowBanks s v.a p r
    ++ (if vecHasB v.kind && v.bm == 0 then rowBanks s v.b p r
        else if vecHasB v.kind && v.bm == 1 && p == 0 && r == 0 then rowBanks s v.b 0 0 else [])
    ++ rowBanks s v.d p r

/-- The bytes chunk `k` of a row moves in its busiest bank (04 R89). -/
def vecChunkBytes (s : State) (v : VecOp) (p r k : Nat) : Nat :=
  let c := dExt0 v.a + 1
  let hi := min c (256 * k + 256)
  let at' (d : Desc) (p r : Nat) := elemRanges (dFmt d) c (rowAt s d p r) (256 * k) hi
  let bs := if !vecHasB v.kind then []
    else if v.bm = 0 then at' v.b p r
    else if v.bm = 1 && p == 0 && r == 0 then at' v.b 0 0 else []
  let ds := if v.kind = .vred then
      (if hi = c then elemRanges (dFmt v.d) 1 (rowAt s v.d p r) 0 1 else [])
    else at' v.d p r
  busiestBank (at' v.a p r ++ bs ++ ds ++ if v.kind = .vfma then ds else [])

/-- The cycles of a vector instruction (04 R89). -/
def vecCycles (s : State) (v : VecOp) : Nat :=
  let rows := rowsOf v.a
  let m := vecRate v.kind v.fn
  6 + sumOf (rows.map fun pr => sumOf ((List.range (cdiv (dExt0 v.a + 1) 256)).map fun k =>
      max m (cdiv (vecChunkBytes s v pr.1 pr.2 k) 512)))
    + (if v.kind = .vred then 8 * rows.length else 0)

/-- The results of a row from the operands' values. -/
def vecResults (v : VecOp) (as bs ds : List F32) : List F32 :=
  match v.kind with
  | .vbin => (as.zip bs).map fun p => vbinFn v.fn p.1 p.2
  | .vfma => (as.zip (bs.zip ds)).map fun p => ffma p.1 p.2.1 p.2.2
  | .vun => as.map (vunFn v.fn)
  | .vred => [vredFn v.fn as]

/-- One row run: the operands read in full, then the row of D written. -/
def vecRow (c : CoreId) (v : VecOp) (step : Nat) (shared : List F32) (acc : State × Option NfElem) (pr : Nat × Nat) :
    State × Option NfElem :=
  let ra := loadRow acc.1 c v.a pr.1 pr.2
  let as := rowF32s v.a ra.1
  let rb := if vecHasB v.kind && v.bm == 0 then loadRow ra.2 c v.b pr.1 pr.2 else (⟨0, 0⟩, ra.2)
  let bs := if v.bm = 0 then rowF32s v.b rb.1 else shared
  let rd := if v.kind = .vfma then loadRow rb.2 c v.d pr.1 pr.2 else (⟨0, 0⟩, rb.2)
  let ds := if v.kind = .vfma then rowF32s v.d rd.1 else []
  let w := storeRow rd.2 c v.d v.rnd step pr.1 pr.2 (vecResults v as bs ds)
  (w.1, acc.2 <|> w.2)

/-- A vector instruction run whole. -/
def runVec (s : State) (c : CoreId) (i : QInst) (v : VecOp) : State :=
  let s0 := chargeVector s c (vecCycles s v)
  let sh : List F32 × State :=
    if vecHasB v.kind && v.bm == 1 then let rb := loadRow s0 c v.b 0 0; (rowF32s v.b rb.1, rb.2)
    else if v.bm = 2 then (List.replicate (dExt0 v.a + 1) v.sb, s0)
    else ([], s0)
  let r := (rowsOf v.a).foldl (vecRow c v i.step sh.1) (sh.2, none)
  match r.2 with
  | some e => noteNonfinite r.1 c i.frame 1 i.pc i.seq v.flags e
  | none => r.1

/-- The trap of a unit that executes a queued instruction: the queue has no more work to finish. -/
def unitTrap (s : State) (c : CoreId) (q : Nat) (i : QInst) (t : TrapInfo) : State :=
  (trapCore s c t q i.pc).modCore c fun x => drained x q

/-- The head of the VECTOR queue executes and finishes, waits for a handover, or traps (03 R60, R61, R64). -/
def finishVector (s : State) (c : CoreId) : State :=
  let x := s.core c
  match x.queue 1 with
  | [] => s
  | i :: _ =>
    match i.op with
    | .vec k d a b fn bm sb rnd flags =>
      let v : VecOp := ⟨k, d, a, b, fn, bm, sb, rnd, flags⟩
      match bankGate x 2 i.seq ((rowsOf a).map fun pr => vecRowBanks s v pr.1 pr.2).flatten with
      | .wait => s
      | .trap t => unitTrap s c 1 i t
      | .pass => finishHead (runVec s c i v) c 1
    | _ => s

end Sys2Proof.Machine
end

