-- ==== Sys2Proof/Machine/Matrix.lean ====
section
/-!
DEFINITION. Machine/Matrix.lean: MMUL, MWLD and MRD, opcodes 0x30 to 0x32 (04 R90 to R95), run as folds on the four
engines of a core (06 R123 to R131), with compacted weights and masks (07 R140 to R150).
-/
namespace Sys2Proof.Machine

/-! ## Shapes (06 Table 6.1, 07 Table 7.1) -/

/-- Weights kept of each group of 8 at a SPAR code. -/
def sparKeep (spar : Nat) : Nat := if spar = 0 then 8 else if spar = 1 then 4 else 2

/-- K_BLK of a rate factor and a SPAR code. -/
def kBlk (r spar : Nat) : Nat := 128 * r * (if spar = 0 then 1 else if spar = 1 then 2 else 4)

/-- The rate factor r of a format; 0 for a format without a rate class. -/
def rateOf (f : Format) : Nat := f.rate.getD 0

/-- Do two operands belong to one rate class, both floating-point or both integer (04 R91 rule 3). -/
def sameClass (a b : Format) : Bool := a.rate.isSome && a.rate == b.rate && a.elem.isInt == b.elem.isInt

/-- INT32 is no format outside the vector unit (05 R105). -/
def notInt32 (d : Desc) : Bool := dFormat d != 0x0B

/-- Bytes of a value sub-row. -/
def vrowBytes (f : Format) (n : Nat) : Nat := roundUp (rowBytes f n) 4

/-- Bits of a pattern code. -/
def codeBits (spar : Nat) : Nat := if spar = 1 then 7 else 5

/-- Bytes of a group row. -/
def groupRowBytes (f : Format) (n spar : Nat) : Nat :=
  sparKeep spar * vrowBytes f n + roundUp (cdiv (n * codeBits spar) 8) 4

/-- The range that the checks and bank counts use for W (07 R144). -/
def wExt (d : Desc) (spar : Nat) : Ext :=
  if spar = 0 then dExt d
  else ⟨dSeg d, dBase d, groupRowBytes (dFmt d) (dExt0 d + 1) spar, cdiv (dExt1 d + 1) 8 - 1, dStride1 d, dExt2 d,
    dStride2 d⟩

/-- Binomial coefficient `n` over `k`. -/
def choose : Nat → Nat → Nat
  | _, 0 => 1
  | 0, _ + 1 => 0
  | n + 1, k + 1 => choose n k + choose n (k + 1)

/-- The largest q below 8 with `choose q i ≤ code` (07 R141). -/
def patternTop (i code : Nat) : Nat := ((List.range 8).filter fun q => choose q i ≤ code).foldl Nat.max (i - 1)

/-- The positions of a pattern code, descending. -/
def patternGo : Nat → Nat → List Nat
  | 0, _ => []
  | i + 1, code => let q := patternTop (i + 1) code; q :: patternGo i (code - choose q (i + 1))

/-- The ascending positions of a pattern code; none for an invalid code (07 R141, R142). -/
def patternPositions (code keep : Nat) : Option (List Nat) :=
  if choose 8 keep ≤ code then none else some (patternGo keep code).reverse

/-! ## Issue (04 R91, R93, R94) -/

/-- ENGINE_FENCED at issue: the lowest fenced engine (04 R104). -/
def fencedTrap (x : CoreState) : List TrapInfo :=
  match (List.range 4).find? (fun e => x.fenced.getLsbD e) with
  | some e => [plainTrap 0x0D e]
  | none => []

/-- ACC_RESERVED: acc3 named in a frame carrying UPDATE, with the engines that N columns use (04 R91 rule 9). -/
def accTrap (s : State) (acc n : Nat) : List TrapInfo :=
  if s.isUpdateFrame && acc == 3 then [plainTrap 0x0A (2 ^ min 4 (cdiv n 128) - 1)] else []

/-- The checks of a mask record of so many bytes: SEG and BASE alone matter, apart from R50 and R105 (07 R146, R150). -/
def checkMask (s : State) (c : CoreId) (d : Desc) (num bytes : Nat) : List TrapInfo :=
  let e : Ext := ⟨dSeg d, dBase d, bytes, 0, 0, 0, 0⟩
  if !descOk d then [illegal]
  else checkExt s c e num false [1] ++ (if dBase d % 8 = 0 then [] else [⟨7, num, dSeg d, dBase d⟩])

/-- The byte range of an operand within the scratchpad. -/
def absRange (s : State) (e : Ext) : Option (Int × Int) :=
  (s.seg e.seg).map fun g => (e.range.1 + g.base, e.range.2 + g.base)

/-- Do two ranges intersect. -/
def rangesMeet (a b : Option (Int × Int)) : Bool :=
  match a, b with
  | some x, some y => x.1 ≤ y.2 && y.1 ≤ x.2
  | _, _ => false

/-- The mask record's range of bytes. -/
def maskExt (d : Desc) (bytes : Nat) : Ext := ⟨dSeg d, dBase d, bytes, 0, 0, 0, 0⟩

/-- The operands of an MMUL. -/
structure Mm where
  a : Desc
  w : Desc
  d : Desc
  abm : Desc
  arm : Desc
  dk : Bool
  acc : Nat
  accum : Bool
  wstat : Bool
  spar : Nat
  bmen : Bool
  rmen : Bool
  rnd : Nat
  flags : Bool
  ssa : F32
  ssw : F32
  ssd : F32

/-- The shape of the weights of an MMUL: those of W, or of the held blocks. -/
def Mm.weights (m : Mm) (held : Option HeldShape) : HeldShape :=
  if m.wstat then held.getD ⟨0, 0, 0, 0⟩ else ⟨dFormat m.w, dExt1 m.w + 1, dExt0 m.w + 1, m.spar⟩

/-- Operand rules 1, 3, 5, 6, 7, 8 and 10 of R91. -/
def mmulRules (s : State) (m : Mm) (held : Option HeldShape) : Bool :=
  let sh := m.weights held
  let mm := dExt1 m.a + 1
  let kk := dExt0 m.a + 1
  let dr := absRange s (dExt m.d)
  (!m.wstat || held.isSome)
    && mm ≤ 1024 && kk ≤ 1024 && sh.n ≤ 1024 && sh.k == kk
    && dExt2 m.a == 0 && (m.wstat || dExt2 m.w == 0) && (!m.dk || dExt2 m.d == 0)
    && sameClass (dFmt m.a) ((formatOf sh.fmt).getD ⟨.fp32, false⟩)
    && (m.dk || (mm ≤ 128 && sh.n ≤ 512)) && (!m.dk || notInt32 m.d)
    && (!m.dk || !m.accum || dFormat m.d == 1)
    && (!m.dk || (dExt1 m.d + 1 == mm && dExt0 m.d + 1 == sh.n))
    && (!m.dk || !(rangesMeet dr (absRange s (dExt m.a)) || (!m.wstat && rangesMeet dr (absRange s (wExt m.w m.spar)))
      || (m.bmen && rangesMeet dr (absRange s (maskExt m.abm 32)))
      || (m.rmen && rangesMeet dr (absRange s (maskExt m.arm 136)))))

/-- The checks of W as MMUL and MWLD read it. -/
def checkWeights (s : State) (c : CoreId) (d : Desc) (num spar : Nat) : List TrapInfo :=
  if descOk d then checkExt s c (wExt d spar) num false [1] else [illegal]

/-- The operands of an MMUL as its fields name them (04 Table 4.12). -/
def mmulOf (x : CoreState) (f : BitVec 51) : Mm :=
  ⟨x.adesc (ff f 47 4), x.adesc (ff f 43 4), x.adesc (ff f 39 4), x.adesc (ff f 27 4),
    x.adesc (ff f 22 4), ff f 38 1 == 1, ff f 36 2, ff f 35 1 == 1, ff f 34 1 == 1, ff f 32 2, ff f 31 1 == 1,
    ff f 26 1 == 1, ff f 20 2, ff f 19 1 == 1, x.scale (ff f 14 5), x.scale (ff f 9 5), x.scale (ff f 4 5)⟩

/-- The queued operation of an MMUL. -/
def Mm.op (m : Mm) : QOp :=
  .mmul m.a m.w m.d m.abm m.arm m.dk m.acc m.accum m.wstat m.spar m.bmen m.rmen m.rnd m.flags m.ssa m.ssw m.ssd

/-- The checks of an MMUL at issue (04 R91, R92, 03 R53). -/
def mmulChecks (s : State) (core : CoreId) (f : BitVec 51) : List TrapInfo :=
  let x := s.core core
  let m := mmulOf x f
  require (mmulRules s m x.heldIss) ++ checkDesc s core m.a (ff f 47 4) false [1]
    ++ (if m.wstat then [] else checkWeights s core m.w (ff f 43 4) m.spar)
    ++ (if m.dk then checkDesc s core m.d (ff f 39 4) true [1] else [])
    ++ (if m.dk && m.accum then checkDesc s core m.d (ff f 39 4) false [1] else [])
    ++ (if m.bmen then checkMask s core m.abm (ff f 27 4) 32 else [])
    ++ (if m.rmen then checkMask s core m.arm (ff f 22 4) 136 else [])
    ++ accTrap s m.acc (m.weights x.heldIss).n ++ fencedTrap x

/-- MMUL: a folded tile matrix product (04 R90 to R92). -/
def execMmul (core : CoreId) (h : Hdr) (f : BitVec 51) (s : State) : Result :=
  let m := mmulOf (s.core core) f
  let legal := ff f 0 4 == 0 && m.spar != 3 && m.rnd != 3
  let reads := aKeys ([ff f 47 4] ++ (if m.wstat then [] else [ff f 43 4]) ++ (if m.dk then [ff f 39 4] else [])
      ++ (if m.bmen then [ff f 27 4] else []) ++ (if m.rmen then [ff f 22 4] else []))
    ++ sKeys [ff f 14 5, ff f 9 5, ff f 4 5]
  .next (issue s core 0x30 1 h f legal reads (mmulChecks s core f) fun t =>
    enqueue t core 0 1 m.op true fun y => if m.wstat then y else { y with heldIss := none })

/-- The checks of an MWLD at issue (04 R93, 03 R53). -/
def mwldChecks (s : State) (core : CoreId) (f : BitVec 51) : List TrapInfo :=
  let x := s.core core
  let d := x.adesc (ff f 47 4)
  let spar := ff f 43 2
  let r := rateOf (dFmt d)
  let fits := (dFmt d).rate.isSome && dExt1 d + 1 ≤ kBlk r spar && dExt0 d + 1 ≤ 512 && dExt2 d == 0
  require fits ++ checkWeights s core d (ff f 47 4) spar ++ fencedTrap x

/-- MWLD: one stationary block per engine (04 R93). -/
def execMwld (core : CoreId) (h : Hdr) (f : BitVec 51) (s : State) : Result :=
  let d := (s.core core).adesc (ff f 47 4)
  let spar := ff f 43 2
  .next (issue s core 0x31 1 h f (ff f 45 2 == 0 && ff f 0 43 == 0 && spar != 3) (aKeys [ff f 47 4]) (mwldChecks s core f)
    fun t => enqueue t core 0 1 (.mwld d spar) true fun y =>
      { y with heldIss := some ⟨dFormat d, dExt1 d + 1, dExt0 d + 1, spar⟩ })

/-- The checks of an MRD at issue (04 R94, 03 R53). -/
def mrdChecks (s : State) (core : CoreId) (f : BitVec 51) : List TrapInfo :=
  let x := s.core core
  let d := x.adesc (ff f 47 4)
  require (dExt1 d + 1 ≤ 128 && dExt0 d + 1 ≤ 512 && dExt2 d == 0 && notInt32 d)
    ++ checkDesc s core d (ff f 47 4) true [1] ++ accTrap s (ff f 45 2) (dExt0 d + 1) ++ fencedTrap x

/-- MRD: an accumulator set read out into D (04 R94). -/
def execMrd (core : CoreId) (h : Hdr) (f : BitVec 51) (s : State) : Result :=
  let x := s.core core
  .next (issue s core 0x32 1 h f (ff f 0 36 == 0 && ff f 42 2 != 3) (aKeys [ff f 47 4] ++ sKeys [ff f 36 5])
    (mrdChecks s core f)
    fun t => enqueue t core 0 1
      (.mrd (x.adesc (ff f 47 4)) (ff f 45 2) (ff f 44 1 == 1) (ff f 42 2) (ff f 41 1 == 1) (x.scale (ff f 36 5))) true id)

/-! ## Masks (07 R146 to R150) -/

/-- Is a byte range of a mask row poisoned. -/
def rowBadAt (r : Row) (off n : Nat) : Bool := fld r.bad off n != 0

/-- The block mask as its record gives it. -/
def bandOpen (r : Row) (mm nn mb nb : Nat) : Bool :=
  let q0 : Int := fld r.bits 128 32
  let k0 : Int := fld r.bits 160 32
  let lo := sgn 32 (fld r.bits 192 32)
  let hi := sgn 32 (fld r.bits 224 32)
  let mHi := min mm (128 * mb + 128) - 1
  let nHi := min nn (128 * nb + 128) - 1
  (q0 + 128 * mb) - (k0 + nHi) ≤ hi && lo ≤ (q0 + mHi) - (k0 + 128 * nb)

/-- Is output block (mb, nb) open (07 R147, R148). -/
def blockOpen (r : Row) (mm nn mb nb : Nat) : Bool :=
  let bit := bitAt r.bits (64 + 8 * mb + nb)
  match fld r.bits 0 8 with
  | 0 => bit
  | 1 => bandOpen r mm nn mb nb
  | 2 => bit && bandOpen r mm nn mb nb
  | _ => true

/-- Is a mask record of 32 bytes poisoned anywhere. -/
def maskPoisoned (r : Row) : Bool := rowBadAt r 0 32

/-- An MMUL at the head of the MATRIX queue with its masks read and its shape. -/
structure MmRun where
  m : Mm
  sh : HeldShape
  mM : Nat
  mK : Nat
  r : Nat
  kb : Nat
  nk : Nat
  nn : Nat
  bmask : Row
  rmask : Row

/-- The run of an MMUL from its queue entry. -/
def mmRun (m : Mm) (held : Option HeldShape) (i : QInst) : MmRun :=
  let sh := m.weights held
  let r := rateOf (dFmt m.a)
  let kb := kBlk r sh.spar
  ⟨m, sh, dExt1 m.a + 1, dExt0 m.a + 1, r, kb, if m.wstat then 1 else cdiv (dExt0 m.a + 1) kb, cdiv sh.n 128,
    i.bmask, i.rmask⟩

/-- Row `m` lies in a poisoned word of ROWS. -/
def MmRun.rowPoisoned (x : MmRun) (m : Nat) : Bool := x.m.rmen && rowBadAt x.rmask (8 + m / 8) 1

/-- present(m) of 06 R125. -/
def MmRun.present (x : MmRun) (m : Nat) : Bool := !x.m.rmen || bitAt x.rmask.bits (64 + m) || x.rowPoisoned m

/-- The whole output is NaN, because the block mask was poisoned. -/
def MmRun.allNan (x : MmRun) : Bool := x.m.bmen && maskPoisoned x.bmask

/-- open(m, nb) of 06 R125. -/
def MmRun.isOpen (x : MmRun) (m nb : Nat) : Bool :=
  !x.m.bmen || x.allNan || blockOpen x.bmask x.mM x.sh.n (m / 128) nb

/-! ## Folds (06 R125) -/

/-- A fold: column group, K block, engines, and the rows that stream. -/
structure Fold where
  g : Nat
  kb : Nat
  engines : List Nat
  rows : List Nat

/-- The engines of a column group. -/
def MmRun.engines (x : MmRun) (g : Nat) : List Nat := (List.range 4).filter fun e => 4 * g + e < x.nn

/-- The rows of a column group. -/
def MmRun.rows (x : MmRun) (g : Nat) : List Nat :=
  (List.range x.mM).filter fun m => x.present m && (x.engines g).any fun e => x.isOpen m (4 * g + e)

/-- The column groups. -/
def MmRun.groups (x : MmRun) : List Nat := List.range (cdiv x.nn 4)

/-- The folds of a column group. -/
def MmRun.groupFolds (x : MmRun) (g : Nat) : List Fold :=
  if (x.rows g).isEmpty then [] else (List.range x.nk).map fun kb => ⟨g, kb, x.engines g, x.rows g⟩

/-- The fold list. -/
def MmRun.folds (x : MmRun) : List Fold := (x.groups.map x.groupFolds).flatten

/-- Is an engine of a fold loaded: some row of the fold is open in it. -/
def MmRun.loaded (x : MmRun) (f : Fold) (e : Nat) : Bool := f.rows.any fun m => x.isOpen m (4 * f.g + e)

/-- The columns of engine `e` of group `g`: from, to. -/
def MmRun.cols (x : MmRun) (g e : Nat) : Nat × Nat := (128 * (4 * g + e), min x.sh.n (128 * (4 * g + e) + 128))

/-! ## Cost (06 R128) -/

/-- The byte ranges of elements `lo` to `hi − 1` of a row of `c` elements that takes `size` bytes: as `elemRanges`, and to the
row's end with its padding where the range holds the last element (05 R109, 07 R140). -/
def paddedRanges (f : Format) (c size off lo hi : Nat) : List (Nat × Nat) :=
  if hi ≤ lo then []
  else if hi < c then elemRanges f c off lo hi
  else
    let a := lo * f.elem.width / 8
    if f.mx then [(off + a, scaleOff f c - a), (off + scaleOff f c + lo / 32, size - scaleOff f c - lo / 32)]
    else [(off + a, size - a)]

/-- The byte ranges of the weights of block kb in columns `[c0, c1)`. Of compacted weights the group rows count whole, with
their padding (07 R144). -/
def weightRanges (s : State) (w : Desc) (spar kb kBlkRows c0 c1 : Nat) : List (Nat × Nat) :=
  let f := dFmt w
  let n := dExt0 w + 1
  let k := dExt1 w + 1
  if spar = 0 then
    ((List.range (min k ((kb + 1) * kBlkRows) - kb * kBlkRows)).map fun j =>
      elemRanges f n (rowAt s w 0 (kb * kBlkRows + j)) c0 c1).flatten
  else
    let g0 := kb * kBlkRows / 8
    let g1 := cdiv (min k ((kb + 1) * kBlkRows)) 8
    ((List.range (g1 - g0)).map fun j =>
      let off := rowAt s w 0 (g0 + j)
      ((List.range (sparKeep spar)).map fun t => paddedRanges f n (vrowBytes f n) (off + t * vrowBytes f n) c0 c1).flatten
        ++ [(off + sparKeep spar * vrowBytes f n + c0 * codeBits spar / 8,
             (if c1 < n then cdiv (c1 * codeBits spar) 8 else roundUp (cdiv (n * codeBits spar) 8) 4)
               - c0 * codeBits spar / 8)]).flatten

/-- The weight ranges of a fold: the engines that are loaded. -/
def foldWeights (s : State) (x : MmRun) (f : Fold) : List (Nat × Nat) :=
  if x.m.wstat then [] else ((f.engines.filter (x.loaded f)).map fun e =>
    weightRanges s x.m.w x.m.spar f.kb x.kb (x.cols f.g e).1 (x.cols f.g e).2).flatten

/-- The ranges of D for a column group, all rows, with the padding that a row of an MX format writes. -/
def groupDest (s : State) (x : MmRun) (g : Nat) : List (Nat × Nat) :=
  if !x.m.dk then []
  else
    let one := ((List.range x.mM).map fun m =>
      paddedRanges (dFmt x.m.d) x.sh.n (dRowBytes x.m.d) (rowAt s x.m.d 0 m) (512 * g)
        (min x.sh.n (512 * g + 512))).flatten
    if x.m.accum then one ++ one else one

/-- Bytes of a list of ranges in each bank. -/
def bankCounts (rs : List (Nat × Nat)) : List Nat := (List.range 8).map fun b => sumOf (rs.map (bankBytes b))

/-- ⌈b / 512⌉ of a fold, b its busiest bank's bytes; `first` is the first fold, `again` a fold resumed after a stop, whose
weights are fetched afresh (06 R127), `nextF` the next of the list. -/
def foldBank (s : State) (x : MmRun) (f : Fold) (first again : Bool) (nextF : Option Fold) : Nat :=
  let acts := (f.rows.map fun m =>
    elemRanges (dFmt x.m.a) x.mK (rowAt s x.m.a 0 m) (f.kb * x.kb) (min x.mK ((f.kb + 1) * x.kb))).flatten
  let pre := (nextF.map (foldWeights s x)).getD []
  let dst := if f.kb + 1 = x.nk then groupDest s x f.g else []
  let masks := if first then
      (if x.m.bmen then [(rowAt s x.m.abm 0 0, 32)] else []) ++ (if x.m.rmen then [(rowAt s x.m.arm 0 0, 136)] else [])
    else []
  let base := bankCounts (acts ++ pre ++ dst ++ masks)
  let own := if first || again then (bankCounts (foldWeights s x f)).map (· - 65536) else List.replicate 8 0
  cdiv (maxOf ((base.zip own).map fun p => p.1 + p.2)) 512

/-! ## Loading operands -/

/-- Elements `[c0, c1)` of a row of `c` elements, as a row of its own. -/
def loadCols (s : State) (core : CoreId) (f : Format) (c off c0 c1 : Nat) : Row × State :=
  let lo := c0 * f.elem.width / 8
  let n := cdiv (c1 * f.elem.width) 8 - lo
  let l := scratchLoad s core (off + lo) n .good
  if f.mx then
    let so := scaleOff f (c1 - c0)
    let sc := scratchLoad l.s core (off + scaleOff f c + c0 / 32) (cdiv c1 32 - c0 / 32) .good
    (⟨leNat l.bytes + leNat sc.bytes * 2 ^ (8 * so), l.bad + sc.bad * 2 ^ so⟩, sc.s)
  else (l.row, l.s)

/-- Several loads in order. -/
def loadEach {α β : Type} (l : List α) (g : State → α → β × State) (s : State) : List β × State :=
  let r := l.foldl (fun acc a => let b := g acc.2 a; (b.1 :: acc.1, b.2)) (([], s) : List β × State)
  (r.1.reverse, r.2)

/-- A dense block: for each column of `[c0, c1)`, the weights of rows `[k0, k1)` in order. -/
def loadDense (s : State) (core : CoreId) (w : Desc) (k0 k1 c0 c1 : Nat) : List (List (Nat × Val)) × State :=
  let f := dFmt w
  let rs := loadEach (List.range (k1 - k0)) (fun t j => loadCols t core f (dExt0 w + 1) (rowAt t w 0 (k0 + j)) c0 c1) s
  ((List.range (c1 - c0)).map fun n => rs.1.zipIdx.map fun p => (k0 + p.2, rowVal f (c1 - c0) p.1 n), rs.2)

/-- One group row of compacted weights: its value sub-rows and its index sub-row. -/
def loadGroup (core : CoreId) (w : Desc) (spar c0 c1 : Nat) (s : State) (g : Nat) : (List Row × Row) × State :=
  let f := dFmt w
  let n := dExt0 w + 1
  let off := rowAt s w 0 g
  let vs := loadEach (List.range (sparKeep spar)) (fun t j => loadCols t core f n (off + j * vrowBytes f n) c0 c1) s
  let lo := c0 * codeBits spar / 8
  let l := scratchLoad vs.2 core (off + sparKeep spar * vrowBytes f n + lo) (cdiv (c1 * codeBits spar) 8 - lo) .good
  ((vs.1, l.row), l.s)

/-- The pattern code of column `n` of a group, and whether its bits are poisoned. -/
def groupCode (idx : Row) (spar n : Nat) : Nat × Bool :=
  let w := codeBits spar
  (fld idx.bits (w * n) w, fld idx.bad (w * n / 8) ((w * n + w - 1) / 8 - w * n / 8 + 1) != 0)

/-- The kept weights of column `n` of group `g`: NaN at 8g + t where the code is invalid (07 R142) or poisoned. -/
def groupWeights (f : Format) (cols spar g n : Nat) (gr : List Row × Row) : List (Nat × Val) :=
  let cd := groupCode gr.2 spar n
  match (if cd.2 then none else patternPositions cd.1 (sparKeep spar)) with
  | none => (List.range (sparKeep spar)).map fun t => (8 * g + t, .nan)
  | some ps => (ps.zip gr.1).map fun p => (8 * g + p.1, rowVal f cols p.2 n)

/-- Invalid codes among the columns of a group. -/
def invalidCodes (cols spar : Nat) (gr : List Row × Row) : Nat :=
  ((List.range cols).filter fun n =>
    let cd := groupCode gr.2 spar n
    !cd.2 && (patternPositions cd.1 (sparKeep spar)).isNone).length

/-- A compacted block: for each column of `[c0, c1)`, the kept weights of groups `[g0, g1)` in stored order
(07 R143). -/
def loadSparse (s : State) (core : CoreId) (w : Desc) (spar g0 g1 c0 c1 : Nat) : List (List (Nat × Val)) × State :=
  let f := dFmt w
  let gs := loadEach (List.range (g1 - g0)) (fun t j => loadGroup core w spar c0 c1 t (g0 + j)) s
  let bad := sumOf (gs.1.map (invalidCodes (c1 - c0) spar))
  ((List.range (c1 - c0)).map fun n =>
      (gs.1.zipIdx.map fun p => groupWeights f (c1 - c0) spar (g0 + p.2) n p.1).flatten,
    gs.2.bumpBy 0x620301 bad)

/-- Block kb of the weights of columns `[c0, c1)`. -/
def loadBlock (s : State) (core : CoreId) (w : Desc) (spar kb kRows c0 c1 : Nat) : List (List (Nat × Val)) × State :=
  let k := dExt1 w + 1
  let k1 := min k ((kb + 1) * kRows)
  if spar = 0 then loadDense s core w (kb * kRows) k1 c0 c1
  else loadSparse s core w spar (kb * kRows / 8) (cdiv k1 8) c0 c1

/-! ## The order of summation (06 R130, R131) -/

/-- The exact sum of a cell's products; an empty cell gives +0. -/
def cellSum (aRow : Nat → Val) (k : Nat) (slots : List (Nat × Val)) : Val :=
  match (slots.filter fun w => w.1 < k).map fun w => (aRow w.1).mul w.2 with
  | [] => vZero
  | t :: ts => ts.foldl Val.add t

/-- The sum of one block: 128 cell rows from the top. -/
def blockDot (r k : Nat) (aRow : Nat → Val) (col : List (Nat × Val)) : F32 :=
  (List.range 128).foldl (fun acc i =>
    addFlush acc (flushF32 (toF32 (cellSum aRow k ((col.drop (i * r)).take r))))) 0#32

/-! ## Accumulators and the sum store (06 R126, 01 R13) -/

/-- The key of an accumulator word. -/
def accKey (set e row col : Nat) : Nat := ((set * 4 + e) * 128 + row) * 128 + col

/-- The key of a sum store word. -/
def sumKey (e row col : Nat) : Nat := (e * 1024 + row) * 128 + col

/-- A protected word of an array as a read returns it. -/
def arrVal (words : Kv F32) (devs : Kv Nat) (k : Nat) : F32 :=
  let v := kvGet 0#32 words k
  match hamRead 32 6 v.toNat (kvGet 0 devs k) with
  | .corrected mask => v ^^^ BitVec.ofNat 32 mask
  | _ => v

/-- Is a word of an array uncorrectable; engine arrays have no poison form to be read as such. -/
def arrBad (words : Kv F32) (p : Nat × Nat) : Bool :=
  match hamRead 32 6 (kvGet 0#32 words p.1).toNat p.2 with
  | .uncorrectable => true
  | .poisoned => true
  | _ => false

/-- An accumulator word. -/
def CoreState.accVal (x : CoreState) (set e row col : Nat) : F32 := arrVal x.acc x.accDev (accKey set e row col)

/-- An accumulator word written. -/
def CoreState.setAcc (x : CoreState) (set e row col : Nat) (v : F32) : CoreState :=
  { x with acc := kvSet 0 x.acc (accKey set e row col) v, accDev := kvSet 0 x.accDev (accKey set e row col) 0 }

/-- A sum store word. -/
def CoreState.sumVal (x : CoreState) (e row col : Nat) : F32 := arrVal x.sum x.sumDev (sumKey e row col)

/-- A sum store word written. -/
def CoreState.setSum (x : CoreState) (e row col : Nat) (v : F32) : CoreState :=
  { x with sum := kvSet 0 x.sum (sumKey e row col) v, sumDev := kvSet 0 x.sumDev (sumKey e row col) 0 }

/-- The running sum of an output element. -/
def CoreState.running (x : CoreState) (dk : Bool) (set e row col : Nat) : F32 :=
  if dk && row < 128 then x.accVal set e row col else x.sumVal e row col

/-- The running sum of an output element written. -/
def CoreState.setRunning (x : CoreState) (dk : Bool) (set e row col : Nat) (v : F32) : CoreState :=
  if dk && row < 128 then x.setAcc set e row col v else x.setSum e row col v

/-- The words of a core's engine arrays that a read takes: `acc set engine row column` tells which accumulator words,
`sum engine row column` which sum store words, and `bufs` the engines whose operand buffers are read. -/
structure ArrayReads where
  acc : Nat → Nat → Nat → Nat → Bool
  sum : Nat → Nat → Nat → Bool
  bufs : List Nat

/-- Does a read take the accumulator word of a key. -/
def ArrayReads.hasAcc (r : ArrayReads) (k : Nat) : Bool := r.acc (k / 65536) (k / 16384 % 4) (k / 128 % 128) (k % 128)

/-- Does a read take the sum store word of a key. -/
def ArrayReads.hasSum (r : ArrayReads) (k : Nat) : Bool := r.sum (k / 131072) (k / 128 % 1024) (k % 128)

/-- The operand buffers' words as values. -/
def CoreState.buffer (x : CoreState) : Kv F32 := x.bufWord.map fun w => (w.1, BitVec.ofNat 32 (w.2 - 1))

/-- The engine of the first uncorrectable word among those a read takes. -/
def arrayError (x : CoreState) (r : ArrayReads) : Option Nat :=
  let a := x.accDev.find? fun d => r.hasAcc d.1 && arrBad x.acc d
  let b := x.sumDev.find? fun d => r.hasSum d.1 && arrBad x.sum d
  let o := x.bufDev.find? fun d => r.bufs.contains (d.1 / 2 ^ 24) && arrBad x.buffer d
  (a.map fun d => d.1 / 16384 % 4) <|> (b.map fun d => d.1 / 131072) <|> (o.map fun d => d.1 / 2 ^ 24)

/-- How many of the words a read takes decode with an outcome. -/
def arrayCount (x : CoreState) (r : ArrayReads) (p : ReadOut → Bool) : Nat :=
  let n (ws : Kv F32) (ds : Kv Nat) (sel : Nat → Bool) : Nat :=
    (ds.filter fun d => sel d.1 && p (hamRead 32 6 (kvGet 0#32 ws d.1).toNat d.2)).length
  n x.acc x.accDev r.hasAcc + n x.sum x.sumDev r.hasSum + n x.buffer x.bufDev fun k => r.bufs.contains (k / 2 ^ 24)

/-- A read of engine arrays counts what their codes corrected: data, and check bits alone (09 R196, R204, R208). -/
def noteArrays (s : State) (c : CoreId) (r : ArrayReads) : State :=
  let data := arrayCount (s.core c) r fun o => match o with | .corrected _ => true | _ => false
  let check := arrayCount (s.core c) r (· == .checkOnly)
  (s.when (data != 0) fun t => t.bumpBy 0xC10001 data).when (check != 0) fun t => t.bumpBy 0xC10002 check

/-- An engine fails: it is fenced, and the core traps naming it (01 R13). -/
def engineFails (s : State) (c : CoreId) (i : QInst) (e : Nat) : State :=
  unitTrap (s.modCore c fun x => { x with fenced := x.fenced ||| BitVec.ofNat 4 (2 ^ e) }) c 0 i (plainTrap 0x0D e)

/-- Loading a block overwrites an engine's operand buffer. -/
def CoreState.clearBuffer (x : CoreState) (e : Nat) : CoreState :=
  { x with bufWord := kvClear x.bufWord (e * 2 ^ 24) (2 ^ 24), bufDev := kvClear x.bufDev (e * 2 ^ 24) (2 ^ 24) }

/-! ## A fold -/

/-- The output rows of one engine: each open row's running sums advanced by the block. -/
def foldEngine (x : MmRun) (f : Fold) (e : Nat) (cols : List (List (Nat × Val))) (as : List (Nat × (Nat → Val)))
    (cs : CoreState) : CoreState :=
  as.foldl (fun y a =>
    if !x.isOpen a.1 (4 * f.g + e) then y
    else cols.zipIdx.foldl (fun z col =>
      let old := if f.kb = 0 then 0#32 else z.running x.m.dk x.m.acc e a.1 col.2
      z.setRunning x.m.dk x.m.acc e a.1 col.2 (addFlush old (blockDot x.r x.mK a.2 col.1))) y) cs

/-- The activation rows of a fold: for each row, its elements by logical k. -/
def foldActs (s : State) (core : CoreId) (x : MmRun) (f : Fold) : List (Nat × (Nat → Val)) × State :=
  let fm := dFmt x.m.a
  let k0 := f.kb * x.kb
  let k1 := min x.mK ((f.kb + 1) * x.kb)
  loadEach f.rows (fun t m =>
    let l := loadCols t core fm x.mK (rowAt t x.m.a 0 m) k0 k1
    ((m, fun k => rowVal fm (k1 - k0) l.1 (k - k0)), l.2)) s

/-- One engine of a fold: load, stream. ENGINE_LOADS_SKIPPED also counts a masked-out engine under WSTAT = 1, where no engine is
loaded in any case (the model's choice, notes/assumptions/144.md). -/
def runEngine (core : CoreId) (x : MmRun) (f : Fold) (held : Option WTile) (as : List (Nat × (Nat → Val))) (s : State)
    (e : Nat) : State :=
  if !x.loaded f e then s.bump 0x620303
  else
    let cc := x.cols f.g e
    let b : List (List (Nat × Val)) × State :=
      if x.m.wstat then (((held.map (·.cols)).getD []).drop cc.1 |>.take (cc.2 - cc.1), s)
      else
        let l := loadBlock s core x.m.w x.m.spar f.kb x.kb cc.1 cc.2
        (l.1, l.2.modCore core (·.clearBuffer e))
    b.2.modCore core (foldEngine x f e b.1 as)

/-- The words a fold reads before it writes them. -/
def foldReads (x : MmRun) (f : Fold) : ArrayReads :=
  let cols (e col : Nat) : Bool := f.engines.contains e && (x.cols f.g e).1 + col < x.sh.n
  let run (e row col : Nat) : Bool := 0 < f.kb && f.rows.contains row && x.isOpen row (4 * f.g + e) && cols e col
  let out (e row col : Nat) : Bool := !x.m.dk && x.m.accum && f.kb + 1 == x.nk && row < x.mM && cols e col
  { acc := fun set e row col => set == x.m.acc && ((x.m.dk && row < 128 && run e row col) || out e row col)
    sum := fun e row col => (!x.m.dk || 128 ≤ row) && run e row col
    bufs := if x.m.wstat then f.engines else [] }

/-- The engine of the first error that a fold meets. -/
def foldError (cs : CoreState) (x : MmRun) (f : Fold) : Option Nat := arrayError cs (foldReads x f)

/-! ## The end of a column group (04 R92) -/

/-- The value p of an element (04 R92). -/
def mmP (x : MmRun) (cs : CoreState) (sc : F32) (g m n : Nat) : F32 :=
  let e := n / 128 - 4 * g
  if x.present m && x.isOpen m (n / 128) then fmul sc (cs.running x.m.dk x.m.acc e m (n % 128)) else 0#32

/-- Is the element written as NaN because a mask was poisoned (07 R146, R150). -/
def MmRun.nanRow (x : MmRun) (m : Nat) : Bool := x.allNan || x.rowPoisoned m

/-- The earlier of two non-finite elements in row-major order. -/
def nfFirst (a b : Option NfElem) : Option NfElem :=
  match a, b with
  | none, y => y
  | x, none => x
  | some p, some q =>
    some (if q.i2 < p.i2 || (q.i2 == p.i2 && (q.i1 < p.i1 || (q.i1 == p.i1 && q.i0 < p.i0))) then q else p)

/-- A part of a row of D, from element `c0`, written in place. -/
def storeCols (s : State) (c : CoreId) (d : Desc) (rnd step r c0 : Nat) (vs : List F32) : State × Option NfElem :=
  let f := dFmt d
  let out := writeRow f (vs.zipIdx.map fun v => (v.1, rmodeOf s rnd step d 0 r (c0 + v.2)))
  let off := rowAt s d 0 r
  let dl := cdiv vs.length 32 * 4 * f.elem.width
  let lo := c0 * f.elem.width / 8
  let nf := firstNf (some d) 0 r c0 (vs.zip out.overflow)
  if f.mx then
    (scratchStore (scratchStore s c (off + lo) (out.bytes.take dl)) c (off + scaleOff f (dExt0 d + 1) + c0 / 32)
      (out.bytes.drop dl), nf)
  else (scratchStore s c (off + lo) out.bytes, nf)

/-- The accumulator words of a row written (DK = 0). -/
def storeAccRow (x : MmRun) (g m : Nat) (vs : List F32) (cs : CoreState) : CoreState :=
  vs.zipIdx.foldl (fun y v => y.setAcc x.m.acc ((512 * g + v.2) / 128 - 4 * g) m (v.2 % 128) v.1) cs

/-- The columns of a group. -/
def MmRun.groupCols (x : MmRun) (g : Nat) : List Nat :=
  (List.range (min x.sh.n (512 * g + 512) - 512 * g)).map (512 * g + ·)

/-- One output row of a group written. -/
def groupRow (c : CoreId) (x : MmRun) (step g : Nat) (acc : State × Option NfElem) (m : Nat) : State × Option NfElem :=
  let s := acc.1
  let cs := s.core c
  let sc := fmul x.m.ssa x.m.ssw
  let cols := x.groupCols g
  let ps := cols.map (mmP x cs sc g m)
  let nan (v : F32) : F32 := if x.nanRow m then f32Nan else v
  if !x.m.dk then
    let vs := (cols.zip ps).map fun p =>
      nan (if x.m.accum then addFlush (cs.accVal x.m.acc (p.1 / 128 - 4 * g) m (p.1 % 128)) p.2 else flushF32 p.2)
    (s.modCore c (storeAccRow x g m vs),
      nfFirst acc.2 (firstNf none 0 m (512 * g) (vs.map fun v => (v, false))))
  else if x.m.accum then
    let l := loadRow s c x.m.d 0 m
    let old := (rowF32s x.m.d l.1).drop (512 * g)
    let w := storeCols l.2 c x.m.d 0 step m (512 * g) ((old.zip ps).map fun p => nan (fadd p.1 p.2))
    (w.1, nfFirst acc.2 w.2)
  else
    let w := storeCols s c x.m.d x.m.rnd step m (512 * g) (ps.map fun p => nan (fmul p x.m.ssd))
    (w.1, nfFirst acc.2 w.2)

/-- A column group written: every row of its columns. -/
def endGroup (s : State) (c : CoreId) (x : MmRun) (step g : Nat) (nf : Option NfElem) : State × Option NfElem :=
  (List.range x.mM).foldl (groupRow c x step g) (s.bumpBy 0x620304 (x.mM - (x.rows g).length), nf)

/-! ## The head of the MATRIX queue -/

/-- The operands of a queued MMUL. -/
def mmOf : QOp → Option Mm
  | .mmul a w d abm arm dk acc accum wstat spar bmen rmen rnd flags ssa ssw ssd =>
    some ⟨a, w, d, abm, arm, dk, acc, accum, wstat, spar, bmen, rmen, rnd, flags, ssa, ssw, ssd⟩
  | _ => none

/-- The banks that rows `0 .. n − 1` of a descriptor touch, each of `bytes`. -/
def tileBanks (s : State) (d : Desc) (n bytes : Nat) : List Nat :=
  ((List.range n).map fun r => banksOf (rowAt s d 0 r) bytes).flatten

/-- The banks of an MMUL, in the order A, W, D, masks. -/
def mmBanks (s : State) (m : Mm) : List Nat :=
  tileBanks s m.a (dExt1 m.a + 1) (dRowBytes m.a)
    ++ (if m.wstat then [] else tileBanks s m.w ((wExt m.w m.spar).ext1 + 1) (wExt m.w m.spar).row)
    ++ (if m.dk then tileBanks s m.d (dExt1 m.d + 1) (dRowBytes m.d) else [])
    ++ (if m.bmen then tileBanks s m.abm 1 32 else []) ++ (if m.rmen then tileBanks s m.arm 1 136 else [])

/-- The masks read once, before the first fold; an MMUL with WSTAT = 0 drops the held blocks (04 R93). A block-mask record that
holds both an invalid KIND and a poisoned word follows R146: the output is NaN, and 0x6203:02 is not counted (the model's
choice, notes/assumptions/143.md). -/
def beginMmul (s : State) (c : CoreId) (i : QInst) (m : Mm) : QInst × State :=
  let b := if m.bmen then let l := scratchLoad s c (rowAt s m.abm 0 0) 32 .good; (l.row, l.s) else (⟨0, 0⟩, s)
  let r := if m.rmen then let l := scratchLoad b.2 c (rowAt s m.arm 0 0) 136 .good; (l.row, l.s) else (⟨0, 0⟩, b.2)
  let bad := m.bmen && !maskPoisoned b.1 && 3 ≤ fld b.1.bits 0 8
  let s1 := r.2.when bad fun t => t.bump 0x620302
  ({ i with bmask := b.1, rmask := r.1, masksRead := true },
    s1.when (!m.wstat) fun t => t.modCore c fun y => { y with held := none })

/-- The gate of the MMUL at the head of the queue, passed once. -/
def mmGate (s : State) (x : CoreState) (i : QInst) (m : Mm) : Gate :=
  if i.masksRead then .pass else bankGate x 1 i.seq (mmBanks s m)

/-- One fold run: the error that a read meets, or the fold and, at the group's last fold, the group's results. -/
def runFold (s : State) (c : CoreId) (i : QInst) (x : MmRun) (f : Fold) (nextF : Option Fold) : State :=
  match foldError (s.core c) x f with
  | some e => engineFails (setHead s c 0 i) c i e
  | none =>
    let bank := foldBank s x f (i.done == 0) i.resumed nextF
    let n := (if x.m.wstat then 0 else 128) + max f.rows.length bank
    let s1 := chargeEngine (((noteArrays s c (foldReads x f)).bump 0x620201).bumpBy 0x620203 (bank - f.rows.length)) c n
    let as := foldActs s1 c x f
    let s2 := f.engines.foldl (runEngine c x f (s.core c).held as.1) as.2
    let r := if f.kb + 1 = x.nk then endGroup s2 c x i.step f.g i.nf else (s2, i.nf)
    let s3 := setHead r.1 c 0 { i with done := i.done + 1, nf := r.2, resumed := false }
    if nextF.isSome then s3.modCore c fun y => drained y 0 else s3

/-- The MMUL at the head of the MATRIX queue runs its next fold (06 R127). -/
def mmulFold (s : State) (c : CoreId) (i : QInst) (m : Mm) : State :=
  match mmGate s (s.core c) i m with
  | .wait => s
  | .trap t => unitTrap s c 0 i t
  | .pass =>
    let b := if i.masksRead then (i, s) else beginMmul s c i m
    let x := mmRun m ((s.core c).held.map (·.shape)) b.1
    match x.folds.drop i.done with
    | [] => setHead b.2 c 0 b.1
    | f :: rest => runFold b.2 c b.1 x f rest.head?

/-- The engines take a Cirrus product: its operands overwrite the operand buffers, and acc3 is its working storage
(03 R66, 14 R320). -/
def CoreState.loadProduct (x : CoreState) : CoreState :=
  { x with bufWord := [], bufDev := [], accDev := kvClear x.accDev (3 * 65536) 65536 }

/-- The matrix unit takes a waiting Cirrus product at a fold boundary, in a frame that carries UPDATE (03 R66). -/
def takeProduct (s : State) (c : CoreId) : State :=
  if s.isUpdateFrame && !s.cirrusOn.contains c.val
      && (s.units[dieOf c]).cirrus.upds.any (fun u => u.prods.any fun p => p.2.1 == c.val) then
    { s with cirrusOn := c.val :: s.cirrusOn }.modCore c (·.loadProduct)
  else s

/-- MATRIX_FOLD_BOUNDARY: a fold ends on all engines of a core (06 R127). Without an MMUL with a fold to run at the head
of the queue nothing happens, nor while a Cirrus product runs on the engines. -/
def execMatrixFoldBoundary (core : CoreId) (s : State) : Result :=
  let x := s.core core
  if s.cirrusOn.contains core.val then .next s
  else match x.queue 0 with
  | [] => .next s
  | i :: _ =>
    match mmOf i.op with
    | none => .next s
    | some m => .next (if mayWork x 0 then takeProduct (mmulFold s core i m) core else s)

/-- The groups without folds written, and set ACC cleared after DK = 1 (04 R92). -/
def closeMmul (s : State) (c : CoreId) (i : QInst) (x : MmRun) : State :=
  let skipped := x.groups.filter fun g => (x.rows g).isEmpty
  let r := skipped.foldl (fun acc g =>
    let t := chargeEngine (acc.1.bump 0x620202) c (cdiv (busiestBank (groupDest acc.1 x g)) 512)
    endGroup t c x i.step g acc.2) (s, i.nf)
  let s1 := r.1.when x.m.dk fun t => t.modCore c fun y =>
    { y with acc := kvClear y.acc (x.m.acc * 65536) 65536, accDev := kvClear y.accDev (x.m.acc * 65536) 65536 }
  match r.2 with
  | some e => noteNonfinite s1 c i.frame 0 i.pc i.seq x.m.flags e
  | none => s1

/-- The words that writing the groups without folds reads: accumulators, for ACCUM = 1. -/
def closeReads (x : MmRun) : ArrayReads :=
  let skipped := x.groups.filter fun g => (x.rows g).isEmpty
  { acc := fun set e row col => set == x.m.acc && !x.m.dk && x.m.accum && row < x.mM
      && skipped.any fun g => (x.engines g).contains e && (x.cols g e).1 + col < x.sh.n
    sum := fun _ _ _ => false
    bufs := [] }

/-- The engine of the first error that writing the groups without folds meets. -/
def closeError (cs : CoreState) (x : MmRun) : Option Nat := arrayError cs (closeReads x)

/-- The MMUL at the head of the queue finishes once its folds have run. -/
def finishMmul (s : State) (c : CoreId) (i : QInst) (m : Mm) : State :=
  match mmGate s (s.core c) i m with
  | .wait => s
  | .trap t => unitTrap s c 0 i t
  | .pass =>
    let b := if i.masksRead then (i, s) else beginMmul s c i m
    let x := mmRun m ((s.core c).held.map (·.shape)) b.1
    if i.done < x.folds.length then s
    else match closeError (s.core c) x with
      | some e => engineFails (setHead b.2 c 0 b.1) c i e
      | none => finishHead (closeMmul (noteArrays b.2 c (closeReads x)) c b.1 x) c 0

/-- The block of each engine loaded and held (04 R93, 06 R129). The load writes every word of the operand buffers that it then
reads, so no error is left in them for it to meet (01 R13, notes/assumptions/142.md). -/
def runMwld (s : State) (c : CoreId) (d : Desc) (spar : Nat) : State :=
  let n := dExt0 d + 1
  let kRows := kBlk (rateOf (dFmt d)) spar
  let ranges := (List.range ((wExt d spar).ext1 + 1)).map fun r => (rowAt s d 0 r, (wExt d spar).row)
  let s1 := chargeEngine s c (128 + cdiv (busiestBank ranges - 65536) 512)
  let es := (List.range 4).filter fun e => 128 * e < n
  let r := loadEach es (fun t e => loadBlock t c d spar 0 kRows (128 * e) (min n (128 * e + 128))) s1
  r.2.modCore c fun y =>
    { es.foldl CoreState.clearBuffer y with held := some ⟨⟨dFormat d, dExt1 d + 1, n, spar⟩, r.1.flatten⟩ }

/-- One row of MRD. -/
def mrdRow (c : CoreId) (d : Desc) (set rnd step : Nat) (clear : Bool) (q : F32) (acc : State × Option NfElem) (m : Nat) :
    State × Option NfElem :=
  let cols := List.range (dExt0 d + 1)
  let cs := acc.1.core c
  let w := storeCols acc.1 c d rnd step m 0 (cols.map fun n => fmul (cs.accVal set (n / 128) m (n % 128)) q)
  (w.1.when clear fun t => t.modCore c fun y => cols.foldl (fun z n => z.setAcc set (n / 128) m (n % 128) 0) y,
    nfFirst acc.2 w.2)

/-- MRD run whole. -/
def runMrd (s : State) (c : CoreId) (i : QInst) (d : Desc) (set : Nat) (clear : Bool) (rnd : Nat) (flags : Bool)
    (q : F32) : State :=
  let bytes := (dExt1 d + 1) * dRowBytes d
  let r := (List.range (dExt1 d + 1)).foldl (mrdRow c d set rnd i.step clear q)
    (chargeEngine s c (16 + cdiv bytes 512), none)
  match r.2 with
  | some e => noteNonfinite r.1 c i.frame 0 i.pc i.seq flags e
  | none => r.1

/-- The words MRD reads. -/
def mrdReads (d : Desc) (set : Nat) : ArrayReads :=
  { acc := fun st e row col => st == set && row ≤ dExt1 d && 128 * e + col ≤ dExt0 d
    sum := fun _ _ _ => false
    bufs := [] }

/-- The engine of the first error that MRD meets. -/
def mrdError (cs : CoreState) (d : Desc) (set : Nat) : Option Nat := arrayError cs (mrdReads d set)

/-- The head of the MATRIX queue finishes, waits for a handover or for its folds, or traps. -/
def matrixHead (s : State) (c : CoreId) : State :=
  let x := s.core c
  match x.queue 0 with
  | [] => s
  | i :: _ =>
    match i.op with
    | .mwld d spar =>
      match bankGate x 1 i.seq (tileBanks s d ((wExt d spar).ext1 + 1) (wExt d spar).row) with
      | .wait => s
      | .trap t => unitTrap s c 0 i t
      | .pass => finishHead (runMwld s c d spar) c 0
    | .mrd d set clear rnd flags q =>
      match bankGate x 1 i.seq (tileBanks s d (dExt1 d + 1) (dRowBytes d)) with
      | .wait => s
      | .trap t => unitTrap s c 0 i t
      | .pass =>
        match mrdError x d set with
        | some e => engineFails s c i e
        | none => finishHead (runMrd (noteArrays s c (mrdReads d set)) c i d set clear rnd flags q) c 0
    | op =>
      match mmOf op with
      | some m => finishMmul s c i m
      | none => s

/-- The end of the instruction at the head of the MATRIX queue, unless a Cirrus product runs on the engines. -/
def finishMatrix (s : State) (c : CoreId) : State :=
  if s.cirrusOn.contains c.val then s else takeProduct (matrixHead s c) c

end Sys2Proof.Machine
end

