-- ==== Sys2Proof/Machine/Purl.lean ====
section
/-!
DEFINITION. Machine/Purl.lean: the Purl path's PMV, opcode 0x33 (04 R96, 06 R132, R133).
-/
namespace Sys2Proof.Machine

/-- The operands of a PMV. -/
structure PurlOp where
  y : Desc
  x : Desc
  w : Desc
  rnd : Nat
  flags : Bool
  ssx : F32
  ssw : F32
  ssy : F32

/-- The operand rules of R96. -/
def pmvRules (y x w : Desc) : Bool :=
  dExt1 x + 1 ≤ 8 && dExt0 w == dExt0 x && dExt1 y == dExt1 x && dExt0 y == dExt1 w
    && dExt2 x == 0 && dExt2 y == 0 && dExt2 w == 0 && sameClass (dFmt x) (dFmt w) && notInt32 y

/-- The checks of a PMV at issue (04 R96, 03 R53). -/
def pmvChecks (s : State) (core : CoreId) (f : BitVec 51) : List TrapInfo :=
  let c := s.core core
  let y := c.adesc (ff f 47 4)
  let x := c.adesc (ff f 43 4)
  let w := c.adesc (ff f 39 4)
  require (pmvRules y x w) ++ checkDesc s core y (ff f 47 4) true [1]
    ++ checkDesc s core x (ff f 43 4) false [1] ++ checkDesc s core w (ff f 39 4) false [1, 2]

/-- PMV: a matrix-vector product of up to 8 vectors, placed in the PURL queue (04 R96). -/
def execPmv (core : CoreId) (h : Hdr) (f : BitVec 51) (s : State) : Result :=
  let c := s.core core
  let legal := ff f 36 3 == 0 && ff f 34 2 != 3 && ff f 0 18 == 0
  let reads := aKeys [ff f 47 4, ff f 43 4, ff f 39 4] ++ sKeys [ff f 28 5, ff f 23 5, ff f 18 5]
  .next (issue s core 0x33 1 h f legal reads (pmvChecks s core f) fun t =>
    enqueue t core 2 1 (.pmv (c.adesc (ff f 47 4)) (c.adesc (ff f 43 4)) (c.adesc (ff f 39 4)) (ff f 34 2) (ff f 33 1 == 1)
      (c.scale (ff f 28 5)) (c.scale (ff f 23 5)) (c.scale (ff f 18 5))) true id)

/-- Does a descriptor lie in scratchpad. -/
def inScratch (s : State) (d : Desc) : Bool :=
  match s.seg (dSeg d) with
  | some g => g.kind == 1
  | none => false

/-- The banks of a PMV: X, W when it lies in scratchpad, Y. -/
def pmvBanks (s : State) (p : PurlOp) : List Nat :=
  tileBanks s p.x (dExt1 p.x + 1) (dRowBytes p.x)
    ++ (if inScratch s p.w then tileBanks s p.w (dExt1 p.w + 1) (dRowBytes p.w) else [])
    ++ tileBanks s p.y (dExt1 p.y + 1) (dRowBytes p.y)

/-- The cycles of a PMV (04 Table 4.14). -/
def pmvCycles (p : PurlOp) : Nat :=
  let n := dExt1 p.w + 1
  10 + max (cdiv n 256 * cdiv (dExt0 p.w + 1) (64 / (dExt1 p.x + 1))) (cdiv (n * dRowBytes p.w) 8192)

/-- The cycles that a PMV waits for W beyond those of Table 4.14: in scratchpad each bank delivers 512 bytes a cycle; what
Stratus delivers is `given` (06 R133). -/
def pmvWait (s : State) (p : PurlOp) (given : Nat) : Nat :=
  if inScratch s p.w then
    10 + cdiv (busiestBank ((List.range (dExt1 p.w + 1)).map fun r => (rowAt s p.w 0 r, dRowBytes p.w))) 512 - pmvCycles p
  else given

/-- A row of W, from scratchpad or from Stratus. -/
def loadWRow (c : CoreId) (w : Desc) (s : State) (r : Nat) : Row × State :=
  if inScratch s w then loadRow s c w 0 r
  else
    let a := rowAt s w 0 r
    let l := memLoad (countMove s (dieOf c) a (dRowBytes w) false) a (dRowBytes w) none .good
    (l.row, l.s)

/-- A lane's sum over k in ascending order (06 R132). -/
def laneSum (x w : List Val) : F32 :=
  (x.zip w).foldl (fun acc p => toF32 ((valOf acc).add (p.1.mul p.2))) 0#32

/-- The values of a row. -/
def rowVals (d : Desc) (r : Row) : List Val := (List.range (dExt0 d + 1)).map (rowVal (dFmt d) (dExt0 d + 1) r)

/-- A PMV run whole. -/
def runPmv (s : State) (c : CoreId) (i : QInst) (p : PurlOp) (wait : Nat) : State :=
  let s0 := (chargePurl s c (pmvCycles p)).bumpBy 0x620204 (pmvWait s p wait)
  let xs := loadEach (List.range (dExt1 p.x + 1)) (fun t b => loadRow t c p.x 0 b) s0
  let ws := loadEach (List.range (dExt1 p.w + 1)) (loadWRow c p.w) xs.2
  let sc := fmul p.ssx p.ssw
  let wv := ws.1.map (rowVals p.w)
  let r := (xs.1.zipIdx).foldl (fun acc b =>
    let xv := rowVals p.x b.1
    let w := storeRow acc.1 c p.y p.rnd i.step 0 b.2 (wv.map fun n => fmul (fmul sc (laneSum xv n)) p.ssy)
    (w.1, acc.2 <|> w.2)) (ws.2, none)
  match r.2 with
  | some e => noteNonfinite r.1 c i.frame 2 i.pc i.seq p.flags e
  | none => r.1

/-- The head of the PURL queue executes and finishes, waits for a handover, or traps. -/
def finishPurl (s : State) (c : CoreId) (wait : Nat) : State :=
  let x := s.core c
  match x.queue 2 with
  | [] => s
  | i :: _ =>
    match i.op with
    | .pmv y xd w rnd flags ssx ssw ssy =>
      let p : PurlOp := ⟨y, xd, w, rnd, flags, ssx, ssw, ssy⟩
      match bankGate x 3 i.seq (pmvBanks s p) with
      | .wait => s
      | .trap t => unitTrap s c 2 i t
      | .pass => finishHead (runPmv s c i p wait) c 2
    | _ => s

end Sys2Proof.Machine
end

