-- ==== Sys2Proof/Machine/Dma.lean ====
section
/-!
DEFINITION. Machine/Dma.lean: DMA and TLD, opcodes 0x40 and 0x41, their segments, completion records and streams
(04 R97, R98, 08 R175 to R187, 07 R152 to R155, 12 R269).
-/
namespace Sys2Proof.Machine

/-! ## The descriptor (08 Table 8.5) -/

/-- A DMA descriptor, or a TLD seen as one. `segLog2` 0 stands for one row a segment. -/
structure Xfer where
  srcSeg : Nat
  srcOff : Nat
  dstSeg : Nat
  dstOff : Nat
  rowBytes : Nat
  rows : Nat
  planes : Nat
  s1 : Int
  s2 : Int
  d1 : Int
  d2 : Int
  mode : Nat
  zrOut : Bool
  zrIn : Bool
  hint : Nat
  pad : Bool
  mask : Bool
  map : Bool
  segLog2 : Nat
  recEn : Bool
  recSeg : Nat
  recOff : Nat
  auxSeg : Nat
  auxOff : Nat
  deriving DecidableEq, Repr

/-- A segment and offset field: [47:0] offset, [55:48] segment. -/
def locOf (v : Nat) : Nat × Nat := (fld v 48 8, fld v 0 48)

/-- The descriptor that 64 bytes hold. -/
def dmaOf (b : List Byte) : Xfer :=
  let fl := leAt b 0x29 1
  let src := leAt b 0 8
  let dst := leAt b 8 8
  let st := leAt b 0x30 8
  let aux := leAt b 0x38 8
  ⟨(locOf src).1, (locOf src).2, (locOf dst).1, (locOf dst).2, leAt b 0x10 4, leAt b 0x14 2 + 1, leAt b 0x16 2 + 1,
    sgn 32 (leAt b 0x18 4), sgn 32 (leAt b 0x1C 4), sgn 32 (leAt b 0x20 4), sgn 32 (leAt b 0x24 4), leAt b 0x28 1,
    bitAt fl 0, bitAt fl 1, fld fl 2 2, bitAt fl 4, bitAt fl 5, bitAt fl 6, leAt b 0x2A 1, bitAt st 63,
    (locOf st).1, (locOf st).2, (locOf aux).1, (locOf aux).2⟩

/-- The reserved fields of a DMA descriptor are zero; the high byte of SRC is ignored in MODE ZERO. -/
def dmaReservedOk (b : List Byte) (x : Xfer) : Bool :=
  (x.mode == 3 || leAt b 7 1 == 0) && leAt b 15 1 == 0 && !bitAt (leAt b 0x29 1) 7 && leAt b 0x2B 5 == 0
    && fld (leAt b 0x30 8) 56 7 == 0 && leAt b 0x3F 1 == 0

/-- All rows. -/
def Xfer.rowCount (x : Xfer) : Nat := x.rows * x.planes

/-- Raw bytes of the transfer. -/
def Xfer.total (x : Xfer) : Nat := x.rowBytes * x.rowCount

/-- Raw bytes per segment. -/
def Xfer.segBytes (x : Xfer) : Nat := if x.segLog2 = 0 then x.rowBytes else 2 ^ x.segLog2

/-- The number of segments. -/
def Xfer.segments (x : Xfer) : Nat := cdiv x.total x.segBytes

/-- The row space at the source or the destination (08 R177). -/
def rowSpace (zr : Bool) (n : Nat) : Nat := if zr then zrSpace n else n

/-- Is the transfer a stream. -/
def Xfer.stream (x : Xfer) : Bool := x.mode == 1 || x.mode == 2

/-- The source's range. -/
def Xfer.srcExt (x : Xfer) : Ext :=
  if x.mode = 1 then ⟨x.srcSeg, x.srcOff, 64, 0, 0, 0, 0⟩
  else ⟨x.srcSeg, x.srcOff, rowSpace x.zrIn x.rowBytes, x.rows - 1, x.s1, x.planes - 1, x.s2⟩

/-- The destination's range. -/
def Xfer.dstExt (x : Xfer) : Ext :=
  if x.mode = 2 then ⟨x.dstSeg, x.dstOff, 64, 0, 0, 0, 0⟩
  else ⟨x.dstSeg, x.dstOff, rowSpace x.zrOut x.rowBytes, x.rows - 1, x.d1, x.planes - 1, x.d2⟩

/-- Bytes of the completion record with its padded map. -/
def recordSpace (map : Bool) (segments : Nat) : Nat := 32 + if map then roundUp segments 4 else 0

/-- The kind of a segment; 9 for none. -/
def segKind (s : State) (k : Nat) : Nat := ((s.seg k).map (·.kind)).getD 9

/-- Do rows of a tile overlap one another or step by less than their space. -/
def rowsCollide (space rows planes : Nat) (a b : Int) : Bool :=
  (1 < planes && b.natAbs < (rows - 1) * a.natAbs + space) || (1 < rows && a.natAbs < space)

/-- Byte ranges of two extents in one memory meet. -/
def extsMeet (s : State) (a b : Ext) : Bool :=
  match s.seg a.seg, s.seg b.seg with
  | some g, some h => (g.kind == 1) == (h.kind == 1) && (g.kind != 1 || g.core == h.core)
      && rangesMeet (absRange s a) (absRange s b)
  | _, _ => false

/-- The operand rules of R177. -/
def dmaLegal (s : State) (b : List Byte) (x : Xfer) : Bool :=
  let zero := x.mode == 3
  dmaReservedOk b x && x.mode ≤ 3 && x.hint != 3 && 9 ≤ x.segLog2 && x.segLog2 ≤ 24
    && 1 ≤ x.rowBytes && x.total ≤ 2 ^ 32
    && !(x.zrOut && x.zrIn) && !(x.zrOut && segKind s x.dstSeg == 1)
    && !(x.zrIn && !zero && segKind s x.srcSeg == 1)
    && !(segKind s x.dstSeg == 0) && (zero || segKind s x.srcSeg != 0)
    && (x.mode == 1 || (!x.pad && !x.mask)) && (!x.mask || x.rowCount ≤ 1024)
    && !rowsCollide (rowSpace x.zrOut x.rowBytes) x.rows x.planes x.d1 x.d2
    && (!x.zrIn || x.mode == 1 || !((1 < x.rows && x.s1.natAbs < zrSpace x.rowBytes)
      || (1 < x.planes && x.s2.natAbs < zrSpace x.rowBytes)))
    && (zero || !extsMeet s x.srcExt x.dstExt)

/-- The number of the TRAP_DETAIL replaced in the checks of a descriptor's operand. -/
def firstTrap (ls : List (List TrapInfo)) : Option TrapInfo := (ls.filterMap lowestTrap).head?

/-- Is the address in a byte region. -/
def inByteRegion (s : State) (a : Nat) : Bool :=
  match regionOf s a with
  | some h => h.isByte
  | none => false

/-- The checks of a completion record (08 R177): scratchpad of the core or a byte region, 8-byte aligned. -/
def checkRecord (s : State) (c : CoreId) (seg off bytes num : Nat) : List TrapInfo :=
  let e : Ext := ⟨seg, off, bytes, 0, 0, 0, 0⟩
  match boundsTrap s e num with
  | some t => [t]
  | none =>
    let ok := match s.seg seg with
      | none => false
      | some g => if g.kind = 1 then true else g.kind != 0 && inByteRegion s (g.base + off)
    match accessTrap s c e num true anyKind with
    | some t => [t]
    | none =>
      if !ok then [⟨6, num + 256, seg, off⟩]
      else if off % 8 != 0 then [⟨7, num, seg, off⟩]
      else []

/-- The checks of a stream's ring header: 64 aligned bytes of Stratus or HBM (08 R183). -/
def checkHeader (s : State) (c : CoreId) (e : Ext) (num : Nat) (write : Bool) : List TrapInfo :=
  match checkExt s c e num write [2, 3] with
  | [] => if e.base % 64 != 0 then [⟨7, num, e.seg, e.base⟩] else []
  | l => l

/-- The checks of a DMA descriptor at issue, in the order of R177. -/
def dmaTrap (s : State) (c : CoreId) (b : List Byte) : Option TrapInfo :=
  let x := dmaOf b
  if !dmaLegal s b x then some illegal
  else firstTrap [
    if x.mode = 3 then [] else if x.mode = 1 then checkHeader s c x.srcExt 0xF0 false
      else checkExt s c x.srcExt 0xF0 false [1, 2, 3],
    if x.mode = 2 then checkHeader s c x.dstExt 0xF1 true else checkExt s c x.dstExt 0xF1 true [1, 2, 3],
    if x.recEn then checkRecord s c x.recSeg x.recOff (recordSpace x.map x.segments) 0xF2 else [],
    if x.mask then checkExt s c ⟨x.auxSeg, x.auxOff, 136, 0, 0, 0, 0⟩ 0xF3 true anyKind else []]

/-! ## Issue of an instruction that names a descriptor in memory (04 R97) -/

/-- The byte address of a descriptor: SA + sext(OFF), OFF of 36 bits. -/
def descOff (x : CoreState) (sa off : Nat) : Nat := (x.sreg sa + BitVec.ofInt 64 (sgn 36 off)).toNat

/-- The controller reads a descriptor of so many bytes, 64-byte aligned, for queue `q`; it stalls until the read has
arrived, and before it while the queue is full. -/
def issueDesc (s : State) (c : CoreId) (op words : Nat) (h : Hdr) (f : BitVec 51) (legal : Bool)
    (q size w1 w2 w3 : Nat) : State :=
  let x := s.core c
  let off := descOff x (ff f 44 5) (ff f 0 36)
  let seg := ff f 36 8
  issue s c op words h f legal (sKeys [ff f 44 5]) (checkScalar s c seg off size 64 false) fun t =>
    if 16 ≤ ((t.core c).queue q).length then stallOn t c (.queue q) else stallOn t c (.fetchDesc q seg off (instrWord op h f) w1 w2 w3)

/-- DMA: a DMA descriptor read at issue and placed in channel CH's queue (04 R97). -/
def execDma (core : CoreId) (h : Hdr) (f : BitVec 51) (s : State) : Result :=
  .next (issueDesc s core 0x40 1 h f true (3 + ff f 49 2) 64 0 0 0)

/-! ## TLD (04 R98) -/

/-- A TLD as a transfer: one row a segment, with a row-mask record. -/
def tldOf (a d m : Desc) (men zr : Bool) : Xfer :=
  ⟨dSeg a, dBase a, dSeg d, dBase d, dRowBytes a, dExt1 a + 1, dExt2 a + 1, dStride1 a, dStride2 a, dStride1 d,
    dStride2 d, 0, false, zr, 0, false, men, false, 0, false, 0, 0, dSeg m, dBase m⟩

/-- The 64 bytes of the input buffer header of an expert buffer (12 R269). -/
def exbHeader (a : Desc) : Ext :=
  ⟨dSeg a, ((dBase a : Int) - dOrigin1 a * dStride1 a - 64).toNat, 64, 0, 0, 0, 0⟩

/-- The bounds check of the input buffer header. -/
def exbCheck (s : State) (a : Desc) (num : Nat) : List TrapInfo :=
  let lo : Int := (dBase a : Int) - dOrigin1 a * dStride1 a - 64
  if lo < 0 then [⟨5, num, dSeg a, unsgn 48 lo⟩] else (boundsTrap s (exbHeader a) num).toList

/-- TLD's source check: the row space of zero-run rows and their strides (07 R154). -/
def tldSource (s : State) (c : CoreId) (a : Desc) (num : Nat) (zr : Bool) : List TrapInfo :=
  if !descOk a then [illegal]
  else
    let e : Ext := { dExt a with row := rowSpace zr (dRowBytes a) }
    checkExt s c e num false [2, 3]
      ++ require (!zr || !((dStride1 a).natAbs < zrSpace (dRowBytes a)
        || (0 < dExt2 a && (dStride2 a).natAbs < dExt1 a * (dStride1 a).natAbs + zrSpace (dRowBytes a))))

/-- The checks of a TLD at issue (04 R98, 12 R269). -/
def tldChecks (s : State) (core : CoreId) (f : BitVec 51) : List TrapInfo :=
  let x := s.core core
  let a := x.adesc (ff f 45 4)
  let d := x.adesc (ff f 41 4)
  let m := x.adesc (ff f 37 4)
  let men := ff f 36 1 == 1
  let same := dFormat a == dFormat d && dExt0 a == dExt0 d && dExt1 a == dExt1 d && dExt2 a == dExt2 d
  require (same && (!men || (dExt1 a + 1) * (dExt2 a + 1) ≤ 1024))
    ++ tldSource s core a (ff f 45 4) (ff f 34 1 == 1) ++ checkDesc s core d (ff f 41 4) true [1]
    ++ (if ff f 35 1 == 1 then exbCheck s a (ff f 45 4) else [])
    ++ (if men then (if dReserved m = 0 then
          checkExt s core ⟨dSeg m, dBase m, 136, 0, 0, 0, 0⟩ (ff f 37 4) true anyKind else [illegal]) else [])

/-- TLD: a tile from Stratus or HBM into scratchpad (04 R98). -/
def execTld (core : CoreId) (h : Hdr) (f : BitVec 51) (s : State) : Result :=
  let x := s.core core
  let a := x.adesc (ff f 45 4)
  let d := x.adesc (ff f 41 4)
  let m := x.adesc (ff f 37 4)
  let men := ff f 36 1 == 1
  let exb := ff f 35 1 == 1
  let zr := ff f 34 1 == 1
  .next (issue s core 0x41 1 h f (ff f 0 34 == 0)
    (aKeys ([ff f 45 4, ff f 41 4] ++ if men then [ff f 37 4] else [])) (tldChecks s core f) fun t =>
      enqueue t core (3 + ff f 49 2) 1 (.tld a d m men exb zr) true id)

/-! ## Moving bytes -/

/-- The hint code of a descriptor (08 R169). -/
def hintOf (n : Nat) : Hint := if n = 1 then .keep else if n = 2 then .evictFirst else .normal

/-- A segment's place: its kind, its base, and the core of a scratchpad. -/
def placeOf (s : State) (k : Nat) : Seg := (s.seg k).getD ⟨0, 0, 9, 0, 0, 0, 0⟩

/-- A mover on core `c`'s die reads `n` bytes at an offset of a segment. -/
def moverLoad (s : State) (c : CoreId) (g : Seg) (off n : Nat) (hint : Nat) (how : MemOutcome) : Load :=
  if g.kind = 1 then scratchLoad s c (g.base + off) n how
  else memLoad (countMove s (dieOf c) (g.base + off) n false) (g.base + off) n (some (hintOf hint)) how

/-- A mover writes bytes. -/
def moverStore (s : State) (c : CoreId) (g : Seg) (off : Nat) (bs : List Byte) (hint : Nat) : State :=
  if g.kind = 1 then scratchStore s c (g.base + off) bs
  else memStore (countMove s (dieOf c) (g.base + off) bs.length true) (g.base + off) bs (some (hintOf hint))

/-- A record written: only its own bytes are counted (08 Table 8.11). -/
def moverPut (s : State) (c : CoreId) (g : Seg) (off : Nat) (bs : List Byte) (hint : Nat) : State :=
  if g.kind = 1 then scratchStore s c (g.base + off) bs
  else memStore (countAt s (dieOf c) (g.base + off) bs.length true) (g.base + off) bs (some (hintOf hint))

/-- A mover poisons a range; in HBM through the slice, with its hint (08 R167). -/
def moverPoison (s : State) (c : CoreId) (g : Seg) (off n hint : Nat) : State :=
  if n = 0 then s
  else if g.kind = 1 then poisonScratch s c (g.base + off) n else poisonMem s (g.base + off) n (hintOf hint)

/-- The runs of set bits among the low `n` bits of a mask, as (offset, length). -/
def badRuns (n bad : Nat) : List (Nat × Nat) :=
  ((List.range n).foldl (fun acc i =>
    if !bitAt bad i then acc
    else match acc with
      | (o, k) :: t => if o + k = i then (o, k + 1) :: t else (i, 1) :: acc
      | [] => [(i, 1)]) ([] : List (Nat × Nat))).reverse

/-- The bad bytes of a piece written as poison. -/
def poisonRuns (s : State) (c : CoreId) (g : Seg) (off n bad hint : Nat) : State :=
  s.each (badRuns n bad) fun t r => moverPoison t c g (off + r.1) r.2 hint

/-- The source offset of row ρ (in plane and row order). -/
def Xfer.srcRow (x : Xfer) (i : Nat) : Nat :=
  ((x.srcOff : Int) + (i % x.rows : Nat) * x.s1 + (i / x.rows : Nat) * x.s2).toNat

/-- The destination offset of row ρ. -/
def Xfer.dstRow (x : Xfer) (i : Nat) : Nat :=
  ((x.dstOff : Int) + (i % x.rows : Nat) * x.d1 + (i / x.rows : Nat) * x.d2).toNat

/-- The pieces of a segment: row, from byte, to byte. -/
def Xfer.pieces (x : Xfer) (k : Nat) : List (Nat × Nat × Nat) :=
  let lo := k * x.segBytes
  let hi := min x.total (lo + x.segBytes)
  if hi ≤ lo then []
  else (List.range ((hi - 1) / x.rowBytes - lo / x.rowBytes + 1)).map fun j =>
    let i := lo / x.rowBytes + j
    (i, max lo (i * x.rowBytes) - i * x.rowBytes, min hi ((i + 1) * x.rowBytes) - i * x.rowBytes)

/-- The flow of a ring: where byte n of it lies in the segment, as pieces of at most the rest of the ring (08 R183). -/
def ringPieces (dataOff dataBytes n len : Nat) : List (Nat × Nat) :=
  let p := n % dataBytes
  if p + len ≤ dataBytes then [(dataOff + p, len)] else [(dataOff + p, dataBytes - p), (dataOff, len - (dataBytes - p))]

/-- A ring as a stream descriptor sees it when it runs. -/
structure RingView where
  produced : Nat
  consumed : Nat
  snapProduced : Nat
  snapConsumed : Nat
  dataOff : Nat
  dataBytes : Nat
  dir : Nat

/-- Several loads of one segment joined: bytes, bad mask, failure. -/
def loadPieces (c : CoreId) (g : Seg) (hint : Nat) (how : MemOutcome) (s : State) (ps : List (Nat × Nat)) : Load :=
  ps.foldl (fun l p =>
    let m := moverLoad l.s c g p.1 p.2 hint how
    ⟨l.bytes ++ m.bytes, l.bad ||| (m.bad * 2 ^ l.bytes.length), l.failed <|> m.failed, m.s⟩) ⟨[], 0, none, s⟩

/-- The part of a row's bytes and poison that lies in `[b0, b1)`. -/
def rowPart (n : Nat) (r : Row) (b0 b1 : Nat) (s : State) : Load :=
  ⟨bytesAt (leBytes n r.bits) b0 (b1 - b0), r.bad / 2 ^ b0 % 2 ^ (b1 - b0), none, s⟩

/-- The encoded bytes that a row in zero-run form takes at an address, by the MASK words that a read of it finds
(07 R152, R155). -/
def encodedBytes (s : State) (a rowBytes : Nat) : Nat := zrLength (cdiv rowBytes 256) (seeBytes s a (zrSpace rowBytes)).1

/-- A whole row in zero-run form read and expanded (07 R153); a poisoned byte of it poisons the row. -/
def readZrRow (s : State) (c : CoreId) (x : Xfer) (how : MemOutcome) (i : Nat) : Load :=
  let g := placeOf s x.srcSeg
  let n := encodedBytes s (g.base + x.srcRow i) x.rowBytes
  let l := moverLoad s c g (x.srcRow i) n x.hint how
  { l with s := (l.s.bumpBy 0x620305 x.rowBytes).bumpBy 0x620306 n
           bytes := zrExpand x.rowBytes l.bytes, bad := if l.bad = 0 then 0 else 2 ^ x.rowBytes - 1 }

/-- The bytes of a row piece read at the source: raw bytes `[b0, b1)` of row `i`, and the row held for its next piece. A row in
zero-run form is read once, at its first piece. -/
def readPiece (s : State) (c : CoreId) (x : Xfer) (ring : Option RingView) (how : MemOutcome) (held : Option (Nat × Row))
    (i b0 b1 : Nat) : Load × Option (Nat × Row) :=
  if x.mode = 3 then (⟨List.replicate (b1 - b0) 0#8, 0, none, s⟩, held)
  else
    let g := placeOf s x.srcSeg
    match ring with
    | some r =>
      (loadPieces c g x.hint how s (ringPieces r.dataOff r.dataBytes (r.consumed + i * x.rowBytes + b0) (b1 - b0)), held)
    | none =>
      if !x.zrIn then (moverLoad s c g (x.srcRow i + b0) (b1 - b0) x.hint how, held)
      else match held.filter fun h => h.1 == i && b0 != 0 with
        | some h => (rowPart x.rowBytes h.2 b0 b1 s, held)
        | none =>
          let l := readZrRow s c x how i
          (if l.failed.isSome then l else rowPart x.rowBytes l.row b0 b1 l.s, some (i, l.row))

/-- A row in zero-run form written at the start of its space: the encoded bytes, and in a paged region zeros to the end
of the page that holds their end (08 R181). -/
def writeZrRow (s : State) (c : CoreId) (x : Xfer) (i : Nat) (raw : List Byte) (bad : Bool) : State × Nat :=
  let g := placeOf s x.dstSeg
  let enc := zrRow raw
  let a := g.base + x.dstRow i
  let fill := if inByteRegion s a then 0 else (512 - (a + enc.length) % 512) % 512
  let s1 := moverStore s c g (x.dstRow i) (enc ++ List.replicate fill 0#8) x.hint
  let s2 := (s1.bumpBy 0x620305 raw.length).bumpBy 0x620306 enc.length
  (s2.when bad fun t => moverPoison t c g (x.dstRow i) enc.length x.hint, enc.length)

/-- A raw piece written at the destination, with the bytes written. -/
def writePiece (s : State) (c : CoreId) (x : Xfer) (ring : Option RingView) (i b0 : Nat) (bs : List Byte) (bad : Nat) :
    State × Nat :=
  let g := placeOf s x.dstSeg
  match ring with
  | some r =>
    let ps := ringPieces r.dataOff r.dataBytes (r.produced + i * x.rowBytes + b0) bs.length
    let w := ps.foldl (fun (acc : State × Nat) p =>
      let t := moverStore acc.1 c g p.1 (bytesAt bs acc.2 p.2) x.hint
      (poisonRuns t c g p.1 p.2 (bad / 2 ^ acc.2 % 2 ^ p.2) x.hint, acc.2 + p.2)) (s, 0)
    (w.1, bs.length)
  | none =>
    let t := moverStore s c g (x.dstRow i + b0) bs x.hint
    (poisonRuns t c g (x.dstRow i + b0) bs.length bad x.hint, bs.length)

/-- Pieces of the destination poisoned: of rows in memory, or of the rows' places in a ring (08 R179). -/
def poisonPieces (s : State) (c : CoreId) (x : Xfer) (ring : Option RingView) (ps : List (Nat × Nat × Nat)) : State :=
  let g := placeOf s x.dstSeg
  s.each ps fun t p =>
    match ring with
    | some r => t.each (ringPieces r.dataOff r.dataBytes (r.produced + p.1 * x.rowBytes + p.2.1) (p.2.2 - p.2.1)) fun u q =>
        moverPoison u c g q.1 q.2 x.hint
    | none =>
      if x.zrOut then moverPoison t c g (x.dstRow p.1) (zrSpace x.rowBytes) x.hint
      else moverPoison t c g (x.dstRow p.1 + p.2.1) (p.2.2 - p.2.1) x.hint

/-- The whole destination of a segment poisoned (08 R179). -/
def poisonSegment (s : State) (c : CoreId) (x : Xfer) (k : Nat) : State := poisonPieces s c x none (x.pieces k)

/-- What moving a segment has done so far: map code 0, 1 or 2, the bytes written, and the row held for the next segment. -/
structure SegOut where
  s : State
  code : Nat
  out : Nat
  row : Option (Nat × Row)

/-- The raw bytes of a row gathered up to the end of a piece. -/
def gatherRow (held : Option (Nat × Row)) (i b0 : Nat) (l : Load) : Row :=
  let r := ((held.filter fun h => h.1 == i && b0 != 0).map (·.2)).getD ⟨0, 0⟩
  ⟨r.bits + leNat l.bytes * 2 ^ (8 * b0), r.bad ||| l.bad * 2 ^ b0⟩

/-- One piece of a segment moved. A row that goes into zero-run form is written when its last piece has been read. -/
def movePiece (c : CoreId) (x : Xfer) (ringIn ringOut : Option RingView) (how : MemOutcome) (o : SegOut)
    (p : Nat × Nat × Nat) : SegOut :=
  if o.code = 2 then o
  else
    let r := readPiece o.s c x ringIn how o.row p.1 p.2.1 p.2.2
    let l := r.1
    if l.failed.isSome then ⟨l.s, 2, o.out, none⟩
    else
      let code := if l.bad = 0 then o.code else 1
      if !x.zrOut || ringOut.isSome then
        let w := writePiece l.s c x ringOut p.1 p.2.1 l.bytes l.bad
        ⟨w.1, code, o.out + w.2, r.2⟩
      else
        let row := gatherRow o.row p.1 p.2.1 l
        if p.2.2 < x.rowBytes then ⟨l.s, code, o.out, some (p.1, row)⟩
        else
          let w := writeZrRow l.s c x p.1 (leBytes x.rowBytes row.bits) (row.bad != 0)
          ⟨w.1, if row.bad = 0 then code else 1, o.out + w.2, none⟩

/-- Pieces moved one after another; what the array hardware does, it does to the first read. -/
def movePieces (c : CoreId) (x : Xfer) (ringIn ringOut : Option RingView) (how : MemOutcome) (o : SegOut)
    (ps : List (Nat × Nat × Nat)) : SegOut :=
  ps.zipIdx.foldl (fun a p => movePiece c x ringIn ringOut (if p.2 = 0 then how else .good) a p.1) o

/-- One segment moved; a source that fails for good poisons the destination (08 R179). -/
def moveSegment (s : State) (c : CoreId) (x : Xfer) (how : MemOutcome) (row : Option (Nat × Row)) (k : Nat) : SegOut :=
  let u := if x.mode = 3 then (how, s) else takeUpset s how
  let o := movePieces c x none none u.1 ⟨u.2, 0, 0, row⟩ (x.pieces k)
  let s1 := o.s.when (u.1 = .transient) fun t => t.bump 0x64000B
  if o.code = 2 then ⟨(poisonSegment s1 c x k).bump 0x640008, 2, 0, none⟩
  else ⟨s1.when (o.code = 1) fun t => t.bump 0x64000A, o.code, o.out, o.row⟩

/-- The scratchpad banks of a segment's pieces, source and destination. -/
def segmentBanks (s : State) (x : Xfer) (k : Nat) : List Nat :=
  let gs := placeOf s x.srcSeg
  let gd := placeOf s x.dstSeg
  ((x.pieces k).map fun p =>
    (if x.mode = 0 && gs.kind == 1 then banksOf (gs.base + x.srcRow p.1 + p.2.1) (p.2.2 - p.2.1) else [])
      ++ (if x.mode = 2 && gs.kind == 1 then banksOf (gs.base + x.srcRow p.1 + p.2.1) (p.2.2 - p.2.1) else [])
      ++ (if gd.kind = 1 then banksOf (gd.base + x.dstRow p.1 + p.2.1) (p.2.2 - p.2.1) else [])).flatten

/-! ## Channels -/

/-- The transfer of a queued DMA or TLD. -/
def xferOf : QOp → Option Xfer
  | .dma b => some (dmaOf b)
  | .tld a d m men _ zr => some (tldOf a d m men zr)
  | _ => none

/-- Is the head an expert buffer read. -/
def exbOf : QOp → Option Desc
  | .tld a _ _ _ true _ => some a
  | _ => none

/-- Does a transfer run on a bulk channel: neither end in scratchpad (08 R175). A TLD's destination always is. -/
def Xfer.isBulk (x : Xfer) (s : State) : Bool :=
  segKind s x.dstSeg != 1 && (x.mode == 3 || segKind s x.srcSeg != 1)

/-- The bulk channel number that is free. -/
def freeBulk (m : DieMem) : Option Nat := indexOf? (fun o => o.isNone) m.bulk.toList

/-- A bulk channel taken or freed. -/
def setBulk (s : State) (d : DieId) (k : Nat) (o : Option (Nat × Nat)) : State :=
  s.modDie d fun m => { m with bulk := m.bulk.set (k % 8) o (Nat.mod_lt _ (by decide)) }

/-- BULK_CHANNEL_ASSIGN: a memory-to-memory descriptor at the head of a channel takes a free bulk channel of the core's
die; while all eight are busy it waits (08 R175). -/
def execBulkChannelAssign (core : CoreId) (ch : Fin 4) (s : State) : Result :=
  let q := 3 + ch.val
  match (s.core core).queue q with
  | [] => .next s
  | i :: _ =>
    match xferOf i.op, freeBulk (s.die (dieOf core)) with
    | some x, some k =>
      if x.isBulk s && i.bulk.isNone && (s.core core).st = .running then
        .next (setHead (setBulk s (dieOf core) k (some (core.val, ch.val))) core q { i with bulk := some k })
      else .next s
    | _, _ => .next s

/-- DMA_HALTED of a core and channel (17 Table 17.1). -/
def dmaHalted (s : State) (c : CoreId) (ch pc first : Nat) : State :=
  raiseOn (s.bump 0x640009) (dieOf c) (5 + c.val % 4) (pc % 2 ^ 48 + ch * 2 ^ 48) first

/-- The descriptor halts at segment `k` with map code `code`: the segment's destination is poisoned already, those not
started are poisoned and marked, and DMA_HALTED is raised (08 R179). -/
def haltXfer (s : State) (c : CoreId) (ch : Nat) (i : QInst) (x : Xfer) (codes : List (Nat × Nat)) (first : Nat) : State :=
  let rest := (List.range (x.segments - codes.length)).map (codes.length + ·)
  let s1 := s.each rest fun t k => poisonSegment t c x k
  let all := codes ++ rest.map fun _ => (4, 0)
  let s2 := setHead s1 c (3 + ch) { i with done := all.length, codes := all }
  dmaHalted s2 c ch i.pc first

/-- The FILL of an expert buffer read once, before a TLD's first row; poison counts as absent of every row known, so that
the rows are copied as poison (12 R269). -/
def readFill (s : State) (c : CoreId) (a : Desc) : Row × State :=
  let l := moverLoad s c (placeOf s (dSeg a)) ((exbHeader a).base + 8) 4 0 .good
  (l.row, l.s)

/-- A TLD row of an expert buffer: copied when present, zeros when not (12 R269). -/
def moveExb (s : State) (c : CoreId) (x : Xfer) (a : Desc) (fill : Row) (how : MemOutcome) (row : Option (Nat × Row)) (k : Nat) :
    SegOut :=
  if fill.bad != 0 then
    ⟨(moverPoison s c (placeOf s x.dstSeg) (x.dstRow k) x.rowBytes x.hint).bump 0x64000A, 1, x.rowBytes, none⟩
  else if dOrigin1 a + k < fill.bits then moveSegment s c x how row k
  else moveSegment s c { x with mode := 3 } how row k

/-- The segment at the head of a channel is moved. -/
def runSegment (s : State) (c : CoreId) (i : QInst) (x : Xfer) (how : MemOutcome) (row : Option (Nat × Row)) (k : Nat) : SegOut :=
  match exbOf i.op with
  | some a => moveExb s c x a i.bmask how row k
  | none => moveSegment s c x how row k

/-- The head of a channel with its FILL read. -/
def beginXfer (s : State) (c : CoreId) (i : QInst) : QInst × State :=
  match exbOf i.op with
  | some a =>
    if i.masksRead then (i, s)
    else let r := readFill s c a; ({ i with bmask := r.1, masksRead := true }, r.2)
  | none => (i, s)

/-- May the head of a channel start its next segment: it is no stream, it has its bulk channel, and segments remain. -/
def segmentReady (s : State) (i : QInst) (x : Xfer) : Bool :=
  !x.stream && i.done < x.segments && (!x.isBulk s || i.bulk.isSome)

/-- The next segment of the head of a channel ends. -/
def stepSegment (s : State) (c : CoreId) (ch : Nat) (i : QInst) (x : Xfer) (how : MemOutcome) : State :=
  match bankGate (s.core c) 4 i.seq (segmentBanks s x i.done) with
  | .wait => s
  | .trap t => unitTrap s c (3 + ch) i t
  | .pass =>
    let b := beginXfer s c i
    let o := runSegment b.2 c b.1 x how i.row i.done
    let codes := i.codes ++ [(o.code, o.out)]
    let s1 := if o.code = 2 then haltXfer o.s c ch b.1 x codes i.done
      else setHead o.s c (3 + ch) { b.1 with done := i.done + 1, codes := codes, row := o.row }
    if i.done + 1 < x.segments then s1.modCore c fun y => drained y (3 + ch) else s1

/-- DMA_SEGMENT_DONE: the next segment of a channel's descriptor ends (08 R178). -/
def execDmaSegmentDone (core : CoreId) (ch : Fin 4) (how : MemOutcome) (s : State) : Result :=
  match (s.core core).queue (3 + ch.val) with
  | [] => .next s
  | i :: _ =>
    match xferOf i.op with
    | none => .next s
    | some x =>
      .next (if segmentReady s i x && mayWork (s.core core) (3 + ch.val) then stepSegment s core ch.val i x how else s)

/-- Later segments already in flight run to completion (08 R179 step 2). -/
def runInFlight (c : CoreId) (i : QInst) (x : Xfer) (acc : State × List (Nat × Nat)) (k : Nat) :
    State × List (Nat × Nat) :=
  let o := runSegment acc.1 c i x .good none k
  (o.s, acc.2 ++ [(o.code, o.out)])

/-- A segment fails for good, and the descriptor halts (08 R179). -/
def failSegment (s : State) (c : CoreId) (ch : Nat) (i : QInst) (x : Xfer) (atDest : Bool) (inFlight : Nat) : State :=
  match bankGate (s.core c) 4 i.seq (segmentBanks s x i.done) with
  | .wait => s
  | .trap t => unitTrap s c (3 + ch) i t
  | .pass =>
    let b := beginXfer s c i
    let s1 := (poisonSegment b.2 c x i.done).bump 0x640008
    let later := (List.range (min inFlight (x.segments - i.done - 1))).map (i.done + 1 + ·)
    let r := later.foldl (runInFlight c b.1 x) (s1, i.codes ++ [(if atDest then 3 else 2, 0)])
    haltXfer r.1 c ch b.1 x r.2 i.done

/-! ## Streams (08 R183 to R186) -/

/-- A ring header as stored. -/
def ringView (b : List Byte) : RingView :=
  ⟨leAt b 0 8, leAt b 8 8, leAt b 0x10 8, leAt b 0x18 8, leAt b 0x20 8, leAt b 0x28 8, leAt b 0x30 1⟩

/-- Does an enabled ring register of the header's home die hold the header for this core and channel. -/
def ringMatches (s : State) (c : CoreId) (ch a : Nat) : Bool :=
  match homeDie a with
  | none => false
  | some d => (s.die d).ringNow.toList.any fun r =>
      bitAt r.toNat 63 && fld r.toNat 0 48 == a && fld r.toNat 0 6 == 0 && fld r.toNat 58 5 == c.val
        && fld r.toNat 56 2 == ch

/-- Is the ring valid for a stream of a direction (08 R183). A ring of no bytes, which the rule does not list, holds no flow
and is taken as invalid (DESIGN CHOICE, notes/assumptions/148.md). -/
def ringValid (s : State) (c : CoreId) (ch : Nat) (g : Seg) (off dir : Nat) (r : RingView) : Bool :=
  ringMatches s c ch (g.base + off) && inByteRegion s (g.base + off) && 0 < r.dataBytes
    && r.dataOff + r.dataBytes ≤ g.bytes && r.dir == dir
    && !(dir == 0 && r.dataBytes < (r.snapProduced + 2 ^ 64 - r.consumed) % 2 ^ 64)

/-- The rows a stream descriptor delivers. -/
def streamRows (x : Xfer) (r : RingView) : Nat :=
  let avail := if x.mode = 1 then (r.snapProduced + 2 ^ 64 - r.consumed) % 2 ^ 64
    else r.dataBytes - (r.produced + 2 ^ 64 - r.snapConsumed) % 2 ^ 64
  min x.rowCount (avail / x.rowBytes)

/-- The segment map of a stream that delivered `k` rows: segments with an undelivered row end SHORT or PADDED, poison or
none in their delivered rows (DESIGN CHOICE, notes/assumptions/148.md). -/
def streamCode (x : Xfer) (k : Nat) (seg : Nat) (code : Nat) : Nat :=
  if min x.total ((seg + 1) * x.segBytes) ≤ k * x.rowBytes then code else if x.pad then 6 else 5

/-- The rings of a stream and the rows it delivers. -/
structure StreamRun where
  ringIn : Option RingView
  ringOut : Option RingView
  rows : Nat

/-- The pieces of a segment that a stream delivers. -/
def livePieces (x : Xfer) (v : StreamRun) (seg : Nat) : List (Nat × Nat × Nat) := (x.pieces seg).filter fun p => p.1 < v.rows

/-- The pieces of a segment that a failing stream poisons: its whole destination, in a ring that of the rows it delivers. -/
def streamDest (x : Xfer) (v : StreamRun) (seg : Nat) : List (Nat × Nat × Nat) :=
  if v.ringOut.isSome then livePieces x v seg else x.pieces seg

/-- Bytes of a row that a stream requests and does not move, counted as the demand counts them (08 Table 8.11). -/
def countUnmoved (c : CoreId) (x : Xfer) (v : StreamRun) (s : State) (p : Nat × Nat × Nat) : State :=
  let n := p.2.2 - p.2.1
  let put (g : Seg) (off : Nat) (write : Bool) (m : Nat) (t : State) : State :=
    if g.kind = 1 then t else countMove t (dieOf c) (g.base + off) m write
  let ring (g : Seg) (r : RingView) (b : Nat) (write : Bool) (t : State) : State :=
    t.each (ringPieces r.dataOff r.dataBytes (b + p.1 * x.rowBytes + p.2.1) n) fun u q => put g q.1 write q.2 u
  let gs := placeOf s x.srcSeg
  let gd := placeOf s x.dstSeg
  match v.ringIn, v.ringOut with
  | some r, _ => (ring gs r r.consumed false s).when (!x.pad) (put gd (x.dstRow p.1 + p.2.1) true n)
  | none, some r => ring gd r r.produced true (put gs (x.srcRow p.1 + p.2.1) false n s)
  | none, none => s

/-- One segment of a stream: rows below `k` moved; the others are zeros under PAD. -/
def streamSegment (c : CoreId) (x : Xfer) (v : StreamRun) (acc : State × List (Nat × Nat)) (seg : Nat) :
    State × List (Nat × Nat) :=
  let live := livePieces x v seg
  let rest := (x.pieces seg).filter fun p => v.rows ≤ p.1
  let u := if live.isEmpty then (MemOutcome.good, acc.1) else takeUpset acc.1 .good
  let o := movePieces c x v.ringIn v.ringOut u.1 ⟨u.2, 0, 0, none⟩ live
  let s1 := (o.s.when (u.1 = .transient) fun t => t.bump 0x64000B).each rest (countUnmoved c x v)
  if o.code = 2 then ((poisonPieces s1 c x v.ringOut (streamDest x v seg)).bump 0x640008, acc.2 ++ [(2, 0)])
  else
    let code := streamCode x v.rows seg o.code
    let s2 := s1.when (code = 1) fun t => t.bump 0x64000A
    let o2 := movePieces c { x with mode := 3 } none none .good ⟨s2, 0, o.out, none⟩ (if x.pad then rest else [])
    (o2.s, acc.2 ++ [(code, o2.out)])

/-- A segment of a stream in its turn: after a failure those from `limit` on do not run, and their destination is poisoned
(08 R179). -/
def streamStep (c : CoreId) (x : Xfer) (v : StreamRun) (limit : Nat) (acc : State × List (Nat × Nat)) (seg : Nat) :
    State × List (Nat × Nat) :=
  if limit ≤ seg && acc.2.any fun p => p.1 == 2 || p.1 == 3 then
    (poisonPieces acc.1 c x v.ringOut (streamDest x v seg), acc.2 ++ [(4, 0)])
  else streamSegment c x v acc seg

/-- What of a stream's segments is known to fail: the first, at its source or its destination, with so many after it in
flight. -/
structure StreamFail where
  atDest : Bool
  inFlight : Nat

/-- Every segment of a stream in order: the state after, and the map codes with the bytes written. -/
def streamSegments (s : State) (c : CoreId) (x : Xfer) (v : StreamRun) (fail : Option StreamFail) : State × List (Nat × Nat) :=
  match fail with
  | none => (List.range x.segments).foldl (streamStep c x v 0) (s, [])
  | some f =>
    let s1 := (poisonPieces s c x v.ringOut (streamDest x v 0)).bump 0x640008
    ((List.range (x.segments - 1)).map (1 + ·)).foldl (streamStep c x v (1 + f.inFlight)) (s1, [(if f.atDest then 3 else 2, 0)])

/-- A row-mask record: VALID_ROWS and the bits below it (04 Table 4.17). -/
def maskRecord (valid : Nat) : List Byte := leBytes 4 valid ++ leBytes 4 0 ++ leBytes 128 (2 ^ valid - 1)

/-- The header's counts advanced: PRODUCED or CONSUMED. The descriptor's 64 bytes of header are counted once, at the
read (08 Table 8.11). -/
def advanceRing (s : State) (g : Seg) (off : Nat) (v hint : Nat) : State :=
  memStore s (g.base + off) (leBytes 8 v) (some (hintOf hint))

/-- The destination of an outbound stream in a ring that is not valid for it: the places of its rows from PRODUCED on, as far
as the data area and the segment reach (08 R183; DEDUCED, notes/assumptions/93.md). -/
def poisonRing (s : State) (c : CoreId) (x : Xfer) (r : RingView) : State :=
  let g := placeOf s x.dstSeg
  if r.dataBytes = 0 then s
  else s.each (ringPieces r.dataOff r.dataBytes r.produced (min x.total r.dataBytes)) fun t p =>
    moverPoison t c g p.1 (min p.2 (g.bytes - p.1)) x.hint

/-- A stream whose ring is invalid: nothing is delivered and the whole destination is poisoned (08 R183). -/
def ringInvalid (s : State) (c : CoreId) (ch : Nat) (i : QInst) (x : Xfer) (r : RingView) : State :=
  let s1 := if x.mode = 2 then poisonRing s c x r else s.each (List.range x.segments) fun t k => poisonSegment t c x k
  setHead (s1.bump 0x64000D) c (3 + ch)
    { i with done := x.segments, codes := List.replicate x.segments (4, 0), accepted := true }

/-- The scratchpad banks of a range of a segment. -/
def rangeBanks (s : State) (seg off n : Nat) : List Nat :=
  let g := placeOf s seg
  if g.kind = 1 then banksOf (g.base + off) n else []

/-- The scratchpad banks of a whole stream: its rows and its row-mask record. -/
def xferBanks (s : State) (x : Xfer) : List Nat :=
  ((List.range x.segments).map (segmentBanks s x)).flatten ++ (if x.mask then rangeBanks s x.auxSeg x.auxOff 136 else [])

/-- Did a stream end SHORT or PADDED (08 R185, R189). -/
def endedShort (codes : List (Nat × Nat)) : Bool :=
  codes.any (fun p => p.1 == 5 || p.1 == 6) && !codes.any fun p => 1 ≤ p.1 && p.1 ≤ 4

/-- The stream at the head of a channel runs. -/
def runStream (s : State) (c : CoreId) (ch : Nat) (i : QInst) (x : Xfer) (fail : Option StreamFail) : State :=
  let inbound := x.mode == 1
  let g := placeOf s (if inbound then x.srcSeg else x.dstSeg)
  let off := if inbound then x.srcOff else x.dstOff
  let l := moverLoad s c g off 64 x.hint .good
  let r := ringView l.bytes
  if l.bad != 0 || !ringValid l.s c ch g off (if inbound then 0 else 1) r then ringInvalid l.s c ch i x r
  else
    let k := streamRows x r
    let v : StreamRun := ⟨if inbound then some r else none, if inbound then none else some r, k⟩
    let o := streamSegments l.s c x v fail
    let s1 := if inbound then advanceRing o.1 g (off + 8) (r.consumed + k * x.rowBytes) x.hint
      else advanceRing o.1 g off (r.produced + k * x.rowBytes) x.hint
    let s2 := if x.mask then moverPut s1 c (placeOf s1 x.auxSeg) x.auxOff (maskRecord k) x.hint else s1
    let s3 := s2.when (endedShort o.2) fun t => t.bump 0x64000C
    let s4 := setHead s3 c (3 + ch) { i with done := x.segments, codes := o.2 }
    match indexOf? (fun p => p.1 == 2 || p.1 == 3) o.2 with
    | some b => dmaHalted s4 c ch i.pc b
    | none => s4

/-- A stream of a direction at the head of a channel. -/
def streamHead (s : State) (c : CoreId) (ch mode : Nat) (fail : Option StreamFail) : State :=
  match (s.core c).queue (3 + ch) with
  | [] => s
  | i :: _ =>
    match xferOf i.op with
    | none => s
    | some x =>
      if x.mode != mode || i.done != 0 || !mayWork (s.core c) (3 + ch) || (x.isBulk s && i.bulk.isNone) then s
      else match bankGate (s.core c) 4 i.seq (xferBanks s x) with
        | .wait => s
        | .trap t => unitTrap s c (3 + ch) i t
        | .pass => runStream s c ch i x fail

/-- STREAM_IN: whole rows from an inbound ring (08 R185). -/
def execStreamIn (core : CoreId) (ch : Fin 4) (s : State) : Result := .next (streamHead s core ch.val 1 none)

/-- STREAM_OUT: whole rows into an outbound ring (08 R186). -/
def execStreamOut (core : CoreId) (ch : Fin 4) (s : State) : Result := .next (streamHead s core ch.val 2 none)

/-- DMA_SEGMENT_FAILED: the next segment of a channel's descriptor fails twice, a stream's its first (08 R179). -/
def execDmaSegmentFailed (core : CoreId) (ch : Fin 4) (atDest : Bool) (inFlight : Fin 4) (s : State) : Result :=
  match (s.core core).queue (3 + ch.val) with
  | [] => .next s
  | i :: _ =>
    match xferOf i.op with
    | none => .next s
    | some x =>
      .next (if x.stream then streamHead s core ch.val x.mode (some ⟨atDest, inFlight.val⟩)
        else if segmentReady s i x && mayWork (s.core core) (3 + ch.val)
        then failSegment s core ch.val i x atDest inFlight.val else s)

/-! ## Completion (08 R180) -/

/-- STATUS of the completion record: the highest code that applies (08 Table 8.6). -/
def recordStatus (codes : List Nat) (ringBad : Bool) : Nat :=
  if ringBad then 5
  else if codes.any fun k => k == 2 || k == 3 || k == 4 then 4
  else if codes.contains 1 then 3
  else if codes.contains 6 then 2
  else if codes.contains 5 then 1 else 0

/-- The completion record of codes with the raw bytes of each segment and the bytes each wrote. -/
def completionRecord (codes : List (Nat × Nat)) (raw : Nat → Nat) (status : Nat) : List Byte :=
  let ok := codes.zipIdx.filter fun p => p.1.1 == 0
  let out := sumOf ((codes.filter fun p => p.1 == 0 || p.1 == 1 || p.1 == 6).map (·.2))
  leBytes 4 status ++ leBytes 4 codes.length ++ leBytes 4 ok.length
    ++ leBytes 4 ((indexOf? (fun (p : Nat × Nat) => p.1 != 0) codes).getD 0xFFFFFFFF)
    ++ leBytes 8 (sumOf (ok.map fun p => raw p.2)) ++ leBytes 8 out

/-- The segment map, padded to whole words. -/
def segmentMap (codes : List Nat) : List Byte :=
  fitBytes (roundUp codes.length 4) (codes.map fun k => BitVec.ofNat 8 k)

/-- The raw bytes of segment `k`. -/
def Xfer.rawOf (x : Xfer) (k : Nat) : Nat := min x.total ((k + 1) * x.segBytes) - k * x.segBytes

/-- The row-mask record of a TLD: written when every row is delivered (04 R98, 12 R269). Rows copied as poison for a poisoned
FILL are delivered, so all of them are present. -/
def tldMask (s : State) (c : CoreId) (i : QInst) (x : Xfer) : State :=
  if !x.mask || !i.codes.all (fun p => p.1 ≤ 1) then s
  else
    let valid := match exbOf i.op with
      | some a => if i.bmask.bad = 0 then min x.rowCount (i.bmask.bits - dOrigin1 a) else x.rowCount
      | none => x.rowCount
    moverPut s c (placeOf s x.auxSeg) x.auxOff (maskRecord valid) x.hint

/-- The completion record and map, when the descriptor asks for them. -/
def writeRecord (s : State) (c : CoreId) (i : QInst) (x : Xfer) : State :=
  if !x.recEn then s
  else
    let codes := i.codes.map (·.1)
    let rec' := completionRecord i.codes x.rawOf (recordStatus codes i.accepted)
    moverPut s c (placeOf s x.recSeg) x.recOff (rec' ++ if x.map then segmentMap codes else []) x.hint

/-- The scratchpad banks of what a descriptor writes at its end. -/
def recordBanks (s : State) (i : QInst) (x : Xfer) : List Nat :=
  (match i.op with
    | .tld _ _ _ _ _ _ => if x.mask then rangeBanks s x.auxSeg x.auxOff 136 else []
    | _ => [])
  ++ (if x.recEn then rangeBanks s x.recSeg x.recOff (recordSpace x.map x.segments) else [])

/-- The scratchpad banks that a descriptor still reaches: those of its segments not ended, and of what it writes at its
end (03 R61). -/
def leftBanks (s : State) (i : QInst) (x : Xfer) : List Nat :=
  (((List.range x.segments).drop i.done).map (segmentBanks s x)).flatten ++ recordBanks s i x

/-- The scratchpad banks of its next access. -/
def nextBanks (s : State) (i : QInst) (x : Xfer) : List Nat :=
  if x.segments ≤ i.done then recordBanks s i x
  else if x.stream then xferBanks s x else segmentBanks s x i.done

/-- The descriptor leaves its channel: mask and completion record written, bulk channel freed, DONE incremented. -/
def endXfer (s : State) (c : CoreId) (ch : Nat) (i : QInst) (x : Xfer) : State :=
  let s1 := match i.op with
    | .tld _ _ _ _ _ _ => tldMask s c i x
    | _ => writeRecord s c i x
  let s2 := match i.bulk with
    | some k => setBulk s1 (dieOf c) k none
    | none => s1
  finishHead s2 c (3 + ch)

/-- The head of a DMA queue finishes once every segment has ended (08 R180, 04 R64). -/
def finishDma (s : State) (c : CoreId) (ch : Nat) : State :=
  match (s.core c).queue (3 + ch) with
  | [] => s
  | i :: _ =>
    match xferOf i.op with
    | none => s
    | some x =>
      if i.done < x.segments then s
      else match bankGate (s.core c) 4 i.seq (recordBanks s i x) with
        | .wait => s
        | .trap t => unitTrap s c (3 + ch) i t
        | .pass => endXfer s c ch i x

end Sys2Proof.Machine
end

