-- ==== Sys2Proof/Machine/Control.lean ====
section
/-!
DEFINITION. Machine/Control.lean: the Y class, opcodes 0x58 to 0x5D (04 R99 to R102), and the moments at which a
stalled controller resumes (03 R56 to R64, R69).
-/
namespace Sys2Proof.Machine

/-- The core's energy counts against another phase tag from now on (04 R102). -/
def CoreState.retag (x : CoreState) (tag : Nat) : CoreState :=
  { x with tag := BitVec.ofNat 8 tag, use := { x.use with tagsWas := x.use.tagsWas ++ [x.tag.toNat] } }

/-- Instructions of a queue issued by `issued` and not finished, modulo 2^32 (03 R64). -/
def unfinished (x : CoreState) (q issued : Nat) : Nat := distMod 32 issued (x.doneOf q).toNat

/-- WAITQ: a stall until at most K instructions of queue Q are unfinished (03 R64). -/
def execWaitq (core : CoreId) (h : Hdr) (f : BitVec 51) (s : State) : Result :=
  let q := ff f 47 4
  let k := ff f 0 16
  .next (issue s core 0x59 1 h f (ff f 16 31 == 0 && q ≤ 9) [] [] fun t =>
    let x := t.core core
    let n := (x.issuedOf q).toNat
    if unfinished x q n ≤ k then t.setCore core (x.advance 1) else stallOn t core (.waitq q k n))

/-- WAITQ_RELEASE: the waited queue has fallen to K unfinished instructions and the controller resumes (03 R64). -/
def execWaitqRelease (core : CoreId) (s : State) : Result :=
  let x := s.core core
  match x.stall with
  | .waitq q k n => .next (if unfinished x q n ≤ k then s.setCore core (x.resume 1) else s)
  | _ => .next s

/-- BANKSET: a handover of every bank of MASK, taking effect later (03 R61). -/
def execBankset (core : CoreId) (h : Hdr) (f : BitVec 51) (s : State) : Result :=
  let owner := ff f 40 3
  .next (issue s core 0x5A 1 h f (ff f 0 39 == 0 && owner ≤ 4) [] [] fun t =>
    t.modCore core fun x =>
      { x.advance 1 with
        hand := x.hand ++ (onesOf 8 (ff f 43 8)).map fun b => ⟨b, owner, ff f 39 1 == 1, x.seq⟩ })

/-- FLAGSET: USER flags raised in the contribution for the frame (04 R100). -/
def execFlagset (core : CoreId) (h : Hdr) (f : BitVec 51) (s : State) : Result :=
  .next (issue s core 0x5B 1 h f (ff f 0 43 == 0) [] [] fun t =>
    (raiseFlags t (ff f 43 8 * 256)).modCore core fun x => x.advance 1)

/-- The payload of a frame number as delivered (02 R40). -/
def State.payload (s : State) (n : Nat) : Payload := kvGet ⟨0, false⟩ s.tick.payloads n

/-- The number of the frame that a frame index names when it is one of the 64 kept before the core's own frame (04 R101). -/
def keptFrame (cur idx : Nat) : Option Nat :=
  let d := distMod 32 cur idx
  if 0 < d && d ≤ 64 && d ≤ cur then some (cur - d) else none

/-- FLAGRD: the payload of a kept earlier frame once it is final, or 2^63 (04 R101). -/
def execFlagrd (core : CoreId) (h : Hdr) (f : BitVec 51) (s : State) : Result :=
  let sd := ff f 46 5
  let idx := ((s.core core).sreg (ff f 41 5)).toNat % 2 ^ 32
  .next (issue s core 0x5C 1 h f (ff f 0 41 == 0) (sKeys [ff f 41 5]) [] fun t =>
    match keptFrame (t.core core).frame idx with
    | none => writeSreg t core 1 sd (BitVec.ofNat 64 (2 ^ 63))
    | some n =>
      if (t.payload n).final then writeSreg t core 1 sd (BitVec.ofNat 64 (t.payload n).bits)
      else stallOn t core (.flagrd sd n))

/-- FLAGRD_PAYLOAD_FINAL: the payload a FLAGRD waits for is final and the controller resumes (04 R101). -/
def execFlagrdPayloadFinal (core : CoreId) (s : State) : Result :=
  match (s.core core).stall with
  | .flagrd sd n =>
    .next (if (s.payload n).final then
        s.modCore core fun x => (x.setSreg sd (BitVec.ofNat 64 (s.payload n).bits)).resume 1
      else s)
  | _ => .next s

/-- PTAG: the core's later energy in the frame counts against another phase tag (04 R102). -/
def execPtag (core : CoreId) (h : Hdr) (f : BitVec 51) (s : State) : Result :=
  .next (issue s core 0x5D 1 h f (ff f 0 43 == 0) [] [] fun t =>
    t.modCore core fun x => (x.advance 1).retag (ff f 43 8))

/-- SRD_SCALE_RELEASE: the decisions that an SRD 0x08 waits for have been made or abandoned (13 R292). -/
def execSrdScaleRelease (core : CoreId) (s : State) : Result :=
  match (s.core core).stall with
  | .scale sd step =>
    match stepScale s step with
    | some e => .next (s.modCore core fun x => (x.setSreg sd (BitVec.ofNat 64 e)).resume 1)
    | none => .next s
  | _ => .next s

/-- ISSUE_QUEUE_SPACE: the full queue has a free slot and the controller issues again (03 R56). -/
def execIssueQueueSpace (core : CoreId) (s : State) : Result :=
  let x := s.core core
  match x.stall with
  | .queue q => .next (if (x.queue q).length < 16 then s.setCore core { x with stall := .none } else s)
  | _ => .next s

/-- FEND_RETIRE: every queue of the core is drained, and the core has completed its part of the frame (03 R58). Its
elapsed cycles are compared with CRIT_CYCLES (02 R37). -/
def execFendRetire (core : CoreId) (elapsed : Nat) (s : State) : Result :=
  let x := s.core core
  let dry := (List.range 10).all fun q => x.issuedOf q == x.doneOf q
  if x.st = .running && x.fend && !x.completed && dry then
    let s1 := s.setCore core { x with completed := true, st := .waiting, use := { x.use with elapsed := elapsed } }
    .next (match coreDemand s core with
      | some d => overrunIf s1 core 0x00 elapsed d.crit
      | none => s1)
  else .next s

/-! ## The instruction cache (03 R55, R69) -/

/-- ICACHE_LINE_FILL: a line arrives from Stratus, or is marked bad. `refetched` is a line dropped for an uncorrectable
error of the cache's own array and fetched again, which is logged as transient (03 R69, 09 R202). -/
def execIcacheLineFill (core : CoreId) (line : Nat) (how : FillOutcome) (s : State) : Result :=
  let off := line / 256 * 256
  if !s.hasImage || s.codeBytes ≤ off then .next s
  else
    let s1 := s.when (how = .refetched) fun t => (t.bump 0x620003).bump 0xC10003
    .next (readLine s1 core off (match how with | .retried => .transient | .bad => .lasting | _ => .good))

end Sys2Proof.Machine
end

