-- ==== Sys2Proof/Machine/Links.lean ====
section
/-!
DEFINITION. Machine/Links.lean: frames on the fabric, what a port sends, Dropstitch, routing, port transitions and
partner violations (10 R209 to R233, 11 R241).
-/
namespace Sys2Proof.Machine

/-! ## Ports as state -/

/-- A port. -/
def State.port (s : State) (p : PortId) : Port := s.fabric.ports[p]

/-- A port changed. -/
def State.modPort (s : State) (p : PortId) (f : Port → Port) : State :=
  { s with fabric := { s.fabric with ports := vmod s.fabric.ports p f } }

/-- Every port, in order. -/
def allPorts : List PortId := List.finRange 24

/-- The die of a port (10 R209). -/
def portDie (p : PortId) : DieId := ⟨p.val / 3, by omega⟩

/-- STATE of PORT_STATUS (10 Table 10.4). -/
def PortSt.code : PortSt → Nat
  | .disabled => 0 | .training => 1 | .measuring => 2 | .up => 3 | .retraining => 4 | .quiescent => 5 | .down => 6

/-- PORT_STATUS (10 Table 10.11). -/
def Port.status (x : Port) : Nat :=
  let pr := x.partner.getD (0, 0)
  pr.1 % 65536 * 2 ^ 48 + pr.2 % 256 * 2 ^ 40 + x.lastCause * 2 ^ 24 + x.retrains % 256 * 2 ^ 16
    + x.partnerQuiescent.toNat * 16 + x.st.code

/-- May DATA frames move: UP, or QUIESCENT during a compute reset of this package. -/
def Port.carries (x : Port) : Bool := x.st == .up || x.st == .quiescent

/-- An enabled port of the tick network: in service, with TICK_EN set. -/
def Port.ticks (x : Port) : Bool := x.carries && x.tickEn

/-- A port's part of VC `v`. -/
def vcAt {α : Type} (x : Vector α 3) (v : Nat) : α := x[v % 3]'(Nat.mod_lt _ (by decide))

/-- A port's part of VC `v` replaced. -/
def vcSet {α : Type} (x : Vector α 3) (v : Nat) (a : α) : Vector α 3 := x.set (v % 3) a (Nat.mod_lt _ (by decide))

/-- The counter object `i` of port p (10 Table 10.16). -/
def kPort (p : PortId) (i : Nat) : Nat := (0x6600 + p.val) * 256 + i

/-! ## Frames (10 R213 to R215) -/

/-- A frame: 12-byte header, payload and CRC-32. -/
def mkFrame (type vc seq dest addr tag : Nat) (payload : List Byte) : List Byte :=
  let body := leBytes 12 (type % 16 + vc % 4 * 2 ^ 4 + payload.length / 16 % 64 * 2 ^ 6 + seq % 4096 * 2 ^ 12
    + dest % 65536 * 2 ^ 24 + addr % 2 ^ 48 * 2 ^ 40 + tag % 256 * 2 ^ 88) ++ payload
  body ++ leBytes 4 (crc32 body)

/-- The fields of a frame header. -/
structure FrameHead where
  type : Nat
  vc : Nat
  len16 : Nat
  seq : Nat
  dest : Nat
  addr : Nat
  tag : Nat

/-- A frame's header. -/
def frameHead (b : List Byte) : FrameHead :=
  let h := leAt b 0 12
  ⟨fld h 0 4, fld h 4 2, fld h 6 6, fld h 12 12, fld h 24 16, fld h 40 48, fld h 88 8⟩

/-- A frame's payload. -/
def framePayload (b : List Byte) : List Byte := (b.drop 12).take (b.length - 16)

/-- Is the CRC of a frame right. -/
def frameCrcOk (b : List Byte) : Bool :=
  16 ≤ b.length && leAt b (b.length - 4) 4 == crc32 (b.take (b.length - 4))

/-- Does a frame keep the rules of R213 for its type: LEN16, and zero in the fields of DATA frames alone. -/
def frameFormOk (b : List Byte) : Bool :=
  let h := frameHead b
  let lenOk := b.length == 16 + 16 * h.len16
  let plain := fld (leAt b 0 12) 12 84 == 0 && h.vc == 0
  lenOk && (match h.type with
    | 1 => h.vc ≤ 2 && 1 ≤ h.len16 && h.len16 ≤ 32
    | 2 => plain && h.len16 == 1 && fld (leAt b 12 2) 12 1 == 0 && fld (leAt b 12 2) 14 1 == 0 && leAt b 20 8 == 0
    | 3 => plain && h.len16 == 2 && fld (leAt b (12 + 0x12) 1) 2 6 == 0 && leAt b (12 + 0x1A) 6 == 0
    | 4 => plain && h.len16 == 9
    | 5 => plain && h.len16 == 1 && leAt b (12 + 0xC) 1 ≤ 1 && leAt b (12 + 0xD) 3 == 0
    | _ => false)

/-- Data padded with zeros to whole units of 16 bytes. -/
def pad16 (bs : List Byte) : List Byte := fitBytes (roundUp bs.length 16) bs

/-- Units of 16 bytes that a frame takes of a receive buffer. -/
def frameUnits (payload : List Byte) : Nat := 1 + payload.length / 16

/-! ## FEC (10 R211, Table 10.1) -/

/-- Data symbols of ten bits in a codeword: RS(544,514) in mode 0, RS(170,162) in mode 1. -/
def fecData (mode : Nat) : Nat := if mode = 1 then 162 else 514

/-- Symbols of a codeword that the decoder can correct. -/
def fecLimit (mode : Nat) : Nat := if mode = 1 then 4 else 15

/-- The lane of symbol `i` of a codeword. -/
def fecLane (i : Nat) : Nat := i % 4

/-- The check symbols of a codeword of the low-latency mode, by the field of 09 R194 with roots α^0 to α^7. The code of the
standard mode is IEEE 802.3dj's, which the specification names and does not give. -/
def fecCheck (data : List Nat) : List Nat := rsEncode 4 ((data ++ List.replicate 162 0).take 162)

/-- The most codewords in which `n` frame bytes have a part. -/
def fecWords (mode n : Nat) : Nat := if n = 0 then 0 else (8 * n + 10 * fecData mode - 2) / (10 * fecData mode) + 1

/-- Is a frame in an uncorrectable codeword: the decoder says so, or more symbols were in error than its codewords can
correct (10 R211, notes/assumptions/150.md). -/
def fecFails (mode n fixed : Nat) (bad : Bool) : Bool := bad || fecLimit mode * fecWords mode n < fixed

/-- Symbols that the decoder of a port corrected (10 Table 10.16). -/
def noteFixed (s : State) (p : PortId) (n fixed : Nat) (bad : Bool) : State :=
  let x := s.port p
  if x.st = .disabled || x.st = .training || x.st = .down || fecFails x.fecNow n fixed bad then s
  else s.when (fixed != 0) fun t => t.bumpBy (kPort p 1) fixed

/-! ## Dropstitch (10 R232) -/

/-- The class bit of DS_CTRL.CLASSES for a frame type: DATA, CTRL, MARKER, WAVE. -/
def dsClass (type : Nat) : Nat := 8 + (type - 1)

/-- What injection does to a frame: 0 nothing, 1 drop, 2 corrupt bit k, 3 reorder. -/
def dsAction (x : Port) (k type bytes : Nat) (ta : Nat) : Nat × Nat :=
  let u := cable x.dsSeed ta k 0 (x.dsJ / 2 ^ 24) (x.dsJ % 2 ^ 24)
  let drop := fld x.dsCtrl 48 16
  let corrupt := fld x.dsCtrl 32 16
  let reorder := fld x.dsCtrl 16 16
  if fld x.dsCtrl 0 2 = 3 then
    if drop != 0 then (1, 0) else if corrupt != 0 then (2, u % (8 * bytes)) else if reorder != 0 && type = 1 then (3, 0) else (0, 0)
  else if u < min drop 65535 then (1, 0)
  else if u < min (drop + corrupt) 65535 then (2, u % (8 * bytes))
  else if u < min (drop + corrupt + reorder) 65535 && type = 1 then (3, 0)
  else (0, 0)

/-- One bit of a byte list inverted. -/
def flipBit (bs : List Byte) (k : Nat) : List Byte := modAt bs (k / 8) fun b => b ^^^ BitVec.ofNat 8 (2 ^ (k % 8))

/-- Bytes that leave a port, with the frames held back by REORDER behind the next DATA frame: each was to follow the DATA
frame after it, so the one held last goes first. -/
def emitFrame (s : State) (p : PortId) (type : Nat) (bs : List Byte) : State :=
  let s1 := s.emit (.frame p.val bs)
  if type != 1 || (s.port p).dsHeld.isEmpty then s1
  else (s1.modPort p fun x => { x with dsHeld := [] }).each (s.port p).dsHeld fun t h => t.emit (.frame p.val h)

/-- A write of the Dropstitch registers takes effect at the frame boundary before the next frame (10 R232). -/
def dsBoundary (s : State) (p : PortId) : State :=
  let x := s.port p
  if !x.dsWait then s
  else s.modPort p fun y => { y with
    dsWait := false, dsJ := 0,
    dsArmed := match fld y.dsCtrl 0 2 with
      | 0 => none
      | 2 => if y.dsTick ≤ s.tick.count && s.tick.arrived then some s.tick.count else none
      | _ => some s.tick.count }

/-- A frame sent on a port, after its replay buffer: injection, with the Dropstitch licence, then the line. -/
def sendRaw (s : State) (p : PortId) (type : Nat) (bs : List Byte) : State :=
  let s1 := dsBoundary s p
  let x := s1.port p
  match x.dsArmed with
  | none => emitFrame s1 p type bs
  | some ta =>
    if type = 5 || !s1.licensed 2 || !bitAt x.dsCtrl (dsClass type) then emitFrame s1 p type bs
    else
      let a := dsAction x p.val type bs.length ta
      let single := fld x.dsCtrl 0 2 == 3 && a.1 != 0
      let s2 := s1.modPort p fun y => { y with
        dsJ := y.dsJ + 1
        dsCtrl := if single then setFld y.dsCtrl 0 2 0 else y.dsCtrl
        dsArmed := if single then none else y.dsArmed }
      match a.1 with
      | 1 => s2
      | 2 => emitFrame s2 p type (flipBit bs a.2)
      | 3 => s2.modPort p fun y => { y with dsHeld := bs :: y.dsHeld }
      | _ => emitFrame s2 p type bs

/-- A CTRL frame with what this port has received and freed (10 R215). -/
def ctrlFrame (x : Port) (nak : Bool) : List Byte :=
  mkFrame 2 0 0 0 0 0 (leBytes 2 ((x.rxSeq + 4095) % 4096 + (if x.st = .quiescent then 2 ^ 13 else 0) + nak.toNat * 2 ^ 15)
    ++ leBytes 2 (vcAt x.freed 0) ++ leBytes 2 (vcAt x.freed 1) ++ leBytes 2 (vcAt x.freed 2) ++ leBytes 8 0)

/-- A CTRL frame sent. -/
def sendCtrl (s : State) (p : PortId) (nak : Bool) : State :=
  (sendRaw s p 2 (ctrlFrame (s.port p) nak)).modPort p fun x => { x with sinceAck := 0, owed := false }

/-! ## Replay and failure (10 R217 to R220) -/

/-- Every unacknowledged frame sent again in order. -/
def replayAll (s : State) (p : PortId) : State :=
  let fs := (s.port p).unacked
  let s1 := s.modPort p fun x => { x with unacked := x.unacked.map fun f => { f with replayed := true } }
  s1.each fs fun t f => sendRaw t p 1 f.bytes

/-- PORT_RETRAIN and its kin carry PORT_STATUS. -/
def portEvent (s : State) (p : PortId) (base d1 : Nat) : State :=
  raiseOn s (portDie p) (base + p.val % 3) (s.port p).status d1

/-- The port enters RETRAINING from UP, or DOWN when it has done so too often within a second. The second part is whether
it went DOWN, whose frames the caller fails (10 R219). -/
def enterRetraining (s : State) (p : PortId) (cause : Nat) : State × Bool :=
  if (s.port p).st != .up then (s, false)
  else
    let s1 := s.modPort p fun x => { x with
      st := .retraining, lastCause := cause, retrains := (x.retrains + 1) % 256, remeasuring := false, probes := []
      measured := [], retrainAt := s.now :: x.retrainAt.filter (fun t => s.now < t + cyclesOfMs 1000) }
    let s2 := portEvent s1 p 22 0
    if s2.obj 0x260003 < (s2.port p).retrainAt.length then
      (portEvent (s2.modPort p fun x => { x with st := .down, lastCause := 6 }) p 19 0, true)
    else (s2, false)

/-- The limit of a violation class (10 Table 10.5); none never retrains. -/
def violationLimit (c : Nat) : Option Nat :=
  match c with
  | 1 => some 16 | 2 => some 4 | 3 => some 64 | 4 => some 4 | 5 => some 4 | _ => none

/-- A partner violation of a class (10 R221). The second part is whether the port went DOWN. -/
def violation (s : State) (p : PortId) (c : Nat) : State × Bool :=
  let fresh := match (s.port p).violAt with
    | none => true
    | some t => t + cyclesOfMs 1 ≤ s.now
  let s1 := (s.bump (kPort p 5)).modPort p fun x =>
    { x with viols := (c, s.now) :: x.viols.filter fun v => s.now < v.2 + cyclesOfMs 1 }
  let s2 := if fresh then (portEvent s1 p 28 c).modPort p fun x => { x with violAt := some s.now } else s1
  match violationLimit c with
  | none => (s2, false)
  | some k =>
    if ((s2.port p).viols.filter (·.1 == c)).length < k then (s2, false)
    else enterRetraining (s2.modPort p fun x => { x with viols := x.viols.filter (·.1 != c) }) p 3

/-- A CTRL frame with NAK, and DATA frames are discarded until the awaited one (10 R217). -/
def nakFrame (s : State) (p : PortId) : State :=
  (sendCtrl s p true).modPort p fun x => { x with discarding := true }

/-- A frame in error, counted (10 R217). -/
def frameInError (s : State) (p : PortId) : State := nakFrame (s.bump (kPort p 2)) p

/-! ## Receive buffers and credit (10 R216) -/

/-- Frame `i` of a port's receive buffer of a VC is taken and its credit freed. -/
def takeRx (s : State) (p : PortId) (vc i : Nat) : State :=
  s.modPort p fun x =>
    match (vcAt x.rx vc)[i]? with
    | none => x
    | some f =>
      let rest := (vcAt x.rx vc).eraseIdx i
      if f.epoch = x.epoch then
        { x with rx := vcSet x.rx vc rest, owed := true
                 freed := vcSet x.freed vc ((vcAt x.freed vc + frameUnits f.payload) % 65536) }
      else { x with rx := vcSet x.rx vc rest }

/-- Credit of a forwarded frame freed on the port it came by, in the epoch of its arrival, once it has left (11 R242). -/
def freeCredit (s : State) (a : Nat × Nat) (vc units : Nat) : State :=
  s.modPort (portFin a.1) fun x =>
    if a.2 = x.epoch then { x with freed := vcSet x.freed vc ((vcAt x.freed vc + units) % 65536), owed := true } else x

/-! ## Routing (11 R241) -/

/-- ROUTE_p. -/
def State.routeOf (s : State) (dest : Nat) : Nat := kvGet 0 s.fabric.route dest

/-- The ports of a route entry; none of an invalid one. -/
def routePorts (e : Nat) : List Nat :=
  let ps := (List.range (fld e 20 2 + 1)).map fun i => fld e (5 * i) 5
  if bitAt e 31 && ps.all (· < 24) then ps else []

/-- The ports that may carry a frame to a destination. -/
def livePorts (s : State) (dest : Nat) : List PortId :=
  ((routePorts (s.routeOf dest)).map portFin).filter fun p => (s.port p).carries

/-- A frame put on the queue of the port it leaves by; frame `i` of its chunk takes the (i mod N)-th live port. It
crosses the bridges from its unit's die. -/
def queueFrame (s : State) (d : DieId) (vc i : Nat) (f : OutFrame) : Option State :=
  match (livePorts s f.dest)[i % (livePorts s f.dest).length]? with
  | none => none
  | some p =>
    let s1 := countPath s d (portDie p) (16 + f.payload.length)
    some (s1.modPort p fun x => { x with outq := vcSet x.outq vc (vcAt x.outq vc ++ [f]) })

/-- A frame that cannot be routed: counted, reported, and flagged. -/
def unroutable (s : State) (d : DieId) (dest : Nat) : State :=
  raiseFlags (raiseOn (s.bump 0x663005) d 32 dest (s.run.frame % 2 ^ 32)) flagExchange

/-! ## Sending DATA frames (10 R216, R217) -/

/-- Units of a VC sent and not freed by the partner, as the cumulative counts compare by 02 R43; below zero when the partner
has freed more than was sent. -/
def outstanding (x : Port) (vc : Nat) : Int := sgn 16 (distMod 16 (vcAt x.sent vc) (vcAt x.credit vc))

/-- Bytes in the replay buffer. -/
def replayBytes (x : Port) : Nat := sumOf (x.unacked.map (·.bytes.length))

/-- Is a frame addressed to a partner in a compute reset while this package is in one too: such a frame does not move
(10 R219). -/
def heldForReset (x : Port) (f : OutFrame) : Bool :=
  x.st == .quiescent && x.partnerQuiescent && (x.partner.map (·.1)) == some f.dest

/-- May the port send this frame of a VC now. -/
def maySend (x : Port) (vc : Nat) (f : OutFrame) : Bool :=
  x.carries && !x.awaitCtrl && !heldForReset x f && outstanding x vc + frameUnits f.payload ≤ 8192 && x.unacked.length < 2047
    && replayBytes x + 16 + f.payload.length ≤ 2 ^ 18

/-- A DATA frame sent: numbered, kept for replay, counted, and put on the line. -/
def sendData (s : State) (p : PortId) (vc : Nat) (f : OutFrame) : State :=
  let x := s.port p
  let bs := mkFrame 1 vc x.txSeq f.dest f.addr f.tag f.payload
  let s1 := s.modPort p fun y => { y with
    txSeq := (y.txSeq + 1) % 4096
    unacked := y.unacked ++ [⟨x.txSeq, vc, bs, f.owner, false⟩]
    sent := vcSet y.sent vc ((vcAt y.sent vc + frameUnits f.payload) % 65536)
    outq := vcSet y.outq vc ((vcAt y.outq vc).drop 1) }
  let s2 := countBytes (s1.bumpBy (kPort p 7) bs.length) 3 (2 * p.val) bs.length
  let s3 := sendRaw s2 p 1 bs
  match f.arrival with
  | some a => freeCredit s3 a vc (frameUnits f.payload)
  | none => s3

/-! ## Groups (11 R239) -/

/-- TOPO_STAGE_n_s as written. -/
def State.stageReg (s : State) (n k : Nat) : Nat := kvGet 0 s.fabric.stage (4 * n + k)

/-- The members of a stage, in ring order. -/
def stageIds (s : State) (n k : Nat) : List Nat :=
  (List.range (fld (s.stageReg n k) 32 7)).map fun i =>
    fld (kvGet 0 s.fabric.members ((4 * n + k) * 16 + i / 4)) (16 * (i % 4)) 16

/-- EN, with a SIZE from 1 to 64 (to 8 for a LOCAL stage). -/
def stageEn (s : State) (n k : Nat) : Bool :=
  let r := s.stageReg n k
  bitAt r 63 && 1 ≤ fld r 32 7 && fld r 32 7 ≤ 64

/-- LOCAL. -/
def stageLocal (s : State) (n k : Nat) : Bool := bitAt (s.stageReg n k) 62

/-- How often a value occurs. -/
def countOf (l : List Nat) (a : Nat) : Nat := (l.filter (· == a)).length

/-- MEMBER (11 Table 11.8): this package once, or no die twice in a LOCAL stage. -/
def stageMember (s : State) (n k : Nat) : Bool :=
  let ids := stageIds s n k
  if stageLocal s n k then ids.all (fun a => countOf ids a == 1)
  else countOf ids (s.obj kPackageId) == 1

/-- The name under which a die of this package stands in a stage. -/
def stageSelf (s : State) (n k : Nat) (d : DieId) : Nat := if stageLocal s n k then d.val else s.obj kPackageId

/-- May a die use a stage. -/
def stageUsable (s : State) (n k : Nat) (d : DieId) : Bool :=
  stageEn s n k && stageMember s n k && countOf (stageIds s n k) (stageSelf s n k d) == 1
    && (!stageLocal s n k || (stageIds s n k).all (· < 8))

/-- The rank of a die's member in a stage. -/
def stageRank (s : State) (n k : Nat) (d : DieId) : Nat :=
  (indexOf? (· == stageSelf s n k d) (stageIds s n k)).getD 0

/-- The stages that a STAGES field names, ascending. -/
def stagesOf (mask : Nat) : List Nat := onesOf 4 mask

/-- The group size of a table's stages. -/
def groupSize (s : State) (n mask : Nat) : Nat :=
  (stagesOf mask).foldl (fun acc k => acc * (stageIds s n k).length) 1

/-- The group rank of a die. -/
def groupRank (s : State) (n mask : Nat) (d : DieId) : Nat :=
  (stagesOf mask).foldl (fun acc k => acc * (stageIds s n k).length + stageRank s n k d) 0

/-- The ranks per stage of a group rank, in ascending stages. -/
def rankDigits (s : State) (n mask g : Nat) : List (Nat × Nat) :=
  ((stagesOf mask).reverse.foldl (fun (acc : List (Nat × Nat) × Nat) k =>
    let m := (stageIds s n k).length
    ((k, acc.2 % max m 1) :: acc.1, acc.2 / max m 1)) ([], g)).1

/-- The package of a group rank: a table lists only the members that differ from this package in one stage, and the
identifiers of the others follow from the same differences. -/
def memberPackage (s : State) (n mask g : Nat) (d : DieId) : Nat :=
  let own := s.obj kPackageId
  (rankDigits s n mask g).foldl (fun acc p =>
    if stageLocal s n p.1 then acc
    else (acc + (stageIds s n p.1).getD p.2 own + 65536 - (stageIds s n p.1).getD (stageRank s n p.1 d) own) % 65536) own

/-- The die of a group rank: the sender's own number, or the member of a LOCAL stage. -/
def memberDie (s : State) (n mask g : Nat) (d : DieId) : Nat :=
  (rankDigits s n mask g).foldl (fun acc p =>
    if stageLocal s n p.1 then (stageIds s n p.1).getD p.2 d.val else acc) d.val

end Sys2Proof.Machine
end

