-- ==== Sys2Proof/Machine/Coll.lean ====
section
/-!
DEFINITION. Machine/Coll.lean: collective operations: the descriptor and its checks, rings over stages, the reduction
order, completion and failure (11 R235 to R251, R482).
-/
namespace Sys2Proof.Machine

/-! ## The descriptor (11 Table 11.1) -/

/-- A collective descriptor. -/
structure CollDesc where
  op : Nat
  wire : Nat
  srcFmt : Nat
  dstFmt : Nat
  zr : Bool
  nf : Bool
  toCirrus : Bool
  wrap : Bool
  map : Bool
  segLog2 : Nat
  topo : Nat
  stages : Nat
  id : Nat
  arg : Nat
  src : Nat × Nat
  dst : Nat × Nat
  count : Nat
  outMap : Nat × Nat
  inMap : Nat × Nat
  outEntries : Nat
  inEntries : Nat
  recEn : Bool
  recAt : Nat × Nat
  deriving DecidableEq, Repr

/-- The descriptor that 128 bytes hold. -/
def collOf (b : List Byte) : CollDesc :=
  let fl := leAt b 4 1
  ⟨leAt b 0 1, leAt b 1 1, leAt b 2 1, leAt b 3 1, bitAt fl 0, bitAt fl 1, bitAt fl 2, bitAt fl 3, bitAt fl 4,
    leAt b 5 1, leAt b 6 1, leAt b 7 1, leAt b 8 2, leAt b 0xA 2, locOf (leAt b 0x10 8), locOf (leAt b 0x18 8),
    leAt b 0x20 8, locOf (leAt b 0x28 8), locOf (leAt b 0x30 8), leAt b 0x38 4, leAt b 0x3C 4,
    bitAt (leAt b 0x40 8) 63, locOf (leAt b 0x40 8)⟩

/-- Is the operation a reduction. -/
def CollDesc.reduces (x : CollDesc) : Bool := x.op == 1 || x.op == 2

/-- Bytes of an element of a format code of Table 11.1. -/
def collFmtBytes (f : Nat) : Nat := if f = 1 then 4 else 2

/-- The fields that must be zero, and the coded fields (11 Table 11.1). -/
def collFieldsOk (b : List Byte) (x : CollDesc) : Bool :=
  let fmtOk (f : Nat) := f == 1 || f == 2 || f == 3
  x.op ≤ 5 && leAt b 4 1 / 32 == 0 && x.topo ≤ 15 && x.stages / 16 == 0 && leAt b 0xC 4 == 0
    && leAt b 0x17 1 == 0 && leAt b 0x1F 1 == 0 && leAt b 0x2F 1 == 0 && leAt b 0x37 1 == 0
    && fld (leAt b 0x40 8) 56 7 == 0 && allZero (bytesAt b 0x48 56)
    && (if x.reduces then x.wire ≤ 1 && fmtOk x.srcFmt && (x.toCirrus || fmtOk x.dstFmt)
        else x.wire == 0 && x.srcFmt == 0 && x.dstFmt == 0)
    && (x.op == 5 || (9 ≤ x.segLog2 && x.segLog2 ≤ 24))
    && (x.op == 3 || x.op == 4 || x.arg == 0)
    && (x.op == 5 || (leAt b 0x28 8 == 0 && leAt b 0x30 8 == 0 && x.outEntries == 0 && x.inEntries == 0))
    && (!x.toCirrus || leAt b 0x18 8 == 0)

/-- The group of a descriptor issued on a die. -/
def CollDesc.group (x : CollDesc) (s : State) : Nat := groupSize s x.topo x.stages

/-- Bytes of SRC. -/
def CollDesc.srcBytes (x : CollDesc) : Nat := if x.reduces then x.count * collFmtBytes x.srcFmt else x.count

/-- Bytes of DST (of the FP32 values handed to Cirrus under TO_CIRRUS). -/
def CollDesc.dstBytes (x : CollDesc) (s : State) : Nat :=
  match x.op with
  | 0 => x.group s * x.count
  | 1 => x.count / x.group s * (if x.toCirrus then 4 else collFmtBytes x.dstFmt)
  | 2 => x.count * collFmtBytes x.dstFmt
  | _ => x.count

/-- NEIGHBOUR: the stage and the signed offset. -/
def CollDesc.nbStage (x : CollDesc) : Nat := x.arg % 256
/-- NEIGHBOUR's offset. -/
def CollDesc.nbOffset (x : CollDesc) : Int := sgn 8 (x.arg / 256)

/-- A flat range of memory. -/
def flatExt (l : Nat × Nat) (n : Nat) : Ext := ⟨l.1, l.2, n, 0, 0, 0, 0⟩

/-- The range of SRC that is checked at issue: PERMUTE names its ranges through the maps, so its place alone. -/
def CollDesc.srcExt (x : CollDesc) : Ext := flatExt x.src (if x.op = 5 then 0 else x.srcBytes)

/-- The range of DST that is checked at issue. -/
def CollDesc.dstExt (x : CollDesc) (s : State) : Ext := flatExt x.dst (if x.op = 5 then 0 else x.dstBytes s)

/-- Does this member read SRC: of a BROADCAST the root alone. -/
def CollDesc.readsSrc (x : CollDesc) (s : State) (d : DieId) : Bool :=
  x.op != 3 || groupRank s x.topo x.stages d == x.arg

/-- The operand rules of R238. -/
def collLegal (s : State) (c : CoreId) (b : List Byte) (x : CollDesc) : Bool :=
  let d := dieOf c
  collFieldsOk b x && x.stages != 0 && (stagesOf x.stages).all (fun k => stageUsable s x.topo k d)
    && (x.op != 4 || (x.nbStage ≤ 3 && x.stages == 2 ^ x.nbStage))
    && (!x.reduces || x.count % x.group s == 0)
    && (x.op != 3 || x.arg < x.group s)
    && (!x.toCirrus || (x.op == 1 && s.isUpdateFrame))
    && (x.toCirrus || x.op == 5 || x.count == 0 || !extsMeet s x.srcExt (x.dstExt s))

/-- The number of segments (11 R250). -/
def CollDesc.segments (x : CollDesc) (s : State) : Nat :=
  if x.op = 5 then x.inEntries else cdiv (x.dstBytes s) (2 ^ x.segLog2)

/-- Does a descriptor name bytes of SRC and DST: a PERMUTE always, another when COUNT is not 0. -/
def CollDesc.moves (x : CollDesc) : Bool := x.op == 5 || x.count != 0

/-- The checks of a collective descriptor at issue (11 R238). -/
def collTrap (s : State) (c : CoreId) (b : List Byte) : Option TrapInfo :=
  let x := collOf b
  if !collLegal s c b x then some illegal
  else lowestTrap ((if x.moves then checkExt s c x.srcExt 0xF0 false [1, 2, 3] else [])
    ++ (if !x.toCirrus && x.moves then checkExt s c (x.dstExt s) 0xF1 true [1, 2, 3] else [])
    ++ (if x.op = 5 && x.outEntries != 0 then checkExt s c (flatExt x.outMap (32 * x.outEntries)) 0xF2 false anyKind else [])
    ++ (if x.op = 5 && x.inEntries != 0 then checkExt s c (flatExt x.inMap (32 * x.inEntries)) 0xF3 false anyKind else [])
    ++ (if x.recEn then checkRecord s c x.recAt.1 x.recAt.2 (recordSpace x.map (x.segments s)) 0xF4 else []))

/-- COLL: a collective descriptor read at issue and placed in the COLL queue (11 R237). -/
def execColl (core : CoreId) (h : Hdr) (f : BitVec 51) (s : State) : Result :=
  .next (issueDesc s core 0x50 1 h f (ff f 49 2 == 0) 7 128 0 0 0)

/-! ## Units of a die -/

/-- The exchange units of a die. -/
def State.unit (s : State) (d : DieId) : DieUnits := s.units[d]

/-- The exchange units of a die changed. -/
def State.modUnit (s : State) (d : DieId) (f : DieUnits → DieUnits) : State := { s with units := vmod s.units d f }

/-- The collectives of a die changed. -/
def modColl (s : State) (d : DieId) (f : CollEngine → CollEngine) : State :=
  s.modUnit d fun u => { u with coll := f u.coll }

/-- A collective in progress. -/
def collRunAt (s : State) (d : DieId) (i : Nat) : Option CollRun := (s.unit d).coll.runs[i]?

/-- A collective changed. -/
def modRun (s : State) (d : DieId) (i : Nat) (f : CollRun → CollRun) : State :=
  modColl s d fun e => { e with runs := modAt e.runs i f }

/-! ## Moving data -/

/-- Bytes of memory as the engine holds them: none is poison. -/
def loadOpt (s : State) (c : CoreId) (seg off n : Nat) : List (Option Byte) × State :=
  let l := moverLoad s c (placeOf s seg) off n 2 .good
  (l.bytes.zipIdx.map fun p => if bitAt l.bad p.2 then none else some p.1, l.s)

/-- The bytes behind optional ones, with the poisoned ones as a mask. -/
def optBytes (bs : List (Option Byte)) : List Byte := bs.map fun b => b.getD 0#8

/-- The mask of the poisoned bytes. -/
def optBad (bs : List (Option Byte)) : Nat :=
  bs.zipIdx.foldl (fun acc p => if p.1.isNone then acc + 2 ^ p.2 else acc) 0

/-- Bytes stored, the poisoned ones as poison. -/
def storeOpt (s : State) (c : CoreId) (seg off : Nat) (bs : List (Option Byte)) : State :=
  if bs.isEmpty then s
  else
    let g := placeOf s seg
    poisonRuns (moverStore s c g off (optBytes bs) 2) c g off bs.length (optBad bs) 2

/-- Values from bytes of a format of Table 11.1. -/
def optVals (fmt : Nat) : Nat → List (Option Byte) → List (Option F32)
  | 0, _ => []
  | n + 1, bs =>
    let w := collFmtBytes fmt
    let e := bs.take w
    (if e.any (·.isNone) then none
     else some (toF32 (decodeElem ((formatOf fmt).getD ⟨.fp32, false⟩) (leNat (optBytes e))))) :: optVals fmt n (bs.drop w)

/-- A value converted into a format with round to nearest even: its bytes. -/
def convBytes (fmt : Nat) (v : Option F32) : List (Option Byte) :=
  let w := collFmtBytes fmt
  match v with
  | none => List.replicate w none
  | some x => (leBytes w (convElem ((formatOf fmt).getD ⟨.fp32, false⟩) .rne (valOf x)).bits).map some

/-- Values converted into a format. -/
def valsBytes (fmt : Nat) (vs : List (Option F32)) : List (Option Byte) := (vs.map (convBytes fmt)).flatten

/-- Does a value have NONFINITE status in a format (11 R245). -/
def valNonfinite (fmt : Nat) (v : Option F32) : Bool :=
  match v with
  | none => false
  | some x => (valOf x).isFin == false
      || (decodeElem ((formatOf fmt).getD ⟨.fp32, false⟩)
            (convElem ((formatOf fmt).getD ⟨.fp32, false⟩) .rne (valOf x)).bits).isFin == false

/-- The format code of a WIRE or REP_FORMAT value: 0 FP16, 1 FP32. -/
def wireFmt (w : Nat) : Nat := if w = 1 then 1 else 2

/-! ## Frames of a collective (11 Table 11.3) -/

/-- A collective sub-header. -/
structure CollHead where
  frame : Nat
  id : Nat
  die : Nat
  stage : Nat
  poison : Bool
  zero : Bool
  step : Nat
  rank : Nat
  offset : Nat

/-- The sub-header of a frame's payload. -/
def collHead (b : List Byte) : CollHead :=
  let st := leAt b 7 1
  ⟨leAt b 0 4, leAt b 4 2, leAt b 6 1, st % 4, bitAt st 2, st / 8 == 0, leAt b 8 1, leAt b 9 1, leAt b 0xA 6⟩

/-- A sub-header's bytes. -/
def collHeadBytes (frame id die stage step rank offset : Nat) (poison : Bool) : List Byte :=
  leBytes 4 frame ++ leBytes 2 id ++ leBytes 1 die ++ leBytes 1 (stage % 4 + poison.toNat * 4) ++ leBytes 1 step
    ++ leBytes 1 rank ++ leBytes 6 offset

/-- Where one piece of a chunk goes: the die or package, the receiving die, the stage and step it carries, the sender's
rank, and the chunk as the owner names it. -/
structure CollDest where
  isLocal : Bool
  target : Nat
  die : Nat
  stage : Nat
  step : Nat
  rank : Nat
  lo : Nat
  hi : Nat

/-- The chunk of a destination as one number: its DST range. -/
def CollDest.chunk (t : CollDest) : Nat := t.lo * 2 ^ 64 + t.hi

/-- One frame of a collective sent: over the bridges to a die, or by a port. The second part is whether it could be
sent. -/
def sendPiece (s : State) (d : DieId) (r : CollRun) (t : CollDest) (i offset : Nat) (data : List Byte) (poison : Bool) :
    State × Bool :=
  let pl := pad16 (collHeadBytes r.frame r.id t.die t.stage t.step t.rank offset poison ++ data)
  if t.isLocal then
    let s1 := countPath s d (dieFin t.target) (16 + pl.length)
    (modColl s1 (dieFin t.target) fun e => { e with inbox := e.inbox ++ [⟨d.val, pl⟩] }, true)
  else match queueFrame s d 0 i ⟨t.target, 0, r.id, pl, .coll d.val r.frame r.id t.chunk, none⟩ with
    | some s1 => (s1, true)
    | none => (unroutable s d t.target, false)

/-- Data cut into frames of at most 496 bytes. -/
def cut496 (n : Nat) : List (Nat × Nat) :=
  (List.range (cdiv n 496)).map fun i => (496 * i, min 496 (n - 496 * i))

/-- The OFFSET of an encoded frame that starts at encoded byte `k`: the raw offset of the 256-byte piece whose encoding
holds it. -/
def zrRawOffset : Nat → List Byte → Nat → Nat
  | 0, _, _ => 0
  | n + 1, bs, k =>
    let len := 8 + 4 * popBits 64 (leAt bs 0 8)
    if k < len then 0 else 256 + zrRawOffset n (bs.drop len) (k - len)

/-- Zero-run rows written or read, counted (07 R158). -/
def countZr (s : State) (raw enc : Nat) : State := (s.bumpBy 0x620305 raw).bumpBy 0x620306 enc

/-- A chunk, or a piece of one from byte `off`, sent in frames from frame number `i` of the chunk; `at'` is the OFFSET of the
chunk's first byte. A chunk in zero-run form is encoded whole. -/
def sendChunk (s : State) (d : DieId) (r : CollRun) (t : CollDest) (at' off : Nat) (bs : List (Option Byte)) : State × Bool :=
  if (collOf r.desc).zr then
    let enc := zrRow (optBytes bs)
    let bad := bs.any (·.isNone)
    (cut496 enc.length).foldl (fun acc p =>
      let o := sendPiece acc.1 d r t (p.1 / 496) (at' + off + zrRawOffset (cdiv bs.length 256) enc p.1) (bytesAt enc p.1 p.2) bad
      (o.1, acc.2 && o.2)) (countZr s bs.length enc.length, true)
  else
    (cut496 bs.length).foldl (fun acc p =>
      let part := (bs.drop p.1).take p.2
      let o := sendPiece acc.1 d r t ((off + p.1) / 496) (at' + off + p.1) (optBytes part) (part.any (·.isNone))
      (o.1, acc.2 && o.2)) (s, true)

/-! ## Segments (11 R250) -/

/-- The segment bytes of a run's segment `k`. -/
def collSegSize (s : State) (x : CollDesc) (k : Nat) : Nat :=
  min (x.dstBytes s) ((k + 1) * 2 ^ x.segLog2) - k * 2 ^ x.segLog2

/-- Bytes `[off, off + n)` of the destination have arrived: each segment loses what is missing of it, and takes code 1
from poison. A segment that already failed keeps its code. -/
def markSegs (segLog2 : Nat) (segs : List (Nat × Nat)) (off n : Nat) (bad : Bool) : List (Nat × Nat) :=
  segs.zipIdx.map fun p =>
    let lo := max off (p.2 * 2 ^ segLog2)
    let hi := min (off + n) ((p.2 + 1) * 2 ^ segLog2)
    if hi ≤ lo || 2 ≤ p.1.2 then p.1 else (p.1.1 - (hi - lo), if bad then 1 else p.1.2)

/-! ### Scratchpad banks (03 R60, R61) -/

/-- The gate of an engine's access to scratchpad, made under the owner code DMA. An engine accepts an instruction only when no
earlier handover of the banks it reaches is pending, so no access of its waits (03 R61). -/
def dmaBanksOk (s : State) (c : CoreId) (seg off n seq : Nat) : Gate :=
  bankGate (s.core c) 4 seq (rangeBanks s seg off n)

/-- Poison of a range, but in the scratchpad banks that DMA may not reach, where an access writes nothing (03 R60). -/
def poisonOpen (s : State) (c : CoreId) (seg off n : Nat) : State :=
  let g := placeOf s seg
  if g.kind = 1 then
    ((banksOf (g.base + off) n).filter fun b => mayAccess (s.core c) 4 b).foldl (fun t b =>
      let lo := max (g.base + off) (b * 2 ^ 21)
      poisonScratch t c lo (min (g.base + off + n) ((b + 1) * 2 ^ 21) - lo)) s
  else moverPoison s c g off n 2

/-- Poison of a destination range of a collective. -/
def poisonDst (s : State) (d : DieId) (i : Nat) (off n : Nat) : State :=
  match collRunAt s d i with
  | none => s
  | some r =>
    let x := collOf r.desc
    if x.toCirrus || n = 0 then s else poisonOpen s (coreFin r.core) x.dst.1 off n

/-! ### PERMUTE's maps (11 Table 11.4) -/

/-- The entries of a map from its bytes and their poison mask; none is an entry that holds poison, from which nothing is
taken (09 R200). -/
def permEntries (l : Load) (n : Nat) : List (Option PermRange) :=
  (List.range n).map fun k =>
    if l.bad / 2 ^ (32 * k) % 2 ^ 32 != 0 then none
    else some ⟨leAt l.bytes (32 * k) 2, leAt l.bytes (32 * k + 8) 8, leAt l.bytes (32 * k + 16) 8, leAt l.bytes (32 * k + 24) 8⟩

/-- A map read: its entries. A map in a bank that DMA may not reach traps the issuing core, and is not read. -/
def readMap (s : State) (c : CoreId) (l : Nat × Nat) (n seq pc : Nat) : List (Option PermRange) × State :=
  match dmaBanksOk s c l.1 l.2 (32 * n) seq with
  | .trap t => (List.replicate n none, trapCore s c t 7 pc)
  | _ =>
    let m := moverLoad s c (placeOf s l.1) l.2 (32 * n) 2 .good
    (permEntries m n, m.s)

/-- Bytes of a range of PERMUTE that lie within a segment. -/
def insideBytes (s : State) (seg off n : Nat) : Nat :=
  match s.seg seg with
  | some g => min n (g.bytes - off)
  | none => 0

/-- May a range of PERMUTE be written or read: it lies within its segment, and into scratchpad it is made of aligned words
(03 R53, R54). -/
def rangeOk (s : State) (seg off n : Nat) (write : Bool) : Bool :=
  insideBytes s seg off n == n && (!write || segKind s seg != 1 || (off % 4 == 0 && n % 4 == 0))

/-! ### Outcomes of segments -/

/-- Incoming entry `k` of a run. -/
def CollRun.entry (r : CollRun) (k : Nat) : Option PermRange := (r.inMap[k]?).join

/-- The destination of segment `k` within DST's segment: offset and bytes. -/
def collSegDst (s : State) (r : CollRun) (k : Nat) : Nat × Nat :=
  let x := collOf r.desc
  if x.op = 5 then match r.entry k with
    | some e => (e.offset, insideBytes s x.dst.1 e.offset e.bytes)
    | none => (0, 0)
  else (x.dst.2 + k * 2 ^ x.segLog2, collSegSize s x k)

/-- Every segment not complete takes a code and is poisoned. `sel` chooses among them. -/
def failSegs (s : State) (d : DieId) (i code : Nat) (sel : Nat → Bool) : State :=
  match collRunAt s d i with
  | none => s
  | some r =>
    let ks := (List.range r.segs.length).filter fun k =>
      sel k && (r.segs.getD k (0, 0)).1 != 0 && (r.segs.getD k (0, 0)).2 < 2
    let s1 := s.each ks fun t k => poisonDst t d i (collSegDst t r k).1 (collSegDst t r k).2
    modRun s1 d i fun q => { q with
      segs := q.segs.zipIdx.map fun p => if ks.contains p.2 then (p.1.1, code) else p.1 }

/-- Does segment `k` meet the DST bytes `[lo, hi)`. -/
def segMeets (x : CollDesc) (lo hi k : Nat) : Bool := lo < (k + 1) * 2 ^ x.segLog2 && k * 2 ^ x.segLog2 < hi

/-- A chunk that could not be sent: the member's own segments whose result depended on it fail with code 3
(11 R250); of a feeding collective, the combination of the segment has failed (14 R324). -/
def chunkLost (s : State) (d : DieId) (i lo hi : Nat) : State :=
  match collRunAt s d i with
  | none => s
  | some r =>
    let x := collOf r.desc
    let s1 := failSegs s d i 3 fun k => x.op != 5 && segMeets x lo hi k
    raiseFlags (modRun s1 d i fun q => { q with
      repMissed := if x.toCirrus && lo < hi then (lo / 4, hi / 4) :: q.repMissed else q.repMissed }) flagExchange

/-- A chunk sent, with the loss noted. -/
def sendOrLose (s : State) (d : DieId) (i : Nat) (t : CollDest) (at' off : Nat) (bs : List (Option Byte)) : State :=
  match collRunAt s d i with
  | none => s
  | some r =>
    let o := sendChunk s d r t at' off bs
    if o.2 then o.1 else chunkLost o.1 d i t.lo t.hi

/-- Bytes of the destination written at `off` of DST, and the segments that hold them brought up to date. A segment that has
failed stays poison. -/
def writeDst (s : State) (d : DieId) (i off : Nat) (bs : List (Option Byte)) : State :=
  match collRunAt s d i with
  | none => s
  | some r =>
    let x := collOf r.desc
    let c := coreFin r.core
    match dmaBanksOk s c x.dst.1 (x.dst.2 + off) bs.length r.seq with
    | .trap t => failSegs (trapCore s c t 7 r.pc) d i 4 (segMeets x off (off + bs.length))
    | _ =>
      let kept := bs.zipIdx.map fun p => if 2 ≤ (r.segs.getD ((off + p.2) / 2 ^ x.segLog2) (0, 0)).2 then none else p.1
      modRun (storeOpt s c x.dst.1 (x.dst.2 + off) kept) d i fun q =>
        { q with segs := markSegs x.segLog2 q.segs off bs.length (bs.any (·.isNone)) }

/-! ## Rings -/

/-- The first element of chunk `j` of `m` elements over `n` members. -/
def chunkLo (m n j : Nat) : Nat := j * m / n

/-- The elements of chunk `j`. -/
def chunkVals (vs : List (Option F32)) (n j : Nat) : List (Option F32) :=
  (vs.drop (chunkLo vs.length n j)).take (chunkLo vs.length n (j + 1) - chunkLo vs.length n j)

/-- The chunk that rank `r` sends at ring step `t` of a reduction; it receives that of step t + 1. -/
def reduceChunk (n r t : Nat) : Nat := (r + 2 * n - 1 - t % n) % n

/-- The block that rank `r` sends at ring step `t` of a gather; it receives that of step t + 1. -/
def gatherBlock (n r t : Nat) : Nat := (r + n - t % n) % n

/-- The first byte of block `j` in the span of a gather. A replica phase gathers the chunks of its reduction, whose
`size` counts elements of `w` bytes. -/
def CollPhase.lo (p : CollPhase) (w j : Nat) : Nat := if p.replica then chunkLo p.size p.n j * w else j * p.size

/-- The bytes of block `j` of a gather. -/
def CollPhase.block' (p : CollPhase) (w j : Nat) : Nat := p.lo w (j + 1) - p.lo w j

/-- The next member of a phase's ring, for a die's frame that carries a step and the DST range which depends on its chunk. -/
def CollPhase.dest (p : CollPhase) (d : DieId) (step lo hi : Nat) : CollDest :=
  let m := p.ids.getD ((p.rank + 1) % max p.n 1) 0
  ⟨p.isLocal, m, if p.isLocal then m else d.val, p.stage, p.step0 + step, p.rank, lo, hi⟩

/-- The chunk that arrives at ring step `t` of a phase. -/
def CollPhase.incoming (p : CollPhase) (t : Nat) : Nat :=
  if p.reduce then reduceChunk p.n p.rank (t + 1) else gatherBlock p.n p.rank (t + 1)

/-- Bytes of chunk `j` of a phase on the wire. -/
def CollPhase.chunkBytes (p : CollPhase) (j : Nat) : Nat :=
  let w := collFmtBytes p.wire
  if p.reduce then (chunkLo p.size p.n (j + 1) - chunkLo p.size p.n j) * w else p.block' w j

/-- The DST byte range that depends on chunk `j` of a phase: of an ALL_REDUCE, and of a combination with the replicas. -/
def chunkDst (r : CollRun) (p : CollPhase) (j : Nat) : Nat × Nat :=
  let x := collOf r.desc
  if x.op = 2 && p.reduce && !p.replica then
    let w := collFmtBytes x.dstFmt
    ((p.base + chunkLo p.size p.n j) * w, (p.base + chunkLo p.size p.n (j + 1)) * w)
  else if p.replica then
    ((p.base + chunkLo p.size p.n j) * 4, (p.base + chunkLo p.size p.n (j + 1)) * 4)
  else (0, 0)

/-- Ranges without `[lo, hi)`. -/
def cutOut (gs : List (Nat × Nat)) (lo hi : Nat) : List (Nat × Nat) :=
  (gs.map fun g => [(g.1, min g.2 lo), (max g.1 hi, g.2)].filter fun h => h.1 < h.2).flatten

/-- Does a range meet one of the listed ranges. -/
def meetsAny (gs : List (Nat × Nat)) (lo hi : Nat) : Bool := gs.any fun g => max g.1 lo < min g.2 hi

/-- The whole of a range as a list of ranges. -/
def wholeRange (n : Nat) : List (Nat × Nat) := if n = 0 then [] else [(0, n)]

/-- A phase with nothing left to wait for, to send or to receive. -/
def CollPhase.ended (p : CollPhase) : Bool := p.gaps.isEmpty && p.unsent.isEmpty && p.due.isEmpty

/-- Phase `k` of a run. -/
def phaseAt (s : State) (d : DieId) (i k : Nat) : Option CollPhase :=
  match collRunAt s d i with
  | none => none
  | some r => r.phases[k]?

/-- Phase `k` of a run changed. -/
def modPhase (s : State) (d : DieId) (i k : Nat) (f : CollPhase → CollPhase) : State :=
  modRun s d i fun r => { r with phases := modAt r.phases k f }

/-- The first chunk of a phase as bytes on the wire. -/
def CollPhase.firstChunk (p : CollPhase) : List (Option Byte) :=
  if p.reduce then valsBytes p.wire (chunkVals p.vals p.n (reduceChunk p.n p.rank 0)) else p.block

/-- Is a piece of the first chunk here: its values, or its bytes. -/
def CollPhase.pieceHere (p : CollPhase) (off n : Nat) : Bool :=
  if p.reduce then
    let w := collFmtBytes p.wire
    let e := chunkLo p.size p.n (reduceChunk p.n p.rank 0)
    !meetsAny p.gaps (e + off / w) (e + cdiv (off + n) w)
  else !meetsAny p.gaps off (off + n)

/-- The pieces of a phase's first chunk that are here are sent (11 R482). -/
def sendReady (s : State) (d : DieId) (i k : Nat) : State :=
  match collRunAt s d i with
  | none => s
  | some r =>
    match r.phases[k]? with
    | none => s
    | some p =>
      let e := if p.reduce then chunkDst r p (reduceChunk p.n p.rank 0) else (0, 0)
      let go := p.unsent.filter fun u => p.pieceHere u.1 u.2
      let s1 := modPhase s d i k fun q => { q with unsent := q.unsent.filter fun u => !p.pieceHere u.1 u.2 }
      s1.each go fun t u => sendOrLose t d i (p.dest d 0 e.1 e.2) 0 u.1 ((p.firstChunk.drop u.1).take u.2)

/-- Bytes `[off, …)` of the own block of gather phase `k` are here: the pieces of the block that are whole go out, and the
block is part of the own block of the next gather (11 R246). -/
def gatherHere : Nat → State → DieId → Nat → Nat → Nat → List (Option Byte) → State
  | 0, s, _, _, _, _, _ => s
  | n + 1, s, d, i, k, off, bs =>
    match phaseAt s d i k with
    | none => s
    | some p =>
      let s1 := modPhase s d i k fun q => { q with
        block := q.block.take off ++ bs ++ q.block.drop (off + bs.length), gaps := cutOut q.gaps off (off + bs.length) }
      gatherHere n (sendReady s1 d i k) d i (k + 1) (p.lo (collFmtBytes p.wire) p.rank + off) bs

/-- Sums of a reduction as this member keeps them are final from element `lo` of its shard: they are converted and written, or
kept for Cirrus, and an ALL_REDUCE goes on with the gather (11 R245). An element that waited for a chunk that failed fails its
segment with code 2 (11 R250). -/
def sumsHere (s : State) (d : DieId) (i k lo : Nat) (vs : List (Option F32)) : State :=
  match collRunAt s d i with
  | none => s
  | some r =>
    let x := collOf r.desc
    let e := match r.phases[k - 1]? with
      | some p => p.base + chunkLo p.size p.n p.rank + lo
      | none => lo
    let fin := 2 ^ 8
    match (r.phases[k - 1]?).map (·.replica) with
    | some true =>
      let f := ((r.phases[k - 1]?).map (·.wire)).getD 1
      let bs := valsBytes f vs
      let out := optVals f vs.length bs
      let s1 := modRun s d i fun q => { q with
        shard := q.shard.take e ++ out ++ q.shard.drop (e + vs.length)
        repNonfinite := q.repNonfinite || vs.any (valNonfinite f) }
      gatherHere fin s1 d i k (lo * collFmtBytes f) bs
    | _ =>
      if x.toCirrus then
        let s1 := if meetsAny r.missed e (e + vs.length) then failSegs s d i 2 (segMeets x (lo * 4) ((lo + vs.length) * 4)) else s
        modRun s1 d i fun q => { q with
        shard := q.shard.take lo ++ vs ++ q.shard.drop (lo + vs.length), shardGaps := cutOut q.shardGaps lo (lo + vs.length)
        nonfinite := q.nonfinite || vs.any (valNonfinite 1) }
      else
        let w := collFmtBytes x.dstFmt
        let bs := valsBytes x.dstFmt vs
        let at' := (if x.op = 2 then e else lo) * w
        let s1 := modRun s d i fun q => { q with nonfinite := q.nonfinite || vs.any (valNonfinite x.dstFmt) }
        let s2 := if meetsAny r.missed e (e + vs.length) then failSegs s1 d i 2 (segMeets x at' (at' + bs.length)) else s1
        gatherHere fin (writeDst s2 d i at' bs) d i k (lo * w) bs

/-- Elements from `lo` of the input of phase `k` are here. The first chunk goes out piece by piece, and what a member of a
stage of one holds passes to the next phase (11 R244, R482). -/
def reduceHere : Nat → State → DieId → Nat → Nat → Nat → List (Option F32) → State
  | 0, s, _, _, _, _, _ => s
  | n + 1, s, d, i, k, lo, vs =>
    match phaseAt s d i k with
    | none => sumsHere s d i k lo vs
    | some p =>
      if !p.reduce then sumsHere s d i k lo vs
      else
        let s1 := modPhase s d i k fun q => { q with
          vals := q.vals.take lo ++ vs ++ q.vals.drop (lo + vs.length), gaps := cutOut q.gaps lo (lo + vs.length) }
        if p.n ≤ 1 then reduceHere n s1 d i (k + 1) lo vs else sendReady s1 d i k

/-! ## Acceptance (11 R235, R236) -/

/-- A stage as a phase of which nothing is here yet. -/
def mkPhase (s : State) (d : DieId) (topo k : Nat) (reduce replica zr : Bool) (step0 base size wire : Nat) : CollPhase :=
  let p : CollPhase := ⟨reduce, k, (stageIds s topo k).length, stageRank s topo k d, stageLocal s topo k, stageIds s topo k,
    step0, base, size, replica, wire, [], [], [], [], []⟩
  let own := p.block' (collFmtBytes wire) p.rank
  let first := if reduce then p.chunkBytes (reduceChunk p.n p.rank 0) else own
  { p with
    vals := if reduce then List.replicate size none else []
    block := if reduce then [] else List.replicate own none
    gaps := wholeRange (if reduce then size else own)
    unsent := if p.n ≤ 1 then [] else if zr then wholeRange first else cut496 first
    due := if p.n ≤ 1 then []
      else ((List.range (p.n - 1)).map fun t => (t, 0, p.chunkBytes (p.incoming t))).filter fun u => u.2.2 != 0 }

/-- The reduction phases over stages, ascending, of `m` elements from element `base`. -/
def reducePhases (s : State) (d : DieId) (topo : Nat) (replica zr : Bool) (step0 wire : Nat) :
    List Nat → Nat → Nat → List CollPhase
  | [], _, _ => []
  | k :: ks, base, m =>
    let p := mkPhase s d topo k true replica zr step0 base m wire
    p :: reducePhases s d topo replica zr step0 wire ks (base + chunkLo m p.n p.rank)
      (chunkLo m p.n (p.rank + 1) - chunkLo m p.n p.rank)

/-- The gather phases over stages given in descending order: each block is the span of the stage before. `g` is what
remains of the group rank, in blocks of `size` bytes. -/
def gatherPhases (s : State) (d : DieId) (topo : Nat) (zr after : Bool) :
    List Nat → Nat → Nat → List CollPhase
  | [], _, _ => []
  | k :: ks, g, size =>
    let n := (stageIds s topo k).length
    mkPhase s d topo k false false zr (if after then n - 1 else 0) (g / max n 1 * n * size) size 1
      :: gatherPhases s d topo zr after ks (g / max n 1) (n * size)

/-- The phases of a combination of `m` elements of a shard from element `base` with the replicas', in wire format `wire`: a
reduction over the stages, and the gather of its chunks over the same stages in descending order (14 R324). -/
def replicaPhases (s : State) (d : DieId) (topo stages wire base m : Nat) (zr : Bool) : List CollPhase :=
  let down := reducePhases s d topo true zr 128 wire (stagesOf stages) base m
  down ++ down.reverse.map fun p => mkPhase s d topo p.stage false true zr (128 + p.n - 1) p.base p.size wire

/-- The phases of a collective. -/
def collPhases (s : State) (d : DieId) (x : CollDesc) : List CollPhase :=
  let ks := stagesOf x.stages
  let g := groupRank s x.topo x.stages d
  let wire := wireFmt x.wire
  match x.op with
  | 0 => gatherPhases s d x.topo x.zr false ks.reverse g x.count
  | 1 => reducePhases s d x.topo false x.zr 0 wire ks 0 x.count
  | 2 => reducePhases s d x.topo false x.zr 0 wire ks 0 x.count
      ++ gatherPhases s d x.topo x.zr true ks.reverse g (x.count / x.group s * collFmtBytes x.dstFmt)
  | _ => []

/-- The rank this member receives from in a NEIGHBOUR, and the one it sends to; none outside the ring. -/
def nbPeer (x : CollDesc) (n r : Nat) (o : Int) : Option Nat :=
  let t : Int := (r : Int) + o
  if x.wrap then some (t % (max n 1 : Nat)).toNat else if 0 ≤ t && t < n then some t.toNat else none

/-- Does this member await data in its DST. -/
def CollDesc.awaits (x : CollDesc) (s : State) (d : DieId) : Bool :=
  x.op != 4 || (nbPeer x (stageIds s x.topo x.nbStage).length (stageRank s x.topo x.nbStage d) (-x.nbOffset)).isSome

/-- The segments of a fresh collective: of a PERMUTE, an entry that was read as poison, or whose range leaves DST's segment,
ends with code 3. -/
def collSegs (s : State) (d : DieId) (x : CollDesc) (inMap : List (Option PermRange)) : List (Nat × Nat) :=
  if !x.awaits s d then []
  else if x.op = 5 then inMap.map fun e => match e with
    | some e => (e.bytes, if rangeOk s x.dst.1 e.offset e.bytes true then 0 else 3)
    | none => (0, 3)
  else (List.range (x.segments s)).map fun k => (collSegSize s x k, 0)

/-- A fresh collective. -/
def freshColl (s : State) (d : DieId) (c : CoreId) (q : QInst) (b : List Byte) (inMap : List (Option PermRange)) : CollRun :=
  let x := collOf b
  let n := if x.toCirrus then x.count / x.group s else 0
  { core := c.val, seq := q.seq, pc := q.pc, frame := q.frame % 2 ^ 32, id := x.id, desc := b, phases := collPhases s d x
    parts := [], segs := collSegs s d x inMap, inMap := inMap, shard := List.replicate n none, shardGaps := wholeRange n
    handed := 0, missed := [], repMissed := [], nonfinite := false, repNonfinite := false, aborted := false
    duplicate := false }

/-- BROADCAST: the last used stage in which a member's rank differs from the root's; its ring position counted from the
root's (11 R246). -/
def bcastStage (s : State) (x : CollDesc) (d : DieId) : Option (Nat × Nat) :=
  let rs := rankDigits s x.topo x.stages x.arg
  let far := rs.filter fun p => stageRank s x.topo p.1 d != p.2
  match far.getLast? with
  | none => none
  | some p =>
    let n := (stageIds s x.topo p.1).length
    some (p.1, (stageRank s x.topo p.1 d + n - p.2) % max n 1)

/-- BROADCAST: the members a member passes the bytes on to: the next in the ring of its own stage, and the first of
every later stage. -/
def bcastNext (s : State) (x : CollDesc) (d : DieId) : List CollDest :=
  let go (k step : Nat) : CollDest :=
    let ids := stageIds s x.topo k
    let r := stageRank s x.topo k d
    let m := ids.getD ((r + 1) % max ids.length 1) 0
    ⟨stageLocal s x.topo k, m, if stageLocal s x.topo k then m else d.val, k, step, r, 0, 0⟩
  let start (k : Nat) : List CollDest := if 1 < (stageIds s x.topo k).length then [go k 0] else []
  match bcastStage s x d with
  | none => ((stagesOf x.stages).map start).flatten
  | some (k, dist) =>
    (if dist + 1 < (stageIds s x.topo k).length then [go k dist] else [])
      ++ (((stagesOf x.stages).filter (k < ·)).map start).flatten

/-- PERMUTE: bytes `[off, …)` of DST's segment, from a rank, written into incoming entry `k` as far as it covers them; an
entry that has failed takes nothing. -/
def permWrite (rank off : Nat) (bs : List (Option Byte)) (d : DieId) (i : Nat) (s : State) (k : Nat) : State :=
  match collRunAt s d i with
  | none => s
  | some r =>
    match r.entry k with
    | none => s
    | some e =>
      let lo := max off e.offset
      let hi := min (off + bs.length) (e.offset + e.bytes)
      if e.rank != rank || hi ≤ lo || 2 ≤ (r.segs.getD k (0, 0)).2 then s
      else
        let x := collOf r.desc
        let c := coreFin r.core
        let part := (bs.drop (lo - off)).take (hi - lo)
        match dmaBanksOk s c x.dst.1 lo part.length r.seq with
        | .trap t => failSegs (trapCore s c t 7 r.pc) d i 4 (· == k)
        | _ => modRun (storeOpt s c x.dst.1 lo part) d i fun q =>
            { q with segs := modAt q.segs k fun p => (p.1 - part.length, if part.any (·.isNone) then 1 else p.2) }

/-- Bytes of an incoming frame that some incoming entry of its rank covers, without a gap, from `off`; the padding behind the
last of them is at most 15 bytes, and the data ends at the first end of an entry among those (notes/assumptions/152.md). -/
def permSpan (m : List (Option PermRange)) (rank off n : Nat) : Nat :=
  let es := m.filterMap id |>.filter (·.rank == rank)
  let covered (a : Nat) : Bool := es.any fun e => e.offset ≤ a && a < e.offset + e.bytes
  let run := ((List.range n).takeWhile fun k => covered (off + k)).length
  let ends := (List.range (run + 1)).filter fun k =>
    n - 15 ≤ k && 0 < k && es.any fun e => e.offset + e.bytes == off + k
  ends.headD run

/-- Does an incoming map cover a byte from a rank. -/
def permCovers (m : List (Option PermRange)) (rank off : Nat) : Bool := 0 < permSpan m rank off 1

/-- A refused frame is discarded and counted, and EXCHANGE_FAULT is raised (11 R242). -/
def refuseColl (s : State) : State := raiseFlags (s.bump 0x663004) flagExchange

/-- PERMUTE: data from a rank placed; data that no entry covers is refused (11 R248). -/
def permPlace (s : State) (d : DieId) (i rank off : Nat) (bs : List (Option Byte)) : State :=
  match collRunAt s d i with
  | none => s
  | some r =>
    if !permCovers r.inMap rank off then refuseColl s
    else s.each (List.range r.inMap.length) (permWrite rank off bs d i)

/-- PERMUTE: one range of the outgoing map is sent, or placed when it is this member's own (11 R248). -/
def permSend (d : DieId) (i : Nat) (s : State) (e : Option PermRange) : State :=
  match collRunAt s d i, e with
  | some r, some e =>
    let x := collOf r.desc
    let c := coreFin r.core
    let own := groupRank s x.topo x.stages d
    if !rangeOk s x.src.1 e.offset e.bytes false then chunkLost s d i 0 0
    else
      let l := match dmaBanksOk s c x.src.1 e.offset e.bytes r.seq with
        | .trap t => (List.replicate e.bytes none, trapCore s c t 7 r.pc)
        | _ => loadOpt s c x.src.1 e.offset e.bytes
      if e.rank = own then permPlace l.2 d i own e.peer l.1
      else
        let k0 := (stagesOf x.stages).headD 0
        let pkg := memberPackage s x.topo x.stages e.rank d
        let die := memberDie s x.topo x.stages e.rank d
        let loc := pkg == s.obj kPackageId
        sendOrLose l.2 d i ⟨loc, if loc then die else pkg, die, k0, 0, own, 0, 0⟩ e.peer 0 l.1
  | some _, none => chunkLost s d i 0 0
  | none, _ => s

/-- PERMUTE begins: the entries that cannot be written are poisoned, and the outgoing ranges are sent. -/
def beginPermute (s : State) (d : DieId) (i : Nat) (r : CollRun) : State :=
  let x := collOf r.desc
  let s1 := s.each (List.range r.segs.length) fun t k =>
    if (r.segs.getD k (0, 0)).2 < 2 then t else poisonDst t d i (collSegDst t r k).1 (collSegDst t r k).2
  let m := if x.outEntries = 0 then ([], s1) else readMap s1 (coreFin r.core) x.outMap x.outEntries r.seq r.pc
  m.2.each m.1 (permSend d i)

/-- The data of an accepted collective is read and its first chunks are sent (11 R246 to R248, R482). -/
def beginColl (s : State) (d : DieId) (i : Nat) : State :=
  match collRunAt s d i with
  | none => s
  | some r =>
    let x := collOf r.desc
    let c := coreFin r.core
    let load (t : State) : List (Option Byte) × State :=
      match dmaBanksOk t c x.src.1 x.src.2 x.srcBytes r.seq with
      | .trap tr => (List.replicate x.srcBytes none, trapCore t c tr 7 r.pc)
      | _ => loadOpt t c x.src.1 x.src.2 x.srcBytes
    match x.op with
    | 0 =>
      let l := load s
      gatherHere (2 ^ 8) (writeDst l.2 d i (groupRank s x.topo x.stages d * x.count) l.1) d i 0 0 l.1
    | 3 =>
      if x.readsSrc s d then
        let l := load s
        (writeDst l.2 d i 0 l.1).each (bcastNext s x d) fun t n => sendOrLose t d i n 0 0 l.1
      else s
    | 4 =>
      let ids := stageIds s x.topo x.nbStage
      let rk := stageRank s x.topo x.nbStage d
      match nbPeer x ids.length rk x.nbOffset with
      | none => s
      | some t =>
        let l := load s
        let m := ids.getD t 0
        let loc := stageLocal s x.topo x.nbStage
        if t = rk then writeDst l.2 d i 0 l.1
        else sendOrLose l.2 d i ⟨loc, m, if loc then m else d.val, x.nbStage, 0, rk, 0, 0⟩ 0 0 l.1
    | 5 => beginPermute s d i r
    | _ =>
      let l := load s
      reduceHere (2 ^ 8) l.2 d i 0 0 (optVals x.srcFmt x.count l.1)

/-- Every open segment ends with code 4, and the collective completes HALTED (11 R236, R251). -/
def haltColl (s : State) (d : DieId) (i : Nat) (dup : Bool) : State :=
  let s1 := failSegs s d i 4 fun _ => true
  modRun s1 d i fun q => { q with phases := [], aborted := !dup, duplicate := dup }

/-- The queue entry of a core that a unit accepts next. -/
def nextAccept (x : CoreState) (q : Nat) : Option QInst :=
  if x.st != .running then none else (x.queue q).find? fun i => !i.accepted

/-- The next core of a die, after the one served last, with an entry to accept. -/
def acceptCore (s : State) (d : DieId) (q last : Nat) : Option (CoreId × QInst) :=
  ((List.range 4).map fun k => coreFin (4 * d.val + (last + 1 + k) % 4)).findSome? fun c =>
    (nextAccept (s.core c) q).map fun i => (c, i)

/-- A queue entry of a core, named by its place in program order, changed. -/
def modEntry (s : State) (c : CoreId) (q seq : Nat) (f : QInst → QInst) : State :=
  s.modCore c fun x => x.setQueue q ((x.queue q).map fun i => if i.seq = seq then f i else i)

/-- The scratchpad banks that a collective reaches: of SRC, DST, the maps and the record. A PERMUTE's ranges stand in its maps,
so all of SRC's and DST's segments count. -/
def collBanks (s : State) (b : List Byte) : List Nat :=
  let x := collOf b
  let whole (k : Nat) : List Nat := rangeBanks s k 0 (placeOf s k).bytes
  (if x.op = 5 then whole x.src.1 ++ whole x.dst.1 ++ rangeBanks s x.outMap.1 x.outMap.2 (32 * x.outEntries)
      ++ rangeBanks s x.inMap.1 x.inMap.2 (32 * x.inEntries)
    else rangeBanks s x.src.1 x.src.2 x.srcBytes ++ if x.toCirrus then [] else rangeBanks s x.dst.1 x.dst.2 (x.dstBytes s))
  ++ if x.recEn then rangeBanks s x.recAt.1 x.recAt.2 (recordSpace x.map (x.segments s)) else []

/-- Does a collective wait for a handover issued before it (03 R61). -/
def collWaits (s : State) (c : CoreId) (q : QInst) (b : List Byte) : Bool := handoverWaits (s.core c) q.seq (collBanks s b)

/-! ## Arrival (11 R242, R244 to R248) -/

/-- What becomes of a collective frame. -/
inductive FrameFate where
  | wait
  | refuse
  | take (i : Nat)
  deriving DecidableEq, Repr

/-- The data of a collective frame, without its padding when the chunk is longer than what is left. -/
def collData (payload : List Byte) (left : Nat) : List Byte := (payload.drop 16).take left

/-- The phase of a run that a frame lies in, by its STAGE and STEP. -/
def framePhase (r : CollRun) (h : CollHead) : Option (Nat × CollPhase) :=
  (r.phases.zipIdx.find? fun p => h.stage == p.1.stage && p.1.step0 ≤ h.step && h.step + 1 < p.1.step0 + p.1.n).map
    fun p => (p.2, p.1)

/-- The largest STEP that a collective's frames of a stage carry. -/
def stepLimit (x : CollDesc) (n : Nat) : Nat := if x.op = 2 then 2 * n - 2 else if x.op ≤ 3 then n - 1 else 1

/-- The rank before this member's in the ring of a stage. -/
def ringBefore (s : State) (d : DieId) (topo k : Nat) : Nat :=
  let n := (stageIds s topo k).length
  (stageRank s topo k d + n - 1) % max n 1

/-- The stages of the replica combination of the update that a collective feeds, from the update in progress with its COLL_ID:
its topology table, stages, and wire format (14 R324). -/
def repStages (s : State) (d : DieId) (id : Nat) : Option (Nat × Nat × Nat) :=
  ((s.unit d).cirrus.upds.find? fun u => leAt u.desc 2 2 == id).map fun u => (leAt u.desc 0x28 1, leAt u.desc 0x29 1, leAt u.desc 0x2A 1)

/-- Do a frame's STAGE, STEP and SRC_RANK lie in its collective (11 R242): in a ring, SRC_RANK is the member before this one.
A replica frame carries a STEP from 128, in the stages of the update that its collective feeds, once one is accepted. -/
def inCollective (s : State) (d : DieId) (x : CollDesc) (h : CollHead) : Bool :=
  if x.toCirrus && 128 ≤ h.step then
    match repStages s d x.id with
    | none => true
    | some (topo, stages, _) => bitAt stages h.stage && h.rank == ringBefore s d topo h.stage
        && h.step - 128 < 2 * (stageIds s topo h.stage).length - 2
  else
    let n := (stageIds s x.topo h.stage).length
    bitAt x.stages h.stage && h.step < stepLimit x n
      && match x.op with
        | 3 => match bcastStage s x d with
          | some (k, dist) => h.stage == k && h.step + 1 == dist && h.rank == ringBefore s d x.topo k
          | none => false
        | 4 => nbPeer x n (stageRank s x.topo x.nbStage d) (-x.nbOffset) == some h.rank
        | 5 => h.rank < x.group s
        | _ => h.rank == ringBefore s d x.topo h.stage

/-- Can a frame of a phase be taken: its part of the chunk has not arrived, and what it is added to is here. With zero-run
form the whole chunk must be. -/
def phaseReady (p : CollPhase) (zr : Bool) (h : CollHead) (n : Nat) : Bool :=
  let t := h.step - p.step0
  let lo := if zr then 0 else h.offset
  let hi := if zr then p.chunkBytes (p.incoming t) else h.offset + n
  let w := collFmtBytes p.wire
  let e := chunkLo p.size p.n (p.incoming t)
  meetsAny ((p.due.filter (·.1 == t)).map (·.2)) h.offset (h.offset + max n 1)
    && (!p.reduce || !meetsAny p.gaps (e + lo / w) (e + cdiv hi w))

/-- What becomes of a collective frame at a die. -/
def collFate (s : State) (d : Nat) (payload : List Byte) : FrameFate :=
  let h := collHead payload
  if 8 ≤ d || !h.zero then .refuse
  else
    let die := dieFin d
    match indexOf? (fun r : CollRun => r.frame == h.frame && r.id == h.id && !r.duplicate) (s.unit die).coll.runs with
    | none => if precedes 32 h.frame (s.run.frame % 2 ^ 32) then .refuse else .wait
    | some i =>
      match collRunAt s die i with
      | none => .wait
      | some r =>
        let x := collOf r.desc
        if r.aborted then (if precedes 32 h.frame (s.run.frame % 2 ^ 32) then .refuse else .wait)
        else if !inCollective s die x h then .refuse
        else if x.op = 3 || x.op = 4 then (if h.offset < x.count then .take i else .refuse)
        else if x.op = 5 then (if permCovers r.inMap h.rank h.offset then .take i else .refuse)
        else match framePhase r h with
          | none => .wait
          | some (_, p) =>
            let n := p.chunkBytes (p.incoming (h.step - p.step0))
            if n ≤ h.offset then .refuse
            else if !phaseReady p x.zr h (min (payload.length - 16) (n - h.offset)) then .wait
            else if r.parts.any fun q => q.step == h.step && q.rank == h.rank && q.offset == h.offset then .wait
            else .take i

/-- Bytes with one poison flag as optional bytes. -/
def flagBytes (bs : List Byte) (poison : Bool) : List (Option Byte) :=
  bs.map fun b => if poison then none else some b

/-- A part of a chunk of ring step `t` of phase `k` has arrived. -/
def partHere (s : State) (d : DieId) (i k t off n : Nat) : State :=
  modPhase s d i k fun q => { q with
    due := (q.due.map fun u => if u.1 = t then (cutOut [u.2] off (off + n)).map (fun g => (t, g)) else [u]).flatten }

/-- Two values of a ring sum added; poison enters the sum (11 R244, R250). -/
def addOpt : Option F32 → Option F32 → Option F32
  | some a, some b => some (fadd a b)
  | _, _ => none

/-- Data of a reduction arrives: it is added to this member's own values in place, and sent on unless this member owns
the sum (11 R244). -/
def takeReduce (s : State) (d : DieId) (i k : Nat) (p : CollPhase) (step off : Nat) (bs : List (Option Byte)) : State :=
  match collRunAt s d i with
  | none => s
  | some r =>
    let w := collFmtBytes p.wire
    let t := step - p.step0
    let j := reduceChunk p.n p.rank (t + 1)
    let lo := chunkLo p.size p.n j + off / w
    let vs := optVals p.wire (bs.length / w) bs
    let sum := List.zipWith addOpt vs ((p.vals.drop lo).take vs.length)
    let s1 := modPhase (partHere s d i k t off bs.length) d i k fun q => { q with
      vals := q.vals.take lo ++ sum ++ q.vals.drop (lo + vs.length) }
    if t + 2 < p.n then
      let e := chunkDst r p j
      sendOrLose s1 d i (p.dest d (t + 1) e.1 e.2) 0 off (valsBytes p.wire sum)
    else reduceHere (2 ^ 8) s1 d i (k + 1) (off / w) sum

/-- Data of a gather arrives: it is written, or goes into the shard, and is sent on; it is part of the own block of the next
gather (11 R246). `sent` tells whether the data came, or only its loss. -/
def takeGather (s : State) (d : DieId) (i k : Nat) (p : CollPhase) (step off : Nat) (bs : List (Option Byte)) (sent : Bool) : State :=
  let t := step - p.step0
  let w := collFmtBytes p.wire
  let pos := p.lo w (gatherBlock p.n p.rank (t + 1)) + off
  let s1 := partHere s d i k t off bs.length
  let s2 := if p.replica then
      let e := p.base + pos / w
      let vs := optVals p.wire (bs.length / w) bs
      modRun s1 d i fun q => { q with
        shard := q.shard.take e ++ vs ++ q.shard.drop (e + vs.length)
        repMissed := if sent then q.repMissed else (e, e + vs.length) :: q.repMissed
        repNonfinite := q.repNonfinite || vs.any (valNonfinite 1) }
    else writeDst s1 d i (p.base + pos) bs
  let s3 := if sent && t + 2 < p.n then sendOrLose s2 d i (p.dest d (t + 1) 0 0) 0 off bs else s2
  gatherHere (2 ^ 8) s3 d i (k + 1) pos bs

/-- Data placed by its collective. -/
def placeData (s : State) (d : DieId) (i : Nat) (h : CollHead) (off : Nat) (bs : List (Option Byte)) : State :=
  match collRunAt s d i with
  | none => s
  | some r =>
    let x := collOf r.desc
    match x.op with
    | 3 => (writeDst s d i off bs).each (bcastNext s x d) fun t n => sendOrLose t d i n 0 off bs
    | 4 => writeDst s d i off bs
    | 5 => permPlace s d i h.rank off bs
    | _ =>
      match framePhase r h with
      | none => s
      | some (k, p) => if p.reduce then takeReduce s d i k p h.step off bs else takeGather s d i k p h.step off bs true

/-- Raw bytes of the chunk a frame belongs to, and the offset at which the chunk starts. -/
def chunkSpan (r : CollRun) (h : CollHead) : Nat × Nat :=
  let x := collOf r.desc
  match x.op with
  | 3 => (0, x.count)
  | 4 => (0, x.count)
  | 5 =>
    match (r.inMap.filterMap id).find? fun e => e.rank == h.rank && e.offset ≤ h.offset && h.offset < e.offset + e.bytes with
    | some e => (e.offset, e.bytes)
    | none => (h.offset, 0)
  | _ =>
    match framePhase r h with
    | none => (0, 0)
    | some (_, p) => (0, p.chunkBytes (p.incoming (h.step - p.step0)))

/-- Encoded frames of one chunk joined in the order of their offsets, as long as each continues the one before; done
when the chunk's encoding is whole. `n` bounds the frames. -/
def zrJoin (ps : List CollPart) (start chunks : Nat) : Nat → List Byte → Bool → Option (List Byte × Bool)
  | 0, _, _ => none
  | n + 1, acc, bad =>
    if acc.length != 0 && zrLength chunks (acc ++ List.replicate 8 0#8) ≤ acc.length then some (acc, bad)
    else
      match ps.find? fun p => p.offset == start + zrRawOffset chunks acc acc.length with
      | none => none
      | some p => zrJoin (ps.filter (fun q => q.offset != p.offset)) start chunks n (acc ++ p.bytes) (bad || p.poison)

/-- A frame of a chunk in zero-run form is kept until the chunk is whole, and the chunk is then expanded and placed. -/
def takeEncoded (s : State) (d : DieId) (i : Nat) (h : CollHead) (payload : List Byte) : State :=
  match collRunAt s d i with
  | none => s
  | some r =>
    let span := chunkSpan r h
    let part : CollPart := ⟨h.step, h.rank, h.offset, payload.drop 16, h.poison⟩
    let same (p : CollPart) : Bool := p.step == h.step && p.rank == h.rank
      && span.1 ≤ p.offset && p.offset < span.1 + max span.2 1
    let ps := (r.parts ++ [part]).filter same
    let chunks := cdiv span.2 256
    match zrJoin ps span.1 chunks (ps.length + 1) [] false with
    | none => modRun s d i fun q => { q with parts := q.parts ++ [part] }
    | some (enc, bad) =>
      let s1 := modRun s d i fun q => { q with parts := q.parts.filter fun p => !same p }
      placeData (countZr s1 span.2 enc.length) d i h span.1 (flagBytes (zrExpand span.2 enc) bad)

/-- The data bytes of a frame: its payload without the padding behind its chunk. -/
def frameData (r : CollRun) (h : CollHead) (payload : List Byte) : List Byte :=
  let span := chunkSpan r h
  let x := collOf r.desc
  collData payload (if x.op = 5 then permSpan r.inMap h.rank h.offset (payload.length - 16) else span.1 + span.2 - h.offset)

/-- A frame that its collective takes. -/
def takeFrame (s : State) (d : DieId) (i : Nat) (payload : List Byte) : State :=
  match collRunAt s d i with
  | none => s
  | some r =>
    let h := collHead payload
    if (collOf r.desc).zr then takeEncoded s d i h payload
    else placeData s d i h h.offset (flagBytes (frameData r h payload) h.poison)

/-- COLL_CHUNK_RECEIVE: the first frame of a buffer that need not wait is taken or refused. -/
def execCollChunkReceive (src : FrameSrc) (s : State) : Result :=
  match src with
  | .port p =>
    let fs := if s.life.resetting then [] else vcAt (s.port p).rx 0
    let fates := fs.map fun f => collFate s (collHead f.payload).die f.payload
    match indexOf? (fun f => f != FrameFate.wait) fates with
    | none => .next s
    | some k =>
      let pl := ((fs[k]?).map (·.payload)).getD []
      let d := dieFin (collHead pl).die
      let s1 := countPath (takeRx s p 0 k) (portDie p) d (16 + pl.length)
      .next (match fates.getD k .wait with
        | .take i => takeFrame s1 d i pl
        | _ => refuseColl s1)
  | .die d =>
    let fs := (s.unit d).coll.inbox
    let fates := fs.map fun f => collFate s d.val f.payload
    match indexOf? (fun f => f != FrameFate.wait) fates with
    | none => .next s
    | some k =>
      let pl := ((fs[k]?).map (·.payload)).getD []
      let s1 := modColl s d fun e => { e with inbox := e.inbox.eraseIdx k }
      .next (match fates.getD k .wait with
        | .take i => takeFrame s1 d i pl
        | _ => refuseColl s1)

/-! ## Completion (11 R250, R251) -/

/-- Does any port still hold a frame of an owner, unsent or unacknowledged. -/
def ownsFrames (s : State) (p : FrameOwner → Bool) : Bool :=
  allPorts.any fun k =>
    let x := s.port k
    x.unacked.any (fun f => p f.owner) || [0, 1, 2].any fun v => (vcAt x.outq v).any fun f => p f.owner

/-- Is a frame owned by a collective. -/
def isCollOwner (d frame id : Nat) : FrameOwner → Bool
  | .coll d' f' i' _ => d' == d && f' == frame && i' == id
  | _ => false

/-- Does another die's buffer still hold a frame of a die's collective (11 R242). -/
def localWaits (s : State) (d : DieId) (r : CollRun) : Bool :=
  allDies.any fun k => (s.unit k).coll.inbox.any fun f =>
    f.src == d.val && (collHead f.payload).frame == r.frame && (collHead f.payload).id == r.id

/-- Has a collective nothing left to do: everything has arrived, been sent and been acknowledged, and every value of a feeding
one is handed over. A halted one waits for nothing. -/
def collEnded (s : State) (d : DieId) (r : CollRun) : Bool :=
  r.duplicate || r.aborted
    || (r.phases.all (·.ended) && r.segs.all (fun p => p.1 == 0 || 2 ≤ p.2) && r.handed == r.shard.length
      && !localWaits s d r && !ownsFrames s (isCollOwner d.val r.frame r.id))

/-- The completion record of a collective is written, its flags are raised, and its queue entry is done. A record in a bank that
DMA may not reach traps the issuing core and is not written. NONFINITE status of a collective raises the flag and is not
counted as an instruction's (the model's choice, notes/assumptions/153.md). -/
def finishColl (s : State) (d : DieId) (i : Nat) (r : CollRun) : State :=
  let x := collOf r.desc
  let c := coreFin r.core
  let codes := r.segs.map (·.2)
  let bad := codes.any (· != 0)
  let status := if r.aborted || r.duplicate then 4 else recordStatus codes false
  let raw (k : Nat) : Nat := if x.op = 5 then ((r.entry k).map (·.bytes)).getD 0 else collSegSize s x k
  let rec' := completionRecord (codes.zipIdx.map fun p => (p.1, raw p.2)) raw status ++ if x.map then segmentMap codes else []
  let s1 := if x.recEn then
      match dmaBanksOk s c x.recAt.1 x.recAt.2 rec'.length r.seq with
      | .trap t => trapCore s c t 7 r.pc
      | _ => moverPut s c (placeOf s x.recAt.1) x.recAt.2 rec' 2
    else s
  let s2 := (s1.bump 0x663001).when bad fun t => raiseFlags (t.bump 0x663002) flagExchange
  let s3 := s2.when ((x.nf && r.nonfinite) || r.repNonfinite) fun t => raiseFlags t flagNonfinite
  let s4 := modColl s3 d fun e => { e with runs := e.runs.eraseIdx i }
  modEntry s4 c 7 r.seq fun y => { y with done := 1 }

/-- The data that a collective still waits for has failed at its sender: in the first phase that waits, each part that has not
arrived is lost, what depends on it here takes code 2 and is poison, and the phases behind go on with poison; an operation
without phases fails its open segments (11 R250, notes/assumptions/152.md). -/
def losePhase (s : State) (d : DieId) (i : Nat) : State :=
  match collRunAt s d i with
  | none => s
  | some r =>
    match r.phases.zipIdx.find? fun p => !p.1.due.isEmpty with
    | none => if r.phases.isEmpty then failSegs s d i 2 fun _ => true else s
    | some (p, k) =>
      let w := collFmtBytes p.wire
      s.each p.due fun t u =>
        let bs : List (Option Byte) := List.replicate (u.2.2 - u.2.1) none
        if p.reduce then
          let j := reduceChunk p.n p.rank (u.1 + 1)
          let e := chunkLo p.size p.n j + u.2.1 / w
          let vs : List (Option F32) := List.replicate (bs.length / w) none
          let t1 := modRun (modPhase (partHere t d i k u.1 u.2.1 bs.length) d i k fun q => { q with
            vals := q.vals.take e ++ vs ++ q.vals.drop (e + vs.length) }) d i fun q =>
              if p.replica then
                { q with repMissed := if u.1 + 2 < p.n then q.repMissed else (p.base + e, p.base + e + vs.length) :: q.repMissed }
              else { q with missed := (p.base + e, p.base + e + vs.length) :: q.missed }
          if u.1 + 2 < p.n then t1 else reduceHere (2 ^ 8) t1 d i (k + 1) (u.2.1 / w) vs
        else
          let lo := p.base + p.lo w (gatherBlock p.n p.rank (u.1 + 1)) + u.2.1
          let t1 := if p.replica then t else failSegs t d i 2 (segMeets (collOf r.desc) lo (lo + bs.length))
          takeGather t1 d i k p (p.step0 + u.1) u.2.1 bs false

/-- A delivered payload of frame `n` carries EXCHANGE_FAULT: every collective of frames up to `n` in progress is
aborted (11 R251). -/
def abortColls (s : State) (n : Nat) : State :=
  s.each allDies fun t d =>
    t.each (List.range (t.unit d).coll.runs.length) fun u i =>
      match collRunAt u d i with
      | none => u
      | some r =>
        if r.aborted || r.duplicate || precedes 32 (n % 2 ^ 32) r.frame then u
        else (haltColl u d i false).bump 0x663006

end Sys2Proof.Machine
end

