-- ==== Sys2Proof/Machine/Skein.lean ====
section
/-!
DEFINITION. Machine/Skein.lean: expert exchange: ROUTE, DISPATCH and COMBINE, their descriptor and checks, placement,
rows, returns, completion and failure (12 R256 to R278).
-/
namespace Sys2Proof.Machine

/-! ## The descriptor (12 Table 12.1) -/

/-- An exchange descriptor. -/
structure ExchDesc where
  op : Nat
  zr : Bool
  nf : Bool
  reuse : Bool
  weight : Bool
  repl : Bool
  accum : Bool
  map : Bool
  topo : Nat
  stages : Nat
  id : Nat
  k : Nat
  defers : Bool
  wnorm : Nat
  scoreIn : Nat
  rnd : Nat
  experts : Nat
  cap : Nat
  tokens : Nat
  src : Nat × Nat
  dst : Nat × Nat
  list : Nat × Nat
  table : Nat × Nat
  stage : Nat × Nat
  rowBytes : Nat
  rowFmt : Nat
  dstFmt : Nat
  recEn : Bool
  recAt : Nat × Nat
  srcStride : Nat
  dstStride : Nat
  bufStride : Nat
  tensor : Nat
  o1 : Nat
  o0 : Nat
  prev : Nat
  deriving DecidableEq, Repr

/-- The descriptor that 128 bytes hold. -/
def exchOf (b : List Byte) : ExchDesc :=
  let fl := leAt b 1 1
  let po := leAt b 7 1
  ⟨leAt b 0 1, bitAt fl 0, bitAt fl 1, bitAt fl 2, bitAt fl 3, bitAt fl 4, bitAt fl 5, bitAt fl 6, leAt b 2 1, leAt b 3 1,
    leAt b 4 2, leAt b 6 1, bitAt po 0, fld po 1 2, fld po 3 2, fld po 5 2, leAt b 8 2, leAt b 0xA 2, leAt b 0xC 4,
    locOf (leAt b 0x10 8), locOf (leAt b 0x18 8), locOf (leAt b 0x20 8), locOf (leAt b 0x28 8), locOf (leAt b 0x30 8),
    leAt b 0x38 4, leAt b 0x3C 1, leAt b 0x3D 1, bitAt (leAt b 0x40 8) 63, locOf (leAt b 0x40 8), leAt b 0x48 4,
    leAt b 0x4C 4, leAt b 0x50 4, leAt b 0x54 4, leAt b 0x58 4, leAt b 0x5C 4, leAt b 0x60 8⟩

/-- The format of the token rows. -/
def ExchDesc.fmt (x : ExchDesc) : Format := (formatOf x.rowFmt).getD ⟨.fp32, false⟩

/-- Elements of a token row: as many as its bytes hold. -/
def ExchDesc.cols (x : ExchDesc) : Nat :=
  ((List.range (2 * x.rowBytes + 1)).reverse.find? fun c => Sys2Proof.rowBytes x.fmt c ≤ x.rowBytes).getD 0

/-- Bytes of a DST row. -/
def ExchDesc.dstRow (x : ExchDesc) : Nat := x.cols * collFmtBytes x.dstFmt

/-- Bytes of a SRC row. -/
def ExchDesc.srcRow (x : ExchDesc) : Nat :=
  if x.op = 0 then (match x.scoreIn with | 0 => 4 * x.experts | 1 => 2 * x.experts | _ => 8 * x.k) else x.rowBytes

/-- Entries of the member's list. -/
def ExchDesc.entryCount (x : ExchDesc) : Nat := x.tokens * x.k

/-- The bytes of a STAGE slot. -/
def ExchDesc.slot (x : ExchDesc) : Nat := roundUp x.rowBytes 64

/-- PREV, when the descriptor names one. -/
def ExchDesc.prevAt (x : ExchDesc) : Option (Nat × Nat) := if x.prev = 0 then none else some (locOf x.prev)

/-- The group size. -/
def ExchDesc.group (x : ExchDesc) (s : State) : Nat := groupSize s x.topo x.stages

/-- Experts per rank (12 R258). -/
def ExchDesc.epr (x : ExchDesc) (s : State) : Nat := x.experts / x.group s

/-! ## Lists, tables and buffers in memory -/

/-- Bytes of a list, table or row map as their code gives them; none when any of them is poison (09 R195, R200). -/
def seeAt (s : State) (l : Nat × Nat) (off n : Nat) : Option (List Byte) :=
  let r := seeBytes s ((placeOf s l.1).base + l.2 + off) n
  if r.2 % 2 ^ n = 0 then some r.1 else none

/-- The same, with zeros for bytes that are poison. -/
def peekAt (s : State) (l : Nat × Nat) (off n : Nat) : List Byte := (seeAt s l off n).getD (List.replicate n 0#8)

/-- A place in no segment. -/
def noPlace : Nat × Nat := (2 ^ 16, 0)

/-- Is a range within its segment. -/
def rangeIn (s : State) (l : Nat × Nat) (n : Nat) : Bool := (boundsTrap s (flatExt l n) 0).isNone

/-- T and K of a dispatch list's header; nothing of a list that leaves its segment. -/
def listShape (s : State) (l : Nat × Nat) : Nat × Nat :=
  if rangeIn s l 64 then
    let h := peekAt s l 0 64
    let t := leAt h 8 4
    let k := leAt h 6 1
    if rangeIn s l (64 + 16 * t * k) then (t, k) else (0, 0)
  else (0, 0)

/-- T_p and K_p of PREV. -/
def ExchDesc.prevShape (x : ExchDesc) (s : State) : Nat × Nat :=
  match x.prevAt with
  | some l => listShape s l
  | none => (0, 0)

/-- A dispatch list entry (12 Table 12.3). -/
structure ListEntry where
  expert : Nat
  status : Nat
  rank : Nat
  weight : Nat
  row : Nat
  deriving DecidableEq, Repr

/-- Entry `i` of a list. One read as poison counts as POISONED: it is never dispatched, and its token's row is poison
(notes/assumptions/154.md). -/
def entryAt (s : State) (l : Nat × Nat) (i : Nat) : ListEntry :=
  match seeAt s l (64 + 16 * i) 16 with
  | some b => ⟨leAt b 0 2, leAt b 2 1, leAt b 3 1, leAt b 4 4, leAt b 8 4⟩
  | none => ⟨0, 5, 0, 0, 0⟩

/-- An entry's bytes. -/
def entryBytes (e : ListEntry) : List Byte :=
  leBytes 2 e.expert ++ leBytes 1 e.status ++ leBytes 1 e.rank ++ leBytes 4 e.weight ++ leBytes 4 e.row ++ leBytes 4 0

/-- Bytes written for a run by the die's unit. -/
def exchStore (s : State) (c : CoreId) (l : Nat × Nat) (off : Nat) (bs : List Byte) : State :=
  moverStore s c (placeOf s l.1) (l.2 + off) bs 2

/-- STATUS, DEST_RANK and BUF_ROW of an entry written; an entry held as poison stays poison. -/
def markEntry (s : State) (c : CoreId) (l : Nat × Nat) (i status rank row : Nat) : State :=
  if (seeAt s l (64 + 16 * i) 16).isNone then s
  else exchStore s c l (64 + 16 * i) (entryBytes { entryAt s l i with status := status, rank := rank, row := row })

/-- The row not placed. -/
def noRow : Nat := 0xFFFFFFFF

/-- Entry `e` of TABLE: IN_BUF, OUT_BUF and ROW_MAP (12 R265). An entry read as poison names no place. -/
def tableAt (s : State) (x : ExchDesc) (e : Nat) : (Nat × Nat) × (Nat × Nat) × (Nat × Nat) :=
  match seeAt s x.table (32 * e) 32 with
  | some b => (locOf (leAt b 0 8), locOf (leAt b 8 8), locOf (leAt b 0x10 8))
  | none => (noPlace, noPlace, noPlace)

/-- Bytes of an input buffer after its header, and of output rows. -/
def ExchDesc.bufSpan (x : ExchDesc) : Nat := (x.cap - 1) * x.bufStride + x.rowBytes

/-- Does an address read from TABLE pass R53 for this operation (12 R260). -/
def tableOk (s : State) (c : CoreId) (l : Nat × Nat) (n : Nat) (write : Bool) : Bool :=
  (checkExt s c (flatExt l n) 0 write [2]).isEmpty

/-- Record `r` of a row map: SRC_RANK, FLAGS, SRC_ENTRY; none of a map that fails R53, or a record read as poison. -/
def mapAt (s : State) (c : CoreId) (x : ExchDesc) (l : Nat × Nat) (r : Nat) : Option (Nat × Nat × Nat) :=
  if !tableOk s c l (8 * x.cap) false then none
  else (seeAt s l (8 * r) 8).map fun b => (leAt b 0 1, leAt b 1 1, leAt b 4 4)

/-! ## The checks at issue (12 R260) -/

/-- Reserved fields are zero and coded fields are valid. -/
def exchFieldsOk (b : List Byte) (x : ExchDesc) : Bool :=
  x.op ≤ 2 && !bitAt (leAt b 1 1) 7 && !bitAt (leAt b 7 1) 7 && leAt b 0x3E 2 == 0 && allZero (bytesAt b 0x68 24)
    && [0x17, 0x1F, 0x27, 0x2F, 0x37, 0x67].all (fun o => leAt b o 1 == 0) && fld (leAt b 0x40 8) 56 7 == 0
    && 1 ≤ x.k && x.k ≤ 8 && 1 ≤ x.experts && x.experts ≤ 512 && 1 ≤ x.tokens && x.tokens ≤ 2 ^ 20
    && x.tensor < 2 ^ 20 && x.o1 < 2 ^ 24 && x.o0 < 2 ^ 24 && x.stages < 16
    && (x.op != 0 || (x.wnorm ≤ 2 && x.scoreIn ≤ 2))
    && (x.op == 0 || (x.topo ≤ 15 && 1 ≤ x.cap && x.rowBytes % 4 == 0 && 4 ≤ x.rowBytes && x.rowBytes ≤ 16384
        && (formatOf x.rowFmt).isSome && x.rowBytes ≤ x.bufStride))
    && (x.op != 2 || (leAt b 0x10 8 == 0 && x.rnd ≤ 2 && 1 ≤ x.dstFmt && x.dstFmt ≤ 3))

/-- A range that an exchange names: its number, the range, and whether the operation reads and writes it. -/
structure ExchRange where
  num : Nat
  ext : Ext
  reads : Bool
  writes : Bool

/-- The ranges that an exchange names itself. A REUSE DISPATCH leaves its list as it is. -/
def exchRanges (s : State) (x : ExchDesc) : List ExchRange :=
  let src : Ext := ⟨x.src.1, x.src.2, x.srcRow, x.tokens - 1, x.srcStride, 0, 0⟩
  let dst : Ext := ⟨x.dst.1, x.dst.2, x.dstRow, x.tokens - 1, x.dstStride, 0, 0⟩
  let p := x.prevShape s
  (if x.op = 2 then [⟨0xF1, dst, x.accum, true⟩] else [⟨0xF0, src, true, false⟩])
    ++ [⟨0xF2, flatExt x.list (64 + 16 * x.entryCount), x.op != 0, !(x.op == 1 && x.reuse)⟩]
    ++ (if x.op = 0 then [] else [⟨0xF3, flatExt x.table (32 * x.epr s), true, false⟩])
    ++ (if x.op = 2 then [⟨0xF4, flatExt x.stage ((x.entryCount + p.1 * p.2) * x.slot), true, true⟩] else [])

/-- The checks of a range for what the operation does to it. -/
def ExchRange.check (s : State) (c : CoreId) (r : ExchRange) : List TrapInfo :=
  let kinds := if r.num = 0xF2 || r.num = 0xF3 then [2] else [1, 2, 3]
  (if r.reads then checkExt s c r.ext r.num false kinds else []) ++ if r.writes then checkExt s c r.ext r.num true kinds else []

/-- The expert buffers that the operation reaches through TABLE. -/
def exchBuffers (s : State) (x : ExchDesc) : List Ext :=
  if x.op = 0 || !rangeIn s x.table (32 * x.epr s) then []
  else (List.range (x.epr s)).map fun e =>
    let t := tableAt s x e
    if x.op = 1 then flatExt t.1 (64 + x.bufSpan) else flatExt t.2.1 x.bufSpan

/-- Do any two ranges of a list meet. -/
def anyMeet (s : State) : List Ext → Bool
  | [] => false
  | e :: es => es.any (fun f => extsMeet s e f) || anyMeet s es

/-- The operand rules of R260. -/
def exchLegal (s : State) (c : CoreId) (b : List Byte) (x : ExchDesc) : Bool :=
  let d := dieOf c
  let g := x.group s
  exchFieldsOk b x
    && (x.op == 0 || (x.stages != 0 && (stagesOf x.stages).all (fun k => stageUsable s x.topo k d && !stageLocal s x.topo k)
        && g ≤ 256 && x.experts % g == 0))
    && !(x.reuse && (x.repl || x.prev != 0 || x.op == 0)) && !(x.weight && x.op == 0) && !(x.accum && x.op == 1)
    && !anyMeet s ((exchRanges s x).map (·.ext) ++ exchBuffers s x)

/-- The most segments that an exchange can have. -/
def ExchDesc.maxSegments (x : ExchDesc) (s : State) : Nat :=
  match x.op with
  | 0 => x.tokens
  | 1 => x.entryCount + x.epr s * x.cap
  | _ => x.tokens + x.epr s * x.cap * (if x.repl then x.group s - 1 else 1)

/-- The checks of an exchange descriptor at issue, in the order of R260. -/
def exchTrap (s : State) (c : CoreId) (b : List Byte) : Option TrapInfo :=
  let x := exchOf b
  if !exchLegal s c b x then some illegal
  else lowestTrap (((exchRanges s x).map (·.check s c)).flatten
    ++ if x.recEn then checkRecord s c x.recAt.1 x.recAt.2 (recordSpace x.map (x.maxSegments s)) 0xF5 else [])

/-- EXCH: an exchange descriptor read at issue and placed in the EXCH queue (12 R259). -/
def execExch (core : CoreId) (h : Hdr) (f : BitVec 51) (s : State) : Result :=
  .next (issueDesc s core 0x51 1 h f (ff f 49 2 == 0) 8 128 0 0 0)

/-! ## Exchanges in progress -/

/-- The Skein unit of a die changed. -/
def modSkein (s : State) (d : DieId) (f : SkeinUnit → SkeinUnit) : State :=
  s.modUnit d fun u => { u with skein := f u.skein }

/-- An exchange in progress. -/
def exchAt (s : State) (d : DieId) (i : Nat) : Option ExchRun := (s.unit d).skein.runs[i]?

/-- An exchange changed. -/
def modExch (s : State) (d : DieId) (i : Nat) (f : ExchRun → ExchRun) : State :=
  modSkein s d fun e => { e with runs := modAt e.runs i f }

/-- The state changed with the exchange in slot `i` of a die, if there is one. -/
def withExch (s : State) (d : DieId) (i : Nat) (f : ExchRun → ExchDesc → State) : State :=
  match exchAt s d i with
  | none => s
  | some r => f r (exchOf r.desc)

/-- Group rank of this member. -/
def ExchDesc.self (x : ExchDesc) (s : State) (d : DieId) : Nat := groupRank s x.topo x.stages d

/-- A late entry as a manifest names it. -/
def lateMark : Nat := 2 ^ 31

/-- The list and the index that a marked entry names. -/
def entryOf (x : ExchDesc) (m : Nat) : (Nat × Nat) × Nat :=
  if lateMark ≤ m then (x.prevAt.getD (0, 0), m - lateMark) else (x.list, m)

/-- Bytes read for a run; a scratchpad bank that DMA may not reach traps the core, and the bytes count as poison. -/
def exchLoad (s : State) (c : CoreId) (r : ExchRun) (l : Nat × Nat) (n : Nat) : List (Option Byte) × State :=
  match dmaBanksOk s c l.1 l.2 n r.seq with
  | .trap t => (List.replicate n none, trapCore s c t 8 r.pc)
  | _ => loadOpt s c l.1 l.2 n

/-- Bytes written for a run. The second part is whether they were. -/
def exchWrite (s : State) (c : CoreId) (r : ExchRun) (l : Nat × Nat) (bs : List (Option Byte)) : State × Bool :=
  match dmaBanksOk s c l.1 l.2 bs.length r.seq with
  | .trap t => (trapCore s c t 8 r.pc, false)
  | _ => (storeOpt s c l.1 l.2 bs, true)

/-- A row written, in poison form when any of its bytes is poison; a poison row is counted (12 R277). -/
def exchRow (s : State) (c : CoreId) (r : ExchRun) (l : Nat × Nat) (bs : List (Option Byte)) : State × Bool :=
  let bad := bs.any (·.isNone)
  let o := exchWrite s c r l (if bad then bs.map fun _ => none else bs)
  (o.1.when (bad && o.2) fun t => t.bump 0x662007, o.2)

/-! ## Frames of an exchange (12 Table 12.5) -/

/-- An exchange sub-header. -/
structure ExchHead where
  frame : Nat
  id : Nat
  kind : Nat
  poison : Bool
  late : Bool
  zero : Bool
  rank : Nat
  expert : Nat
  index : Nat
  offset : Nat

/-- The sub-header of a frame's payload. -/
def exchHead (b : List Byte) : ExchHead :=
  let k := leAt b 6 1
  ⟨leAt b 0 4, leAt b 4 2, k % 4, bitAt k 2, bitAt k 3, k / 16 == 0, leAt b 7 1, leAt b 8 2, leAt b 0xA 3, leAt b 0xD 3⟩

/-- A row or message sent to a rank in frames of 496 bytes. The second part is whether every frame could be sent. -/
def sendExch (s : State) (d : DieId) (r : ExchRun) (kind rank expert index item : Nat) (poison late : Bool)
    (data : List Byte) : State × Bool :=
  let x := exchOf r.desc
  let dest := memberPackage s x.topo x.stages rank d
  (cut496 data.length).foldl (fun acc p =>
    let head := leBytes 4 r.frame ++ leBytes 2 r.id ++ leBytes 1 (kind + poison.toNat * 4 + late.toNat * 8)
      ++ leBytes 1 (x.self s d) ++ leBytes 2 expert ++ leBytes 3 index ++ leBytes 3 (p.1 / 16)
    match queueFrame acc.1 d 1 (p.1 / 496)
        ⟨dest, 0, r.id, pad16 (head ++ bytesAt data p.1 p.2), .exch d.val r.frame r.id kind item, none⟩ with
    | some t => (t, acc.2)
    | none => (unroutable acc.1 d dest, false)) (s, true)

/-- A token row sent to a rank, in zero-run form under ZR (12 R275). -/
def sendRowBytes (s : State) (d : DieId) (r : ExchRun) (kind rank expert index item : Nat) (late : Bool)
    (bs : List (Option Byte)) : State × Bool :=
  let bad := bs.any (·.isNone)
  let raw := optBytes bs
  if (exchOf r.desc).zr then
    let enc := zrRow raw
    sendExch (countZr s raw.length enc.length) d r kind rank expert index item bad late enc
  else sendExch s d r kind rank expert index item bad late raw

/-! ## Failure of what an exchange sends (12 R278) -/

/-- The entries of a list that a member has open towards a rank. -/
def ExchRun.openTo (r : ExchRun) (rank : Nat) : List Nat :=
  ((r.offers.filter fun o => o.1 == rank).map fun o => o.2.2).flatten

/-- The counts of a list's header brought up to date. -/
def listCounts (s : State) (c : CoreId) (l : Nat × Nat) (n : Nat) : State :=
  let st := (List.range n).map fun i => (entryAt s l i).status
  let count (p : Nat → Bool) : Nat := (st.filter p).length
  exchStore s c l 0x18 (leBytes 4 (count fun k => k == 1 || k == 4) ++ leBytes 4 (count (· == 2))
    ++ leBytes 4 (count (· == 3)) ++ leBytes 4 (count (· == 7)))

/-- DEST_RANK of an expert (12 Table 12.3). -/
def destRank (s : State) (x : ExchDesc) (expert : Nat) : Nat := expert / max (x.epr s) 1 % 256

/-- The counts of LIST's header, and of PREV's. -/
def headerCounts (s : State) (c : CoreId) (x : ExchDesc) : State :=
  let s1 := listCounts s c x.list x.entryCount
  match x.prevAt with
  | some l => let p := listShape s1 l; if p.1 * p.2 = 0 then s1 else listCounts s1 c l (p.1 * p.2)
  | none => s1

/-- The list as DISPATCH leaves it: the entries that were never offered get their rank, the header its fields and counts, and
PREV's header its counts (12 R264). -/
def dispatchHeader (s : State) (d : DieId) (i : Nat) : State :=
  withExch s d i fun r x =>
    let c := coreFin r.core
    let s0 := s.each (List.range x.entryCount) fun t m =>
      let e := entryAt t x.list m
      if e.status = 5 || e.status = 7 then markEntry t c x.list m e.status (destRank t x e.expert) noRow else t
    let s1 := exchStore s0 c x.list 0 (leBytes 4 r.frame ++ leBytes 2 r.id)
    let s2 := exchStore s1 c x.list 0x10 (leBytes 8 (x.src.2 + x.src.1 * 2 ^ 48))
    headerCounts s2 c x

/-- A rank has answered, or never will; with the last one the list is final. -/
def closeRank (s : State) (d : DieId) (i rank : Nat) : State :=
  withExch s d i fun r x =>
    if r.granted.contains rank then s
    else
      let s1 := modExch s d i fun q => { q with granted := rank :: q.granted }
      if r.granted.length + 1 = x.group s then dispatchHeader s1 d i else s1

/-- An entry fails: its code is 3, and its status FAILED. The counts of a header already written follow. -/
def failEntry (s : State) (d : DieId) (i m : Nat) : State :=
  withExch s d i fun r x =>
    let c := coreFin r.core
    let l := entryOf x m
    let e := entryAt s l.1 l.2
    let s1 := if x.reuse || x.op != 1 then s else markEntry s c l.1 l.2 6 (destRank s x e.expert) e.row
    let s2 := if !x.reuse && x.op == 1 && r.granted.length == x.group s then headerCounts s1 c x else s1
    modExch s2 d i fun q => { q with entries := if lateMark ≤ m then q.entries else modAt q.entries m fun _ => 3 }

/-- FILL of an expert's buffer advanced to the first row not yet written, COMPLETE set when it reaches PLACED, and
POISON_ROWS set when a row is poison (12 R268, R277). -/
def updateFill (s : State) (d : DieId) (i e : Nat) : State :=
  withExch s d i fun r x =>
    let rows := r.rows.filter (·.expert == e)
    let buf := (tableAt s x e).1
    if !tableOk s (coreFin r.core) buf (64 + x.bufSpan) true then s
    else
      let n := ((rows.takeWhile fun w => w.code != 255)).length
      let flags := (n == rows.length).toNat + (rows.any fun w => w.code != 255 && w.code != 0).toNat * 2
      exchStore s (coreFin r.core) buf 6 (leBytes 2 flags ++ leBytes 4 n)

/-- A row that was granted takes a failing code and is written in poison form. -/
def failRow (s : State) (d : DieId) (i e row code : Nat) : State :=
  withExch s d i fun r x =>
    let buf := (tableAt s x e).1
    let s1 := modExch s d i fun q => { q with rows := q.rows.map fun w =>
      if w.expert = e && w.row = row && w.code = 255 then { w with code := code } else w }
    let s2 := if tableOk s (coreFin r.core) buf (64 + x.bufSpan) true then
        (exchRow s1 (coreFin r.core) r (buf.1, buf.2 + 64 + row * x.bufStride) (List.replicate x.rowBytes none)).1
      else s1
    updateFill s2 d i e

/-- Something an exchange sent to a peer cannot be delivered: kind 0 a manifest (item: the rank), 1 a grant (the rank),
2 a row (its marked entry), 3 a return (its number). -/
def exchLost (s : State) (d : DieId) (i kind item : Nat) : State :=
  withExch s d i fun r _ =>
    match kind with
    | 0 => closeRank (s.each (r.openTo item) fun t m => failEntry t d i m) d i item
    | 1 => s.each (r.rows.filter fun w => w.rank == item && w.code == 255) fun t w => failRow t d i w.expert w.row 2
    | 2 => failEntry s d i item
    | _ => modExch s d i fun q => { q with returns := modAt q.returns item fun _ => 3 }

/-! ## ROUTE (12 R261 to R264) -/

/-- Does a score rank above another: NaN below every other value. -/
def scoreAbove (a b : Val) : Bool := if a.isNan then false else b.isNan || b.lt a

/-- A scored expert put behind those that rank no lower. -/
def insertScore (p : Nat × Val) : List (Nat × Val) → List (Nat × Val)
  | [] => [p]
  | q :: qs => if scoreAbove p.2 q.2 then p :: q :: qs else q :: insertScore p qs

/-- Experts in descending order of their scores, equal scores by ascending index. -/
def rankScores (vs : List Val) : List (Nat × Val) :=
  (vs.zipIdx.map fun p => (p.2, p.1)).foldl (fun acc p => insertScore p acc) []

/-- The weights of chosen scores under WNORM. -/
def routeWeights (wnorm : Nat) (ss : List F32) : List F32 :=
  if wnorm = 0 then ss
  else
    let es := if wnorm = 1 then ss.map (fun x => vExp (fsub x (ss.headD 0))) else ss
    let total := es.foldl fadd 0
    es.map fun x => fdiv x total

/-- The choices of a score row. -/
def routeScores (x : ExchDesc) (b : List Byte) : List (Nat × F32) :=
  let w := if x.scoreIn = 0 then 4 else 2
  let f : Format := if x.scoreIn = 0 then ⟨.fp32, false⟩ else ⟨.bf16, false⟩
  let top := (rankScores ((List.range x.experts).map fun e => decodeElem f (leAt b (w * e) w))).take x.k
  (top.map (·.1)).zip (routeWeights x.wnorm (top.map fun p => toF32 p.2))

/-- An entry of a freshly routed list; DEST_RANK has no stated value, since ROUTE names no group. -/
def freshEntry (s : State) (expert status weight : Nat) : ListEntry × State :=
  let v := s.draw
  (⟨expert, status, v.1 % 256, weight, noRow⟩, v.2)

/-- The K entries of a token whose row is poison: their EXPERT and WEIGHT have no stated value. -/
def poisonEntries (s : State) (k : Nat) : List ListEntry × State :=
  (List.range k).foldl (fun acc _ =>
    let a := acc.2.draw
    let b := a.2.draw
    let e := freshEntry b.2 (a.1 % 65536) 5 (b.1 % 2 ^ 32)
    (acc.1 ++ [e.1], e.2)) ([], s)

/-- The entries of given choices: (expert, status, weight); a token with fewer experts than choices leaves the rest
INVALID with no stated EXPERT and WEIGHT. -/
def choiceEntries (s : State) (k : Nat) (cs : List (Nat × Nat × Nat)) : List ListEntry × State :=
  (List.range k).foldl (fun acc j =>
    match cs[j]? with
    | some c => let e := freshEntry acc.2 c.1 c.2.1 c.2.2; (acc.1 ++ [e.1], e.2)
    | none =>
      let a := acc.2.draw
      let b := a.2.draw
      let e := freshEntry b.2 (a.1 % 65536) 7 (b.1 % 2 ^ 32)
      (acc.1 ++ [e.1], e.2)) ([], s)

/-- The choices of a choice row, with the status of each (12 R262). -/
def rowChoices (x : ExchDesc) (b : List Byte) : List (Nat × Nat × Nat) :=
  let e (j : Nat) := leAt b (8 * j) 2
  (List.range x.k).map fun j =>
    let bad := x.experts ≤ e j || leAt b (8 * j + 2) 2 != 0 || (List.range j).any fun q => e q == e j
    (e j, if bad then 7 else 0, leAt b (8 * j + 4) 4)

/-- One token routed: its entries, its code, and its first weight that is not finite. -/
structure Routed where
  entries : List ListEntry
  code : Nat
  nf : Option NfElem
  s : State

/-- One token routed. -/
def routeToken (s : State) (r : ExchRun) (x : ExchDesc) (t : Nat) : Routed :=
  let l := exchLoad s (coreFin r.core) r (x.src.1, x.src.2 + t * x.srcStride) x.srcRow
  if l.1.any (·.isNone) then let p := poisonEntries l.2 x.k; ⟨p.1, 1, none, p.2⟩
  else
    let b := optBytes l.1
    let cs := if x.scoreIn = 2 then rowChoices x b else (routeScores x b).map fun p => (p.1, 0, p.2.toNat)
    let es := choiceEntries l.2 x.k cs
    let nf := cs.zipIdx.findSome? fun p =>
      (nfKind (BitVec.ofNat 32 p.1.2.2) false).map fun k =>
        (⟨k.1, false, 0, t / 65536 % 16, t % 65536, p.2⟩ : NfElem)
    ⟨es.1, 0, nf, es.2⟩

/-- The header that ROUTE writes. -/
def routeHeader (x : ExchDesc) (invalid : Nat) : List Byte :=
  leBytes 6 0 ++ leBytes 1 x.k ++ leBytes 1 0 ++ leBytes 4 x.tokens ++ leBytes 2 x.experts ++ leBytes 2 0
    ++ leBytes 20 0 ++ leBytes 4 invalid ++ leBytes 24 0

/-- ROUTE: the whole list written. -/
def runRoute (s : State) (d : DieId) (i : Nat) : State :=
  withExch s d i fun r x =>
    let o := (List.range x.tokens).foldl (fun (acc : List ListEntry × List Nat × Option NfElem × State) t =>
      let y := routeToken acc.2.2.2 r x t
      (acc.1 ++ y.entries, acc.2.1 ++ [y.code], acc.2.2.1 <|> y.nf, y.s)) ([], [], none, s)
    let invalid := (o.1.filter (·.status == 7)).length
    let s1 := exchStore o.2.2.2 (coreFin r.core) x.list 0 (routeHeader x invalid ++ (o.1.map entryBytes).flatten)
    let s2 := s1.bumpBy 0x662006 invalid
    let s3 := modExch s2 d i fun q => { q with tokens := o.2.1, finished := true }
    match o.2.2.1 with
    | none => s3
    | some e => noteNonfinite s3 (coreFin r.core) r.frame 8 r.pc r.seq x.nf e

/-! ## Rows at their destination (12 R268, R273) -/

/-- A row arrives for a granted place: written, marked, and FILL advanced. A row whose place has failed is discarded. -/
def placeRow (s : State) (d : DieId) (i e row : Nat) (bs : List (Option Byte)) : State :=
  withExch s d i fun r x =>
    let buf := (tableAt s x e).1
    if !r.rows.any (fun w => w.expert == e && w.row == row && w.code == 255) then s
    else
      let o := if tableOk s (coreFin r.core) buf (64 + x.bufSpan) true then
          exchRow s (coreFin r.core) r (buf.1, buf.2 + 64 + row * x.bufStride) bs
        else (s, false)
      let code := if !o.2 then 3 else if bs.any (·.isNone) then 1 else 0
      updateFill (modExch o.1 d i fun q => { q with rows := q.rows.map fun w =>
        if w.expert = e && w.row = row then { w with code := code } else w }) d i e

/-- The header of an input buffer as the grant phase leaves it. -/
def bufHeader (r : ExchRun) (placed offered dropped deferred : Nat) : List Byte :=
  leBytes 4 r.frame ++ leBytes 2 r.id ++ leBytes 2 0 ++ leBytes 4 0 ++ leBytes 4 placed ++ leBytes 4 offered
    ++ leBytes 4 dropped ++ leBytes 4 deferred ++ leBytes 36 0

/-- A row map of CAPACITY records: (rank, marked entry) of the rows placed. -/
def mapBytes (cap : Nat) (rows : List (Nat × Nat)) : List Byte :=
  fitBytes (8 * cap) ((rows.map fun p =>
    leBytes 1 p.1 ++ leBytes 1 (1 + (if lateMark ≤ p.2 then 2 else 0)) ++ leBytes 2 0 ++ leBytes 4 (p.2 % lateMark)).flatten)

/-- One expert's offers placed: its row map and header written, its rows awaited (12 R266, R267). `offers` holds the
offers in order of source rank and manifest. Rows whose buffer or row map lies outside R53 take code 3. -/
def placeExpert (s : State) (d : DieId) (i e : Nat) (offers : List (Nat × Nat)) : State :=
  withExch s d i fun r x =>
    let c := coreFin r.core
    let t := tableAt s x e
    let put := offers.take x.cap
    let overs := offers.drop x.cap
    let deferred := if x.defers && !x.repl then (overs.filter fun p => p.2 < lateMark).length else 0
    let ok := tableOk s c t.1 (64 + x.bufSpan) true && tableOk s c t.2.2 (8 * x.cap) true
    let s1 := modExch s d i fun q => { q with rows := q.rows ++ put.zipIdx.map fun p =>
      ⟨e, p.2, p.1.1, if ok then 255 else 3⟩ }
    if !ok then s1
    else
      let s2 := exchStore s1 c t.2.2 0 (mapBytes x.cap put)
      let s3 := exchStore s2 c t.1 0 (bufHeader r put.length offers.length (overs.length - deferred) deferred)
      updateFill s3 d i e

/-! ## Dispatch (12 R266) -/

/-- The offers of this member to an expert: the DEFERRED entries of PREV, then the OFFERED entries of LIST. -/
def offersTo (s : State) (x : ExchDesc) (expert : Nat) : List Nat :=
  let p := x.prevShape s
  let late := match x.prevAt with
    | some l => (List.range (p.1 * p.2)).filter fun i => let e := entryAt s l i; e.status == 3 && e.expert == expert
    | none => []
  let own := (List.range x.entryCount).filter fun i => let e := entryAt s x.list i; e.status == 0 && e.expert == expert
  late.map (lateMark + ·) ++ own

/-- A manifest's words: the counts, then the entries. -/
def manifestWords (os : List (List Nat)) : List Nat := os.map List.length ++ os.flatten

/-- The offers that a manifest's words list for each of `n` experts. -/
def splitManifest : Nat → List Nat → List Nat → List (List Nat)
  | 0, _, _ => []
  | n + 1, counts, es => es.take (counts.headD 0) :: splitManifest n (counts.drop 1) (es.drop (counts.headD 0))

/-- Words from bytes. -/
def u32sOf : Nat → List Byte → List Nat
  | 0, _ => []
  | n + 1, bs => leNat (bs.take 4) :: u32sOf n (bs.drop 4)

/-- The row of SRC for a marked entry: of a late entry, from the SRC that PREV's header records; under REUSE with WEIGHT
scaled by the entry's weight (12 R267, R274). -/
def dispatchRow (s : State) (r : ExchRun) (x : ExchDesc) (m : Nat) : List (Option Byte) × State :=
  let l := entryOf x m
  let k := if lateMark ≤ m then (listShape s l.1).2 else x.k
  let src := if lateMark ≤ m then locOf (leNat (peekAt s l.1 0x10 8)) else x.src
  let o := exchLoad s (coreFin r.core) r (src.1, src.2 + l.2 / max k 1 * x.srcStride) x.rowBytes
  if !(x.reuse && x.weight) || o.1.any (·.isNone) then o
  else
    let w := BitVec.ofNat 32 (entryAt s l.1 l.2).weight
    let row : Row := ⟨leNat (optBytes o.1), 0⟩
    let vs := (List.range x.cols).map fun j => (fmul w (rowF32 x.fmt x.cols row j), RMode.rne)
    ((fitBytes x.rowBytes (writeRow x.fmt vs).bytes).map some, o.2)

/-- A token row sent to its place at a rank. -/
def sendRow (s : State) (d : DieId) (i m rank expert row : Nat) : State :=
  withExch s d i fun r x =>
    let l := dispatchRow s r x m
    let bad := l.1.any (·.isNone)
    let set (t : State) : State := modExch t d i fun q => { q with
      sent := if lateMark ≤ m then q.sent else m :: q.sent
      entries := if lateMark ≤ m then q.entries else modAt q.entries m fun _ => if bad then 1 else 0 }
    if rank = x.self s d then placeRow (set l.2) d i (expert % max (x.epr s) 1) row l.1
    else
      let o := sendRowBytes l.2 d r 2 rank expert row m (lateMark ≤ m) l.1
      if o.2 then set o.1 else exchLost (set o.1) d i 2 m

/-- One offer answered: placed at a row, or overflowed (12 R266, R267). -/
def settleOffer (s : State) (d : DieId) (i rank expert m : Nat) (row : Option Nat) : State :=
  withExch s d i fun r x =>
    let c := coreFin r.core
    let l := entryOf x m
    let late := lateMark ≤ m
    match row with
    | some b => ((markEntry s c l.1 l.2 (if late then 4 else 1) rank b).bump 0x662005)
    | none =>
      let defer := x.defers && !x.repl && !late
      let s1 := (markEntry s c l.1 l.2 (if defer then 3 else 2) rank noRow).bump (if defer then 0x662004 else 0x662003)
      let _ := expert
      modExch s1 d i fun q => { q with entries := if late then q.entries else modAt q.entries m fun _ => 0 }

/-- A rank's grant: FIRST_ROW and PLACED of each of its experts (12 R266). -/
def takeGrant (s : State) (d : DieId) (i rank : Nat) (pairs : List (Nat × Nat)) : State :=
  withExch s d i fun r x =>
    let mine := r.offers.filter fun o => o.1 == rank
    let s1 := s.each mine fun t o =>
      let g := pairs.getD o.2.1 (0, 0)
      t.each o.2.2.zipIdx fun u p =>
        let expert := rank * x.epr s + o.2.1
        if p.2 < g.2 then
          sendRow (settleOffer u d i rank expert p.1 (some (g.1 + p.2))) d i p.1 rank expert (g.1 + p.2)
        else settleOffer u d i rank expert p.1 none
    closeRank s1 d i rank

/-- Every manifest is held: the offers are placed, and each rank's grant is sent (12 R266). -/
def placeManifests (s : State) (d : DieId) (i : Nat) : State :=
  withExch s d i fun r x =>
    let g := x.group s
    let n := x.epr s
    let split (k : Nat) : List (List Nat) :=
      let ws := ((r.manifests.find? fun p => p.1 == k).map (·.2)).getD []
      splitManifest n (ws.take n) (ws.drop n)
    let lists := (List.range g).map split
    let offers (e : Nat) : List (Nat × Nat) :=
      (lists.zipIdx.map fun p => (p.1.getD e []).map fun m => (p.2, m)).flatten
    let s1 := s.each (List.range n) fun t e => placeExpert t d i e (offers e)
    let first (k e : Nat) : Nat := min x.cap (sumOf ((lists.take k).map fun l => (l.getD e []).length))
    let pairs (k : Nat) : List (Nat × Nat) := (List.range n).map fun e =>
      (first k e, min ((lists.getD k []).getD e []).length (x.cap - first k e))
    let s2 := s1.each ((List.range g).filter (· != x.self s d)) fun t k =>
      let o := sendExch t d r 1 k 0 0 k false false ((pairs k).map fun p => leBytes 4 p.1 ++ leBytes 4 p.2).flatten
      if o.2 then o.1 else exchLost o.1 d i 1 k
    takeGrant s2 d i (x.self s d) (pairs (x.self s d))

/-- A manifest taken; with the last one the offers are placed. -/
def takeManifest (s : State) (d : DieId) (i rank : Nat) (words : List Nat) : State :=
  withExch s d i fun r x =>
    let s1 := modExch s d i fun q => { q with manifests := q.manifests ++ [(rank, words)] }
    if r.manifests.length + 1 = x.group s then placeManifests s1 d i else s1

/-- Entries of the list that a DISPATCH does not offer take code 0, the others stay open. -/
def openEntries (s : State) (x : ExchDesc) (status : Nat) : List Nat :=
  (List.range x.entryCount).map fun i =>
    let e := entryAt s x.list i
    if e.status = status && e.expert < x.experts then 255 else 0

/-- A DISPATCH of three phases begins: the manifests are sent (12 R266). -/
def beginDispatch (s : State) (d : DieId) (i : Nat) : State :=
  withExch s d i fun r x =>
    let n := x.epr s
    let os := (List.range (x.group s)).map fun k => (k, (List.range n).map fun e => offersTo s x (k * n + e))
    let s1 := modExch s d i fun q => { q with
      entries := openEntries s x 0
      offers := (os.map fun o => o.2.zipIdx.map fun p => (o.1, p.2, p.1)).flatten }
    let s2 := s1.each (os.filter fun o => o.1 != x.self s d) fun t o =>
      let m := sendExch t d r 0 o.1 0 0 o.1 false false ((manifestWords o.2).map (leBytes 4)).flatten
      if m.2 then m.1 else exchLost m.1 d i 0 o.1
    takeManifest s2 d i (x.self s d) (manifestWords ((os.getD (x.self s d) (0, [])).2))

/-- A REPLICATED DISPATCH: every member places its own experts' entries from its own rows (12 R273). -/
def runReplicated (s : State) (d : DieId) (i : Nat) : State :=
  let s1 := withExch s d i fun _ x => modExch s d i fun q => { q with entries := openEntries s x 0 }
  withExch s1 d i fun _ x =>
    let n := max (x.epr s) 1
    let s2 := s1.each (List.range x.experts) fun t expert =>
      let es := (List.range x.entryCount).filter fun m =>
        let e := entryAt s x.list m
        e.status == 0 && e.expert == expert
      let own := expert / n == x.self s d
      let t1 := if own then placeExpert t d i (expert % n) (es.map fun m => (0, m)) else t
      t1.each es.zipIdx fun u p =>
        if p.2 < x.cap then
          let u1 := settleOffer u d i (expert / n) expert p.1 (some p.2)
          if own then sendRow u1 d i p.1 (x.self s d) expert p.2
          else modExch u1 d i fun q => { q with entries := modAt q.entries p.1 fun _ => 0 }
        else settleOffer u d i (expert / n) expert p.1 none
    dispatchHeader s2 d i

/-- The VALID records of this member's row maps, as (local expert, row) with (rank, late, entry). Every row of a map that fails
R53, and a record read as poison, stands with none: its row is affected and cannot be returned (12 R260,
notes/assumptions/154.md). -/
def validRows (s : State) (c : CoreId) (x : ExchDesc) : List (Nat × Nat × Option (Nat × Bool × Nat)) :=
  ((List.range (x.epr s)).map fun e =>
    (List.range x.cap).filterMap fun r =>
      match mapAt s c x (tableAt s x e).2.2 r with
      | some m => if bitAt m.2.1 0 then some (e, r, some (m.1, bitAt m.2.1 1, m.2.2)) else none
      | none => some (e, r, none)).flatten

/-- A REUSE DISPATCH: the PLACED entries' rows are sent to the rows they had (12 R274). -/
def runReuse (s : State) (d : DieId) (i : Nat) : State :=
  let s1 := withExch s d i fun r x =>
    let c := coreFin r.core
    let ok (e : Nat) : Bool :=
      let t := tableAt s x e
      tableOk s c t.1 (64 + x.bufSpan) true && tableOk s c t.2.2 (8 * x.cap) false
    let t1 := modExch s d i fun q => { q with
      entries := openEntries s x 1
      rows := (validRows s c x).map fun v => match v.2.2 with
        | some m => ⟨v.1, v.2.1, m.1, if !ok v.1 then 3 else if m.2.1 then 0 else 255⟩
        | none => ⟨v.1, v.2.1, 0, 3⟩ }
    t1.each (List.range (x.epr s)) fun t e =>
      if ok e then updateFill (exchStore t c (tableAt t x e).1 0 (leBytes 4 r.frame ++ leBytes 2 r.id)) d i e else t
  withExch s1 d i fun _ x =>
    s1.each (List.range x.entryCount) fun t m =>
      let e := entryAt s x.list m
      if e.status = 1 && e.expert < x.experts then sendRow t d i m (e.expert / max (x.epr s) 1) e.expert e.row else t

/-! ## Combine (12 R271 to R274) -/

/-- The slots that a token awaits: its PLACED entries. -/
def awaited (s : State) (x : ExchDesc) (t : Nat) : List Nat :=
  ((List.range x.k).map fun j => t * x.k + j).filter fun m => (entryAt s x.list m).status == 1

/-- The rounding mode of an element of a DST row. -/
def exchMode (s : State) (x : ExchDesc) (step t col : Nat) : RMode :=
  match x.rnd with
  | 0 => .rne
  | 1 => .rtz
  | _ => .sr (cable (s.obj kSeed) step x.tensor 0 ((x.o1 + t) % 2 ^ 24) ((x.o0 + col) % 2 ^ 24))

/-- The row in a STAGE slot, as values. -/
def slotVals (s : State) (r : ExchRun) (x : ExchDesc) (slot : Nat) : List F32 × Bool × State :=
  let l := exchLoad s (coreFin r.core) r (x.stage.1, x.stage.2 + slot * x.slot) x.rowBytes
  let row : Row := ⟨leNat (optBytes l.1), 0⟩
  ((List.range x.cols).map (rowF32 x.fmt x.cols row), l.1.any (·.isNone), l.2)

/-- Returned rows summed into a DST row in choice order, and the row written. `terms` holds slots and weights; `acc0` says
that the sum starts from the row. The result's code: 0 written, 1 written poisoned, 4 not written. -/
def sumRow (s : State) (d : DieId) (i t : Nat) (dst : Nat × Nat) (acc0 : Bool) (poisoned : Bool)
    (terms : List (Nat × F32)) : State × Nat :=
  match exchAt s d i with
  | none => (s, 4)
  | some r =>
    let x := exchOf r.desc
    let c := coreFin r.core
    let old := if acc0 then exchLoad s c r dst x.dstRow else (List.replicate x.dstRow (some 0#8), s)
    let start := optVals x.dstFmt x.cols old.1
    let o := terms.foldl (fun (acc : List F32 × Bool × State) p =>
      let v := slotVals acc.2.2 r x p.1
      (List.zipWith (fun a y => fadd a (fmul p.2 y)) acc.1 v.1, acc.2.1 || v.2.1, v.2.2))
      (start.map fun v => v.getD 0, poisoned || start.any (·.isNone), old.2)
    let f : Format := (formatOf x.dstFmt).getD ⟨.fp32, false⟩
    let out := o.1.zipIdx.map fun p => convElem f (exchMode s x r.step t p.2) (valOf p.1)
    let bs : List (Option Byte) := if o.2.1 then List.replicate x.dstRow none
      else (out.map fun k => (leBytes (collFmtBytes x.dstFmt) k.bits).map some).flatten
    let w := exchRow o.2.2 c r dst bs
    let nf := !o.2.1 && out.any fun k => (decodeElem f k.bits).isFin == false
    (modExch w.1 d i fun q => { q with nonfinite := q.nonfinite || nf },
      if !w.2 then 4 else if o.2.1 then 1 else 0)

/-- The weight of an entry in a COMBINE. -/
def entryWeight (x : ExchDesc) (e : ListEntry) : F32 := if x.weight then BitVec.ofNat 32 e.weight else f32One

/-- A token's DST row written once every return it awaits has arrived (12 R271). -/
def writeToken (s : State) (d : DieId) (i t : Nat) : State :=
  withExch s d i fun r x =>
    let ms := awaited s x t
    let dst := (x.dst.1, x.dst.2 + t * x.dstStride)
    let dead := (List.range x.k).any fun j => (entryAt s x.list (t * x.k + j)).status == 5
    let bad := dead || r.slots.any fun p => p.2 && ms.contains p.1
    let o := if x.accum && ms.isEmpty && !dead then (s, 0)
      else sumRow s d i t dst x.accum bad (ms.map fun m => (m, entryWeight x (entryAt s x.list m)))
    modExch o.1 d i fun q => { q with tokens := modAt q.tokens t fun _ => o.2 }

/-- The results of PREV's PLACED_LATE entries added into the rows of PREV's DST (12 R272). -/
def writeLate (s : State) (d : DieId) (i : Nat) : State :=
  withExch s d i fun r x =>
    match x.prevAt with
    | none => s
    | some l =>
      let p := x.prevShape s
      let dst := locOf (leNat (peekAt s l 0x28 8))
      s.each (List.range p.1) fun t0 t =>
        let ms := ((List.range p.2).map fun j => t * p.2 + j).filter fun m => (entryAt s l m).status == 4
        if ms.isEmpty then t0
        else
          let slots := ms.map fun m => (x.entryCount + m, entryWeight x (entryAt s l m))
          let bad := r.slots.any fun q => q.2 && slots.any fun w => w.1 == q.1
          (sumRow t0 d i t (dst.1, dst.2 + t * x.dstStride) true bad slots).1

/-- The late slots that a COMBINE awaits. -/
def awaitedLate (s : State) (x : ExchDesc) : List Nat :=
  match x.prevAt with
  | none => []
  | some l => let p := x.prevShape s
    ((List.range (p.1 * p.2)).filter fun m => (entryAt s l m).status == 4).map (x.entryCount + ·)

/-- The tokens whose returns are all in are written; then, when every row is written and every late return is in, PREV's
rows; and the list records DST. -/
def combineRows (s : State) (d : DieId) (i : Nat) : State :=
  let s1 := withExch s d i fun r x =>
    s.each ((List.range x.tokens).filter fun t => r.tokens.getD t 0 == 255
        && (awaited s x t).all fun m => r.slots.any fun p => p.1 == m) fun u t => writeToken u d i t
  withExch s1 d i fun r x =>
    if r.finished || r.tokens.contains 255 || !(awaitedLate s1 x).all (fun m => r.slots.any fun p => p.1 == m) then s1
    else
      let s2 := exchStore s1 (coreFin r.core) x.list 0x28 (leBytes 8 (x.dst.2 + x.dst.1 * 2 ^ 48))
      modExch (writeLate s2 d i) d i fun q => { q with finished := true }

/-- A returned row is written into its slot of STAGE. -/
def takeReturn (s : State) (d : DieId) (i entry : Nat) (late : Bool) (bs : List (Option Byte)) : State :=
  withExch s d i fun r x =>
    let slot := if late then x.entryCount + entry else entry
    let bad := bs.any (·.isNone)
    let o := exchRow s (coreFin r.core) r (x.stage.1, x.stage.2 + slot * x.slot) bs
    modExch o.1 d i fun q => { q with slots := q.slots ++ [(slot, bad || !o.2)] }

/-- Does a COMBINE of this member await an entry with an expert. -/
def awaitsReturn (s : State) (x : ExchDesc) (late : Bool) (entry expert : Nat) : Bool :=
  if late then
    match x.prevAt with
    | none => false
    | some l => let p := x.prevShape s; entry < p.1 * p.2 && (entryAt s l entry).status == 4 && (entryAt s l entry).expert == expert
  else entry < x.entryCount && (entryAt s x.list entry).status == 1 && (entryAt s x.list entry).expert == expert

/-- One returned row sent to a rank, or taken by this member itself. -/
def sendReturn (s : State) (d : DieId) (i rank expert entry : Nat) (late count : Bool) (l : List (Option Byte)) : State :=
  withExch s d i fun r x =>
    let n := r.returns.length
    let note (t : State) : State := if count then modExch t d i fun q => { q with returns := q.returns ++ [0] } else t
    if rank = x.self s d then
      let t := note s
      if awaitsReturn s x late entry expert then takeReturn t d i entry late l else t
    else
      let o := sendRowBytes (note s) d r 3 rank expert entry n late l
      if o.2 then o.1 else exchLost o.1 d i 3 n

/-- A COMBINE begins: the expert host's rows are returned, and the tokens that await nothing are written. -/
def beginCombine (s : State) (d : DieId) (i : Nat) : State :=
  let s1 := withExch s d i fun _ x => modExch s d i fun q => { q with tokens := List.replicate x.tokens 255 }
  let s2 := withExch s1 d i fun r x =>
    let c := coreFin r.core
    s1.each (validRows s c x) fun t v =>
      let expert := x.self s d * x.epr s + v.1
      let out := (tableAt s x v.1).2.1
      let others (ks : List Nat) : List Nat := ks.filter fun k => !x.repl || k != x.self s d
      let dead (ks : List Nat) : State := modExch t d i fun q => { q with
        returns := q.returns ++ (others ks).map fun _ => 3 }
      match v.2.2 with
      | none => dead (if x.repl then List.range (x.group s) else [x.group s])
      | some (rank, late, entry) =>
        let dests := if x.repl then List.range (x.group s) else [rank]
        if x.reuse && late then t
        else if !tableOk s c out x.bufSpan false then dead dests
        else
          let l := exchLoad t c r (out.1, out.2 + v.2.1 * x.bufStride) x.rowBytes
          l.2.each dests fun u k => sendReturn u d i k expert entry late (!x.repl || k != x.self s d) l.1
  combineRows s2 d i

/-! ## Acceptance (12 R256, R257) -/

/-- A fresh exchange. -/
def freshExch (c : CoreId) (q : QInst) (b : List Byte) : ExchRun :=
  { core := c.val, seq := q.seq, pc := q.pc, frame := q.frame % 2 ^ 32, step := q.step, id := (exchOf b).id, desc := b,
    parts := [], manifests := [], granted := [], offers := [], entries := [], rows := [], slots := [], tokens := [],
    returns := [], sent := [], nonfinite := false, aborted := false, finished := false, duplicate := false }

/-- The scratchpad banks that an exchange reaches: of the ranges it names, of PREV's SRC and DST, and of its record. -/
def exchBanks (s : State) (b : List Byte) : List Nat :=
  let x := exchOf b
  let ext (e : Ext) : List Nat := rangeBanks s e.seg e.range.1.toNat (e.range.2 + 1 - e.range.1).toNat
  let late : List Nat := match x.prevAt with
    | none => []
    | some l =>
      let n := (x.prevShape s).1
      let at' (o stride row : Nat) : List Nat :=
        let p := locOf (leNat (peekAt s l o 8)); if n = 0 then [] else ext ⟨p.1, p.2, row, n - 1, stride, 0, 0⟩
      if x.op = 1 then at' 0x10 x.srcStride x.rowBytes else at' 0x28 x.dstStride x.dstRow
  ((exchRanges s x).map fun r => ext r.ext).flatten ++ late
    ++ if x.recEn then rangeBanks s x.recAt.1 x.recAt.2 (recordSpace x.map (x.maxSegments s)) else []

/-- Does an exchange wait for a handover issued before it (03 R61). -/
def exchWaits (s : State) (c : CoreId) (q : QInst) (b : List Byte) : Bool := handoverWaits (s.core c) q.seq (exchBanks s b)

/-- The list, the table, PREV and the row maps are read whole, and the operation begins. -/
def beginExch (s : State) (d : DieId) (i : Nat) : State :=
  match exchAt s d i with
  | none => s
  | some r =>
    let x := exchOf r.desc
    let c := coreFin r.core
    let read (t : State) (l : Nat × Nat) (n : Nat) : State := (exchLoad t c r l n).2
    if x.op = 0 then runRoute s d i
    else
      let p := x.prevShape s
      let s1 := read (read s x.list (64 + 16 * x.entryCount)) x.table (32 * x.epr s)
      let s2 := match x.prevAt with
        | some l => if p.1 * p.2 = 0 then s1 else read s1 l (64 + 16 * p.1 * p.2)
        | none => s1
      let s3 := if x.op = 1 && !x.reuse then s2
        else s2.each (List.range (x.epr s)) fun t e =>
          let l := (tableAt t x e).2.2
          if tableOk t c l (8 * x.cap) false then read t l (8 * x.cap) else t
      if x.op = 1 then (if x.reuse then runReuse s3 d i else if x.repl then runReplicated s3 d i else beginDispatch s3 d i)
      else beginCombine s3 d i

/-- An exchange ends HALTED: what is open takes code 4 and is poisoned, and every buffer it was filling gets FILL = PLACED
with COMPLETE set (12 R278). -/
def haltExch (s : State) (d : DieId) (i : Nat) (dup : Bool) : State :=
  let s1 := withExch s d i fun r x =>
    let a := s.each (r.rows.filter (·.code == 255)) fun t w => failRow t d i w.expert w.row 4
    let b := a.each ((List.range r.tokens.length).filter fun t => x.op == 2 && r.tokens.getD t 0 == 255) fun t k =>
      (exchRow t (coreFin r.core) r (x.dst.1, x.dst.2 + k * x.dstStride) (List.replicate x.dstRow none)).1
    modExch b d i fun q => { q with
      entries := q.entries.map fun k => if k = 255 then 4 else k
      tokens := q.tokens.map fun k => if k = 255 then 4 else k }
  modExch s1 d i fun q => { q with finished := true, aborted := !dup, duplicate := dup }

/-- The segments of an exchange that ends as it is accepted, all open: of a repeated one every segment, of an aborted one
those that had work (11 R236, R251). -/
def openRun (s : State) (d : DieId) (i : Nat) (dup : Bool) : State :=
  withExch s d i fun _ x => modExch s d i fun q => { q with
    entries := if x.op = 1 then (if dup then List.replicate x.entryCount 255 else openEntries s x (if x.reuse then 1 else 0)) else []
    tokens := if x.op = 2 then List.replicate x.tokens 255 else [] }

/-- The codes of an exchange's segments, in order (12 Table 12.6). -/
def exchCodes (r : ExchRun) : List Nat :=
  match (exchOf r.desc).op with
  | 0 => r.tokens
  | 1 => r.entries ++ r.rows.map (·.code)
  | _ => r.tokens ++ r.returns

/-- Raw bytes of a segment: none of a list entry whose row was not sent. -/
def exchRaw (r : ExchRun) (k : Nat) : Nat :=
  let x := exchOf r.desc
  match x.op with
  | 0 => x.srcRow
  | 1 => if k < r.entries.length && !r.sent.contains k then 0 else x.rowBytes
  | _ => if k < r.tokens.length then x.dstRow else x.rowBytes

/-- Bytes that a segment wrote at its destination: of a token that ROUTE chose for, its list entries. -/
def exchOut (r : ExchRun) (k : Nat) : Nat :=
  let x := exchOf r.desc
  if x.op = 0 then 16 * x.k else exchRaw r k

/-- The completion record of an exchange is written, its flags are raised, and its queue entry is done (12 R276). A record in a
bank that DMA may not reach traps the issuing core and is not written. NONFINITE status of a COMBINE counts as an
instruction's and enters no first-position record (notes/assumptions/153.md). -/
def finishExch (s : State) (d : DieId) (i : Nat) (r : ExchRun) : State :=
  let x := exchOf r.desc
  let c := coreFin r.core
  let codes := exchCodes r
  let bad := codes.any (· != 0)
  let status := if r.aborted || r.duplicate then 4 else recordStatus codes false
  let rec' := completionRecord (codes.zipIdx.map fun p => (p.1, exchOut r p.2)) (exchRaw r) status
    ++ if x.map then segmentMap codes else []
  let s1 := if x.recEn then
      match dmaBanksOk s c x.recAt.1 x.recAt.2 rec'.length r.seq with
      | .trap t => trapCore s c t 8 r.pc
      | _ => moverPut s c (placeOf s x.recAt.1) x.recAt.2 rec' 2
    else s
  let s2 := (s1.bump 0x662001).when bad fun t => raiseFlags (t.bump 0x662002) flagExchange
  let s3 := s2.when (x.op == 2 && r.nonfinite) fun t =>
    (t.bump 0x620101).when x.nf fun u => raiseFlags (u.bump 0x620102) flagNonfinite
  let s4 := modSkein s3 d fun e => { e with runs := e.runs.eraseIdx i }
  modEntry s4 c 8 r.seq fun y => { y with done := 1 }

/-- The exchange in slot `i` completes. -/
def endAtOnce (s : State) (d : DieId) (i : Nat) : State :=
  match exchAt s d i with
  | none => s
  | some r => finishExch s d i r

/-- EXCH_ACCEPT: the Skein unit of a die accepts the next exchange, when fewer than 8 are in progress (12 R256). -/
def execExchAccept (die : DieId) (s : State) : Result :=
  let e := (s.unit die).skein
  if 8 ≤ e.runs.length then .next s
  else match acceptCore s die 8 e.last with
  | none => .next s
  | some (c, q) =>
    match q.op with
    | .exch b =>
     if exchWaits s c q b then .next s
     else
      let r := freshExch c q b
      let x := exchOf b
      let i := e.runs.length
      let dup := x.op != 0 && e.runs.any fun y => y.frame == r.frame && y.id == r.id && (exchOf y.desc).op != 0
      let s1 := modEntry s c 8 q.seq fun y => { y with accepted := true }
      let s2 := modSkein s1 die fun y => { y with runs := y.runs ++ [r], last := c.val % 4 }
      .next (if dup then endAtOnce (raiseFlags (haltExch (openRun s2 die i true) die i true) flagExchange) die i
        else match s.faulted with
          | some n => if q.frame ≤ n && x.op != 0 then endAtOnce ((haltExch (openRun s2 die i false) die i false).bump 0x662009) die i else beginExch s2 die i
          | none => beginExch s2 die i)
    | _ => .next s

/-! ## Arrival (12 R275) -/

/-- The run that a frame belongs to. -/
def exchFor (s : State) (h : ExchHead) : Option (DieId × Nat) :=
  allDies.findSome? fun d =>
    (indexOf? (fun r : ExchRun => r.frame == h.frame && r.id == h.id && !r.duplicate && (exchOf r.desc).op != 0)
      (s.unit d).skein.runs).map fun i => (d, i)

/-- May a run take a frame of its kind. -/
def exchTakes (s : State) (r : ExchRun) (h : ExchHead) : Bool :=
  let x := exchOf r.desc
  let three := x.op == 1 && !x.reuse && !x.repl
  h.rank < x.group s
    && (match h.kind with
      | 0 => three && !r.manifests.any fun p => p.1 == h.rank
      | 1 => three && !r.granted.contains h.rank
      | 2 => x.op == 1 && r.rows.any fun w => w.rank == h.rank && w.row == h.index
          && h.expert / max (x.epr s) 1 == x.self s (dieFin (r.core / 4)) && h.expert % max (x.epr s) 1 == w.expert
      | _ => x.op == 2 && awaitsReturn s x h.late h.index h.expert
          && !r.slots.any fun p => p.1 == if h.late then x.entryCount + h.index else h.index)

/-- What becomes of an exchange frame: it waits while its exchange is not yet accepted, as a collective's does
(11 R242). -/
def exchFate (s : State) (payload : List Byte) : Option (Option (DieId × Nat)) :=
  let h := exchHead payload
  let old : Option (Option (DieId × Nat)) := if !h.zero || precedes 32 h.frame (s.run.frame % 2 ^ 32) then some none else none
  match exchFor s h with
  | none => old
  | some (d, i) =>
    match exchAt s d i with
    | none => none
    | some r => if r.aborted then old else if h.zero && exchTakes s r h then some (some (d, i)) else some none

/-- The frames of one message or row, joined as far as they follow one another. -/
def joinParts (ps : List ExchPart) : Nat → List Byte → Bool → List Byte × Bool
  | 0, acc, bad => (acc, bad)
  | n + 1, acc, bad =>
    match ps.find? fun p => p.offset * 16 == acc.length with
    | some p => if p.bytes.isEmpty then (acc, bad) else joinParts ps n (acc ++ p.bytes) (bad || p.poison)
    | none => (acc, bad)

/-- Bytes that a message or row needs, from what has arrived of it; none while that is not known. -/
def partNeeds (s : State) (x : ExchDesc) (kind : Nat) (bs : List Byte) : Option Nat :=
  let n := x.epr s
  match kind with
  | 0 => if bs.length < 4 * n then none else some (4 * n + 4 * sumOf (u32sOf n bs))
  | 1 => some (8 * n)
  | _ =>
    if !x.zr then some x.rowBytes
    else
      let m := zrLength (cdiv x.rowBytes 256) (bs ++ List.replicate 8 0#8)
      if m ≤ bs.length then some m else none

/-- A whole message or row acts. -/
def actWhole (s : State) (d : DieId) (i : Nat) (h : ExchHead) (bs : List Byte) (bad : Bool) : State :=
  withExch s d i fun _ x =>
    let n := x.epr s
    let row : List (Option Byte) := flagBytes (if x.zr then zrExpand x.rowBytes bs else bs.take x.rowBytes) bad
    let s := if x.zr && 2 ≤ h.kind then countZr s x.rowBytes (zrLength (cdiv x.rowBytes 256) (bs ++ List.replicate 8 0#8)) else s
    match h.kind with
    | 0 => takeManifest s d i h.rank (u32sOf (n + sumOf (u32sOf n bs)) bs)
    | 1 =>
      let ws := u32sOf (2 * n) bs
      takeGrant s d i h.rank ((List.range n).map fun e => (ws.getD (2 * e) 0, ws.getD (2 * e + 1) 0))
    | 2 => placeRow s d i (h.expert % max n 1) h.index row
    | _ => combineRows (takeReturn s d i h.index h.late row) d i

/-- A frame that its exchange takes: it acts once its message or row is whole. -/
def takeExch (s : State) (d : DieId) (i : Nat) (payload : List Byte) : State :=
  withExch s d i fun r x =>
    let h := exchHead payload
    let part : ExchPart := ⟨h.kind, h.rank, h.expert, h.index, h.late, h.offset, payload.drop 16, h.poison⟩
    let same (p : ExchPart) : Bool := p.kind == h.kind && p.rank == h.rank && p.expert == h.expert && p.index == h.index
      && p.late == h.late
    let ps := (r.parts ++ [part]).filter same
    let j := joinParts ps ps.length [] false
    let whole : Bool := match partNeeds s x h.kind j.1 with
      | some n => n ≤ j.1.length
      | none => false
    if whole then actWhole (modExch s d i fun q => { q with parts := q.parts.filter fun p => !same p }) d i h j.1 j.2
    else modExch s d i fun q => { q with parts := q.parts ++ [part] }

/-- The first frame of a kind in a port's EXCH buffer that need not wait is taken or refused. -/
def receiveExch (s : State) (p : PortId) (kind : Nat) : State :=
  let fs := if s.life.resetting then [] else vcAt (s.port p).rx 1
  match indexOf? (fun f : RxFrame => (exchHead f.payload).kind == kind && (exchFate s f.payload).isSome) fs with
  | none => s
  | some k =>
    let pl := ((fs[k]?).map (·.payload)).getD []
    match exchFate s pl with
    | some (some (d, i)) => takeExch (countPath (takeRx s p 1 k) (portDie p) d (16 + pl.length)) d i pl
    | _ => raiseFlags ((takeRx s p 1 k).bump 0x662008) flagExchange

/-- MANIFEST_RECEIVE (12 R266). -/
def execManifestReceive (src : PortId) (s : State) : Result := .next (receiveExch s src 0)

/-- GRANT_RECEIVE (12 R266). -/
def execGrantReceive (src : PortId) (s : State) : Result := .next (receiveExch s src 1)

/-- ROW_RECEIVE (12 R268). -/
def execRowReceive (src : PortId) (s : State) : Result := .next (receiveExch s src 2)

/-- RETURN_RECEIVE (12 R271). -/
def execReturnReceive (src : PortId) (s : State) : Result := .next (receiveExch s src 3)

/-! ## Completion (12 R268, R276) -/

/-- Is a frame owned by an exchange. -/
def isExchOwner (d frame id : Nat) : FrameOwner → Bool
  | .exch d' f' i' _ _ => d' == d && f' == frame && i' == id
  | _ => false

/-- Has everything a DISPATCH awaits from the members arrived: every grant is taken and every row of its buffers is in. -/
def dispatchFed (s : State) (r : ExchRun) : Bool :=
  let x := exchOf r.desc
  r.rows.all (·.code != 255) && r.entries.all (· != 255)
    && (x.reuse || x.repl || (r.granted.length == x.group s && r.manifests.length == x.group s))

/-- Has a DISPATCH finished: every buffer COMPLETE, every grant taken, every row acknowledged. -/
def dispatchDone (s : State) (d : DieId) (r : ExchRun) : Bool :=
  (exchOf r.desc).op == 1 && !r.finished && dispatchFed s r && !ownsFrames s (isExchOwner d.val r.frame r.id)

/-- Does an exchange still wait for a member. -/
def exchWaiting (s : State) (r : ExchRun) : Bool := !r.finished && !((exchOf r.desc).op == 1 && dispatchFed s r)

/-- DISPATCH_FINISH (12 R268). -/
def execDispatchFinish (die : DieId) (slot : Fin 8) (s : State) : Result :=
  match exchAt s die slot.val with
  | none => .next s
  | some r =>
    .next (if dispatchDone s die r then modExch s die slot.val fun q => { q with finished := true } else s)

/-- Has an exchange ended: it is finished, and nothing it sent is unacknowledged. -/
def exchEnded (s : State) (d : DieId) (r : ExchRun) : Bool :=
  r.finished && ((exchOf r.desc).op == 0 || r.aborted || r.duplicate || !ownsFrames s (isExchOwner d.val r.frame r.id))

/-- What a receiver still waits for has failed at its sender: rows and DST rows take code 2, entries without a grant
code 3 (12 R278). -/
def giveUp (s : State) (d : DieId) (i : Nat) : State :=
  let s1 := withExch s d i fun r x =>
    let a := s.each (r.rows.filter (·.code == 255)) fun t w => failRow t d i w.expert w.row 2
    let b := a.each ((List.range r.entries.length).filter fun m => r.entries.getD m 0 == 255) fun t m => failEntry t d i m
    let e := b.each ((List.range r.tokens.length).filter fun t => x.op == 2 && r.tokens.getD t 0 == 255) fun t k =>
      (exchRow t (coreFin r.core) r (x.dst.1, x.dst.2 + k * x.dstStride) (List.replicate x.dstRow none)).1
    let f := modExch e d i fun q => { q with tokens := q.tokens.map fun k => if k = 255 then 2 else k }
    if x.op == 1 && !x.reuse && !x.repl then f.each (List.range (x.group s)) fun t k => closeRank t d i k else f
  modExch s1 d i fun q => { q with finished := true }

/-- EXCH_COMPLETE: an exchange ends. -/
def execExchComplete (die : DieId) (slot : Fin 8) (lost : Bool) (s : State) : Result :=
  match exchAt s die slot.val with
  | none => .next s
  | some r =>
    if exchEnded s die r then .next (finishExch s die slot.val r)
    else if lost then
      let s1 := giveUp s die slot.val
      match exchAt s1 die slot.val with
      | none => .next s1
      | some q => .next (finishExch s1 die slot.val q)
    else .next s

/-- Every exchange of frames up to `n`, and with `stop` every exchange that waits for a member, is aborted
(12 R278). -/
def abortExchs (s : State) (n : Nat) (stop : Bool) : State :=
  s.each allDies fun t d =>
    t.each (List.range (t.unit d).skein.runs.length) fun u i =>
      match exchAt u d i with
      | none => u
      | some r =>
        if r.aborted || r.duplicate || (exchOf r.desc).op == 0 then u
        else if (!stop && !precedes 32 (n % 2 ^ 32) r.frame) || (stop && exchWaiting u r) then
          (haltExch u d i false).bump 0x662009
        else u

end Sys2Proof.Machine
end

