-- ==== Sys2Proof/Machine/Cirrus.lean ====
section
/-!
DEFINITION. Machine/Cirrus.lean: the update unit: shard tables, update descriptors, blocks and their rules, engine
products, commit records, decisions, refreshes, fingerprints and repairs (13 R281 to R287, 14 R304 to R332), and the
completion of collectives, which feed it.
-/
namespace Sys2Proof.Machine

/-! ## Shard tables (13 R282 to R284) -/

/-- A piece record (13 Table 13.2). -/
structure Piece where
  tensor : Nat
  row0 : Nat
  col0 : Nat
  rows : Nat
  cols : Nat
  first : Nat
  plane : Nat
  deriving DecidableEq, Repr

/-- Piece record `k` of a table's bytes. -/
def pieceAt (b : List Byte) (k : Nat) : Piece :=
  let o := 96 + 32 * k
  ⟨leAt b o 4, leAt b (o + 4) 4, leAt b (o + 8) 4, leAt b (o + 0xC) 4, leAt b (o + 0x10) 4, leAt b (o + 0x14) 4,
    leAt b (o + 0x18) 2⟩

/-- Elements of a piece. -/
def Piece.elems (p : Piece) : Nat := p.rows * p.cols

/-- A shard table (13 Table 13.1). -/
structure Shard where
  elems : Nat
  group : Nat
  rank : Nat
  work : Nat
  master : Nat × Nat
  moment : Nat × Nat
  workAt : Nat
  aux : Nat × Nat
  auxBytes : Nat
  bucket : Nat
  pieces : List Piece
  deriving DecidableEq, Repr

/-- The table that bytes hold. -/
def shardOf (b : List Byte) : Shard :=
  ⟨leAt b 0 8, leAt b 8 2, leAt b 0xA 2, leAt b 0xE 1, (leAt b 0x10 8, leAt b 0x18 8), (leAt b 0x20 8, leAt b 0x28 8),
    leAt b 0x30 8, (leAt b 0x38 8, leAt b 0x40 8), leAt b 0x48 8, leAt b 0x50 4, (List.range (leAt b 0xC 2)).map (pieceAt b)⟩

/-- Bytes of a working copy element. -/
def Shard.workBytes (t : Shard) : Nat := if t.work = 3 then 2 else 1

/-- The arrays of a shard, as (address, bytes). -/
def Shard.arrays (t : Shard) : List (Nat × Nat) :=
  [(t.master.1, 4 * t.elems), (t.master.2, 4 * t.elems), (t.moment.1, 2 * t.elems), (t.moment.2, 2 * t.elems),
    (t.workAt, t.workBytes * t.elems)]
    ++ if t.auxBytes = 0 then [] else [(t.aux.1, t.auxBytes), (t.aux.2, t.auxBytes)]

/-- Is an array a whole number of pages in the data area of one paged region. -/
def arrayOk (s : State) (a : Nat × Nat) : Bool :=
  a.1 % 512 == 0 && inOneRegion s a.1 a.2 && !inByteRegion s a.1

/-- Do two byte ranges share no byte. -/
def apart (a b : Nat × Nat) : Bool := a.2 == 0 || b.2 == 0 || a.1 + a.2 ≤ b.1 || b.1 + b.2 ≤ a.1

/-- No two of a list of ranges intersect. -/
def allApart : List (Nat × Nat) → Bool
  | [] => true
  | a :: as => as.all (apart a) && allApart as

/-- Each piece begins where the one before it ends, and the last ends at `n`. -/
def piecesFollow (n : Nat) : Nat → List Piece → Bool
  | at0, [] => at0 == n
  | at0, p :: ps => p.first == at0 && piecesFollow n (at0 + p.elems) ps

/-- Is a piece record well formed. -/
def pieceOk (b : List Byte) (k : Nat) (p : Piece) : Bool :=
  p.tensor < 2 ^ 20 && p.row0 < 2 ^ 24 && p.col0 < 2 ^ 24 && 1 ≤ p.rows && p.rows ≤ 2 ^ 24 - p.row0 && 1 ≤ p.cols
    && p.cols ≤ 2 ^ 24 - p.col0 && leAt b (96 + 32 * k + 0x1A) 6 == 0

/-- Is a shard table valid (13 R284, with the limits of R281 and Table 13.1). -/
def shardValid (s : State) (b : List Byte) : Bool :=
  let t := shardOf b
  leAt b 0xF 1 == 0 && allZero (bytesAt b 0x54 12) && 3 ≤ t.work && t.work ≤ 5 && 1 ≤ t.group && t.group ≤ 256
    && t.rank < t.group && 512 ≤ t.elems && t.elems ≤ 2 ^ 31 && t.elems % 512 == 0 && t.auxBytes % 512 == 0
    && (t.auxBytes != 0 || (t.aux.1 == 0 && t.aux.2 == 0)) && !t.pieces.isEmpty
    && t.pieces.zipIdx.all (fun p => pieceOk b p.2 p.1) && piecesFollow t.elems 0 t.pieces
    && t.arrays.all (arrayOk s) && allApart t.arrays

/-- A place that is a package address. -/
def absSeg : Seg := ⟨0, 2 ^ 48, 3, 3, 0, 0, 0⟩

/-- Bytes at a package address as a unit on core `c`'s die reads them. -/
def absLoad (s : State) (c : CoreId) (a n : Nat) : List (Option Byte) × State :=
  let l := moverLoad s c absSeg a n 2 .good
  (l.bytes.zipIdx.map fun p => if bitAt l.bad p.2 then none else some p.1, l.s)

/-- Bytes written at a package address, the poisoned ones as poison. -/
def absStore (s : State) (c : CoreId) (a : Nat) (bs : List (Option Byte)) : State :=
  if bs.isEmpty then s
  else poisonRuns (moverStore s c absSeg a (optBytes bs) 2) c absSeg a bs.length (optBad bs) 2

/-- A shard table read whole from its address: its bytes, and whether any was poison. -/
def readTable (s : State) (c : CoreId) (a : Nat) : List Byte × Bool × State :=
  let h := absLoad s c a 96
  let n := leAt (optBytes h.1) 0xC 2
  let p := absLoad h.2 c (a + 96) (32 * n)
  (optBytes (h.1 ++ p.1), (h.1 ++ p.1).any (·.isNone), p.2)

/-! ## The update descriptor (14 Table 14.1) -/

/-- An update descriptor. -/
structure UpdDesc where
  rule : Nat
  nesterov : Bool
  momentSr : Bool
  workSr : Bool
  map : Bool
  fp16 : Bool
  coll : Nat
  rows : Nat
  cols : Nat
  shard : Nat × Nat
  commit : Nat × Nat
  stage : Nat × Nat
  stageBytes : Nat
  repTopo : Nat
  repStages : Nat
  repFormat : Nat
  iters : Nat
  cores : Nat
  rootEvery : Nat
  lr : F32
  wd : F32
  beta1 : F32
  beta2 : F32
  eps : F32
  gradMul : F32
  scale : F32
  coefA : F32
  coefB : F32
  coefC : F32
  lrTable : Nat
  lrStep0 : Nat
  lrEntries : Nat
  auxOffset : Nat
  recEn : Bool
  recAt : Nat × Nat
  deriving DecidableEq, Repr

/-- The descriptor that 128 bytes hold. -/
def updOf (b : List Byte) : UpdDesc :=
  let fl := leAt b 1 1
  let f (o : Nat) : F32 := BitVec.ofNat 32 (leAt b o 4)
  ⟨leAt b 0 1, bitAt fl 0, bitAt fl 1, bitAt fl 2, bitAt fl 3, bitAt fl 4, leAt b 2 2, leAt b 4 2, leAt b 6 2,
    locOf (leAt b 8 8), locOf (leAt b 0x10 8), locOf (leAt b 0x18 8), leAt b 0x20 8, leAt b 0x28 1, leAt b 0x29 1,
    leAt b 0x2A 1, leAt b 0x2B 1, leAt b 0x2C 1, leAt b 0x2E 2, f 0x30, f 0x34, f 0x38, f 0x3C, f 0x40, f 0x44, f 0x48,
    f 0x4C, f 0x50, f 0x54, leAt b 0x58 8, leAt b 0x60 8, leAt b 0x68 4, leAt b 0x6C 4, bitAt (leAt b 0x70 8) 63,
    locOf (leAt b 0x70 8)⟩

/-- ITERS, with its default for ORTHO and KRON. -/
def UpdDesc.steps (x : UpdDesc) : Nat := if x.iters = 0 then (if x.rule = 3 then 5 else 8) else x.iters

/-- Does the rule wait for whole blocks in the staging ring (14 R323). -/
def UpdDesc.bands (x : UpdDesc) : Bool := x.rule == 2 || x.rule == 3 || x.rule == 4

/-- Reserved and coded fields (14 R307). -/
def updFieldsOk (b : List Byte) (x : UpdDesc) (w2 w3 : Nat) : Bool :=
  x.rule ≤ 5 && leAt b 1 1 / 32 == 0 && 1 ≤ x.rows && x.rows ≤ 1024 && 1 ≤ x.cols && x.cols ≤ 1024
    && [0x0F, 0x17, 0x1F, 0x5F, 0x2D].all (fun o => leAt b o 1 == 0) && x.stageBytes % 512 == 0 && x.repTopo ≤ 15
    && x.repStages < 16 && x.repFormat ≤ 1 && x.cores < 16 && fld (leAt b 0x70 8) 56 7 == 0 && leAt b 0x78 8 == 0
    && w2 / 2 ^ 34 == 0 && w3 / 2 ^ 32 == 0
    && (match x.rule with
      | 3 => x.iters ≤ 12 && x.rootEvery == 0
      | 4 => x.iters ≤ 8 && 1 ≤ x.rootEvery
      | _ => x.iters == 0 && x.rootEvery == 0)
    && ((x.lrTable != 0) == (x.lrEntries != 0))

/-- The operand rules of R307 and R103. -/
def updLegal (s : State) (c : CoreId) (b : List Byte) (x : UpdDesc) (w2 w3 : Nat) : Bool :=
  let d := dieOf c
  updFieldsOk b x w2 w3 && s.isUpdateFrame
    && ((x.rule != 3 && x.rule != 4) || bitAt ((s.run.image.map (·.licences)).getD 0) 0)
    && (onesOf 4 x.cores).all (fun i => 4 * d.val + i < s.usedCores)
    && (stagesOf x.repStages).all (fun k => stageUsable s x.repTopo k d && !stageLocal s x.repTopo k)

/-- The checks of an operand that must lie in a byte region, aligned to `align`. -/
def checkByteLoc (s : State) (c : CoreId) (l : Nat × Nat) (n num align : Nat) (write : Bool) : List TrapInfo :=
  match checkExt s c (flatExt l n) num write [2, 3] with
  | [] =>
    if !inByteRegion s ((placeOf s l.1).base + l.2) then [⟨6, num + write.toNat * 256, l.1, l.2⟩]
    else if l.2 % align != 0 then [⟨7, num, l.1, l.2⟩] else []
  | ts => ts

/-- The checks of the staging ring: a paged region of the issuing die's Stratus, 512-aligned. -/
def checkStage (s : State) (c : CoreId) (x : UpdDesc) : List TrapInfo :=
  if x.stageBytes = 0 then []
  else match checkExt s c (flatExt x.stage x.stageBytes) 0xF2 true [2] with
  | [] =>
    let a := (placeOf s x.stage.1).base + x.stage.2
    if inByteRegion s a || homeDie a != some (dieOf c) then [⟨6, 0xF2 + 256, x.stage.1, x.stage.2⟩]
    else if a % 512 != 0 then [⟨7, 0xF2, x.stage.1, x.stage.2⟩] else []
  | ts => ts

/-- The checks of an update descriptor at issue (14 R307). BLOCK_COUNT 0 leaves the number of segments to the table, so
the record's space is checked for the header alone then. -/
def updTrap (s : State) (c : CoreId) (b : List Byte) (w2 w3 : Nat) : Option TrapInfo :=
  let x := updOf b
  if !updLegal s c b x w2 w3 then some illegal
  else lowestTrap (checkByteLoc s c x.shard 96 0xF0 1 false ++ checkByteLoc s c x.commit 64 0xF1 8 true ++ checkStage s c x
    ++ (if x.lrTable = 0 then [] else checkByteLoc s c (locOf x.lrTable) (4 * x.lrEntries) 0xF3 1 false)
    ++ if x.recEn then checkRecord s c x.recAt.1 x.recAt.2 (recordSpace x.map (fld w3 0 32)) 0xF4 else [])

/-- UPD: an update descriptor read at issue and placed in the CIRRUS queue (04 R103). -/
def execUpd (core : CoreId) (h : Hdr) (f : BitVec 51) (w1 w2 w3 : BitVec 64) (s : State) : Result :=
  .next (issueDesc s core 0x60 4 h f
    (ff f 49 2 == 0 && w2.toNat / 2 ^ 34 == 0 && w3.toNat / 2 ^ 32 == 0 && s.isUpdateFrame) 9 128 w1.toNat w2.toNat w3.toNat)

/-! ## Blocks (14 R308) -/

/-- A block: its piece, its first row and column within the piece, and its size. -/
structure Block where
  piece : Piece
  r0 : Nat
  c0 : Nat
  r : Nat
  c : Nat
  deriving DecidableEq, Repr

/-- The blocks of a piece by row band, and within a band by column block. -/
def pieceBlocks (br bc : Nat) (p : Piece) : List Block :=
  ((List.range (cdiv p.rows br)).map fun i => (List.range (cdiv p.cols bc)).map fun j =>
    (⟨p, i * br, j * bc, min br (p.rows - i * br), min bc (p.cols - j * bc)⟩ : Block)).flatten

/-- The blocks of a shard, numbered from 0. -/
def blocksOf (t : Shard) (br bc : Nat) : List Block := (t.pieces.map (pieceBlocks br bc)).flatten

/-- The element of the shard at row `i` and column `j` of a block. -/
def Block.elem (k : Block) (i j : Nat) : Nat := k.piece.first + (k.r0 + i) * k.piece.cols + k.c0 + j

/-- The elements of a block, row-major. -/
def Block.elems (k : Block) : List Nat :=
  ((List.range k.r).map fun i => (List.range k.c).map fun j => k.elem i j).flatten

/-- Does a block hold an element. -/
def Block.has (k : Block) (e : Nat) : Bool :=
  let o := e - k.piece.first
  k.piece.first ≤ e && o < k.piece.elems && k.r0 ≤ o / k.piece.cols && o / k.piece.cols < k.r0 + k.r
    && k.c0 ≤ o % k.piece.cols && o % k.piece.cols < k.c0 + k.c

/-- The first element of the row band that holds a block. -/
def Block.band (k : Block) : Nat := k.piece.first + k.r0 * k.piece.cols

/-- Bytes of the band of a block in the staging ring (14 R323). -/
def Block.bandBytes (k : Block) (br : Nat) : Nat := roundUp (4 * br * k.piece.cols) 512

/-- Bytes of a block's auxiliary state (14 R317, R319). -/
def auxOf (rule : Nat) (k : Block) : Nat :=
  match rule with
  | 2 => 4 * (k.r + k.c)
  | 4 => 4 * (2 * k.r * k.r + 2 * k.c * k.c)
  | _ => 0

/-- The blocks that a run selects. -/
def UpdRun.blocks (u : UpdRun) : List Block :=
  let x := updOf u.desc
  ((blocksOf (shardOf u.table) x.rows x.cols).drop u.first).take u.count

/-- Bytes of the work area of the staging ring (14 R323). -/
def UpdDesc.workArea (x : UpdDesc) : Nat :=
  match x.rule with
  | 3 => 4 * (2 * x.rows * x.cols + 3 * min x.rows x.cols * min x.rows x.cols)
  | 4 => 4 * (2 * x.rows * x.cols + 4 * max x.rows x.cols * max x.rows x.cols)
  | _ => 0

/-! ## The unit as state -/

/-- The Cirrus unit of a die changed. -/
def modCirrus (s : State) (d : DieId) (f : CirrusUnit → CirrusUnit) : State :=
  s.modUnit d fun u => { u with cirrus := f u.cirrus }

/-- An update in progress. -/
def updAt (s : State) (d : DieId) (i : Nat) : Option UpdRun := (s.unit d).cirrus.upds[i]?

/-- An update changed. -/
def modUpd (s : State) (d : DieId) (i : Nat) (f : UpdRun → UpdRun) : State :=
  modCirrus s d fun e => { e with upds := modAt e.upds i f }

/-- The tracked records changed. -/
def modRecs (s : State) (d : DieId) (f : List RecTrack → List RecTrack) : State :=
  modCirrus s d fun e => { e with recs := f e.recs }

/-- A tracked record changed. -/
def modRec (s : State) (d : DieId) (i : Nat) (f : RecTrack → RecTrack) : State := modRecs s d fun l => modAt l i f

/-- A field of a commit record as its code gives it (14 Table 14.2, 09 R197). A record that holds poison has no state: every
bit of its fields reads as 1 (notes/assumptions/155.md). -/
def recField (s : State) (a off n : Nat) : Nat :=
  let r := seeBytes s a 64
  if r.2 % 2 ^ 64 = 0 then leAt r.1 off n else 2 ^ (8 * n) - 1

/-- A commit record read whole. -/
def touchRec (s : State) (c : CoreId) (a : Nat) : State := (absLoad s c a 64).2

/-- A field of a commit record written. -/
def setRecField (s : State) (c : CoreId) (a off n v : Nat) : State := moverStore s c absSeg (a + off) (leBytes n v) 2

/-- STATE of a commit record; 255 of one that holds poison. -/
def recState (s : State) (a : Nat) : Nat := recField s a 2 1

/-- A shard table as its code gives it, without reading it for an operation; none of one that holds poison. -/
def seeTable (s : State) (a : Nat) : Option Shard :=
  let h := seeBytes s a 96
  let n := 32 * leAt h.1 0xC 2
  let p := seeBytes s (a + 96) n
  if h.2 % 2 ^ 96 = 0 && p.2 % 2 ^ n = 0 then some (shardOf (h.1 ++ p.1)) else none

/-- Cirrus begins to write into slot `gen` of a shard: an export that reads the slot is overtaken (13 R297). -/
def writeSlot (s : State) (commit gen : Nat) : State :=
  match s.host.job with
  | some j => if j.commit = commit && j.slot % 2 == gen % 2 then { s with host := { s.host with job := some { j with overrun := true } } } else s
  | none => s

/-- The first core of a die, for accesses that no instruction makes. -/
def dieCore (d : DieId) : CoreId := ⟨4 * d.val, by omega⟩

/-! ## Failing and finishing (14 R331) -/

/-- The completion record of an update is written and its queue entry is done, once no block is open. -/
def settleUpd (s : State) (d : DieId) (i : Nat) : State :=
  match updAt s d i with
  | none => s
  | some u =>
    if u.codes.contains 255 then s
    else
      let x := updOf u.desc
      let c := coreFin u.core
      let raw (k : Nat) : Nat := match u.blocks[k]? with
        | some b => 4 * b.r * b.c
        | none => 0
      let rec' := completionRecord (u.codes.zipIdx.map fun p => (p.1, raw p.2)) raw (recordStatus u.codes false)
      let s1 := if x.recEn then
          moverPut s c (placeOf s x.recAt.1) x.recAt.2 (rec' ++ if x.map then segmentMap u.codes else []) 2
        else s
      let s2 := s1.when (u.codes.any (· != 0)) fun t => raiseFlags t flagExchange
      modEntry (modCirrus s2 d fun e => { e with upds := e.upds.eraseIdx i }) c 9 u.seq fun y => { y with done := 1 }

/-- Blocks of an update fail with a code: they are counted, and their record becomes INCOMPLETE (14 Table 14.3). -/
def failBlocks (s : State) (d : DieId) (i code : Nat) (sel : Nat → Bool) : State :=
  match updAt s d i with
  | none => s
  | some u =>
    let ks := (List.range u.codes.length).filter fun k => sel k && u.codes.getD k 0 == 255
    if ks.isEmpty then s
    else
      let s1 := modUpd s d i fun q => { q with
        codes := q.codes.zipIdx.map fun p => if ks.contains p.2 then code else p.1
        prods := q.prods.filter fun p => !ks.contains p.1 }
      let s2 := s1.bumpBy 0x680002 ks.length
      if (recState s2 u.commit == 1 || recState s2 u.commit == 2) && recField s2 u.commit 0x10 8 == u.step then
        setRecField s2 (coreFin u.core) u.commit 2 1 3
      else s2

/-- The segments of the feeding collective that hold given elements take code 3 (14 R309). -/
def failFeed (s : State) (d : DieId) (frame id : Nat) (holds : Nat → Bool) : State :=
  match indexOf? (fun r : CollRun => r.frame == frame && r.id == id && !r.duplicate) (s.unit d).coll.runs with
  | none => s
  | some i => modRun s d i fun r => { r with segs := r.segs.zipIdx.map fun p => (
      let n := 2 ^ (collOf r.desc).segLog2 / 4
      if p.1.2 < 2 && (List.range n).any (fun k => holds (p.2 * n + k)) then (p.1.1, 3) else p.1) }

/-! ## Acceptance (14 R304, R305, R309 to R311) -/

/-- The learning rate and the weight decay of an update (14 R311). An entry of the table that holds poison is NaN
(09 R200). -/
def updRate (s : State) (c : CoreId) (x : UpdDesc) (step w1 w2 : Nat) : (F32 × F32) × State :=
  let l := locOf x.lrTable
  let i := if step < x.lrStep0 then 0 else min (step - x.lrStep0) (x.lrEntries - 1)
  let wd := if bitAt w2 33 then BitVec.ofNat 32 (w1 / 2 ^ 32) else x.wd
  if bitAt w2 32 then ((BitVec.ofNat 32 w1, wd), s)
  else if x.lrTable = 0 then ((x.lr, wd), s)
  else
    let e := absLoad s c ((placeOf s l.1).base + l.2 + 4 * i) 4
    ((if e.1.any (·.isNone) then f32Nan else BitVec.ofNat 32 (leNat (optBytes e.1)), wd), e.2)

/-- Does a range of blocks hold a block. -/
def inRange (r : Nat × Nat) (k : Nat) : Bool := r.1 ≤ k && k < r.1 + r.2

/-- The tracked record at an address. -/
def recIndex (s : State) (d : DieId) (a : Nat) : Option Nat := indexOf? (fun r : RecTrack => r.addr == a) (s.unit d).cirrus.recs

/-- A fresh update. -/
def freshUpd (c : CoreId) (q : QInst) (b table : List Byte) (commit first count : Nat) (rate : F32 × F32)
    (codes : List Nat) : UpdRun :=
  ⟨c.val, q.seq, q.pc, q.frame % 2 ^ 32, q.step, b, table, commit, first, count, rate.1, rate.2, codes, [], [], 0, [], [], false⟩

/-- The record of an accepted update: FILLING for the step, tracked, and its blocks marked selected. -/
def openRecord (s : State) (d : DieId) (c : CoreId) (q : QInst) (x : UpdDesc) (a table blocks : Nat) (sel : Nat × Nat)
    (aux : List (Nat × Nat)) : State :=
  let same := 1 ≤ recState s a && recState s a ≤ 3 && recField s a 0x10 8 == q.step
  let s1 := if same then s
    else
      let t1 := setRecField s c a 2 1 1
      let t2 := setRecField t1 c a 0x10 8 q.step
      let t3 := setRecField t2 c a 0x20 8 blocks
      setRecField t3 c a 0x28 8 table
  let s2 := setRecField (setRecField s1 c a 3 1 x.repTopo) c a 4 1 x.repStages
  match recIndex s2 d a with
  | some i => modRec s2 d i fun r => { r with
      table := table, pending := some q.step, frame := q.frame, workSr := x.workSr, repTopo := x.repTopo
      repStages := x.repStages
      blockRows := if same then r.blockRows else x.rows
      blockCols := if same then r.blockCols else x.cols
      collId := if same then r.collId else x.coll
      selected := if same then r.selected ++ [sel] else [sel]
      auxTaken := if same then r.auxTaken ++ aux else aux }
  | none => modRecs s2 d fun l => l ++
      [⟨a, table, some q.step, x.rows, x.cols, x.coll, q.frame, [sel], x.workSr, x.repTopo, x.repStages, 0, [], 0, none, aux⟩]

/-- The slot of a pair for a generation. -/
def slotOf (p : Nat × Nat) (gen : Nat) : Nat := if gen % 2 = 0 then p.1 else p.2

/-- Does a word of auxiliary state hold a NaN or an infinity. -/
def wordBad (w : List (Option Byte)) : Bool :=
  !w.any (·.isNone) && !(valOf (BitVec.ofNat 32 (leNat (optBytes w)))).isFin

/-- Bytes cut into words of four. -/
def quads : Nat → List (Option Byte) → List (List (Option Byte))
  | 0, _ => []
  | n + 1, bs => bs.take 4 :: quads n (bs.drop 4)

/-- FREEZE copies the committed auxiliary state from AUX_OFFSET onward into the shadow slot, but for what the step's other
updates of the shard keep there (14 Table 14.4). A NaN or an infinity written raises NONFINITE (14 R321); the second part says
whether any of it was poison, which fails the update's blocks with code 2 (14 Table 14.8). -/
def copyAux (s : State) (c : CoreId) (t : Shard) (x : UpdDesc) (commit gen : Nat) (taken : List (Nat × Nat)) : State × Bool :=
  let o := 64 * x.auxOffset
  if x.rule != 5 || t.auxBytes ≤ o then (s, false)
  else
    let free := taken.foldl (fun gs r => cutOut gs r.1 (r.1 + r.2)) [(o, t.auxBytes)]
    free.foldl (fun acc g =>
      let l := absLoad acc.1 c (slotOf t.aux gen + g.1) (g.2 - g.1)
      let s1 := absStore (writeSlot l.2 commit (gen + 1)) c (slotOf t.aux (gen + 1) + g.1) l.1
      let bad := (quads ((g.2 - g.1) / 4) l.1).any wordBad
      (s1.when bad fun z => raiseFlags (z.bump 0x680005) flagNonfinite, acc.2 || l.1.any (·.isNone))) (s, false)

/-! ## Blocks that no update selects (14 R309) -/

/-- Can no update of the frame select anything more: every core of the die has issued FEND, and none is queued. -/
def noMoreUpds (s : State) (d : DieId) : Bool :=
  ((List.range 4).map fun k => coreFin (4 * d.val + k)).all fun c =>
    !s.usesCore c || ((s.core c).fend && ((s.core c).queue 9).all (·.accepted))

/-- The blocks of a record's shard, under the shape of its first update of the step. -/
def RecTrack.blocks (r : RecTrack) (s : State) : List Block :=
  match seeTable s r.table with
  | some t => blocksOf t r.blockRows r.blockCols
  | none => []

/-- A record's selection ends: the blocks that no update selected have failed with code 3, with the segments that held their
values, and the record is INCOMPLETE. -/
def closeRecord (d : DieId) (s : State) (i : Nat) : State :=
  match (s.unit d).cirrus.recs[i]? with
  | none => s
  | some r =>
    let bs := r.blocks s
    let left := bs.zipIdx.filter fun b => !r.selected.any fun p => inRange p b.2
    if left.isEmpty then s
    else
      let s1 := failFeed (s.bumpBy 0x680002 left.length) d (r.frame % 2 ^ 32) r.collId fun e => left.any fun b => b.1.has e
      let s2 := if recState s1 r.addr == 1 || recState s1 r.addr == 2 then setRecField s1 (dieCore d) r.addr 2 1 3 else s1
      modRec s2 d i fun y => { y with selected := y.selected ++ left.map fun b => (b.2, 1) }

/-- Every record of the frame whose selection has ended is closed. -/
def closeSelection (s : State) (d : DieId) : State :=
  if !noMoreUpds s d then s
  else s.each (List.range (s.unit d).cirrus.recs.length) fun t i =>
    match (t.unit d).cirrus.recs[i]? with
    | none => t
    | some r =>
      if r.pending.isSome && ((List.range 4).any fun k => (t.core (coreFin (4 * d.val + k))).frame == r.frame) then closeRecord d t i
      else t

/-- FEND: the core issues nothing more in the frame, and a PTAG's tag ends (03 R58, 04 R102); with the die's last one no
update selects anything more (14 R309). -/
def execFend (core : CoreId) (h : Hdr) (f : BitVec 51) (s : State) : Result :=
  .next (issue s core 0x58 1 h f (ff f 0 51 == 0) [] [] fun t =>
    closeSelection (t.modCore core fun x =>
      { (x.advance 1).retag ((t.frameDesc.map (·.tag)).getD 0) with fend := true }) (dieOf core))

/-- An update accepted. -/
def acceptUpd (s : State) (d : DieId) (c : CoreId) (q : QInst) (b : List Byte) (w1 w2 w3 : Nat) : State :=
  let x := updOf b
  let a := (placeOf s x.commit.1).base + x.commit.2
  let ta := (placeOf s x.shard.1).base + x.shard.2
  let e := (s.unit d).cirrus
  let r := readTable s c ta
  let t := shardOf r.1
  let valid := !r.2.1 && shardValid s r.1
  let bs := if valid then blocksOf t x.rows x.cols else []
  let first := if fld w3 0 32 = 0 then 0 else fld w2 0 32
  let count := if fld w3 0 32 = 0 then bs.length else fld w3 0 32
  let mine := (bs.drop first).take count
  let aux := sumOf (mine.map (auxOf x.rule))
  let st := recState s a
  let same := 1 ≤ st && st ≤ 3 && recField s a 0x10 8 == q.step
  let old := (e.recs.find? fun y => y.addr == a && y.pending == some q.step)
  let shapeBad := match old with
    | some y => same && (y.blockRows != x.rows || y.blockCols != x.cols || y.collId != x.coll)
    | none => false
  let full := (match old with | some _ => false | none => 4096 ≤ (e.recs.filter fun y => y.pending.isSome && y.addr != a).length)
  let dead := !valid || t.auxBytes < 64 * x.auxOffset + aux || shapeBad || full || 4 ≤ st
  let twice (k : Nat) : Bool := match old with
    | some y => same && y.selected.any fun p => inRange p (first + k)
    | none => false
  let codes := (List.range count).map fun _ => 255
  let i := e.upds.length
  let rate := updRate (touchRec r.2.2 c a) c x q.step w1 w2
  let run := freshUpd c q b r.1 a first count rate.1 codes
  let s1 := modEntry rate.2 c 9 q.seq fun y => { y with accepted := true }
  let s2 := modCirrus s1 d fun y => { y with upds := y.upds ++ [run], last := c.val % 4 }
  let s3 := if full || 4 ≤ st then s2 else openRecord s2 d c q x a ta bs.length (first, count)
    (if x.rule = 5 || dead then [] else [(64 * x.auxOffset, aux)])
  let taken := match recIndex s3 d a with
    | some k => (((s3.unit d).cirrus.recs[k]?).map (·.auxTaken)).getD []
    | none => []
  let cp := if dead then (s3, false) else copyAux s3 c t x a (recField s3 a 0 2) taken
  let s4 := modUpd cp.1 d i fun y => { y with auxBad := cp.2 }
  let bad (k : Nat) : Bool := dead || twice k || mine.length ≤ k
  let s5 := failBlocks s4 d i 3 bad
  let s6 := if (List.range count).any bad then
      failFeed s5 d (q.frame % 2 ^ 32) x.coll fun el => mine.zipIdx.any fun p => bad p.2 && p.1.has el
    else s5
  let s7 := s6.when (dead && count == 0) fun z => raiseFlags z flagExchange
  closeSelection (settleUpd s7 d i) d

/-- UPD_ACCEPT: the Cirrus unit of a die accepts the next update, when fewer than 16 are in progress and its record is not
being refreshed or repaired (14 R304, R314). -/
def execUpdAccept (die : DieId) (s : State) : Result :=
  let e := (s.unit die).cirrus
  if 16 ≤ e.upds.length then .next s
  else match acceptCore s die 9 e.last with
  | none => .next s
  | some (c, q) =>
    match q.op with
    | .upd b w1 w2 w3 =>
      let x := updOf b
      let a := (placeOf s x.commit.1).base + x.commit.2
      if e.recs.any fun y => y.addr == a && y.busy != 0 then .next s
      else .next (acceptUpd s die c q b w1 w2 w3)
    | _ => .next s

/-! ## Gradients (14 R310, R323, R324) -/

/-- The update of a die that takes element `k` of a collective's shard, with the block's place in it; an update that
could not read its table takes every element. -/
def takerOf (s : State) (d : DieId) (frame id k : Nat) : Option (Nat × Nat) :=
  (s.unit d).cirrus.upds.zipIdx.findSome? fun p =>
    if p.1.frame == frame && (updOf p.1.desc).coll == id then
      (indexOf? (fun b : Block => b.has k) p.1.blocks).map fun j => (p.2, j)
    else none

/-- Free space of the band area of an update's ring. -/
def bandSpace (u : UpdRun) (x : UpdDesc) : Nat := x.stageBytes - x.workArea - sumOf (u.bands.map (·.2.2))

/-- A gradient value written in its band's space of the staging ring, with wrap-around. -/
def stageValue (s : State) (u : UpdRun) (x : UpdDesc) (k : Block) (start e : Nat) (v : Option F32) : State :=
  let area := max (x.stageBytes - x.workArea) 1
  let base := (placeOf s x.stage.1).base + x.stage.2 + x.workArea
  absStore s (coreFin u.core) (base + (start + 4 * (e - k.band)) % area)
    (match v with
      | some f => (leBytes 4 f.toNat).map some
      | none => List.replicate 4 none)

/-- A value given to an update; false when it must wait for space in the ring. -/
def giveValue (s : State) (d : DieId) (i j e : Nat) (v : Option F32) : State × Bool :=
  match updAt s d i with
  | none => (s, true)
  | some u =>
    let x := updOf u.desc
    match u.blocks[j]? with
    | none => (s, true)
    | some k =>
      let add (t : State) : State := modUpd t d i fun q => { q with grads := q.grads ++ [(e, v)] }
      if u.codes.getD j 0 != 255 then (s, true)
      else if !x.bands then (add s, true)
      else
        let n := k.bandBytes x.rows
        match u.bands.find? fun p => p.1 == k.band with
        | some p => (add (stageValue s u x k p.2.1 e v), true)
        | none =>
          if x.stageBytes - x.workArea < n then
            (settleUpd (failBlocks s d i 3 fun m => ((u.blocks[m]?).map (·.band)) == some k.band) d i, true)
          else if bandSpace u x < n then (s, false)
          else
            let s1 := modUpd s d i fun q => { q with bands := q.bands ++ [(k.band, q.ringPos, n)], ringPos := q.ringPos + n }
            (add (stageValue s1 u x k u.ringPos e v), true)

/-- Elements of the shard combined with the replicas' so far. -/
def CollRun.combined (r : CollRun) : Nat :=
  match r.phases with
  | p :: _ => if p.replica && r.phases.all (·.ended) then p.base + p.size else 0
  | [] => 0

/-- The values of a segment of the shard: poison throughout when the segment failed with code 2 (11 R250). -/
def CollRun.value (r : CollRun) (k : Nat) : Option F32 :=
  if (r.segs.getD (k * 4 / 2 ^ (collOf r.desc).segLog2) (0, 0)).2 = 2 then none else r.shard.getD k none

/-- A replica combination of the segment that starts at element `k` begins (14 R324). -/
def beginReplica (s : State) (d : DieId) (i k : Nat) (y : UpdDesc) : State :=
  match collRunAt s d i with
  | none => s
  | some r =>
    let x := collOf r.desc
    let seg := 2 ^ x.segLog2 / 4
    let m := min r.shard.length ((k / seg + 1) * seg) - k
    reduceHere (2 ^ 8) (modRun s d i fun q => { q with
      phases := replicaPhases s d y.repTopo y.repStages (wireFmt y.repFormat) k m x.zr, parts := [] }) d i 0 0
      ((List.range m).map fun e => r.value (k + e))

/-- Has an update of the step selected the block of element `k` of a collective's shard. -/
def wasSelected (s : State) (d : DieId) (frame id k : Nat) : Bool :=
  (s.unit d).cirrus.recs.any fun r => r.pending.isSome && r.frame % 2 ^ 32 == frame && r.collId == id
    && (r.blocks s).zipIdx.any fun b => b.1.has k && r.selected.any fun p => inRange p b.2

/-- The next value of a collective that feeds Cirrus is handed over, when an accepted update takes it (14 R310). A value whose
block has already ended is passed over, and so, once no update can select it, is one of a block that none selected. -/
def handOver (s : State) (d : DieId) (i : Nat) (r : CollRun) : State :=
  let x := collOf r.desc
  let k := r.handed
  let skip (t : State) : State := modRun t d i fun q => { q with handed := q.handed + 1 }
  match takerOf s d r.frame r.id k with
  | none =>
    if wasSelected s d r.frame r.id k then skip s
    else if noMoreUpds s d then skip (failFeed s d r.frame r.id (· == k))
    else s
  | some (u, j) =>
    match updAt s d u with
    | none => s
    | some run =>
      let y := updOf run.desc
      if meetsAny r.shardGaps k (k + 1) then s
      else if y.repStages != 0 && r.combined ≤ k then
        if r.phases.all (·.ended) then beginReplica s d i k y else s
      else if meetsAny r.repMissed k (k + 1) then skip (settleUpd (failBlocks s d u 3 (· == j)) d u)
      else
        let v := r.value k
        let g := giveValue s d u j k v
        if g.2 then skip (modRun g.1 d i fun q => { q with segs := markSegs x.segLog2 q.segs (4 * k) 4 v.isNone })
        else s

/-- GRADIENT_HANDOFF: one value goes from the collectives engine to Cirrus, or the combination of its segment with the
replicas' begins (14 R310, R324). -/
def execGradientHandoff (die : DieId) (slot : Fin 8) (s : State) : Result :=
  match collRunAt s die slot.val with
  | none => .next s
  | some r =>
    let x := collOf r.desc
    let ready := x.toCirrus && !r.aborted && !r.duplicate && r.handed < r.shard.length
    .next (if ready then handOver s die slot.val r else s)

/-- Have all values of a block arrived. -/
def blockFed (u : UpdRun) (k : Block) : Bool := k.elems.all fun e => u.grads.any fun g => g.1 == e

/-- Engine products of a block in a step (14 R318, R319). -/
def blockProducts (x : UpdDesc) (step : Nat) : Nat :=
  match x.rule with
  | 3 => 3 * x.steps
  | 4 => 4 + (if step % max x.rootEvery 1 = 0 then 8 * x.steps else 0)
  | _ => 0

/-- The core that runs the products of a selected block: the (b mod n)-th that CORES names (14 R322). -/
def blockCore (u : UpdRun) (x : UpdDesc) (b : Nat) : Nat :=
  let cs := if x.cores = 0 then [u.core % 4] else onesOf 4 x.cores
  4 * (u.core / 4) + cs.getD (b % max cs.length 1) 0

/-- A product waiting for a matrix unit whose queue rests is taken at once: the queue is empty, or the core stops and the
queue stands at the fold boundary at which it stopped (03 R66, R67, R71). -/
def takeIdle (s : State) (c : CoreId) : State :=
  if ((s.core c).queue 0).isEmpty || !mayWork (s.core c) 0 then takeProduct s c else s

/-- The words that a Cirrus product reads: its working storage acc3 and the operand buffers (03 R66). -/
def productReads : ArrayReads := { acc := fun set _ _ _ => set == 3, sum := fun _ _ _ => false, bufs := [0, 1, 2, 3] }

/-- The engine of the first error that a product meets. -/
def productError (x : CoreState) : Option Nat := arrayError x productReads

/-- An engine that fails under a product is fenced, and the core traps with the program counter at the head of the MATRIX
queue (01 R13); with an empty queue the core's own program counter stands (notes/assumptions/145.md). -/
def productFails (s : State) (c : CoreId) (e : Nat) : State :=
  let x := s.core c
  let pc := match x.queue 0 with
    | i :: _ => i.pc
    | [] => x.pc.toNat
  trapCore (s.modCore c fun y => { y with fenced := y.fenced ||| BitVec.ofNat 4 (2 ^ e) }) c (plainTrap 0x0D e) 0 pc

/-- BAND_READY: a row band's last value has arrived in the staging ring, and its blocks run (14 R323). -/
def execBandReady (die : DieId) (slot : Fin 16) (elem : Nat) (s : State) : Result :=
  match updAt s die slot.val with
  | none => .next s
  | some u =>
    let x := updOf u.desc
    let ks := (List.range u.codes.length).filter fun j =>
      ((u.blocks[j]?).map (·.band)) == some elem && u.codes.getD j 0 == 255
    let fed := ks.all fun j => match u.blocks[j]? with
      | some k => blockFed u k
      | none => false
    if !x.bands || u.ready.contains elem || ks.isEmpty || !fed then .next s
    else
      let n := blockProducts x u.step
      let ps := if n = 0 then [] else ks.map fun j => (j, blockCore u x j, n)
      let s1 := modUpd s die slot.val fun q => { q with ready := elem :: q.ready, prods := q.prods ++ ps }
      .next (s1.each (ps.map fun p => coreFin p.2.1) takeIdle)

/-! ## Engine products (14 R320, R322, 03 R66) -/

/-- Accumulator set acc3 after a product: Cirrus's working storage, of no stated value. -/
def scrambleAcc3 (s : State) (c : CoreId) : State :=
  let v := s.draw
  v.2.modCore c fun x => { x with
    acc := kvSetList 0#32 (kvClear x.acc (3 * 65536) 65536) (3 * 65536)
      ((List.range 65536).map fun i => BitVec.ofNat 32 (v.1 / 2 ^ (32 * i)))
    accDev := kvClear x.accDev (3 * 65536) 65536 }

/-- The first product of a core counted as run. -/
def countProduct (c : Nat) : List (Nat × Nat × Nat) → List (Nat × Nat × Nat)
  | [] => []
  | p :: ps => if p.2.1 = c then (if p.2.2 ≤ 1 then ps else (p.1, p.2.1, p.2.2 - 1) :: ps) else p :: countProduct c ps

/-- CIRRUS_PRODUCT_END: a product ends on a core's engines, and its MATRIX queue resumes (14 R322). -/
def execCirrusProductEnd (core : CoreId) (s : State) : Result :=
  if !s.cirrusOn.contains core.val then .next s
  else
    let d := dieOf core
    let s1 := { s with cirrusOn := s.cirrusOn.erase core.val }
    let s2 := match indexOf? (fun u : UpdRun => u.prods.any fun p => p.2.1 == core.val) (s.unit d).cirrus.upds with
      | none => s1
      | some i => modUpd s1 d i fun q => { q with prods := countProduct core.val q.prods }
    let s3 := match productError (s.core core) with
      | some e => productFails s2 core e
      | none => noteArrays s2 core productReads
    .next (takeIdle (scrambleAcc3 s3 core) core)

/-! ## The rules (14 R315 to R320) -/

/-- A matrix of FP32 values by rows. -/
abbrev Mat := List (List F32)

/-- A matrix from a function. -/
def matOf (r c : Nat) (f : Nat → Nat → F32) : Mat := (List.range r).map fun i => (List.range c).map fun j => f i j

/-- An element. -/
def Mat.at (m : Mat) (i j : Nat) : F32 := (m.getD i []).getD j 0

/-- Transpose of an r × c matrix. -/
def Mat.tr (m : Mat) (r c : Nat) : Mat := matOf c r fun i j => m.at j i

/-- An element converted for the engines. -/
def engineVal (fp16 : Bool) (x : F32) : Val :=
  let f : Format := if fp16 then ⟨.fp16, false⟩ else ⟨.bf16, false⟩
  decodeElem f (convElem f .rne (valOf x)).bits

/-- The order of summation of R130 for the BF16 class at SPAR 0. -/
def engineDot (a b : List Val) : F32 :=
  (List.range (cdiv a.length 128)).foldl (fun acc kb =>
    let col := (List.range (min 128 (a.length - 128 * kb))).map fun i => (128 * kb + i, b.getD (128 * kb + i) vZero)
    addFlush acc (blockDot 1 a.length (fun k => a.getD k vZero) col)) 0#32

/-- An engine product of an m × k by a k × n matrix (14 R320). -/
def prod (fp16 : Bool) (m k n : Nat) (p q : Mat) : Mat :=
  let a := p.map fun row => row.map (engineVal fp16)
  let qt := q.tr k n
  let b := qt.map fun col => col.map (engineVal fp16)
  matOf m n fun i j => engineDot (a.getD i []) (b.getD j [])

/-- A sum from +0.0 in order. -/
def fsum (l : List F32) : F32 := l.foldl fadd 0

/-- The sum of squares, row-major. -/
def sumsq (m : Mat) : F32 := fsum (m.flatten.map fun x => fmul x x)

/-- A matrix scaled element by element. -/
def Mat.scale (m : Mat) (f : F32) : Mat := m.map fun r => r.map (fmul f)

/-- A sum element by element. -/
def Mat.plus (m n : Mat) : Mat := List.zipWith (List.zipWith fadd) m n

/-- The constants of an update (14 R315). -/
structure UpdConst where
  x : UpdDesc
  lr : F32
  k : F32
  a1 : F32
  a2 : F32
  step : Nat

/-- What a block becomes: new master, the new moment before it is stored, and new auxiliary words. -/
structure BlockOut where
  w : Mat
  m : Mat
  aux : List F32

/-- FP32 of a natural number. -/
def natF32 (n : Nat) : F32 := toF32 (.fin false n 0)

/-- The sign of a direction (14 R316). -/
def signOf (x : F32) : F32 :=
  match valOf x with
  | .nan => f32Nan
  | v => if v.isZero then 0 else if v.neg then 0xBF800000 else f32One

/-- w′ from a direction. -/
def stepW (k : UpdConst) (w d : F32) : F32 := fsub (fmul w k.k) (fmul k.lr d)

/-- MOMENTUM's new moment. -/
def momentum (k : UpdConst) (m g : F32) : F32 := fadd (fmul k.x.beta1 m) g

/-- The element rules (14 Table 14.4). -/
def elementRule (k : UpdConst) (w m g : F32) : F32 × F32 :=
  match k.x.rule with
  | 0 =>
    let m2 := momentum k m g
    (stepW k w (if k.x.nesterov then fadd (fmul k.x.beta1 m2) g else m2), m2)
  | 1 => (stepW k w (signOf (fadd (fmul k.x.beta1 m) (fmul k.a1 g))), fadd (fmul k.x.beta2 m) (fmul k.a2 g))
  | _ => (w, m)

/-- FACTORED (14 R317). -/
def factored (k : UpdConst) (r c : Nat) (w m g : Mat) (aux : List F32) : BlockOut :=
  let invR := vRecip (natF32 r)
  let invC := vRecip (natF32 c)
  let q := matOf r c fun i j => fadd (fmul (g.at i j) (g.at i j)) k.x.eps
  let rs := (List.range r).map fun i =>
    fadd (fmul k.x.beta2 (aux.getD i 0)) (fmul k.a2 (fmul (fsum (q.getD i [])) invC))
  let cs := (List.range c).map fun j =>
    fadd (fmul k.x.beta2 (aux.getD (r + j) 0)) (fmul k.a2 (fmul (fsum ((List.range r).map fun i => q.at i j)) invR))
  let invM := vRecip (fmul (fsum rs) invR)
  let m2 := matOf r c fun i j =>
    let u := fmul (g.at i j) (vRsqrt (fmul (fmul (rs.getD i 0) (cs.getD j 0)) invM))
    fadd (fmul k.x.beta1 (m.at i j)) (fmul k.a1 u)
  ⟨matOf r c fun i j => stepW k (w.at i j) (m2.at i j), m2, rs ++ cs⟩

/-- One Newton–Schulz step of ORTHO. -/
def orthoStep (x : UpdDesc) (r c : Nat) (m : Mat) : Mat :=
  if r ≤ c then
    let a := prod x.fp16 r c r m (m.tr r c)
    let a2 := prod x.fp16 r r r a a
    (m.scale x.coefA).plus (prod x.fp16 r r c ((a.scale x.coefB).plus (a2.scale x.coefC)) m)
  else
    let a := prod x.fp16 c r c (m.tr r c) m
    let a2 := prod x.fp16 c c c a a
    (m.scale x.coefA).plus (prod x.fp16 r c c m ((a.scale x.coefB).plus (a2.scale x.coefC)))

/-- A function iterated. -/
def iter {α : Type} (f : α → α) : Nat → α → α
  | 0, a => a
  | n + 1, a => iter f n (f a)

/-- ORTHO (14 R318). -/
def ortho (k : UpdConst) (r c : Nat) (w m g : Mat) : BlockOut :=
  let m2 := matOf r c fun i j => momentum k (m.at i j) (g.at i j)
  let x0 := m2.scale (vRecip (fadd (vSqrt (sumsq m2)) k.x.eps))
  let x := iter (orthoStep k.x r c) k.x.steps x0
  let ratio := fdiv (natF32 r) (natF32 c)
  let rho := fmul k.x.scale (vSqrt (if (valOf ratio).lt vOne then f32One else ratio))
  ⟨matOf r c fun i j => stepW k (w.at i j) (fmul rho (x.at i j)), m2, []⟩

/-- The inverse fourth root of KRON (14 R319). -/
def invRoot4 (x : UpdDesc) (n : Nat) (a0 : Mat) : Mat :=
  let a := matOf n n fun i j => if i = j then fadd (a0.at i j) x.eps else a0.at i j
  let z := fmul 0x40200000 (vSqrt (sumsq a))
  let x0 := matOf n n fun i j => if i = j then vRecip (vSqrt (vSqrt z)) else 0
  let rz := vRecip z
  let m0 := matOf n n fun i j => fmul (a.at i j) rz
  (iter (fun p : Mat × Mat =>
    let t := matOf n n fun i j =>
      let v := fmul 0xBE800000 (p.2.at i j)
      if i = j then fadd 0x3FA00000 v else v
    let xn := prod x.fp16 n n n p.1 t
    let t2 := prod x.fp16 n n n t t
    let t4 := prod x.fp16 n n n t2 t2
    (xn, prod x.fp16 n n n t4 p.2)) x.steps (x0, m0)).1

/-- A square matrix of auxiliary words. -/
def auxMat (n off : Nat) (aux : List F32) : Mat := matOf n n fun i j => aux.getD (off + i * n + j) 0

/-- KRON (14 R319). -/
def kron (k : UpdConst) (r c : Nat) (w m g : Mat) (aux : List F32) : BlockOut :=
  let h := k.x.fp16
  let mix (o p : Mat) (n : Nat) : Mat := matOf n n fun i j => fadd (fmul k.x.beta2 (o.at i j)) (fmul k.a2 (p.at i j))
  let l := mix (auxMat r 0 aux) (prod h r c r g (g.tr r c)) r
  let rm := mix (auxMat c (r * r) aux) (prod h c r c (g.tr r c) g) c
  let root := k.step % max k.x.rootEvery 1 = 0
  let pl := if root then invRoot4 k.x r l else auxMat r (r * r + c * c) aux
  let pr := if root then invRoot4 k.x c rm else auxMat c (2 * r * r + c * c) aux
  let m2 := matOf r c fun i j => momentum k (m.at i j) (g.at i j)
  let u := prod h r r c pl (prod h r c c m2 pr)
  ⟨matOf r c fun i j => stepW k (w.at i j) (fmul k.x.scale (u.at i j)), m2, l.flatten ++ rm.flatten ++ pl.flatten ++ pr.flatten⟩

/-- A block under its rule; padding always holds zero (13 R282, 14 R308). -/
def runRule (k : UpdConst) (b : Block) (w m g : Mat) (aux : List F32) : BlockOut :=
  if b.piece.tensor = 0 then ⟨matOf b.r b.c fun _ _ => 0, matOf b.r b.c fun _ _ => 0, aux.map fun _ => 0⟩
  else match k.x.rule with
  | 2 => factored k b.r b.c w m g aux
  | 3 => ortho k b.r b.c w m g
  | 4 => kron k b.r b.c w m g aux
  | _ => ⟨matOf b.r b.c fun i j => (elementRule k (w.at i j) (m.at i j) (g.at i j)).1,
      matOf b.r b.c fun i j => (elementRule k (w.at i j) (m.at i j) (g.at i j)).2, []⟩

/-! ## Writing a block (14 R313, R314, R321) -/

/-- The rows of a block read from an array of elements of `n` bytes: row by row. -/
def loadBlockRows (s : State) (c : CoreId) (base n : Nat) (b : Block) : List (List (Option Byte)) × State :=
  (List.range b.r).foldl (fun acc i =>
    let l := absLoad acc.2 c (base + n * b.elem i 0) (n * b.c)
    (acc.1 ++ [l.1], l.2)) ([], s)

/-- The rows of a block written to an array. -/
def storeBlockRows (s : State) (c : CoreId) (base n : Nat) (b : Block) (rows : List (List (Option Byte))) : State :=
  s.each rows.zipIdx fun t p => absStore t c (base + n * b.elem p.2 0) p.1

/-- The rounding of a stored moment (14 R315). -/
def momentMode (s : State) (x : UpdDesc) (step : Nat) (b : Block) (i j : Nat) : RMode :=
  if x.momentSr then .sr (cable (s.obj kSeed) step ((b.piece.tensor + 2 ^ 20) % 2 ^ 32) b.piece.plane
    (b.piece.row0 + b.r0 + i) (b.piece.col0 + b.c0 + j))
  else .rne

/-- Offset of a selected block's auxiliary state in each auxiliary slot. -/
def auxPlace (u : UpdRun) (x : UpdDesc) (j : Nat) : Nat :=
  64 * x.auxOffset + sumOf ((u.blocks.take j).map (auxOf x.rule))

/-- A block's inputs, its new values, and the state after reading. -/
structure BlockRun where
  s : State
  code : Nat
  master : List (List (Option Byte))
  moment : List (List (Option Byte))
  aux : List (Option Byte)
  nonfinite : Bool

/-- Rows of poison. -/
def poisonRows (r n : Nat) : List (List (Option Byte)) := List.replicate r (List.replicate n none)

/-- A block computed from the committed slot and its gradient. -/
def computeBlock (s : State) (u : UpdRun) (x : UpdDesc) (t : Shard) (gen e j : Nat) (b : Block) : BlockRun :=
  let c := coreFin u.core
  let wl := loadBlockRows s c (slotOf t.master gen) 4 b
  let ml := loadBlockRows wl.2 c (slotOf t.moment gen) 2 b
  let al := absLoad ml.2 c (slotOf t.aux gen + auxPlace u x j) (auxOf x.rule b)
  let gs := b.elems.map fun el => ((u.grads.find? fun p => p.1 == el).map (·.2)).getD none
  let bad2 := u.auxBad || (wl.1.flatten ++ ml.1.flatten ++ al.1).any (·.isNone)
  let code := if gs.any (·.isNone) then 1 else if bad2 then 2 else 0
  if code != 0 then
    ⟨al.2, code, poisonRows b.r (4 * b.c), poisonRows b.r (2 * b.c), List.replicate (auxOf x.rule b) none, false⟩
  else
    let one := f32One
    let sg := toF32 ((valOf x.gradMul).shift (-(e : Int)))
    let k : UpdConst := ⟨x, u.lr, fsub one (fmul u.lr u.wd), fsub one x.beta1, fsub one x.beta2, u.step⟩
    let bf : Format := ⟨.bf16, false⟩
    let w := wl.1.map fun row => (List.range b.c).map fun q => BitVec.ofNat 32 (leAt (optBytes row) (4 * q) 4)
    let m := ml.1.map fun row => (List.range b.c).map fun q => toF32 (decodeElem bf (leAt (optBytes row) (2 * q) 2))
    let g := matOf b.r b.c fun p q => fmul ((gs.getD (p * b.c + q) none).getD 0) sg
    let aux := (List.range (auxOf x.rule b / 4)).map fun q => BitVec.ofNat 32 (leAt (optBytes al.1) (4 * q) 4)
    let o := runRule k b w m g aux
    let mbits := (List.range b.r).map fun p => (List.range b.c).map fun q =>
      if x.rule = 5 then leAt (optBytes (ml.1.getD p [])) (2 * q) 2
      else (convElem bf (momentMode s x u.step b p q) (valOf (o.m.at p q))).bits
    let fin (v : Val) : Bool := v.isFin
    let nf := !(o.w.flatten.all fun v => fin (valOf v)) || !(o.aux.all fun v => fin (valOf v))
      || !(mbits.flatten.all fun v => fin (decodeElem bf v))
    ⟨al.2, 0, o.w.map fun row => (row.map fun v => (leBytes 4 v.toNat).map some).flatten,
      mbits.map fun row => (row.map fun v => (leBytes 2 v).map some).flatten,
      (o.aux.map fun v => (leBytes 4 v.toNat).map some).flatten, nf⟩

/-- Bands whose blocks are all written give their space back, in order. -/
def freeBands (u : UpdRun) : List (Nat × Nat × Nat) :=
  u.bands.dropWhile fun p => (List.range u.codes.length).all fun j =>
    ((u.blocks[j]?).map (·.band)) != some p.1 || u.codes.getD j 0 != 255

/-- The work area of the ring after a block's products: of no stated contents. -/
def scrambleWork (s : State) (c : CoreId) (x : UpdDesc) : State :=
  if x.workArea = 0 || x.stageBytes < x.workArea then s
  else
    let v := s.draw
    moverStore v.2 c absSeg ((placeOf s x.stage.1).base + x.stage.2) (leBytes x.workArea v.1) 2

/-- A block written to the shadow slot. -/
def writeBlock (s : State) (d : DieId) (i j : Nat) (u : UpdRun) (b : Block) (e : Nat) : State :=
  let x := updOf u.desc
  let c := coreFin u.core
  let t := shardOf u.table
  let gen := recField s u.commit 0 2
  let o := computeBlock s u x t gen e j b
  let s1 := storeBlockRows (writeSlot o.s u.commit (gen + 1)) c (slotOf t.master (gen + 1)) 4 b o.master
  let s2 := storeBlockRows s1 c (slotOf t.moment (gen + 1)) 2 b o.moment
  let s3 := absStore s2 c (slotOf t.aux (gen + 1) + auxPlace u x j) o.aux
  let s4 := s3.when o.nonfinite fun z => raiseFlags (z.bump 0x680005) flagNonfinite
  let s5 := scrambleWork s4 c x
  let s6 :=
    if o.code != 0 then failBlocks s5 d i o.code (· == j)
    else
      let n := recField s5 u.commit 0x24 4 + 1
      let a := setRecField (s5.bump 0x680001) c u.commit 0x24 4 n
      let a1 := if recState a u.commit == 1 && n == recField a u.commit 0x20 4 then setRecField a c u.commit 2 1 2 else a
      modUpd a1 d i fun q => { q with codes := modAt q.codes j fun _ => 0 }
  let s7 := modUpd s6 d i fun q => { q with
    grads := q.grads.filter fun g => !b.has g.1
    bands := freeBands q }
  settleUpd s7 d i

/-- BLOCK_WRITTEN: a block whose values have arrived and whose products have run is written to the shadow slot, and its
record becomes READY after the last one (14 R314). It waits for the step's loss-scale exponent as SRD 0x08 does. -/
def execBlockWritten (die : DieId) (slot : Fin 16) (block : Nat) (s : State) : Result :=
  match updAt s die slot.val with
  | none => .next s
  | some u =>
    match u.blocks[block]?, stepScale s u.step with
    | some b, some e =>
      let x := updOf u.desc
      let ready := u.codes.getD block 0 == 255 && blockFed u b && (!x.bands || u.ready.contains b.band)
        && !(u.prods.any fun p => p.1 == block)
      .next (if ready then writeBlock s die slot.val block u b e else s)
    | _, _ => .next s

/-! ## Feeding collectives that end, and stops -/

/-- A collective that fed updates has ended: blocks with a value it never handed over fail, with code 4 when it was
aborted and code 3 otherwise (14 R324, Table 14.8). -/
def feedEnded (s : State) (d : DieId) (r : CollRun) : State :=
  let code := if r.aborted || r.duplicate then 4 else 3
  s.each (List.range (s.unit d).cirrus.upds.length).reverse fun t i =>
    match updAt t d i with
    | none => t
    | some u =>
      if u.frame != r.frame || (updOf u.desc).coll != r.id then t
      else settleUpd (failBlocks t d i code fun j => match u.blocks[j]? with
        | some b => b.elems.any fun e => r.handed ≤ e
        | none => true) d i

/-- A collective completes, and the updates it fed learn of it. -/
def completeColl (s : State) (d : DieId) (i : Nat) (r : CollRun) : State :=
  let s1 := finishColl s d i r
  if (collOf r.desc).toCirrus && !r.duplicate && (r.handed < r.shard.length || r.shard.isEmpty) then feedEnded s1 d r else s1

/-- The collective in slot `i` completes. -/
def endColl (s : State) (d : DieId) (i : Nat) : State :=
  match collRunAt s d i with
  | none => s
  | some r => completeColl s d i r

/-- COLL_COMPLETE: a collective ends. `lost` says that the data it still waits for has failed at its sender, and what depends on
that data takes code 2 (11 R250). That every other member has accepted the collective (11 R482) is what the command's
occurrence says of the members in other packages (notes/assumptions/152.md). -/
def execCollComplete (die : DieId) (slot : Fin 8) (lost : Bool) (s : State) : Result :=
  match collRunAt s die slot.val with
  | none => .next s
  | some r =>
    if collEnded s die r then .next (completeColl s die slot.val r)
    else if lost then
      let s1 := losePhase s die slot.val
      .next (match collRunAt s1 die slot.val with
        | none => s1
        | some q => if collEnded s1 die q then completeColl s1 die slot.val q else s1)
    else .next s

/-- COLL_ACCEPT: the engine of a die accepts the next collective, when fewer than 8 are in progress (11 R235). One of a pair in
progress, and one of a frame that is aborted, complete at once (11 R236, R251). -/
def execCollAccept (die : DieId) (s : State) : Result :=
  let e := (s.unit die).coll
  if 8 ≤ e.runs.length then .next s
  else match acceptCore s die 7 e.last with
  | none => .next s
  | some (c, q) =>
    match q.op with
    | .coll b =>
      if collWaits s c q b then .next s
      else
        let x := collOf b
        let m := if x.op != 5 || x.inEntries = 0 then ([], s) else readMap s c x.inMap x.inEntries q.seq q.pc
        let r := freshColl m.2 die c q b m.1
        let i := e.runs.length
        let dup := e.runs.any fun y => y.frame == r.frame && y.id == r.id
        let s1 := modEntry m.2 c 7 q.seq fun y => { y with accepted := true }
        let s2 := modColl s1 die fun y => { y with runs := y.runs ++ [r], last := c.val % 4 }
        .next (if dup then endColl (raiseFlags (haltColl s2 die i true) flagExchange) die i
          else match s.faulted with
            | some n => if q.frame ≤ n then endColl ((haltColl s2 die i false).bump 0x663006) die i else beginColl s2 die i
            | none => beginColl s2 die i)
    | _ => .next s

/-- A core stops: blocks of its updates that have not begun, their values not all in, do not begin (14 R332). -/
def stopUpds (s : State) (c : CoreId) : State :=
  let d := dieOf c
  s.each (List.range (s.unit d).cirrus.upds.length).reverse fun t i =>
    match updAt t d i with
    | none => t
    | some u =>
      if u.core != c.val then t
      else settleUpd (failBlocks t d i 4 fun j => match u.blocks[j]? with
        | some b => !blockFed u b
        | none => true) d i

/-! ## Decisions (14 R314, R325) -/

/-- A repair of a record begins: it is REPAIRING, and the source reads its committed slots (14 R330). -/
def startRepair (s : State) (d : DieId) (i k : Nat) : State :=
  match (s.unit d).cirrus.recs[i]? with
  | none => s
  | some r =>
    let c := dieCore d
    let s1 := modRec (setRecField s c r.addr 2 1 5) d i fun y => { y with busy := 5, source := k, repairDue := none }
    if groupRank s r.repTopo r.repStages d != k then s1
    else
      let tb := readTable s1 c r.table
      let t := shardOf tb.1
      let gen := recField s r.addr 0 2
      let a := (absLoad tb.2.2 c (slotOf t.master gen) (4 * t.elems)).2
      let b := (absLoad a c (slotOf t.moment gen) (2 * t.elems)).2
      (absLoad b c (slotOf t.aux gen) t.auxBytes).2

/-- A record has become IDLE: a repair that waited for that begins (14 Table 14.3). -/
def idleRec (s : State) (d : DieId) (i : Nat) : State :=
  match (s.unit d).cirrus.recs[i]? with
  | none => s
  | some r => match r.repairDue with
    | some k => startRepair s d i k
    | none => s

/-- The records of a die with a step pending, acted on by its decision: 1 commit, 2 skip, 3 abandon (14 Table 14.3). A record
whose blocks are not all written counts as INCOMPLETE. One that holds poison is discarded and left as it is
(notes/assumptions/155.md). -/
def decideDie (s : State) (d : DieId) (step outcome : Nat) : State :=
  s.each (List.range (s.unit d).cirrus.recs.length) fun t i =>
    match (t.unit d).cirrus.recs[i]? with
    | none => t
    | some r =>
      if r.pending != some step then t
      else
        let c := dieCore d
        let st := recState t r.addr
        let t1 := touchRec t c r.addr
        if outcome = 1 && st = 2 then
          let a := setRecField t1 c r.addr 0 2 ((recField t r.addr 0 2 + 1) % 65536)
          let b := setRecField (setRecField a c r.addr 8 8 step) c r.addr 2 1 4
          modRec (b.bump 0x680003) d i fun y => { y with pending := none, busy := 4 }
        else
          let a := if st = 255 then t1 else setRecField t1 c r.addr 2 1 0
          idleRec (modRec ((a.bump 0x680004).when (outcome == 1) fun z => z.bump 0x680009) d i fun y =>
            { y with pending := none }) d i

/-- A decision acts on every die's records. -/
def decideRecords (s : State) (step outcome : Nat) : State := s.each allDies fun t d => decideDie t d step outcome

/-- Is any refresh or repair in progress on the package. -/
def recordsBusy (s : State) : Bool := allDies.any fun d => (s.unit d).cirrus.recs.any (·.busy != 0)

/-- Is any refresh in progress. -/
def refreshing (s : State) : Bool := allDies.any fun d => (s.unit d).cirrus.recs.any (·.busy == 4)

/-! ## Refresh and fingerprint (14 R326 to R329) -/

/-- The constants of the fingerprint. -/
def gaugeP1 : BitVec 64 := 0x9E3779B97F4A7C15
/-- The second constant. -/
def gaugeP2 : BitVec 64 := 0xC2B2AE3D27D4EB4F

/-- The fingerprint of a shard's words (14 R328). -/
def gauge (xs : List (BitVec 32)) : BitVec 64 :=
  let lanes0 := (List.range 256).map fun j => gaugeP1 * BitVec.ofNat 64 (j + 1)
  let lanes := xs.zipIdx.foldl (fun l p =>
    modAt l (p.2 % 256) fun v => (v ^^^ (p.1.zeroExtend 64 * gaugeP2)).rotateLeft 31 * gaugeP1) lanes0
  let h := lanes.foldl (fun h v => (h ^^^ v).rotateLeft 27 * gaugeP2) (BitVec.ofNat 64 xs.length)
  let h1 := (h ^^^ (h >>> 33)) * gaugeP1
  h1 ^^^ (h1 >>> 29)

/-- The element of a shard as logical coordinates: its piece, row and column. -/
def coordOf (t : Shard) (e : Nat) : Piece × Nat × Nat :=
  match t.pieces.find? fun p => p.first ≤ e && e < p.first + p.elems with
  | some p => (p, p.row0 + (e - p.first) / p.cols, p.col0 + (e - p.first) % p.cols)
  | none => (⟨0, 0, 0, 0, 1, 0, 0⟩, 0, 0)

/-- A master element converted into the working copy (14 R326). -/
def workElem (s : State) (t : Shard) (sr : Bool) (step e : Nat) (v : F32) : List Byte :=
  let f : Format := (formatOf t.work).getD ⟨.bf16, false⟩
  let k := coordOf t e
  let mode : RMode := if sr then
      .sr (cable (s.obj kSeed) step ((k.1.tensor + 2 ^ 21) % 2 ^ 32) k.1.plane k.2.1 k.2.2)
    else .rne
  leBytes t.workBytes (convElem f mode (valOf v)).bits

/-- The working copy written from the committed master, and the master's fingerprint. -/
def refreshShard (s : State) (c : CoreId) (t : Shard) (gen step : Nat) (sr : Bool) : State × BitVec 64 :=
  let l := absLoad s c (slotOf t.master gen) (4 * t.elems)
  let word (e : Nat) : List (Option Byte) := (l.1.drop (4 * e)).take 4
  let vals := (List.range t.elems).map fun e =>
    if (word e).any (·.isNone) then none else some (BitVec.ofNat 32 (leNat (optBytes (word e))))
  let bs := (vals.zipIdx.map fun p => match p.1 with
    | some v => (workElem s t sr step p.2 v).map some
    | none => List.replicate t.workBytes none).flatten
  let s1 := absStore l.2 c t.workAt bs
  (s1.bumpBy 0x68000A (t.elems * (4 + t.workBytes)), gauge (vals.map fun v => v.getD 0xFFFFFFFF))

/-- A fingerprint message (14 Table 14.6). -/
def gaugeMsg (bucket rank gen step g rep : Nat) : List Byte :=
  leBytes 4 bucket ++ leBytes 2 rank ++ leBytes 2 gen ++ leBytes 8 step ++ leBytes 8 g ++ leBytes 1 rep ++ leBytes 7 0

/-- Do two messages speak of the same commit of the same shard: BUCKET_ID, GROUP_RANK and STEP. -/
def sameCommit (a b : List Byte) : Bool := a.take 6 == b.take 6 && bytesAt a 8 8 == bytesAt b 8 8

/-- REP_RANK of a message. -/
def msgRank (m : List Byte) : Nat := leAt m 0x18 1

/-- GEN and GAUGE of a message. -/
def msgValue (m : List Byte) : Nat × Nat := (leAt m 6 2, leAt m 0x10 8)

/-- The messages held for a record, one for each other member. -/
def msgsFor (s : State) (d : DieId) (own : List Byte) : List (List Byte) :=
  ((s.unit d).cirrus.msgs.map (·.bytes)).filter fun m => sameCommit m own && msgRank m != msgRank own

/-- The source of a repair by GAUGE_POLICY, or none for HALT (14 Table 14.7). -/
def repairSource (s : State) (all : List (List Byte)) : Option Nat :=
  match s.obj 0x280001 with
  | 1 =>
    if all.length < 3 then none
    else
      let good := all.filter fun m => all.length < 2 * (all.filter fun o => msgValue o == msgValue m).length
      match good.map msgRank with
      | [] => none
      | r :: rs => some (rs.foldl Nat.min r)
  | 2 => if all.any fun m => msgRank m == s.obj 0x280002 then some (s.obj 0x280002) else none
  | _ => none

/-- A member compares what it holds of a commit of a record, its own message `own` (14 R329, R330). Under a policy other than
HALT that names no source the package asks for a stop. A repair begins when the record is IDLE. -/
def compareGauge (s : State) (d : DieId) (i : Nat) (own : List Byte) : State :=
  match (s.unit d).cirrus.recs[i]? with
  | none => s
  | some r =>
    let others := msgsFor s d own
    let missing := others.length + 1 < groupSize s r.repTopo r.repStages
    let bad := missing || others.any fun m => msgValue m != msgValue own
    let s1 := modRec s d i fun y => { y with own := y.own.filter (· != own) }
    let s2 := modCirrus s1 d fun e => { e with msgs := e.msgs.filter fun m => !sameCommit m.bytes own }
    if !bad then s2
    else
      let d0 := leAt own 8 8 % 2 ^ 48 + leAt own 4 2 * 2 ^ 48
      let s3 := raiseOn (raiseFlags (s2.bump 0x680006) flagGauge) d 33 d0 (leAt own 0 4)
      let s4 := s3.when missing fun z => raiseOn z d 34 d0 (leAt own 0 4)
      if s4.obj 0x280001 = 0 then s4
      else match repairSource s4 (own :: others) with
      | some k => if recState s4 r.addr = 0 then startRepair s4 d i k else modRec s4 d i fun y => { y with repairDue := some k }
      | none => raiseFlags s4 flagStop

/-- Are the messages of every member held for a commit. -/
def gaugeComplete (s : State) (d : DieId) (r : RecTrack) (own : List Byte) : Bool :=
  groupSize s r.repTopo r.repStages ≤ (msgsFor s d own).length + 1

/-- The comparisons whose messages are all held are made. -/
def compareIfFull (s : State) (d : DieId) (i : Nat) : State :=
  match (s.unit d).cirrus.recs[i]? with
  | none => s
  | some r => s.each (r.own.filter (gaugeComplete s d r)) fun t own => compareGauge t d i own

/-- A refresh with its fingerprint ends: WORK and GAUGE are written, the record is IDLE, and the fingerprint goes to every
other member of the replica stages (14 R326, R329). -/
def refreshRecord (s : State) (d : DieId) (i : Nat) : State :=
  match (s.unit d).cirrus.recs[i]? with
  | none => s
  | some r =>
    let c := dieCore d
    let tb := readTable (touchRec s c r.addr) c r.table
    let t := shardOf tb.1
    let gen := recField s r.addr 0 2
    let step := recField s r.addr 8 8
    let o := refreshShard tb.2.2 c t gen step r.workSr
    let s1 := setRecField (setRecField o.1 c r.addr 0x18 8 o.2.toNat) c r.addr 2 1 0
    let s2 := idleRec (modRec s1 d i fun y => { y with busy := 0 }) d i
    if r.repStages = 0 then s2
    else
      let rep := groupRank s2 r.repTopo r.repStages d
      let msg := gaugeMsg t.bucket t.rank gen step o.2.toNat rep
      let s3 := modRec s2 d i fun y => { y with own := y.own ++ [msg] }
      let dests := (List.range (groupSize s3 r.repTopo r.repStages)).filter (· != rep)
      let s4 := s3.each dests fun u k =>
        let dest := memberPackage u r.repTopo r.repStages k d
        match queueFrame u d 2 0 ⟨dest, 0, r.collId, msg, .gauge, none⟩ with
        | some v => v
        | none => unroutable u d dest
      compareIfFull s4 d i

/-- REFRESH_END (14 R326). -/
def execRefreshEnd (die : DieId) (rec : Nat) (s : State) : Result :=
  match (s.unit die).cirrus.recs[rec]? with
  | none => .next s
  | some r => .next (if r.busy = 4 then refreshRecord s die rec else s)

/-! ## Fingerprint messages (14 R329, R330) -/

/-- The record of the package that a message speaks of, once its STEP is committed. -/
def msgRecord (s : State) (m : List Byte) : Option (DieId × Nat) :=
  allDies.findSome? fun d =>
    (indexOf? (fun r : RecTrack =>
      ((seeTable s r.table).any fun t => t.bucket == leAt m 0 4 && t.rank == leAt m 4 2)
        && recField s r.addr 8 8 != 2 ^ 64 - 1 && leAt m 8 8 ≤ recField s r.addr 8 8) (s.unit d).cirrus.recs).map fun i => (d, i)

/-- FINGERPRINT_RECEIVE: the first message whose record has committed its STEP is taken; with `late` the first one that
still matches none, which has waited for GAUGE_TIMEOUT, is refused. -/
def execFingerprintReceive (src : PortId) (late : Bool) (s : State) : Result :=
  let fs := if s.life.resetting then [] else vcAt (s.port src).rx 2
  if late then
    match indexOf? (fun f : RxFrame => (msgRecord s f.payload).isNone) fs with
    | none => .next s
    | some k => .next (raiseFlags ((takeRx s src 2 k).bump 0x680008) flagExchange)
  else match indexOf? (fun f : RxFrame => (msgRecord s f.payload).isSome) fs with
  | none => .next s
  | some k =>
    let m := ((fs[k]?).map (·.payload)).getD []
    match msgRecord s m with
    | none => .next s
    | some (d, i) =>
      let s1 := countPath (takeRx s src 2 k) (portDie src) d (16 + m.length)
      let due := ((s.unit d).cirrus.recs[i]?).any fun r =>
        leAt m 8 8 == recField s r.addr 8 8 || r.own.any fun o => leAt o 8 8 == leAt m 8 8
      let s2 := if due then
          modCirrus s1 d fun e => { e with msgs := e.msgs ++ [⟨m⟩] }
        else s1
      .next (compareIfFull s2 d i)

/-- GAUGE_TIMEOUT_EXPIRY: GAUGE_TIMEOUT has passed since the oldest refresh of the record not yet compared, and the member
compares with messages missing (14 R329). -/
def execGaugeTimeoutExpiry (die : DieId) (rec : Nat) (s : State) : Result :=
  .next (match ((s.unit die).cirrus.recs[rec]?).bind (·.own.head?) with
    | some own => compareGauge s die rec own
    | none => s)

/-- The committed slots written from what a repair brought: master, moment and auxiliary state one after another. -/
def repairSlots (s : State) (c : CoreId) (t : Shard) (gen : Nat) (bs : List Byte) : State :=
  let n := t.elems
  let part (o k : Nat) : List (Option Byte) := (bytesAt bs o k).map some
  let s1 := absStore s c (slotOf t.master gen) (part 0 (4 * n))
  let s2 := absStore s1 c (slotOf t.moment gen) (part (4 * n) (2 * n))
  absStore s2 c (slotOf t.aux gen) (part (6 * n) t.auxBytes)

/-- REPAIR_DONE: a repair ends; the record is refreshed and fingerprinted afresh, or a failed repair turns into HALT
(14 R330). `data` is what the BROADCAST brought to a member that is not its source, the three slots one after another: the
frames that carry it are stated nowhere (notes/assumptions/155.md). -/
def execRepairDone (die : DieId) (rec : Nat) (data : Option (List Byte)) (failed : Bool) (s : State) : Result :=
  match (s.unit die).cirrus.recs[rec]? with
  | none => .next s
  | some r =>
    if r.busy != 5 then .next s
    else if failed then
      .next (raiseFlags (idleRec (modRec (setRecField s (dieCore die) r.addr 2 1 0) die rec fun y => { y with busy := 0 }) die rec)
        flagStop)
    else
      let c := dieCore die
      let tb := readTable s c r.table
      let t := shardOf tb.1
      let gen := recField s r.addr 0 2
      let fin (u : State) : State := refreshRecord (u.bump 0x680007) die rec
      if groupRank s r.repTopo r.repStages die = r.source then .next (fin tb.2.2)
      else match data with
        | some bs => .next (if bs.length = 6 * t.elems + t.auxBytes then fin (repairSlots (writeSlot tb.2.2 r.addr gen) c t gen bs)
            else s)
        | none => .next s

end Sys2Proof.Machine
end

