-- ==== Sys2Proof/Machine/Queues.lean ====
section
/-!
DEFINITION. Machine/Queues.lean: descriptors arriving at issue, instructions finishing in their queues, bank handovers,
and the records of traps and stops (03 R59 to R72, 04 R97).
-/
namespace Sys2Proof.Machine

/-! ## Descriptors read at issue (04 R97) -/

/-- Bytes of a descriptor for a queue. -/
def descBytes (q : Nat) : Nat := if q ≤ 6 then 64 else 128

/-- The checks of a descriptor once it has arrived. -/
def descTrap (s : State) (c : CoreId) (q w2 w3 : Nat) (bs : List Byte) : Option TrapInfo :=
  match q with
  | 7 => collTrap s c bs
  | 8 => exchTrap s c bs
  | 9 => updTrap s c bs w2 w3
  | _ => dmaTrap s c bs

/-- The operation that a descriptor submits. -/
def descOp (q w1 w2 w3 : Nat) (bs : List Byte) : QOp :=
  match q with
  | 7 => .coll bs
  | 8 => .exch bs
  | 9 => .upd bs w1 w2 w3
  | _ => .dma bs

/-- Does a descriptor of the collectives engine or of Skein name scratchpad (03 R61). -/
def descScratch (s : State) (q : Nat) (bs : List Byte) : Bool :=
  match q with
  | 7 => !(collBanks s bs).isEmpty
  | 8 => !(exchBanks s bs).isEmpty
  | _ => true

/-- DESCRIPTOR_FETCH_DONE: the descriptor that a stalled DMA, COLL, EXCH or UPD waits for has arrived: it traps, or is
placed in its queue (04 R97). -/
def execDescriptorFetchDone (core : CoreId) (how : MemOutcome) (s : State) : Result :=
  match (s.core core).stall with
  | .fetchDesc q seg off word w1 w2 w3 =>
    .next (ctrlRead s core seg off (descBytes q) how fun t bs =>
      match descTrap t core q w2 w3 bs with
      | some e => trapCore t core (if e.cause = 4 then plainTrap 4 word else e) q (t.core core).pc.toNat
      | none => enqueue t core q (if q = 9 then 4 else 1) (descOp q w1 w2 w3 bs) (descScratch t q bs)
          fun x => { x with stall := .none })
  | _ => .next s

/-! ## Instructions that finish (03 R64) -/

/-- The first instruction of a unit's queue that its unit has finished leaves it. -/
def finishUnit (s : State) (c : CoreId) (q : Nat) : State :=
  let x := s.core c
  match indexOf? (fun i : QInst => i.accepted && i.done == 1) (x.queue q) with
  | none => s
  | some k => s.setCore c ((x.setQueue q ((x.queue q).eraseIdx k)).incDone q)

/-- QUEUE_INSTRUCTION_DONE: an instruction of a queue finishes (03 R64). -/
def execQueueInstructionDone (core : CoreId) (q : Fin 10) (wait : Nat) (s : State) : Result :=
  let n := q.val
  .next (if 7 ≤ n then finishUnit s core n
    else if !mayWork (s.core core) n then s
    else match n with
      | 0 => finishMatrix s core
      | 1 => finishVector s core
      | 2 => finishPurl s core wait
      | _ => finishDma s core (n - 3))

/-! ## Handovers (03 R61) -/

/-- The scratchpad banks that a queued instruction reaches, or, once it runs, still reaches. -/
def opBanks (s : State) (i : QInst) : List Nat :=
  match i.op with
  | .vec k d a b fn bm sb rnd flags =>
    ((rowsOf a).map fun pr => vecRowBanks s ⟨k, d, a, b, fn, bm, sb, rnd, flags⟩ pr.1 pr.2).flatten
  | .mmul a w d abm arm dk acc accum wstat spar bmen rmen rnd flags ssa ssw ssd =>
    mmBanks s ⟨a, w, d, abm, arm, dk, acc, accum, wstat, spar, bmen, rmen, rnd, flags, ssa, ssw, ssd⟩
  | .mwld d spar => tileBanks s d ((wExt d spar).ext1 + 1) (wExt d spar).row
  | .mrd d _ _ _ _ _ => tileBanks s d (dExt1 d + 1) (dRowBytes d)
  | .pmv y x w rnd flags ssx ssw ssy => pmvBanks s ⟨y, x, w, rnd, flags, ssx, ssw, ssy⟩
  | .dma b => leftBanks s i (dmaOf b)
  | .tld a d m men _ zr => leftBanks s i (tldOf a d m men zr)
  | .coll _ => if i.scratch then List.range 8 else []
  | .exch _ => if i.scratch then List.range 8 else []
  | .upd _ _ _ _ => []

/-- The queues whose instructions reach scratchpad under an owner code. -/
def ownerQueues (owner : Nat) : List Nat :=
  match owner with
  | 1 => [0] | 2 => [1] | 3 => [2] | 4 => [3, 4, 5, 6, 7, 8] | _ => []

/-- Has the old owner of a bank made its last access among the instructions issued before a handover. -/
def handoverReady (s : State) (x : CoreState) (h : Handover) : Bool :=
  (ownerQueues (bankOwner x h.bank)).all fun q =>
    (x.queue q).all fun i => h.seq ≤ i.seq || !(opBanks s i).contains h.bank

/-- The first element that meets a condition, removed. -/
def removeFirst {α : Type} (p : α → Bool) : List α → List α
  | [] => []
  | x :: xs => if p x then xs else x :: removeFirst p xs

/-- HANDOVER_EFFECT: the oldest pending handover of a bank takes effect (03 R61). -/
def execHandoverEffect (core : CoreId) (bank : Fin 8) (waited : Nat) (s : State) : Result :=
  let x := s.core core
  match x.hand.find? fun h => h.bank == bank.val with
  | none => .next s
  | some h =>
    .next (if handoverReady s x h then
        (s.setCore core { x with
          hand := removeFirst (fun g => g.bank == bank.val) x.hand
          banks := BitVec.ofNat 32 (setFld x.banks.toNat (4 * bank.val) 4 (h.owner + h.share.toNat * 8)) }).bumpBy
          0x620005 waited
      else s)

/-! ## Traps and stops recorded (03 R67, R68, R71, R72) -/

/-- Does the head of a queue do no work: it waits for a handover, for a bulk channel, or for Cirrus. -/
def headWaits (s : State) (c : CoreId) (q : Nat) : Bool :=
  let x := s.core c
  match x.queue q with
  | [] => true
  | i :: _ =>
    let banks := match xferOf i.op with
      | some y => nextBanks s i y
      | none => opBanks s i
    handoverWaits x i.seq banks || (q == 0 && s.cirrusOn.contains c.val)
      || (match xferOf i.op with
        | some y => y.isBulk s && i.bulk.isNone
        | none => false)

/-- Have the units of a stopping core finished what they had begun (03 R67 step 2). -/
def coreQuiet (s : State) (c : CoreId) : Bool :=
  let x := s.core c
  (List.range 7).all (fun q => !bitAt x.drain q || headWaits s c q)
    && [7, 8, 9].all fun q => (x.queue q).all fun i => !i.accepted || i.done == 1

/-- Folds of the MMUL at the head of the MATRIX queue, when it has begun: total, done and its program counter. -/
def stoppedFolds (x : CoreState) : Nat × Nat × Nat :=
  match x.queue 0 with
  | [] => (0, 0, 0)
  | i :: _ =>
    match mmOf i.op with
    | none => (0, 0, i.pc)
    | some m =>
      let n := (mmRun m (x.held.map (·.shape)) i).folds.length
      if 0 < i.done && i.done < n then (n, i.done, i.pc) else (0, 0, i.pc)

/-- TRAP_STATUS of a record (03 Table 3.13). -/
def TrapRec.status (r : TrapRec) : Nat :=
  if r.valid then r.frame % 2 ^ 32 * 2 ^ 32 + r.queue * 2 ^ 24 + r.cause * 2 ^ 8 + (r.cause == 1).toNat * 2 + 1 else 0

/-- The record of a stop: the next instruction to issue, and the folds of a matrix instruction stopped between folds
(03 R72). -/
def stopRecord (x : CoreState) (pc : Nat) : TrapRec :=
  let f := stoppedFolds x
  ⟨true, 1, if f.1 = 0 then 0xFF else 0, x.frame % 2 ^ 32, pc, 0, 0, f.1, f.2.1, f.2.2, x.step⟩

/-- FRAME_WATCHDOG: a core has not completed its part of the frame within FRAME_WATCHDOG periods (03 R59). While the core
stops the cause takes the place of STOP, and beside a trap it is counted and discarded (03 R68). -/
def execFrameWatchdog (core : CoreId) (s : State) : Result :=
  let x := s.core core
  .next (if s.obj 0x220001 != 0 && s.run.active && !x.completed
        && (x.st == .running || x.st == .stopping || x.st == .trapped) then
      trapCore s core (plainTrap 15 (distMod 32 s.tick.count x.frame)) 0xFF x.pc.toNat
    else s)

end Sys2Proof.Machine
end

