-- ==== Sys2Proof/Machine/Life.lean ====
section
/-!
DEFINITION. Machine/Life.lean: the grade, the mapping of physical to logical units, licences, and other facts about the
part that several families of commands read (16 R374, 18 R407 to R414).
-/
namespace Sys2Proof.Machine

/-! ## Grades (18 R414, 19 Table 19.2) -/

/-- What a grade fixes: POWER_FLOOR, POWER_CAP, CLOCK_MAX and the rows of Table 19.2. -/
structure Grade where
  floor : Nat
  cap : Nat
  clockMax : Nat
  rows : List (Nat × Nat)

/-- The grade of a fused code; none for an unassigned code. -/
def gradeOf (code : Nat) : Option Grade :=
  match code with
  | 0x40 => some ⟨2000, 4000, 1800, [(2000, 800), (2500, 1100), (3000, 1350), (3400, 1500), (3700, 1650), (4000, 1800)]⟩
  | 0x32 => some ⟨1600, 3200, 1600, [(1600, 800), (2000, 1050), (2400, 1250), (2800, 1425), (3200, 1600)]⟩
  | 0x26 => some ⟨1300, 2600, 1400, [(1300, 800), (1700, 1050), (2100, 1225), (2600, 1400)]⟩
  | _ => none

/-- The package's fused grade; that of code 0x40 where the code is unassigned, in which case no clock runs. -/
def State.grade (s : State) : Grade :=
  (gradeOf s.life.fuse).getD ⟨2000, 4000, 1800, [(2000, 800), (2500, 1100), (3000, 1350), (3400, 1500), (3700, 1650), (4000, 1800)]⟩

/-! ## Physical and logical units (18 R407, R408) -/

/-- The physical engines of a core that passed, ascending. -/
def PhysCore.passing (p : PhysCore) : List Nat := (List.range 5).filter fun e => !p.failed.getLsbD e

/-- A core that failed or has fewer than four passing engines takes no logical position. -/
def PhysCore.lost (p : PhysCore) : Bool := p.coreFail || p.passing.length < 4

/-- The physical cores of a die, by their number on the die. -/
def diePhys (s : State) (d : DieId) : List PhysCore := (s.life.phys.toList.drop (4 * d.val)).take 4

/-- The physical cores of a die that take logical positions, ascending. -/
def positions (s : State) (d : DieId) : List Nat :=
  (List.range 4).filter fun j => !(((diePhys s d)[j]?).getD ⟨true, 0⟩).lost

/-- Is logical core `c` present (18 R408); before the first swatch test none is. -/
def State.present (s : State) (c : CoreId) : Bool := s.life.present.getLsbD c.val

/-- The logical cores present after a swatch test. -/
def presentMask (s : State) : Nat :=
  allCores.foldl (fun acc c => if c.val % 4 < (positions s (dieOf c)).length then acc + 2 ^ c.val else acc) 0

/-- SWATCH_STATUS of a die (18 Table 18.8). -/
def swatchStatus (s : State) (d : DieId) : Nat :=
  if s.life.present = 0 then 0
  else
    let ps := diePhys s d
    let bit (f : PhysCore → Bool) : Nat := ps.zipIdx.foldl (fun acc p => if f p.1 then acc + 2 ^ p.2 else acc) 0
    ps.zipIdx.foldl (fun acc p => acc + p.1.failed.toNat * 2 ^ (5 * p.2)) 0
      + bit (·.lost) * 2 ^ 20 + bit (fun p => !p.lost && (p.passing.take 4).contains 4) * 2 ^ 24
      + fld s.life.present.toNat (4 * d.val) 4 * 2 ^ 28

/-- The first core that the image uses and that is absent or not: cores the run waits for (18 R409). -/
def State.runCores (s : State) : List CoreId := allCores.filter fun c => s.usesCore c && s.present c

/-- A write to a locked RWL field: kept, and counted (00 R8). -/
def lockedWrite (s : State) : State := s.bump 0x600101

/-! ## Device states (16 Table 16.1) -/

/-- BOOT. -/
def stBoot : Nat := 0
/-- PREOP. -/
def stPreop : Nat := 1
/-- OPERATIONAL. -/
def stOperational : Nat := 2
/-- STOPPED. -/
def stStopped : Nat := 3
/-- FAULT. -/
def stFault : Nat := 4

/-- Does the block run: some ports of service need a started package that no thermal trip has ended. -/
def State.alive (s : State) : Bool := !s.power.tripped

end Sys2Proof.Machine
end

