-- ==== Sys2Proof/Machine/Ports.lean ====
section
/-!
DEFINITION. Machine/Ports.lean: port states, PROBE, CTRL and DATA frames, the fate of the frames of a port that leaves
service, and Dropstitch's registers (10 R213 to R222, R232, R233).
-/
namespace Sys2Proof.Machine

/-! ## Frames of a port that leaves service (10 R220) -/

/-- The collective in progress that a frame belongs to. -/
def collIndex (s : State) (d : DieId) (frame id : Nat) : Option Nat :=
  indexOf? (fun r : CollRun => r.frame == frame && r.id == id && !r.duplicate) (s.unit d).coll.runs

/-- The exchange in progress that a frame belongs to. -/
def exchIndex (s : State) (d : DieId) (frame id : Nat) : Option Nat :=
  indexOf? (fun r : ExchRun => r.frame == frame && r.id == id && !r.duplicate && (exchOf r.desc).op != 0) (s.unit d).skein.runs

/-- A frame reported failed to the unit that sent it. -/
def ownerLost (s : State) (o : FrameOwner) : State :=
  match o with
  | .transit => s
  | .coll d frame id chunk =>
    match collIndex s (dieFin d) frame id with
    | some i => chunkLost s (dieFin d) i (chunk / 2 ^ 64) (chunk % 2 ^ 64)
    | none => s
  | .exch d frame id kind item =>
    match exchIndex s (dieFin d) frame id with
    | some i => exchLost (raiseFlags s flagExchange) (dieFin d) i kind item
    | none => s
  | .gauge => s

/-- A frame waiting on a port that left service is routed anew, or is unroutable (11 R241, R242). -/
def requeue (s : State) (p : PortId) (vc : Nat) (f : OutFrame × Nat) : State :=
  match queueFrame s (portDie p) vc f.2 f.1 with
  | some t => t
  | none =>
    let s1 := ownerLost (unroutable s (portDie p) f.1.dest) f.1.owner
    match f.1.arrival with
    | some a => freeCredit s1 a vc (frameUnits f.1.payload)
    | none => s1

/-- The port has left service: its unacknowledged frames are reported failed, and the waiting ones go by other ports. -/
def failFrames (s : State) (p : PortId) : State :=
  let x := s.port p
  let s1 := s.modPort p fun y => { y with unacked := [], dsHeld := [], awaitCtrl := false, outq := Vector.replicate 3 [] }
  let s2 := s1.each x.unacked fun t f => ownerLost (t.bump (kPort p 6)) f.owner
  s2.each [0, 1, 2] fun t vc => t.each (vcAt x.outq vc).zipIdx fun u f => requeue u p vc f

/-- The result of a transition that may have ended in DOWN. -/
def settlePort (p : PortId) (r : State × Bool) : State := if r.2 then failFrames r.1 p else r.1

/-- A partner violation, with all it leads to (10 R221). -/
def violate (s : State) (p : PortId) (c : Nat) : State := settlePort p (violation s p c)

/-- A frame that is not of this form: dropped, and treated as a frame in error (10 Table 10.5 class 1). -/
def badForm (s : State) (p : PortId) : State := violate (frameInError s p) p 1

/-- A frame taken from a port in service when its codeword and CRC are right and it has the form of its type. -/
def takeFrameOf (s : State) (p : PortId) (type : Nat) (frame : List Byte) (fixed : Nat) (bad : Bool) (k : State → State) : State :=
  let s1 := noteFixed s p frame.length fixed bad
  if !(s.port p).carries then s1
  else if fecFails (s.port p).fecNow frame.length fixed bad || !frameCrcOk frame then frameInError s1 p
  else if (frameHead frame).type != type || !frameFormOk frame then badForm s1 p
  else k s1

/-! ## States (10 R219) -/

/-- PORT_ENABLE: EN set to 1 starts training from DISABLED. -/
def execPortEnable (port : PortId) (s : State) : Result :=
  .next (s.modPort port fun x => { x with
    en := true, st := if x.st = .disabled then .training else x.st, slow := if x.st = .disabled then false else x.slow })

/-- EN set to 0: DISABLED from any state. -/
def disablePort (s : State) (p : PortId) : State :=
  let x := s.port p
  let s1 := s.modPort p fun y => { y with en := false, st := .disabled, remeasuring := false, probes := [], measured := [] }
  s1.when (x.st == .up || x.st == .quiescent || x.st == .retraining) fun t => failFrames t p

/-- PORT_DISABLE. -/
def execPortDisable (port : PortId) (s : State) : Result := .next (disablePort s port)

/-- PORT_RETRAIN_WRITE: RETRAIN moves an UP port to RETRAINING. -/
def execPortRetrainWrite (port : PortId) (s : State) : Result :=
  .next (settlePort port (enterRetraining s port 4))

/-- PORT_TRAINED: the lanes have trained with the partner named. From TRAINING the port measures, in RETRAINING it
measures again with the same partner; a partner in the other FEC mode leaves it training (10 R211, R219). -/
def execPortTrained (port : PortId) (pkg : BitVec 16) (pport : BitVec 8) (fec : BitVec 2) (s : State) : Result :=
  let x := s.port port
  let who := (pkg.toNat, pport.toNat)
  .next (if !s.clocks.serdesOk || (x.st != .training && x.st != .retraining) then s
    else if fec.toNat != x.fec then s.modPort port fun y => { y with lastCause := 7 }
    else if x.st = .training then s.modPort port fun y => { y with
      st := .measuring, partner := some who, fecNow := y.fec, probes := [], measured := [] }
    else if x.partner = some who then s.modPort port fun y => { y with
      remeasuring := true, fecNow := y.fec, probes := [], measured := [] }
    else s)

/-- PORT_TRAIN_SLOW: a second of training without success raises the event once. -/
def execPortTrainSlow (port : PortId) (s : State) : Result :=
  let x := s.port port
  .next (if x.st = .training && !x.slow then
      (portEvent s port 25 0).modPort port fun y => { y with slow := true }
    else s)

/-- MEASURE_TIMEOUT: no 16 consistent round trips in 10 ms, back to TRAINING, counted in RETRAINS. -/
def execMeasureTimeout (port : PortId) (s : State) : Result :=
  .next (if (s.port port).st = .measuring then s.modPort port fun y => { y with
      st := .training, slow := false, retrains := (y.retrains + 1) % 256, probes := [], measured := [] }
    else s)

/-- CODEWORD_LOCK_LOSS: an UP port enters RETRAINING. -/
def execCodewordLockLoss (port : PortId) (s : State) : Result :=
  .next (settlePort port (enterRetraining s port 2))

/-- RETRAIN_TIMEOUT: a port still in RETRAINING goes DOWN. -/
def execRetrainTimeout (port : PortId) (s : State) : Result :=
  .next (if (s.port port).st = .retraining then
      failFrames (portEvent (s.modPort port fun y => { y with st := .down, lastCause := 5, remeasuring := false }) port 19 0) port
    else s)

/-! ## PROBE (10 R222) -/

/-- A port in MEASURING, UP or measuring again sends a PROBE request. -/
def execProbeSend (port : PortId) (stamp : BitVec 64) (s : State) : Result :=
  let x := s.port port
  .next (if x.st = .measuring || x.carries || (x.st = .retraining && x.remeasuring) then
      sendRaw (s.modPort port fun y => { y with probes := y.probes ++ [stamp.toNat] }) port 5
        (mkFrame 5 0 0 0 0 0 (leBytes 8 stamp.toNat ++ leBytes 8 0))
    else s)

/-- PROBE_TIMEOUT: the oldest request is abandoned. -/
def execProbeTimeout (port : PortId) (s : State) : Result :=
  .next (s.modPort port fun y => { y with probes := y.probes.drop 1 })

/-- The spread of a list of measured values: the largest and the smallest. -/
def spreadOf (l : List Int) : Int × Int := (l.foldl max (l.headD 0), l.foldl min (l.headD 0))

/-- A value between two values, which the specification leaves open. -/
def drawBetween (s : State) (lo hi : Int) : Int × State :=
  let r := s.draw
  (lo + ((r.1 % ((hi - lo).toNat + 1) : Nat) : Int), r.2)

/-- The link state of a port that comes into service with a partner it did not serve before: sequence numbers and credit
start afresh, and frames received earlier give no credit. -/
def freshLink (x : Port) : Port :=
  { x with txSeq := 0, unacked := [], sent := Vector.replicate 3 0, credit := Vector.replicate 3 0, rxSeq := 0,
           discarding := false, sinceAck := 0, owed := false, recv := Vector.replicate 3 0, freed := Vector.replicate 3 0,
           epoch := x.epoch + 1, awaitCtrl := false, partnerQuiescent := false }

/-- Sixteen round trips agree: UP, or QUIESCENT where the package is in a compute reset. After RETRAINING the partners
exchange CTRL frames before every unacknowledged frame goes again; a different partner first ends the frames of the last
one. -/
def portUp (s : State) (p : PortId) : State :=
  let x := s.port p
  let st : PortSt := if s.life.resetting then .quiescent else .up
  if x.st = .retraining then
    sendCtrl (s.modPort p fun y => { y with st := st, remeasuring := false, awaitCtrl := true }) p false
  else
    let s1 := s.when (x.served.isSome && x.served != x.partner) fun t => failFrames t p
    portEvent (s1.modPort p fun y => { freshLink y with st := st, served := y.partner }) p 16 0

/-- A new value of d. -/
def newLatency (s : State) (p : PortId) (v : Int) : State :=
  let x := s.port p
  let old : Int := x.d
  if x.st = .measuring || x.st = .retraining then
    let ms := (v :: x.measured).take 16
    let s1 := s.modPort p fun y => { y with measured := ms }
    let sp := spreadOf ms
    if ms.length = 16 && sp.1 - sp.2 ≤ 16 then
      let r := drawBetween s1 sp.2 sp.1
      portUp (r.2.modPort p fun y => { y with d := r.1.toNat % 2 ^ 32, dNext := none, measured := [] }) p
    else s1
  else if v - old > 32 || old - v > 32 then s.modPort p fun y => { y with dNext := some (v.toNat % 2 ^ 32) }
  else
    let r := drawBetween s (min v old) (max v old)
    r.2.modPort p fun y => { y with d := r.1.toNat % 2 ^ 32 }

/-- An echo: half of the round trip without TURN, plus TRIM; how a half unit rounds is left open. -/
def takeEcho (s : State) (p : PortId) (stamp turn arrive : Nat) : State :=
  let x := s.port p
  if !x.probes.contains stamp then violate s p 7
  else
    let r := (s.modPort p fun y => { y with probes := y.probes.erase stamp }).draw
    let trip : Int := (distMod 64 arrive stamp : Int) - turn + (r.1 % 2 : Nat)
    newLatency r.2 p (trip / 2 + sgn 16 x.trim)

/-- PROBE_RECEIVE: a request is echoed at once, an echo gives a new value of d. -/
def execProbeReceive (port : PortId) (frame : List Byte) (fec : FecOutcome) (arrive : BitVec 64) (turn : BitVec 32)
    (s0 : State) : Result :=
  let x := s0.port port
  let s := noteFixed s0 port frame.length fec.fixed fec.bad
  .next (if x.st = .disabled || x.st = .training || x.st = .down then s
    else if fecFails x.fecNow frame.length fec.fixed fec.bad || !frameCrcOk frame then (if x.carries then frameInError s port else s.bump (kPort port 2))
    else if (frameHead frame).type != 5 || !frameFormOk frame then
      (if x.carries then badForm s port else violate (s.bump (kPort port 2)) port 1)
    else
      let pl := framePayload frame
      if leAt pl 0xC 1 = 0 then
        sendRaw s port 5 (mkFrame 5 0 0 0 0 0 (leBytes 8 (leAt pl 0 8) ++ leBytes 4 turn.toNat ++ leBytes 4 1))
      else takeEcho s port (leAt pl 0 8) (leAt pl 8 4) arrive.toNat)

/-! ## DATA frames (10 R216, R217, 11 R241, R242) -/

/-- DATA_FRAME_SEND: the first frame waiting on a VC is sent when its credit and the replay buffer allow. -/
def execDataFrameSend (port : PortId) (vc : Fin 3) (s : State) : Result :=
  .next (match (vcAt (s.port port).outq vc.val).head? with
    | some f => if maySend (s.port port) vc.val f then sendData s port vc.val f else s
    | none => s)

/-- A DATA frame for another package goes on under this package's route entry, or is dropped. -/
def forwardFrame (s : State) (p : PortId) (vc : Nat) (h : FrameHead) (payload : List Byte) : State :=
  let i := s.obj 0x663003
  match queueFrame s (portDie p) vc i ⟨h.dest, h.addr, h.tag, payload, .transit, some (p.val, (s.port p).epoch)⟩ with
  | some t => t.bump 0x663003
  | none => freeCredit (unroutable s (portDie p) h.dest) (p.val, (s.port p).epoch) vc (frameUnits payload)

/-- A DATA frame accepted: counted, acknowledged after every 64, and placed or forwarded. -/
def acceptData (s : State) (p : PortId) (h : FrameHead) (frame : List Byte) : State :=
  let payload := framePayload frame
  let s1 := s.modPort p fun x => { x with
    rxSeq := (x.rxSeq + 1) % 4096, discarding := false, sinceAck := x.sinceAck + 1
    recv := vcSet x.recv h.vc ((vcAt x.recv h.vc + frameUnits payload) % 65536) }
  let s2 := countBytes (s1.bumpBy (kPort p 8) frame.length) 3 (2 * p.val + 1) frame.length
  let s3 := s2.when (64 ≤ (s2.port p).sinceAck) fun t => sendCtrl t p false
  if h.dest = s.obj kPackageId then
    s3.modPort p fun x => { x with rx := vcSet x.rx h.vc (vcAt x.rx h.vc ++ [⟨h.dest, h.addr, h.tag, payload, x.epoch⟩]) }
  else forwardFrame s3 p h.vc h payload

/-- A DATA frame of the right form, by its SEQ and its VC's credit. -/
def takeData (s : State) (p : PortId) (frame : List Byte) : State :=
  let x := s.port p
  let h := frameHead frame
  if h.seq != x.rxSeq then
    (if x.discarding then s
     else if distMod 12 x.rxSeq h.seq < 2048 then violate s p 3
     else frameInError s p)
  else if 8192 < distMod 16 (vcAt x.recv h.vc + frameUnits (framePayload frame)) (vcAt x.freed h.vc) then
    violate (nakFrame s p) p 2
  else acceptData s p h frame

/-- DATA_FRAME_RECEIVE. -/
def execDataFrameReceive (port : PortId) (frame : List Byte) (fixed : Nat) (bad : Bool) (s : State) : Result :=
  .next (takeFrameOf s port 1 frame fixed bad fun t => takeData t port frame)

/-! ## CTRL frames (10 R215 to R218) -/

/-- Does an ACK_SEQ name a frame that this port has not sent: one ahead of the last sent, as the modulo-4,096 numbers
compare by 02 R43. -/
def ackUnsent (x : Port) (ack : Nat) : Bool :=
  let d := distMod 12 ack ((x.txSeq + 4095) % 4096)
  0 < d && d < 2048

/-- The frames that an ACK_SEQ leaves unacknowledged. -/
def afterAck (ack : Nat) (l : List SentFrame) : List SentFrame :=
  match indexOf? (fun f : SentFrame => f.seq == ack) l with
  | some k => l.drop (k + 1)
  | none => l

/-- One credit field of a CTRL frame. -/
def takeCredit (s : State) (p : PortId) (vc c : Nat) : State :=
  let x := s.port p
  let back := 2 ^ 15 ≤ distMod 16 c (vcAt x.credit vc)
  let ahead := distMod 16 c (vcAt x.sent vc)
  if back || (8192 < ahead && ahead < 2 ^ 15) then violate s p 5
  else s.modPort p fun y => { y with credit := vcSet y.credit vc c }

/-- A NAK: every unacknowledged frame again, or a lasting failure when the first of them had been replayed. -/
def takeNak (s : State) (p : PortId) : State :=
  match (s.port p).unacked with
  | [] => s
  | f :: _ =>
    if f.replayed && (s.port p).st == .up then settlePort p (enterRetraining (s.bump (kPort p 4)) p 1)
    else replayAll (s.when f.replayed fun t => t.bump (kPort p 4)) p

/-- A CTRL frame of the right form. The first one after RETRAINING brings the partner's credit counts, and every unacknowledged
frame goes again (10 Table 10.4). -/
def takeCtrl (s : State) (p : PortId) (pl : List Byte) : State :=
  let x := s.port p
  let a := leAt pl 0 2
  let ack := fld a 0 12
  if ackUnsent x ack then violate s p 4
  else
    let rest := afterAck ack x.unacked
    let gone := x.unacked.take (x.unacked.length - rest.length)
    let s1 := (s.modPort p fun y => { y with unacked := rest, partnerQuiescent := bitAt a 13 }).bumpBy (kPort p 3)
      (gone.filter (·.replayed)).length
    let s2 := s1.each [0, 1, 2] fun t vc => takeCredit t p vc (leAt pl (2 + 2 * vc) 2)
    if (s2.port p).awaitCtrl then replayAll (s2.modPort p fun y => { y with awaitCtrl := false }) p
    else s2.when (bitAt a 15 && (s2.port p).carries) fun t => takeNak t p

/-- CTRL_FRAME_RECEIVE. -/
def execCtrlFrameReceive (port : PortId) (frame : List Byte) (fec : FecOutcome) (s : State) : Result :=
  .next (takeFrameOf s port 2 frame fec.fixed fec.bad fun t => takeCtrl t port (framePayload frame))

/-- ACK_TIMER: 100 ns after an acceptance not yet acknowledged, or when credit is owed, a CTRL frame goes. -/
def execAckTimer (port : PortId) (s : State) : Result :=
  let x := s.port port
  .next (if x.carries && (x.sinceAck != 0 || x.owed) then sendCtrl s port false else s)

/-! ## Dropstitch's registers (10 R232, R233) -/

/-- A write of DS_CTRL: locked without the licence; TRIGGER 0 disarms at once, a write while TRIGGER is 0 takes effect
at once, and any other at the next frame boundary. -/
def writeDsCtrl (s : State) (p : PortId) (v : Nat) : State :=
  if !s.licensed 2 then lockedWrite s
  else
    let idle := fld (s.port p).dsCtrl 0 2 == 0
    let s1 := s.modPort p fun x =>
      if fld v 0 2 = 0 then { x with dsCtrl := v, dsArmed := none, dsWait := false } else { x with dsCtrl := v, dsWait := true }
    s1.when idle fun t => dsBoundary t p

/-- DS_CTRL from its fields. -/
def dsCtrlOf (drop corrupt reorder : BitVec 16) (classes : BitVec 4) (trigger : Nat) : Nat :=
  drop.toNat * 2 ^ 48 + corrupt.toNat * 2 ^ 32 + reorder.toNat * 2 ^ 16 + classes.toNat * 2 ^ 8 + trigger

/-- DROPSTITCH_TRIGGER_OFF. -/
def execDropstitchTriggerOff (port : PortId) (drop corrupt reorder : BitVec 16) (classes : BitVec 4) (s : State) : Result :=
  .next (writeDsCtrl s port (dsCtrlOf drop corrupt reorder classes 0))

/-- DROPSTITCH_TRIGGER_NOW. -/
def execDropstitchTriggerNow (port : PortId) (drop corrupt reorder : BitVec 16) (classes : BitVec 4) (s : State) : Result :=
  .next (writeDsCtrl s port (dsCtrlOf drop corrupt reorder classes 1))

/-- DROPSTITCH_TRIGGER_TICK. -/
def execDropstitchTriggerTick (port : PortId) (drop corrupt reorder : BitVec 16) (classes : BitVec 4) (s : State) : Result :=
  .next (writeDsCtrl s port (dsCtrlOf drop corrupt reorder classes 2))

/-- DROPSTITCH_SINGLE_SHOT. -/
def execDropstitchSingleShot (port : PortId) (drop corrupt reorder : BitVec 16) (classes : BitVec 4) (s : State) : Result :=
  .next (writeDsCtrl s port (dsCtrlOf drop corrupt reorder classes 3))

end Sys2Proof.Machine
end

