-- ==== Sys2Proof/Machine/Clock.lean ====
section
/-!
DEFINITION. Machine/Clock.lean: core clocks: the guaranteed clock, voltages, the plan of a frame, the limits in force, and
the learning records of phase tags (19 R424 to R438, R444).
-/
namespace Sys2Proof.Machine

/-! ## Power state -/

/-- A die's power state. -/
def State.pdie (s : State) (d : DieId) : PowerDie := s.power.dies[d]

/-- A die's power state changed. -/
def State.modPdie (s : State) (d : DieId) (f : PowerDie → PowerDie) : State :=
  { s with power := { s.power with dies := vmod s.power.dies d f } }

/-- A core's clocks. -/
def State.clk (s : State) (c : CoreId) : CoreClk := s.power.clk[c]

/-- A core's clocks changed. -/
def State.modClk (s : State) (c : CoreId) (f : CoreClk → CoreClk) : State :=
  { s with power := { s.power with clk := vmod s.power.clk c f } }

/-- A rail group changed. -/
def State.modGroup (s : State) (g : Fin 20) (f : RailGroup → RailGroup) : State :=
  { s with power := { s.power with groups := vmod s.power.groups g f } }

/-- Does a lowest state hold a group (19 R433, R434). -/
def RailGroup.lowest (g : RailGroup) : Bool := g.alertHeld || g.dipHeld

/-- The groups of a die: its cores' and its Stratus'. -/
def dieLowest (s : State) (d : DieId) : Bool :=
  (s.power.groups[d.val]'(by omega)).lowest || (s.power.groups[d.val + 8]'(by omega)).lowest

/-- The group that slows the cores of a die. -/
def coreLowest (s : State) (d : DieId) : Bool := (s.power.groups[d.val]'(by omega)).lowest

/-! ## Clock limits -/

/-- V_d(f) (19 R429): the fused table plus the die's guard band. -/
def voltFor (s : State) (d : DieId) (f : Nat) : Nat := Config.fusedMv d.val f + s.power.guard[d]

/-- The 25 MHz steps from 800 MHz to the grade's maximum, highest first. -/
def clockSteps (s : State) : List Nat := ((List.range ((s.grade.clockMax - 800) / 25 + 1)).map fun i => 800 + 25 * i).reverse

/-- f_age (19 R444). -/
def ageClock (s : State) : Nat :=
  ((clockSteps s).find? fun f => allDies.all fun d => voltFor s d f ≤ 880).getD 800

/-- f_g before the ageing limit: the value of Table 19.2 at a budget, between its rows. -/
def tableClock : List (Nat × Nat) → Nat → Nat
  | (b0, f0) :: (b1, f1) :: rest, b =>
    if b < b1 || rest.isEmpty then (f0 * (b1 - b0) + (f1 - f0) * (min b b1 - b0)) / (b1 - b0) / 25 * 25
    else tableClock ((b1, f1) :: rest) b
  | [(_, f0)], _ => f0
  | [], _ => 0

/-- f_g at a budget (19 R424). -/
def guaranteed (s : State) (budget : Nat) : Nat := min (tableClock s.grade.rows budget) (s.obj 0xA03003)

/-- The highest clock no higher than `f` that a die's confirmed voltage supports; every path works at 800 MHz. -/
def supported (s : State) (d : DieId) (f : Nat) : Nat :=
  ((clockSteps s).find? fun g => g ≤ f && voltFor s d g ≤ (s.pdie d).voltage).getD 800

/-- A clock lowered in steps, down to 800 MHz and never raised. -/
def lowered (plan k step : Nat) : Nat := if k = 0 then plan else min plan (max 800 (plan - k * step))

/-- NOW_MHZ: the lowest of the limits of 19 R435, and the halt of R440. -/
def coreNow (s : State) (c : CoreId) : Nat :=
  let d := dieOf c
  let x := s.pdie d
  let plan := (s.clk c).plan
  if plan = 0 then 0
  else if s.power.halted then min plan 800
  else
    let volt := if s.obj 0xA00004 = 1 then min plan (max (supported s d plan) (s.obj 0xA03001)) else min plan (supported s d plan)
    let a := min volt (min (lowered plan x.thermal 100) (min (lowered plan x.hbm 100) (lowered plan x.stackSteps 25)))
    let b := match s.power.cap with
      | some m => min a m
      | none => a
    if coreLowest s d then min b 800 else b

/-- Does a cause of R435 other than the mode clock act on a die. -/
def dieThrottled (s : State) (d : DieId) : Bool :=
  let x := s.pdie d
  s.power.halted || s.power.cap.isSome || x.thermal != 0 || x.hbm != 0 || x.stackSteps != 0 || x.avsFault || dieLowest s d

/-- The clocks of a die brought up to date with its limits. -/
def refreshClocks (s : State) (d : DieId) : State :=
  let s1 := s.when (dieThrottled s d) fun t => t.modPdie d fun x => { x with throttled := true }
  s1.each [0, 1, 2, 3] fun t j =>
    let c := coreFin (4 * d.val + j)
    let n := coreNow t c
    t.modClk c fun x => { x with now := n }

/-- The clocks of every die brought up to date. -/
def refreshAllClocks (s : State) : State := s.each allDies refreshClocks

/-! ## The plan of a frame (19 R428) -/

/-- f_floor of a core's demands. -/
def floorClock (s : State) (x : CoreDemand) : Nat :=
  let busy := max (max x.crit x.engine) (max x.vector x.purl) + x.cirrus
  25 * cdiv (busy * 10 ^ 7) (25 * s.obj kBasePeriod * (10000 - s.obj 0x211001))

/-- f_learn of a core for a tag; none for a tag with no record yet. -/
def learnClock (s : State) (c : CoreId) (tag : Nat) : Option Nat :=
  let r := kvGet ⟨0, [], 0⟩ (s.pdie (dieOf c)).phases tag
  if r.occs.isEmpty then none
  else
    let n := sumOf (r.occs.map fun o => o.2.1.getD (c.val % 4) 0)
    some (25 * cdiv (n * 10 ^ 7) (25 * r.occs.length * s.tick.period * (10000 - s.obj 0xA00005)))

/-- The clock of a core for a frame under CLOCK_MODE, never above f_age. What die d's share allows under FREE is the
controller's prediction: `free` chooses among the steps from f_g up. -/
def planClock (s : State) (c : CoreId) (fd : FrameDesc) (free : Nat) : Nat :=
  let fg := s.obj 0xA03001
  match s.obj 0xA00004 with
  | 0 => fg
  | 1 => let top := min s.grade.clockMax (s.obj 0xA03003)
         fg + 25 * (free % ((top - fg) / 25 + 1))
  | _ =>
    let fl := ((fd.cores[c.val]?).map (floorClock s)).getD 0
    match learnClock s c fd.tag with
    | none => fg
    | some l => min (max fl (min l fg)) (s.obj 0xA03003)

/-- The clocks of every used core set for a frame (19 R426). -/
def planFrame (s : State) (fd : FrameDesc) : State :=
  let s1 := s.each allDies fun t d =>
    let r := t.draw
    r.2.each [0, 1, 2, 3] fun u j =>
      let c := coreFin (4 * d.val + j)
      if u.usesCore c then
        let p := planClock u c fd r.1
        let f := ((fd.cores[c.val]?).map (floorClock u)).getD 0
        u.modClk c fun x => { x with plan := p, floor := f }
      else u
  refreshAllClocks s1

/-- A planned clock after f_g or f_age has fallen: no mode plans a higher clock from then on (19 R423, R444). -/
def lowerPlan (s : State) (free : Nat) (x : CoreClk) : CoreClk :=
  let fg := s.obj 0xA03001
  let age := s.obj 0xA03003
  { x with plan := (match s.obj 0xA00004 with
      | 0 => min x.plan fg
      | 1 => min x.plan (fg + 25 * (free % ((min s.grade.clockMax age - fg) / 25 + 1)))
      | _ => min (max (min x.floor x.plan) (min x.plan fg)) age) }

/-- FLOOR_MHZ reads 0 when no image runs (19 Table 19.7). -/
def clearFloors (s : State) : State := s.each allCores fun t c => t.modClk c fun x => { x with floor := 0 }

/-! ## Phase records (19 R427) -/

/-- A frame with a die's energy added to a tag's record: its energy, the cores' elapsed cycles, and its time. -/
def addPhase (s : State) (d : DieId) (tag us : Nat) : State :=
  let cyc := [0, 1, 2, 3].map fun j => (s.core (coreFin (4 * d.val + j))).use.elapsed
  let clk0 := (s.clk (coreFin 0)).plan
  s.modPdie d fun x => { x with phases := kvMod ⟨0, [], 0⟩ x.phases tag fun r =>
    ⟨min (r.count + 1) (2 ^ 32 - 1), ((kvGet 0 x.energy tag, cyc, us) :: r.occs).take 16, clk0⟩ }

/-- The records of a frame that has completed: an occurrence of every tag that energy was counted against, unless a cause
of R435 acted in it. -/
def closePhases (s : State) (tag : Nat) : State :=
  let us := (s.now - s.run.startedAt) / 25
  s.each allDies fun t d =>
    let x := t.pdie d
    let tags := tag :: (x.energy.map (·.1)).filter (· != tag)
    let t1 := t.when (!x.throttled) fun u => u.each tags fun v g => addPhase v d g us
    t1.modPdie d fun y => { y with energy := [], throttled := dieThrottled t d }

/-- The phase records cleared: at every package reset and LOAD_IMAGE. -/
def clearPhases (s : State) : State := s.each allDies fun t d => t.modPdie d fun x => { x with phases := [], energy := [] }

end Sys2Proof.Machine
end

