-- ==== Sys2Proof/Machine/Frame.lean ====
section
/-!
DEFINITION. Machine/Frame.lean: frames of the running image: where the schedule stands, contributions, stopping, and the
start and end of a frame and of an image (02 R28 to R42, 03 R58, R67, R71, R73).
-/
namespace Sys2Proof.Machine

/-! ## The schedule (02 R28, R32) -/

/-- The schedule of the loaded image. -/
def State.sched (s : State) : List SchedEntry := (s.run.image.map (·.sched)).getD []

/-- Frames from a place in the schedule to its end; none when the last entry repeats until stopped. -/
def framesFrom (l : List SchedEntry) (c : Cursor) : Option Nat :=
  match l.drop c.entry with
  | [] => some 0
  | e :: rest =>
    if (e :: rest).any (·.reps == 0) then none
    else some (e.count * (e.reps - c.rep) - c.idx + sumOf (rest.map fun r => r.count * r.reps))

/-- The place after a place in the schedule. -/
def nextCursor (l : List SchedEntry) (c : Cursor) : Cursor :=
  match l[c.entry]? with
  | none => c
  | some e =>
    if c.idx + 1 < e.count then { c with idx := c.idx + 1 }
    else if e.reps = 0 || c.rep + 1 < e.reps then ⟨c.entry, c.rep + 1, 0⟩
    else ⟨c.entry + 1, 0, 0⟩

/-- The frame descriptor at a place in the schedule. -/
def descAt (l : List SchedEntry) (c : Cursor) : Option Nat := (l[c.entry]?).map fun e => e.first + c.idx

/-- The descriptor of the frame that starts next. -/
def nextDesc (s : State) : Option FrameDesc :=
  match s.run.image, descAt s.sched s.run.cursor with
  | some i, some k => i.frames[k]?
  | _, _ => none

/-- Does the image run frames, from its start command to its end or stop. -/
def State.runs (s : State) : Bool := s.run.phase == .armed || s.run.phase == .running

/-- The frames still to start: those from the cursor on, and a frame that a stop interrupted and that runs again first
(03 R73); none while the last entry repeats until stopped. -/
def framesLeft (s : State) : Option Nat :=
  (framesFrom s.sched s.run.cursor).map fun k => k + s.run.stoppedAt.isSome.toNat

/-- Is frame `n` a frame of the running image that is not sealed (10 R227). -/
def frameOpen (s : State) (n : Nat) : Bool :=
  (s.run.active && n == s.run.frame) || (s.hasImage && s.runs && s.run.next ≤ n && (match framesLeft s with
    | none => true
    | some k => n < s.run.next + k))

/-! ## Contributions (02 R39, R40) -/

/-- The package's contribution for a frame, sealed or not. -/
def contribution (s : State) (n : Nat) : Nat :=
  let c := kvGet ⟨0, false⟩ s.tick.contribs n
  if (s.run.active && n == s.run.frame) || (!s.run.active && s.runs && n == s.run.next) then c.bits ||| s.run.contrib
  else c.bits

/-- The package's contribution for a frame set; those of frames long past are dropped. -/
def setContrib (s : State) (n : Nat) (c : Contrib) : State :=
  { s with tick := { s.tick with contribs := kvSet ⟨0, false⟩ (s.tick.contribs.filter fun p => n < p.1 + 256) n c } }

/-- The flags raised between frames stand in the contribution for the frame that was to run next: a stop ends their wait, and
the frame contributes afresh under its new number (02 R39, 03 R73, notes/assumptions/86.md). -/
def parkFlags (s : State) : State :=
  let n := s.run.next
  let s1 := setContrib s n ⟨contribution s n, false⟩
  { s1 with run := { s1.run with contrib := 0 } }

/-- The contribution for the frame running is sealed, and no frame runs any more. -/
def sealFrame (s : State) : State :=
  let n := s.run.frame
  let s1 := setContrib s n ⟨contribution s n, true⟩
  { s1 with run := { s1.run with active := false, contrib := 0 } }

/-- STOP_REQUEST raised in the contribution for the current frame, with the source that caused it. -/
def stopRequest (s : State) (cause : Nat) : State :=
  let s1 := raiseFlags s flagStop
  { s1 with run := { s1.run with stopCause := if s1.run.stopCause = 0 then cause else s1.run.stopCause } }

/-! ## Stopping (02 R42, 03 R71) -/

/-- ENTRY of a core in the frame it would start next. -/
def nextEntry (s : State) (c : CoreId) : Option Nat :=
  match nextDesc s with
  | none => none
  | some d => (d.cores[c.val]?).map (·.entry)

/-- One core stops: a core that issues finishes what its units had begun, a core between frames records STOP at once, and a
trapped core stays trapped. Where no further frame exists TRAP_PC is the core's own program counter (the model's choice,
notes/assumptions/23.md). -/
def stopCore (s : State) (c : CoreId) : State :=
  let x := s.core c
  match x.st with
  | .running => s.setCore c { x with st := .stopping, stall := .none, drain := drainSet x }
  | .waiting => s.setCore c { x with st := .stopped, trap := stopRecord x ((nextEntry s c).getD x.pc.toNat) }
  | .idle => s.setCore c { x with st := .stopped, trap := stopRecord x ((nextEntry s c).getD x.pc.toNat) }
  | _ => s

/-- Has every core of the run stopped or trapped. -/
def allHalted (s : State) : Bool := s.runCores.all fun c => (s.core c).st == .stopped || (s.core c).st == .trapped

/-- A stop completes: the contribution of the frame it interrupted is sealed, and the package enters STOPPED
(03 R73, 16 Table 16.1). -/
def settleStop (s : State) : State :=
  if s.run.phase == .stopped && allHalted s then
    let s1 := s.when s.run.active sealFrame
    s1.when (s1.obj kDeviceState == stOperational) fun t => setDeviceState t stStopped t.run.stopCause
  else s

/-- A step abandoned: its shadow is discarded, and the loss scale stands (02 R42, 13 R291). -/
def abandonStep (s : State) (r : StepRec) : State :=
  let s1 := decideRecords (s.bump 0x670006) r.num 3
  { s1 with run := { s1.run with
      scales := kvSet 25 s1.run.scales (r.num + 1) (s1.obj kScale) } }

/-- The stop of R42 at tick `t`: the cores stop, the update blocks that have not begun end with them, and then every step not
decided is abandoned (14 R332). -/
def stopImage (s : State) (t cause : Nat) : State :=
  if !s.hasImage || s.run.phase == .stopped then s
  else
    let s1 := { s with run := { s.run with
      phase := .stopped, stopTick := some t
      stopCause := if s.run.stopCause = 0 then cause else s.run.stopCause
      stoppedAt := if s.run.active then some s.run.cursor else s.run.stoppedAt } }
    let s2 := (s1.each s1.runCores stopCore).each s1.runCores stopUpds
    let s3 := s2.each s.run.steps abandonStep
    let s4 := { s3 with run := { s3.run with steps := [] } }
    let s5 := s4.when (!s.run.active && s.run.next < s.tick.count) parkFlags
    settleStop (abortExchs s5 t true)

/-- TRAP_RECORD_WRITE: the record of a trap is written once the units have finished, the core is TRAPPED, and CORE_TRAP
and STOP_REQUEST are raised (03 R67 steps 3 and 4). -/
def execTrapRecordWrite (core : CoreId) (s : State) : Result :=
  let x := s.core core
  match x.trapPend with
  | none => .next s
  | some r =>
    if x.st != .stopping || !coreQuiet s core then .next s
    else
      let fo := stoppedFolds x
      let rec' : TrapRec := { r with foldsTotal := fo.1, foldsDone := fo.2.1, mpc := fo.2.2 }
      let s1 := s.setCore core { x with st := .trapped, trapPend := none, drain := 0, stall := .none, trap := rec' }
      let s2 := raiseOn (s1.bump 0x620001) (dieOf core) (1 + core.val % 4) rec'.status (rec'.pc % 2 ^ 32)
      .next (settleStop (stopRequest s2 (512 * (dieOf core).val + 1 + core.val % 4)))

/-- CORE_STOP_RECORD: a core that stops records cause STOP once its units have finished (03 R71). -/
def execCoreStopRecord (core : CoreId) (s : State) : Result :=
  let x := s.core core
  .next (if x.st == .stopping && x.trapPend.isNone && coreQuiet s core then
      settleStop (s.setCore core { x with st := .stopped, drain := 0, trap := stopRecord x x.pc.toNat })
    else s)

/-! ## Frames (02 R28, R29) -/

/-- Condition 3: every step that ended before frame `n` is decided, with the refreshes its decision began ended. -/
def decisionsMade (s : State) (n : Nat) : Bool := s.run.steps.all (fun r => n ≤ r.last) && !refreshing s

/-- Condition 4: no payload of a frame below n − 60 is provisional. -/
def payloadsFinal (s : State) (n : Nat) : Bool := s.tick.payloads.all fun p => n ≤ p.1 + 60 || p.2.final

/-- The conditions of R28 for the frame that starts next. -/
def mayStart (s : State) : Bool :=
  match nextDesc s with
  | none => false
  | some d =>
    s.runs && !s.run.active && s.obj kDeviceState == stOperational && s.tick.arrived && s.run.next ≤ s.tick.count
      && (!d.decisionWait || decisionsMade s s.run.next) && payloadsFinal s s.run.next

/-- The snapshots of every enabled ring (08 R184), from the ring registers now in force. -/
def snapRings (s : State) : State :=
  s.each allDies fun t d => t.each (t.die d).ringNow.toList fun u r =>
    let h := fld r.toNat 0 48
    if !bitAt r.toNat 63 || h % 64 != 0 then u
    else
      let c := coreFin (fld r.toNat 58 5)
      let l := absLoad u c h 16
      absStore l.2 c (h + 16) l.1

/-- Ring and keep window registers written since the last frame start take effect (08 R188). -/
def latchWindows (s : State) : State :=
  s.each allDies fun t d => t.modDie d fun m => { m with ringNow := m.ring, keepNow := m.keep }

/-- At a frame start the instruction cache fetches the line that holds the core's ENTRY, if it is not there (03 R55). -/
def fetchEntry (s : State) (c : CoreId) (entry : Nat) : State :=
  let off := entry / 256 * 256
  s.when (off < s.codeBytes && !(s.core c).lines.contains off) fun t => readLine t c off .good

/-- A core begins a frame: issue starts at its ENTRY, and its registers keep what they hold (03 R47, R58). -/
def startCore (fd : FrameDesc) (n step : Nat) (s : State) (c : CoreId) : State :=
  match fd.cores[c.val]? with
  | none => s
  | some r => (fetchEntry s c r.entry).modCore c fun x => { x with
      st := .running, frame := n, step := step, pc := BitVec.ofNat 64 r.entry, fend := false, completed := false
      stall := .none, tag := BitVec.ofNat 8 fd.tag, use := ⟨0, 0, 0, 0, [], []⟩ }

/-- The instruction at the head of the MATRIX queue goes on after a stop (06 R127). -/
def CoreState.resumeMatrix (x : CoreState) : CoreState :=
  match x.queue 0 with
  | [] => x
  | i :: is => x.setQueue 0 ({ i with resumed := 0 < i.done } :: is)

/-- A core goes on in the frame that a stop interrupted, under its new number (03 R73). -/
def resumeCore (n : Nat) (s : State) (c : CoreId) : State :=
  s.modCore c fun x => { x.resumeMatrix with st := if x.completed then .waiting else .running, frame := n }

/-- The step of the frame at the cursor: a first frame of a repetition begins a new one (02 R29). -/
def stepOf (s : State) (n : Nat) : Nat × Option StepRec :=
  match s.sched[s.run.cursor.entry]? with
  | none => (s.run.step, none)
  | some e =>
    if e.isStep && s.run.cursor.idx = 0 then
      let k := if s.run.stepRun then s.run.step + 1 else s.run.startStep
      (k, some ⟨k, n, n + e.count - 1⟩)
    else (s.run.step, none)

/-- The frame at the cursor starts. -/
def startFrame (s : State) (fd : FrameDesc) : State :=
  let n := s.run.next
  let st := stepOf s n
  let s1 := snapRings (latchWindows s)
  let s2 := { s1 with run := { s1.run with
    phase := .running, active := true, frame := n, next := n + 1, cursor := nextCursor s.sched s.run.cursor
    desc := (descAt s.sched s.run.cursor).getD 0, step := st.1, stepRun := s.run.stepRun || st.2.isSome, late := false
    steps := match st.2 with
      | some r => s.run.steps ++ [r]
      | none => s.run.steps
    bytes := [], overs := [], startedAt := s.now } }
  planFrame (s2.each s2.runCores (startCore fd n st.1)) fd

/-- The frame that a stop interrupted goes on under a new number. -/
def resumeFrame (s : State) : State :=
  let n := s.run.next
  let s1 := { s with run := { s.run with
    phase := .running, active := true, frame := n, next := n + 1, stoppedAt := none, late := false, startedAt := s.now } }
  refreshAllClocks (s1.each s1.runCores (resumeCore n))

/-- FRAME_START (02 R28). -/
def execFrameStart (s : State) : Result :=
  let ready := s.runs && !s.run.active && s.obj kDeviceState == stOperational && s.tick.arrived && s.run.next ≤ s.tick.count
    && payloadsFinal s s.run.next
  let s' := s.setObj 0x610006 (s.run.next % 2 ^ 32)
  .next (if s.run.stoppedAt.isSome then (if ready then resumeFrame s' else s)
    else match nextDesc s with
      | some fd => if mayStart s then startFrame s' fd else s
      | none => s)

/-- FRAME_COMPLETE: every core of the run has completed its part, and the contribution is sealed (02 R28, R40). -/
def execFrameComplete (s : State) : Result :=
  .next (if s.run.active && s.run.phase == .running && s.runCores.all fun c => (s.core c).completed then
      closePhases (sealFrame s) ((s.frameDesc.map (·.tag)).getD 0)
    else s)

/-- IMAGE_END: the last frame is complete, every step decided, and every refresh ended (02 R30). -/
def execImageEnd (s : State) : Result :=
  .next (if s.run.phase == .running && !s.run.active && framesLeft s == some 0 && s.run.steps.isEmpty
        && !refreshing s then
      let s1 := { s with run := { s.run with phase := .ended } }
      raise (clearFloors (s1.each s1.runCores fun t c => t.modCore c fun x => { x with st := .idle })) 269 (s.run.frame % 2 ^ 32) 0
    else s)

end Sys2Proof.Machine
end

