-- ==== Sys2Proof/Machine/Tick.lean ====
section
/-!
DEFINITION. Machine/Tick.lean: the tick network: markers, tick arrival, waves, payloads, decisions and the stretch policy
(02 R24 to R27, R38 to R42, 10 R224 to R230, 21 R476).
-/
namespace Sys2Proof.Machine

/-- Tick modes (02 Table 2.1). -/
def modeLocal : Nat := 0
/-- FOLLOWER. -/
def modeFollower : Nat := 1
/-- MASTER. -/
def modeMaster : Nat := 2
/-- EXTERNAL. -/
def modeExternal : Nat := 3

/-- FLAG_LATENCY. -/
def State.latency (s : State) : Nat := s.obj kFlagLatency

/-- The tick network changed. -/
def State.modTick (s : State) (f : TickNet → TickNet) : State := { s with tick := f s.tick }

/-- The ports that carry MARKER and WAVE frames. -/
def tickPorts (s : State) : List PortId := allPorts.filter fun p => (s.port p).ticks

/-! ## Markers (10 R224, R225) -/

/-- A MARKER frame (10 Table 10.7). DELIVERED, its finality and VALID say what this package delivered at tick t − 1. -/
def markerFrame (s : State) (t period elapsed hops base origin : Nat) : List Byte :=
  let d := s.tick.delivered.find? fun x => x.1 + 1 == t
  let dv := match d with
    | some x => leBytes 2 x.2.bits ++ leBytes 1 (x.2.final.toNat + 2)
    | none => leBytes 2 0 ++ leBytes 1 0
  mkFrame 3 0 0 0 0 0 (leBytes 8 t ++ leBytes 4 period ++ leBytes 4 elapsed ++ dv ++ leBytes 1 hops ++ leBytes 4 base
    ++ leBytes 2 origin ++ leBytes 6 0)

/-- A MARKER sent on every port of the tick network; `e` is ELAPSED without the port's own delay. -/
def sendMarkers (s : State) (t period e hops base origin : Nat) (delays : List Nat) : State :=
  s.each (tickPorts s) fun x p =>
    sendRaw x p 3 (markerFrame x t period (e + delays.getD p.val 0) hops base origin)

/-- A tick that waits for the end of its hold. -/
def holdTick (s : State) (t : Nat) : State :=
  s.modTick fun x => { x with seen := some t, holds := x.holds ++ [t] }

/-- The tick that a master fires next. -/
def nextTick (s : State) : Nat := (s.tick.seen.getD s.tick.count) + 1

/-- The package's own timebase, or TICK_IN, fires a tick. -/
def fireTick (s : State) (delays : List Nat) : State :=
  let t := nextTick s
  let s1 := s.when (s.obj kTickMode != modeLocal) fun x =>
    sendMarkers x t x.tick.period 0 0 (x.obj kBasePeriod) (x.obj kPackageId) delays
  holdTick s1 t

/-- TIMEBASE_TICK: in LOCAL and MASTER modes the timebase fires the next tick. -/
def execTimebaseTick (delays : List Nat) (s : State) : Result :=
  let m := s.obj kTickMode
  .next (if s.alive && (m = modeLocal || m = modeMaster) then fireTick s delays else s)

/-- TICK_IN_EDGE: in EXTERNAL mode an edge at least 2,000 ns after the last accepted one fires a tick; an earlier one is
ignored and counted (21 R476). -/
def execTickInEdge (gap : Nat) (delays : List Nat) (s : State) : Result :=
  .next (if !s.alive || s.obj kTickMode != modeExternal then s
    else if s.tick.edgesSeen != 0 && gap < 2000 then s.bump 0x610009
    else
      fireTick (s.modTick fun x => { x with
        period := if x.edgesSeen = 0 then x.period else gap
        edges := if x.edgesSeen = 0 then [] else (gap :: x.edges).take 15, edgesSeen := x.edgesSeen + 1 }) delays)

/-! ## Waves (10 R227) -/

/-- The package's own values of wave `t`; nothing during a compute reset (10 R231). -/
def ownWave (s : State) (t : Nat) : Wave :=
  if s.life.resetting then ⟨0, 0⟩
  else (List.range 64).foldl (fun (w : Wave) k =>
    if t < 1 + k then w
    else
      let n := t - 1 - k
      ⟨w.openBits + (frameOpen s n).toNat * 2 ^ k, w.flags + contribution s n % 2 ^ 16 * 2 ^ (16 * k)⟩) ⟨0, 0⟩

/-- A wave merged with another. -/
def Wave.join (a b : Wave) : Wave := ⟨a.openBits ||| b.openBits, a.flags ||| b.flags⟩

/-- W[w]. -/
def State.wave (s : State) (w : Nat) : Wave := kvGet ⟨0, 0⟩ s.tick.waves w

/-- W[w] sent on every port of the tick network. -/
def sendWave (s : State) (w : Nat) : State :=
  let v := s.wave w
  s.each (tickPorts s) fun x p =>
    sendRaw x p 4 (mkFrame 4 0 0 0 0 0 (leBytes 8 w ++ leBytes 8 v.openBits ++ leBytes 128 v.flags))

/-- W[w] replaced; waves no payload needs any more are dropped. -/
def setWave (s : State) (w : Nat) (v : Wave) : State :=
  s.modTick fun x => { x with waves := kvSet ⟨0, 0⟩ (x.waves.filter fun p => w < p.1 + 256) w v }

/-- The package originates wave `t`. -/
def originateWave (s : State) (t : Nat) : State :=
  let s1 := setWave s t ((s.wave t).join (ownWave s t))
  sendWave (s1.modTick fun x => { x with firstWave := some (x.firstWave.getD t) }) t

/-! ## Payloads (02 R39, R40, 10 R228) -/

/-- The payload of frame `n` from the waves of the ticks up to `w`, and whether the frame is still open in wave `w`. -/
def payloadOf (s : State) (n w : Nat) : Payload :=
  let bits := (List.range (w - n)).foldl (fun acc i =>
    if i < 64 then acc ||| fld (s.wave (n + 1 + i)).flags (16 * i) 16 else acc) 0
  ⟨bits, !bitAt (s.wave w).openBits (w - 1 - n)⟩

/-- A payload delivered: kept, and shown in TICK_PAYLOAD. Payloads of the 64 most recent frames are kept, those
that an undecided step or condition 4 of R28 waits for, and on a late package those of the 64 frames before the one running,
which its cores may still read (04 R101). -/
def keepPayload (s : State) (n : Nat) (p : Payload) : State :=
  let need (m : Nat) : Bool := s.run.steps.any fun r => r.first ≤ m && m ≤ r.last
  let cores (m : Nat) : Bool := s.run.active && s.run.frame ≤ m + 64
  s.modTick fun x => { x with
    payloads := kvSet ⟨0, false⟩ (x.payloads.filter fun q => n < q.1 + 64 || !q.2.final || need q.1 || cores q.1) n p
    lastFrame := n, lastPayload := p }

/-- What the delivery of a payload does at once: EXCHANGE_FAULT aborts collectives and exchanges (11 R251, 12 R278). -/
def actPayload (s : State) (n : Nat) (p : Payload) : State :=
  if p.bits &&& flagExchange = 0 then s
  else
    let s1 := { s with faulted := some (max n (s.faulted.getD n)) }
    abortExchs (abortColls s1 n) n false

/-- Does a payload stop the package: STOP_REQUEST, or GAUGE_MISMATCH under the policy HALT (14 R330). -/
def payloadStops (s : State) (p : Payload) : Bool :=
  p.bits &&& flagStop != 0 || (p.bits &&& flagGauge != 0 && s.obj 0x280001 == 0)

/-- One payload delivered, with whether it stops the package. -/
def deliverOne (w : Nat) (r : State × Bool) (n : Nat) : State × Bool :=
  let p := payloadOf r.1 n w
  let s1 := actPayload (keepPayload r.1 n p) n p
  (s1, r.2 || payloadStops s1 p)

/-- Frames whose delivered payload is provisional and whose OPEN bit is now clear. -/
def newlyFinal (s : State) (w n : Nat) : List Nat :=
  (s.tick.payloads.filter fun q => q.1 < n && !q.2.final && n < q.1 + 64 && !bitAt (s.wave w).openBits (w - 1 - q.1)).map (·.1)

/-! ## The stretch policy (02 R38) -/

/-- The current period changed by the policy. -/
def setPeriod (s : State) (p : Nat) : State :=
  if p = s.tick.period then s else (s.modTick fun x => { x with period := p }).bump 0x610004

/-- The longest period. -/
def stretchMax (s : State) : Nat :=
  if s.obj 0x210104 = 0 then min (2 * s.obj kBasePeriod) 10000000 else s.obj 0x210104

/-- The policy applied to a tick whose payload carries LATE or not, by a package that makes its own ticks. Where no policy is
applied both counts of consecutive ticks start anew (notes/assumptions/84.md). -/
def stretch (s : State) (late : Bool) : State :=
  let m := s.obj kTickMode
  let pol := s.obj 0x210101
  if (m != modeLocal && m != modeMaster) || pol = 0 then s.modTick fun x => { x with lateRun := 0, clearRun := 0 }
  else
    let s1 := s.modTick fun x => { x with
      lateRun := if late then x.lateRun + 1 else 0, clearRun := if late then 0 else x.clearRun + 1 }
    if late && s.obj 0x210102 ≤ s1.tick.lateRun then
      setPeriod (s1.modTick fun x => { x with lateRun := 0 })
        (max s.tick.period (min (s.tick.period + s.obj 0x210103) (stretchMax s)))
    else if pol = 2 && s.obj 0x210105 ≤ s1.tick.clearRun then
      setPeriod (s1.modTick fun x => { x with clearRun := 0 })
        (min s.tick.period (max (s.tick.period - s.obj 0x210103) (s.obj kBasePeriod)))
    else s1

/-! ## Decisions (01 R23, 02 R41, 13 R291) -/

/-- The frames of a step. -/
def StepRec.frames (r : StepRec) : List Nat := (List.range (r.last + 1 - r.first)).map (r.first + ·)

/-- Is every payload of a step's frames final. -/
def stepFinal (s : State) (r : StepRec) : Bool := r.frames.all fun n => (s.payload n).final

/-- The OR of NONFINITE and EXCHANGE_FAULT over a step's final payloads. -/
def stepFaulty (s : State) (r : StepRec) : Bool :=
  r.frames.any fun n => (s.payload n).bits &&& (flagNonfinite ||| flagExchange) != 0

/-- The loss-scale exponent and clean count after a decision. -/
def nextScale (s : State) (commit : Bool) : Nat × Nat :=
  let e := s.obj kScale
  let c := s.obj 0x670002
  if s.obj 0x270001 = 1 then (e, 0)
  else if commit then (if s.obj 0x270003 ≤ c + 1 then (min (e + 1) 24, 0) else (e, c + 1))
  else (e - 1, 0)

/-- A step decided: commit or skip. -/
def decideStep (s : State) (r : StepRec) : State :=
  let bad := stepFaulty s r
  let sc := nextScale s (!bad)
  let s1 := decideRecords s r.num (if bad then 2 else 1)
  let s2 := ((s1.setObj kScale sc.1).setObj 0x670002 sc.2).setObj 0x670003 r.num
  let s3 := s2.bump (if bad then 0x670005 else 0x670004)
  { s3 with run := { s3.run with
      steps := s3.run.steps.drop 1
      scales := kvSet 25 s3.run.scales (r.num + 1) sc.1
      decided := kvSet (25, 0) s3.run.decided r.num sc } }

/-- The steps that can be decided, in step order. -/
def decideSteps : Nat → State → State
  | 0, s => s
  | k + 1, s =>
    match s.run.steps with
    | [] => s
    | r :: _ => if stepFinal s r then decideSteps k (decideStep s r) else s

/-! ## Tick arrival (02 R26, 10 R225) -/

/-- Frame t − 1 not complete when tick t arrives is late (02 R37). -/
def markLate (s : State) (t : Nat) : State :=
  if t = 0 || !frameOpen s (t - 1) then s
  else
    let n := t - 1
    let s1 := setContrib s n { kvGet ⟨0, false⟩ s.tick.contribs n with bits := (kvGet ⟨0, false⟩ s.tick.contribs n).bits ||| flagLate }
    { s1 with run := { s1.run with late := s1.run.late || (s1.run.active && s1.run.frame == n) } }

/-- New latencies take the place of the old ones, and injection from DS_TICK begins (10 R222, R232). -/
def tickPortsStep (s : State) (t : Nat) : State :=
  s.each allPorts fun x p => x.modPort p fun y =>
    let z := match y.dNext with
      | some v => { y with d := v, dNext := none }
      | none => y
    if fld z.dsCtrl 0 2 = 2 && !z.dsWait && z.dsArmed.isNone && z.dsTick ≤ t then { z with dsArmed := some t, dsJ := 0 } else z

/-- What tick `t` delivers: the payload of frame t − L and every payload that has become final, and what follows from
them: the stretch policy, the stop, and the decisions. The older payloads are delivered after that of frame t − L, in
ascending order, so that TICK_PAYLOAD shows the last of them afterwards (the model's choice, notes/assumptions/141.md). -/
def deliver (s : State) (t : Nat) : State :=
  let l := s.latency
  let w := t + 1 - l
  match s.tick.firstWave with
  | none => s
  | some f =>
    if t < l || w < f then s
    else
      let n := t - l
      let r0 := deliverOne w (s, false) n
      let first := r0.1.payload n
      let s1 := r0.1.modTick fun x => { x with delivered := ((t, first) :: x.delivered).take 64 }
      let late := first.bits &&& flagLate != 0
      let s2 := stretch (s1.when late fun x => x.bump 0x610003) late
      let r := (newlyFinal s2 w n).foldl (deliverOne w) (s2, r0.2)
      let s3 := r.1.when r.2 fun x => stopImage x t 0
      decideSteps s3.run.steps.length s3

/-- Tick `t` arrives. After a tick that does not follow the one before it, the waves of the ticks between are not there, and
payloads wait until the package has originated those they need (10 R230). CURRENT_PERIOD is the interval as measured, which is not the set period: a free value. -/
def tickArrive (s : State) (t : Nat) : State :=
  let s1 := s.modTick fun x => { x with
    count := t, arrived := true, firstWave := if x.arrived && x.count + 1 == t then x.firstWave else none }
  let s2 := s1.when (5 ≤ s.life.stage && s.life.stage != 15) fun x => x.emit (.pin 2 true)
  let m := s2.draw
  let s3 := (m.2.setObj 0x610001 t).setObj 0x610002 (m.1 % 2 ^ 32)
  let s4 := originateWave (markLate (tickPortsStep s3 t) t) t
  deliver s4 t

/-- TICK_ARRIVAL: the oldest hold ends. -/
def execTickArrival (s : State) : Result :=
  .next (match s.tick.holds with
    | [] => s
    | h :: rest => tickArrive (s.modTick fun x => { x with holds := rest }) h)

/-! ## Markers received (02 R24, R25, 10 R225, R230) -/

/-- The fields of a MARKER payload. -/
structure Marker where
  tick : Nat
  period : Nat
  elapsed : Nat
  delivered : Payload
  valid : Bool
  hops : Nat
  base : Nat
  origin : Nat

/-- A MARKER payload read. -/
def markerOf (b : List Byte) : Marker :=
  ⟨leAt b 0 8, leAt b 8 4, leAt b 0xC 4, ⟨leAt b 0x10 2, bitAt (leAt b 0x12 1) 0⟩, bitAt (leAt b 0x12 1) 1, leAt b 0x13 1,
    leAt b 0x14 4, leAt b 0x18 2⟩

/-- A marker copy's DELIVERED field compared with what this package delivered at tick t − 1 (10 R230). -/
def compareMarker (s : State) (p : PortId) (m : Marker) : State :=
  match s.tick.delivered.find? fun x => x.1 + 1 == m.tick with
  | none => s
  | some x =>
    if m.valid && x.2 != m.delivered then stopRequest (raise s 262 m.tick p.val) 262 else s

/-- A TICK_SEQUENCE violation (10 Table 10.5 class 6). -/
def sequenceFault (s : State) (p : PortId) (t : Nat) : State := raise (violate s p 6) 258 t p.val

/-- The first valid marker of tick t: forwarded, and held until Λ − E has passed. -/
def firstMarker (s : State) (p : PortId) (m : Marker) (delays : List Nat) : State :=
  let e := m.elapsed + (s.port p).d
  let s1 := sendMarkers s m.tick m.period e (m.hops + 1) m.base m.origin delays
  let s2 := (s1.modTick fun x => { x with markerBase := some m.base, period := m.period }).setObj 0x610008 m.hops
  let s3 := s2.when (4 < m.hops) fun x => raise x 260 m.hops p.val
  if e < 16 * s.obj 0x210005 then holdTick s3 m.tick
  else
    let fresh := match s.tick.exceededAt with
      | none => true
      | some a => a + cyclesOfMs 1000 ≤ s.now
    let s4 := s3.when fresh fun x => raise (x.modTick fun y => { y with exceededAt := some s.now }) 259 (e / 16) p.val
    let hs := s4.tick.holds
    let s5 := (s4.modTick fun x => { x with seen := some m.tick, holds := [] }).each hs tickArrive
    tickArrive s5 m.tick

/-- A valid MARKER by tick mode. -/
def takeMarker (s : State) (p : PortId) (m : Marker) (delays : List Nat) : State :=
  let mode := s.obj kTickMode
  if mode = modeLocal then s
  else if mode = modeFollower then
    match s.tick.seen with
    | none => firstMarker (compareMarker s p m) p m delays
    | some t =>
      if m.tick = t then compareMarker s p m
      else if m.tick = t + 1 then firstMarker (compareMarker s p m) p m delays
      else sequenceFault s p m.tick
  else if m.origin = s.obj kPackageId then s
  else setLevel (s.modTick fun x => { x with conflict := true, conflictAt := s.now }) 256 true mode p.val

/-- MARKER_RECEIVE. -/
def execMarkerReceive (port : PortId) (frame : List Byte) (fec : FecOutcome) (delays : List Nat) (s : State) : Result :=
  .next (if !(s.port port).tickEn then s
    else takeFrameOf s port 3 frame fec.fixed fec.bad fun t => takeMarker t port (markerOf (framePayload frame)) delays)

/-- TICK_CONFLICT_END: TICK_TIMEOUT periods have passed without a foreign marker (02 R24). -/
def execTickConflictEnd (s : State) : Result :=
  .next (setLevel (s.modTick fun x => { x with conflict := false }) 256 false 0 0)

/-! ## Waves received (10 R227, R229) -/

/-- A wave update within its window: merged, sent on when it adds bits, and late after tick s + L − 1. -/
def takeWave (s : State) (w : Nat) (v : Wave) (settle : Nat) : State :=
  let old := s.wave w
  let new := old.join v
  if new = old then s
  else
    let s1 := sendWave (setWave s w new) w
    let s2 := s1.setObj 0x610007 (max (s1.obj 0x610007) (settle % 2 ^ 32))
    if s.tick.arrived && w + s.latency ≤ s.tick.count + 1 then stopRequest (raise s2 261 w 0) 261 else s2

/-- WAVE_RECEIVE. Before any tick has arrived there is no window (10 R227). -/
def execWaveReceive (port : PortId) (frame : List Byte) (fec : FecOutcome) (settle : Nat) (s : State) : Result :=
  .next (if !(s.port port).tickEn then s
    else takeFrameOf s port 4 frame fec.fixed fec.bad fun t =>
      let b := framePayload frame
      let w := leAt b 0 8
      if !t.tick.arrived || (t.tick.count ≤ w + t.latency && w ≤ t.tick.count + 1) then takeWave t w ⟨leAt b 8 8, leAt b 0x10 128⟩ settle
      else sequenceFault t port w)

/-- TICK_LOSS: no tick within TICK_TIMEOUT periods stops the running image as a STOP_REQUEST does (02 R27);
a follower then expects no tick in particular. -/
def execTickLoss (s : State) : Result :=
  let s1 := s.when (s.obj kTickMode == modeFollower) fun x => x.modTick fun y => { y with seen := none, holds := [] }
  .next (stopImage (raise s1 257 s1.tick.count 0) s1.tick.count 257)

end Sys2Proof.Machine
end

