-- ==== Sys2Proof/Machine/Power.lean ====
section
/-!
DEFINITION. Machine/Power.lean: the power controller, regulator alerts and brown-outs, sensors, thermal limits and stops,
remote channels and ageing (19 R423 to R445).
-/
namespace Sys2Proof.Machine

/-! ## Reported values -/

/-- A power in mW as an FP32 number of W. -/
def wattsF32 (mw : Nat) : Nat := (fdiv (toF32 (.fin false mw 0)) 0x447A0000#32).toNat

/-- A temperature in 0.125 °C as an FP32 number of °C. -/
def celsiusF32 (t : Int) : Nat := (toF32 (.fin (t < 0) t.natAbs (-3))).toNat

/-- A signed number in the 32 bits of DETAIL1. -/
def detail32 (t : Int) : Nat := unsgn 32 t

/-- A power object of a die. -/
def kDie (d : DieId) (sub : Nat) : Nat := objKey (0xA110 + d.val) sub

/-! ## The controller (19 R426 to R431) -/

/-- A new budget, and a new ageing limit, take effect at a controller step; one that lowers f_g lowers the clocks at once. -/
def applyBudget (s : State) : State :=
  let g := match s.power.replans with
    | r :: _ => Vector.ofFn fun (d : Fin 8) => max s.power.guard[d] (r.guards.getD d.val 0)
    | [] => s.power.guard
  let s1 := { s with power := { s.power with guard := g } }
  let age := ageClock s1
  let s2 := s1.when (g != s.power.guard) fun t =>
    (t.setObj 0xA03003 age).when (age < s.obj 0xA03003 && age < s.grade.clockMax) fun u => raise u 325 age (u.obj 0xC30002)
  let b := s2.obj 0xA00001
  let s3 := s2.setObj 0xA03001 (guaranteed s2 b)
  let s4 := s3.when (guaranteed s2 b < s.obj 0xA03001 || age < s.obj 0xA03003) fun t =>
    let r := t.draw
    refreshAllClocks { r.2 with power := { r.2.power with clk := r.2.power.clk.map (lowerPlan r.2 r.1) } }
  if b = s4.power.budget then s4
  else raise { s4 with power := { s4.power with budget := b } } 320 b (guaranteed s4 b)

/-- Energy of a die against a phase tag. -/
def addEnergy (s : State) (d : DieId) (tag uj : Nat) : State :=
  s.modPdie d fun x => { x with energy := kvMod 0 x.energy tag (· + uj) }

/-- Energy of a core since the last step, against the tags that were in force meanwhile. How much of it came before each PTAG
or FEND no command tells: a free value, within what the core drew (notes/assumptions/149.md). -/
def splitEnergy (s : State) (c : CoreId) (uj : Nat) : State :=
  let r := (s.core c).use.tagsWas.foldl (fun (acc : State × Nat) tag =>
    let v := acc.1.draw
    let part := v.1 % (acc.2 + 1)
    (addEnergy v.2 (dieOf c) tag part, acc.2 - part)) (s, uj)
  (addEnergy r.1 (dieOf c) (s.core c).tag.toNat r.2).modCore c fun x => { x with use := { x.use with tagsWas := [] } }

/-- Energy of a die since the last step, counted against the phase tags of its cores while a frame runs (19 R427). -/
def countEnergy (s : State) (d : DieId) (cores : List Nat) (rest : Nat) : State :=
  if !s.run.active then s
  else
    (addEnergy s d ((s.frameDesc.map (·.tag)).getD 0) rest).each [0, 1, 2, 3] fun t j =>
      splitEnergy t (coreFin (4 * d.val + j)) (cores.getD j 0)

/-- The clock that a die's voltage must support: the highest of the current frame, and of the next one when it starts
soon. -/
def wantedClock (s : State) (d : DieId) (soon : Bool) : Nat :=
  let cs := [0, 1, 2, 3].map fun j => coreFin (4 * d.val + j)
  let now := maxOf (cs.map fun c => (s.clk c).plan)
  match soon, nextDesc s with
  | true, some fd =>
    if s.obj 0xA00004 = 1 then max now (min s.grade.clockMax (s.obj 0xA03003))
    else max now (maxOf ((cs.filter s.usesCore).map fun c => planClock s c fd 0))
  | _, _ => now

/-- An AVSBus voltage command (19 R430). -/
def askVoltage (s : State) (d : DieId) (mv : Nat) : State :=
  (s.modPdie d fun x => { x with asked := some (mv, false) }).emit (.avs d.val d.val mv)

/-- The voltage planned for a die; a die in AVS fault retries. -/
def planVoltage (s : State) (d : DieId) (soon : Bool) : State :=
  let f := wantedClock s d soon
  let x := s.pdie d
  if f = 0 || x.asked.isSome then s
  else
    let mv := voltFor s d f
    if mv = x.voltage && !x.avsFault then s else askVoltage s d mv

/-- The limit of 420 W of a die and its Stratus (19 R431). -/
def stackLimit (s : State) (d : DieId) (mw : Nat) : State :=
  let overs := 420000 < mw
  let s1 := s.modPdie d fun x => { x with stackMw := mw, stackSteps := if overs then x.stackSteps + 1 else 0 }
  setLevelOn s1 d 70 overs (mw / 1000) 0

/-- CONTROLLER_STEP. -/
def execControllerStep (die : DieId) (dieMw stackMw : Nat) (cores : List Nat) (rest : Nat) (soon : Bool) (s : State) : Result :=
  let s1 := (s.setObj (kDie die 1) (wattsF32 dieMw)).setObj (kDie die 2) (wattsF32 stackMw)
  let s2 := stackLimit (countEnergy (applyBudget s1) die cores rest) die stackMw
  .next (refreshClocks (planVoltage s2 die soon) die)

/-- The highest clock of any core. -/
def topClock (s : State) : Nat := maxOf (s.power.clk.toList.map (·.now))

/-- The limit of R425: a 1 ms average more than 2% above the budget lowers the clocks, by an amount left open, until it no
longer is. -/
def budgetLimit (s : State) (mw : Nat) : State :=
  let overs := s.power.budget * 1020 < mw
  if overs then
    let r := s.draw
    let cap := 25 * (r.1 % max 1 (topClock s / 25))
    let s1 := { r.2 with power := { r.2.power with cap := some cap } }
    setLevel (s1.when s.power.cap.isNone fun t => t.bump 0xA30007) 321 true (mw / 1000) s.power.budget
  else setLevel { s with power := { s.power with cap := none } } 321 false 0 0

/-- The shares of the dies, which the controller predicts: at most 420 W each. -/
def setShares (s : State) : State :=
  s.each allDies fun t d => let r := t.draw; r.2.setObj (kDie d 3) (wattsF32 (r.1 % 420001))

/-- PACKAGE_STEP. -/
def execPackageStep (mw mj : Nat) (s : State) : Result :=
  let s1 := (s.setObj 0xA10001 (wattsF32 mw)).bumpBy 0xA10002 mj
  let s2 := s1.when (vLess (s1.obj 0xA10003) (wattsF32 mw)) fun t => t.setObj 0xA10003 (wattsF32 mw)
  .next (refreshAllClocks (budgetLimit (setShares (applyBudget s2)) mw))
where
  /-- Order of two FP32 numbers. -/
  vLess (a b : Nat) : Bool := (valOf (BitVec.ofNat 32 a)).lt (valOf (BitVec.ofNat 32 b))

/-- AVSBUS_COMMAND_DONE: a confirmed voltage, one repeat, or AVSBUS_ERROR (19 R430). -/
def execAvsbusCommandDone (die : DieId) (ok : Bool) (status : BitVec 32) (s : State) : Result :=
  .next (match (s.pdie die).asked with
    | none => s
    | some (mv, again) =>
      if ok then
        refreshClocks (s.modPdie die fun x => { x with voltage := mv, asked := none, avsFault := false }) die
      else if !again then
        (s.modPdie die fun x => { x with asked := some (mv, true) }).emit (.avs die.val die.val mv)
      else
        let s1 := (s.modPdie die fun x => { x with asked := none, avsFault := true }).bump 0xA30008
        refreshClocks (raiseOn s1 die 73 die.val status.toNat) die)

/-! ## Droops, alerts and dips (19 R432 to R434) -/

/-- DROOP_DETECT: a stretch is counted, and DROOP_ACTIVITY raised at most once per millisecond per die. -/
def execDroopDetect (die : DieId) (s : State) : Result :=
  let s1 := (s.bump 0xA30002).modPdie die fun x => { x with droops := x.droops + 1, throttled := true }
  let x := s1.pdie die
  let due := match x.droopAt with
    | none => true
    | some t => t + cyclesOfMs 1 ≤ s.now
  .next (s1.when due fun t =>
    (raiseOn t die 69 x.droops 0).modPdie die fun y => { y with droops := 0, droopAt := some s.now })

/-- While VDD_IO_3V3 has been below its warning level in the last millisecond, the alert inputs are ignored (21 R473). -/
def alertsIgnored (s : State) : Bool :=
  let g := s.power.groups[19]
  g.dipLow || (match g.upAt with
    | none => false
    | some t => s.now < t + cyclesOfMs 1)

/-- The clocks of a group's die brought up to date, for the groups of core rails. -/
def groupClocks (s : State) (g : Fin 20) : State := s.when (g.val < 8) fun t => refreshClocks t (dieFin g.val)

/-- VR_ALERT_FALL: the group's domain enters its lowest state; groups 18 and 19 have none. -/
def execVrAlertFall (group : Fin 20) (s : State) : Result :=
  .next (if alertsIgnored s then s
    else
      let held := s.power.groups[group].alertHeld
      let s1 := s.modGroup group fun g => { g with alertLow := true, alertHeld := group.val < 18 }
      groupClocks (s1.when (group.val < 18 && !held) fun t => t.bump 0xA30003) group)

/-- VR_ALERT_RISE: the countdown of VR_ALERT_HOLD begins. -/
def execVrAlertRise (group : Fin 20) (s : State) : Result :=
  .next (s.modGroup group fun g => { g with alertLow := false })

/-- VR_ALERT_HOLD_END: the lowest state ends; the controller restores its plan at its next step. -/
def execVrAlertHoldEnd (group : Fin 20) (s : State) : Result :=
  .next (s.modGroup group fun g => if g.alertLow then g else { g with alertHeld := false })

/-- The die whose BROWNOUT a group raises: that of its rail, or die 0. -/
def groupDie (g : Fin 20) : DieId := if g.val < 16 then dieFin g.val else dieFin 0

/-- BROWNOUT of a dip that has ended (19 Table 19.5). -/
def reportDip (s : State) (g : Fin 20) : State :=
  let x := s.power.groups[g]
  raiseOn (s.bump 0xA30004) (groupDie g) 71 (g.val + x.dipMv % 65536 * 65536) x.dipUs

/-- BROWNOUT_DIP: the group's domain enters its lowest state. A dip during the hold of an earlier one reports that one. -/
def execBrownoutDip (group : Fin 20) (mv : Nat) (s : State) : Result :=
  let x := s.power.groups[group]
  .next (if x.dipLow then s.modGroup group fun g => { g with dipMv := min g.dipMv mv }
    else
      let s1 := s.when x.dipHeld fun t => reportDip t group
      groupClocks (s1.modGroup group fun g => { g with dipLow := true, dipHeld := true, dipMv := mv, dipAt := s.now }) group)

/-- RAIL_ABOVE_WARNING_LEVEL: the countdown of BROWNOUT_HOLD begins. -/
def execRailAboveWarningLevel (group : Fin 20) (mv us : Nat) (s : State) : Result :=
  .next (s.modGroup group fun g =>
    if g.dipLow then { g with dipLow := false, dipMv := min g.dipMv mv, dipUs := us, upAt := some s.now } else g)

/-- BROWNOUT_HOLD_END: the lowest state ends and BROWNOUT is raised. -/
def execBrownoutHoldEnd (group : Fin 20) (s : State) : Result :=
  let x := s.power.groups[group]
  .next (if x.dipHeld && !x.dipLow then
      (reportDip s group).modGroup group fun g => { g with dipHeld := false }
    else s)

/-! ## Sensors (19 R436 to R441) -/

/-- Is a sensor of a die privileged. -/
def privileged (d : DieId) (k : Nat) : Bool := k == 31 && (d.val == 1 || d.val == 2 || d.val == 5 || d.val == 6)

/-- The value that stands for a sensor (19 R437). -/
def sensorValue (d : DieId) (k : Nat) (x : Sensor) : Int :=
  if !x.suspect then x.reading else if privileged d k then max x.reading x.estimate else x.estimate

/-- The sensors of a die with their values. -/
def dieTemps (s : State) (d : DieId) : List (Int × Nat) :=
  (s.pdie d).sensors.toList.zipIdx.map fun p => (sensorValue d p.2 p.1, p.2)

/-- The hottest sensor of a die: its value and number, the lowest number among equals. -/
def hottest (s : State) (d : DieId) : Int × Nat :=
  (dieTemps s d).foldl (fun acc p => if acc.1 < p.1 then p else acc) ((dieTemps s d).headD (0, 0))

/-- Does any sensor of the package stand above THROTTLE_TEMP (19 R440). -/
def tooHot (s : State) : Bool := allDies.any fun d => (8 * s.obj 0xA01001 : Int) < (hottest s d).1

/-- The orderly stop of R440. DESIGN CHOICE (notes/assumptions/156.md): 01 R21 has a critical-temperature stop halt work at
a frame boundary, R440 has the package stop its own cores at once as 03 R71 states; the model stops them at once. -/
def thermalStop (s : State) (d : DieId) (sensor : Nat) (reading : Int) : State :=
  let n := 512 * d.val + 65
  let s1 := stopRequest (raise s n sensor (detail32 reading)) n
  let s2 := { s1 with power := { s1.power with halted := s1.power.halted || s1.hasImage } }
  stopImage s2 s2.tick.count n

/-- A die that reaches CRIT_TEMP stops the package. -/
def checkCritical (s : State) (d : DieId) : State :=
  let h := hottest s d
  let hot := (8 * 110 : Int) ≤ h.1
  let was := (s.pdie d).crit
  (s.modPdie d fun x => { x with crit := hot }).when (hot && !was) fun t => thermalStop t d h.2 h.1

/-- SENSOR_READ. -/
def execSensorRead (die : DieId) (readings : List Int) (stack : Option (Int × Bool)) (s : State) : Result :=
  let s1 := s.modPdie die fun x => { x with
    sensors := Vector.ofFn fun k => { x.sensors[k] with reading := readings.getD k.val x.sensors[k].reading } }
  let s2 := match stack with
    | none => s1
    | some (t, hot) =>
      setLevelOn ((s1.modPdie die fun x => { x with hbmTemp := t }).setObj (kDie die 4) (celsiusF32 t)) die 9 hot (t / 8).toNat 0
  .next (checkCritical s2 die)

/-- One sensor's check against its estimate (19 R437). -/
def checkSensor (est : Int) (x : Sensor) : Sensor :=
  let diff := (x.reading - est).natAbs
  let off := if 64 < diff then x.off + 1 else 0
  let agree := if diff ≤ 32 then x.agree + 1 else 0
  if !x.suspect then { x with estimate := est, off := off, agree := 0, suspect := 4 ≤ off }
  else { x with estimate := est, off := off, agree := if 1000 ≤ agree then 0 else agree, suspect := agree < 1000 }

/-- What a sensor's change of suspicion reports. -/
def reportSensor (d : DieId) (s : State) (p : (Sensor × Sensor) × Nat) : State :=
  let a := p.1.1
  let b := p.1.2
  if !a.suspect && b.suspect then
    raiseOn (s.bump 0xA30005) d 67 p.2 (detail32 (b.reading - b.estimate))
  else if a.suspect && !b.suspect then
    raiseOn (s.setObj 0xA30005 (s.obj 0xA30005 - 1)) d 68 p.2 0
  else s

/-- SENSOR_CHECK. -/
def execSensorCheck (die : DieId) (estimates : List Int) (s : State) : Result :=
  let old := (s.pdie die).sensors
  let new := Vector.ofFn fun k => checkSensor (estimates.getD k.val old[k].estimate) old[k]
  let s1 := s.modPdie die fun x => { x with sensors := new }
  .next ((old.toList.zip new.toList).zipIdx.foldl (reportSensor die) s1)

/-- The steps of a thermal limit after a check: one more while hot, none once cool. -/
def thermalSteps (steps : Nat) (value limit : Int) : Nat :=
  if limit < value then steps + 1 else if value < limit - 24 then 0 else steps

/-- THERMAL_THROTTLE_STEP (19 R438). -/
def execThermalThrottleStep (die : DieId) (s : State) : Result :=
  let x := s.pdie die
  let h := hottest s die
  let t := thermalSteps x.thermal h.1 (8 * s.obj 0xA01001)
  let m := thermalSteps x.hbm x.hbmTemp (8 * s.obj 0xA01004)
  let s1 := s.modPdie die fun y => { y with thermal := t, hbm := m }
  let s2 := s1.when (t != 0 || m != 0) fun z => z.bump 0xA30001
  let s3 := setLevelOn s2 die 64 (t != 0) h.2 (detail32 h.1)
  .next (refreshClocks (setLevelOn s3 die 72 (m != 0) (x.hbmTemp / 8).toNat 0) die)

/-! ## Remote channels (19 R439) -/

/-- The object `sub` of remote channel n. -/
def kRemote (n : Fin 8) (sub : Nat) : Nat := objKey (0xA020 + n.val) sub

/-- A remote channel changed. -/
def State.modRemote (s : State) (n : Fin 8) (f : Remote → Remote) : State :=
  { s with power := { s.power with remote := vmod s.power.remote n f } }

/-- A conversion that left compliance: discarded. -/
def remoteFault (s : State) (n : Fin 8) (kind : Nat) : State :=
  raise ((s.setObj (kRemote n 9) kind).bump 0xA30006) 324 n.val kind

/-- A good reading of a channel. -/
def remoteReading (s : State) (n : Fin 8) (t : Int) : State :=
  let warn := 8 * sgn 16 (s.obj (kRemote n 5)) < t
  let crit := 8 * sgn 16 (s.obj (kRemote n 6)) < t
  let was := s.power.remote[n].crit
  let s1 := ((s.setObj (kRemote n 9) 0).setObj (kRemote n 8) (celsiusF32 t)).modRemote n fun _ => ⟨warn, crit⟩
  let s2 := setLevel s1 322 (s1.power.remote.toList.any (·.warn)) n.val (detail32 t)
  s2.when (crit && !was) fun x =>
    (raise x 323 n.val (detail32 t)).when (s.obj (kRemote n 7) == 1) fun y => thermalStop y (dieFin 0) (64 + n.val) t

/-- REMOTE_CONVERSION: a channel that is off has no reading. -/
def execRemoteConversion (channel : Fin 8) (result : RemoteResult) (s : State) : Result :=
  .next (if s.obj (kRemote channel 1) = 0 then
      let s1 := (s.setObj (kRemote channel 9) 3).modRemote channel fun _ => ⟨false, false⟩
      s1.when (!s1.power.remote.toList.any (·.warn)) fun t => setLevel t 322 false 0 0
    else match result with
      | .good t => remoteReading s channel t
      | .opened => remoteFault s channel 1
      | .shorted => remoteFault s channel 2)

/-! ## The trip (19 R441) -/

/-- Every port's link is gone with its clock. -/
def portsDown (s : State) : State :=
  s.each allPorts fun t p => t.modPort p fun x => { Port.reset with trim := x.trim, fec := x.fec, tickEn := x.tickEn }

/-- All work ends: cores, units and the run hold nothing any more. -/
def endWork (s : State) : State :=
  { s with cores := Vector.replicate 32 CoreState.reset, units := Vector.replicate 8 DieUnits.reset, cirrusOn := []
           run := Run.reset, faulted := none }

/-- THERMAL_TRIP: a privileged comparator trips. -/
def execThermalTrip (die : DieId) (reading : Int) (s : State) : Result :=
  .next (if !privileged die 31 || s.power.tripped then s
    else
      let s1 := raiseOn (s.emit (.pin 1 false)) die 66 31 (detail32 reading)
      portsDown (endWork { s1 with power := { s1.power with tripped := true } }))

/-! ## Ageing (19 R443, R444) -/

/-- The guard band of a delay growth in 0.001%: 9 mV for each 1%, rounded up. -/
def guardBandOf (growth : Nat) : Nat := cdiv (9 * growth) 1000

/-- The least margin of any die, and that die (19 R444). -/
def leastMargin (s : State) (guards : List Nat) : Int × Nat :=
  let m (d : Nat) : Int := (880 : Int) - (Config.fusedMv d s.grade.clockMax + guards.getD d 0 : Nat)
  (List.range 8).foldl (fun acc d => if m d < acc.1 then (m d, d) else acc) (m 0, 0)

/-- HOURS_TO_EOL: where the least-squares line through a die's guard bands meets the guard band that leaves no margin. -/
def hoursToEol (rs : List Replan) (d : Nat) (zero : Int) (hour : Nat) : Nat :=
  let xs : List Int := rs.map fun r => (r.hour : Int)
  let ys : List Int := rs.map fun r => (r.guards.getD d 0 : Int)
  let n : Int := rs.length
  let sx := xs.foldl (· + ·) 0
  let sy := ys.foldl (· + ·) 0
  let sxy := (xs.zip ys).foldl (fun a p => a + p.1 * p.2) 0
  let sxx := xs.foldl (fun a x => a + x * x) 0
  let num := n * sxy - sx * sy
  let den := n * sxx - sx * sx
  if rs.length < 2 || num ≤ 0 || den ≤ 0 then 0xFFFFFFFF
  else
    -- the line is (sy + num / den * (n x - sx)) / n; solve for the guard band `zero`
    let at0 := ((zero * n - sy) * den + sx * num) / (num * n)
    min (at0 - hour).toNat 0xFFFFFFFE

/-- A health record written to the flash: guard bands and failure counts (16 R371). -/
def writeHealth (s : State) : State :=
  { s with life := { s.life with health := some (
      [s.obj 0xC21001, s.obj 0xC30004, s.obj 0xC21002] ++ (s.power.replans.headD ⟨0, s.power.guard.toList⟩).guards ++ s.power.growth
      , s.life.fails) } }

/-- A re-plan of the guard bands: they only grow, and take effect at the next controller step. -/
def replan (s : State) (growth : List Nat) : State :=
  let hour := s.obj 0xC21001
  let guards := (List.range 8).map fun d =>
    let g := maxOf ((List.range 4).map fun j => growth.getD (4 * d + j) 0)
    max (guardBandOf g) (max (s.power.guard.toList.getD d 0) (((s.power.replans.head?).map (·.guards.getD d 0)).getD 0))
  let rs := (⟨hour, guards⟩ :: s.power.replans).take 8
  let m := leastMargin s guards
  let s1 := { s with power := { s.power with replans := rs, growth := growth } }
  let s2 := ((s1.setObj 0xC30004 hour).setObj 0xC30002 (unsgn 16 m.1)).setObj 0xC30003
    (hoursToEol rs m.2 ((880 : Int) - (Config.fusedMv m.2 s.grade.clockMax : Nat)) hour)
  writeHealth (s2.each allDies fun t d => raiseOn t d 74 (guards.getD d.val 0) hour)

/-- AGEING_REPLAN. -/
def execAgeingReplan (growth : List Nat) (s : State) : Result := .next (replan s growth)

end Sys2Proof.Machine
end

