-- ==== Sys2Proof/Machine/Images.lean ====
section
/-!
DEFINITION. Machine/Images.lean: images: their checks and admission (02 R31 to R36, 03 R52, 08 R161, 09 R190, 18 R409), loading,
starting, resuming and unloading (02 R28, 03 R47, R73, 15 R343).
-/
namespace Sys2Proof.Machine

/-- The outcome of a check: the reason of 02 Table 2.5 with the descriptor, unit, demand and budget that R35 reports. -/
structure Verdict where
  reason : Nat
  desc : Nat
  unit : Nat
  demand : Nat
  budget : Nat
  deriving DecidableEq, Repr

/-- A reason that concerns no frame descriptor (02 R35). -/
def plainVerdict (reason : Nat) : Verdict := ⟨reason, 0xFFFFFFFF, 0, 0, 0⟩

/-- ADMITTED. -/
def admitted : Verdict := plainVerdict 0

/-- A number as 32 bits report it. -/
def sat32 (n : Nat) : Nat := min n 0xFFFFFFFF

/-- The first failing check of a list. -/
def firstFailing (l : List (Bool × Verdict)) : Option Verdict := (l.find? fun p => !p.1).map (·.2)

/-! ## The image's format (02 R31 to R33) -/

/-- Bytes of a frame descriptor. -/
def frameBytes (cores : Nat) : Nat := 768 + 32 * cores

/-- Does a table of `n` bytes at `off` lie in the image. -/
def insideImage (bs : List Byte) (off n : Nat) : Bool := off + n ≤ bs.length

/-- The header is well formed (02 R31). -/
def headerOk (bs : List Byte) : Bool :=
  leAt bs 0 4 == 0x53564D4B && leAt bs 4 2 == 0x0100 && leAt bs 6 2 == 128 && leAt bs 8 8 == bs.length
    && crc32 (bs.take 0x1C ++ List.replicate 4 0#8 ++ bs.drop 0x20) == leAt bs 0x1C 4
    && leAt bs 0x15 1 < 2 && leAt bs 0x16 2 == 0 && leAt bs 0x18 4 < 16 && leAt bs 0x44 4 == 0
    && allZero (bytesAt bs 0x58 40)
    && 1 ≤ leAt bs 0x10 2 && leAt bs 0x10 2 ≤ 32 && 1 ≤ leAt bs 0x12 2 && leAt bs 0x12 2 ≤ 256
    && 1 ≤ leAt bs 0x14 1 && leAt bs 0x14 1 ≤ 4 && 1 ≤ leAt bs 0x40 4 && leAt bs 0x40 4 ≤ 4096
    && insideImage bs (leAt bs 0x20 8) (32 * leAt bs 0x28 4)
    && insideImage bs (leAt bs 0x30 8) (frameBytes (leAt bs 0x10 2) * leAt bs 0x2C 4)
    && insideImage bs (leAt bs 0x38 8) (16 * leAt bs 0x40 4)
    && insideImage bs (leAt bs 0x48 8) (leAt bs 0x50 8)

/-- The place of frame descriptor `k`. -/
def frameOff (bs : List Byte) (k : Nat) : Nat := leAt bs 0x30 8 + frameBytes (leAt bs 0x10 2) * k

/-- A frame descriptor is well formed (02 R33). -/
def frameOk (bs : List Byte) (k : Nat) : Bool :=
  let o := frameOff bs k
  let n := leAt bs 0x10 2
  leAt bs o 4 == frameBytes n && leAt bs (o + 5) 1 < 4 && leAt bs (o + 6) 2 == n && allZero (bytesAt bs (o + 8) 56)
    && (List.range n).all (fun c => leAt bs (o + 64 + 32 * c + 0x1C) 4 == 0)
    && (List.range 8).all (fun d => leAt bs (o + 64 + 32 * n + 64 * d + 0x38) 8 == 0)

/-- The frame descriptor at a place (02 Table 2.4). -/
def frameAt (bs : List Byte) (n k : Nat) : FrameDesc :=
  let o := frameOff bs k
  let fl := leAt bs (o + 5) 1
  { tag := leAt bs (o + 4) 1, decisionWait := bitAt fl 0, update := bitAt fl 1
    cores := (List.range n).map fun c =>
      (let a := o + 64 + 32 * c
       ⟨leAt bs a 4, leAt bs (a + 4) 4, leAt bs (a + 8) 4, leAt bs (a + 0xC) 4, leAt bs (a + 0x10) 4, leAt bs (a + 0x14) 4,
         leAt bs (a + 0x18) 4⟩)
    dies := (List.range 8).map fun d =>
      (let a := o + 64 + 32 * n + 64 * d
       ⟨leAt bs a 8, leAt bs (a + 8) 8, leAt bs (a + 0x10) 8, leAt bs (a + 0x18) 8, leAt bs (a + 0x20) 8, leAt bs (a + 0x28) 8,
         leAt bs (a + 0x30) 4, leAt bs (a + 0x34) 4⟩)
    ports := (List.range 24).map fun p => leAt bs (o + 64 + 32 * n + 512 + 8 * p) 8 }

/-- The place of schedule entry `k`. -/
def schedOff (bs : List Byte) (k : Nat) : Nat := leAt bs 0x38 8 + 16 * k

/-- A schedule entry keeps the rules of 02 R32. -/
def schedOk (bs : List Byte) (k : Nat) : Bool :=
  let o := schedOff bs k
  let first := leAt bs o 4
  let count := leAt bs (o + 4) 4
  1 ≤ count && first + count ≤ leAt bs 0x2C 4 && (leAt bs (o + 8) 4 != 0 || k + 1 == leAt bs 0x40 4)
    && leAt bs (o + 0xC) 1 < 2 && leAt bs (o + 0xD) 3 == 0 && (leAt bs (o + 0xC) 1 == 0 || bitAt (leAt bs 0x15 1) 0)

/-- The schedule entry (02 Table 2.3). -/
def schedAt (bs : List Byte) (k : Nat) : SchedEntry :=
  let o := schedOff bs k
  ⟨leAt bs o 4, leAt bs (o + 4) 4, leAt bs (o + 8) 4, leAt bs (o + 0xC) 1 == 1⟩

/-- The place of segment table entry `k`. -/
def segOff (bs : List Byte) (k : Nat) : Nat := leAt bs 0x20 8 + 32 * k

/-- A segment table entry (03 Table 3.3). -/
def segAt (bs : List Byte) (k : Nat) : Seg :=
  let o := segOff bs k
  ⟨leAt bs o 8, leAt bs (o + 8) 8, leAt bs (o + 0x10) 1, leAt bs (o + 0x11) 1, leAt bs (o + 0x12) 1, leAt bs (o + 0x14) 4,
    leAt bs (o + 0x18) 8⟩

/-- Are header, descriptors and schedule valid. -/
def formatOk (bs : List Byte) : Bool :=
  headerOk bs && (List.range (leAt bs 0x2C 4)).all (frameOk bs) && (List.range (leAt bs 0x40 4)).all (schedOk bs)

/-- The image that well-formed bytes hold. -/
def imageOf (bs : List Byte) : Image where
  cores := leAt bs 0x10 2
  group := leAt bs 0x12 2
  latency := leAt bs 0x14 1
  training := bitAt (leAt bs 0x15 1) 0
  licences := leAt bs 0x18 4
  imageBytes := leAt bs 8 8
  codeBytes := leAt bs 0x50 8
  segs := (List.range (leAt bs 0x28 4)).map (segAt bs)
  frames := (List.range (leAt bs 0x2C 4)).map (frameAt bs (leAt bs 0x10 2))
  sched := (List.range (leAt bs 0x40 4)).map (schedAt bs)

/-! ## Segments (03 R52, 08 R159, R161, 09 R190) -/

/-- The start of a die's host reserve, as a die offset (08 R161). -/
def reserveStart (s : State) : Nat := (8192 - s.obj 0x211004) * 2 ^ 20

/-- Does a Stratus range reach into the reserve of some die, whose reserve starts at die offset `start`. -/
def meetsReserve (start : Nat) (g : Seg) : Bool :=
  allDies.any fun d => g.base < d.val * 2 ^ 33 + 2 ^ 33 && d.val * 2 ^ 33 + start < g.base + g.bytes && start < 2 ^ 33

/-- The range of a segment lies in the memory its kind names. -/
def segRangeOk (s : State) (g : Seg) : Bool :=
  match g.kind with
  | 1 => g.base + g.bytes ≤ 2 ^ 24
  | 3 => 0x010000000000 ≤ g.base && g.base + g.bytes ≤ 0x018000000000 && inOneRegion s g.base g.bytes
  | 2 => g.base + g.bytes ≤ 0x001000000000 && inOneRegion s g.base g.bytes && !meetsReserve (reserveStart s) g
  | _ => g.base + g.bytes ≤ 0x001000000000 && !meetsReserve (reserveStart s) g

/-- One entry alone. -/
def segEntryOk (s : State) (bs : List Byte) (n k : Nat) : Bool :=
  let g := segAt bs k
  g.kind ≤ 3 && leAt bs (segOff bs k + 0x13) 1 == 0 && g.access < 4 && 1 ≤ g.bytes && g.initBytes ≤ g.bytes
    && (if g.kind = 1 then g.core < n else g.core == 0xFF) && (g.kind != 0 || !bitAt g.access 1)
    && (g.initBytes == 0 || insideImage bs g.initOffset g.initBytes) && segRangeOk s g

/-- Two segments in one memory that share a byte, one of them writable. -/
def segsClash (a b : Seg) : Bool :=
  (a.kind == 1) == (b.kind == 1) && (a.kind != 1 || a.core == b.core) && a.base < b.base + b.bytes && b.base < a.base + a.bytes
    && (bitAt a.access 1 || bitAt b.access 1)

/-- No two segments of a list clash. -/
def noClash : List Seg → Bool
  | [] => true
  | g :: gs => gs.all (fun h => !segsClash g h) && noClash gs

/-- The CODE segments in a die's Stratus. -/
def codeSegs (img : Image) (d : DieId) : List Seg := img.segs.filter fun g => g.kind == 0 && g.base / 2 ^ 33 == d.val

/-- Each die that hosts a used core has exactly one CODE segment, and no die more. -/
def codeSegsOk (img : Image) : Bool :=
  allDies.all fun d =>
    let l := codeSegs img d
    l.length ≤ 1 && (img.cores ≤ 4 * d.val || l.length == 1)
      && l.all fun g => img.codeBytes ≤ g.bytes && g.base + g.bytes ≤ (d.val + 1) * 2 ^ 33

/-- Is the segment table valid. -/
def segmentsOk (s : State) (bs : List Byte) : Bool :=
  leAt bs 0x28 4 ≤ 256 && (List.range (leAt bs 0x28 4)).all (segEntryOk s bs (leAt bs 0x10 2))
    && noClash (imageOf bs).segs && codeSegsOk (imageOf bs)

/-! ## Admission (02 R34, R35) -/

/-- An absent core asks for nothing (18 R409). -/
def absentOk (img : Image) (c : Nat) : Bool :=
  img.frames.all (fun f => match f.cores[c]? with
    | some r => r.crit == 0 && r.engine == 0 && r.vector == 0 && r.purl == 0 && r.cirrus == 0 && r.scratch == 0
    | none => true) && img.segs.all fun g => g.kind != 1 || g.core != c

/-- Can the grade's cores serve the image. -/
def coresOk (s : State) (img : Image) : Bool :=
  allCores.all fun c => img.cores ≤ c.val || s.present c || absentOk img c.val

/-- The configured sharding group (02 Table 2.5). -/
def shardGroup (s : State) : Nat :=
  [0, 1, 2, 3].foldl (fun acc k => if stageEn s 0 k && !stageLocal s 0 k then acc * fld (s.stageReg 0 k) 32 7 else acc) 1

/-- Do the ticks match the base period (02 R24, R25). -/
def ticksMatch (s : State) : Bool :=
  let base := s.obj kBasePeriod
  !s.tick.conflict && (match s.obj kTickMode with
    | 1 => s.tick.markerBase == some base
    | 3 => 16 ≤ s.tick.edgesSeen && (s.tick.edges.take 15).all fun g => base ≤ g + 100
    | _ => true)

/-- A term of R34 as a time of num / den ns against B: the demand rounded up and the budget rounded down. -/
def timeCheck (s : State) (reason desc unit num den : Nat) : Bool × Verdict :=
  let b := s.obj kBasePeriod * (10000 - s.obj 0x211001)
  (den != 0 && num * 10000 ≤ den * b, ⟨reason, desc, unit, sat32 (cdiv num den), sat32 (b / 10000)⟩)

/-- A capacity limit of R34. -/
def capCheck (reason desc unit demand limit : Nat) : Bool × Verdict :=
  (demand ≤ limit, ⟨reason, desc, unit, sat32 demand, sat32 limit⟩)

/-- The terms of a die: HBM, Stratus, bridge, collectives engine, Skein and Cirrus. -/
def dieChecks (s : State) (desc : Nat) (x : DieDemand) (d : Nat) : List (Bool × Verdict) :=
  [timeCheck s 0x14 desc d (x.hbm * 10000) (2050 * (9900 - s.obj 0x211002)), timeCheck s 0x14 desc d x.stratus 31680,
   timeCheck s 0x14 desc d x.bridge 4000, timeCheck s 0x15 desc d x.coll 3200, timeCheck s 0x15 desc d x.exch 1600,
   timeCheck s 0x15 desc d x.cirrus 3200]

/-- The checks of one frame descriptor, in order: capacity, cores, dies, ports. -/
def frameChecks (s : State) (f : FrameDesc) (desc : Nat) : List (Bool × Verdict) :=
  (f.cores.zipIdx.map fun p => capCheck 0x10 desc p.2 p.1.scratch 16777216)
    ++ (f.dies.zipIdx.map fun p => [capCheck 0x11 desc p.2 p.1.stratusMib (8192 - s.obj 0x211004),
        capCheck 0x12 desc p.2 p.1.hbmMib 65536]).flatten
    ++ (f.cores.zipIdx.map fun p =>
        timeCheck s 0x13 desc p.2 ((max (max p.1.crit p.1.engine) (max p.1.vector p.1.purl) + p.1.cirrus) * 1000) (s.obj 0xA03001))
    ++ (f.dies.zipIdx.map fun p => dieChecks s desc p.1 p.2).flatten
    ++ f.ports.zipIdx.map fun p => timeCheck s 0x16 desc p.2 (p.1 * 100) (10000 - s.obj 0x211005)

/-- The reserve of Stratus against the segments of a loaded image (08 R161). -/
def reserveCheck (s : State) (img : Image) : List (Bool × Verdict) :=
  let r := s.obj 0x211004
  allDies.map fun d =>
    let ends := (img.segs.filter fun g => (g.kind == 0 || g.kind == 2) && g.base / 2 ^ 33 == d.val).map
      fun g => g.base + g.bytes - d.val * 2 ^ 33
    let top := maxOf ends
    (r == 0 || top ≤ (8192 - r) * 2 ^ 20, ⟨0x11, 0xFFFFFFFF, d.val, r, 8192 - cdiv top (2 ^ 20)⟩)

/-- The checks of an image beyond its format and segments, in the order of 02 Table 2.5. -/
def admission (s : State) (img : Image) (ready : Bool) (start : Option Nat) : Verdict :=
  (firstFailing ([(coresOk s img, plainVerdict 3), (img.licences &&& s.features == img.licences, plainVerdict 4),
      (img.group == shardGroup s && img.group ≤ s.maxGroup, plainVerdict 5),
      (img.latency == s.obj kFlagLatency, plainVerdict 6), (ticksMatch s, plainVerdict 7), (ready, plainVerdict 8),
      ((start.map fun t => decide (s.tick.count < t)).getD true, plainVerdict 9)] ++ reserveCheck s img
    ++ (img.frames.zipIdx.map fun p => frameChecks s p.1 p.2).flatten)).getD admitted

/-- All the checks that LOAD_IMAGE makes of the bytes it read (02 R35, 15 R343). -/
def admitBytes (s : State) (bs : List Byte) : Verdict :=
  if !formatOk bs then plainVerdict 1
  else if !segmentsOk s bs then plainVerdict 2
  else admission s (imageOf bs) (s.obj kDeviceState == stOperational && !s.hasImage) none

/-- The admission objects of the last check (02 Table 2.7). -/
def setVerdict (s : State) (v : Verdict) : State :=
  ((((s.setObj 0x213001 v.reason).setObj 0x213002 v.desc).setObj 0x213003 v.unit).setObj 0x213004 v.demand).setObj
    0x213005 v.budget

/-! ## Loading and starting -/

/-- Every KEEP line of a die returns to NORMAL (08 R171). -/
def demoteDie (s : State) (d : DieId) : State :=
  s.modDie d fun m => { m with cache := m.cache.map fun p =>
    (p.1, p.2.map fun l => if l.hint = .keep then { l with hint := .normal } else l) }

/-- The code and a segment's initial contents copied into place (03 R52). -/
def placeSegs (s : State) (img : Image) (bs : List Byte) : State :=
  let code := bytesAt bs (leAt bs 0x48 8) img.codeBytes
  let s1 := s.each (img.segs.filter fun g => g.kind == 0 && 4 * (g.base / 2 ^ 33) < img.cores) fun t g =>
    memStore t g.base code none
  s1.each (img.segs.filter fun g => g.initBytes != 0) fun t g =>
    let part := bytesAt bs g.initOffset g.initBytes
    if g.kind = 1 then scratchStore t (coreFin g.core) g.base part
    else memStore t g.base part (if g.kind = 3 then some .normal else none)

/-- An admitted image is loaded: its used cores wait for its first frame. -/
def loadImage (s : State) (bs : List Byte) : State :=
  let img := imageOf bs
  let s1 := placeSegs (clearPhases (s.each allDies demoteDie)) img bs
  let s2 := { s1 with run := { Run.reset with
                image := some img, imported := s.run.imported, scales := s.run.scales, decided := s.run.decided
                frame := s.run.frame, contrib := s.run.contrib }
                      mgmt := { s1.mgmt with imageBytes := bs } }
  s2.each s2.runCores fun t c => t.modCore c fun x => { x with st := .waiting, lines := [], badLines := [] }

/-- A core as an image starts (03 R47). -/
def startedCore (x : CoreState) : CoreState :=
  { CoreState.reset with
    st := .waiting, frame := x.frame, step := x.step, sum := x.sum, nf := x.nf, badLines := x.badLines, lines := x.lines
    fenced := x.fenced, sumDev := x.sumDev, bufWord := x.bufWord, bufDev := x.bufDev, icWord := x.icWord, icDev := x.icDev }

/-- The loaded image is armed at START_TICK and START_STEP (02 R28, R29, 13 R291, R292). The registers, queues and banks of
every core start anew; a core that the image does not use stays idle (03 R47, R58). -/
def armImage (s : State) (tick step : Nat) : State :=
  let s1 := s.when (!s.run.imported) fun t => (t.setObj kScale (t.obj 0x270002)).setObj 0x670002 0
  let s2 := { s1 with run := { Run.reset with
    image := s1.run.image, phase := .armed, startTick := tick, startStep := step, next := tick, step := step
    frame := s1.run.frame, contrib := s1.run.contrib
    scales := kvSet 25 (s1.run.scales.filter fun p => p.1 < step) step (s1.obj kScale)
    decided := s1.run.decided } }
  s2.each allCores fun t c => t.modCore c fun x =>
    if s2.runCores.contains c then startedCore x else { startedCore x with st := x.st, trap := x.trap }

/-! ## Resuming and unloading (03 R73) -/

/-- May the stopped image resume at a tick. -/
def resumable (s : State) (tick : Nat) : Bool :=
  s.run.phase == .stopped && s.runCores.all (fun c => (s.core c).st == .stopped) && s.tick.count < tick && !tooHot s

/-- The stopped image runs on from RESUME_TICK. -/
def resumeImage (s : State) (tick : Nat) : State :=
  let s1 := { s with run := { s.run with
                phase := if s.run.cursor == Cursor.mk 0 0 0 then .armed else .running
                next := tick, stopTick := none, stopCause := 0 }
                     power := { s.power with halted := false } }
  let s2 := s1.each s1.runCores fun t c => t.modCore c fun x => { x with st := .waiting, trap := .empty }
  refreshAllClocks (s2.when (s2.obj kDeviceState == stStopped) fun t => setDeviceState t stOperational 0)

/-- The units of a die with nothing in progress but the work on commit records, which a stop does not end (14 R332). -/
def idleUnits (u : DieUnits) : DieUnits :=
  { u with coll := { u.coll with runs := [], inbox := [] }, skein := { u.skein with runs := [] }
           cirrus := { u.cirrus with upds := [] } }

/-- May the loaded image be discarded: no core runs it (15 R343, Table 15.6). -/
def unloadable (s : State) : Bool :=
  match s.run.phase with
  | .loaded | .ended => true
  | .stopped => allHalted s
  | _ => false

/-- The loaded image is discarded: trap records are cleared and every core is IDLE. -/
def unloadImage (s : State) : State :=
  let s1 := { s with run := { Run.reset with
                       imported := s.run.imported, scales := s.run.scales, decided := s.run.decided
                       frame := s.run.frame, contrib := s.run.contrib }
                     units := s.units.map idleUnits
                     mgmt := { s.mgmt with imageBytes := [] }, power := { s.power with halted := false } }
  let s2 := s1.each allDies fun t d => t.modDie d fun m => { m with bulk := Vector.replicate 8 none }
  let s3 := s2.each allCores fun t c => t.modCore c fun x =>
    { x with st := .idle, trap := .empty, trapPend := none, drain := 0, stall := .none, fend := false, completed := false
             queues := Vector.replicate 10 [], hand := [] }
  refreshAllClocks (clearFloors (s3.when (s3.obj kDeviceState == stStopped) fun t => setDeviceState t stOperational 0))

end Sys2Proof.Machine
end

