-- ==== Sys2Proof/Machine/Host.lean ====
section
/-!
DEFINITION. Machine/Host.lean: the host interface: queues and their completions, the image commands, copies, doorbells,
event rings, the memory window and vectors (15 R336 to R350).
-/
namespace Sys2Proof.Machine

/-! ## Queues -/

/-- A queue changed. -/
def modQueue (s : State) (q : Fin 64) (f : HostQueue → HostQueue) : State :=
  { s with host := { s.host with queues := vmod s.host.queues q f } }

/-- A queue. -/
def State.queue (s : State) (q : Fin 64) : HostQueue := s.host.queues[q]

/-- The index of a queue, from a number reduced modulo 64. -/
def queueFin (q : Nat) : Fin 64 := ⟨q % 64, Nat.mod_lt _ (by decide)⟩

/-- Opcodes of the commands that change or read image state (15 R342). -/
def imageOps : List Nat := [0x10, 0x11, 0x12, 0x13, 0x14, 0x20, 0x21]

/-- The opcodes assigned (15 Table 15.4). -/
def hostOps : List Nat := [0x00, 0x01, 0x02] ++ imageOps

/-- The operands that a command uses: A, B, C, D. -/
def opUses (op : Nat) : List Bool :=
  match op with
  | 0x01 => [true, true, true, true]
  | 0x02 => [true, true, true, true]
  | 0x10 => [true, false, true, false]
  | 0x11 => [true, true, false, false]
  | 0x13 => [true, false, false, false]
  | 0x20 => [true, true, true, true]
  | 0x21 => [true, true, true, true]
  | _ => [false, false, false, false]

/-- The command that 64 bytes hold (15 Table 15.4). -/
def hostCmdOf (b : List Byte) : HostCmd :=
  ⟨leAt b 0 1, leAt b 1 1, leAt b 2 2, leAt b 8 8, leAt b 0x10 8, leAt b 0x18 8, leAt b 0x20 8, [], false, false⟩

/-- The fields that a command does not use are zero (15 R343). -/
def unusedZero (c : HostCmd) : Bool :=
  (List.zip (opUses c.op) [c.a, c.b, c.c, c.d]).all (fun p => p.1 || p.2 == 0)
    && if c.op = 0x20 then c.flags < 16 else c.flags == 0

/-- A completion entry (15 Table 15.5), and the queue ready for its next command. -/
def complete (s : State) (q : Fin 64) (status a b c : Nat) : State :=
  let x := s.queue q
  match x.cmd with
  | none => s
  | some cmd =>
    let size := 2 ^ x.size
    let bs := leBytes 2 cmd.id ++ leBytes 1 q.val ++ leBytes 1 status ++ leBytes 4 x.sqHead ++ leBytes 8 a ++ leBytes 8 b
      ++ leBytes 4 c ++ leBytes 3 0 ++ leBytes 1 x.phase.toNat
    let w := (x.cqWrite + 1) % size
    let s1 := (modQueue s q fun y => { y with
      cmd := none, cqWrite := w, cqUsed := y.cqUsed + 1, phase := if w = 0 then !y.phase else y.phase }).emit
        (.hostWrite (x.cqBase + 32 * x.cqWrite) bs false)
    let s2 := { s1 with host := { s1.host with order := s1.host.order.filter (· != q.val) } }
    (s2.bump 0x690001).when x.irqEn fun t => signalVector t 0 x.vector

/-- A completion of which Table 15.5 states no results: they are free values. -/
def completePlain (s : State) (q : Fin 64) (status : Nat) : State :=
  let a := s.draw
  let b := a.2.draw
  let c := b.2.draw
  complete c.2 q status a.1 b.1 c.1

/-- A completion that reports a verdict of admission. -/
def completeVerdict (s : State) (q : Fin 64) (v : Verdict) : State :=
  let c := s.draw
  complete (setVerdict c.2 v) q (if v.reason = 0 then 0 else 3) (v.reason + v.unit * 2 ^ 16 + v.desc * 2 ^ 32)
    (v.demand + v.budget * 2 ^ 32) c.1

/-- A queue enters ERROR (15 R349). -/
def queueError (s : State) (q : Fin 64) (cause : Nat) : State :=
  if (s.queue q).st = 2 then s
  else raise (modQueue s q fun x => { x with st := 2, cause := cause }) 267 q.val cause

/-- May the K8 fetch from a queue (15 R341). -/
def fetchable (x : HostQueue) : Bool :=
  x.en && x.st == 1 && x.cmd.isNone && x.sqHead != x.sqTail && x.cqUsed < 2 ^ x.size

/-- The fetchable queue that round robin serves next (15 R342). -/
def nextQueue (s : State) : Option (Fin 64) :=
  ((List.range 64).map fun i => queueFin (s.host.lastQueue + 1 + i)).find? fun q => fetchable (s.queue q)

/-- A fetched command is refused at once: its opcode is unassigned, a reserved field is not zero, a field it does not use is
not zero, or the device state permits no command but NOP (15 Table 15.6, 16 Table 16.2). -/
def fetchStatus (s : State) (b : List Byte) : Option Nat :=
  let c := hostCmdOf b
  if !hostOps.contains c.op || leAt b 4 4 != 0 || !allZero (bytesAt b 0x28 24) then some 1
  else if !unusedZero c then some 2
  else if c.op != 0 && (s.obj kDeviceState == stBoot || s.obj kDeviceState == stFault) then some 5
  else none

/-- COMMAND_FETCH (15 R341, R342, R349). -/
def execCommandFetch (bytes : Option (List Byte)) (s : State) : Result :=
  .next (match nextQueue s with
    | none => s
    | some q =>
      let s0 := { s with host := { s.host with lastQueue := q.val } }
      match bytes with
      | none => queueError s0 q 3
      | some raw =>
        let b := fitBytes 64 raw
        let c := hostCmdOf b
        let s1 := modQueue s0 q fun x => { x with cmd := some c, sqHead := (x.sqHead + 1) % 2 ^ x.size }
        match fetchStatus s b with
        | some st => completePlain s1 q st
        | none => if imageOps.contains c.op then
            { s1 with host := { s1.host with order := s1.host.order ++ [q.val] } } else s1)

/-- The command of a queue, when it is one of opcode `op` that has not started. -/
def waitingCmd (s : State) (q : Fin 64) (op : Nat) : Option HostCmd :=
  match (s.queue q).cmd with
  | some c => if c.op = op && !c.started then some c else none
  | none => none

/-- The image command of a queue, when its turn has come: the primary Zenith core runs them one at a time in the order of
their fetch, and none while it restarts (15 R342, 16 R353). -/
def imageCmd (s : State) (q : Fin 64) (op : Nat) : Option HostCmd :=
  if s.host.order.head? = some q.val && !s.irq.restarting.getLsbD 0 then waitingCmd s q op else none

/-- A queue's command has started. -/
def markStarted (s : State) (q : Fin 64) (chunks : List Nat) : State :=
  modQueue s q fun x => { x with cmd := x.cmd.map fun c => { c with started := true, chunks := chunks } }

/-- NOP (15 R343). -/
def execNop (queue : Fin 64) (s : State) : Result :=
  .next (match waitingCmd s queue 0 with
    | some _ => completePlain s queue 0
    | none => s)

/-! ## Copies (15 R346) -/

/-- Size of a copy's chunks. -/
def copySize : Nat := 262144

/-- The number of chunks of a copy at package address `b` of `n` bytes. -/
def copyCount (b n : Nat) : Nat := (b + n - 1) / copySize - b / copySize + 1

/-- Start and length of chunk `j`. -/
def copySpan (b n j : Nat) : Nat × Nat :=
  let lo := max b ((b / copySize + j) * copySize)
  (lo, min (b + n) ((b / copySize + j + 1) * copySize) - lo)

/-- Does `[a, a + n)` meet the CODE segment of a loaded image. -/
def inCode (s : State) (a n : Nat) : Bool :=
  match s.run.image with
  | none => false
  | some img => img.segs.any fun g => g.kind == 0 && g.base < a + n && a < g.base + g.bytes

/-- The operands of a copy keep the rules of R343. -/
def copyOk (s : State) (c : HostCmd) : Bool :=
  c.a % 4 == 0 && c.b % 4 == 0 && c.c % 4 == 0 && 4 ≤ c.c && c.c ≤ 2 ^ 40 && c.b < 2 ^ 48 && inOneRegion s c.b c.c

/-- A copy starts, or is refused. -/
def startCopy (s : State) (q : Fin 64) (toDevice : Bool) : State :=
  match waitingCmd s q (if toDevice then 1 else 2) with
  | none => s
  | some c =>
    if !copyOk s c then completePlain s q 2
    else if toDevice && inCode s c.b c.c then completePlain s q 7
    else markStarted s q (List.replicate (copyCount c.b c.c) 255)

/-- COPY_TO_DEVICE. -/
def execCopyToDevice (queue : Fin 64) (s : State) : Result := .next (startCopy s queue true)

/-- COPY_FROM_DEVICE. -/
def execCopyFromDevice (queue : Fin 64) (s : State) : Result := .next (startCopy s queue false)

/-- Bytes written to host memory, those marked in `bad` as 0xFF in requests with EP set. -/
def hostWrites (s : State) (a : Nat) (bs : List Byte) (bad : Nat) : State :=
  let marked := bs.zipIdx.map fun p => (bitAt bad p.2, p.1)
  let runs := marked.splitBy fun x y => x.1 == y.1
  (runs.foldl (fun (acc : State × Nat) (r : List (Bool × Byte)) =>
    let ep : Bool := ((r.head?).map (·.1)).getD false
    (acc.1.emit (.hostWrite acc.2 (if ep then List.replicate r.length 0xFF#8 else r.map (·.2)) ep), acc.2 + r.length))
    (s, a)).1

/-- The device memory of a range written in poison form, as R346 asks of failed chunks. -/
def poisonChunk (s : State) (c : HostCmd) (j : Nat) : State :=
  let sp := copySpan c.b c.c j
  poisonMem s sp.1 sp.2 .normal

/-- The result fields of a copy: RESULT_A, RESULT_B and RESULT_C. -/
def copyResults (c : HostCmd) (codes : List Nat) : Nat × Nat × Nat :=
  let good := codes.zipIdx.filter (·.1 == 0)
  (codes.length + good.length * 2 ^ 32, sumOf (good.map fun p => (copySpan c.b c.c p.2).2),
    (indexOf? (· != 0) codes).getD 0xFFFFFFFF)

/-- A copy completes with its chunk map and results; HOST_DMA_FAILED reports a read that failed twice. -/
def finishCopy (s : State) (q : Fin 64) (c : HostCmd) (codes : List Nat) (status : Nat) : State :=
  let r := copyResults c codes
  let s1 := s.when (c.d != 0) fun t => t.emit (.hostWrite c.d (codes.map (BitVec.ofNat 8)) false)
  let s2 := s1.when (codes.contains 2) fun t => raise t 268 (c.id + q.val * 2 ^ 16) r.2.2
  complete s2 q status r.1 r.2.1 r.2.2

/-- The chunks that are open. -/
def copyOpen (codes : List Nat) : List Nat := (codes.zipIdx.filter (·.1 == 255)).map (·.2)

/-- Every chunk not in flight takes code 4 once one has failed for good; in a copy to the device its destination is
poisoned. `keep` chunks stay in flight. -/
def copyDrop (s : State) (q : Fin 64) (c : HostCmd) (keep : Nat) : State :=
  let late := (copyOpen c.chunks).drop keep
  let s1 := s.when (c.op == 1) fun t => t.each late fun u j => poisonChunk u c j
  modQueue s1 q fun x => { x with cmd := some { c with chunks := late.foldl (fun l j => l.set j 4) c.chunks } }

/-- Are regions of the die that holds package address `a` being initialised, so that host accesses to it wait (09 R192).
An access that waits changes nothing yet: its command comes again (log 4). -/
def initialising (s : State) (a : Nat) : Bool :=
  match regionOf s a with
  | some h => (s.die h.die).protBusy.isSome
  | none => false

/-- What one chunk of a copy to the device does: its code. -/
def copyIn (s : State) (c : HostCmd) (j : Nat) (data : Option (List Byte)) (how : MemOutcome) : Nat × State :=
  let sp := copySpan c.b c.c j
  match data with
  | none => (2, poisonChunk s c j)
  | some bs =>
    match how, regionOf s sp.1 with
    | .lasting, some h => (3, poisonChunk (lastingError s h sp.1 false) c j)
    | .hard, some h => (3, poisonChunk (lastingError s h sp.1 true) c j)
    | _, _ => (0, memStore s sp.1 (fitBytes sp.2 bs) (some .normal))

/-- What one chunk of a copy from the device does: its code. -/
def copyOut (s : State) (c : HostCmd) (j : Nat) (how : MemOutcome) : Nat × State :=
  let sp := copySpan c.b c.c j
  let a := c.a + (sp.1 - c.b)
  let l := memLoad s sp.1 sp.2 (some .normal) how
  if l.failed.isSome then (2, hostWrites l.s a l.bytes (2 ^ sp.2 - 1))
  else (if l.bad = 0 then 0 else 1, hostWrites l.s a l.bytes l.bad)

/-- COPY_CHUNK_DONE. -/
def execCopyChunkDone (queue : Fin 64) (slot : Fin 4) (data : Option (List Byte)) (retried : Bool) (how : MemOutcome)
    (inFlight : Fin 4) (s : State) : Result :=
  .next (match (s.queue queue).cmd with
    | none => s
    | some c =>
      if !c.started || (c.op != 1 && c.op != 2) then s
      else match (copyOpen c.chunks)[slot.val]? with
        | none => s
        | some j =>
          if initialising s (copySpan c.b c.c j).1 then s else
          let r := if c.op = 1 then copyIn s c j data how else copyOut s c j how
          let c1 := { c with chunks := c.chunks.set j r.1 }
          let s1 := modQueue r.2 queue fun x => { x with cmd := some c1 }
          let s2 := s1.bumpBy 0x690003 (retried.toNat + (r.1 < 2 && how == .transient).toNat)
          let s3 := s2.when (r.1 < 2) fun t => t.bumpBy 0x690002 (copySpan c.b c.c j).2
          let s4 := s3.when (2 ≤ r.1 && !c.chunks.any fun x => 2 ≤ x && x != 255) fun t => copyDrop t queue c1 inFlight.val
          match (s4.queue queue).cmd with
          | none => s4
          | some c2 => if c2.chunks.contains 255 then s4
              else finishCopy s4 queue c2 c2.chunks (if c2.ended then 8 else if c2.chunks.all (· == 0) then 0 else 6))

/-! ## Image commands -/

/-- Does the device state permit an image command (16 Table 16.2). LOAD_IMAGE is answered by admission. -/
def statePermits (s : State) (op : Nat) : Bool :=
  let st := s.obj kDeviceState
  st == stOperational || (st == stStopped && op != 0x11)

/-- LOAD_IMAGE (02 R31 to R35, 15 R343). -/
def execLoadImage (queue : Fin 64) (bytes : Option (List Byte)) (s : State) : Result :=
  .next (match imageCmd s queue 0x10 with
    | none => s
    | some c =>
      if c.c < 128 then completePlain s queue 2
      else match bytes with
        | none => completeVerdict (raise s 268 (c.id + queue.val * 2 ^ 16) 0xFFFFFFFF) queue (plainVerdict 1)
        | some raw =>
          let bs := fitBytes c.c raw
          let v := admitBytes s bs
          completeVerdict (s.when (v.reason == 0) fun t => loadImage t bs) queue v)

/-- START: a loaded image is armed once every check passes (02 R28, R35). -/
def execStart (queue : Fin 64) (s : State) : Result :=
  .next (match imageCmd s queue 0x11 with
    | none => s
    | some c =>
      match s.run.image with
      | none => completePlain s queue 5
      | some img =>
        if !statePermits s 0x11 || (s.run.phase != .loaded && s.run.phase != .ended) then completePlain s queue 5
        else
          let v := admission s img true (some c.a)
          completeVerdict (s.when (v.reason == 0) fun t => armImage t c.a c.b) queue v)

/-- STOP raises STOP_REQUEST; an image of which no frame runs or is due stops at once. -/
def stopNow (s : State) : State :=
  match s.run.phase with
  | .armed | .running => stopRequest s 0
  | .loaded | .ended => stopImage s s.tick.count 0
  | .stopped => s

/-- STOP. -/
def execStop (queue : Fin 64) (s : State) : Result :=
  .next (match imageCmd s queue 0x12 with
    | none => s
    | some _ =>
      if !s.hasImage || !statePermits s 0x12 then completePlain s queue 5
      else stopNow (markStarted s queue []))

/-- STOP_COMMAND_COMPLETE: every used core is STOPPED or TRAPPED. -/
def execStopCommandComplete (queue : Fin 64) (s : State) : Result :=
  .next (match (s.queue queue).cmd with
    | none => s
    | some c =>
      if c.op = 0x12 && c.started && allHalted s then
        let a := s.draw
        let b := a.2.draw
        let d := b.2.draw
        complete d.2 queue 0 (s.run.stopTick.getD a.1) b.1 d.1
      else s)

/-- RESUME (03 R73). -/
def execResume (queue : Fin 64) (s : State) : Result :=
  .next (match imageCmd s queue 0x13 with
    | none => s
    | some c =>
      if !s.hasImage || !statePermits s 0x13 then completePlain s queue 5
      else if !resumable s c.a then completePlain s queue 4
      else completePlain (resumeImage s c.a) queue 0)

/-- UNLOAD (15 R343). -/
def execUnload (queue : Fin 64) (s : State) : Result :=
  .next (match imageCmd s queue 0x14 with
    | none => s
    | some _ =>
      if !statePermits s 0x14 || !s.hasImage || !unloadable s then completePlain s queue 5
      else completePlain (unloadImage s) queue 0)

/-! ## Doorbells (15 R341, R347, R349) -/

/-- A write to BAR4 that R349 discards: EP set, not 4 bytes and aligned, or its queue or ring disabled. -/
def doorbell (s : State) (en good ep : Bool) (f : State → State) : State :=
  if ep then s.emit (.aer 1)
  else if !good || !en then s.bump 0x690005
  else f s

/-- SQ_TAIL_WRITE. -/
def execSqTailWrite (queue : Fin 64) (value : BitVec 32) (good ep : Bool) (s : State) : Result :=
  let x := s.queue queue
  .next (doorbell s x.en good ep fun t =>
    if 2 ^ x.size ≤ value.toNat then queueError t queue 1
    else modQueue t queue fun y => { y with sqTail := value.toNat })

/-- CQ_HEAD_WRITE: slots up to the last entry written may be freed. -/
def execCqHeadWrite (queue : Fin 64) (value : BitVec 32) (good ep : Bool) (s : State) : Result :=
  let x := s.queue queue
  let size := 2 ^ x.size
  let n := (value.toNat + size - x.cqHead) % size
  .next (doorbell s x.en good ep fun t =>
    if size ≤ value.toNat || x.cqUsed < n then queueError t queue 2
    else modQueue t queue fun y => { y with cqHead := value.toNat, cqUsed := y.cqUsed - n })

/-- EVR_HEAD_WRITE: the slots before `value` are free; an index beyond the ring is no slot and changes nothing. DESIGN
CHOICE (log 57): an index equal to the ring's next slot frees them all. -/
def execEvrHeadWrite (ring : Fin 8) (value : BitVec 32) (good ep : Bool) (s : State) : Result :=
  let x := s.host.rings[ring]
  .next (doorbell s x.en good ep fun t =>
    if 2 ^ x.size ≤ value.toNat then t
    else { t with host := { t.host with rings := vmod t.host.rings ring fun y =>
      { y with head := value.toNat, used := (y.tail + 2 ^ x.size - value.toNat) % 2 ^ x.size } } })

/-! ## Queue and ring registers (15 R350) -/

/-- A SIZE_LOG2 that a ring may have. -/
def sizeOk (n : Nat) : Bool := 4 ≤ n && n ≤ 16

/-- A write to Q_CTRL (15 Table 15.11): setting EN starts the queue from slot 0 with PHASE 1. -/
def writeQCtrl (s : State) (q : Fin 64) (v : Nat) : State :=
  let en := bitAt v 63
  modQueue s q fun x =>
    if x.en && en then x
    else
      let y := { x with irqEn := bitAt v 62, vector := fld v 32 11, size := fld v 0 5 }
      if en && sizeOk (fld v 0 5) then
        { y with en := true, st := 1, cause := 0, sqHead := 0, sqTail := 0, cqHead := 0, cqWrite := 0, cqUsed := 0, phase := true }
      else { y with en := false, st := if x.st = 2 then 2 else 0 }

/-- A write to EVR_CTRL: setting EN restarts the ring and its SEQ (17 R391). -/
def writeRingCtrl (s : State) (r : Fin 8) (v : Nat) : State :=
  let en := bitAt v 63
  { s with host := { s.host with rings := vmod s.host.rings r fun x =>
      (if x.en && en then x
      else
        let y := { x with irqEn := bitAt v 62, vector := fld v 32 11, size := fld v 0 5 }
        if en && sizeOk (fld v 0 5) then { y with en := true, head := 0, tail := 0, used := 0, phase := true, seq := 0 }
        else { y with en := false }) } }

/-- QUEUE_ENABLE. -/
def execQueueEnable (queue : Fin 64) (value : BitVec 64) (s : State) : Result :=
  .next (writeQCtrl s queue (setBitAt value.toNat 63 true))

/-- QUEUE_DISABLE. -/
def execQueueDisable (queue : Fin 64) (value : BitVec 64) (s : State) : Result :=
  .next (writeQCtrl s queue (setBitAt value.toNat 63 false))

/-- EVENT_RING_ENABLE. -/
def execEventRingEnable (ring : Fin 8) (value : BitVec 64) (s : State) : Result :=
  .next (writeRingCtrl s ring (setBitAt value.toNat 63 true))

/-- EVENT_RING_DISABLE. -/
def execEventRingDisable (ring : Fin 8) (value : BitVec 64) (s : State) : Result :=
  .next (writeRingCtrl s ring (setBitAt value.toNat 63 false))

/-! ## The memory window (15 R339) -/

/-- WIN_BASE set; a value that is no multiple of the BAR's size is ignored. -/
def writeWinBase (s : State) (v : Nat) : State :=
  let b := fld v 30 18 * 2 ^ 30
  if b % 2 ^ s.host.bar2Log2 = 0 then { s with host := { s.host with winBase := b } } else s

/-- WIN_BASE_WRITE. -/
def execWinBaseWrite (value : BitVec 64) (s : State) : Result := .next (writeWinBase s value.toNat)

/-- A range cut at page boundaries: addresses and lengths. -/
def pagePieces (a n : Nat) : List (Nat × Nat) :=
  (pagesOf a n).map fun p => let lo := max a p; (lo, min (a + n) (p + 512) - lo)

/-- Does a whole range lie in data areas of enabled regions. -/
def inDataAreas (s : State) (a n : Nat) : Bool := (pagePieces a n).all fun p => inOneRegion s p.1 p.2

/-- A read through the window: a completion with the data, or Unsupported Request. For poison the completion has EP and
0xFF bytes and is logged through AER (09 R200). -/
def bar2Read (s : State) (offset n : Nat) (how : MemOutcome) : State :=
  let a := s.host.winBase + offset
  if 2 ^ s.host.bar2Log2 ≤ offset || !inDataAreas s a n then (s.emit .unsupported).emit (.aer 0)
  else if initialising s a then s
  else
    let r := (pagePieces a n).zipIdx.foldl (fun (acc : List Byte × Bool × State) p =>
      let l := memLoad acc.2.2 p.1.1 p.1.2 (some .normal) (if p.2 = 0 then how else .good)
      (acc.1 ++ l.bytes, acc.2.1 || l.bad != 0 || l.failed.isSome, l.s)) ([], false, s)
    (r.2.2.emit (.readData (if r.2.1 then List.replicate n 0xFF#8 else r.1) r.2.1)).when r.2.1 fun t => t.emit (.aer 1)

/-- BAR2_READ. -/
def execBar2Read (offset : BitVec 41) (len : Nat) (how : MemOutcome) (s : State) : Result :=
  .next (bar2Read s offset.toNat len how)

/-- A write through the window. -/
def bar2Write (s : State) (offset : Nat) (bs : List Byte) (ep : Bool) : State :=
  let a := s.host.winBase + offset
  if 2 ^ s.host.bar2Log2 ≤ offset || !inDataAreas s a bs.length then s.emit (.aer 0)
  else if inCode s a bs.length then raise s 266 a 0
  else if initialising s a then s
  else if ep then (s.each (pagePieces a bs.length) fun t p => poisonMem t p.1 p.2 .normal).emit (.aer 1)
  else s.each (pagePieces a bs.length) fun t p => memStore t p.1 (bytesAt bs (p.1 - a) p.2) (some .normal)

/-- BAR2_WRITE: an AtomicOp is answered with Unsupported Request. -/
def execBar2Write (offset : BitVec 41) (bytes : List Byte) (ep atomic : Bool) (s : State) : Result :=
  .next (if atomic then (s.emit .unsupported).emit (.aer 0) else bar2Write s offset.toNat bytes ep)

/-- BAR0_BAD_ACCESS: a read is answered with Unsupported Request, and a write is discarded (00 R6). -/
def execBar0BadAccess (write : Bool) (s : State) : Result :=
  .next (if write then s.emit (.aer 0) else (s.emit .unsupported).emit (.aer 0))

/-! ## Vectors (15 R348) -/

/-- The MSI-X vectors of a function (15 Table 15.1). -/
def vectorCount (fn : Nat) : Nat := if fn = 0 then 2048 else 16

/-- A vector whose pending bit is set is signalled once if nothing masks it any more. -/
def signalPending (s : State) (fn vec : Nat) : State :=
  let k := fn * 4096 + vec
  if kvGet false s.host.msixPend k then
    signalVector { s with host := { s.host with msixPend := kvSet false s.host.msixPend k false } } fn vec
  else s

/-- A vector's own mask cleared. -/
def unmaskVector (s : State) (fn vec : Nat) : State :=
  signalPending { s with host := { s.host with
    msixData := kvMod msixDataReset s.host.msixData (fn * 4096 + vec) (fun d => setBitAt d 32 false) } } fn vec

/-- MSI-X Enable and Function Mask of a function written; what they no longer mask is signalled. PRESUMED of PCI Express
(log 158). -/
def writeMsixControl (s : State) (fn : Fin 2) (en mask : Bool) : State :=
  let s1 := { s with host := { s.host with cfg := vmod s.host.cfg fn fun x => { x with msixEn := en, fnMask := mask } } }
  s1.when (en && !mask) fun t => t.each (List.range (vectorCount fn.val)) fun u v => signalPending u fn.val v

/-- MSIX_UNMASK: one vector's mask cleared, or MSI-X Enable and Function Mask written. -/
def execMsixUnmask (fn : Fin 2) (what : MsixWrite) (s : State) : Result :=
  .next (match what with
    | .vector v => if vectorCount fn.val ≤ v.val then s else unmaskVector s fn.val v.val
    | .control en mask => writeMsixControl s fn en mask)

/-! ## Ending commands (15 R340, R345, 18 Table 18.3) -/

/-- The command of a queue ends ABORTED; a copy leaves its chunks as a lasting failure at that moment leaves them: those
not started take code 4, and the at most four in flight complete and are reported before its completion entry. -/
def abortCmd (s : State) (q : Fin 64) : State :=
  match (s.queue q).cmd with
  | none => s
  | some c =>
    if c.started && (c.op == 1 || c.op == 2) then copyDrop s q { c with ended := true } 4
    else completePlain s q 8

/-- Every command in progress ends ABORTED. -/
def abortCmds (s : State) : State :=
  let s1 := s.each (List.finRange 64) abortCmd
  { s1 with host := { s1.host with order := [], job := none } }

/-- Every queue and event ring disabled; a copy whose chunks in flight still have to complete is kept until then. -/
def disableHost (s : State) : State :=
  { s with host := { s.host with
      queues := s.host.queues.map fun x => { x with en := false, st := 0, cmd := x.cmd.filter (·.ended) }
      rings := s.host.rings.map fun x => { x with en := false } } }

/-! ## The endpoint (15 R336, R338) -/

/-- The identities that a function's configuration space presents (15 Table 15.1). -/
structure FnIds where
  vendor : Nat
  device : Nat
  classCode : Nat
  subVendor : Nat
  subsystem : Nat
  revision : Nat
  deriving DecidableEq, Repr

/-- The identities of function 0 or 1: the Subsystem ID is that of the fused grade, and the Revision ID is the package
stepping, object 0x1000:07. -/
def fnIds (s : State) (fn : Nat) : FnIds :=
  ⟨0x1F4E, if fn = 0 then 0x0808 else 0x0809, if fn = 0 then 0x120000 else 0x088000, 0x1F4E, s.life.fuse, s.obj 0x100007⟩

/-- The bytes of a BAR, none for a BAR that the function has not (15 Table 15.3). -/
def barBytes (s : State) (fn bar : Nat) : Option Nat :=
  match fn, bar with
  | 0, 0 => some (256 * 2 ^ 20)
  | 0, 2 => some (2 ^ s.host.bar2Log2)
  | 0, 4 => some (512 * 2 ^ 10)
  | 1, 0 => some (64 * 2 ^ 10)
  | _, _ => none

/-- Resizable BAR: the host gives BAR2 one of the sizes that it may have, 1 GiB to 2 TiB (15 Table 15.3). -/
def resizeBar2 (s : State) (log2 : Nat) : State :=
  if 30 ≤ log2 && log2 ≤ 41 then { s with host := { s.host with bar2Log2 := log2 } } else s

end Sys2Proof.Machine
end

