-- ==== Sys2Proof/Machine/Shards.lean ====
section
/-!
DEFINITION. Machine/Shards.lean: export and import of shards (13 R296 to R299, Tables 13.6 and 13.7).
-/
namespace Sys2Proof.Machine

/-- A read by the host's commands: bytes, the marked bad ones, and the state after. -/
def hostLoad (s : State) (a n : Nat) : List (Option Byte) × State :=
  let l := memLoad s a n (some .normal) .good
  (l.bytes.zipIdx.map fun p => if bitAt l.bad p.2 then none else some p.1, l.s)

/-- A shard table as the export and import commands read it: its bytes, and whether it is valid. -/
def hostTable (s : State) (a : Nat) : List Byte × Bool × State :=
  let h := hostLoad s a 96
  let p := hostLoad h.2 (a + 96) (32 * leAt (optBytes h.1) 0xC 2)
  let all := h.1 ++ p.1
  (optBytes all, !all.any (·.isNone) && shardValid p.2 (optBytes all), p.2)

/-- The addresses of a shard command: the table's header and the commit record. -/
def shardAddrsOk (s : State) (c : HostCmd) : Bool :=
  c.b < 2 ^ 48 && c.d < 2 ^ 48 && inOneRegion s c.b 96 && inOneRegion s c.d 64 && c.d % 8 == 0

/-- A commit record's field as the host's commands read it. -/
def hostField (s : State) (a off n : Nat) : Nat := leNat (optBytes (hostLoad s (a + off) n).1)

/-- The result fields of a shard command, and its completion. -/
def completeShard (s : State) (q : Fin 64) (status outcome count b : Nat) : State :=
  let d := s.draw
  complete d.2 q status (outcome + count * 2 ^ 32) b d.1

/-! ## Export -/

/-- The arrays of a piece record, in order: place in memory of the committed slot and bytes of an element. -/
def recordArrays (t : Shard) (gen flags : Nat) : List (Nat × Nat) :=
  (if bitAt flags 0 then [(slotOf t.master gen, 4)] else []) ++ (if bitAt flags 1 then [(slotOf t.moment gen, 2)] else [])
    ++ if bitAt flags 2 then [(t.workAt, t.workBytes)] else []

/-- Payload bytes of a piece record. -/
def payloadBytes (t : Shard) (flags elems : Nat) : Nat :=
  sumOf ((recordArrays t 0 flags).map fun a => roundUp (a.2 * elems) 64)

/-- The number of records of an export. -/
def recordCount (t : Shard) (flags : Nat) : Nat :=
  t.pieces.length + if bitAt flags 3 && t.auxBytes != 0 then 1 else 0

/-- Payload bytes of record `k`. -/
def recordPayload (t : Shard) (flags k : Nat) : Nat :=
  match t.pieces[k]? with
  | some p => payloadBytes t flags p.elems
  | none => roundUp t.auxBytes 64

/-- The header of an export record (13 Table 13.6). -/
def recordHeader (s : State) (j : ExportJob) (t : Shard) (content : Nat) (p : Piece) (bytes : Nat) : List Byte :=
  leBytes 4 0x44524853 ++ leBytes 2 0x0100 ++ leBytes 2 64 ++ leBytes 8 j.step ++ leBytes 2 j.slot ++ leBytes 1 content
    ++ leBytes 1 t.work ++ leBytes 4 p.tensor ++ leBytes 4 p.row0 ++ leBytes 4 p.col0 ++ leBytes 4 p.rows
    ++ leBytes 4 p.cols ++ leBytes 2 p.plane ++ leBytes 1 j.lossExp ++ leBytes 1 0 ++ leBytes 2 j.clean ++ leBytes 2 t.group
    ++ leBytes 2 t.rank ++ leBytes 2 (s.obj kPackageId) ++ leBytes 4 t.bucket ++ leBytes 8 bytes

/-- The payload of a record, each array padded to 64 bytes: what reads as poison is 0xFF, and whether any does. -/
def loadPayload (s : State) (parts : List (Nat × Nat)) : List Byte × Bool × State :=
  parts.foldl (fun acc a =>
    let l := hostLoad acc.2.2 a.1 a.2
    (acc.1 ++ fitBytes (roundUp a.2 64) (l.1.map fun b => b.getD 0xFF#8), acc.2.1 || l.1.any (·.isNone), l.2)) ([], false, s)

/-- A record without what its piece tells: an auxiliary record. -/
def auxPiece : Piece := ⟨0, 0, 0, 0, 0, 0, 0⟩

/-- The bytes of record `k`, and whether it is poisoned. -/
def exportRecord (s : State) (j : ExportJob) (t : Shard) (k : Nat) : List Byte × Bool × State :=
  let piece := t.pieces[k]?
  let parts := match piece with
    | some p => (recordArrays t j.slot j.flags).map fun a => (a.1 + a.2 * p.first, a.2 * p.elems)
    | none => [(slotOf t.aux j.slot, t.auxBytes)]
  let content := if piece.isSome then j.flags % 8 else 8
  let l := loadPayload s parts
  let body := recordHeader s j t (content + l.2.1.toNat * 128) (piece.getD auxPiece) (128 + l.1.length) ++ l.1
  (body ++ leBytes 4 (crc32 body) ++ List.replicate 60 0#8, l.2.1, l.2.2)

/-- The commit record's STEP with the loss scale and clean count after its decision; free values where they are not
known. -/
def commitScale (s : State) (step : Nat) : Nat × Nat × State :=
  let d := kvGet (25, 0) s.run.decided step
  if d.1 < 25 then (d.1, d.2, s)
  else
    let a := s.draw
    let b := a.2.draw
    (a.1 % 25, b.1 % 65536, b.2)

/-- EXPORT_SHARD: the export starts (13 R296). -/
def execExportShard (queue : Fin 64) (s : State) : Result :=
  .next (match imageCmd s queue 0x20 with
    | none => s
    | some c =>
      if !statePermits s 0x20 then completePlain s queue 5
      else if !shardAddrsOk s c then completePlain s queue 2
      else
        let tb := hostTable s c.b
        if !tb.2.1 then completeShard tb.2.2 queue 6 1 0 0
        else
          let step := hostField tb.2.2 c.d 8 8
          let sc := commitScale tb.2.2 step
          let job : ExportJob := ⟨queue.val, c.flags, tb.1, c.d, hostField tb.2.2 c.d 0 2, step, sc.1, sc.2.1, 0, c.a, c.c, 0, 0,
            false, false⟩
          markStarted { sc.2.2 with host := { sc.2.2.host with job := some job } } queue [])

/-- An export ends with an outcome. -/
def finishExport (s : State) (j : ExportJob) (outcome : Nat) (short : Bool) : State :=
  let o := max outcome (if j.poisoned then 3 else 0)
  completeShard { s with host := { s.host with job := none } } (queueFin j.queue)
    (if short then 9 else if o = 0 then 0 else 6) o j.written j.bytes

/-- EXPORT_RECORD_DONE: the next record is written, or the export ends (13 R297, 15 Table 15.6). -/
def execExportRecordDone (s : State) : Result :=
  .next (match s.host.job with
    | none => s
    | some j =>
      let t := shardOf j.table
      if j.overrun then finishExport (s.bump 0x670008) j 2 false
      else if j.room < 128 + recordPayload t j.flags j.next then finishExport s j 0 true
      else
        let r := exportRecord s j t j.next
        let n := r.1.length
        let j1 := { j with next := j.next + 1, dest := j.dest + n, room := j.room - n, written := j.written + 1
                           bytes := j.bytes + n, poisoned := j.poisoned || r.2.1 }
        let s1 := (r.2.2.emit (.hostWrite j.dest r.1 false)).bump 0x670007
        if j1.next < recordCount t j.flags then { s1 with host := { s1.host with job := some j1 } }
        else finishExport s1 j1 0 false)

/-! ## Import -/

/-- An import as its records are taken: how many were accepted, the highest outcome, what the first accepted record set, the
elements covered, and the bytes that the accepted piece records give the arrays. -/
structure ImportRun where
  accepted : Nat
  outcome : Nat
  head : Option (Nat × Nat × Nat)
  covered : List Bool
  bytes : Kv (Option Byte)
  s : State

/-- Elements of a record that lie in a piece: (index in the record, element of the shard). -/
def landing (t : Shard) (tensor row0 col0 rows cols plane : Nat) : List (Nat × Nat) :=
  ((List.range (rows * cols)).map fun k =>
    let r := row0 + k / cols
    let c := col0 + k % cols
    (t.pieces.filter fun p => p.tensor == tensor && p.plane == plane && p.row0 ≤ r && r < p.row0 + p.rows && p.col0 ≤ c
      && c < p.col0 + p.cols).map fun p => (k, p.first + (r - p.row0) * p.cols + (c - p.col0))).flatten

/-- Bytes to be written at an address. -/
def putBytes (m : Kv (Option Byte)) (a : Nat) (bs : List Byte) : Kv (Option Byte) := kvSetList none m a (bs.map some)

/-- One element of one array. -/
def putElem (a w : Nat) (bs : List Byte) (off : Nat) (m : Kv (Option Byte)) (p : Nat × Nat) : Kv (Option Byte) :=
  putBytes m (a + w * p.2) (bytesAt bs (off + w * p.1) w)

/-- The working copy's bytes of an element, converted from its master. -/
def putConverted (s : State) (t : Shard) (sr : Bool) (step : Nat) (bs : List Byte) (off : Nat) (m : Kv (Option Byte))
    (p : Nat × Nat) : Kv (Option Byte) :=
  putBytes m (t.workAt + t.workBytes * p.2) (workElem s t sr step p.2 (BitVec.ofNat 32 (leAt bs (off + 4 * p.1) 4)))

/-- Bytes by address as runs without a gap, each with its first address. -/
def byteRuns : Kv (Option Byte) → List (Nat × List Byte)
  | [] => []
  | (a, b) :: m =>
    match byteRuns m with
    | (a', bs) :: rs => if a' = a + 1 then (a, b.getD 0#8 :: bs) :: rs else (a, [b.getD 0#8]) :: (a', bs) :: rs
    | [] => [(a, [b.getD 0#8])]

/-- What an import gives the arrays, written: a page of which it gives every byte is written whole, and so is restored where
it was poison (13 R298, R302, 09 R199). -/
def flushImport (s : State) (m : Kv (Option Byte)) : State :=
  s.each (byteRuns m) fun t r => memStore t r.1 r.2 (some .normal)

/-- Does the record's last UPD round its working copy stochastically. -/
def recordSr (s : State) (commit : Nat) : Bool :=
  allDies.any fun d => (s.unit d).cirrus.recs.any fun r => r.addr == commit && r.workSr

/-- What an accepted piece record gives both slots and the working copy, and the elements it covers (13 R298). -/
def importPiece (s : State) (t : Shard) (commit : Nat) (m0 : Kv (Option Byte)) (b : List Byte) : Kv (Option Byte) × List Nat :=
  let content := leAt b 0x12 1
  let n := leAt b 0x20 4 * leAt b 0x24 4
  let w := if leAt b 0x13 1 = 3 then 2 else 1
  let map := landing t (leAt b 0x14 4) (leAt b 0x18 4) (leAt b 0x1C 4) (leAt b 0x20 4) (leAt b 0x24 4) (leAt b 0x28 2)
  let o1 := 64 + if bitAt content 0 then roundUp (4 * n) 64 else 0
  let o2 := o1 + if bitAt content 1 then roundUp (2 * n) 64 else 0
  let both (m : Kv (Option Byte)) (at' : Nat × Nat) (w off : Nat) : Kv (Option Byte) :=
    map.foldl (putElem at'.2 w b off) (map.foldl (putElem at'.1 w b off) m)
  let m1 := if bitAt content 0 then both m0 t.master 4 64 else m0
  let m2 := if bitAt content 1 then both m1 t.moment 2 o1 else m1
  let m3 :=
    if bitAt content 2 && leAt b 0x13 1 == t.work then map.foldl (putElem t.workAt w b o2) m2
    else if bitAt content 0 then map.foldl (putConverted s t (recordSr s commit) (leAt b 8 8) b 64) m2 else m2
  (m3, map.map (·.2))

/-- The bytes that a record's header implies. -/
def impliedBytes (b : List Byte) : Nat :=
  let n := leAt b 0x20 4 * leAt b 0x24 4
  let c := leAt b 0x12 1
  128 + (if bitAt c 0 then roundUp (4 * n) 64 else 0) + (if bitAt c 1 then roundUp (2 * n) 64 else 0)
    + if bitAt c 2 then roundUp ((if leAt b 0x13 1 = 3 then 2 else 1) * n) 64 else 0

/-- Is a record an auxiliary record. -/
def isAuxRecord (b : List Byte) : Bool := leAt b 0x14 4 == 0 && leAt b 0x12 1 % 16 == 8

/-- The codes that apply to a record of `b.length` bytes (13 R299). -/
def refusals (t : Shard) (head : Option (Nat × Nat × Nat)) (b : List Byte) : List Nat :=
  let fmt := leAt b 0 4 != 0x44524853 || leAt b 4 2 != 0x0100 || b.length < 128 || leAt b 0x38 8 != b.length
    || crc32 (b.take (b.length - 64)) != leAt b (b.length - 64) 4 || (!isAuxRecord b && impliedBytes b != b.length)
  let me := (leAt b 8 8, leAt b 0x2A 1, leAt b 0x2C 2)
  if fmt then [4]
  else (if bitAt (leAt b 0x12 1) 7 then [3] else [])
    ++ (if isAuxRecord b && (leAt b 0x2E 2 != t.group || leAt b 0x30 2 != t.rank || leAt b 0x34 4 != t.bucket
        || b.length != 128 + roundUp t.auxBytes 64) then [6] else [])
    ++ match head with
      | some h => if h = me then [] else [5]
      | none => []

/-- The first accepted record sets the commit record, e and c (13 R299). Every step still to run reads the imported e
(13 R292). -/
def importHead (s : State) (commit : Nat) (b : List Byte) : State :=
  let put (x : State) (off n v : Nat) : State := memStore x (commit + off) (leBytes n v) (some .normal)
  let step := leAt b 8 8
  let e := leAt b 0x2A 1
  let c := leAt b 0x2C 2
  let s1 := put (put (put s 0 2 (leAt b 0x10 2)) 2 1 0) 8 8 step
  { ((s1.setObj kScale e).setObj 0x670002 c) with run := { s1.run with
      imported := true
      scales := (s1.run.scales.map (·.1)).foldl (fun m k => kvSet 25 m k e) (kvSet 25 s1.run.scales (step + 1) e)
      decided := kvSet (25, 0) s1.run.decided step (e, c) } }

/-- One record taken. -/
def importRecord (t : Shard) (commit : Nat) (r : ImportRun) (b : List Byte) : ImportRun :=
  match refusals t r.head b with
  | [] =>
    let s1 := if r.head.isNone then importHead r.s commit b else r.s
    let me := (leAt b 8 8, leAt b 0x2A 1, leAt b 0x2C 2)
    if isAuxRecord b then
      let put (x : State) (a : Nat) : State := memStore x a (bytesAt b 64 t.auxBytes) (some .normal)
      { r with accepted := r.accepted + 1, head := some (r.head.getD me), s := put (put s1 t.aux.1) t.aux.2 }
    else
      let w := importPiece s1 t commit r.bytes b
      ⟨r.accepted + 1, r.outcome, some (r.head.getD me), w.2.foldl (fun l e => l.set e true) r.covered, w.1, s1⟩
  | cs => { r with outcome := maxOf (r.outcome :: cs), s := r.s.bump 0x670009 }

/-- The records of the source cut by their RECORD_BYTES; a header whose size cannot be one ends the list with what is
left. -/
def cutRecords : Nat → List Byte → List (List Byte)
  | 0, _ => []
  | n + 1, bs =>
    if bs.isEmpty then []
    else
      let k := leAt bs 0x38 8
      if k < 128 || bs.length < k then [bs]
      else bs.take k :: cutRecords n (bs.drop k)

/-- The fingerprint of the imported master, written into the commit record. -/
def importGauge (s : State) (t : Shard) (commit : Nat) : State :=
  let gen := hostField s commit 0 2
  let l := hostLoad s (slotOf t.master gen) (4 * t.elems)
  let vals := (List.range t.elems).map fun e =>
    let w := (l.1.drop (4 * e)).take 4
    if w.any (·.isNone) then 0xFFFFFFFF#32 else BitVec.ofNat 32 (leNat (optBytes w))
  memStore l.2 (commit + 0x18) (leBytes 8 (gauge vals).toNat) (some .normal)

/-- IMPORT_SHARD (13 R298, R299). -/
def execImportShard (queue : Fin 64) (bytes : Option (List Byte)) (s : State) : Result :=
  .next (match imageCmd s queue 0x21 with
    | none => s
    | some c =>
      if !statePermits s 0x21 then completePlain s queue 5
      else if s.hasImage && !(s.runCores.all fun k => (s.core k).st == .stopped) then completeShard s queue 5 7 0 0
      else if !shardAddrsOk s c then completePlain s queue 2
      else
        let tb := hostTable s c.b
        let t := shardOf tb.1
        if !tb.2.1 then completeShard tb.2.2 queue 6 1 0 0
        else
          let bs := match bytes with
            | some b => fitBytes c.c b
            | none => List.replicate 1 0#8
          let s0 := tb.2.2.when bytes.isNone fun x => raise x 268 (c.id + queue.val * 2 ^ 16) 0xFFFFFFFF
          let r := (cutRecords (bs.length + 1) bs).foldl (importRecord t c.d) ⟨0, 0, none, List.replicate t.elems false, [], s0⟩
          let s1 := if r.head.isSome then importGauge (flushImport r.s r.bytes) t c.d else r.s
          completeShard s1 queue (if r.outcome = 0 then 0 else 6) r.outcome r.accepted (r.covered.filter (!·)).length)

end Sys2Proof.Machine
end

