-- ==== Sys2Proof/Machine/Irqs.lean ====
section
/-!
DEFINITION. Machine/Irqs.lean: assertions from outside, external inputs, quarantine, routing, claims and completions, the
modes of the interrupt controllers and their queues (17 R380 to R391).
-/
namespace Sys2Proof.Machine

/-! ## Sources -/

/-- Is a source a level source. -/
def isLevelSrc (n : Nat) : Bool := ((srcInfo n).map (·.level)).getD false

/-- Is a source external: VR_ALERT_N_i or BOARD_ALERT_N (17 Table 17.1). -/
def isExternalSrc (n : Nat) : Bool := 288 ≤ n && n ≤ 308

/-- SOURCE_ASSERT: an edge source asserts at each occurrence, and an internal level source when its condition begins. An
external input asserts through its filter alone (17 R380, R381). -/
def execSourceAssert (source : BitVec 12) (d0 : BitVec 64) (d1 : BitVec 32) (s : State) : Result :=
  let n := source.toNat
  .next (if isExternalSrc n then s
    else if isLevelSrc n then setLevel s n true d0.toNat d1.toNat
    else raise s n d0.toNat d1.toNat)

/-- STORM_WINDOW_END: every source's count of the interval restarts (17 R382). -/
def execStormWindowEnd (s : State) : Result :=
  .next (s.each (s.irq.src.map (·.1)) fun t n => t.setSrc n { t.src n with storm := 0 })

/-! ## External inputs (17 R381) -/

/-- The source of an external input. -/
def inputSource (i : Nat) : Nat := 288 + i

/-- EXT_INPUT_FILTER_CHANGE: while VDD_IO_3V3 is or was lately low, no input becomes active (21 R473). -/
def execExtInputFilterChange (input : Fin 21) (s : State) : Result :=
  let x := s.irq.ext[input]
  .next (if !x.filtered && alertsIgnored s then s
    else
      let s1 := { s with irq := { s.irq with ext := vmod s.irq.ext input fun y => { y with filtered := !y.filtered } } }
      setLevel s1 (inputSource input.val) (!x.filtered) (if input.val < 20 then input.val else 0) 0)

/-- EXT_INPUT_GLITCH. -/
def execExtInputGlitch (_input : Fin 21) (s : State) : Result := .next (s.bump 0x691003)

/-! ## Quarantine (17 R382) -/

/-- Quarantine ends; a level source that is active asserts at once. -/
def releaseSource (s : State) (n : Nat) : State :=
  let r := s.src n
  if r.st = .quarantined || r.quar then
    let s1 := s.setSrc n { r with st := if r.st = .quarantined then .idle else r.st, quar := false }
    s1.when (isLevelSrc n && r.level) fun t => raise t n r.detail0 r.detail1
  else s

/-- QUARANTINE_RELEASE. -/
def execQuarantineRelease (source : BitVec 12) (s : State) : Result := .next (releaseSource s source.toNat)

/-! ## Routing (17 R384, R387) -/

/-- The sources that are not in their reset state. -/
def liveSources (s : State) : List Nat := s.irq.src.map (·.1)

/-- RUN_PRIO of a core: the highest priority among its ACTIVE normal claims. -/
def runPrio (s : State) (c : DieId) : Nat :=
  maxOf ((liveSources s).map fun n =>
    let r := s.src n
    if r.st = .active && r.core = c.val && !r.fast then r.prio else 0)

/-- Does a core hold a fast claim. -/
def holdsFast (s : State) (c : DieId) : Bool :=
  (liveSources s).any fun n => let r := s.src n; r.st == .active && r.core == c.val && r.fast

/-- The core that a list offers with the lowest running priority, ties going to the lowest die. -/
def lowestRun (s : State) : List DieId → Option DieId
  | [] => none
  | c :: cs => match lowestRun s cs with
    | none => some c
    | some d => if runPrio s d < runPrio s c then some d else some c

/-- The cores that a source may be routed to, before their running priorities are compared. -/
def targetCores (s : State) (r : SrcRec) : List DieId :=
  allDies.filter fun c => bitAt r.targets c.val && !s.irq.restarting.getLsbD c.val

/-- The core a PENDING source is routed to. -/
def routedTo (s : State) (n : Nat) : Option DieId :=
  let r := s.src n
  if r.st != .pending then none
  else if r.isFast then lowestRun s ((targetCores s r).filter fun c => !holdsFast s c)
  else match lowestRun s (targetCores s r) with
    | some c => if runPrio s c < r.prio then some c else none
    | none => none

/-- The normal source of highest priority routed to a core, ties going to the lowest number; 0 for none. -/
def claimNormal (s : State) (c : DieId) : Nat :=
  ((liveSources s).filter fun n => !(s.src n).isFast && routedTo s n == some c).foldl (fun best n =>
    if best = 0 || (s.src best).prio < (s.src n).prio then n else best) 0

/-- The lowest-numbered fast source routed to a core; 0 for none. -/
def claimFast (s : State) (c : DieId) : Nat :=
  if holdsFast s c then 0
  else (((liveSources s).filter fun n => (s.src n).isFast && routedTo s n == some c).head?).getD 0

/-- A claim: the source becomes ACTIVE on the core. -/
def takeClaim (s : State) (c : DieId) (n : Nat) (fast : Bool) : State :=
  let s1 := if n = 0 then s
    else s.setSrc n { s.src n with st := .active, core := c.val, fast := fast, repend := false, sample := none }
  s1.emit (.zenithRead c.val n)

/-- CLAIM_READ (17 R385). -/
def execClaimRead (zenith : DieId) (s : State) : Result := .next (takeClaim s zenith (claimNormal s zenith) false)

/-- CLAIM_FAST_READ (17 R387). -/
def execClaimFastRead (zenith : DieId) (s : State) : Result := .next (takeClaim s zenith (claimFast s zenith) true)

/-! ## Completion (17 Table 17.2, R386) -/

/-- The sample of LEVEL that the rule of vanished claims asks for, taken once. -/
def sampleLevel (s : State) (n : Nat) : State :=
  let r := s.src n
  if !isLevelSrc n || r.sample.isSome then s
  else if r.level then s.setSrc n { r with sample := some true }
  else (s.setSrc n { r with sample := some false, vanished := (r.vanished + 1) % 256 }).bump 0x691004

/-- A completion: the source becomes QUARANTINED, PENDING again or IDLE. A re-pend counts as an assertion under R382. -/
def endClaim (s : State) (n : Nat) : State :=
  let s1 := sampleLevel s n
  let r := s1.src n
  let done : SrcRec := { r with sample := none, repend := false, fast := false }
  if r.quar then s1.setSrc n { done with st := .quarantined, quar := false }
  else if r.repend || (isLevelSrc n && r.sample == some true && r.level) then
    if s1.obj 0x290001 < r.storm + 1 then
      quarantine (s1.setSrc n { done with st := .idle, storm := r.storm + 1 }) n r.detail0 r.detail1
    else s1.setSrc n { done with st := .pending, storm := r.storm + 1 }
  else s1.setSrc n { done with st := .idle }

/-- A write to COMPLETE or COMPLETE_FAST. -/
def completeClaim (s : State) (c : DieId) (n : Nat) (fast : Bool) : State :=
  let r := s.src n
  if r.st = .active && r.core = c.val && r.fast == fast then endClaim s n else s.bump 0x691005

/-- COMPLETE_WRITE (17 R385). -/
def execCompleteWrite (zenith : DieId) (source : BitVec 12) (s : State) : Result :=
  .next (completeClaim s zenith source.toNat false)

/-- COMPLETE_FAST_WRITE (17 R387). -/
def execCompleteFastWrite (zenith : DieId) (source : BitVec 12) (s : State) : Result :=
  .next (completeClaim s zenith source.toNat true)

/-- SRC_STATUS (17 Table 17.7). -/
def SrcRec.status (r : SrcRec) : Nat :=
  let st := match r.st with
    | .idle => 0
    | .pending => 1
    | .active => 2
    | .quarantined => 3
  r.count * 2 ^ 48 + r.vanished * 2 ^ 40 + r.fast.toNat * 2 ^ 11 + r.core * 2 ^ 8 + r.level.toNat * 16 + r.repend.toNat * 8 + st

/-- SRC_STATUS_LEVEL_SAMPLE: a core reads SRC_STATUS; the first read of the claiming core samples LEVEL (17 R386). -/
def execSrcStatusLevelSample (zenith : DieId) (source : BitVec 12) (s : State) : Result :=
  let n := source.toNat
  let r := s.src n
  let s1 := s.when (r.st == .active && r.core == zenith.val) fun t => sampleLevel t n
  .next (s1.emit (.zenithRead zenith.val (s1.src n).status))

/-! ## The modes of a controller (17 R388, R389) -/

/-- The sources of a die that are not in their reset state, ascending. -/
def dieSources (s : State) (d : DieId) : List Nat := (liveSources s).filter fun n => n / 512 == d.val

/-- Claims that end as completions. -/
def endClaims (s : State) (ns : List Nat) : State := s.each (ns.filter fun n => (s.src n).st == .active) endClaim

/-- Every claim that a Zenith core holds. -/
def claimsOf (s : State) (c : DieId) : List Nat :=
  (liveSources s).filter fun n => (s.src n).st == .active && (s.src n).core == c.val

/-- A PENDING source written as a PENDED record to its die's queue. -/
def flushSource (s : State) (n : Nat) : State :=
  let r := s.src n
  if r.st = .pending then
    eqRecord (s.setSrc n { r with st := .idle }) (dieFin (n / 512)) n 1 r.sev r.detail0 r.detail1
  else s

/-- A controller enters QUEUE: claims end, pending sources become records (17 R389). -/
def enterQueue (s : State) (d : DieId) (entry : Nat) : State :=
  let s1 := endClaims s (dieSources s d)
  let s2 := s1.each (dieSources s1 d) flushSource
  s2.setIc d { s2.ic d with claimMode := false, entry := entry }

/-- IC_MODE_QUEUE_WRITE. -/
def execIcModeQueueWrite (die : DieId) (s : State) : Result := .next (enterQueue s die 3)

/-- IC_MODE_CLAIM_WRITE: CLAIM takes effect only while the queue is empty. -/
def execIcModeClaimWrite (die : DieId) (s : State) : Result :=
  let q := s.ic die
  .next (if q.head = q.tail then s.setIc die { q with claimMode := true } else s)

/-- EQ_HEAD_ADVANCE (17 R390). -/
def execEqHeadAdvance (die : DieId) (n : Nat) (s : State) : Result :=
  let q := s.ic die
  let size := 2 ^ q.sizeLog2
  let k := min n ((q.tail + size - q.head) % size)
  .next (s.setIc die { q with
    head := (q.head + k) % size
    slots := (List.range k).foldl (fun m i => kvSet [] m ((q.head + i) % size) []) q.slots })

/-- CONTRAIL_EVENT_SEND: the oldest record of Contrail's queue leaves as the event data of a PLDM event message
(17 R391). -/
def execContrailEventSend (s : State) : Result :=
  .next (match s.irq.contrail with
    | [] => s
    | r :: rs => { s with irq := { s.irq with contrail := rs } }.emit (.mctp 1 r))

end Sys2Proof.Machine
end

