-- ==== Sys2Proof/Machine/Areas.lean ====
section
/-!
DEFINITION. Machine/Areas.lean: region settings, scrubbing, the code-test window, and the cache and ring registers
(08 R171, R172, R188, 09 R192, R205 to R207).
-/
namespace Sys2Proof.Machine

/-! ## Regions (09 R192) -/

/-- The enabled ones of a list of regions do not overlap; a region of no bytes overlaps none. -/
def regionsApart : List (BitVec 64) → Bool
  | [] => true
  | r :: rs => rs.all (fun q => !regEn r || !regEn q || regSize r == 0 || regSize q == 0
        || regBase r + regSize r ≤ regBase q || regBase q + regSize q ≤ regBase r)
      && regionsApart rs

/-- An enabled region lies in its memory of `mib` MiB and is not empty. -/
def regionFits (mib : Nat) (r : BitVec 64) : Bool :=
  !regEn r || (regSize r != 0 && regBase r + regSize r ≤ mib * 2 ^ 20)

/-- An enabled paged region has an assigned strength. -/
def regionCoded (r : BitVec 64) : Bool := !regEn r || regIsByte r || regStrength r != 3

/-- PROT_CTRL.STATUS of a die's new settings: the first condition that holds. -/
def applyStatus (s : State) (d : DieId) : Nat :=
  let st := (s.die d).region.toList.take 8
  let hb := (s.die d).region.toList.drop 8
  if s.hasImage then 1
  else if !regionsApart st || !regionsApart hb then 2
  else if !st.all (regionFits 8192) || !hb.all (regionFits 65536) then 3
  else if !(st ++ hb).all regionCoded then 4
  else 0

/-- Bit n set for each region of a die whose settings a change touches: 0 to 7 Stratus, 8 to 15 HBM. -/
def changedRegions (m : DieMem) : Nat :=
  (List.zip m.region.toList m.applied.toList).zipIdx.foldl (fun acc p => if p.1.1 = p.1.2 then acc else acc + 2 ^ p.2) 0

/-- REGION_APPLY: the settings are checked and taken, and initialising the changed regions begins. -/
def execRegionApply (die : DieId) (s : State) : Result :=
  let st := applyStatus s die
  .next (if (s.die die).protBusy.isSome then s
    else s.modDie die fun m =>
      if st = 0 then { m with protStatus := 0, protBusy := some (changedRegions m), applied := m.region, sweepS := 0, sweepH := 0 }
      else { m with protStatus := st })

/-- A region of a die written with zeros and valid check bytes. -/
def initRegion (s : State) (d : DieId) (n : Nat) : State :=
  let r := (s.die d).applied.toList.getD n 0
  if regEn r then clearRegion s (addrOf d (8 ≤ n) (regBase r)) (regSize r) else s

/-- REGION_APPLY_DONE: the changed regions hold zeros, and REGION_APPLIED is raised. -/
def execRegionApplyDone (die : DieId) (s : State) : Result :=
  .next (match (s.die die).protBusy with
    | none => s
    | some m =>
      let s1 := s.each (onesOf 16 m) fun t n => initRegion t die n
      raiseOn (s1.modDie die fun x => { x with protBusy := none }) die 14 m 0)

/-! ## Scrubbing (09 R205, R206) -/

/-- The unit of a sweep at or after a die offset: its offset and its bytes. -/
def sweepUnit (s : State) (d : DieId) (hbm : Bool) (o : Nat) : Option (Nat × Nat) :=
  let rs := (((s.die d).applied.toList.drop (if hbm then 8 else 0)).take 8).filter regEn
  (rs.filterMap fun r =>
    let n := if regIsByte r then 64 else 512
    let a := max o (regBase r)
    if a < regBase r + regData r then some (a, n) else none).foldl (fun best u =>
      match best with
      | none => some u
      | some b => if u.1 < b.1 then some u else best) none

/-- A page read, decoded and rewritten when it is corrected. -/
def scrubPage (s0 : State) (h : RegionHit) (page : Nat) (how : MemOutcome) : State :=
  let u := takeUpset s0 how
  let s := u.2
  if isFenced s h.die page then s0.bump 0xC10006
  else match u.1 with
  | .lasting => lastingError s h page false
  | .hard => lastingError s h page true
  | o =>
    let s1 := s.when (o == .transient) fun t => t.bump 0xC10003
    match pageRead h.t (kvRange s.mem page 512).isEmpty (kvGet 0 s.pageDev page) with
    | .clean => s1
    | .poisoned => s1.bump 0xC10006
    | .checkOnly => { s1 with pageDev := kvSet 0 s1.pageDev page 0 }.bump 0xC10002
    | .corrected mask => storePage (s1.bump 0xC10001) h page (pageData s1 page mask)
    | .uncorrectable => lastingError s1 h page false

/-- A byte of a line read, decoded and rewritten when it is corrected. -/
def scrubByte (h : RegionHit) (s : State) (b : Nat) : State :=
  let v := (kvGet 0#8 s.mem b).toNat
  match hamRead 8 4 v (kvGet 0 s.byteDev b) with
  | .clean => s
  | .poisoned => s.bump 0xC10006
  | .checkOnly => { s with byteDev := kvSet 0 s.byteDev b 0 }.bump 0xC10002
  | .corrected mask => storeByte (s.bump 0xC10001) h b (BitVec.ofNat 8 (v ^^^ mask))
  | .uncorrectable => lastingError s h b false

/-- A unit scrubbed: a page, or a 64-byte line of a byte region. -/
def scrubUnit (s : State) (a : Nat) (how : MemOutcome) : State :=
  match regionOf s a with
  | none => s
  | some h =>
    if !h.isByte then scrubPage s h (pageOf a) how
    else if isFenced s h.die a then s.bumpBy 0xC10006 64
    else
      let u := takeUpset s how
      match u.1 with
      | .lasting => lastingError u.2 h a false
      | .hard => lastingError u.2 h a true
      | o => (u.2.when (o == .transient) fun t => t.bump 0xC10003).each ((List.range 64).map (a / 64 * 64 + ·)) (scrubByte h)

/-- SCRUB_STEP: a page queued for rewrite, or the next unit of the sweep. -/
def execScrubStep (die : DieId) (hbm : Bool) (how : MemOutcome) (s : State) : Result :=
  let m := s.die die
  let q := if hbm then m.rewriteH else m.rewriteS
  .next (if s.obj 0x250002 = 0 then s
    else match q with
    | a :: rest =>
      scrubUnit (s.modDie die fun x => if hbm then { x with rewriteH := rest } else { x with rewriteS := rest }) a how
    | [] =>
      let o := if hbm then m.sweepH else m.sweepS
      match sweepUnit s die hbm o with
      | none => s
      | some u =>
        let s1 := scrubUnit s (addrOf die hbm u.1) how
        let more := (sweepUnit s die hbm (u.1 + u.2)).isSome
        let nextAt := if more then u.1 + u.2 else 0
        let s2 := s1.modDie die fun x => if hbm then { x with sweepH := nextAt } else { x with sweepS := nextAt }
        if more then s2
        else let s3 := s2.bump 0xC1000A
             raiseOn s3 die 13 hbm.toNat (s3.obj 0xC1000A))

/-! ## The code-test window (09 R207) -/

/-- A line of HBM leaves its slice; a dirty copy is written back first. -/
def dropLine (s : State) (d : DieId) (line : Nat) : State :=
  let ls := cacheSet (s.die d) line
  match ls.find? (·.line == line) with
  | none => s
  | some l =>
    let ls1 := (ls.filter (·.line != line)).map fun x => if x.line / 2 = line / 2 then { x with paired := false } else x
    (setCacheSet s d line ls1).when l.paired fun t => t.setObj 0x640004 ((t.obj 0x640004 + 2 ^ 32 - 1) % 2 ^ 32)

/-- The lines of `[a, a + n)` leave the slices of their die. -/
def dropLines (s : State) (a n : Nat) : State :=
  match homeDie a with
  | none => s
  | some d =>
    if isHbm a then s.each ((List.range ((n + 255) / 256)).map (dieOffset a / 256 + ·)) fun t l => dropLine t d l else s

/-- The core a code-test address names. -/
def ctCore (d : DieId) (addr : Nat) : CoreId := coreFin (4 * d.val + fld addr 48 2)

/-- The key of word `k` of a cache frame: that of the word of the line it holds, where it holds one line alone with that
word's sector, else the frame's own. -/
def frameKey (m : DieMem) (addr k : Nat) : Nat :=
  let set := fld addr 48 4 * 512 + fld addr 32 9
  match (kvGet [] m.cache set).find? fun l => l.way == fld addr 24 4 && !l.paired && l.sectors.getLsbD (k / 16) with
  | some l => 64 * l.line + k
  | none => 2 ^ 40 + (set * 16 + fld addr 24 4) * 64 + k

/-- The keys of an SRAM target's words, in order. -/
def sramKeys (m : DieMem) (tgt addr : Nat) : List Nat :=
  let e := fld addr 46 2
  match tgt with
  | 2 => (List.range 32).map fun k => fld addr 0 24 / 128 * 128 + 4 * k
  | 3 =>
    let col := 32 * fld addr 7 2
    (List.range 32).map fun k =>
      if bitAt addr 43 then sumKey e (fld addr 32 10) (col + k) else accKey (fld addr 44 2) e (fld addr 32 10) (col + k)
  | 4 => (List.range 32).map fun k => e * 2 ^ 24 + fld addr 0 24 / 128 * 128 + 4 * k
  | 5 => (List.range 64).map (frameKey m addr)
  | _ => (List.range 64).map fun k => fld addr 8 8 * 64 + k

/-- A word held as value + 1, or a free value where the window has not written it. -/
def heldWord (s : State) (w : Kv Nat) (k : Nat) : Nat × State :=
  match kvGet 0 w k with
  | 0 => let r := s.draw
         (r.1 % 2 ^ 32, r.2)
  | v + 1 => (v, s)

/-- A word of an SRAM target: its value, its deviation, and the state after. -/
def sramGet (s : State) (d : DieId) (tgt addr k : Nat) : Nat × Nat × State :=
  let c := ctCore d addr
  let x := s.core c
  match tgt with
  | 2 => let a := scratchKey c k
         (leNat (memRead s.scratch a 4), kvGet 0 s.wordDev a, s)
  | 3 => if bitAt addr 43 then ((kvGet 0#32 x.sum k).toNat, kvGet 0 x.sumDev k, s)
         else ((kvGet 0#32 x.acc k).toNat, kvGet 0 x.accDev k, s)
  | 4 => let w := heldWord s x.bufWord k
         (w.1, kvGet 0 x.bufDev k, w.2)
  | 5 => if k < 2 ^ 40 then let w := frameWord s d k; (w.1, w.2, s)
         else let w := heldWord s (s.die d).cacheWord k
              (w.1, kvGet 0 (s.die d).cacheDev k, w.2)
  | _ => let w := heldWord s x.icWord k
         (w.1, kvGet 0 x.icDev k, w.2)

/-- A word of an SRAM target written with a deviation. -/
def sramSet (s : State) (d : DieId) (tgt addr k v dev : Nat) : State :=
  let c := ctCore d addr
  match tgt with
  | 2 => keepDead { s with scratch := memWrite s.scratch (scratchKey c k) (leBytes 4 v)
                           wordDev := kvSet 0 s.wordDev (scratchKey c k) dev } [scratchKey c k]
  | 3 => s.modCore c fun x =>
      if bitAt addr 43 then { x with sum := kvSet 0 x.sum k (BitVec.ofNat 32 v), sumDev := kvSet 0 x.sumDev k dev }
      else { x with acc := kvSet 0 x.acc k (BitVec.ofNat 32 v), accDev := kvSet 0 x.accDev k dev }
  | 4 => s.modCore c fun x => { x with bufWord := kvSet 0 x.bufWord k (v + 1), bufDev := kvSet 0 x.bufDev k dev }
  | 5 => if k < 2 ^ 40 then setFrameWord s d k v dev
         else s.modDie d fun m => { m with cacheWord := kvSet 0 m.cacheWord k (v + 1), cacheDev := kvSet 0 m.cacheDev k dev }
  | _ => s.modCore c fun x => { x with icWord := kvSet 0 x.icWord k (v + 1), icDev := kvSet 0 x.icDev k dev }
/-- The bits of CT_ADDR that a target assigns; the others are reserved (09 Table 9.7). -/
def ctAddrMask (tgt : Nat) : Nat :=
  match tgt with
  | 0 | 1 => 2 ^ 48 - 1
  | 2 => 2 ^ 50 - 2 ^ 48 + (2 ^ 24 - 1)
  | 3 => 2 ^ 50 - 2 ^ 43 + (2 ^ 42 - 2 ^ 32) + (2 ^ 9 - 2 ^ 7)
  | 4 => 2 ^ 50 - 2 ^ 46 + (2 ^ 24 - 1)
  | 5 => 2 ^ 52 - 2 ^ 48 + (2 ^ 41 - 2 ^ 32) + (2 ^ 28 - 2 ^ 24)
  | 6 => 2 ^ 50 - 2 ^ 48 + (2 ^ 16 - 2 ^ 8)
  | _ => 0

/-- CT_ADDR as a target lays it out: its reserved bits read as zero and are no part of the address (00 R7). -/
def ctAddr (s : State) (d : DieId) (tgt : Nat) : Nat := (s.die d).ct.addr &&& ctAddrMask tgt

/-- Is CT_ADDR valid for a target of a die: Stratus and HBM are the die's own. -/
def ctAddrOk (s : State) (d : DieId) (tgt addr : Nat) : Bool :=
  match tgt with
  | 0 => match regionOf s addr with
    | some h => h.die == d && !h.isByte && addr % 512 == 0
    | none => false
  | 1 => match regionOf s addr with
    | some h => h.die == d && h.isByte && addr % 64 == 0
    | none => false
  | 2 => addr % 128 == 0
  | 3 => bitAt addr 43 || fld addr 32 10 < 128
  | 4 => addr % 128 == 0
  | _ => true

/-- CT_STATUS.RESULT of a command before it runs. -/
def ctResult (s : State) (d : DieId) (tgt : Nat) : Nat :=
  if s.hasImage then 1 else if 7 ≤ tgt then 3 else if ctAddrOk s d tgt (ctAddr s d tgt) then 0 else 2

/-- The strength of the page at an address. -/
def ctStrength (s : State) (a : Nat) : Nat := ((regionOf s a).map RegionHit.t).getD 4

/-- Five-bit check values packed as 09 R191 packs a line's, or one seven-bit value per byte. -/
def packChecks (w : Nat) (cs : List Nat) : Nat := cs.zipIdx.foldl (fun acc p => acc + p.1 * 2 ^ (w * p.2)) 0

/-- The check bytes that a target's code gives for data. -/
def ctEncode (s : State) (d : DieId) (tgt : Nat) (data : List Byte) : List Byte :=
  let a := ctAddr s d tgt
  match tgt with
  | 0 => let t := ctStrength s a
         leBytes (pageCheckBytes t) (pageCheck t (fitBytes 512 data))
  | 1 => leBytes 40 (packChecks 5 ((fitBytes 64 data).map fun b => byteCheck b.toNat))
  | _ => let n := (sramKeys (s.die d) tgt a).length
         (List.range n).map fun k => BitVec.ofNat 8 (wordCheck (leAt data (4 * k) 4))

/-- The window of a die changed. -/
def modCt (s : State) (d : DieId) (f : CodeTest → CodeTest) : State := s.modDie d fun m => { m with ct := f m.ct }

/-- The first bytes of a buffer replaced. -/
def putHead (old new : List Byte) : List Byte := new ++ old.drop new.length

/-- Data and check bytes of a target as stored. -/
def ctRaw (s : State) (d : DieId) (tgt : Nat) : List Byte × List Byte × State :=
  let a := ctAddr s d tgt
  match tgt with
  | 0 =>
    let t := ctStrength s a
    let bs := memRead s.mem a 512
    (bs, leBytes (pageCheckBytes t) (pageCheck t bs ^^^ kvGet 0 s.pageDev a), s)
  | 1 =>
    let bs := memRead s.mem a 64
    (bs, leBytes 40 (packChecks 5 (bs.zipIdx.map fun p => byteCheck p.1.toNat ^^^ kvGet 0 s.byteDev (a + p.2))), s)
  | _ =>
    (sramKeys (s.die d) tgt a).foldl (fun acc k =>
      let w := sramGet acc.2.2 d tgt a k
      (acc.1 ++ leBytes 4 w.1, acc.2.1 ++ [BitVec.ofNat 8 (wordCheck w.1 ^^^ w.2.1)], w.2.2)) ([], [], s)

/-- The buffers written to a target as they are. -/
def ctStore (s : State) (d : DieId) (tgt : Nat) : State :=
  let ct := (s.die d).ct
  let a := ctAddr s d tgt
  match tgt with
  | 0 =>
    let t := ctStrength s a
    let bs := fitBytes 512 ct.data
    { s with mem := memWrite (kvClear s.mem a 512) a bs
             pageDev := kvSet 0 s.pageDev a (pageCheck t bs ^^^ (leAt ct.check 0 (pageCheckBytes t))) }
  | 1 =>
    let bs := fitBytes 64 ct.data
    { s with mem := memWrite s.mem a bs
             byteDev := bs.zipIdx.foldl (fun m p =>
               kvSet 0 m (a + p.2) (byteCheck p.1.toNat ^^^ fld (leAt ct.check 0 40) (5 * p.2) 5)) s.byteDev }
  | _ => s.each (sramKeys (s.die d) tgt a).zipIdx fun t p =>
      let v := leAt ct.data (4 * p.2) 4
      sramSet t d tgt a p.1 v (wordCheck v ^^^ leAt ct.check p.2 1 % 128)

/-- The lines of an HBM target leave the cache first. -/
def ctPrepare (s : State) (d : DieId) (tgt : Nat) : State :=
  let a := ctAddr s d tgt
  match tgt with
  | 0 => dropLines s a 512
  | 1 => dropLines s a 64
  | _ => s

/-- The CT_ADDR value of word `i` of the unit that `addr` addresses (17 Table 17.1). -/
def wordAddr (tgt addr i : Nat) : Nat := if 5 ≤ tgt then addr / 256 * 256 + 4 * i else addr / 128 * 128 + 4 * i

/-- Word `i` of an SRAM unit, with the key `k`, lost for good: poisoned, counted, and named by its event (09 R202). -/
def sramLost (s : State) (d : DieId) (tgt addr i k : Nat) (hard : Bool) : State :=
  let s1 := ((sramSet s d tgt addr k 0 0x7F).bump 0xC10007).bump 0xC10004
  let s2 := sramUncorrectable s1 d tgt (wordAddr tgt addr i)
  let s3 := s2.when (hard && tgt = 2) fun x => { x with wear := { x.wear with dead := scratchKey (ctCore d addr) k :: x.wear.dead } }
  s3.when hard fun t => logFence t d 2 (wordAddr tgt addr i)

/-- One decoded word, `i` of its unit: data, outcome (0 clean, 1 corrected, 2 check-only, 3 transient, 4 lasting, 5 poisoned),
and the state after. A word of a line that a cache slice holds is read as the slice reads it (09 R203). -/
def sramDecode (s : State) (d : DieId) (tgt addr i k : Nat) : Nat × Nat × State :=
  if tgt = 5 && k < 2 ^ 40 then let r := readFrameWord s d k; ((frameWord r.2 d k).1, r.1, r.2)
  else
    let w := sramGet s d tgt addr k
    match hamRead 32 6 w.1 w.2.1 with
    | .clean => (w.1, 0, w.2.2)
    | .poisoned => (w.1, 5, w.2.2.bump 0xC10006)
    | .checkOnly => (w.1, 2, w.2.2.bump 0xC10002)
    | .corrected mask => (w.1 ^^^ mask, 1, w.2.2.bump 0xC10001)
    | .uncorrectable => (0, 4, sramLost w.2.2 d tgt addr i k false)

/-- The outcome reported of several: lasting, then poisoned, transient, corrected, check-only. -/
def worstOutcome (os : List Nat) : Nat :=
  if os.contains 4 then 4 else if os.contains 5 then 5 else if os.contains 3 then 3 else if os.contains 1 then 1 else if os.contains 2 then 2 else 0

/-- An ordinary read of a target: data, outcome and the state after. -/
def ctDecoded (s : State) (d : DieId) (tgt : Nat) (how : MemOutcome) : List Byte × Nat × State :=
  let a := ctAddr s d tgt
  if tgt ≤ 1 then
    let l := memLoad s a (if tgt = 0 then 512 else 64) none how
    let grew (k : Nat) : Bool := s.obj k != l.s.obj k
    (l.bytes, if l.failed.isSome then 4 else if l.bad != 0 then 5 else if grew 0xC10003 then 3
      else if grew 0xC10001 then 1 else if grew 0xC10002 then 2 else 0, l.s)
  else
    let r := (sramKeys (s.die d) tgt a).zipIdx.foldl (fun (acc : List Byte × List Nat × State) k =>
      let w := sramDecode acc.2.2 d tgt a k.2 k.1
      (acc.1 ++ leBytes 4 w.1, acc.2.1 ++ [w.2.1], w.2.2)) ([], [], s)
    let u := takeUpset r.2.2 how
    match u.1 with
    | .good => (r.1, worstOutcome r.2.1, u.2)
    | .transient => (r.1, if worstOutcome r.2.1 = 0 then 3 else worstOutcome r.2.1, u.2.bump 0xC10003)
    | o => (leBytes 4 0 ++ r.1.drop 4, 4, sramLost u.2 d tgt a 0 ((sramKeys (s.die d) tgt a).headD 0) (o == .hard))

/-- A command of the window runs, or reports why it does not. -/
def ctCommand (s : State) (d : DieId) (tgt : Nat) (f : State → State) : State :=
  let r := ctResult s d tgt
  let s1 := modCt s d fun x => { x with target := tgt, result := r }
  if r = 0 then f (ctPrepare s1 d tgt) else s1

/-- CT_READ_RAW. -/
def execCtReadRaw (die : DieId) (target : BitVec 4) (s : State) : Result :=
  .next (ctCommand s die target.toNat fun t =>
    let r := ctRaw t die target.toNat
    modCt r.2.2 die fun x => { x with data := putHead x.data r.1, check := putHead x.check r.2.1 })

/-- CT_WRITE_RAW. -/
def execCtWriteRaw (die : DieId) (target : BitVec 4) (s : State) : Result :=
  .next (ctCommand s die target.toNat fun t => ctStore t die target.toNat)

/-- CT_ENCODE. -/
def execCtEncode (die : DieId) (target : BitVec 4) (s : State) : Result :=
  .next (ctCommand s die target.toNat fun t =>
    modCt t die fun x => { x with check := putHead x.check (ctEncode t die target.toNat x.data) })

/-- CT_READ_DECODED. -/
def execCtReadDecoded (die : DieId) (target : BitVec 4) (how : MemOutcome) (s : State) : Result :=
  .next (ctCommand s die target.toNat fun t =>
    let r := ctDecoded t die target.toNat how
    modCt r.2.2 die fun x => { x with data := putHead x.data r.1, outcome := r.2.1 })

/-! ## Cache and ring registers (08 R171, R172, R188) -/

/-- Every dirty line of a die's slices is written back, with the changed words of its frame; the lines stay resident. -/
def writeBackDie (s : State) (d : DieId) : State :=
  (s.each ((s.die d).cache.map (·.2)).flatten fun x l => x.when l.dirty fun y => settleLine d y l).modDie d fun m =>
    { m with cache := m.cache.map fun p => (p.1, p.2.map fun l => { l with dirty := false }) }

/-- CACHE_WRITE_BACK. -/
def execCacheWriteBack (die : DieId) (s : State) : Result := .next (writeBackDie s die)

/-- CACHE_DEMOTE. -/
def execCacheDemote (die : DieId) (s : State) : Result := .next (demoteDie s die)

/-- Does a keep window reach beyond the stack (08 R188). -/
def keepTooLong (v : Nat) : Bool := 1048576 < fld v 0 20 + fld v 20 20

/-- KEEP_WIN_n written (08 Table 8.12). -/
def writeKeep (s : State) (d : DieId) (n : Fin 8) (v : Nat) : State :=
  let w : BitVec 64 := BitVec.ofNat 64 (fld v 0 40 + (bitAt v 63).toNat * 2 ^ 63)
  let run := s.runs
  let s1 := s.modDie d fun m => { m with keep := m.keep.set n w, keepNow := if run then m.keepNow else m.keepNow.set n w }
  s1.when (keepTooLong v) fun t => raiseOn t d 10 n.val 0

/-- KEEP_WIN_WRITE. -/
def execKeepWinWrite (die : DieId) (n : Fin 8) (value : BitVec 64) (s : State) : Result :=
  .next (writeKeep s die n value.toNat)

/-- RING_n written (08 Table 8.14). -/
def writeRing (s : State) (d : DieId) (n : Fin 16) (v : Nat) : State :=
  let w : BitVec 64 := BitVec.ofNat 64 (fld v 0 48 + fld v 56 8 * 2 ^ 56)
  let run := s.runs
  s.modDie d fun m => { m with ring := m.ring.set n w, ringNow := if run then m.ringNow else m.ringNow.set n w }

/-- RING_REG_WRITE. -/
def execRingRegWrite (die : DieId) (n : Fin 16) (value : BitVec 64) (s : State) : Result :=
  .next (writeRing s die n value.toNat)

end Sys2Proof.Machine
end

