-- ==== Sys2Proof/Machine/Reset.lean ====
section
/-!
DEFINITION. Machine/Reset.lean: package reset, bring-up, the swatch test and the mapping of units, compute reset, function
level resets, and the bond self-test (15 R340, 16 R371, R374, 18 R396 to R420, 21 R467, R472).
-/
namespace Sys2Proof.Machine

/-- The life cycle changed. -/
def State.modLife (s : State) (f : Life → Life) : State := { s with life := f s.life }

/-! ## Package reset (18 R396 to R398) -/

/-- The dictionary objects that a package reset keeps (18 Table 18.10, 19 Table 19.9). -/
def keptObjects : List Nat := [0xC21001, 0xC21002, 0xC30002, 0xC30004]

/-- A die's memory system after a package reset: the fenced-page tables are kept (18 R398). -/
def keptDie (m : DieMem) : DieMem := { DieMem.reset with fencedS := m.fencedS, fencedH := m.fencedH }

/-- A rail group after a package reset: its pin and its rail are what the board makes them. -/
def keptGroup (g : RailGroup) : RailGroup :=
  { g with alertHeld := g.alertLow && g.alertHeld, dipHeld := g.dipLow }

/-- The power controller after a package reset: guard bands and the ageing record are kept (18 R398). -/
def keptPower (p : Power) (tripped : Bool) : Power :=
  { Power.reset with guard := p.guard, replans := p.replans, growth := p.growth, tripped := tripped
                     groups := p.groups.map keptGroup }

/-- The life cycle after a package reset of a cause: fuses, flash and what VDD_AON holds are kept. -/
def keptLife (l : Life) (cause : Nat) : Life :=
  { Life.reset with
    lastPackage := cause, packageResets := (l.packageResets + 1) % 65536
    fails := l.fails, fuse := l.fuse, fuseRollback := l.fuseRollback, fuseEpoch := l.fuseEpoch
    fuseMeasured := (l.fuse, l.fuseRollback, l.fuseEpoch), slots := l.slots, active := l.active, running := l.running
    health := l.health, aonLost := l.aonLost, testEn := l.testEn }

/-- Everything after a package reset but what is kept: the installed licences stand in the flash, and are checked again at
the entry into PREOP. -/
def keptState (s : State) (cause : Nat) (tripped : Bool) : State :=
  { State.reset with
    pending := s.pending, now := s.now, out := s.out, free := s.free
    dict := keptObjects.foldl (fun m k => kvSet (objDefault k) m k (s.obj k)) []
    dies := s.dies.map keptDie
    host := { HostIf.reset with perstLow := s.host.perstLow }
    power := keptPower s.power tripped
    life := { keptLife s.life cause with beganAt := s.now }
    mgmt := { Mgmt.reset with licences := s.mgmt.licences.map fun l => { l with valid := false } } }

/-- A package reset. THERMTRIP_N stays low unless a reset of cause 1 or 2 finds the privileged sensors cool (19 R441). -/
def packageReset (s : State) (cause : Nat) (cool : Bool) : State :=
  let held := s.power.tripped && !((cause == 1 || cause == 2) && cool)
  let s1 := s.when s.life.ready fun t => t.emit (.pin 0 false)
  let s2 := s1.when (s.power.tripped && !held) fun t => t.emit (.pin 1 true)
  let s3 := keptState s2 cause held
  s3.when (s.obj kDeviceState != stBoot) fun t => mailboxState (raise t 265 stBoot 0)

/-- Is VDD_AON up. -/
def State.powered (s : State) : Bool := !s.life.aonOff

/-- SYS_RESET_N_LOW. -/
def execSysResetNLow (testEn cool : Bool) (s : State) : Result :=
  .next (if s.powered then (packageReset s 2 cool).modLife fun l => { l with testEn := testEn } else s)

/-- VDD_AON_RISE. -/
def execVddAonRise (testEn cool : Bool) (s : State) : Result :=
  .next (if s.powered then s
    else (packageReset (s.modLife fun l => { l with aonOff := false }) 1 cool).modLife fun l => { l with testEn := testEn })

/-- RAIL_RESET_LEVEL (19 R422). -/
def execRailResetLevel (_group : Fin 20) (s : State) : Result :=
  .next (if s.powered then packageReset s 4 false else s)

/-- VDD_AON_LOSS: all work ends, and with VDD_AON goes what R398 keeps; fuses and flash stay. -/
def execVddAonLoss (s : State) : Result :=
  let t := keptState s 0 s.power.tripped
  .next (if !s.powered then s
    else { t with
      dict := [], dies := Vector.replicate 8 DieMem.reset
      power := { Power.reset with tripped := s.power.tripped }
      life := { t.life with lastPackage := 0, packageResets := 0, fails := [], aonOff := true, aonLost := true } })

/-! ## Bring-up, stages 1 and 2 (18 R400 to R402) -/

/-- Does a firmware slot verify: its signature is right and its rollback number not below the fused counter (16 R370). -/
def slotVerifies (s : State) (i : Fin 2) : Bool :=
  let x := s.life.slots[i]
  x.valid && s.life.fuseRollback ≤ x.rollback

/-- The other slot. -/
def otherSlot (i : Fin 2) : Fin 2 := if i = 0 then 1 else 0

/-- The slot marked pending. -/
def pendingSlot (s : State) : Option (Fin 2) := ([0, 1] : List (Fin 2)).find? fun i => s.life.slots[i].pending

/-- The slot that the boot ROM chooses, whether it is on trial, and whether FW_FALLBACK is raised (18 R401). -/
def chooseSlot (s : State) : Option (Fin 2 × Bool × Bool) :=
  let act := s.life.active
  let rest : Option (Fin 2 × Bool × Bool) :=
    if slotVerifies s act then some (act, false, false)
    else if slotVerifies s (otherSlot act) then some (otherSlot act, false, true) else none
  match pendingSlot s with
  | some p => if slotVerifies s p then some (p, true, false) else rest
  | none => rest

/-- The objects that the grade fixes (19 Table 19.9); the ageing limit follows the guard bands that are kept. -/
def gradeObjects (s : State) : State :=
  let g := s.grade
  let s1 := (((s.setObj 0xA00001 g.cap).setObj 0xA00002 g.floor).setObj 0xA00003 g.cap).setObj 0xA03002 g.clockMax
  let s2 := s1.setObj 0xA03003 (if s.power.replans.isEmpty then g.clockMax else ageClock s)
  let s3 := s2.setObj 0xA03001 (guaranteed s2 g.cap)
  { s3 with power := { s3.power with budget := g.cap } }

/-- BOOT_ROM: stage 1 ends in stage 2, or in FAULT for an unassigned grade code or when no slot verifies. -/
def execBootRom (s : State) : Result :=
  .next (if !s.powered || s.life.stage != 1 || s.life.testEn || s.power.tripped then s
    else match gradeOf s.life.fuse with
      | none => enterFault (raise s 172 s.life.fuse 0) 172
      | some _ =>
        match chooseSlot s with
        | none => enterFault s 0
        | some (i, trial, fallback) =>
          let s1 := gradeObjects (s.modLife fun l => { l with stage := 2, running := i, trial := trial })
          s1.when fallback fun t => raise t 169 i.val (otherSlot i).val)

/-- What the health record held restored after a loss of VDD_AON (16 R371). -/
def restoreHealth (s : State) : State :=
  if !s.life.aonLost then s
  else
    let s1 := s.modLife fun l => { l with aonLost := false }
    match s1.life.health with
    | none => s1
    | some (ns, fails) =>
      let guards := (ns.drop 3).take 8
      let s2 := ((s1.setObj 0xC21001 (ns.getD 0 0)).setObj 0xC30004 (ns.getD 1 0)).setObj 0xC21002 (ns.getD 2 0)
      let s3 := { s2 with life := { s2.life with fails := fails }
                          power := { s2.power with guard := Vector.ofFn fun d => guards.getD d.val 0, growth := ns.drop 11
                                                   replans := [⟨ns.getD 1 0, guards⟩] } }
      let s4 := (s3.setObj 0xA03003 (ageClock s3)).setObj 0xC30002 (unsgn 16 (leastMargin s3 guards).1)
      s4.setObj 0xA03001 (guaranteed s4 (s4.obj 0xA00001))

/-- The rail group that a group must follow (21 Table 21.5): VDD_SRAM_d comes before VDD_STRATUS_d, and the always-on and
I/O rails before every other. -/
def railBefore (g : Nat) : Option Nat := if g = 19 then none else if 8 ≤ g && g < 16 then some (g - 8) else some 19

/-- The first group that rose before the one it must follow, with that group (21 R472). -/
def railDisorder (order : List Nat) : Option (Nat × Nat) :=
  (order.zipIdx.filterMap fun p => match railBefore p.1 with
    | none => none
    | some b => if (order.take p.2).contains b then none else some (p.1, b)).head?

/-- The order of the rails recorded in RAIL_ORDER. -/
def recordRails (s : State) (order : List Nat) : State :=
  let s1 := s.modLife fun l => { l with railOrder := order }
  match railDisorder order with
  | none => s1
  | some (g, b) => raise s1 171 g b

/-- Bits of PLL_LOCK while every PLL of a die is locked (20 Table 20.5). -/
def allLocked (d : Nat) : Nat := if d = 0 then 0x1FFF else 0x3FF

/-- The host link trains (18 R404). -/
def trainLink (s : State) (rate width : Nat) : State :=
  if s.host.perstLow || s.life.stage < 3 || !s.clocks.pcieOk || s.power.tripped then s
  else
    let s1 := (s.setObj 0x690006 rate).setObj 0x690007 width
    { s1 with host := { s1.host with linkUp := true } }

/-- EN of the ports is set from PORT_ENABLE, and the ports train (10 R219). -/
def startPorts (s : State) : State :=
  s.each (allPorts.filter fun p => bitAt (s.obj 0x260001) p.val) fun t p => t.modPort p fun x =>
    { x with en := true, st := .training, slow := false }

/-- FIRMWARE_START: once every rail group holds its range, stage 2 ends. A bridge that does not train is a lasting failure
(01 R15). -/
def execFirmwareStart (rails : BitVec 20) (order : List (Fin 20)) (bridges : BitVec 10) (rate width : BitVec 8)
    (s : State) : Result :=
  .next (if s.life.stage != 2 || rails != 0 then s
    else
      let s1 := recordRails (setLevel (restoreHealth s) 170 false 0 0) (order.map (·.val))
      let s2 := { s1 with
        clocks := { s1.clocks with lock := Vector.ofFn fun d => allLocked d.val, serdesOk := true, pcieOk := true }
        power := { s1.power with dies := s1.power.dies.map fun (x : PowerDie) => { x with voltage := 750 } } }
      let s3 := startPorts (s2.modLife fun l => { l with stage := 3, railsWaited := false })
      let s4 := trainLink s3 rate.toNat width.toNat
      s4.each (onesOf 10 bridges.toNat) fun t n => failUnit t (.bridge n) 0)

/-- RAILS_WAITING: a second of waiting raises the event once (18 R402). -/
def execRailsWaiting (rails : BitVec 20) (s : State) : Result :=
  .next (if s.life.stage != 2 || s.life.railsWaited then s
    else setLevel (s.modLife fun l => { l with railsWaited := true }) 170 true rails.toNat 0)

/-! ## Stage 3 (18 R403, R415, R416) -/

/-- The Stratus layer of a package address (08 R160). -/
def layerOf (a : Nat) : Nat :=
  let o := a % 2 ^ 33
  (o / 2 ^ 8 % 4).xor ((o / 2 ^ 12 % 4).xor (o / 2 ^ 16 % 4))

/-- The key of a lane group. -/
def laneKey (d : DieId) (layer group : Nat) : Nat := (4 * d.val + layer) * 512 + group

/-- Groups of a layer with their spare lane in use. -/
def lanesUsed (s : State) (layer : Nat) : Nat := (s.life.lanes.filter fun p => p.1 / 512 == layer).length

/-- Spare rows of a layer in use. -/
def rowsUsed (s : State) (layer : Nat) : Nat := kvGet 0 s.life.rows layer

/-- A failing lane replaced by its group's spare; a second one in its group is a lasting failure of the layer. -/
def spareLane (d : DieId) (s : State) (p : Nat × Nat) : State :=
  let layer := p.1 % 4
  let group := p.2 % 512
  let k := laneKey d layer group
  if kvGet 0 s.life.lanes k = 1 then failUnit s (.stratus d.val layer) 0
  else
    let s1 := s.modLife fun l => { l with lanes := kvSet 0 l.lanes k 1 }
    raiseOn s1 d 163 (layer + 4 * group) (lanesUsed s1 (4 * d.val + layer))

/-- A page whose line at address `a` lies in a failing row given a spare row of that line's layer; a layer with none left has
failed for good. -/
def spareRow (d : DieId) (s : State) (a : Nat) : State :=
  let page := a / 512 * 512
  let layer := 4 * d.val + layerOf a
  let used := rowsUsed s layer
  if 1024 ≤ used then failUnit s (.stratus d.val (layerOf a)) 0
  else raiseOn (s.modLife fun l => { l with rows := kvSet 0 l.rows layer (used + 1) }) d 164 page (1023 - used)

/-- The objects that report spare lanes and rows: the most-used layer, and the fewest rows left (18 Table 18.10). -/
def bondObjects (s : State) : State :=
  (s.setObj 0xC21003 (maxOf ((List.range 32).map (lanesUsed s)))).setObj 0xC21004
    (1024 - maxOf ((List.range 32).map (rowsUsed s)))

/-- BOND_TEST_DUE reads 1 while a test is due. -/
def showBondDue (s : State) : State := s.setObj 0xC21005 s.life.bondDue.isSome.toNat

/-- The bond self-test of a die (18 R416), and its hour. -/
def bondTest (s : State) (d : DieId) (r : BondResult) : State :=
  let s1 := s.each r.lanes (spareLane d)
  let s2 := bondObjects (s1.each r.rows (spareRow d))
  showBondDue ((s2.setObj 0xC21002 (s2.obj 0xC21001)).modLife fun l => { l with bondDue := none, bondRaised := none })

/-- Stage 5 begins when every die has finished stage 3. -/
def endStage3 (s : State) : State :=
  if s.life.stage = 3 && s.life.stratusUp = 0xFF && s.life.hbmUp = 0xFF then s.modLife fun l => { l with stage := 5 } else s

/-- STRATUS_BRINGUP: the bond self-test, spare rows for the pages of the fenced-page table, and initialisation. -/
def execStratusBringup (die : DieId) (bond : BondResult) (s : State) : Result :=
  .next (if s.life.stage != 3 || s.life.stratusUp.getLsbD die.val then s
    else
      let s1 := bondTest s die bond
      let s2 := bondObjects (s1.each (s1.die die).fencedS (spareRow die))
      let s3 := (s2.modDie die fun m => { m with fencedS := [] }).each (List.range 8) fun t n => initRegion t die n
      endStage3 (s3.modLife fun l => { l with stratusUp := l.stratusUp ||| 1#8 <<< die.val }))

/-- HBM_BRINGUP: training with one retry, repair of the fenced pages, and initialisation. -/
def execHbmBringup (die : DieId) (fails : List Nat) (repaired : List Nat) (s : State) : Result :=
  .next (if s.life.stage != 3 || s.life.hbmUp.getLsbD die.val then s
    else
      let s1 := match fails with
        | [] => s
        | f :: _ => raiseOn s die 165 f 0
      let s2 := s1.when (2 ≤ fails.length) fun t => (fenceUnit t (.hbm die.val)).modLife fun l =>
        { l with failCause := some (l.failCause.getD (512 * die.val + 165)) }
      let s3 := s2.modDie die fun m => { m with fencedH := m.fencedH.filter fun a => !repaired.contains a }
      let s4 := s3.each ((List.range 8).map (8 + ·)) fun t n => initRegion t die n
      endStage3 (s4.modLife fun l => { l with hbmUp := l.hbmUp ||| 1#8 <<< die.val }))

/-! ## The swatch test, mapping and grades (18 R405 to R410) -/

/-- A physical core by the units of it that fail. -/
def testedCore (fails : List (Nat × Nat)) : PhysCore :=
  ⟨fails.any fun f => f.1 == 7, (List.range 5).foldl (fun b e => if fails.any fun f => f.1 == e then b ||| 1#5 <<< e else b) 0⟩

/-- Does a core run on its spare. -/
def PhysCore.onSpare (p : PhysCore) : Bool := !p.lost && (p.passing.take 4).contains 4

/-- Has a core its spare unused. -/
def PhysCore.hasSpare (p : PhysCore) : Bool := !p.lost && p.passing.length == 5

/-- What the units of one physical core that fail raise and count. -/
def reportFails (i : Nat) (s : State) (f : Nat × Nat) : State :=
  let s1 := raiseOn (s.bump 0xC20004) (dieFin (i / 4)) 160 (f.1 % 8 + 8 * (i % 4)) f.2
  s1.when (f.1 < 5) fun t => t.modLife fun l => { l with fails := kvMod 0 l.fails (5 * i + f.1) fun n => min 255 (n + 1) }

/-- The logical core that is no longer present when the physical core `i` becomes lost: the highest still taken of its
die. -/
def goneCore (old new : List PhysCore) (i : Nat) : Nat :=
  let d := i / 4
  let before := ((List.range 4).filter fun j => !((old.getD (4 * d + j) ⟨true, 0⟩).lost)).length
  let newly := ((List.range (i % 4)).filter fun j =>
    !((old.getD (4 * d + j) ⟨true, 0⟩).lost) && (new.getD (4 * d + j) ⟨true, 0⟩).lost).length
  4 * d + (before - 1 - newly)

/-- SPARE_SUBSTITUTED and CORE_LOST of one physical core. -/
def reportCore (old new : List PhysCore) (s : State) (i : Nat) : State :=
  let a := old.getD i ⟨true, 0⟩
  let b := new.getD i ⟨true, 0⟩
  let s1 := s.when (!a.onSpare && b.onSpare) fun t => raiseOn t (dieFin (i / 4)) 161 (i % 4) 4
  s1.when (!a.lost && b.lost) fun t => raiseOn t (dieFin (i / 4)) 162 (i % 4) (goneCore old new i)

/-- The objects that report the mapping. -/
def mapObjects (s : State) : State :=
  let n := popBits 32 s.life.present.toNat
  ((s.setObj 0x100008 n).setObj 0xC20001 s.life.present.toNat).setObj 0xC20005
    (s.life.phys.toList.filter PhysCore.hasSpare).length

/-- The die whose core became lost last, which STATE_CAUSE names when no core is present. -/
def lostDie (old new : List PhysCore) : Nat :=
  (((List.range 32).filter fun i => !(old.getD i ⟨true, 0⟩).lost && (new.getD i ⟨true, 0⟩).lost).getLastD 0) / 4

/-- A swatch test: every scratchpad and engine array ends holding zero, the units are mapped, and the grade follows. -/
def swatchTest (s : State) (swatch : List (List (Nat × Nat))) : State :=
  let old := s.life.phys.toList
  let fails (i : Nat) : List (Nat × Nat) := swatch.getD i []
  let s1 := { s with scratch := [], wordDev := [], wear := { s.wear with dead := [] }
                     cores := Vector.replicate 32 CoreState.reset }
  let s2 := (s1.bump 0xC20003).each (List.range 32) fun t i => t.each (fails i) (reportFails i)
  let s3 := s2.modLife fun l => { l with phys := Vector.ofFn fun i => testedCore (fails i.val) }
  let new := s3.life.phys.toList
  let s4 := s3.each (List.range 32) (reportCore old new)
  let mask := presentMask s4
  let d := mask != 2 ^ 32 - 1
  let was := s4.life.dGrade
  let s5 := mapObjects (s4.modLife fun l => { l with present := BitVec.ofNat 32 mask, dGrade := d })
  let s6 := s5.when (d != was) fun t => raise t 168 (t.life.fuse + d.toNat * 256) (popBits 32 mask)
  if mask = 0 then enterFault s6 (512 * lostDie old new + 162) else s6

/-! ## READY and PREOP (16 R370, R371, R374, 18 R400) -/

/-- A licence record keeps the format rules of 16 R372. -/
def licenceFormat (b : List Byte) : Bool :=
  b.length == 144 && leAt b 0 4 == 0x534E434C && leAt b 4 2 == 0x0100 && leAt b 6 2 == 144 && leAt b 0x1E 2 == 0
    && leAt b 0x2C 4 == 0 && leAt b 0x18 4 < 16
    && (if bitAt (leAt b 0x18 4) 1 then 65 ≤ leAt b 0x1C 2 && leAt b 0x1C 2 ≤ 256 else leAt b 0x1C 2 == 0)

/-- A licence record binds this device. -/
def licenceMine (b : List Byte) : Bool := leAt b 8 16 == Config.deviceUid % 2 ^ 128

/-- A licence record's epoch is at least the fused one. -/
def licenceCurrent (s : State) (b : List Byte) : Bool := s.life.fuseEpoch ≤ leAt b 0x28 4

/-- A licence record is valid on this device (16 R372). -/
def licenceValid (s : State) (b : List Byte) : Bool :=
  licenceFormat b && licenceMine b && licenceCurrent s b && Config.signed b

/-- The entry into PREOP: the licences are checked again, and the health record is written. -/
def enterPreop (s : State) : State :=
  let s1 := { s with mgmt := { s.mgmt with licences := s.mgmt.licences.map fun l => { l with valid := licenceValid s l.bytes } }
                     life := { s.life with epoch := s.life.fuseEpoch } }
  setDeviceState (writeHealth s1) stPreop 0

/-- A firmware slot on trial becomes active, and the fused rollback counter follows the running slot (16 R370). -/
def keepFirmware (s : State) : State :=
  let r := s.life.running
  s.modLife fun l => { l with
    active := r, trial := false, slots := vmod l.slots r fun x => { x with pending := false }
    fuseRollback := max l.fuseRollback l.slots[r].rollback }

/-- READY rises (18 R413). -/
def raiseReady (s : State) : State :=
  let us := min ((s.now - s.life.beganAt) / 25) 0xFFFFFFFF
  driveReady ((s.setObj 0xC20006 us).modLife fun l => { l with stage := 7 }) true

/-- COMPUTE_BRINGUP: stage 5 ends with READY and PREOP, or in FAULT. -/
def execComputeBringup (swatch : List (List (Nat × Nat))) (s : State) : Result :=
  .next (if s.life.stage != 5 then s
    else
      let s1 := swatchTest s swatch
      let s2 := match s1.life.failCause with
        | none => s1
        | some c => enterFault s1 c
      if s2.obj kDeviceState = stFault then s2 else enterPreop (raiseReady (keepFirmware s2)))

/-- A pending slot is abandoned: its mark is cleared, FW_FALLBACK is raised, and the package resets (18 R401). -/
def abandonSlot (s : State) : State :=
  let r := s.life.running
  let s1 := packageReset (s.modLife fun l => { l with slots := vmod l.slots r fun x => { x with pending := false } }) 5 false
  raise s1 169 s1.life.active.val r.val

/-- PENDING_SLOT_TIMEOUT. -/
def execPendingSlotTimeout (s : State) : Result :=
  .next (if s.life.trial && s.obj kDeviceState == stBoot then abandonSlot s else s)

/-! ## Compute reset (18 R399, R411, R412) -/

/-- Is a compute reset possible: in service, or in FAULT once bring-up has reached its end. -/
def resettable (s : State) : Bool := s.life.stage == 7 || (s.life.stage == 15 && s.obj 0xC20003 != 0)

/-- The current frame's contribution sealed with STOP_REQUEST, when an image is running, and sent in the wave of the next
tick, since the package's own waves are empty from now on (18 Table 18.3 step 1, 10 R231; notes/assumptions/151.md). -/
def sealStop (s : State) : State :=
  if !s.runs then s
  else
    let n := if s.run.active then s.run.frame else s.run.next
    let s1 := setContrib s n ⟨contribution s n ||| flagStop, true⟩
    let s2 := { s1 with run := { s1.run with active := false, contrib := 0 } }
    let w := s2.tick.count + 1
    if w < n + 1 || 64 ≤ w - 1 - n then s2
    else sendWave (setWave s2 w ((s2.wave w).join ⟨0, contribution s2 n % 2 ^ 16 * 2 ^ (16 * (w - 1 - n))⟩)) w

/-- A die's units but for Cirrus' work on commit records stop. -/
def stoppedUnits (u : DieUnits) : DieUnits :=
  { DieUnits.reset with cirrus := { u.cirrus with upds := [], last := 3 } }

/-- Ports in UP enter QUIESCENT, or leave it (10 R219). -/
def quiesce (s : State) (on : Bool) : State :=
  s.each allPorts fun t p => t.modPort p fun x =>
    if on then (if x.st == .up then { x with st := .quiescent } else x)
    else if x.st == .quiescent then { x with st := .up } else x

/-- Steps 1 and 2 of a compute reset begin; one in progress is only counted. -/
def computeReset (s : State) (cause : Nat) (bond : Bool) : State :=
  if s.life.resetting then s.bump 0xC20008
  else if !resettable s then s
  else
    let s1 := driveReady s false
    let s2 := s1.modLife fun l => { l with
      stage := if l.stage = 15 then 15 else 6, lastCompute := cause, computeResets := (l.computeResets + 1) % 65536
      beganAt := s.now, resetting := true, withBond := bond }
    let s3 := abortCmds ((quiesce (sealStop s2) true).each allDies fun t d => enterQueue t d 1)
    let s4 := freezeImage s3
    { s4 with units := s4.units.map stoppedUnits, cirrusOn := [] }

/-- Does Cirrus still work on a commit record (14 R332). -/
def cirrusBusy (s : State) : Bool := allDies.any fun d => (s.unit d).cirrus.recs.any fun r => r.busy != 0

/-- Step 3: units and cores are reset, and the image is discarded. -/
def resetUnits (s : State) : State :=
  let s1 := { s with
    run := { Run.reset with imported := s.run.imported, scales := s.run.scales, decided := s.run.decided }
    units := Vector.replicate 8 DieUnits.reset, cirrusOn := [], faulted := none
    cores := Vector.replicate 32 CoreState.reset, mgmt := { s.mgmt with imageBytes := [] }
    power := { s.power with halted := false }, tick := { s.tick with contribs := [] } }
  let s2 := s1.each allDies fun t d => t.modDie d fun m => { m with bulk := Vector.replicate 8 none }
  refreshAllClocks (clearFloors s2)

/-- Step 4: the bond self-test when it is asked for or due, and every Stratus region initialised. -/
def resetStratus (s : State) (bond : List BondResult) : State :=
  let s1 := s.when (s.life.withBond || s.life.bondDue.isSome) fun t => t.each allDies fun u d =>
    bondTest u d (bond.getD d.val ⟨[], []⟩)
  s1.each allDies fun t d => t.each (List.range 8) fun u n => initRegion u d n

/-- Step 6: READY rises, ports leave QUIESCENT, and a stopped package is OPERATIONAL again. -/
def endReset (s : State) : State :=
  let s1 := (quiesce s false).modLife fun l => { l with resetting := false, withBond := false }
  if s1.obj kDeviceState = stFault then s1
  else
    let s2 := raiseReady s1
    s2.when (s2.obj kDeviceState == stStopped) fun t => setDeviceState t stOperational 0

/-- COMPUTE_RESET_CONTINUE: once no refresh or repair runs, steps 3 to 6. -/
def execComputeResetContinue (bond : List BondResult) (swatch : List (List (Nat × Nat))) (s : State) : Result :=
  .next (if !s.life.resetting || cirrusBusy s then s
    else endReset (swatchTest (resetStratus (resetUnits s) bond) swatch))

/-! ## Function level resets and PERST_N (15 R340, 16 R360, 18 R396, R404) -/

/-- The MSI-X table of a function returns to its reset values. -/
def resetVectors (s : State) (fn : Nat) : State :=
  { s with host := { s.host with
      msixAddr := s.host.msixAddr.filter fun p => p.1 / 4096 != fn
      msixData := s.host.msixData.filter fun p => p.1 / 4096 != fn
      msixPend := s.host.msixPend.filter fun p => p.1 / 4096 != fn } }

/-- A function level reset of function 0, with the code of its cause. -/
def flr0 (s : State) (cause : Nat) : State :=
  let s1 := computeReset (disableHost (abortCmds s)) cause false
  let s2 := resetVectors s1 0
  { s2 with host := { s2.host with bar2Log2 := 41, cfg := s2.host.cfg.set 0 .reset } }

/-- FLR_FUNCTION0. -/
def execFlrFunction0 (s : State) : Result := .next (flr0 s 6)

/-- Every lock of a master ends. -/
def dropLocks (s : State) (m : Nat) : State := { s with mgmt := { s.mgmt with locks := s.mgmt.locks.filter fun l => l.2 != m } }

/-- A function level reset of function 1: the mailbox is cleared and every host lock released. -/
def flr1 (s : State) : State :=
  let s1 := resetVectors (dropLocks s 0) 1
  { s1 with host := { s1.host with cfg := s1.host.cfg.set 1 .reset }
            mgmt := { s1.mgmt with irqEn := false, kind := false, busy := false, mbxDone := false, request := [], response := []
                                   evIndex := 0, evState := false, evLock := false } }

/-- FLR_FUNCTION1. -/
def execFlrFunction1 (s : State) : Result := .next (flr1 s)

/-- The host link goes down. -/
def linkDown (s : State) : State :=
  let s1 := (s.setObj 0x690006 0).setObj 0x690007 0
  { s1 with host := { s1.host with linkUp := false } }

/-- PERST_N_ASSERT. -/
def execPerstNAssert (s : State) : Result :=
  .next (if s.host.perstLow then s
    else
      let s1 := linkDown (flr1 (flr0 s 7))
      { s1 with host := { s1.host with perstLow := true } })

/-- PERST_N_RELEASE. -/
def execPerstNRelease (rate : BitVec 8) (link : LinkSetup) (s : State) : Result :=
  .next (if s.host.perstLow then
      let s1 := trainLink { s with host := { s.host with perstLow := false } } rate.toNat link.width.toNat
      s1.when s1.host.linkUp fun t => resizeBar2 t link.bar2.toNat
    else s)

/-! ## Hours (18 R417) and fuses (16 R374) -/

/-- OPERATING_HOUR. -/
def execOperatingHour (s : State) : Result :=
  let s1 := s.bump 0xC21001
  let h := s1.obj 0xC21001
  .next (if s1.life.bondDue.isNone && s1.obj 0x2A0003 ≤ (h + 2 ^ 32 - s1.obj 0xC21002) % 2 ^ 32 then
      showBondDue (s1.modLife fun l => { l with bondDue := some h })
    else s1)

/-- BOND_TEST_GRACE_EXPIRY: a test still due after its grace raises the event on every die, and again every 24 hours. -/
def execBondTestGraceExpiry (s : State) : Result :=
  let h := s.obj 0xC21001
  let again := match s.life.bondRaised with
    | none => true
    | some r => r + 24 ≤ h
  .next (match s.life.bondDue with
    | none => s
    | some t =>
      if t + s.obj 0x2A0004 ≤ h && again then
        (s.each allDies fun u d => raiseOn u d 166 ((h + 2 ^ 32 - s.obj 0xC21002) % 2 ^ 32) 0).modLife fun l =>
          { l with bondRaised := some h }
      else s)

/-- FUSE_UPDATE: fuses only rise. -/
def execFuseUpdate (epoch : BitVec 32) (rollback : BitVec 16) (s : State) : Result :=
  .next (s.modLife fun l => { l with
    fuseEpoch := max l.fuseEpoch epoch.toNat, fuseRollback := max l.fuseRollback rollback.toNat })

/-! ## Zenith watchdogs (16 R352, R353, 17 R388) -/

/-- ZENITH_WATCHDOG_EXPIRY: the core's claims end, its die's controller enters QUEUE mode, and its firmware restarts; a second
expiry within 1 s is a lasting failure, which abandons a slot on trial. -/
def execZenithWatchdogExpiry (die : DieId) (s : State) : Result :=
  let last := s.mgmt.watchdog[die]
  let twice := match last with
    | none => false
    | some t => s.now < t + cyclesOfMs 1000
  let s1 := endClaims s (claimsOf s die)
  let s2 := (enterQueue s1 die 2).bump 0x100206
  let s3 := { s2 with irq := { s2.irq with restarting := s2.irq.restarting ||| 1#8 <<< die.val }
                      mgmt := { s2.mgmt with watchdog := s2.mgmt.watchdog.set die (some s.now) } }
  let s4 := raiseOn s3 die 35 (s3.obj 0x100206) 0
  .next (if !twice then s4
    else if s4.life.trial then abandonSlot s4
    else failUnit s4 (.zenith die.val) (512 * die.val + 35))

end Sys2Proof.Machine
end

