-- ==== Sys2Proof/Machine/Refs.lean ====
section
/-!
DEFINITION. Machine/Refs.lean: loss of lock and of references, and crossings that time out (20 R454 to R459).
-/
namespace Sys2Proof.Machine

/-- The clocks changed. -/
def State.modClocks (s : State) (f : Clocks → Clocks) : State := { s with clocks := f s.clocks }

/-! ## PLLs (20 R456) -/

/-- Has die `d` the PLL of a bit of PLL_LOCK: PCIe, tick timebase and fuse PLLs are on die 0. -/
def hasPll (d : DieId) (pll : Nat) : Bool := bitAt (allLocked d.val) pll

/-- A PLL loses lock: it is counted and reported, and a second loss within 1 s is lasting. -/
def loseLock (s : State) (d : DieId) (pll us : Nat) : State :=
  if !hasPll d pll || !bitAt s.clocks.lock[d] pll then s
  else
    let k := 16 * d.val + pll
    let twice := match kvGet none s.clocks.lost k with
      | none => false
      | some t => s.now < t + cyclesOfMs 1000
    let s1 := s.modClocks fun c => { c with
      lock := vmod c.lock d fun v => setBitAt v pll false, lost := kvSet none c.lost k (some s.now) }
    let s2 := raiseOn (s1.bump 0x692002) d 97 pll (if twice then 0 else us)
    s2.when twice fun t => enterFault t (512 * d.val + 97)

/-- PLL_UNLOCK. -/
def execPllUnlock (die : DieId) (pll : Fin 13) (us : Nat) (s : State) : Result := .next (loseLock s die pll.val us)

/-- Is the reference that feeds a PLL within limits: PLLs 0 to 8 take the SerDes reference, PLL 10 the PCIe one. -/
def fedPll (s : State) (pll : Nat) : Bool :=
  if pll ≤ 8 then s.clocks.serdesOk else if pll = 10 then s.clocks.pcieOk else true

/-- PLL_RELOCK. -/
def execPllRelock (die : DieId) (pll : Fin 13) (s : State) : Result :=
  .next (if hasPll die pll.val && fedPll s pll.val && 3 ≤ s.life.stage then
      s.modClocks fun c => { c with lock := vmod c.lock die fun v => setBitAt v pll.val true }
    else s)

/-! ## References (20 R457) -/

/-- Every PLL that the SerDes reference feeds loses lock; how long each takes to relock is not known. -/
def losePlls (s : State) : State :=
  let r := s.draw
  r.2.each allDies fun t d => t.each (List.range 9) fun u pll => loseLock u d pll r.1

/-- Every port loses codeword lock. -/
def losePorts (s : State) : State := s.each allPorts fun t p => settlePort p (enterRetraining t p 2)

/-- REFCLK_LOSS. -/
def execRefclkLoss (ref : Fin 3) (khz : Nat) (s : State) : Result :=
  let s1 := raise (s.bump 0x692003) 98 ref.val khz
  .next (match ref.val with
    | 0 => linkDown (s1.modClocks fun c => { c with pcieOk := false })
    | 1 => losePlls (losePorts (s1.modClocks fun c => { c with serdesOk := false }))
    | _ => enterFault (stopRequest (s1.modClocks fun c => { c with aonInternal := true }) 98) 98)

/-- REFCLK_RETURN. -/
def execRefclkReturn (ref : Fin 2) (rate width : BitVec 8) (s : State) : Result :=
  .next (if s.life.stage < 3 then s
    else if ref.val = 0 then
      if s.clocks.pcieOk then s else trainLink (s.modClocks fun c => { c with pcieOk := true }) rate.toNat width.toNat
    else s.modClocks fun c => { c with serdesOk := true })

/-! ## Crossings (20 R454, R455) -/

/-- The die that a BAR0 offset belongs to; package-level blocks are die 0's. None for a reserved offset, and for a block whose
clock never stops or that is reached through no crossing: clocks and health, interrupts, and an absent core's (00 R5, 20 R449,
R454, R459). -/
def crossingDie (s : State) (offset : Nat) : Option DieId :=
  let block := offset / 2 ^ 20 % 16
  if 0x9000000 ≤ offset then none
  else if offset < 0x1000000 then some 0
  else
    let d := dieFin (offset / 2 ^ 24 - 1)
    if block = 9 || block = 7 then none
    else if block = 1 && !s.present (coreFin (4 * d.val + offset / 2 ^ 18 % 4)) then none
    else some d

/-- REQUESTER of a requester: host, Zenith core or debug block. -/
def requesterCode (req : Nat) : Nat := if req = 0 then 0 else if req ≤ 8 then 1 else 2

/-- A value returned to the requester of a read of `n` bytes. -/
def returnRead (s : State) (req : Fin 17) (n value : Nat) : State :=
  if req.val = 0 then s.emit (.readData (leBytes n value) false)
  else if req.val ≤ 8 then s.emit (.zenithRead (req.val - 1) (value % 2 ^ (8 * n)))
  else s.emit (.debugRead (req.val - 9) (value % 2 ^ (8 * n)))

/-- A snapshot kept for a requester. -/
def setSnap (s : State) (req : Fin 17) (addr value : Nat) : State :=
  s.modClocks fun c => { c with snaps := c.snaps.set req (some (addr, value)) }

/-- CROSSING_TIMEOUT: a read completes with all ones, a write is discarded. -/
def execCrossingTimeout (req : Fin 17) (write half : Bool) (offset : BitVec 28) (s : State) : Result :=
  .next (match crossingDie s offset.toNat with
    | none => s
    | some d =>
      let q := requesterCode req.val
      let s1 := s.modClocks fun c => { c with cross := vmod c.cross d fun x =>
        (if x.timeout then x else ⟨true, q, write, offset.toNat⟩) }
      let s2 := raiseOn (s1.bump 0x692001) d 96 offset.toNat (q + 4 * write.toNat)
      if write then s2
      else
        let s3 := s2.when (half && offset.toNat % 8 == 0) fun t => setSnap t req offset.toNat (2 ^ 64 - 1)
        returnRead s3 req (if half then 4 else 8) (2 ^ 64 - 1))

/-- CROSS_INFO cleared (20 R459). -/
def clearCross (s : State) (d : DieId) : State :=
  s.modClocks fun c => { c with cross := c.cross.set d ⟨false, 0, false, 0⟩ }

/-- CROSS_INFO_CLEAR. -/
def execCrossInfoClear (die : DieId) (s : State) : Result := .next (clearCross s die)

end Sys2Proof.Machine
end

