-- ==== Sys2Proof/Machine/Manage.lean ====
section
/-!
DEFINITION. Machine/Manage.lean: the Enytre dictionary as its two masters reach it: values, messages, locks, state commands and
the host mailbox (16 R351 to R369, R378). Masters: 0 the host, 1 Contrail.
-/
namespace Sys2Proof.Machine

/-! ## Values of objects (16 R356, R378, and the object tables of the other chapters) -/

/-- ASCII text as bytes. -/
def textBytes (t : String) : List Byte := t.toList.map fun c => BitVec.ofNat 8 c.toNat

/-- The name of the fused grade. -/
def gradeName (s : State) : String :=
  match s.life.fuse with
  | 0x40 => "T40"
  | 0x32 => "T32"
  | 0x26 => "T26"
  | _ => ""

/-- ORDERING_CODE (00 Table 0.1). -/
def orderingCode (s : State) : String := if gradeName s = "" then "" else "SHV-K8-" ++ gradeName s

/-- Locks that a master holds. -/
def lockCount (s : State) (m : Nat) : Nat := (s.mgmt.locks.filter fun l => l.2 == m).length

/-- The pending slot's version; 0 when none is. -/
def pendingVersion (s : State) : Nat := ((pendingSlot s).map fun i => s.life.slots[i].version).getD 0

/-- ENGINE_MAP (18 Table 18.10): 8 bytes by physical core. -/
def engineMap (s : State) : List Byte :=
  ((List.range 32).map fun i =>
    let x := (s.life.phys.toList)[i]?.getD ⟨true, 0⟩
    let pos := positions s (dieFin (i / 4))
    let logical := if s.life.present = 0 then 0xFF else ((indexOf? (· == i % 4) pos).map (4 * (i / 4) + ·)).getD 0xFF
    let eng (k : Nat) : Nat := if x.lost then 0xFF else x.passing.getD k 0xFF
    leBytes 1 logical ++ leBytes 1 (eng 0) ++ leBytes 1 (eng 1) ++ leBytes 1 (eng 2) ++ leBytes 1 (eng 3)
      ++ leBytes 1 x.failed.toNat ++ leBytes 1 (if x.hasSpare then eng 4 else 0xFF) ++ leBytes 1 0).flatten

/-- FENCE_LOG: die, memory and address of each entry, oldest first (09 R208). -/
def fenceLogBytes (s : State) : List Byte :=
  (s.fenceLog.reverse.map fun e => leBytes 1 e.1 ++ leBytes 1 e.2.1 ++ leBytes 6 e.2.2).flatten

/-- The quotient of two numbers as FP32. -/
def ratioF32 (a b : Nat) : Nat :=
  if b = 0 then 0 else (fdiv (toF32 (.fin false a 0)) (toF32 (.fin false b 0))).toNat

/-- One entry of PHASE_TABLE: the dies' energies add up, and the frame time is that of die 0 (19 Table 19.9). -/
def phaseEntry (s : State) (tag : Nat) : List Byte :=
  let r (d : DieId) : PhaseRec := kvGet ⟨0, [], 0⟩ (s.pdie d).phases tag
  let r0 := r 0
  let n := r0.occs.length
  let uj := sumOf (allDies.map fun d => sumOf ((r d).occs.map (·.1)))
  leBytes 4 r0.count ++ leBytes 4 (ratioF32 uj (n * 10 ^ 6)) ++ leBytes 4 (ratioF32 (sumOf (r0.occs.map (·.2.2))) n)
    ++ leBytes 2 r0.lastClock ++ leBytes 2 0

/-- PHASE_TABLE (0xA200:01). -/
def phaseTable (s : State) : List Byte := ((List.range 256).map (phaseEntry s)).flatten

/-- The guard bands last planned, in mV. -/
def guardBytes (s : State) : List Byte :=
  ((s.power.replans.headD ⟨0, s.power.guard.toList⟩).guards.take 8).flatMap fun g => leBytes 2 g

/-- SCRUB_PROGRESS: the percentage of the least-advanced sweep (09 R205). -/
def scrubProgress (s : State) : Nat :=
  allDies.foldl (fun m d =>
    let x := s.die d
    min m (min (x.sweepS % 2 ^ 33 * 100 / 2 ^ 33) (x.sweepH % 2 ^ 36 * 100 / 2 ^ 36))) 100

/-- FENCED_PAGES: the entries now in all fenced-page tables (09 Table 9.12). -/
def fencedPages (s : State) : Nat := sumOf (allDies.map fun d => (s.die d).fencedS.length + (s.die d).fencedH.length)

/-- RAIL_ORDER: 20 bytes, 0xFF for a group that did not rise (21 Table 21.10). -/
def railOrderBytes (s : State) : List Byte :=
  (s.life.railOrder.map (BitVec.ofNat 8) ++ List.replicate 20 0xFF#8).take 20

/-- The bytes of an object that is no number, or that is read from another part of the state. -/
def specialBytes (s : State) (key : Nat) : Option (List Byte) :=
  match key with
  | 0x100001 => some (textBytes "Lompen Microsystems")
  | 0x100002 => some (textBytes "Shavis K8")
  | 0x100003 => some (textBytes (orderingCode s))
  | 0x100004 => some (textBytes (gradeName s ++ if s.life.dGrade then "D" else ""))
  | 0x100005 => some (Config.serial.take 32)
  | 0x100006 => some (leBytes 16 Config.deviceUid)
  | 0x100201 => some (leBytes 4 s.life.slots[s.life.running].version)
  | 0x100202 => some (leBytes 4 (pendingVersion s))
  | 0x100203 => some (leBytes 1 s.life.running.val)
  | 0x100204 => some (leBytes 2 s.life.fuseRollback)
  | 0x100205 => some (leBytes 8 Config.flashBytes)
  | 0x110103 => some (leBytes 1 (lockCount s 0))
  | 0x110104 => some (leBytes 1 (lockCount s 1))
  | 0x120001 => some Config.sensorMap
  | 0xA04001 => some (railOrderBytes s)
  | 0xA20001 => some (phaseTable s)
  | 0xC1000B => some (leBytes 1 (scrubProgress s))
  | 0xC10005 => some (leBytes 2 (fencedPages s))
  | 0xC11001 => some (fenceLogBytes s)
  | 0xC20002 => some (engineMap s)
  | 0xC20007 => some ((List.range 160).map fun i => BitVec.ofNat 8 (kvGet 0 s.life.fails i))
  | 0xC30001 => some (guardBytes s)
  | 0xD00001 => some (leBytes 4 s.features)
  | 0xD00002 => some (leBytes 2 s.maxGroup)
  | 0xD00003 => some (leBytes 1 s.mgmt.licences.length)
  | 0xD00004 => some (leBytes 4 s.life.fuseEpoch)
  | 0xD01001 => some (leBytes 1 (s.mgmt.spdm.toList.filter (·.session)).length)
  | _ => if key / 256 = 0xD001 then some (((s.mgmt.licences[key % 256 - 1]?).map (·.bytes)).getD []) else none

/-- The bytes of an object's value. -/
def objBytes (s : State) (o : Obj) (key : Nat) : List Byte := (specialBytes s key).getD (leBytes (o.type.width / 8) (s.obj key))

/-! ## Messages (16 R356, R357) -/

/-- The status codes of Table 16.4. -/
def stOk : Nat := 0
/-- UNKNOWN_OBJECT. -/
def stUnknown : Nat := 1
/-- ACCESS. -/
def stAccess : Nat := 2
/-- LENGTH. -/
def stLength : Nat := 3
/-- RANGE. -/
def stRange : Nat := 4
/-- STATE. -/
def stState : Nat := 5
/-- LOCKED. -/
def stLocked : Nat := 6
/-- ADMISSION. -/
def stAdmission : Nat := 7
/-- LICENCE. -/
def stLicence : Nat := 8
/-- BUSY. -/
def stBusy : Nat := 9
/-- OFFSET. -/
def stOffset : Nat := 10
/-- OPCODE. -/
def stOpcode : Nat := 11
/-- LIMIT. -/
def stLimit : Nat := 12

/-- An Enytre request (16 Table 16.3). -/
structure EnyReq where
  op : Nat
  seq : Nat
  index : Nat
  sub : Nat
  len : Nat
  off : Nat
  data : List Byte

/-- What answers a request: its status, the OFFSET field, and data. -/
structure EnyAnswer where
  status : Nat
  off : Nat
  data : List Byte

/-- An answer without data, with the request's OFFSET. -/
def plainAnswer (q : EnyReq) (st : Nat) : EnyAnswer := ⟨st, q.off, []⟩

/-- A response message: the opcode with bit 7 set, SEQ, INDEX and SUBINDEX echoed. -/
def answerBytes (q : EnyReq) (a : EnyAnswer) : List Byte :=
  enytreHead (q.op % 128 + 128) q.seq q.index q.sub a.status a.data.length a.off ++ a.data

/-- The key of the object that a request names. -/
def EnyReq.key (q : EnyReq) : Nat := objKey q.index q.sub

/-! ## States (16 R355) -/

/-- Indices that BOOT and a FAULT without firmware serve. -/
def earlyIndex (index : Nat) : Bool := index / 0x1000 == 1 || index / 0x1000 == 0xD

/-- Does firmware run: it has been started since the last package reset. -/
def firmwareRuns (s : State) : Bool := s.life.stage != 1 && (s.life.stage != 15 || s.clocks.lock.toList.any (· != 0))

/-- Objects of units whose clocks a thermal trip has stopped (19 R441, 20 R454). -/
def stoppedIndex (s : State) (index : Nat) : Bool :=
  s.power.tripped && 0x2000 ≤ index && index < 0xA000 && index != 0x2A00

/-- Does Table 16.2 permit a request to an index. -/
def statePermitsReq (s : State) (write : Bool) (index : Nat) : Bool :=
  let st := s.obj kDeviceState
  if stoppedIndex s index then false
  else if st = stBoot then !write && earlyIndex index
  else if st = stFault then !write && (firmwareRuns s || earlyIndex index)
  else true

/-! ## Reads (16 R358) -/

/-- The two objects that only the timing of requests and of clocks moves, brought up to date as free values when they are
read: HBM_TAGS_PEAK, at most the 8,192 tags of a stack (08 Table 8.4), and CROSS_FALLBACKS, which only grows (20 R452). -/
def bringUpToDate (s : State) (key : Nat) : State :=
  if key = 0x64000E then let r := s.draw; r.2.setObj key (r.1 % 8193)
  else if key = 0x692004 then let r := s.draw; r.2.bumpBy key r.1
  else s

/-- The two objects that a read clears: WAVE_SETTLE_MAX and POWER_PEAK. -/
def clearRead (s : State) (key : Nat) : State := s.when (key == 0x610007 || key == 0xA10003) fun t => t.setObj key 0

/-- A master's snapshot replaced. -/
def setObjSnap (s : State) (m : Fin 2) (x : Snap) : State :=
  { s with mgmt := { s.mgmt with snaps := s.mgmt.snaps.set m (some x) } }

/-- The value of a READ: at OFFSET 0 a new snapshot, else bytes of the master's last one if it is younger than 1 s. -/
def readObject (s : State) (m : Fin 2) (o : Obj) (q : EnyReq) : EnyAnswer × State :=
  if o.access = .wo then (⟨stAccess, q.off, List.replicate q.len 0⟩, s)
  else if q.off = 0 then
    let s1 := bringUpToDate s q.key
    let bs := objBytes s1 o q.key
    (⟨stOk, bs.length, bs.take q.len⟩, setObjSnap (clearRead s1 q.key) m ⟨q.key, bs, s.now⟩)
  else match s.mgmt.snaps[m] with
    | none => (plainAnswer q stOffset, s)
    | some x =>
      if x.key = q.key && s.now < x.time + cyclesOfMs 1000 && q.off ≤ x.bytes.length then
        (⟨stOk, x.bytes.length, (x.bytes.drop q.off).take q.len⟩, s)
      else (plainAnswer q stOffset, s)

/-! ## State commands (16 R354) -/

/-- The values of every RWP object, in ascending index and subindex (16 R376). -/
def rwpValuesOf (s : State) : List (Nat × Nat) :=
  (objRows.filter fun o => o.access == .rwp).map fun o => (objKey o.index o.sub, s.obj (objKey o.index o.sub))

/-- A write to STATE_COMMAND. -/
def stateCommand (s : State) (v : Nat) : Nat × State :=
  let st := s.obj kDeviceState
  if v = 1 then
    if st = stPreop then
      let s1 := { s with mgmt := { s.mgmt with rwpValues := rwpValuesOf s } }
      (stOk, setDeviceState s1 stOperational 0)
    else (stState, s)
  else if v = 2 then
    if st = stOperational && !s.hasImage then (stOk, enterPreop s) else (stState, s)
  else if v = 3 then
    if s.hasImage && (st = stOperational || st = stStopped) then (stOk, stopNow s) else (stState, s)
  else (stRange, s)

/-! ## Writes (16 R357, R365) -/

/-- The master that holds an index. -/
def holder (s : State) (index : Nat) : Option Nat := (s.mgmt.locks.find? fun l => l.1 == index).map (·.2)

/-- May a master write an index: it is free or its own, or the object is accepted whatever lock is held. -/
def mayWrite (s : State) (m : Fin 2) (q : EnyReq) : Bool :=
  match holder s q.index with
  | none => true
  | some h => h == m.val || (q.key == 0x100102 && leAt q.data 0 1 == 3)
      || ((q.key == 0x2A0001 || q.key == 0x2A0002) && q.data.length == 1)

/-- Objects whose chapters refuse a write while an image is loaded (05 R122, 13 R303, 14 R335). -/
def imageLocked (index : Nat) : Bool := index == 0x2300 || index == 0x2700 || index == 0x2800

/-- Does a value lie in an object's range; the range of POWER_BUDGET is the grade's. -/
def valueOk (s : State) (o : Obj) (key v : Nat) : Bool :=
  if key = 0xA00001 then s.grade.floor ≤ v && v ≤ s.grade.cap
  else
    let x : Int := if o.type = .i16 then sgn 16 v else v
    o.lo ≤ x && x ≤ o.hi

/-- What else a written value does at once: a new tick mode starts its source of ticks afresh, and the base period is the
period until a stretch or another source sets one (02 R24, R25, R38). -/
def afterWrite (s : State) (key : Nat) : State :=
  if key = kTickMode then
    s.modTick fun x => { x with
      seen := none, holds := [], edges := [], edgesSeen := 0, lateRun := 0, clearRun := 0, period := s.obj kBasePeriod }
  else if key = kBasePeriod && (s.obj kTickMode != 1 || s.tick.markerBase.isNone) && s.tick.edgesSeen < 2 then
    s.modTick fun x => { x with period := s.obj kBasePeriod }
  else s

/-- A host reservation written while an image is loaded: admission runs again with the new value (02 R36). -/
def writeReservation (s : State) (q : EnyReq) (v : Nat) : EnyAnswer × State :=
  match s.run.image with
  | none => (plainAnswer q stOk, s.setObj q.key v)
  | some img =>
    let w := admission (s.setObj q.key v) img true none
    if w.reason = 0 then (plainAnswer q stOk, setVerdict (s.setObj q.key v) w)
    else (⟨stAdmission, q.off, leBytes 2 w.reason⟩, setVerdict s w)

/-- A value that has passed the checks of R357 written. -/
def storeObject (s : State) (q : EnyReq) (v : Nat) : EnyAnswer × State :=
  match q.key with
  | 0x100102 => let r := stateCommand s v; (plainAnswer q r.1, r.2)
  | 0x2A0001 => if v = 0xA5 then (plainAnswer q stOk, packageReset s 3 false) else (plainAnswer q stRange, s)
  | 0x2A0002 => if v = 1 || v = 2 then (plainAnswer q stOk, computeReset s 8 (v == 2)) else (plainAnswer q stRange, s)
  | 0x211002 => writeReservation s q v
  | 0x211004 => writeReservation s q v
  | 0x211005 => writeReservation s q v
  | k => (plainAnswer q stOk, afterWrite (s.setObj k v) k)

/-- A WRITE of an object. -/
def writeObject (s : State) (m : Fin 2) (o : Obj) (q : EnyReq) : EnyAnswer × State :=
  let v := leAt q.data 0 (o.type.width / 8)
  if o.access = .ro || o.access = .const then (plainAnswer q stAccess, s)
  else if !mayWrite s m q then (plainAnswer q stLocked, s)
  else if q.off != 0 then (plainAnswer q stOffset, s)
  else if q.len != o.type.width / 8 then (plainAnswer q stLength, s)
  else if o.access = .rwp && s.obj kDeviceState != stPreop then (plainAnswer q stState, s)
  else if imageLocked q.index && s.hasImage then (plainAnswer q stState, s)
  else if !valueOk s o q.key v then (plainAnswer q stRange, s)
  else storeObject s q v

/-! ## Locks (16 R364 to R368) -/

/-- Has a master precedence for an index: Contrail in the safety class, the host in the workload class. -/
def precedence (m : Fin 2) (index : Nat) : Bool :=
  if m.val = 1 then 0xA000 ≤ index && index < 0xC000 else 0x2000 ≤ index && index < 0x6000

/-- A lock of a master has been broken, or its lease has expired: it is counted, and the master is told. -/
def tellBroken (s : State) (m index : Nat) : State :=
  let s1 := s.bump 0x110102
  if m = 0 then
    signalVector { s1 with mgmt := { s1.mgmt with evLock := true, evIndex := index } } 1 1
  else notifyContrail s1 index 0 []

/-- LOCK. -/
def lockIndex (s : State) (m : Fin 2) (q : EnyReq) : EnyAnswer × State :=
  let take (t : State) : EnyAnswer × State :=
    if 64 ≤ lockCount t m.val then (plainAnswer q stLimit, s)
    else (plainAnswer q stOk, { t with mgmt := { t.mgmt with locks := (q.index, m.val) :: t.mgmt.locks } })
  match holder s q.index with
  | none => take s
  | some h =>
    if h = m.val then (plainAnswer q stOk, s)
    else if !precedence m q.index then (plainAnswer q stLocked, s)
    else if 64 ≤ lockCount s m.val then (plainAnswer q stLimit, s)
    else take (tellBroken { s with mgmt := { s.mgmt with locks := s.mgmt.locks.filter fun l => l.1 != q.index } } h q.index)

/-- UNLOCK: a lock of the other master stays. -/
def unlockIndex (s : State) (m : Fin 2) (q : EnyReq) : EnyAnswer × State :=
  match holder s q.index with
  | some h => if h = m.val then
      (plainAnswer q stOk, { s with mgmt := { s.mgmt with locks := s.mgmt.locks.filter fun l => l.1 != q.index } })
    else (plainAnswer q stLocked, s)
  | none => (plainAnswer q stOk, s)

/-- LOCK_LEASE_EXPIRY: every lock of the master ends. -/
def execLockLeaseExpiry (master : Fin 2) (s : State) : Result :=
  let mine := (s.mgmt.locks.filter fun l => l.2 == master.val).map (·.1)
  .next ((dropLocks s master.val).each mine fun t i => tellBroken t master.val i)

/-! ## Descriptions (16 R356) -/

/-- The type code of a type. -/
def typeCode : ObjType → Nat
  | .bool => 1 | .u8 => 2 | .u16 => 3 | .u32 => 4 | .u64 => 5 | .i16 => 7 | .f32 => 10 | .string => 11 | .octets => 12
  | .record => 13

/-- The access code of an access class. -/
def accessCode : ObjAccess → Nat
  | .ro => 1 | .rw => 2 | .wo => 3 | .const => 4 | .rwp => 5

/-- DESCRIBE. -/
def describeObject (s : State) (o : Obj) (q : EnyReq) : EnyAnswer × State :=
  (⟨stOk, q.off, leBytes 1 (typeCode o.type) ++ leBytes 1 (accessCode o.access) ++ leBytes 2 0
    ++ leBytes 4 (objBytes s o q.key).length⟩, s)

/-! ## A request (16 R355 to R359, R374, R377) -/

/-- Is a request of Contrail refused because it came outside a secured session. -/
def notSecure (s : State) (m : Fin 2) (op : Nat) (secure : Bool) : Bool :=
  m.val == 1 && s.obj 0xD01003 == 1 && 2 ≤ op && op ≤ 4 && !(secure && s.mgmt.spdm[m].session)

/-- Does a request need a licence that is absent: extended telemetry (16 R374). -/
def unlicensed (s : State) (key : Nat) : Bool := key == 0xA20001 && !s.licensed 3

/-- The answer to a request, and what it does. -/
def answerRequest (s : State) (m : Fin 2) (q : EnyReq) (secure : Bool) : EnyAnswer × State :=
  if q.op = 0 || 5 < q.op then (plainAnswer q stOpcode, s)
  else if 1024 < q.len then (plainAnswer q stLength, s)
  else if notSecure s m q.op secure then (plainAnswer q stAccess, s)
  else if q.op = 3 || q.op = 4 then
    if !objIndexExists q.index then (plainAnswer q stUnknown, s)
    else if !statePermitsReq s true q.index then (plainAnswer q stState, s)
    else if q.op = 3 then lockIndex s m q else unlockIndex s m q
  else match objFind q.index q.sub with
    | none => (plainAnswer q stUnknown, s)
    | some o =>
      if !statePermitsReq s (q.op == 2) q.index then (plainAnswer q stState, s)
      else if unlicensed s q.key then (plainAnswer q stLicence, s)
      else match q.op with
        | 1 => readObject s m o q
        | 2 => writeObject s m o q
        | _ => describeObject s o q

/-- A response to the host: it fills the response buffer, clears BUSY, sets DONE and signals vector 0 (16 R360). -/
def answerHost (s : State) (bs : List Byte) : State :=
  let s1 := { s with mgmt := { s.mgmt with response := bs, busy := false, mbxDone := true } }
  (s1.when s1.mgmt.irqEn fun t => signalVector t 1 0).emit (.reply 0 bs)

/-- A message to the master on Contrail, announced by an in-band interrupt (16 R361, R362). -/
def answerContrail (s : State) (type : Nat) (bs : List Byte) : State := (s.emit (.mctp type bs)).emit (.pin 3 true)

/-- Is a master served: Contrail from stage 2, function 1 from the end of stage 2 while its clock runs, and neither while the
primary Zenith core restarts (16 R353, 18 R400, R404). -/
def served (s : State) (m : Fin 2) : Bool :=
  s.powered && !s.irq.restarting.getLsbD 0 && s.life.stage != 1 && (m.val == 1 || (3 ≤ s.life.stage && s.alive))

/-- An answer delivered to a master. -/
def deliverAnswer (s : State) (m : Fin 2) (bs : List Byte) : State :=
  if m.val = 0 then answerHost s bs else answerContrail s 0x7E (mctpVendor ++ bs)

/-- A request of a master processed and answered; one that resets the package is answered first. -/
def request (s : State) (m : Fin 2) (q : EnyReq) (secure : Bool) : State :=
  if !served s m then s
  else
    let r := answerRequest s m q secure
    let bs := answerBytes q r.1
    if r.2.life.stage = 1 then packageReset (deliverAnswer s m bs) 3 false else deliverAnswer r.2 m bs

/-- ENYTRE_READ. -/
def execEnytreRead (master : Fin 2) (seq : BitVec 8) (index : BitVec 16) (sub : BitVec 8) (len : BitVec 16)
    (offset : BitVec 32) (secure : Bool) (s : State) : Result :=
  .next (request s master ⟨1, seq.toNat, index.toNat, sub.toNat, len.toNat, offset.toNat, []⟩ secure)

/-- A WRITE request with its data. -/
def writeReq (seq : BitVec 8) (index sub off : Nat) (data : List Byte) : EnyReq :=
  ⟨2, seq.toNat, index, sub, data.length, off, data⟩

/-- ENYTRE_WRITE. -/
def execEnytreWrite (master : Fin 2) (seq : BitVec 8) (index : BitVec 16) (sub : BitVec 8) (offset : BitVec 32)
    (data : List Byte) (secure : Bool) (s : State) : Result :=
  .next (request s master (writeReq seq index.toNat sub.toNat offset.toNat data) secure)

/-- ENYTRE_LOCK. -/
def execEnytreLock (master : Fin 2) (seq : BitVec 8) (index : BitVec 16) (sub : BitVec 8) (secure : Bool) (s : State) :
    Result :=
  .next (request s master ⟨3, seq.toNat, index.toNat, sub.toNat, 0, 0, []⟩ secure)

/-- ENYTRE_UNLOCK. -/
def execEnytreUnlock (master : Fin 2) (seq : BitVec 8) (index : BitVec 16) (sub : BitVec 8) (secure : Bool) (s : State) :
    Result :=
  .next (request s master ⟨4, seq.toNat, index.toNat, sub.toNat, 0, 0, []⟩ secure)

/-- ENYTRE_DESCRIBE. -/
def execEnytreDescribe (master : Fin 2) (seq : BitVec 8) (index : BitVec 16) (sub : BitVec 8) (s : State) : Result :=
  .next (request s master ⟨5, seq.toNat, index.toNat, sub.toNat, 0, 0, []⟩ false)

/-- ENYTRE_BAD_OPCODE: an opcode of 1 to 5 is none. -/
def execEnytreBadOpcode (master : Fin 2) (opcode seq : BitVec 8) (index : BitVec 16) (sub : BitVec 8) (s : State) : Result :=
  let op := opcode.toNat
  .next (if 1 ≤ op && op ≤ 5 then s
    else request s master ⟨op, seq.toNat, index.toNat, sub.toNat, 0, 0, []⟩ false)

/-! ## Writes with rows of their own -/

/-- STATE_COMMAND_OPERATIONAL. -/
def execStateCommandOperational (master : Fin 2) (seq : BitVec 8) (secure : Bool) (s : State) : Result :=
  .next (request s master (writeReq seq 0x1001 2 0 [1#8]) secure)

/-- STATE_COMMAND_PREOP. -/
def execStateCommandPreop (master : Fin 2) (seq : BitVec 8) (secure : Bool) (s : State) : Result :=
  .next (request s master (writeReq seq 0x1001 2 0 [2#8]) secure)

/-- STATE_COMMAND_STOP. -/
def execStateCommandStop (master : Fin 2) (seq : BitVec 8) (secure : Bool) (s : State) : Result :=
  .next (request s master (writeReq seq 0x1001 2 0 [3#8]) secure)

/-- RESERVATION_WRITE: HOST_HBM_SHARE and HOST_PORT_SHARE have 2 bytes, HOST_STRATUS_RESERVE 4. -/
def execReservationWrite (master : Fin 2) (seq : BitVec 8) (sub : BitVec 8) (value : BitVec 32) (secure : Bool) (s : State) :
    Result :=
  let k := sub.toNat
  .next (if k = 2 || k = 4 || k = 5 then
      request s master (writeReq seq 0x2110 k 0 (leBytes (if k = 4 then 4 else 2) value.toNat)) secure
    else s)

/-- POWER_BUDGET_WRITE (19 R423). -/
def execPowerBudgetWrite (master : Fin 2) (seq : BitVec 8) (value : BitVec 16) (secure : Bool) (s : State) : Result :=
  .next (request s master (writeReq seq 0xA000 1 0 (leBytes 2 value.toNat)) secure)

/-- PACKAGE_RESET_WRITE. -/
def execPackageResetWrite (master : Fin 2) (seq : BitVec 8) (secure : Bool) (s : State) : Result :=
  .next (request s master (writeReq seq 0x2A00 1 0 [0xA5#8]) secure)

/-- COMPUTE_RESET_WRITE. -/
def execComputeResetWrite (master : Fin 2) (seq : BitVec 8) (secure : Bool) (s : State) : Result :=
  .next (request s master (writeReq seq 0x2A00 2 0 [1#8]) secure)

/-- COMPUTE_RESET_BOND_WRITE. -/
def execComputeResetBondWrite (master : Fin 2) (seq : BitVec 8) (secure : Bool) (s : State) : Result :=
  .next (request s master (writeReq seq 0x2A00 2 0 [2#8]) secure)

/-! ## The mailbox (16 R360) -/

/-- Bytes of the request and of the response buffer. -/
def mailboxBytes : Nat := 0x40C

/-- The Enytre message in the request buffer. -/
def mailboxRequest (s : State) : EnyReq :=
  let b := fitBytes mailboxBytes s.mgmt.request
  let n := leAt b 6 2
  ⟨leAt b 0 1, leAt b 1 1, leAt b 2 2, leAt b 4 1, n, leAt b 8 4, bytesAt b 12 (min n 1024)⟩

/-- MBX_CTRL written: GO submits the request buffer. A request that finds the primary Zenith core restarting waits with BUSY
set; an MCTP message waits for its own command. -/
def mailboxGo (s : State) (v : Nat) : State :=
  let s1 := { s with mgmt := { s.mgmt with irqEn := bitAt v 8, kind := bitAt v 1 } }
  if !bitAt v 0 then s1
  else if s1.mgmt.busy then s1.bump 0x110105
  else if s1.mgmt.kind || s1.irq.restarting.getLsbD 0 then { s1 with mgmt := { s1.mgmt with busy := true } }
  else request s1 0 (mailboxRequest s1) false

/-- MAILBOX_GO. -/
def execMailboxGo (value : BitVec 32) (s : State) : Result := .next (mailboxGo s (setBitAt value.toNat 0 true))

/-- ZENITH_RESTART_DONE: a request in progress is answered BUSY and is not applied (16 R353). -/
def execZenithRestartDone (die : DieId) (s : State) : Result :=
  let s1 := { s with irq := { s.irq with restarting := s.irq.restarting &&& ~~~(1#8 <<< die.val) } }
  .next (if die.val = 0 && s1.mgmt.busy && !s1.mgmt.kind && s.irq.restarting.getLsbD 0 then
      let q := mailboxRequest s1
      answerHost s1 (answerBytes q (plainAnswer q stBusy))
    else s1)

/-! ## The I3C bus (16 R361, R367) -/

/-- Is the Contrail target on the bus: from stage 2, on VDD_AON alone. -/
def onBus (s : State) : Bool := s.powered && s.life.stage != 1

/-- I3C_ENTDAA: a target without an address takes one. -/
def execI3cEntdaa (addr : BitVec 7) (s : State) : Result :=
  .next (if onBus s && s.obj 0x110002 == 0 then s.setObj 0x110002 addr.toNat else s)

/-- I3C_SETDASA. -/
def execI3cSetdasa (static addr : BitVec 7) (s : State) : Result :=
  .next (if onBus s && s.obj 0x110002 == 0 && static.toNat == s.obj 0x110001 then s.setObj 0x110002 addr.toNat else s)

/-- A length that SETMRL and SETMWL may set. -/
def busLengthOk (n : BitVec 16) : Bool := 64 ≤ n.toNat && n.toNat ≤ 256

/-- I3C_SETMRL. -/
def execI3cSetmrl (n : BitVec 16) (s : State) : Result :=
  .next (if onBus s && busLengthOk n then { s with mgmt := { s.mgmt with mrl := n.toNat } } else s)

/-- I3C_SETMWL. -/
def execI3cSetmwl (n : BitVec 16) (s : State) : Result :=
  .next (if onBus s && busLengthOk n then { s with mgmt := { s.mgmt with mwl := n.toNat } } else s)

/-- I3C_RSTDAA: the dynamic address is lost, and with it Contrail's locks. -/
def execI3cRstdaa (s : State) : Result := .next (if onBus s then dropLocks (s.setObj 0x110002 0) 1 else s)

/-- I3C_TARGET_RESET. -/
def execI3cTargetReset (s : State) : Result := .next (if onBus s then dropLocks s 1 else s)

/-! ## MCTP (16 R362) -/

/-- Can messages reach the K8 on Contrail: it has an address, and the primary Zenith core answers private transfers. -/
def reachable (s : State) : Bool := served s 1 && s.obj 0x110002 != 0

/-- The Enytre request that bytes hold. -/
def enyReqOf (b : List Byte) : EnyReq :=
  let n := leAt b 6 2
  ⟨leAt b 0 1, leAt b 1 1, leAt b 2 2, leAt b 4 1, n, leAt b 8 4, bytesAt b 12 (min n 1024)⟩

/-- MCTP_MESSAGE_RECEIVE: a message of Table 16.9 is counted, and an Enytre message is answered; messages of the other types act
through commands of their own. -/
def execMctpMessageReceive (type : BitVec 8) (body : List Byte) (good secure : Bool) (s : State) : Result :=
  let t := type.toNat
  .next (if !reachable s then s
    else if !good then s.bump 0x110005
    else
      let s1 := s.bump 0x110004
      if t = 0 || t = 1 || t = 5 then s1
      else if t = 0x7E && body.take 2 == mctpVendor then request s1 1 (enyReqOf (body.drop 2)) secure
      else s1.bump 0x110005)

/-- MCTP_SET_ENDPOINT_ID: 0 and 255 are no endpoint's. -/
def execMctpSetEndpointId (eid : BitVec 8) (s : State) : Result :=
  .next (if !reachable s then s
    else
      let s1 := s.when (eid != 0 && eid != 255) fun t => t.setObj 0x110003 eid.toNat
      answerContrail s1 0 (leBytes 1 (s1.obj 0x110003)))

/-- MCTP_GET_ENDPOINT_ID. -/
def execMctpGetEndpointId (s : State) : Result :=
  .next (if reachable s then answerContrail s 0 (leBytes 1 (s.obj 0x110003)) else s)

/-- MCTP_GET_VERSION_SUPPORT: the version numbers are not stated. -/
def execMctpGetVersionSupport (s : State) : Result :=
  let r := s.draw
  .next (if reachable s then answerContrail r.2 0 (leBytes 4 r.1) else s)

/-- MCTP_GET_MESSAGE_TYPE_SUPPORT: the types of Table 16.9. -/
def execMctpGetMessageTypeSupport (s : State) : Result :=
  .next (if reachable s then answerContrail s 0 [0x00#8, 0x01#8, 0x05#8, 0x7E#8] else s)

end Sys2Proof.Machine
end

