-- ==== Sys2Proof/Machine/Attest.lean ====
section
/-!
DEFINITION. Machine/Attest.lean: PLDM, firmware update, SPDM and licences (16 R363, R370 to R376). The layouts of DMTF's messages
are not the specification's: an answer carries a code, 0 for success, and the data that the specification states.
-/
namespace Sys2Proof.Machine

/-! ## PLDM (16 R363, R370) -/

/-- Can a PLDM request of a master be in progress: one of the host waits in the mailbox with KIND 1 (16 R360). -/
def pldmServed (s : State) (m : Fin 2) : Bool :=
  if m.val = 0 then served s 0 && s.mgmt.busy && s.mgmt.kind else reachable s

/-- A PLDM answer. -/
def answerPldm (s : State) (m : Fin 2) (code : Nat) (data : List Byte) : State :=
  let bs := leBytes 1 code ++ data
  if m.val = 0 then answerHost s bs else answerContrail s 1 bs

/-- A PLDM request handled where one can be in progress. -/
def pldm (s : State) (m : Fin 2) (f : State → Nat × List Byte × State) : State :=
  if pldmServed s m then
    let r := f s
    answerPldm r.2.2 m r.1 r.2.1
  else s

/-- PLDM_BASE_DISCOVERY: the types supported. -/
def execPldmBaseDiscovery (master : Fin 2) (s : State) : Result :=
  .next (pldm s master fun t => (0, [0#8, 2#8, 5#8], t))

/-- Entry `n` of the sensor map: index, subindex, base unit, unit modifier, threshold index (16 Table 16.14). -/
def sensorEntry (n : Nat) : Option (Nat × Nat × Nat × Nat × Nat) :=
  let b := Config.sensorMap
  let o := 8 * n
  if o + 8 ≤ b.length && n < 256 then
    some (leAt b o 2, leAt b (o + 2) 1, leAt b (o + 3) 1, leAt b (o + 4) 1, leAt b (o + 5) 2)
  else none

/-- PLDM_SENSOR_READ: the value of the sensor's object, with its base unit and modifier. -/
def execPldmSensorRead (master : Fin 2) (sensor : BitVec 16) (s : State) : Result :=
  .next (pldm s master fun t =>
    match sensorEntry sensor.toNat with
    | none => (1, [], t)
    | some (index, sub, unit, modifier, _) =>
      match objFind index sub with
      | none => (1, [], t)
      | some o =>
        if !statePermitsReq t false index || unlicensed t (objKey index sub) || o.access == .wo then (1, [], t)
        else (0, objBytes t o (objKey index sub) ++ leBytes 1 unit ++ leBytes 1 modifier, clearRead t (objKey index sub)))

/-- PLDM_SET_THRESHOLD: a write of the threshold's object under the arbitration of the masters. -/
def execPldmSetThreshold (master : Fin 2) (sensor : BitVec 16) (sub : BitVec 8) (data : List Byte) (s : State) : Result :=
  .next (pldm s master fun t =>
    match sensorEntry sensor.toNat with
    | none => (1, [], t)
    | some (_, _, _, _, index) =>
      match objFind index sub.toNat with
      | none => (1, [], t)
      | some o =>
        if index = 0 || !statePermitsReq t true index then (1, [], t)
        else
          let r := writeObject t master o ⟨2, 0, index, sub.toNat, data.length, 0, data⟩
          (if r.1.status = 0 then 0 else 1, [], r.2))

/-- The slot that an update writes: the one that does not run. -/
def inactiveSlot (s : State) : Fin 2 := otherSlot s.life.running

/-- A firmware slot changed. -/
def modSlot (s : State) (i : Fin 2) (f : FwSlot → FwSlot) : State := s.modLife fun l => { l with slots := vmod l.slots i f }

/-- The code of ALREADY_IN_UPDATE_MODE (DSP0267). -/
def alreadyInUpdate : Nat := 0x81

/-- PLDM_REQUEST_UPDATE: the inactive slot is written from here on. -/
def execPldmRequestUpdate (master : Fin 2) (s : State) : Result :=
  .next (pldm s master fun t =>
    if t.life.update.isSome then (alreadyInUpdate, [], t)
    else (0, [], (modSlot t (inactiveSlot t) fun x => { x with valid := false, pending := false }).modLife fun l =>
      { l with update := some false }))

/-- PLDM_TRANSFER_END: the component is verified; a failure leaves the slot invalid. -/
def execPldmTransferEnd (master : Fin 2) (image : List Byte) (version : BitVec 32) (rollback : BitVec 16) (s : State) :
    Result :=
  .next (pldm s master fun t =>
    if t.life.update.isNone then (1, [], t)
    else
      let ok := Config.signed image && t.life.fuseRollback ≤ rollback.toNat
      (if ok then 0 else 1, [], (modSlot t (inactiveSlot t) fun _ =>
        ⟨ok, version.toNat, rollback.toNat, false, some (Config.sha384 image)⟩).modLife fun l => { l with update := some ok }))

/-- PLDM_ACTIVATE_FIRMWARE: the verified slot is marked pending. -/
def execPldmActivateFirmware (master : Fin 2) (selfContained : Bool) (s : State) : Result :=
  .next (pldm s master fun t =>
    if t.life.update != some true || selfContained then (1, [], t)
    else (0, [], (modSlot t (inactiveSlot t) fun x => { x with pending := true }).modLife fun l => { l with update := none }))

/-! ## SPDM (16 R375, R376) -/

/-- Can an SPDM request of a master arrive: over Contrail, or over DOE once function 0 answers (18 R404). -/
def spdmServed (s : State) (m : Fin 2) : Bool :=
  if m.val = 1 then reachable s else served s 0 && 6 ≤ s.life.stage

/-- An SPDM answer. -/
def answerSpdm (s : State) (m : Fin 2) (bs : List Byte) : State :=
  if m.val = 0 then s.emit (.reply 0 bs) else answerContrail s 5 bs

/-- A master's SPDM connection replaced. -/
def setSpdm (s : State) (m : Fin 2) (x : Spdm) : State :=
  { s with mgmt := { s.mgmt with spdm := s.mgmt.spdm.set m x } }

/-- An SPDM request: answered with data when its conditions hold, and else with an SPDM error, which is counted. -/
def spdm (s : State) (m : Fin 2) (ok : Spdm → Bool) (f : State → Spdm → Spdm × List Byte × State) : State :=
  if !spdmServed s m then s
  else
    let x := s.mgmt.spdm[m]
    if ok x then
      let r := f s x
      answerSpdm (setSpdm r.2.2 m r.1) m (leBytes 1 0 ++ r.2.1)
    else answerSpdm (s.bump 0xD01002) m (leBytes 1 1)

/-- A signature, whose bytes nothing states. -/
def signature (s : State) : List Byte × State :=
  let r := s.draw
  (leBytes 96 r.1, r.2)

/-- SPDM_GET_VERSION: the connection begins anew; the version is 1.3. -/
def execSpdmGetVersion (master : Fin 2) (s : State) : Result :=
  .next (spdm s master (fun _ => true) fun t _ => (⟨1, false, false⟩, [0x13#8], t))

/-- SPDM_GET_CAPABILITIES: the flags are not stated. -/
def execSpdmGetCapabilities (master : Fin 2) (s : State) : Result :=
  .next (spdm s master (fun x => 1 ≤ x.step) fun t x =>
    let r := t.draw
    ({ x with step := max x.step 2 }, leBytes 4 r.1, r.2))

/-- SPDM_NEGOTIATE_ALGORITHMS. -/
def execSpdmNegotiateAlgorithms (master : Fin 2) (offers : Bool) (s : State) : Result :=
  .next (spdm s master (fun x => 2 ≤ x.step && offers) fun t x => ({ x with step := 3 }, [], t))

/-- The digest of the certificate chain of slot 0. -/
def chainDigest : List Byte := leBytes 48 (Config.sha384 Config.certChain)

/-- SPDM_GET_DIGESTS: slot 0 alone holds a chain. -/
def execSpdmGetDigests (master : Fin 2) (s : State) : Result :=
  .next (spdm s master (fun x => x.step == 3) fun t x => (x, 1#8 :: chainDigest, t))

/-- SPDM_GET_CERTIFICATE. -/
def execSpdmGetCertificate (master : Fin 2) (slot : BitVec 8) (offset len : BitVec 16) (s : State) : Result :=
  .next (spdm s master (fun x => x.step == 3 && slot == 0 && offset.toNat ≤ Config.certChain.length) fun t x =>
    (x, (Config.certChain.drop offset.toNat).take len.toNat, t))

/-- SPDM_CHALLENGE. -/
def execSpdmChallenge (master : Fin 2) (slot : BitVec 8) (s : State) : Result :=
  .next (spdm s master (fun x => x.step == 3 && slot == 0) fun t x =>
    let g := signature t
    (x, chainDigest ++ g.1, g.2))

/-- The fuse block as the last package reset measured it. -/
def fuseBytes (s : State) : List Byte :=
  let f := s.life.fuseMeasured
  leBytes 1 f.1 ++ leBytes 16 Config.deviceUid ++ leBytes 2 f.2.1 ++ leBytes 4 f.2.2

/-- A record put into its place by SERIAL. -/
def insertSerial (x : Licence) : List Licence → List Licence
  | [] => [x]
  | y :: ys => if x.serial ≤ y.serial then x :: y :: ys else y :: insertSerial x ys

/-- The installed licence records, in ascending SERIAL. -/
def licenceBytes (s : State) : List Byte := ((s.mgmt.licences.foldr insertSerial []).map (·.bytes)).flatten

/-- The RWP values that were measured. -/
def rwpBytes (s : State) : List Byte := s.mgmt.rwpValues.flatMap fun p => leBytes (objWidth p.1 / 8) p.2

/-- A measurement of Table 16.13. -/
def measurement (s : State) (i : Nat) : List Byte :=
  match i with
  | 1 => leBytes 48 Config.romDigest
  | 2 => leBytes 48 ((s.life.slots[s.life.running].digest).getD (Config.slotDigest s.life.running.val))
  | 3 => leBytes 48 (Config.sha384 (fuseBytes s))
  | 4 => leBytes 48 (Config.sha384 (licenceBytes s))
  | 5 => if s.hasImage then leBytes 48 (Config.sha384 s.mgmt.imageBytes) else leBytes 48 0
  | _ => leBytes 48 (Config.sha384 (rwpBytes s))

/-- The measurements that a request names: 0 asks for their number, and 255 for all. -/
def measurements (s : State) (i : Nat) : List Byte :=
  if i = 0 then [6#8] else if i = 255 then [1, 2, 3, 4, 5, 6].flatMap (measurement s) else measurement s i

/-- SPDM_GET_MEASUREMENTS. -/
def execSpdmGetMeasurements (master : Fin 2) (index : BitVec 8) (signed : Bool) (s : State) : Result :=
  .next (spdm s master (fun x => x.step == 3 && (index.toNat ≤ 6 || index == 255)) fun t x =>
    let g := if signed then signature t else ([], t)
    (x, measurements t index.toNat ++ g.1, g.2))

/-- SPDM_KEY_EXCHANGE: each master may hold one session. -/
def execSpdmKeyExchange (master : Fin 2) (slot : BitVec 8) (s : State) : Result :=
  .next (spdm s master (fun x => x.step == 3 && slot == 0 && !x.session) fun t x =>
    let g := signature t
    ({ x with exchanging := true }, g.1, g.2))

/-- SPDM_FINISH. -/
def execSpdmFinish (master : Fin 2) (good : Bool) (s : State) : Result :=
  let s1 := if good || !spdmServed s master then s else setSpdm s master { s.mgmt.spdm[master] with exchanging := false }
  .next (spdm s1 master (fun x => x.exchanging && good) fun t x => ({ x with exchanging := false, session := true }, [], t))

/-- SPDM_HEARTBEAT. -/
def execSpdmHeartbeat (master : Fin 2) (s : State) : Result := .next (spdm s master (·.session) fun t x => (x, [], t))

/-- SPDM_KEY_UPDATE: the keys themselves are no state that anything else reads. -/
def execSpdmKeyUpdate (master : Fin 2) (s : State) : Result := .next (spdm s master (·.session) fun t x => (x, [], t))

/-- SPDM_END_SESSION. -/
def execSpdmEndSession (master : Fin 2) (s : State) : Result :=
  .next (spdm s master (·.session) fun t x => ({ x with session := false }, [], t))

/-! ## Licences (16 R372 to R374) -/

/-- The outcome of an INSTALL (16 Table 16.12). -/
def installOutcome (s : State) (b : List Byte) : Nat :=
  if !licenceFormat b then 2
  else if !licenceMine b then 3
  else if !licenceCurrent s b then 4
  else if !Config.signed b then 5
  else if s.mgmt.licences.any fun l => l.serial == leAt b 0x20 8 then 1
  else if 16 ≤ s.mgmt.licences.length then 6
  else 0

/-- The outcome of a licence request sent to its master. -/
def answerLicence (s : State) (m : Fin 2) (code : Nat) (data : List Byte) : State := answerSpdm s m (leBytes 1 code ++ data)

/-- LICENCE_INSTALL: an accepted record is effective at once. -/
def execLicenceInstall (master : Fin 2) (record : List Byte) (s : State) : Result :=
  let code := installOutcome s record
  .next (if !spdmServed s master then s
    else
      let s1 := s.when (code == 0) fun t => { t with mgmt := { t.mgmt with licences := t.mgmt.licences ++ [⟨record, true⟩] } }
      answerLicence s1 master code [])

/-- LICENCE_LIST. -/
def execLicenceList (master : Fin 2) (s : State) : Result :=
  .next (if spdmServed s master then answerLicence s master 0 (s.mgmt.licences.map (·.bytes)).flatten else s)

/-- Does the loaded image name a feature of this record that no other valid record grants (16 Table 16.12). -/
def licenceInUse (s : State) (l : Licence) : Bool :=
  match s.run.image with
  | none => false
  | some img =>
    let others := (s.mgmt.licences.filter fun x => x.valid && x.serial != l.serial).foldl (fun acc x => acc ||| x.features) 0
    (List.range 4).any fun i => bitAt img.licences i && l.valid && bitAt l.features i && !bitAt others i

/-- The outcome of a REMOVE. -/
def removeOutcome (s : State) (m : Fin 2) (serial : Nat) (secure : Bool) : Nat :=
  if !(secure && s.mgmt.spdm[m].session) then 9
  else match s.mgmt.licences.find? fun l => l.serial == serial with
    | none => 8
    | some l => if licenceInUse s l then 7 else 0

/-- LICENCE_REMOVE. -/
def execLicenceRemove (master : Fin 2) (serial : BitVec 64) (secure : Bool) (s : State) : Result :=
  let code := removeOutcome s master serial.toNat secure
  .next (if !spdmServed s master then s
    else
      let s1 := s.when (code == 0) fun t => { t with mgmt := { t.mgmt with
        licences := t.mgmt.licences.filter fun l => l.serial != serial.toNat } }
      answerLicence s1 master code [])

end Sys2Proof.Machine
end

