-- ==== Sys2Proof/Machine/Regs.lean ====
section
/-!
DEFINITION. Machine/Regs.lean: the register map: what every register reads, what a write does by the access types of its
fields, reads of half registers, and the first-position record (00 R4 to R8, 05 R121, 20 R455, and the register tables of
every chapter).
-/
namespace Sys2Proof.Machine

/-- A signed value in a field of `w` bits. -/
def signedFld (w : Nat) (i : Int) : Nat := unsgn w i

/-- A flag at bit `i`. -/
def flagAt (b : Bool) (i : Nat) : Nat := b.toNat * 2 ^ i

/-! ## What registers read -/

/-- CORE_STATUS.STATE (03 Table 3.10). -/
def CoreSt.code : CoreSt → Nat
  | .idle => 0
  | .waiting => 1
  | .running => 2
  | .stopping => 3
  | .stopped => 4
  | .trapped => 5

/-- The block of a logical core (03 Tables 3.10 to 3.20); the block of an absent core reads as zero (00 R4). -/
def readCore (s : State) (c : CoreId) (o : Nat) : Option Nat :=
  let x := s.core c
  let t := x.trap
  if !s.present c then none
  else if 0x200 ≤ o && o < 0x250 then
    let q : Fin 10 := ⟨(o - 0x200) / 8 % 10, Nat.mod_lt _ (by decide)⟩
    some (x.issued[q].toNat * 2 ^ 32 + x.done[q].toNat)
  else match o with
    | 0x000 => some (x.frame % 2 ^ 32 * 2 ^ 32 + x.fenced.toNat * 2 ^ 8 + x.st.code)
    | 0x008 => some x.banks.toNat
    | 0x100 => some t.status
    | 0x108 => some t.pc
    | 0x110 => some t.addr
    | 0x118 => some t.detail
    | 0x120 => some (t.foldsTotal * 2 ^ 32 + t.foldsDone)
    | 0x128 => some t.mpc
    | 0x130 => some t.step
    | _ => none

/-- NF_STATUS (05 Table 5.6). -/
def NfRec.status (r : NfRec) : Nat :=
  r.frame % 2 ^ 32 * 2 ^ 32 + r.queue * 2 ^ 24 + r.kind * 2 ^ 18 + flagAt r.overflow 17 + flagAt r.multiple 16 + flagAt r.valid 0

/-- NF_POS (05 Table 5.8). -/
def NfRec.pos (r : NfRec) : Nat := r.tensor * 2 ^ 44 + r.i2 * 2 ^ 32 + r.i1 * 2 ^ 16 + r.i0

/-- The logical core `n` of a die. -/
def coreAt (d : DieId) (n : Nat) : CoreId := coreFin (4 * d.val + n % 4)

/-- The die-control block (05 R121, 09 Table 9.9, 18 Table 18.8). -/
def readDieControl (s : State) (d : DieId) (o : Nat) : Option Nat :=
  if 0x2000 ≤ o && o < 0x2080 then
    let r := (s.core (coreAt d ((o - 0x2000) / 0x20))).nf
    match o % 0x20 with
    | 0x00 => some r.status
    | 0x08 => some r.pc
    | 0x10 => some r.pos
    | _ => none
  else if o = 0x3000 then some ((s.die d).protStatus * 16 + flagAt (s.die d).protBusy.isSome 1)
  else if o = 0x4000 then some (swatchStatus s d)
  else none

/-- A REGION_DATA register (09 Table 9.8). -/
def regionDataReg (r : BitVec 64) : Nat := if regEn r then regData r else 0

/-- The index of an 8-byte register in an array of `n` from `base`. -/
def arrayIdx (base n o : Nat) : Option (Fin n) := if h : base ≤ o ∧ (o - base) / 8 < n then some ⟨(o - base) / 8, h.2⟩ else none

/-- A region of the Stratus (first 0) or of the HBM (first 8). -/
def regionIdx (first : Nat) (n : Fin 8) : Fin 16 := ⟨(first + n.val) % 16, Nat.mod_lt _ (by decide)⟩

/-- REGION_n and REGION_DATA_n of a block (09 Tables 9.6, 9.8). -/
def readRegions (s : State) (d : DieId) (first o : Nat) : Option Nat :=
  match arrayIdx 0x200 8 o with
  | some n => some (s.die d).region[regionIdx first n].toNat
  | none => (arrayIdx 0x240 8 o).map fun n => regionDataReg (s.die d).applied[regionIdx first n]

/-- The Stratus block (08 Table 8.14). -/
def readStratus (s : State) (d : DieId) (o : Nat) : Option Nat :=
  match arrayIdx 0x100 16 o with
  | some n => some (s.die d).ring[n].toNat
  | none => readRegions s d 0 o

/-- The cache and HBM block (08 Tables 8.12, 8.13). -/
def readCacheHbm (s : State) (d : DieId) (o : Nat) : Option Nat :=
  if o = 0 then some 0
  else match arrayIdx 0x100 8 o with
    | some n => some (s.die d).keep[n].toNat
    | none => readRegions s d 8 o

/-- PORT_CTRL (10 Table 10.10). -/
def Port.ctrl (x : Port) : Nat := x.trim % 65536 * 2 ^ 32 + flagAt x.tickEn 4 + x.fec * 4 + flagAt x.en 0

/-- The ports of a die: three spans of 4 KiB (10 Tables 10.10 to 10.15). -/
def readPorts (s : State) (d : DieId) (o : Nat) : Option Nat :=
  if 0x3000 ≤ o then none
  else
    let x := s.port (portFin (3 * d.val + o / 0x1000))
    match o % 0x1000 with
    | 0x000 => some x.ctrl
    | 0x008 => some x.status
    | 0x010 => some (x.d % 2 ^ 32)
    | 0x100 => some x.dsCtrl
    | 0x108 => some x.dsTick
    | 0x110 => some x.dsSeed
    | _ => none

/-- CIRRUS_STATUS (14 Table 14.11). -/
def cirrusStatus (s : State) (d : DieId) : Nat :=
  let u := s.units[d].cirrus
  (u.recs.filter fun r => r.busy != 0).length * 2 ^ 32 + (u.recs.filter fun r => r.pending.isSome).length * 2 ^ 16 + u.upds.length

/-- EQ_STATE (17 Table 17.10). -/
def IntCtl.state (x : IntCtl) : Nat := x.sizeLog2 * 2 ^ 32 + x.head * 2 ^ 16 + x.tail

/-- The interrupt block (17 Tables 17.6 to 17.10). A reserved source has no registers, and the Zenith-side registers read as
zero outside the Zenith cores' own path. -/
def readInterrupts (s : State) (d : DieId) (o : Nat) : Option Nat :=
  let src (l : Nat) : Option SrcRec := let n := 512 * d.val + l; (srcInfo n).map fun _ => s.src n
  if o < 0x1000 then (src (o / 8)).map fun r => r.cfg.toNat
  else if o < 0x2000 then (src ((o - 0x1000) / 8)).map SrcRec.status
  else if o < 0x4000 then (src ((o - 0x2000) / 16)).map fun r => if o % 16 = 0 then r.detail0 else r.detail1
  else if o = 0x5000 then some ((s.ic d).entry * 16 + flagAt (s.ic d).claimMode 0)
  else if o = 0x5008 then some (s.ic d).state
  else if d.val = 0 then (arrayIdx 0x4000 21 o).map fun i => s.irq.ext[i].filter
  else none

/-- PT_STATUS (19 Table 19.6). -/
def ptStatus (s : State) (d : DieId) : Nat :=
  let x := s.pdie d
  x.stackMw / 1000 % 65536 * 2 ^ 48 + x.voltage % 65536 * 2 ^ 32 + signedFld 16 (hottest s d).1 * 2 ^ 16 + flagAt x.avsFault 7
    + flagAt (dieLowest s d) 6 + flagAt (x.stackSteps != 0) 5 + flagAt s.power.cap.isSome 4 + flagAt (x.hbm != 0) 3
    + flagAt (x.thermal != 0) 2 + s.obj 0xA00004 % 4

/-- The power and thermal block (19 Tables 19.6 to 19.8). -/
def readPower (s : State) (d : DieId) (o : Nat) : Option Nat :=
  if o = 0 then some (ptStatus s d)
  else match arrayIdx 0x100 4 o with
    | some n => let c := s.clk (coreAt d n.val); some (c.plan % 65536 * 2 ^ 32 + c.now % 65536 * 2 ^ 16 + c.floor % 65536)
    | none => (arrayIdx 0x1000 64 o).map fun n =>
        let x := (s.pdie d).sensors[n]
        signedFld 16 x.estimate * 2 ^ 32 + flagAt (privileged d n.val) 17 + flagAt x.suspect 16 + signedFld 16 x.reading

/-- CLK_STATUS (20 Table 20.5). -/
def clkStatus (s : State) (d : DieId) : Nat :=
  let c := s.clocks
  (if d.val = 0 then flagAt c.aonInternal 34 + flagAt c.serdesOk 33 + flagAt c.pcieOk 32 else 0) + c.lock[d]

/-- CROSS_INFO (20 Table 20.6). -/
def CrossInfo.value (x : CrossInfo) : Nat :=
  flagAt x.timeout 63 + x.requester * 2 ^ 58 + flagAt x.write 57 + x.offset

/-- A buffer of the code-test window (09 R207). -/
def bufRead (b : List Byte) (off : Nat) : Nat := leAt b off 8

/-- The debug block (09 Tables 9.10, 9.11). -/
def readDebug (s : State) (d : DieId) (o : Nat) : Option Nat :=
  let t := (s.die d).ct
  if 0x400 ≤ o && o < 0x600 then some (bufRead t.data (o - 0x400))
  else if 0x600 ≤ o && o < 0x640 then some (bufRead t.check (o - 0x600))
  else match o with
    | 0x00 => some (t.target * 16)
    | 0x08 => some (ctAddr s d t.target)
    | 0x10 => some (t.outcome * 256 + t.result * 16)
    | _ => none

/-- The tick block of die 0 (02 Tables 2.9, 2.10). -/
def readTick (s : State) (o : Nat) : Option Nat :=
  match o with
  | 0 => some s.tick.count
  | 8 => some (flagAt s.tick.lastPayload.final 63 + s.tick.lastFrame % 2 ^ 32 * 2 ^ 16 + s.tick.lastPayload.bits % 65536)
  | _ => none

/-- A block of a die (00 Table 0.4). -/
def readDie (s : State) (d : DieId) (o : Nat) : Option Nat :=
  let r := o % 2 ^ 20
  match o / 2 ^ 20 with
  | 0x0 => readDieControl s d r
  | 0x1 => readCore s (coreAt d (r / 0x40000)) (r % 0x40000)
  | 0x2 => readStratus s d r
  | 0x3 => readCacheHbm s d r
  | 0x4 => readPorts s d r
  | 0x5 => if r = 0 then some (cirrusStatus s d) else none
  | 0x7 => readInterrupts s d r
  | 0x8 => readPower s d r
  | 0x9 => if r = 0 then some (clkStatus s d) else if r = 8 then some s.clocks.cross[d].value else none
  | 0xA => if d.val = 0 then readTick s r else none
  | 0xF => readDebug s d r
  | _ => none

/-- Q_CTRL and EVR_CTRL (15 Table 15.11). -/
def ctrlReg (en irqEn : Bool) (vector size : Nat) : Nat := flagAt en 63 + flagAt irqEn 62 + vector * 2 ^ 32 + size

/-- The registers of a queue (15 Tables 15.9, 15.11, 15.12). -/
def readQueue (x : HostQueue) (o : Nat) : Option Nat :=
  match o with
  | 0x00 => some x.sqBase
  | 0x08 => some x.cqBase
  | 0x10 => some (ctrlReg x.en x.irqEn x.vector x.size)
  | 0x18 => some (x.sqHead * 2 ^ 16 + x.cause * 2 ^ 8 + x.st)
  | _ => none

/-- TOPO_STAGE_n_s with MEMBER and RANK (11 Table 11.8). -/
def topoStage (s : State) (n k : Nat) : Nat :=
  let member := stageMember s n k
  s.stageReg n k + flagAt member 22
    + (if member && !stageLocal s n k then stageRank s n k (dieFin 0) % 64 else 0) * 2 ^ 16

/-- RESET_STATUS (18 Table 18.7). -/
def resetStatus (s : State) : Nat :=
  let l := s.life
  l.computeResets % 65536 * 2 ^ 48 + l.packageResets % 65536 * 2 ^ 32 + l.lastCompute * 2 ^ 12 + l.lastPackage * 2 ^ 8 + l.stage

/-- The pending bits of 64 vectors of function 0 (15 R348). -/
def pbaWord (s : State) (j : Nat) : Nat :=
  (List.range 64).foldl (fun acc i => acc + flagAt (kvGet false s.host.msixPend (64 * j + i)) i) 0

/-- A word of the MSI-X table of function 0: an entry's address, or its data with the vector control above it. -/
def msixWord (s : State) (o : Nat) : Nat :=
  if o % 16 = 0 then kvGet 0 s.host.msixAddr (o / 16) else kvGet msixDataReset s.host.msixData (o / 16)

/-- The topology tables, from their start (11 Tables 11.8, 11.9). -/
def readTopo (s : State) (o : Nat) : Option Nat :=
  let n := o / 0x1000
  let k := o / 0x200 % 8
  if 4 ≤ k then none
  else if o % 0x200 = 0 then some (topoStage s n k)
  else if o % 0x200 < 0x88 then some (kvGet 0 s.fabric.members ((4 * n + k) * 16 + (o % 0x200 - 8) / 8))
  else none

/-- The package-level blocks. Two route entries, and the words of an MSI-X table entry, are read together. -/
def readPackage (s : State) (o : Nat) : Option Nat :=
  if o = 0x1000 then some (resetStatus s)
  else if 0x100000 ≤ o && o < 0x140000 then
    let p := (o - 0x100000) / 4
    some (s.routeOf p + s.routeOf (p + 1) * 2 ^ 32)
  else if 0x140000 ≤ o && o < 0x150000 then readTopo s (o - 0x140000)
  else if 0x200000 ≤ o && o < 0x201000 then readQueue (s.queue (queueFin ((o - 0x200000) / 0x40))) (o % 0x40)
  else if 0x201000 ≤ o && o < 0x201200 then
    let x := s.host.rings[(o - 0x201000) / 0x40 % 8]'(Nat.mod_lt _ (by decide))
    match o % 0x40 with
    | 0x00 => some x.base
    | 0x08 => some (ctrlReg x.en x.irqEn x.vector x.size)
    | _ => none
  else if o = 0x202000 then some s.host.winBase
  else if 0x300000 ≤ o && o < 0x308000 then some (msixWord s (o - 0x300000))
  else if 0x308000 ≤ o && o < 0x308100 then some (pbaWord s ((o - 0x308000) / 8))
  else none

/-- The aligned 64-bit word at a BAR0 offset of function 0; none where no register lies (00 R5, R7). -/
def readReg (s : State) (a : Nat) : Option Nat :=
  if a < 0x1000000 then readPackage s a
  else if a < 0x9000000 then readDie s (dieFin (a / 0x1000000 - 1)) (a % 0x1000000)
  else none

/-- Is the word at an offset one 64-bit register, and not two registers of 32 bits. -/
def oneReg (a : Nat) : Bool := !(0x100000 ≤ a && a < 0x140000) && !(0x300000 ≤ a && a < 0x308000)

/-! ## What writes do

Every writer takes `v`, the word as it will stand in its RW fields, and `w`, the bits written: a W1C or WO field acts for
the bits of `w` alone (00 R8, 20 R455). -/

/-- What a meaning's next state is. -/
def andThen (r : Result) (s : State) : State :=
  match r with
  | .next t => t
  | _ => s

/-- The die-control block: VALID of NF_STATUS clears its record, and APPLY applies the regions. -/
def writeDieControl (s : State) (d : DieId) (o w : Nat) : State :=
  if 0x2000 ≤ o && o < 0x2080 && o % 0x20 = 0 then
    s.when (bitAt w 0) fun t => t.modCore (coreAt d ((o - 0x2000) / 0x20)) fun x => { x with nf := .empty }
  else if o = 0x3000 then s.when (bitAt w 0) fun t => andThen (execRegionApply d t) t
  else s

/-- REGION_n as written: it acts through APPLY alone. -/
def writeRegion (s : State) (d : DieId) (first o v : Nat) : State :=
  match arrayIdx 0x200 8 o with
  | none => s
  | some n =>
    let r : BitVec 64 := BitVec.ofNat 64 (flagAt (bitAt v 63) 63 + fld v 58 3 * 2 ^ 58 + fld v 32 25 * 2 ^ 32 + fld v 0 25)
    s.modDie d fun m => { m with region := m.region.set (regionIdx first n) r }

/-- The Stratus block. -/
def writeStratus (s : State) (d : DieId) (o v : Nat) : State :=
  match arrayIdx 0x100 16 o with
  | some n => writeRing s d n v
  | none => writeRegion s d 0 o v

/-- The cache and HBM block. -/
def writeCacheHbm (s : State) (d : DieId) (o v w : Nat) : State :=
  if o = 0 then (s.when (bitAt w 1) fun t => writeBackDie t d).when (bitAt w 0) fun t => demoteDie t d
  else match arrayIdx 0x100 8 o with
    | some n => writeKeep s d n v
    | none => writeRegion s d 8 o v

/-- PORT_CTRL: a FEC of 2 or 3 is ignored; EN and RETRAIN act as their own commands do. -/
def writePortCtrl (s : State) (p : PortId) (v w : Nat) : State :=
  let s1 := s.modPort p fun x => { x with
    trim := fld v 32 16, tickEn := bitAt v 4, fec := if fld v 2 2 < 2 then fld v 2 2 else x.fec }
  let s2 := if !bitAt v 0 then disablePort s1 p else if (s.port p).en then s1 else andThen (execPortEnable p s1) s1
  s2.when (bitAt w 7) fun t => settlePort p (enterRetraining t p 4)

/-- DS_TICK or DS_SEED: locked without the licence; while TRIGGER is non-zero the write takes effect at the next frame
boundary (10 R232). -/
def writeDsReg (s : State) (p : PortId) (f : Port → Port) : State :=
  if !s.licensed 2 then lockedWrite s
  else s.modPort p fun x => let y := f x; { y with dsWait := x.dsWait || fld x.dsCtrl 0 2 != 0 }

/-- The ports of a die. -/
def writePorts (s : State) (d : DieId) (o v w : Nat) : State :=
  if 0x3000 ≤ o then s
  else
    let p := portFin (3 * d.val + o / 0x1000)
    match o % 0x1000 with
    | 0x000 => writePortCtrl s p v w
    | 0x100 => writeDsCtrl s p (fld v 16 48 * 2 ^ 16 + fld v 8 4 * 2 ^ 8 + fld v 0 2)
    | 0x108 => writeDsReg s p fun x => { x with dsTick := v }
    | 0x110 => writeDsReg s p fun x => { x with dsSeed := v }
    | _ => s

/-- SRC_CFG written: the host fields by every requester, and EN, CLASS, PRIO and TARGETS by a Zenith core alone. -/
def writeSrcCfg (s : State) (n : Nat) (zenith : Bool) (v : Nat) : State :=
  if (srcInfo n).isNone then s
  else
    let r := s.src n
    let old := r.cfg.toNat
    let top := if zenith then fld v 50 14 else fld old 50 14
    s.setSrc n { r with cfg := BitVec.ofNat 64 (top * 2 ^ 50 + fld old 48 2 * 2 ^ 48 + fld v 12 20 * 2 ^ 12) }

/-- EQ_STATE written by a Zenith core: a SIZE_LOG2 outside 6 to 12 and a HEAD outside the ring are ignored. -/
def writeEqState (s : State) (d : DieId) (v : Nat) : State :=
  let q := s.ic d
  let n := fld v 32 4
  let s1 := if 6 ≤ n && n ≤ 12 && n != q.sizeLog2 then
      s.setIc d { q with sizeLog2 := n, head := q.head % 2 ^ n, tail := q.tail % 2 ^ n }
    else s
  let x := s1.ic d
  let h := fld v 16 12
  if 2 ^ x.sizeLog2 ≤ h then s1
  else andThen (execEqHeadAdvance d ((h + 2 ^ x.sizeLog2 - x.head) % 2 ^ x.sizeLog2) s1) s1

/-- IC_MODE written by a Zenith core. -/
def writeIcMode (s : State) (d : DieId) (v : Nat) : State :=
  if bitAt v 0 then andThen (execIcModeClaimWrite d s) s else enterQueue s d 3

/-- The interrupt block, written by requester `req`: the mode, the queue and the completion registers are a Zenith core's
(17 R394), whose fields lie in their low halves: a write of the high half alone changes nothing (00 R7). -/
def writeInterrupts (s : State) (req : Fin 17) (d : DieId) (o v w : Nat) (lo : Bool) : State :=
  let zenith : Bool := 1 ≤ req.val && req.val ≤ 8
  let own : Bool := zenith && req.val = d.val + 1
  if o < 0x1000 then writeSrcCfg s (512 * d.val + o / 8) zenith v
  else if o < 0x2000 then s.when (bitAt w 31) fun t => releaseSource t (512 * d.val + (o - 0x1000) / 8)
  else if o = 0x5000 then s.when (zenith && lo) fun t => writeIcMode t d v
  else if o = 0x5008 then s.when zenith fun t => writeEqState t d v
  else if o = 0x6008 then s.when (own && lo) fun t => completeClaim t d (fld w 0 12) false
  else if o = 0x6018 then s.when (own && lo) fun t => completeClaim t d (fld w 0 12) true
  else if d.val = 0 then match arrayIdx 0x4000 21 o with
    | some i => s.when (fld v 0 8 != 0) fun t =>
        { t with irq := { t.irq with ext := vmod t.irq.ext i fun x => { x with filter := fld v 0 8 } } }
    | none => s
  else s

/-- A buffer of the code-test window with eight bytes replaced. -/
def bufWrite (n : Nat) (b : List Byte) (off v : Nat) : List Byte :=
  (fitBytes n b).take off ++ leBytes 8 v ++ (fitBytes n b).drop (off + 8)

/-- CT_CTRL: TARGET is set, and CMD runs its command; other values of CMD are ignored. -/
def writeCtCtrl (s : State) (d : DieId) (how : MemOutcome) (v w : Nat) : State :=
  let tgt : BitVec 4 := BitVec.ofNat 4 (fld v 4 4)
  let s1 := modCt s d fun x => { x with target := tgt.toNat }
  match fld w 0 3 with
  | 1 => andThen (execCtReadRaw d tgt s1) s1
  | 2 => andThen (execCtWriteRaw d tgt s1) s1
  | 3 => andThen (execCtEncode d tgt s1) s1
  | 4 => andThen (execCtReadDecoded d tgt how s1) s1
  | _ => s1

/-- The debug block. CT_ADDR is written before CT_CTRL sets TARGET, so that every bit that some target assigns is kept
(notes/assumptions/159.md). -/
def writeDebug (s : State) (d : DieId) (how : MemOutcome) (o v w : Nat) (lo hi : Bool) : State :=
  if 0x400 ≤ o && o < 0x600 then modCt s d fun x => { x with data := bufWrite 512 x.data (o - 0x400) v }
  else if 0x600 ≤ o && o < 0x640 then modCt s d fun x => { x with check := bufWrite 64 x.check (o - 0x600) v }
  else match o with
    | 0x00 => writeCtCtrl s d how v w
    | 0x08 => modCt s d fun x => { x with
        addr := (if hi then fld v 32 20 else fld x.addr 32 20) * 2 ^ 32 + fld (if lo then v else x.addr) 0 32 }
    | _ => s

/-- A block of a die. -/
def writeDie (s : State) (req : Fin 17) (d : DieId) (how : MemOutcome) (o v w : Nat) (lo hi : Bool) : State :=
  let r := o % 2 ^ 20
  match o / 2 ^ 20 with
  | 0x0 => writeDieControl s d r w
  | 0x2 => writeStratus s d r v
  | 0x3 => writeCacheHbm s d r v w
  | 0x4 => writePorts s d r v w
  | 0x7 => writeInterrupts s req d r v w lo
  | 0x9 => s.when (r == 8 && bitAt w 63) fun t => clearCross t d
  | 0xF => writeDebug s d how r v w lo hi
  | _ => s

/-- A base register of a queue or ring: bits [5:0] are reserved, and a write while EN is 1 is ignored (15 R350). -/
def writeQueueReg (s : State) (q : Fin 64) (o v : Nat) : State :=
  match o with
  | 0x00 => modQueue s q fun x => if x.en then x else { x with sqBase := v / 64 * 64 }
  | 0x08 => modQueue s q fun x => if x.en then x else { x with cqBase := v / 64 * 64 }
  | 0x10 => writeQCtrl s q v
  | _ => s

/-- EVR_BASE and EVR_CTRL. -/
def writeRingReg (s : State) (r : Fin 8) (o v : Nat) : State :=
  match o with
  | 0x00 => { s with host := { s.host with rings := vmod s.host.rings r fun x => (if x.en then x else { x with base := v / 64 * 64 }) } }
  | 0x08 => writeRingCtrl s r v
  | _ => s

/-- A word of the MSI-X table of function 0. A vector whose mask clears is signalled if it is pending. -/
def writeMsix (s : State) (o v : Nat) : State :=
  let k := o / 16
  if o % 16 = 0 then { s with host := { s.host with msixAddr := kvSet 0 s.host.msixAddr k (v / 4 * 4) } }
  else
    let s1 := { s with host := { s.host with msixData := kvSet msixDataReset s.host.msixData k (fld v 0 33) } }
    s1.when (!bitAt v 32) fun t => unmaskVector t 0 k

/-- The fields of a route entry (11 Table 11.7). -/
def routeFields (v : Nat) : Nat := flagAt (bitAt v 31) 31 + fld v 0 22

/-- The route and topology tables: a write while an image is loaded is ignored and reported (11 R254). `lo` and `hi` say
which halves of the word are written. -/
def writeTables (s : State) (o v : Nat) (lo hi : Bool) : State :=
  if s.hasImage then raise s 264 (if lo then o else o + 4) 0
  else if o < 0x140000 then
    let p := (o - 0x100000) / 4
    let s1 := s.when lo fun t => { t with fabric := { t.fabric with route := kvSet 0 t.fabric.route p (routeFields (fld v 0 32)) } }
    s1.when hi fun t => { t with fabric := { t.fabric with route := kvSet 0 t.fabric.route (p + 1) (routeFields (fld v 32 32)) } }
  else
    let i := o - 0x140000
    let k := 4 * (i / 0x1000) + i / 0x200 % 8
    if i % 0x200 = 0 then { s with fabric := { s.fabric with
      stage := kvSet 0 s.fabric.stage k (fld v 62 2 * 2 ^ 62 + fld v 32 7 * 2 ^ 32) } }
    else { s with fabric := { s.fabric with members := kvSet 0 s.fabric.members (k * 16 + (i % 0x200 - 8) / 8) v } }

/-- The package-level blocks. -/
def writePackage (s : State) (o v : Nat) (lo hi : Bool) : State :=
  if 0x100000 ≤ o && o < 0x150000 then (if (readPackage s o).isSome then writeTables s o v lo hi else s)
  else if 0x200000 ≤ o && o < 0x201000 then writeQueueReg s (queueFin ((o - 0x200000) / 0x40)) (o % 0x40) v
  else if 0x201000 ≤ o && o < 0x201200 then writeRingReg s ⟨(o - 0x201000) / 0x40 % 8, Nat.mod_lt _ (by decide)⟩ (o % 0x40) v
  else if o = 0x202000 then writeWinBase s v
  else if 0x300000 ≤ o && o < 0x308000 then writeMsix s (o - 0x300000) v
  else s

/-- The registers of function 1 (16 R360): the aligned word at an offset. GO is write-only. -/
def readMailbox (s : State) (o : Nat) : Nat :=
  let m := s.mgmt
  if 0x1000 ≤ o && o < 0x1000 + mailboxBytes then leAt (fitBytes mailboxBytes m.request) (o - 0x1000) 8
  else if 0x2000 ≤ o && o < 0x2000 + mailboxBytes then leAt (fitBytes mailboxBytes m.response) (o - 0x2000) 8
  else match o with
    | 0x00 => flagAt m.irqEn 8 + flagAt m.kind 1
    | 0x08 => m.response.length % 2 ^ 16 * 2 ^ 16 + flagAt m.mbxDone 1 + flagAt m.busy 0
    | 0x10 => m.evIndex % 2 ^ 16 * 2 ^ 16 + flagAt m.evState 1 + flagAt m.evLock 0
    | _ => 0

/-- A buffer of the mailbox with the written bytes replaced. -/
def mailWrite (b : List Byte) (off v : Nat) : List Byte :=
  fitBytes mailboxBytes ((fitBytes mailboxBytes b).take off ++ leBytes 8 v ++ (fitBytes mailboxBytes b).drop (off + 8))

/-- A write to the mailbox: GO acts as MAILBOX_GO does; DONE and the bits of MBX_EVENT are cleared by writing 1. -/
def writeMailbox (s : State) (o v w : Nat) (lo : Bool) : State :=
  if 0x1000 ≤ o && o < 0x1000 + mailboxBytes then
    { s with mgmt := { s.mgmt with request := mailWrite s.mgmt.request (o - 0x1000) v } }
  else match o with
    | 0x00 => s.when lo fun t => mailboxGo t (setBitAt v 0 (bitAt w 0))
    | 0x08 => s.when (bitAt w 1) fun t => { t with mgmt := { t.mgmt with mbxDone := false } }
    | 0x10 => { s with mgmt := { s.mgmt with
        evState := s.mgmt.evState && !bitAt w 1, evLock := s.mgmt.evLock && !bitAt w 0 } }
    | _ => s

/-- The bits of a word that a write of 4 or 8 bytes at offset `o` writes. -/
def writtenBits (o : Nat) (wide : Bool) (value : Nat) : Nat :=
  if wide then value else if o % 8 = 0 then fld value 0 32 else fld value 0 32 * 2 ^ 32

/-- A word with the halves that a write writes replaced. -/
def mergeHalf (old o : Nat) (wide : Bool) (value : Nat) : Nat :=
  if wide then value
  else if o % 8 = 0 then old / 2 ^ 32 * 2 ^ 32 + fld value 0 32
  else fld value 0 32 * 2 ^ 32 + fld old 0 32

/-- REGISTER_WRITE: a naturally aligned write of 4 or 8 bytes; any other is BAR0_BAD_ACCESS. Only the host reaches
function 1. -/
def execRegisterWrite (req : Fin 17) (fn : Fin 2) (addr : BitVec 28) (wide : Bool) (value : BitVec 64) (how : MemOutcome)
    (s : State) : Result :=
  let o := addr.toNat
  let a := o / 8 * 8
  let w := writtenBits o wide value.toNat
  let lo : Bool := wide || o % 8 == 0
  let hi : Bool := wide || o % 8 != 0
  .next (if o % (if wide then 8 else 4) != 0 then (if req.val = 0 then s.emit (.aer 0) else s)
    else if fn.val = 1 then s.when (req.val == 0) fun t => writeMailbox t a (mergeHalf (readMailbox s a) o wide value.toNat) w lo
    else
      let v := mergeHalf ((readReg s a).getD 0) o wide value.toNat
      if a < 0x1000000 then writePackage s a v lo hi
      else if a < 0x9000000 then writeDie s req (dieFin (a / 0x1000000 - 1)) how (a % 0x1000000) v w lo hi
      else s)

/-! ## Reads of half registers (20 R455) -/

/-- What reading an interrupt register does besides: the claiming Zenith core's first read of SRC_STATUS samples LEVEL
(17 R386). -/
def readEffect (s : State) (req : Fin 17) (a : Nat) : State :=
  let d := dieFin (a / 0x1000000 - 1)
  let r := a % 0x1000000
  let n := 512 * d.val + (r - 0x701000) / 8
  let x := s.src n
  s.when (1 ≤ req.val && req.val ≤ 8 && 0x1000000 ≤ a && a < 0x9000000 && 0x701000 ≤ r && r < 0x702000
    && x.st == .active && x.core + 1 == req.val) fun t => sampleLevel t n

/-- A 4-byte read of function 1, which the host alone reaches and whose registers have 32 bits. -/
def readHalf1 (s : State) (req : Fin 17) (a at' : Nat) : State :=
  s.when (req.val == 0) fun t => returnRead t req 4 (fld (readMailbox t a) at' 32)

/-- LOW_HALF_READ: the low half is returned and the whole value captured. Two registers of 32 bits are read as they are. -/
def execLowHalfRead (req : Fin 17) (reg : RegPlace) (s : State) : Result :=
  let a := reg.addr.toNat / 8 * 8
  let s1 := readEffect s req a
  let value := readReg s1 a
  let s2 := match value with
    | some v => s1.when (oneReg a) fun t => setSnap t req a v
    | none => s1
  .next (if reg.fn.val = 1 then readHalf1 s req a 0 else returnRead s2 req 4 (fld (value.getD 0) 0 32))

/-- HIGH_HALF_READ: the snapshot's high half when it is tagged with the register, and otherwise the register's own. -/
def execHighHalfRead (req : Fin 17) (reg : RegPlace) (s : State) : Result :=
  let a := reg.addr.toNat / 8 * 8
  let s1 := readEffect s req a
  let own := (readReg s1 a).getD 0
  .next (if reg.fn.val = 1 then readHalf1 s req a 32 else returnRead s1 req 4 (fld (match s.clocks.snaps[req] with
    | some (t, v) => if t = a then v else own
    | none => own) 32 32))

/-! ## The first-position record (05 R121) -/

/-- NF_RECORD_CLEAR: all three registers of the record become zero. -/
def execNfRecordClear (core : CoreId) (s : State) : Result :=
  .next (s.modCore core fun x => { x with nf := .empty })

end Sys2Proof.Machine
end

