-- ==== Sys2Proof/Machine/Dispatch.lean ====
section
/-!
DEFINITION. Machine/Dispatch.lean: one arm per command, each a direct call of its meaning.
-/
namespace Sys2Proof.Machine

/-- The effect of a command on everything but the queue. -/
def exec (i : Instr) (s : State) : Host.Outcome State Fault Refusal :=
  match i with
  | .sop core h f => Sys2Proof.Machine.execSop core h f s
  | .sopi core h f => Sys2Proof.Machine.execSopi core h f s
  | .sli core h f imm => Sys2Proof.Machine.execSli core h f imm s
  | .sld core h f => Sys2Proof.Machine.execSld core h f s
  | .sst core h f => Sys2Proof.Machine.execSst core h f s
  | .scmp core h f => Sys2Proof.Machine.execScmp core h f s
  | .scmpi core h f => Sys2Proof.Machine.execScmpi core h f s
  | .pset core h f => Sys2Proof.Machine.execPset core h f s
  | .br core h f => Sys2Proof.Machine.execBr core h f s
  | .call core h f => Sys2Proof.Machine.execCall core h f s
  | .jmpr core h f => Sys2Proof.Machine.execJmpr core h f s
  | .srd core h f => Sys2Proof.Machine.execSrd core h f s
  | .dset core h f => Sys2Proof.Machine.execDset core h f s
  | .dget core h f => Sys2Proof.Machine.execDget core h f s
  | .dld core h f => Sys2Proof.Machine.execDld core h f s
  | .dst core h f => Sys2Proof.Machine.execDst core h f s
  | .dadv core h f => Sys2Proof.Machine.execDadv core h f s
  | .vbin core h f => Sys2Proof.Machine.execVbin core h f s
  | .vfma core h f => Sys2Proof.Machine.execVfma core h f s
  | .vun core h f => Sys2Proof.Machine.execVun core h f s
  | .vred core h f => Sys2Proof.Machine.execVred core h f s
  | .mmul core h f => Sys2Proof.Machine.execMmul core h f s
  | .mwld core h f => Sys2Proof.Machine.execMwld core h f s
  | .mrd core h f => Sys2Proof.Machine.execMrd core h f s
  | .pmv core h f => Sys2Proof.Machine.execPmv core h f s
  | .dma core h f => Sys2Proof.Machine.execDma core h f s
  | .tld core h f => Sys2Proof.Machine.execTld core h f s
  | .coll core h f => Sys2Proof.Machine.execColl core h f s
  | .exch core h f => Sys2Proof.Machine.execExch core h f s
  | .upd core h f w1 w2 w3 => Sys2Proof.Machine.execUpd core h f w1 w2 w3 s
  | .fend core h f => Sys2Proof.Machine.execFend core h f s
  | .waitq core h f => Sys2Proof.Machine.execWaitq core h f s
  | .bankset core h f => Sys2Proof.Machine.execBankset core h f s
  | .flagset core h f => Sys2Proof.Machine.execFlagset core h f s
  | .flagrd core h f => Sys2Proof.Machine.execFlagrd core h f s
  | .ptag core h f => Sys2Proof.Machine.execPtag core h f s
  | .reservedOpcodeTrap core op h f => Sys2Proof.Machine.execReservedOpcodeTrap core op h f s
  | .trapRecordWrite core => Sys2Proof.Machine.execTrapRecordWrite core s
  | .icacheLineFill core line how => Sys2Proof.Machine.execIcacheLineFill core line how s
  | .issueQueueSpace core => Sys2Proof.Machine.execIssueQueueSpace core s
  | .scalarAccessDone core how => Sys2Proof.Machine.execScalarAccessDone core how s
  | .descriptorFetchDone core how => Sys2Proof.Machine.execDescriptorFetchDone core how s
  | .queueInstructionDone core q wait => Sys2Proof.Machine.execQueueInstructionDone core q wait s
  | .waitqRelease core => Sys2Proof.Machine.execWaitqRelease core s
  | .handoverEffect core bank waited => Sys2Proof.Machine.execHandoverEffect core bank waited s
  | .fendRetire core elapsed => Sys2Proof.Machine.execFendRetire core elapsed s
  | .flagrdPayloadFinal core => Sys2Proof.Machine.execFlagrdPayloadFinal core s
  | .srdScaleRelease core => Sys2Proof.Machine.execSrdScaleRelease core s
  | .matrixFoldBoundary core => Sys2Proof.Machine.execMatrixFoldBoundary core s
  | .cirrusProductEnd core => Sys2Proof.Machine.execCirrusProductEnd core s
  | .bulkChannelAssign core ch => Sys2Proof.Machine.execBulkChannelAssign core ch s
  | .dmaSegmentDone core ch how => Sys2Proof.Machine.execDmaSegmentDone core ch how s
  | .dmaSegmentFailed core ch atDest inFlight => Sys2Proof.Machine.execDmaSegmentFailed core ch atDest inFlight s
  | .streamIn core ch => Sys2Proof.Machine.execStreamIn core ch s
  | .streamOut core ch => Sys2Proof.Machine.execStreamOut core ch s
  | .timebaseTick delays => Sys2Proof.Machine.execTimebaseTick delays s
  | .tickInEdge gap delays => Sys2Proof.Machine.execTickInEdge gap delays s
  | .markerReceive port frame fec delays => Sys2Proof.Machine.execMarkerReceive port frame fec delays s
  | .tickConflictEnd => Sys2Proof.Machine.execTickConflictEnd s
  | .tickArrival => Sys2Proof.Machine.execTickArrival s
  | .waveReceive port frame fec settle => Sys2Proof.Machine.execWaveReceive port frame fec settle s
  | .tickLoss => Sys2Proof.Machine.execTickLoss s
  | .frameStart => Sys2Proof.Machine.execFrameStart s
  | .frameComplete => Sys2Proof.Machine.execFrameComplete s
  | .frameWatchdog core => Sys2Proof.Machine.execFrameWatchdog core s
  | .coreStopRecord core => Sys2Proof.Machine.execCoreStopRecord core s
  | .imageEnd => Sys2Proof.Machine.execImageEnd s
  | .commandFetch bytes => Sys2Proof.Machine.execCommandFetch bytes s
  | .nop queue => Sys2Proof.Machine.execNop queue s
  | .copyToDevice queue => Sys2Proof.Machine.execCopyToDevice queue s
  | .copyFromDevice queue => Sys2Proof.Machine.execCopyFromDevice queue s
  | .copyChunkDone queue slot data retried how inFlight => Sys2Proof.Machine.execCopyChunkDone queue slot data retried how inFlight s
  | .loadImage queue bytes => Sys2Proof.Machine.execLoadImage queue bytes s
  | .start queue => Sys2Proof.Machine.execStart queue s
  | .stop queue => Sys2Proof.Machine.execStop queue s
  | .stopCommandComplete queue => Sys2Proof.Machine.execStopCommandComplete queue s
  | .resume queue => Sys2Proof.Machine.execResume queue s
  | .unload queue => Sys2Proof.Machine.execUnload queue s
  | .exportShard queue => Sys2Proof.Machine.execExportShard queue s
  | .importShard queue bytes => Sys2Proof.Machine.execImportShard queue bytes s
  | .sqTailWrite queue value good ep => Sys2Proof.Machine.execSqTailWrite queue value good ep s
  | .cqHeadWrite queue value good ep => Sys2Proof.Machine.execCqHeadWrite queue value good ep s
  | .evrHeadWrite ring value good ep => Sys2Proof.Machine.execEvrHeadWrite ring value good ep s
  | .queueEnable queue value => Sys2Proof.Machine.execQueueEnable queue value s
  | .queueDisable queue value => Sys2Proof.Machine.execQueueDisable queue value s
  | .eventRingEnable ring value => Sys2Proof.Machine.execEventRingEnable ring value s
  | .eventRingDisable ring value => Sys2Proof.Machine.execEventRingDisable ring value s
  | .winBaseWrite value => Sys2Proof.Machine.execWinBaseWrite value s
  | .bar2Read offset len how => Sys2Proof.Machine.execBar2Read offset len how s
  | .bar2Write offset bytes ep atomic => Sys2Proof.Machine.execBar2Write offset bytes ep atomic s
  | .bar0BadAccess write => Sys2Proof.Machine.execBar0BadAccess write s
  | .registerWrite req fn addr wide value how => Sys2Proof.Machine.execRegisterWrite req fn addr wide value how s
  | .msixUnmask fn what => Sys2Proof.Machine.execMsixUnmask fn what s
  | .lowHalfRead req reg => Sys2Proof.Machine.execLowHalfRead req reg s
  | .highHalfRead req reg => Sys2Proof.Machine.execHighHalfRead req reg s
  | .nfRecordClear core => Sys2Proof.Machine.execNfRecordClear core s
  | .flrFunction0 => Sys2Proof.Machine.execFlrFunction0 s
  | .flrFunction1 => Sys2Proof.Machine.execFlrFunction1 s
  | .perstNAssert => Sys2Proof.Machine.execPerstNAssert s
  | .perstNRelease rate link => Sys2Proof.Machine.execPerstNRelease rate link s
  | .enytreRead master seq index sub len offset secure => Sys2Proof.Machine.execEnytreRead master seq index sub len offset secure s
  | .enytreWrite master seq index sub offset data secure => Sys2Proof.Machine.execEnytreWrite master seq index sub offset data secure s
  | .enytreLock master seq index sub secure => Sys2Proof.Machine.execEnytreLock master seq index sub secure s
  | .enytreUnlock master seq index sub secure => Sys2Proof.Machine.execEnytreUnlock master seq index sub secure s
  | .enytreDescribe master seq index sub => Sys2Proof.Machine.execEnytreDescribe master seq index sub s
  | .enytreBadOpcode master opcode seq index sub => Sys2Proof.Machine.execEnytreBadOpcode master opcode seq index sub s
  | .lockLeaseExpiry master => Sys2Proof.Machine.execLockLeaseExpiry master s
  | .mailboxGo value => Sys2Proof.Machine.execMailboxGo value s
  | .stateCommandOperational master seq secure => Sys2Proof.Machine.execStateCommandOperational master seq secure s
  | .stateCommandPreop master seq secure => Sys2Proof.Machine.execStateCommandPreop master seq secure s
  | .stateCommandStop master seq secure => Sys2Proof.Machine.execStateCommandStop master seq secure s
  | .reservationWrite master seq sub value secure => Sys2Proof.Machine.execReservationWrite master seq sub value secure s
  | .powerBudgetWrite master seq value secure => Sys2Proof.Machine.execPowerBudgetWrite master seq value secure s
  | .packageResetWrite master seq secure => Sys2Proof.Machine.execPackageResetWrite master seq secure s
  | .computeResetWrite master seq secure => Sys2Proof.Machine.execComputeResetWrite master seq secure s
  | .computeResetBondWrite master seq secure => Sys2Proof.Machine.execComputeResetBondWrite master seq secure s
  | .zenithWatchdogExpiry die => Sys2Proof.Machine.execZenithWatchdogExpiry die s
  | .zenithRestartDone die => Sys2Proof.Machine.execZenithRestartDone die s
  | .i3cEntdaa addr => Sys2Proof.Machine.execI3cEntdaa addr s
  | .i3cSetdasa static addr => Sys2Proof.Machine.execI3cSetdasa static addr s
  | .i3cSetmrl n => Sys2Proof.Machine.execI3cSetmrl n s
  | .i3cSetmwl n => Sys2Proof.Machine.execI3cSetmwl n s
  | .i3cRstdaa => Sys2Proof.Machine.execI3cRstdaa s
  | .i3cTargetReset => Sys2Proof.Machine.execI3cTargetReset s
  | .mctpMessageReceive type body good secure => Sys2Proof.Machine.execMctpMessageReceive type body good secure s
  | .mctpSetEndpointId eid => Sys2Proof.Machine.execMctpSetEndpointId eid s
  | .mctpGetEndpointId => Sys2Proof.Machine.execMctpGetEndpointId s
  | .mctpGetVersionSupport => Sys2Proof.Machine.execMctpGetVersionSupport s
  | .mctpGetMessageTypeSupport => Sys2Proof.Machine.execMctpGetMessageTypeSupport s
  | .pldmBaseDiscovery master => Sys2Proof.Machine.execPldmBaseDiscovery master s
  | .pldmSensorRead master sensor => Sys2Proof.Machine.execPldmSensorRead master sensor s
  | .pldmSetThreshold master sensor sub data => Sys2Proof.Machine.execPldmSetThreshold master sensor sub data s
  | .pldmRequestUpdate master => Sys2Proof.Machine.execPldmRequestUpdate master s
  | .pldmTransferEnd master image version rollback => Sys2Proof.Machine.execPldmTransferEnd master image version rollback s
  | .pldmActivateFirmware master selfContained => Sys2Proof.Machine.execPldmActivateFirmware master selfContained s
  | .spdmGetVersion master => Sys2Proof.Machine.execSpdmGetVersion master s
  | .spdmGetCapabilities master => Sys2Proof.Machine.execSpdmGetCapabilities master s
  | .spdmNegotiateAlgorithms master offers => Sys2Proof.Machine.execSpdmNegotiateAlgorithms master offers s
  | .spdmGetDigests master => Sys2Proof.Machine.execSpdmGetDigests master s
  | .spdmGetCertificate master slot offset len => Sys2Proof.Machine.execSpdmGetCertificate master slot offset len s
  | .spdmChallenge master slot => Sys2Proof.Machine.execSpdmChallenge master slot s
  | .spdmGetMeasurements master index signed => Sys2Proof.Machine.execSpdmGetMeasurements master index signed s
  | .spdmKeyExchange master slot => Sys2Proof.Machine.execSpdmKeyExchange master slot s
  | .spdmFinish master good => Sys2Proof.Machine.execSpdmFinish master good s
  | .spdmHeartbeat master => Sys2Proof.Machine.execSpdmHeartbeat master s
  | .spdmKeyUpdate master => Sys2Proof.Machine.execSpdmKeyUpdate master s
  | .spdmEndSession master => Sys2Proof.Machine.execSpdmEndSession master s
  | .licenceInstall master record => Sys2Proof.Machine.execLicenceInstall master record s
  | .licenceList master => Sys2Proof.Machine.execLicenceList master s
  | .licenceRemove master serial secure => Sys2Proof.Machine.execLicenceRemove master serial secure s
  | .sourceAssert source d0 d1 => Sys2Proof.Machine.execSourceAssert source d0 d1 s
  | .stormWindowEnd => Sys2Proof.Machine.execStormWindowEnd s
  | .extInputFilterChange input => Sys2Proof.Machine.execExtInputFilterChange input s
  | .extInputGlitch input => Sys2Proof.Machine.execExtInputGlitch input s
  | .quarantineRelease source => Sys2Proof.Machine.execQuarantineRelease source s
  | .claimRead zenith => Sys2Proof.Machine.execClaimRead zenith s
  | .completeWrite zenith source => Sys2Proof.Machine.execCompleteWrite zenith source s
  | .claimFastRead zenith => Sys2Proof.Machine.execClaimFastRead zenith s
  | .completeFastWrite zenith source => Sys2Proof.Machine.execCompleteFastWrite zenith source s
  | .srcStatusLevelSample zenith source => Sys2Proof.Machine.execSrcStatusLevelSample zenith source s
  | .icModeQueueWrite die => Sys2Proof.Machine.execIcModeQueueWrite die s
  | .icModeClaimWrite die => Sys2Proof.Machine.execIcModeClaimWrite die s
  | .eqHeadAdvance die n => Sys2Proof.Machine.execEqHeadAdvance die n s
  | .contrailEventSend => Sys2Proof.Machine.execContrailEventSend s
  | .regionApply die => Sys2Proof.Machine.execRegionApply die s
  | .regionApplyDone die => Sys2Proof.Machine.execRegionApplyDone die s
  | .scrubStep die hbm how => Sys2Proof.Machine.execScrubStep die hbm how s
  | .ctReadRaw die target => Sys2Proof.Machine.execCtReadRaw die target s
  | .ctWriteRaw die target => Sys2Proof.Machine.execCtWriteRaw die target s
  | .ctEncode die target => Sys2Proof.Machine.execCtEncode die target s
  | .ctReadDecoded die target how => Sys2Proof.Machine.execCtReadDecoded die target how s
  | .cacheWriteBack die => Sys2Proof.Machine.execCacheWriteBack die s
  | .cacheDemote die => Sys2Proof.Machine.execCacheDemote die s
  | .keepWinWrite die n value => Sys2Proof.Machine.execKeepWinWrite die n value s
  | .ringRegWrite die n value => Sys2Proof.Machine.execRingRegWrite die n value s
  | .portEnable port => Sys2Proof.Machine.execPortEnable port s
  | .portDisable port => Sys2Proof.Machine.execPortDisable port s
  | .portRetrainWrite port => Sys2Proof.Machine.execPortRetrainWrite port s
  | .portTrained port pkg pport fec => Sys2Proof.Machine.execPortTrained port pkg pport fec s
  | .portTrainSlow port => Sys2Proof.Machine.execPortTrainSlow port s
  | .probeSend port stamp => Sys2Proof.Machine.execProbeSend port stamp s
  | .probeReceive port frame fec arrive turn => Sys2Proof.Machine.execProbeReceive port frame fec arrive turn s
  | .probeTimeout port => Sys2Proof.Machine.execProbeTimeout port s
  | .measureTimeout port => Sys2Proof.Machine.execMeasureTimeout port s
  | .codewordLockLoss port => Sys2Proof.Machine.execCodewordLockLoss port s
  | .retrainTimeout port => Sys2Proof.Machine.execRetrainTimeout port s
  | .dataFrameSend port vc => Sys2Proof.Machine.execDataFrameSend port vc s
  | .dataFrameReceive port frame fixed bad => Sys2Proof.Machine.execDataFrameReceive port frame fixed bad s
  | .ctrlFrameReceive port frame fec => Sys2Proof.Machine.execCtrlFrameReceive port frame fec s
  | .ackTimer port => Sys2Proof.Machine.execAckTimer port s
  | .dropstitchTriggerOff port drop corrupt reorder classes => Sys2Proof.Machine.execDropstitchTriggerOff port drop corrupt reorder classes s
  | .dropstitchTriggerNow port drop corrupt reorder classes => Sys2Proof.Machine.execDropstitchTriggerNow port drop corrupt reorder classes s
  | .dropstitchTriggerTick port drop corrupt reorder classes => Sys2Proof.Machine.execDropstitchTriggerTick port drop corrupt reorder classes s
  | .dropstitchSingleShot port drop corrupt reorder classes => Sys2Proof.Machine.execDropstitchSingleShot port drop corrupt reorder classes s
  | .collAccept die => Sys2Proof.Machine.execCollAccept die s
  | .collChunkReceive src => Sys2Proof.Machine.execCollChunkReceive src s
  | .collComplete die slot lost => Sys2Proof.Machine.execCollComplete die slot lost s
  | .exchAccept die => Sys2Proof.Machine.execExchAccept die s
  | .manifestReceive src => Sys2Proof.Machine.execManifestReceive src s
  | .grantReceive src => Sys2Proof.Machine.execGrantReceive src s
  | .rowReceive src => Sys2Proof.Machine.execRowReceive src s
  | .returnReceive src => Sys2Proof.Machine.execReturnReceive src s
  | .dispatchFinish die slot => Sys2Proof.Machine.execDispatchFinish die slot s
  | .exchComplete die slot lost => Sys2Proof.Machine.execExchComplete die slot lost s
  | .updAccept die => Sys2Proof.Machine.execUpdAccept die s
  | .gradientHandoff die slot => Sys2Proof.Machine.execGradientHandoff die slot s
  | .bandReady die slot elem => Sys2Proof.Machine.execBandReady die slot elem s
  | .blockWritten die slot block => Sys2Proof.Machine.execBlockWritten die slot block s
  | .refreshEnd die rec => Sys2Proof.Machine.execRefreshEnd die rec s
  | .fingerprintReceive src late => Sys2Proof.Machine.execFingerprintReceive src late s
  | .gaugeTimeoutExpiry die rec => Sys2Proof.Machine.execGaugeTimeoutExpiry die rec s
  | .repairDone die rec data failed => Sys2Proof.Machine.execRepairDone die rec data failed s
  | .controllerStep die dieMw stackMw cores rest soon => Sys2Proof.Machine.execControllerStep die dieMw stackMw cores rest soon s
  | .packageStep mw mj => Sys2Proof.Machine.execPackageStep mw mj s
  | .avsbusCommandDone die ok status => Sys2Proof.Machine.execAvsbusCommandDone die ok status s
  | .droopDetect die => Sys2Proof.Machine.execDroopDetect die s
  | .vrAlertFall group => Sys2Proof.Machine.execVrAlertFall group s
  | .vrAlertHoldEnd group => Sys2Proof.Machine.execVrAlertHoldEnd group s
  | .brownoutDip group mv => Sys2Proof.Machine.execBrownoutDip group mv s
  | .brownoutHoldEnd group => Sys2Proof.Machine.execBrownoutHoldEnd group s
  | .railResetLevel group => Sys2Proof.Machine.execRailResetLevel group s
  | .sensorRead die readings stack => Sys2Proof.Machine.execSensorRead die readings stack s
  | .sensorCheck die estimates => Sys2Proof.Machine.execSensorCheck die estimates s
  | .thermalThrottleStep die => Sys2Proof.Machine.execThermalThrottleStep die s
  | .remoteConversion channel result => Sys2Proof.Machine.execRemoteConversion channel result s
  | .thermalTrip die reading => Sys2Proof.Machine.execThermalTrip die reading s
  | .ageingReplan growth => Sys2Proof.Machine.execAgeingReplan growth s
  | .operatingHour => Sys2Proof.Machine.execOperatingHour s
  | .bondTestGraceExpiry => Sys2Proof.Machine.execBondTestGraceExpiry s
  | .vddAonRise testEn cool => Sys2Proof.Machine.execVddAonRise testEn cool s
  | .sysResetNLow testEn cool => Sys2Proof.Machine.execSysResetNLow testEn cool s
  | .bootRom => Sys2Proof.Machine.execBootRom s
  | .firmwareStart rails order bridges rate width => Sys2Proof.Machine.execFirmwareStart rails order bridges rate width s
  | .railsWaiting rails => Sys2Proof.Machine.execRailsWaiting rails s
  | .stratusBringup die bond => Sys2Proof.Machine.execStratusBringup die bond s
  | .hbmBringup die fails repaired => Sys2Proof.Machine.execHbmBringup die fails repaired s
  | .computeBringup swatch => Sys2Proof.Machine.execComputeBringup swatch s
  | .pendingSlotTimeout => Sys2Proof.Machine.execPendingSlotTimeout s
  | .computeResetContinue bond swatch => Sys2Proof.Machine.execComputeResetContinue bond swatch s
  | .pllUnlock die pll us => Sys2Proof.Machine.execPllUnlock die pll us s
  | .pllRelock die pll => Sys2Proof.Machine.execPllRelock die pll s
  | .refclkLoss ref khz => Sys2Proof.Machine.execRefclkLoss ref khz s
  | .crossingTimeout req write half offset => Sys2Proof.Machine.execCrossingTimeout req write half offset s
  | .crossInfoClear die => Sys2Proof.Machine.execCrossInfoClear die s
  | .vrAlertRise group => Sys2Proof.Machine.execVrAlertRise group s
  | .railAboveWarningLevel group mv us => Sys2Proof.Machine.execRailAboveWarningLevel group mv us s
  | .refclkReturn ref rate width => Sys2Proof.Machine.execRefclkReturn ref rate width s
  | .vddAonLoss => Sys2Proof.Machine.execVddAonLoss s
  | .exportRecordDone => Sys2Proof.Machine.execExportRecordDone s
  | .fuseUpdate epoch rollback => Sys2Proof.Machine.execFuseUpdate epoch rollback s

end Sys2Proof.Machine
end

