-- ==== Sys2Proof/Machine/Upsets.lean ====
section
/-!
DEFINITION. Machine/Upsets.lean: what may happen to the memories, the arrays and the units between commands. Radiation and
ageing change stored bits and end units at times that nothing states (01 R11 to R15, 03 R69, R70, 09 R195 to R203), so an
idle cycle may bring such an event, as a free value says (notes/assumptions/147.md).
-/
namespace Sys2Proof.Machine

/-- The lowest `n` bits of the number at digit `i`, for a free value read as a list of 64-bit digits. -/
def digit (r i n : Nat) : Nat := r / 2 ^ (64 * i) % 2 ^ n

/-- A byte of Stratus or HBM and the check of its unit of protection flipped in place. -/
def strikeMem (s : State) (a flip check : Nat) : State :=
  match regionOf s a with
  | none => s
  | some h =>
    let v := (kvGet 0#8 s.mem a).toNat ^^^ flip % 256
    let m := memSet s.mem a (BitVec.ofNat 8 v)
    if h.isByte then
      { s with mem := m
               byteDev := kvMod 0 s.byteDev a fun dev => dev ^^^ byteCheck (kvGet 0#8 s.mem a).toNat ^^^ byteCheck v ^^^ check % 32 }
    else
      let p := pageOf a
      let code (x : List Host.Cell) : Nat := pageCheck h.t (memRead x p 512)
      { s with mem := m
               pageDev := kvMod 0 s.pageDev p fun dev => dev ^^^ code s.mem ^^^ code m ^^^ check % 2 ^ (20 * h.t) }

/-- A word and its check bits flipped: the new word and the new deviation. -/
def strikeWord (v dev flip check : Nat) : Nat × Nat :=
  let w := (v ^^^ flip) % 2 ^ 32
  (w, dev ^^^ wordCheck v ^^^ wordCheck w ^^^ check % 128)

/-- A scratchpad word flipped. -/
def strikeScratch (s : State) (k flip check : Nat) : State :=
  let a := k / 4 * 4
  let w := strikeWord (leNat (memRead s.scratch a 4)) (kvGet 0 s.wordDev a) flip check
  keepDead { s with scratch := memWrite s.scratch a (leBytes 4 w.1), wordDev := kvSet 0 s.wordDev a w.2 } [a]

/-- An accumulator word flipped. -/
def strikeAcc (s : State) (c : CoreId) (k flip check : Nat) : State :=
  s.modCore c fun x =>
    let w := strikeWord (kvGet 0#32 x.acc k).toNat (kvGet 0 x.accDev k) flip check
    { x with acc := kvSet 0 x.acc k (BitVec.ofNat 32 w.1), accDev := kvSet 0 x.accDev k w.2 }

/-- A sum store word flipped. -/
def strikeSum (s : State) (c : CoreId) (k flip check : Nat) : State :=
  s.modCore c fun x =>
    let w := strikeWord (kvGet 0#32 x.sum k).toNat (kvGet 0 x.sumDev k) flip check
    { x with sum := kvSet 0 x.sum k (BitVec.ofNat 32 w.1), sumDev := kvSet 0 x.sumDev k w.2 }

/-- An operand buffer word flipped. -/
def strikeBuffer (s : State) (c : CoreId) (k flip check : Nat) : State :=
  s.modCore c fun x =>
    let w := strikeWord (kvGet 0 x.bufWord k - 1) (kvGet 0 x.bufDev k) flip check
    { x with bufWord := kvSet 0 x.bufWord k (w.1 + 1), bufDev := kvSet 0 x.bufDev k w.2 }

/-- A word of a line of the instruction cache flipped. -/
def strikeFetch (s : State) (c : CoreId) (off flip check : Nat) : State :=
  if !(s.core c).lines.contains (off / 256 * 256) then s
  else
    let k := icKey off
    let w := strikeWord (icVal s c off) (kvGet 0 (s.core c).icDev k) flip check
    s.modCore c fun x => { x with icWord := kvSet 0 x.icWord k (w.1 + 1), icDev := kvSet 0 x.icDev k w.2 }

/-- A word of a resident line of a cache slice flipped. -/
def strikeFrame (s : State) (d : DieId) (k flip check : Nat) : State :=
  match residentLine s d (wordLine k) with
  | none => s
  | some _ =>
    let v := frameWord s d k
    let w := strikeWord v.1 v.2 flip check
    setFrameWord s d k w.1 w.2

/-- An uncorrectable tag or state entry of a resident line: a clean line is invalidated and fetched again, which is
transient; of a dirty one, the slice has failed for good (09 R203, 01 R15). -/
def strikeTag (s : State) (d : DieId) (line : Nat) : State :=
  match residentLine s d line with
  | none => s
  | some l => if l.dirty then failUnit s (.slice d.val (sliceOf line)) 0 else (clearWords s d (64 * line) 64).bump 0xC10003

/-- A register file word in error: 1 correctable, 2 not. s0 and p0 are no storage (03 R46, R70). -/
def strikeReg (s : State) (c : CoreId) (k e : Nat) : State :=
  let key := k % 136
  if key = 0 || key = 128 || (32 ≤ key && key < 64) || (80 ≤ key && key < 128) then s
  else s.modCore c fun x => { x with regErr := kvSet 0 x.regErr key (1 + e % 2) }

/-- The unit of 01 R15 that a number names. -/
def unitOf (n d k : Nat) : FailUnit :=
  match n % 6 with
  | 0 => .hbm (d % 8)
  | 1 => .slice (d % 8) (k % 16)
  | 2 => .cirrus (d % 8)
  | 3 => .skein (d % 8)
  | 4 => .bridge (k % 10)
  | _ => .zenith (d % 8)

/-- The event that a free value names: most values name none. -/
def upsetOf (s : State) (r : Nat) : State :=
  let c := coreFin (digit r 1 64)
  let d := dieFin (digit r 1 64)
  let k := digit r 2 64
  let flip := digit r 3 32
  let check := r / 2 ^ 256
  match digit r 0 64 with
  | 1 => { s with wear := { s.wear with next := .transient } }
  | 2 => { s with wear := { s.wear with next := .lasting } }
  | 3 => { s with wear := { s.wear with next := .hard } }
  | 4 => strikeMem s k flip check
  | 5 => strikeScratch s (scratchKey c (k % 2 ^ 24)) flip check
  | 6 => strikeAcc s c (k % 2 ^ 18) flip check
  | 7 => strikeSum s c (k % 2 ^ 19) flip check
  | 8 => strikeBuffer s c (k % 2 ^ 26) flip check
  | 9 => strikeFetch s c (k / 4 * 4) flip check
  | 10 => strikeFrame s d (k % 2 ^ 34) flip check
  | 11 => strikeTag s d (k % 2 ^ 28)
  | 12 => strikeReg s c k flip
  | 13 => failUnit s (unitOf k (digit r 1 64) flip) 0
  | _ => s

/-- A cycle of the always-on clock in which no command comes: time passes, and an upset may happen
(notes/assumptions/2.md, 147.md). -/
def idle (s : State) : State :=
  let r := s.draw
  upsetOf { r.2 with now := r.2.now + 1 } r.1

end Sys2Proof.Machine
end

