-- ==== Sys2Proof/Safety.lean ====
section
/-!
DEFINITION. Safety.lean: what must hold of every state of a run, in the terms that statements use.
-/
namespace Sys2Proof.Machine

/-- Stratus, HBM and the scratchpads are held in their canonical form: addresses strictly rising, and no byte listed that
equals what an unlisted address reads as. -/
def State.MemCanonical (s : State) : Prop := memWf s.mem = true ∧ memWf s.scratch = true

/-- Register s0 of every core reads as zero, and predicate p0 as one (03 Table 3.1). -/
def State.HardWired (s : State) : Prop := ∀ c : CoreId, (s.core c).sregs[0] = 0 ∧ (s.core c).preds.getLsbD 0 = true

/-- The dictionary lists no object at its default, and each object once. -/
def State.DictCanonical (s : State) : Prop := kvSorted s.dict = true ∧ ∀ p ∈ s.dict, p.2 ≠ objDefault p.1

/-- A run goes on: the step answers a next state. -/
def State.goesOn (s : State) : Prop := ∃ t, step s = .next t

/-! ## When a Kamevesa instruction takes effect -/

/-- The controller of a core issues an instruction of so many words: it runs and is not stalled, the fetch meets no error, LEN
is right, the guard holds, and no word of the register file or of the instruction cache is in error (03 R55 to R57, R69, R70,
04 R77). -/
abbrev Issues (s : State) (c : CoreId) (words : Nat) (h : Hdr) : Prop :=
  canIssue (s.core c) = true ∧ fetchTrap s c 1 = none ∧ fetchTrap s c words = none ∧ h.len.toNat = lenCode words
    ∧ guardOf (s.core c) h = true ∧ (s.core c).regErr = [] ∧ (s.core c).icDev = []

/-- No scratchpad word is in error or has a hard fault, and no upset waits for the next read of an array (09 R196, R202,
R203; notes/assumptions/147.md). -/
abbrev ScratchSound (s : State) : Prop := s.wordDev = [] ∧ s.wear.dead = [] ∧ s.wear.next = .good

/-- A core of the state after an instruction of one word that changes its registers as `f` does: the program counter and the
program order move on, and nothing else changes. -/
def State.ran (s : State) (c : CoreId) (words : Nat) (f : CoreState → CoreState) : State :=
  let x := f (s.core c)
  s.setCore c { x with pc := (s.core c).pc + BitVec.ofNat 64 (8 * words), seq := (s.core c).seq + 1 }

/-- A core with an instruction appended to a queue, and ISSUED of the queue incremented (03 R64). -/
def CoreState.appended (x : CoreState) (q : Nat) (i : QInst) : CoreState := (x.setQueue q (x.queue q ++ [i])).incIssued q

/-- The state after an instruction of one word that goes to a queue: it is appended, or the controller stalls while the
queue holds 16 (03 R56, R64). `onIssue` is what else its issue changes in the core. -/
def State.queuedOr (s : State) (c : CoreId) (q : Nat) (op : QOp) (onIssue : CoreState → CoreState) : State :=
  if 16 ≤ ((s.core c).queue q).length then s.modCore c fun x => { x with stall := .queue q }
  else s.ran c 1 fun x => onIssue (x.appended q (mkQInst s c op true))

/-- The instruction at the head of a queue that may work: an instruction and those behind it. -/
abbrev HeadOf (s : State) (c : CoreId) (q : Nat) (i : QInst) (rest : List QInst) : Prop :=
  (s.core c).queue q = i :: rest ∧ mayWork (s.core c) q = true

/-! ## Commands of the host -/

/-- The command of a queue has completed: the queue holds none, one more completion entry is used, and an entry with the
command's ID, the queue's number and the status has been written at the place of the next entry (15 Table 15.5). -/
abbrev Completed (s t : State) (q : Fin 64) (c : HostCmd) (status : Nat) : Prop :=
  (t.queue q).cmd = none ∧ (t.queue q).cqUsed = (s.queue q).cqUsed + 1 ∧
    ∃ bs, Output.hostWrite ((s.queue q).cqBase + 32 * (s.queue q).cqWrite) bs false ∈ t.out ∧ bs.length = 32 ∧
      leAt bs 0 2 = c.id % 65536 ∧ leAt bs 2 1 = q.val ∧ leAt bs 3 1 = status

/-- Two states that differ in one core alone. -/
abbrev OnlyCore (c : CoreId) (s t : State) : Prop := t = { s with cores := s.cores.set c (t.core c) }

/-! ## Requests of the two masters -/

/-- A message has been sent to a master as the answer of its request: from the mailbox to the host, on Contrail to the other
(16 R360 to R362). -/
abbrev Told (t : State) (m : Fin 2) (q : EnyReq) (st off : Nat) (data : List Byte) : Prop :=
  (m = 0 → Output.reply 0 (answerBytes q ⟨st, off, data⟩) ∈ t.out) ∧
    (m = 1 → Output.mctp 0x7E (mctpVendor ++ answerBytes q ⟨st, off, data⟩) ∈ t.out)

/-- A master's request is processed and not refused for the master, its session or the device state (16 R355, R377). -/
abbrev MayRequest (s : State) (m : Fin 2) (op index : Nat) (secure write : Bool) : Prop :=
  served s m = true ∧ notSecure s m op secure = false ∧ statePermitsReq s write index = true

end Sys2Proof.Machine
end

