-- ==== Sys2Proof/Certificates/Slice0/Obligations.lean ====
section
/-!
DEFINITION. Certificates/Slice0/Obligations.lean: the statements for the provers. Each names the rules of spec/ it rests on;
OBLIGATIONS.json lists them with their titles and tiers.
-/
open Sys2Proof Sys2Proof.Machine

/-- For every command c, every list of commands rest and every state s whose queue is c followed by rest, step answers
what exec c answers on s with its queue replaced by rest. The queue is the model's frame for commands
(notes/assumptions/2.md). (R8, R341) -/
def Obligations.StepRunsTheFrontCommand : Prop :=
  ∀ (c : Instr) (rest : List Instr) (s : State), s.pending = c :: rest → step s = exec c { s with pending := rest }

/-- For every core state, register numbers i and j below 32 and value v: after writing v to register i, register j reads
zero if j is 0, v if j is i, and what it read before otherwise. The same of the predicates below 8, where predicate 0
reads one. A write to s0 or p0 changes nothing at all. (R46, R81) -/
def Obligations.ScalarRegistersAndPredicates : Prop :=
  (∀ (x : CoreState) (i j : Nat) (v : Word), i < 32 → j < 32 →
    (x.setSreg i v).sreg j = if j = 0 then 0 else if j = i then v else x.sreg j) ∧
  (∀ (x : CoreState) (i j : Nat) (b : Bool), i < 8 → j < 8 →
    (x.setPred i b).pred j = if j = 0 then true else if j = i then b else x.pred j) ∧
  (∀ (x : CoreState) (v : Word) (b : Bool), x.setSreg 0 v = x ∧ x.setPred 0 b = x)

/-- When the controller issues the instruction with its guard true, its reserved fields are zero and FN is assigned: SOP
writes FN(SA, SB) and SOPI writes FN(SA, IMM) into SD, with IMM sign-extended or taken as an FP32 bit pattern, and SLI
writes its second word. The result is the state in which the core's register SD holds that value (none for SD = 0), its
program counter has moved by the instruction's words, its program order by one, and nothing else has changed: no other
register, flag, memory byte or core. (R80, R76, R56, R46) -/
def Obligations.ScalarAluWritesSd : Prop :=
  (∀ (core : CoreId) (h : Hdr) (f : BitVec 51) (s : State) (v : Word), Issues s core 1 h → ff f 0 30 = 0 →
    scalarFn (ff f 30 6) ((s.core core).sreg (ff f 41 5)) ((s.core core).sreg (ff f 36 5)) = some v →
    exec (.sop core h f) s = .next (s.ran core 1 fun x => x.setSreg (ff f 46 5) v)) ∧
  (∀ (core : CoreId) (h : Hdr) (f : BitVec 51) (s : State) (v : Word), Issues s core 1 h → ff f 32 3 = 0 →
    scalarFn (ff f 35 6) ((s.core core).sreg (ff f 41 5)) (immOperand (ff f 35 6) (BitVec.ofNat 32 (ff f 0 32))) = some v →
    exec (.sopi core h f) s = .next (s.ran core 1 fun x => x.setSreg (ff f 46 5) v)) ∧
  (∀ (core : CoreId) (h : Hdr) (f : BitVec 51) (imm : BitVec 64) (s : State), Issues s core 2 h → ff f 0 46 = 0 →
    exec (.sli core h f imm) s = .next (s.ran core 2 fun x => x.setSreg (ff f 46 5) imm))

/-- When the controller issues the instruction with its guard true and its reserved fields are zero: SCMP writes CC(SA,
SB), SCMPI CC(SA, sign-extended IMM) and PSET bit 2 × p[PA] + p[PB] of TT into predicate PD. The program counter moves
by one word and nothing else changes. (R83) -/
def Obligations.ComparesWriteThePredicate : Prop :=
  (∀ (core : CoreId) (h : Hdr) (f : BitVec 51) (s : State) (b : Bool), Issues s core 1 h → ff f 46 2 = 0 → ff f 0 32 = 0 →
    condition (ff f 32 4) ((s.core core).sreg (ff f 41 5)) ((s.core core).sreg (ff f 36 5)) = some b →
    exec (.scmp core h f) s = .next (s.ran core 1 fun x => x.setPred (ff f 48 3) b)) ∧
  (∀ (core : CoreId) (h : Hdr) (f : BitVec 51) (s : State) (b : Bool), Issues s core 1 h → ff f 46 2 = 0 → ff f 36 5 = 0 →
    condition (ff f 32 4) ((s.core core).sreg (ff f 41 5)) ((BitVec.ofNat 32 (ff f 0 32)).signExtend 64) = some b →
    exec (.scmpi core h f) s = .next (s.ran core 1 fun x => x.setPred (ff f 48 3) b)) ∧
  (∀ (core : CoreId) (h : Hdr) (f : BitVec 51) (s : State), Issues s core 1 h → ff f 0 38 = 0 →
    exec (.pset core h f) s = .next (s.ran core 1 fun x => x.setPred (ff f 48 3)
      (bitAt (ff f 38 4 / 2 ^ (2 * (x.pred (ff f 45 3)).toNat + (x.pred (ff f 42 3)).toNat)) 0)))

/-- When the controller issues the branch with its guard true and its reserved fields are zero: a target that is a
multiple of 8 below CODE_BYTES becomes the program counter, and nothing else changes but the program order and, for
CALL, SD, which receives PC + 8. Any other target traps with FETCH_BOUNDS (cause 3), whose TRAP_DETAIL is the target, at
the branch's own program counter. (R84, R57) -/
def Obligations.BranchesMoveTheProgramCounter : Prop :=
  (∀ (core : CoreId) (h : Hdr) (f : BitVec 51) (s : State), Issues s core 1 h → ff f 32 19 = 0 →
    exec (.br core h f) s = .next (
      let t := (s.core core).pc + BitVec.ofInt 64 (8 * sgn 32 (ff f 0 32))
      if targetOk s t then s.modCore core fun x => { x with pc := t, seq := x.seq + 1 }
      else trapCore s core (fetchBounds s core t.toNat) 0xFF (s.core core).pc.toNat)) ∧
  (∀ (core : CoreId) (h : Hdr) (f : BitVec 51) (s : State), Issues s core 1 h → ff f 32 14 = 0 →
    exec (.call core h f) s = .next (
      let pc := (s.core core).pc
      let t := pc + BitVec.ofInt 64 (8 * sgn 32 (ff f 0 32))
      if targetOk s t then s.modCore core fun x => { x.setSreg (ff f 46 5) (pc + 8) with pc := t, seq := x.seq + 1 }
      else trapCore s core (fetchBounds s core t.toNat) 0xFF pc.toNat)) ∧
  (∀ (core : CoreId) (h : Hdr) (f : BitVec 51) (s : State), Issues s core 1 h → ff f 46 5 = 0 → ff f 0 41 = 0 →
    exec (.jmpr core h f) s = .next (
      let t := (s.core core).sreg (ff f 41 5)
      if targetOk s t then s.modCore core fun x => { x with pc := t, seq := x.seq + 1 }
      else trapCore s core (fetchBounds s core t.toNat) 0xFF (s.core core).pc.toNat))

/-- When the controller issues SRD with its guard true and bits [37:0] zero: for SEL 0 to 7 SD receives the core number,
the cores used, the die, the frame index, the step, the package identifier, the tick counter or the seed. For SEL 8 it
receives the loss-scale exponent of the core's step where every earlier step is decided. Nothing else changes but the
program counter. (R85, R292) -/
def Obligations.SrdReadsTheSelectedValue : Prop :=
  (∀ (core : CoreId) (h : Hdr) (f : BitVec 51) (s : State), Issues s core 1 h → ff f 0 38 = 0 → ff f 38 8 < 8 →
    exec (.srd core h f) s = .next (s.ran core 1 fun x => x.setSreg (ff f 46 5) (BitVec.ofNat 64 (
      match ff f 38 8 with
      | 0 => core.val
      | 1 => s.usedCores
      | 2 => core.val / 4
      | 3 => x.frame % 2 ^ 32
      | 4 => x.step
      | 5 => s.obj kPackageId
      | 6 => s.tick.count
      | _ => s.obj kSeed)))) ∧
  (∀ (core : CoreId) (h : Hdr) (f : BitVec 51) (s : State) (e : Nat), Issues s core 1 h → ff f 0 38 = 0 → ff f 38 8 = 8 →
    stepScale s (s.core core).step = some e →
    exec (.srd core h f) s = .next (s.ran core 1 fun x => x.setSreg (ff f 46 5) (BitVec.ofNat 64 e)))

/-- When the controller issues the instruction with its guard true, its reserved fields and its descriptor's reserved field
zero and FIELD assigned: DSET replaces the field of descriptor AD by the low bits of SA, DGET writes the field into SD,
sign-extended for the strides, and DADV with DIM 1 or 2 adds SA strides to BASE and SA to ORIGIN of that dimension, each wrapping at its width. Nothing
else changes but the program counter. (R86, R48) -/
def Obligations.DescriptorFieldInstructions : Prop :=
  (∀ (core : CoreId) (h : Hdr) (f : BitVec 51) (s : State) (lo w : Nat), Issues s core 1 h → ff f 0 38 = 0 →
    dField (ff f 43 4) = some (lo, w) → dReserved ((s.core core).adesc (ff f 47 4)) = 0 →
    exec (.dset core h f) s = .next (s.ran core 1 fun x => x.setAdesc (ff f 47 4)
      (BitVec.ofNat 256 (setFld (x.adesc (ff f 47 4)).toNat lo w (x.sreg (ff f 38 5)).toNat)))) ∧
  (∀ (core : CoreId) (h : Hdr) (f : BitVec 51) (s : State) (lo w : Nat), Issues s core 1 h → ff f 0 38 = 0 →
    dField (ff f 38 4) = some (lo, w) → dReserved ((s.core core).adesc (ff f 42 4)) = 0 →
    exec (.dget core h f) s = .next (s.ran core 1 fun x => x.setSreg (ff f 46 5)
      (let v := fld (x.adesc (ff f 42 4)).toNat lo w
       if ff f 38 4 = 3 ∨ ff f 38 4 = 4 then BitVec.ofInt 64 (sgn 32 v) else BitVec.ofNat 64 v))) ∧
  (∀ (core : CoreId) (h : Hdr) (f : BitVec 51) (s : State), Issues s core 1 h → ff f 0 40 = 0 →
    ff f 40 2 = 1 ∨ ff f 40 2 = 2 → dReserved ((s.core core).adesc (ff f 47 4)) = 0 →
    exec (.dadv core h f) s = .next (s.ran core 1 fun x => x.setAdesc (ff f 47 4)
      (descAdvance (x.adesc (ff f 47 4)) (ff f 40 2) (x.sreg (ff f 42 5)))))

/-- When the controller issues the access with its guard true, its reserved bits and those of the descriptor that DST stores
zero, and the checks of R53, R54 and R82 find nothing at SEG:(SA + OFF) for its size: the controller stalls on that access, with the destination register,
the value to be stored or the descriptor, and the state is otherwise as it was. The access itself is made by
SCALAR_ACCESS_DONE. (R82, R86, R53) -/
def Obligations.ScalarAccessesStallTheController : Prop :=
  (∀ (core : CoreId) (h : Hdr) (f : BitVec 51) (s : State), Issues s core 1 h →
    checkScalar s core (ff f 30 8) (scalarOff (s.core core) (ff f 41 5) (ff f 0 30)) (2 ^ ff f 39 2) (2 ^ ff f 39 2) false = [] →
    exec (.sld core h f) s = .next (s.modCore core fun x => { x with
      stall := .load (ff f 46 5) (ff f 30 8) (scalarOff x (ff f 41 5) (ff f 0 30)) (2 ^ ff f 39 2) (ff f 38 1 == 1) })) ∧
  (∀ (core : CoreId) (h : Hdr) (f : BitVec 51) (s : State), Issues s core 1 h → ff f 38 1 = 0 →
    checkScalar s core (ff f 30 8) (scalarOff (s.core core) (ff f 41 5) (ff f 0 30)) (2 ^ ff f 39 2) (2 ^ ff f 39 2) true = [] →
    exec (.sst core h f) s = .next (s.modCore core fun x => { x with
      stall := .store ((x.sreg (ff f 46 5)).toNat % 2 ^ (8 * 2 ^ ff f 39 2)) (ff f 30 8) (scalarOff x (ff f 41 5) (ff f 0 30))
        (2 ^ ff f 39 2) })) ∧
  (∀ (core : CoreId) (h : Hdr) (f : BitVec 51) (s : State), Issues s core 1 h → ff f 38 4 = 0 →
    checkScalar s core (ff f 30 8) (scalarOff (s.core core) (ff f 42 5) (ff f 0 30)) 32 8 false = [] →
    exec (.dld core h f) s = .next (s.modCore core fun x => { x with
      stall := .descLoad (ff f 47 4) (ff f 30 8) (scalarOff x (ff f 42 5) (ff f 0 30)) })) ∧
  (∀ (core : CoreId) (h : Hdr) (f : BitVec 51) (s : State), Issues s core 1 h → ff f 38 4 = 0 →
    checkScalar s core (ff f 30 8) (scalarOff (s.core core) (ff f 42 5) (ff f 0 30)) 32 8 true = [] →
    dReserved ((s.core core).adesc (ff f 47 4)) = 0 →
    exec (.dst core h f) s = .next (s.modCore core fun x => { x with
      stall := .descStore (x.adesc (ff f 47 4)) (ff f 30 8) (scalarOff x (ff f 42 5) (ff f 0 30)) }))

/-- A core stalled on an access of n bytes, 1 to 8, at an offset of a SCRATCH segment whose banks the controller owns
with no handover waiting, where no word has a hard fault: for a store, every byte of every scratchpad reads as before except the n bytes at the
segment's place in the core's scratchpad, which read as the value's bytes, lowest first; the controller resumes one word
on. For a load whose words are all clean, SD receives the bytes, sign-extended when SX is set and zero-extended
otherwise, memory is unchanged, and the controller resumes one word on. (R82, R60, R46) -/
def Obligations.ScratchpadScalarAccessCompletes : Prop :=
  (∀ (core : CoreId) (how : MemOutcome) (s : State) (g : Seg) (v sg off n : Nat),
    (s.core core).stall = .store v sg off n → s.seg sg = some g → g.kind = 1 → 1 ≤ n → n ≤ 8 →
    scalarGate s core g off n = .pass → s.wear.dead = [] →
    ∃ t, exec (.scalarAccessDone core how) s = .next t ∧
      (∀ a, kvGet 0#8 t.scratch a =
        if scratchKey core (g.base + off) ≤ a ∧ a < scratchKey core (g.base + off) + n then
          BitVec.ofNat 8 (v / 2 ^ (8 * (a - scratchKey core (g.base + off)))) else kvGet 0#8 s.scratch a) ∧
      t.mem = s.mem ∧ (t.core core).pc = (s.core core).pc + 8 ∧ (t.core core).stall = .none ∧
      (t.core core).sregs = (s.core core).sregs) ∧
  (∀ (core : CoreId) (s : State) (g : Seg) (sd sg off n : Nat) (sx : Bool),
    (s.core core).stall = .load sd sg off n sx → s.seg sg = some g → g.kind = 1 → 1 ≤ n → n ≤ 8 → sd < 32 →
    scalarGate s core g off n = .pass → ScratchSound s →
    ∃ t, exec (.scalarAccessDone core .good) s = .next t ∧
      (t.core core).sreg sd = (if sd = 0 then 0 else extendLoad n sx (leNat (memRead s.scratch (scratchKey core (g.base + off)) n))) ∧
      t.scratch = s.scratch ∧ t.mem = s.mem ∧ (t.core core).pc = (s.core core).pc + 8 ∧ (t.core core).stall = .none)

/-- RESERVED_OPCODE_TRAP has one effect, to trap, and it completes by taking that trap: when the controller of a core reaches
a word whose opcode is unassigned, whatever its LEN, with its guard true, the fetch in order and no register or cache word
in error, the core is STOPPING with a trap record held for it that is valid, has cause 4,
queue 0xFF, the instruction's program counter, frame and step, and as TRAP_DETAIL the instruction word; the controller
is no longer stalled, its registers stand, and no other core and nothing outside the core changes. (R79, R67, R77) -/
def Obligations.ReservedOpcodesTrap : Prop :=
  ∀ (core : CoreId) (op : BitVec 7) (h : Hdr) (f : BitVec 51) (s : State), canIssue (s.core core) = true →
    fetchTrap s core 1 = none → guardOf (s.core core) h = true → (s.core core).regErr = [] → (s.core core).icDev = [] →
    assignedOp op.toNat = false → (s.core core).trapPend = none →
    ∃ t r, exec (.reservedOpcodeTrap core op h f) s = .next t ∧ OnlyCore core s t ∧ (t.core core).st = .stopping ∧
      (t.core core).trapPend = some r ∧ r.valid = true ∧ r.cause = 4 ∧ r.queue = 0xFF ∧ r.pc = (s.core core).pc.toNat ∧
      r.frame = (s.core core).frame % 2 ^ 32 ∧ r.step = (s.core core).step ∧ r.detail = instrWord op.toNat h f ∧
      (t.core core).stall = .none ∧ (t.core core).pc = (s.core core).pc ∧ (t.core core).sregs = (s.core core).sregs

/-- When the controller issues the instruction with its guard true and its reserved bits zero: FEND sets the end of the
core's issue; BANKSET with OWNER at most 4 appends a handover to OWNER and SHARE for every bank of MASK, and with MASK
zero only advances; WAITQ with Q at most 9, when at most K of the instructions of Q issued so far are unfinished, only
advances, and otherwise stalls; PTAG sets the tag, and FEND sets it back to the frame's own. Nothing else changes but the
program counter and, at the last FEND of a die, the commit records whose selection of blocks ends (closeSelection). (R99, R58, R61, R64,
R102) -/
def Obligations.ControlInstructionsTakeEffect : Prop :=
  (∀ (core : CoreId) (h : Hdr) (f : BitVec 51) (s : State), Issues s core 1 h → f = 0 →
    exec (.fend core h f) s = .next (closeSelection
      (s.ran core 1 fun x => { x.retag ((s.frameDesc.map (·.tag)).getD 0) with fend := true }) (dieOf core))) ∧
  (∀ (core : CoreId) (h : Hdr) (f : BitVec 51) (s : State), Issues s core 1 h → ff f 0 39 = 0 → ff f 40 3 ≤ 4 →
    exec (.bankset core h f) s = .next (s.ran core 1 fun x => { x with
      hand := x.hand ++ ((List.range 8).filter fun b => bitAt (ff f 43 8) b).map fun b => ⟨b, ff f 40 3, bitAt (ff f 39 1) 0, x.seq⟩ })) ∧
  (∀ (core : CoreId) (h : Hdr) (f : BitVec 51) (s : State), Issues s core 1 h → ff f 16 31 = 0 → ff f 47 4 ≤ 9 →
    exec (.waitq core h f) s = .next (
      let x := s.core core
      if ((x.issuedOf (ff f 47 4)) - (x.doneOf (ff f 47 4))).toNat ≤ ff f 0 16 then s.ran core 1 id
      else s.modCore core fun y => { y with stall := .waitq (ff f 47 4) (ff f 0 16) (x.issuedOf (ff f 47 4)).toNat })) ∧
  (∀ (core : CoreId) (h : Hdr) (f : BitVec 51) (s : State), Issues s core 1 h → ff f 0 43 = 0 →
    exec (.ptag core h f) s = .next (s.ran core 1 fun x => x.retag (ff f 43 8)))

/-- When the controller issues FLAGSET with its guard true and its reserved bits zero: the package's contribution for
the current frame becomes its old value OR the named flags in bits 8 to 15, so that raising the same flags again changes
nothing, and bits 0 to 7 stay as they were. The program counter moves by one word and nothing else changes. (R100) -/
def Obligations.FlagsetRaisesUserFlags : Prop :=
  ∀ (core : CoreId) (h : Hdr) (f : BitVec 51) (s : State), Issues s core 1 h → ff f 0 43 = 0 →
    ∃ t, exec (.flagset core h f) s = .next t ∧
      t = { s.ran core 1 id with run := { s.run with contrib := s.run.contrib ||| (ff f 43 8 * 256) } } ∧
      (∀ i, i < 8 → t.run.contrib.testBit i = s.run.contrib.testBit i) ∧
      (∀ i, i < 8 → t.run.contrib.testBit (8 + i) = (s.run.contrib.testBit (8 + i) || (ff f 43 8).testBit i)) ∧
      t.run.contrib ||| (ff f 43 8 * 256) = t.run.contrib

/-- FLAGRD of a frame outside the 64 kept frames writes 2^63, and of a kept frame with a final payload writes the
payload, into SD; a controller stalled on a payload, on a loss scale, on a queue's unfinished instructions or on a full
queue resumes when the payload is final, the scale known, at most K instructions are unfinished, or the queue has a free
slot: SD receives the payload or the exponent, the program counter moves past the instruction (it stays for a full
queue, so that the instruction issues again), and nothing else changes. (R64, R101, R292, R56, R58) -/
def Obligations.StalledControllersResume : Prop :=
  (∀ (core : CoreId) (h : Hdr) (f : BitVec 51) (s : State), Issues s core 1 h → ff f 0 41 = 0 →
    keptFrame (s.core core).frame (((s.core core).sreg (ff f 41 5)).toNat % 2 ^ 32) = none →
    exec (.flagrd core h f) s = .next (s.ran core 1 fun x => x.setSreg (ff f 46 5) (BitVec.ofNat 64 (2 ^ 63)))) ∧
  (∀ (core : CoreId) (h : Hdr) (f : BitVec 51) (s : State) (n : Nat), Issues s core 1 h → ff f 0 41 = 0 →
    keptFrame (s.core core).frame (((s.core core).sreg (ff f 41 5)).toNat % 2 ^ 32) = some n → (s.payload n).final = true →
    exec (.flagrd core h f) s = .next (s.ran core 1 fun x => x.setSreg (ff f 46 5) (BitVec.ofNat 64 (s.payload n).bits))) ∧
  (∀ (core : CoreId) (s : State) (sd n : Nat), (s.core core).stall = .flagrd sd n → (s.payload n).final = true →
    exec (.flagrdPayloadFinal core) s =
      .next (s.ran core 1 fun x => { x.setSreg sd (BitVec.ofNat 64 (s.payload n).bits) with stall := .none })) ∧
  (∀ (core : CoreId) (s : State) (sd step e : Nat), (s.core core).stall = .scale sd step → stepScale s step = some e →
    exec (.srdScaleRelease core) s = .next (s.ran core 1 fun x => { x.setSreg sd (BitVec.ofNat 64 e) with stall := .none })) ∧
  (∀ (core : CoreId) (s : State) (q k n : Nat), (s.core core).stall = .waitq q k n →
    distMod 32 n ((s.core core).doneOf q).toNat ≤ k →
    exec (.waitqRelease core) s = .next (s.ran core 1 fun x => { x with stall := .none })) ∧
  (∀ (core : CoreId) (s : State) (q : Nat), (s.core core).stall = .queue q → ((s.core core).queue q).length < 16 →
    exec (.issueQueueSpace core) s = .next (s.modCore core fun x => { x with stall := .none }))

/-- When the controller issues the instruction with its guard true, its reserved fields are zero and its codes assigned,
and the checks that its rule names find nothing: while its queue holds fewer than 16 instructions it is appended with
its operands as read at issue, ISSUED of the queue goes up by one and the program counter moves by one word; MMUL with
WSTAT = 0 forgets, and MWLD notes, which stationary blocks later instructions will find held. While the queue holds 16
the controller stalls instead and nothing else changes. No register, flag or byte of memory changes. (R87, R90, R93,
R94, R96, R98, R64, R56) -/
def Obligations.UnitInstructionsEnterTheirQueues : Prop :=
  (∀ (core : CoreId) (h : Hdr) (f : BitVec 51) (s : State), Issues s core 1 h →
    (vecLegal .vbin f = true → vecChecks s core .vbin f = [] →
      exec (.vbin core h f) s = .next (s.queuedOr core 1 (vecOp (s.core core) .vbin f) id)) ∧
    (vecLegal .vfma f = true → vecChecks s core .vfma f = [] →
      exec (.vfma core h f) s = .next (s.queuedOr core 1 (vecOp (s.core core) .vfma f) id)) ∧
    (vecLegal .vun f = true → vecChecks s core .vun f = [] →
      exec (.vun core h f) s = .next (s.queuedOr core 1 (vecOp (s.core core) .vun f) id)) ∧
    (vecLegal .vred f = true → vecChecks s core .vred f = [] →
      exec (.vred core h f) s = .next (s.queuedOr core 1 (vecOp (s.core core) .vred f) id))) ∧
  (∀ (core : CoreId) (h : Hdr) (f : BitVec 51) (s : State), Issues s core 1 h →
    (ff f 0 4 = 0 → ff f 32 2 ≠ 3 → ff f 20 2 ≠ 3 → mmulChecks s core f = [] →
      exec (.mmul core h f) s = .next (s.queuedOr core 0 (mmulOf (s.core core) f).op fun x =>
        if ff f 34 1 = 1 then x else { x with heldIss := none })) ∧
    (ff f 45 2 = 0 → ff f 0 43 = 0 → ff f 43 2 ≠ 3 → mwldChecks s core f = [] →
      exec (.mwld core h f) s = .next (
        let d := (s.core core).adesc (ff f 47 4)
        s.queuedOr core 0 (.mwld d (ff f 43 2)) fun x =>
          { x with heldIss := some ⟨dFormat d, dExt1 d + 1, dExt0 d + 1, ff f 43 2⟩ })) ∧
    (ff f 0 36 = 0 → ff f 42 2 ≠ 3 → mrdChecks s core f = [] →
      exec (.mrd core h f) s = .next (
        let x := s.core core
        s.queuedOr core 0 (.mrd (x.adesc (ff f 47 4)) (ff f 45 2) (ff f 44 1 == 1) (ff f 42 2) (ff f 41 1 == 1)
          (x.scale (ff f 36 5))) id)) ∧
    (ff f 36 3 = 0 → ff f 34 2 ≠ 3 → ff f 0 18 = 0 → pmvChecks s core f = [] →
      exec (.pmv core h f) s = .next (
        let x := s.core core
        s.queuedOr core 2 (.pmv (x.adesc (ff f 47 4)) (x.adesc (ff f 43 4)) (x.adesc (ff f 39 4)) (ff f 34 2) (ff f 33 1 == 1)
          (x.scale (ff f 28 5)) (x.scale (ff f 23 5)) (x.scale (ff f 18 5))) id)) ∧
    (ff f 0 34 = 0 → tldChecks s core f = [] →
      exec (.tld core h f) s = .next (
        let x := s.core core
        s.queuedOr core (3 + ff f 49 2) (.tld (x.adesc (ff f 45 4)) (x.adesc (ff f 41 4)) (x.adesc (ff f 37 4))
          (ff f 36 1 == 1) (ff f 35 1 == 1) (ff f 34 1 == 1)) id)))

/-- When the controller issues the instruction with its guard true, its reserved bits zero, and 64 bytes (DMA) or 128
bytes (the others) at SEG:(SA + OFF) pass the checks of a 64-byte-aligned read: while the queue holds fewer than 16
instructions the controller stalls on the descriptor's arrival, otherwise on the queue. Nothing else changes. (R97,
R103, R237, R259, R53) -/
def Obligations.DescriptorInstructionsReadTheirDescriptor : Prop :=
  (∀ (core : CoreId) (h : Hdr) (f : BitVec 51) (s : State), Issues s core 1 h →
    checkScalar s core (ff f 36 8) (descOff (s.core core) (ff f 44 5) (ff f 0 36)) 64 64 false = [] →
    exec (.dma core h f) s = .next (s.modCore core fun x => { x with
      stall := if 16 ≤ (x.queue (3 + ff f 49 2)).length then .queue (3 + ff f 49 2)
        else .fetchDesc (3 + ff f 49 2) (ff f 36 8) (descOff x (ff f 44 5) (ff f 0 36)) (instrWord 0x40 h f) 0 0 0 })) ∧
  (∀ (core : CoreId) (h : Hdr) (f : BitVec 51) (s : State), Issues s core 1 h → ff f 49 2 = 0 →
    checkScalar s core (ff f 36 8) (descOff (s.core core) (ff f 44 5) (ff f 0 36)) 128 64 false = [] →
    exec (.coll core h f) s = .next (s.modCore core fun x => { x with
      stall := if 16 ≤ (x.queue 7).length then .queue 7
        else .fetchDesc 7 (ff f 36 8) (descOff x (ff f 44 5) (ff f 0 36)) (instrWord 0x50 h f) 0 0 0 }) ∧
    exec (.exch core h f) s = .next (s.modCore core fun x => { x with
      stall := if 16 ≤ (x.queue 8).length then .queue 8
        else .fetchDesc 8 (ff f 36 8) (descOff x (ff f 44 5) (ff f 0 36)) (instrWord 0x51 h f) 0 0 0 })) ∧
  (∀ (core : CoreId) (h : Hdr) (f : BitVec 51) (w1 w2 w3 : BitVec 64) (s : State), Issues s core 4 h → ff f 49 2 = 0 →
    w2.toNat / 2 ^ 34 = 0 → w3.toNat / 2 ^ 32 = 0 → s.isUpdateFrame = true →
    checkScalar s core (ff f 36 8) (descOff (s.core core) (ff f 44 5) (ff f 0 36)) 128 64 false = [] →
    exec (.upd core h f w1 w2 w3) s = .next (s.modCore core fun x => { x with
      stall := if 16 ≤ (x.queue 9).length then .queue 9
        else .fetchDesc 9 (ff f 36 8) (descOff x (ff f 44 5) (ff f 0 36)) (instrWord 0x60 h f) w1.toNat w2.toNat w3.toNat }))

/-- A controller stalled on a descriptor of queue q in a readable SCRATCH segment, whose words are clean and which the
descriptor's checks accept, appends the operation to the queue, increments ISSUED[q], moves past the instruction's words
and resumes; nothing else changes. QUEUE_INSTRUCTION_DONE for a collective, exchange or update queue removes the first
instruction that its unit has finished and increments DONE[q]; nothing else changes. When a running core has met FEND
and ISSUED equals DONE in every queue, FEND_RETIRE marks its part of the frame complete and the core waits; where no
demand record declares CRIT_CYCLES nothing else changes but the elapsed cycles noted. (R97, R64, R63, R58) -/
def Obligations.DescriptorsAndFinishedUnitWorkMoveTheQueues : Prop :=
  (∀ (core : CoreId) (s : State) (g : Seg) (q sg off word w1 w2 w3 : Nat),
    (s.core core).stall = .fetchDesc q sg off word w1 w2 w3 → s.seg sg = some g → g.kind = 1 →
    scalarGate s core g off (descBytes q) = .pass → ScratchSound s → ((s.core core).queue q).length < 16 →
    descTrap s core q w2 w3 (memRead s.scratch (scratchKey core (g.base + off)) (descBytes q)) = none →
    exec (.descriptorFetchDone core .good) s = .next (
      let bs := memRead s.scratch (scratchKey core (g.base + off)) (descBytes q)
      s.ran core (if q = 9 then 4 else 1) fun x =>
        { x.appended q (mkQInst s core (descOp q w1 w2 w3 bs) (descScratch s q bs)) with stall := .none })) ∧
  (∀ (core : CoreId) (q : Fin 10) (w k : Nat) (s : State), 7 ≤ q.val →
    indexOf? (fun i : QInst => i.accepted && i.done == 1) ((s.core core).queue q.val) = some k →
    exec (.queueInstructionDone core q w) s = .next (s.modCore core fun x =>
      (x.setQueue q.val ((x.queue q.val).eraseIdx k)).incDone q.val)) ∧
  (∀ (core : CoreId) (elapsed : Nat) (s : State), (s.core core).st = .running → (s.core core).fend = true →
    (s.core core).completed = false → (∀ q, q < 10 → (s.core core).issuedOf q = (s.core core).doneOf q) →
    coreDemand s core = none →
    exec (.fendRetire core elapsed) s = .next (s.modCore core fun x =>
      { x with completed := true, st := .waiting, use := { x.use with elapsed := elapsed } }))

/-- When the VECTOR queue of a core that may work has a vector instruction at its head whose banks the unit owns with no
handover waiting, whose destination extent is the one R87 requires, and no scratchpad word is in error:
QUEUE_INSTRUCTION_DONE answers a next state in which the instruction has left the queue, DONE[1] is one more, memory
outside the scratchpads and the core's registers, predicates, descriptors and program counter are unchanged, and every
scratchpad byte outside the rows of D (each of the row's bytes in D's format from the row's offset) is unchanged. (R88,
R60, R64) -/
def Obligations.VectorInstructionWritesOnlyItsDestination : Prop :=
  ∀ (core : CoreId) (w : Nat) (s : State) (i : QInst) (rest : List QInst) (k : VecKind) (d a b : Desc) (fn bm : Nat) (sb : F32)
    (rnd : Nat) (flags : Bool), HeadOf s core 1 i rest → i.op = .vec k d a b fn bm sb rnd flags →
    dExt0 d = (if k = .vred then 0 else dExt0 a) → ScratchSound s →
    bankGate (s.core core) 2 i.seq
      ((rowsOf a).map fun pr => vecRowBanks s ⟨k, d, a, b, fn, bm, sb, rnd, flags⟩ pr.1 pr.2).flatten = .pass →
    ∃ t, exec (.queueInstructionDone core 1 w) s = .next t ∧ (t.core core).queue 1 = rest ∧
      (t.core core).doneOf 1 = (s.core core).doneOf 1 + 1 ∧ t.mem = s.mem ∧ (t.core core).sregs = (s.core core).sregs ∧
      (t.core core).preds = (s.core core).preds ∧ (t.core core).adescs = (s.core core).adescs ∧
      (t.core core).pc = (s.core core).pc ∧ (t.core core).acc = (s.core core).acc ∧
      ∀ x, (∀ pr ∈ rowsOf a, x < scratchKey core (rowAt s d pr.1 pr.2) ∨ scratchKey core (rowAt s d pr.1 pr.2) + dRowBytes d ≤ x) →
        kvGet 0#8 t.scratch x = kvGet 0#8 s.scratch x

/-- When the MATRIX queue of a core that may work has an MMUL at its head, no Cirrus product runs on the core's engines,
the unit owns its banks with no handover waiting (checked before its first fold, where it also reads its masks), a fold
is left in its fold list, and no word of scratchpad or of the engines' arrays is in error: MATRIX_FOLD_BOUNDARY answers
a next state in which that MMUL is still at the head with one more fold done, the instructions behind it, the core's
registers, descriptors and program counter, and Stratus and HBM are unchanged, and unless the fold is the last of its
column group no scratchpad byte changes. (R125, R127, R128, R92) -/
def Obligations.MatrixFoldRuns : Prop :=
  ∀ (core : CoreId) (s : State) (i : QInst) (rest : List QInst) (m : Mm) (f : Fold) (fs : List Fold),
    HeadOf s core 0 i rest → mmOf i.op = some m → core.val ∉ s.cirrusOn → mmGate s (s.core core) i m = .pass →
    ScratchSound s → (s.core core).accDev = [] → (s.core core).sumDev = [] → (s.core core).bufDev = [] →
    (let b := if i.masksRead then (i, s) else beginMmul s core i m
     (mmRun m ((s.core core).held.map (·.shape)) b.1).folds.drop i.done = f :: fs) →
    ∃ t j, exec (.matrixFoldBoundary core) s = .next t ∧ (t.core core).queue 0 = j :: rest ∧ j.op = i.op ∧
      j.done = i.done + 1 ∧ j.pc = i.pc ∧ t.mem = s.mem ∧ (t.core core).sregs = (s.core core).sregs ∧
      (t.core core).adescs = (s.core core).adescs ∧ (t.core core).pc = (s.core core).pc ∧
      (f.kb + 1 ≠ (mmRun m ((s.core core).held.map (·.shape)) i).nk → t.scratch = s.scratch)

/-- When the oldest handover of a bank finds that no instruction issued before it in the old owner's queues still
reaches the bank: the bank's owner and share become the handover's, the handover leaves the list, and only the wait
counter beside them changes. When the descriptor at the head of a channel of a running core moves between memories, has
no bulk channel, and one of the die's eight is free: it takes the lowest free one, which records the core and the
channel, and nothing else changes. (R61, R175, R46) -/
def Obligations.HandoversAndBulkChannels : Prop :=
  (∀ (core : CoreId) (bank : Fin 8) (waited : Nat) (s : State) (h : Handover),
    ((s.core core).hand.find? fun g => g.bank == bank.val) = some h → handoverReady s (s.core core) h = true →
    exec (.handoverEffect core bank waited) s = .next ((s.modCore core fun x => { x with
        hand := removeFirst (fun g => g.bank == bank.val) x.hand
        banks := BitVec.ofNat 32 (setFld x.banks.toNat (4 * bank.val) 4 (h.owner + 8 * h.share.toNat)) }).bumpBy 0x620005 waited)) ∧
  (∀ (core : CoreId) (ch : Fin 4) (s : State) (i : QInst) (rest : List QInst) (x : Xfer) (k : Nat),
    (s.core core).st = .running → (s.core core).queue (3 + ch.val) = i :: rest → xferOf i.op = some x → x.isBulk s = true →
    i.bulk = none → freeBulk (s.die (dieOf core)) = some k →
    exec (.bulkChannelAssign core ch) s = .next ((setBulk s (dieOf core) k (some (core.val, ch.val))).modCore core fun y =>
      y.setQueue (3 + ch.val) ({ i with bulk := some k } :: rest)))

/-- For a DMA descriptor at the head of a channel that may work, with a segment left, its bank checks passed: if MODE is
ZERO into a SCRATCH segment without zero-run output, and no scratchpad word has a hard fault, DMA_SEGMENT_DONE answers a next state in which one more segment is
done with code 0, every scratchpad byte within a piece of the segment is zero and every other byte of memory is as it
was. If instead the segment fails twice with no later one in flight, DMA_SEGMENT_FAILED leaves every segment of the
descriptor done, the failed one with code 2 (source) or 3 (destination) and each later one with code 4. (R176, R178,
R179, R64) -/
def Obligations.DmaSegmentOfZerosFillsItsPieces : Prop :=
  (∀ (core : CoreId) (ch : Fin 4) (how : MemOutcome) (s : State) (i : QInst) (rest : List QInst) (b : List Byte),
    HeadOf s core (3 + ch.val) i rest → i.op = .dma b → (dmaOf b).mode = 3 → (dmaOf b).zrOut = false →
    (placeOf s (dmaOf b).dstSeg).kind = 1 → segmentReady s i (dmaOf b) = true → s.wear.dead = [] →
    bankGate (s.core core) 4 i.seq (segmentBanks s (dmaOf b) i.done) = .pass →
    ∃ t j, exec (.dmaSegmentDone core ch how) s = .next t ∧ (t.core core).queue (3 + ch.val) = j :: rest ∧
      j.done = i.done + 1 ∧ j.op = i.op ∧ j.codes.map (·.1) = i.codes.map (·.1) ++ [0] ∧ t.mem = s.mem ∧
      ∀ a, kvGet 0#8 t.scratch a =
        if (∃ p ∈ (dmaOf b).pieces i.done,
            scratchKey core ((placeOf s (dmaOf b).dstSeg).base + ((dmaOf b).dstRow p.1 + p.2.1)) ≤ a ∧
            a < scratchKey core ((placeOf s (dmaOf b).dstSeg).base + ((dmaOf b).dstRow p.1 + p.2.1)) + (p.2.2 - p.2.1))
        then 0#8 else kvGet 0#8 s.scratch a) ∧
  (∀ (core : CoreId) (ch : Fin 4) (atDest : Bool) (s : State) (i : QInst) (rest : List QInst) (b : List Byte),
    HeadOf s core (3 + ch.val) i rest → i.op = .dma b → segmentReady s i (dmaOf b) = true → i.codes.length = i.done →
    bankGate (s.core core) 4 i.seq (segmentBanks s (dmaOf b) i.done) = .pass →
    ∃ t j, exec (.dmaSegmentFailed core ch atDest 0) s = .next t ∧ (t.core core).queue (3 + ch.val) = j :: rest ∧
      j.op = i.op ∧ j.done = (dmaOf b).segments ∧
      j.codes.map (·.1) = i.codes.map (·.1) ++ [if atDest then 3 else 2]
        ++ List.replicate ((dmaOf b).segments - i.done - 1) 4)

/-- For a stream descriptor at the head of a channel that may work, none of it done, its bulk channel taken where it
needs one, its bank checks passed: STREAM_IN for MODE STREAM_IN and STREAM_OUT for MODE STREAM_OUT answer a next state with
the same descriptor at the head and all its segments done. Where the header is poisoned or is no valid ring of the core,
channel and direction, every segment ends with code 4. Where it is one, whole rows are delivered, as many as R185 and R186
give: a segment whose rows are all delivered has code 0 (or 1, for poison copied) and any other has code 5, or 6 under PAD,
unless a segment fails; and without a row-mask record the header's CONSUMED, or PRODUCED, has moved past exactly those rows.
(R183, R185, R186) -/
def Obligations.StreamsDeliverWholeRows : Prop :=
  ∀ (core : CoreId) (ch : Fin 4) (s : State) (i : QInst) (rest : List QInst) (x : Xfer) (inb : Bool) (g : Seg) (off : Nat)
    (l : Load) (r : RingView) (k : Nat),
    HeadOf s core (3 + ch.val) i rest → xferOf i.op = some x → i.done = 0 → (x.isBulk s && i.bulk.isNone) = false →
    bankGate (s.core core) 4 i.seq (xferBanks s x) = .pass → x.mode = (if inb then 1 else 2) →
    g = placeOf s (if inb then x.srcSeg else x.dstSeg) → off = (if inb then x.srcOff else x.dstOff) →
    l = moverLoad s core g off 64 x.hint .good → r = ringView l.bytes → k = streamRows x r →
    ∃ t j, (inb = true → exec (.streamIn core ch) s = .next t) ∧ (inb = false → exec (.streamOut core ch) s = .next t) ∧
      (t.core core).queue (3 + ch.val) = j :: rest ∧ j.op = i.op ∧ j.done = x.segments ∧ j.codes.length = x.segments ∧
      (l.bad ≠ 0 ∨ ringValid l.s core ch.val g off (if inb then 0 else 1) r = false → j.codes = List.replicate x.segments (4, 0)) ∧
      (l.bad = 0 → ringValid l.s core ch.val g off (if inb then 0 else 1) r = true →
        ((∀ p ∈ j.codes, p.1 ≠ 2 ∧ p.1 ≠ 4) → ∀ seg, seg < x.segments → ∃ c n, j.codes[seg]? = some (c, n) ∧
          if min x.total ((seg + 1) * x.segBytes) ≤ k * x.rowBytes then c ≤ 1 else c = if x.pad then 6 else 5) ∧
        (x.mask = false → (∀ d, homeDie (g.base + off) = some d → ∀ b, g.base + off ≤ b → b < g.base + off + 64 → isFenced t d b = false) →
          memRead t.mem (g.base + off + if inb then 8 else 0) 8 =
            leBytes 8 ((if inb then r.consumed else r.produced) + k * x.rowBytes)))

/-- For a stopping core whose units have finished what they had begun: with a trap held it becomes TRAPPED with that
trap in its record and, unless the image has stopped already, STOP_REQUEST is raised in the package's contribution; with
none it becomes STOPPED with a record of cause 1 at its program counter. In a running frame with FRAME_WATCHDOG set, a
running or stopping core that has not completed and holds no trap traps with cause 15. A core's registers, its descriptors and all memory stay as they
were. (R67, R68, R71, R59, R73) -/
def Obligations.TrapsStopsAndTheFrameWatchdog : Prop :=
  (∀ (core : CoreId) (s : State) (r : TrapRec), (s.core core).st = .stopping → (s.core core).trapPend = some r →
    coreQuiet s core = true →
    ∃ t, exec (.trapRecordWrite core) s = .next t ∧ (t.core core).st = .trapped ∧ (t.core core).trapPend = none ∧
      (t.core core).trap.cause = r.cause ∧ (t.core core).trap.pc = r.pc ∧ (t.core core).trap.queue = r.queue ∧
      (t.core core).trap.detail = r.detail ∧ (t.core core).trap.valid = r.valid ∧
      (s.run.phase ≠ .stopped → t.run.contrib = s.run.contrib ||| flagStop) ∧ (t.core core).sregs = (s.core core).sregs ∧
      (t.core core).adescs = (s.core core).adescs ∧ t.mem = s.mem ∧ t.scratch = s.scratch) ∧
  (∀ (core : CoreId) (s : State), (s.core core).st = .stopping → (s.core core).trapPend = none → coreQuiet s core = true →
    ∃ t, exec (.coreStopRecord core) s = .next t ∧ (t.core core).st = .stopped ∧ (t.core core).trap.valid = true ∧
      (t.core core).trap.cause = 1 ∧ (t.core core).trap.pc = (s.core core).pc.toNat ∧ (t.core core).sregs = (s.core core).sregs ∧
      (t.core core).adescs = (s.core core).adescs ∧ t.mem = s.mem ∧ t.scratch = s.scratch) ∧
  (∀ (core : CoreId) (s : State), s.obj 0x220001 ≠ 0 → s.run.active = true →
    (s.core core).st = .running ∨ (s.core core).st = .stopping →
    (s.core core).completed = false → (s.core core).trapPend = none →
    ∃ t r, exec (.frameWatchdog core) s = .next t ∧ OnlyCore core s t ∧ (t.core core).st = .stopping ∧
      (t.core core).trapPend = some r ∧ r.cause = 15 ∧ r.queue = 0xFF ∧ r.pc = (s.core core).pc.toNat)

/-- With an image loaded and the line within CODE_BYTES: when the line's bytes in Stratus read without error,
ICACHE_LINE_FILL leaves the line among the lines present and no longer among the bad ones; when they do not, the line is
bad and not present. The core's registers and program counter are unchanged. (R69, R55, R200) -/
def Obligations.CodeLinesArrive : Prop :=
  ∀ (core : CoreId) (line : Nat) (how : FillOutcome) (s : State), s.hasImage = true → line / 256 * 256 < s.codeBytes →
    (let a := codeAddr s core (line / 256 * 256)
     let n := min 256 (((s.seg (codeSeg s core)).map (·.bytes)).getD 0 - line / 256 * 256)
     let s1 := if how = .refetched then (s.bump 0x620003).bump 0xC10003 else s
     let l := memLoad s1 a n none (match how with | .retried => .transient | .bad => .lasting | _ => .good)
     ∃ t, exec (.icacheLineFill core line how) s = .next t ∧ (t.core core).sregs = (s.core core).sregs ∧
      (t.core core).pc = (s.core core).pc ∧ (t.core core).st = (s.core core).st ∧
      (l.bad = 0 → (line / 256 * 256) ∈ (t.core core).lines ∧ ∀ p ∈ (t.core core).badLines, p.1 ≠ line / 256 * 256) ∧
      (l.bad ≠ 0 → (line / 256 * 256) ∉ (t.core core).lines ∧ ∃ p ∈ (t.core core).badLines, p.1 = line / 256 * 256))

/-- When a Cirrus product runs on a core's engines, and it is the last product that the die's only update still has to
run: CIRRUS_PRODUCT_END takes the core off the list of those with a product, and the update has none left. The core's
queues, registers and accumulator sets 0 to 2, and all memory, stay as they were; accumulator set 3, Cirrus's working
storage, holds free values (a statement about them holds for every value; notes/assumptions/32.md). (R322, R66) -/
def Obligations.CirrusProductLeavesTheEngines : Prop :=
  ∀ (core : CoreId) (s : State) (u : UpdRun) (j : Nat), core.val ∈ s.cirrusOn →
    (s.unit (dieOf core)).cirrus.upds = [u] → u.prods = [(j, core.val, 1)] →
    ∃ t v, exec (.cirrusProductEnd core) s = .next t ∧ t.cirrusOn = s.cirrusOn.erase core.val ∧
      (t.unit (dieOf core)).cirrus.upds = [v] ∧ v.prods = [] ∧ (t.core core).queues = (s.core core).queues ∧
      (t.core core).sregs = (s.core core).sregs ∧ t.mem = s.mem ∧ t.scratch = s.scratch ∧
      ∀ k, k < 3 * 65536 → kvGet 0#32 (t.core core).acc k = kvGet 0#32 (s.core core).acc k

/-- TIMEBASE_TICK in LOCAL mode puts the next tick, numbered one above the last one, behind the ticks that wait out
their hold, and changes nothing else; in MASTER mode it does the same and a MARKER leaves on every port of the tick
network. TICK_IN_EDGE in EXTERNAL mode fires likewise, and sets the period to the gap from the last accepted edge; an
edge less than 2,000 ns after it is only counted. (R24, R25, R26, R476) -/
def Obligations.TicksAreFiredByTheirSource : Prop :=
  (∀ (delays : List Nat) (s : State), s.alive = true → s.obj kTickMode = modeLocal →
    exec (.timebaseTick delays) s = .next { s with tick := { s.tick with
      seen := some (nextTick s), holds := s.tick.holds ++ [nextTick s] } }) ∧
  (∀ (delays : List Nat) (s : State), s.alive = true → s.obj kTickMode = modeMaster →
    ∃ t, exec (.timebaseTick delays) s = .next t ∧
      t.tick = { s.tick with seen := some (nextTick s), holds := s.tick.holds ++ [nextTick s] } ∧
      ∀ p, (s.port p).ticks = true → (s.port p).dsArmed = none → (s.port p).dsWait = false →
        Output.frame p.val (markerFrame s (nextTick s) s.tick.period (delays.getD p.val 0) 0 (s.obj kBasePeriod)
          (s.obj kPackageId)) ∈ t.out) ∧
  (∀ (gap : Nat) (delays : List Nat) (s : State), s.alive = true → s.obj kTickMode = modeExternal → s.tick.edgesSeen ≠ 0 →
    (gap < 2000 → exec (.tickInEdge gap delays) s = .next (s.bump 0x610009)) ∧
    (2000 ≤ gap → ∃ t, exec (.tickInEdge gap delays) s = .next t ∧ t.tick.period = gap ∧ t.tick.seen = some (nextTick s) ∧
      t.tick.holds = s.tick.holds ++ [nextTick s] ∧ t.tick.count = s.tick.count))

/-- For a frame n and a wave w at most 64 after it: bit b of the payload of n computed from wave w is set if and only
if, for some tick k above n and at most w, bit b of the frame's 16 flag bits in wave k is set; and the payload is final
exactly when the frame's OPEN bit in wave w is clear. Joining two waves keeps the bits of both. (R39, R40, R227, R228)
-/
def Obligations.PayloadIsTheOrOfItsWaves : Prop :=
  (∀ (s : State) (n w b : Nat), n < w → w ≤ n + 64 → b < 16 →
    ((payloadOf s n w).bits.testBit b = true ↔ ∃ k, n < k ∧ k ≤ w ∧ (s.wave k).flags.testBit (16 * (k - 1 - n) + b) = true) ∧
    ((payloadOf s n w).final = true ↔ (s.wave w).openBits.testBit (w - 1 - n) = false)) ∧
  (∀ (a b : Wave) (i : Nat), (a.join b).flags.testBit i = (a.flags.testBit i || b.flags.testBit i) ∧
    (a.join b).openBits.testBit i = (a.openBits.testBit i || b.openBits.testBit i))

/-- When a tick waits out its hold and its hold ends, TICK_ARRIVAL has it arrive: the tick counter and object 0x6100:01 are
that tick's number, a tick has arrived, the hold is gone and the other holds wait on, and no core's registers, predicates or
descriptors change. TICK_CONFLICT_END ends the conflict of masters and its source's level, and leaves the tick counter, the
cores, the image and memory as they are. (R26, R225, R24) -/
def Obligations.TickArrivalAdvancesTheCounter : Prop :=
  (∀ (s : State) (h : Nat) (rest : List Nat), s.tick.holds = h :: rest →
    ∃ t, exec .tickArrival s = .next t ∧ t.tick.count = h ∧ t.obj 0x610001 = h % 2 ^ objWidth 0x610001 ∧
      t.tick.arrived = true ∧ t.tick.holds = rest ∧
      t.tick.seen = s.tick.seen ∧ ∀ c, (t.core c).sregs = (s.core c).sregs ∧ (t.core c).preds = (s.core c).preds ∧
        (t.core c).adescs = (s.core c).adescs) ∧
  (∀ s : State, ∃ t, exec .tickConflictEnd s = .next t ∧ t.tick = { s.tick with conflict := false } ∧
    (t.src 256).level = false ∧ (∀ n, n ≠ 256 → t.src n = s.src n) ∧ t.cores = s.cores ∧ t.run = s.run ∧ t.mem = s.mem ∧
    t.dict = s.dict)

/-- For a port in service with TICK_EN, and a frame of the right type, form and CRC in codewords that the FEC corrects: a MARKER for the tick after the
last one seen, in FOLLOWER mode, whose elapsed time with the port's latency is below TICK_DELAY, whose HOPS is at most 4
and whose DELIVERED field is not valid, is held, and its PERIOD becomes the current period; a WAVE for a tick from the
counter less FLAG_LATENCY to the counter plus 1 leaves the wave equal to the old one joined with the update. The tick
counter does not change. (R224, R225, R227, R229) -/
def Obligations.MarkersAndWavesAreMerged : Prop :=
  (∀ (port : PortId) (frame : List Byte) (fixed : Nat) (delays : List Nat) (s : State) (t0 : Nat),
    (s.port port).tickEn = true → (s.port port).carries = true → frameCrcOk frame = true → (frameHead frame).type = 3 →
    frameFormOk frame = true → s.obj kTickMode = modeFollower → s.tick.seen = some t0 →
    (markerOf (framePayload frame)).tick = t0 + 1 → (markerOf (framePayload frame)).valid = false →
    (markerOf (framePayload frame)).elapsed + (s.port port).d < 16 * s.obj 0x210005 → (markerOf (framePayload frame)).hops ≤ 4 →
    fecFails (s.port port).fecNow frame.length fixed false = false →
    ∃ t, exec (.markerReceive port frame ⟨fixed, false⟩ delays) s = .next t ∧ t.tick.seen = some (t0 + 1) ∧
      t.tick.holds = s.tick.holds ++ [t0 + 1] ∧
      t.tick.period = (markerOf (framePayload frame)).period ∧ t.tick.count = s.tick.count) ∧
  (∀ (port : PortId) (frame : List Byte) (fixed settle : Nat) (s : State) (w : Nat),
    (s.port port).tickEn = true → (s.port port).carries = true → frameCrcOk frame = true → (frameHead frame).type = 4 →
    frameFormOk frame = true → w = leAt (framePayload frame) 0 8 → s.tick.count ≤ w + s.latency → w ≤ s.tick.count + 1 →
    fecFails (s.port port).fecNow frame.length fixed false = false →
    ∃ t, exec (.waveReceive port frame ⟨fixed, false⟩ settle) s = .next t ∧
      t.wave w = (s.wave w).join ⟨leAt (framePayload frame) 8 8, leAt (framePayload frame) 0x10 128⟩ ∧
      t.tick.count = s.tick.count)

/-- When the conditions of R28 hold, no stop interrupted a frame and no upset waits for the next read: FRAME_START makes the
next frame the running one, the schedule moves on, and every used core with a record in the frame descriptor runs at its
ENTRY with FEND clear and its registers kept. When every used core has completed its part, FRAME_COMPLETE ends the frame: its contribution is
sealed and none is open. When no frame is left, none runs, no step is undecided and no refresh is going on, IMAGE_END
ends the image and its cores are idle. (R28, R29, R30, R40, R47, R58) -/
def Obligations.FramesStartAndEnd : Prop :=
  (∀ (s : State) (fd : FrameDesc), s.run.stoppedAt = none → nextDesc s = some fd → mayStart s = true →
    s.wear.next = .good → ∃ t, exec .frameStart s = .next t ∧ t.run.active = true ∧ t.run.phase = .running ∧ t.run.frame = s.run.next ∧
      t.run.next = s.run.next + 1 ∧ t.run.cursor = nextCursor s.sched s.run.cursor ∧
      (∀ c, c ∈ s.runCores → ∀ r, fd.cores[c.val]? = some r →
        (t.core c).st = .running ∧ (t.core c).pc = BitVec.ofNat 64 r.entry ∧ (t.core c).fend = false ∧
        (t.core c).frame = s.run.next) ∧
      ∀ c, (t.core c).sregs = (s.core c).sregs) ∧
  (∀ (s : State), s.run.active = true → s.run.phase = .running → (∀ c ∈ s.runCores, (s.core c).completed = true) →
    ∃ t, exec .frameComplete s = .next t ∧ t.run.active = false ∧ t.run.contrib = 0 ∧
      kvGet ⟨0, false⟩ t.tick.contribs s.run.frame = ⟨contribution s s.run.frame, true⟩ ∧ t.cores = s.cores ∧ t.mem = s.mem) ∧
  (∀ (s : State), s.run.phase = .running → s.run.active = false → framesLeft s = some 0 →
    s.run.steps = [] → refreshing s = false →
    ∃ t, exec .imageEnd s = .next t ∧ t.run.phase = .ended ∧ ∀ c ∈ s.runCores, (t.core c).st = .idle)

/-- With an image loaded that has not stopped, TICK_LOSS moves it to its stopped phase at the tick the counter shows,
abandons every undecided step, and leaves no core of the run running or waiting; the cores' registers, descriptors and
program counters stay as they were. (R27, R42, R73) -/
def Obligations.TickLossStopsTheImage : Prop :=
  ∀ (s : State), s.hasImage = true → s.run.phase ≠ .stopped →
    ∃ t, exec .tickLoss s = .next t ∧ t.run.phase = .stopped ∧ t.run.stopTick = some s.tick.count ∧ t.run.steps = [] ∧
      (∀ c ∈ s.runCores, (t.core c).st ≠ .running ∧ (t.core c).st ≠ .waiting) ∧
      ∀ c, (t.core c).sregs = (s.core c).sregs ∧ (t.core c).adescs = (s.core c).adescs ∧ (t.core c).pc = (s.core c).pc

/-- PORT_ENABLE moves a DISABLED port to TRAINING; lanes that train with the configured FEC mode move it to MEASURING
with its partner noted; a training of a second raises PORT_TRAIN_SLOW once and notes that; a measurement without result
returns a MEASURING port to TRAINING and counts in RETRAINS; RETRAIN and a loss of codeword lock move an UP port to
RETRAINING with causes 4 and 2, or to DOWN when it has retrained more often within a second than its limit allows; a
port still RETRAINING at the limit of its time goes DOWN with cause 5; PORT_DISABLE makes it DISABLED from any state;
PROBE_TIMEOUT drops the oldest request. (R219, R211, R222) -/
def Obligations.PortStatesChange : Prop :=
  (∀ (p : PortId) (s : State), (s.port p).st = .disabled →
    exec (.portEnable p) s = .next (s.modPort p fun x => { x with en := true, st := .training, slow := false })) ∧
  (∀ (p : PortId) (pkg : BitVec 16) (pport : BitVec 8) (fec : BitVec 2) (s : State), s.clocks.serdesOk = true →
    (s.port p).st = .training → fec.toNat = (s.port p).fec →
    exec (.portTrained p pkg pport fec) s = .next (s.modPort p fun x => { x with
      st := .measuring, partner := some (pkg.toNat, pport.toNat), fecNow := x.fec, probes := [], measured := [] })) ∧
  (∀ (p : PortId) (s : State), (s.port p).st = .training → (s.port p).slow = false →
    ∃ t, exec (.portTrainSlow p) s = .next t ∧ t.port p = { s.port p with slow := true }) ∧
  (∀ (p : PortId) (s : State), (s.port p).st = .measuring →
    exec (.measureTimeout p) s = .next (s.modPort p fun x => { x with
      st := .training, slow := false, retrains := (x.retrains + 1) % 256, probes := [], measured := [] })) ∧
  (∀ (p : PortId) (s : State), (s.port p).st = .up →
    (∃ t, exec (.portRetrainWrite p) s = .next t ∧
      (((t.port p).st = .retraining ∧ (t.port p).lastCause = 4) ∨ ((t.port p).st = .down ∧ (t.port p).lastCause = 6))) ∧
    ∃ t, exec (.codewordLockLoss p) s = .next t ∧
      (((t.port p).st = .retraining ∧ (t.port p).lastCause = 2) ∨ ((t.port p).st = .down ∧ (t.port p).lastCause = 6))) ∧
  (∀ (p : PortId) (s : State), (s.port p).st = .retraining →
    ∃ t, exec (.retrainTimeout p) s = .next t ∧ (t.port p).st = .down ∧ (t.port p).lastCause = 5) ∧
  (∀ (p : PortId) (s : State), (∃ t, exec (.portDisable p) s = .next t ∧ (t.port p).st = .disabled ∧ (t.port p).en = false) ∧
    exec (.probeTimeout p) s = .next (s.modPort p fun x => { x with probes := x.probes.drop 1 }))

/-- PROBE_SEND on a port in service with no injection armed adds the stamp to the requests outstanding and puts a PROBE
frame of that stamp on the line. An echo with the right CRC and form of an outstanding request, on an UP port, whose
value, however its half unit is rounded, differs from the latency in use by at most 32 units, takes the request off the
list and leaves a latency between the old one and the new value, which end included (the exact average is left open: a
free value, notes/assumptions/33.md); an echo of no outstanding request changes no latency. (R222, R219) -/
def Obligations.ProbesMeasureTheLatency : Prop :=
  (∀ (p : PortId) (stamp : BitVec 64) (s : State), (s.port p).carries = true → (s.port p).dsArmed = none →
    (s.port p).dsWait = false →
    ∃ t, exec (.probeSend p stamp) s = .next t ∧ (t.port p).probes = (s.port p).probes ++ [stamp.toNat] ∧
      Output.frame p.val (mkFrame 5 0 0 0 0 0 (leBytes 8 stamp.toNat ++ leBytes 8 0)) ∈ t.out ∧ (t.port p).d = (s.port p).d) ∧
  (∀ (p : PortId) (frame : List Byte) (fixed : Nat) (arrive : BitVec 64) (turn : BitVec 32) (s : State) (v : Int),
    (s.port p).st = .up → frameCrcOk frame = true → (frameHead frame).type = 5 → frameFormOk frame = true →
    leAt (framePayload frame) 0xC 1 = 1 → leAt (framePayload frame) 0 8 ∈ (s.port p).probes →
    v = (distMod 64 arrive.toNat (leAt (framePayload frame) 0 8) : Int) - leAt (framePayload frame) 8 4 →
    (∀ r : Int, r = 0 ∨ r = 1 → 0 ≤ (v + r) / 2 + sgn 16 (s.port p).trim ∧ (v + r) / 2 + sgn 16 (s.port p).trim - (s.port p).d ≤ 32 ∧
      ((s.port p).d : Int) - ((v + r) / 2 + sgn 16 (s.port p).trim) ≤ 32) → (s.port p).d < 2 ^ 31 →
    fecFails (s.port p).fecNow frame.length fixed false = false →
    ∃ t r, exec (.probeReceive p frame ⟨fixed, false⟩ arrive turn) s = .next t ∧ (r = 0 ∨ r = 1) ∧
      (t.port p).probes = (s.port p).probes.erase (leAt (framePayload frame) 0 8) ∧ (t.port p).st = .up ∧
      min ((s.port p).d : Int) ((v + r) / 2 + sgn 16 (s.port p).trim) ≤ (t.port p).d ∧
      ((t.port p).d : Int) ≤ max ((s.port p).d : Int) ((v + r) / 2 + sgn 16 (s.port p).trim))

/-- DATA_FRAME_SEND of a frame that may be sent takes it off its queue, gives it the next SEQ, adds it to the
unacknowledged frames and counts its units as sent. A DATA frame of the right form and CRC whose SEQ is the one awaited,
within the credit given and for this package, is placed last in its virtual channel's buffer and the next SEQ is
awaited. A CTRL frame that acknowledges the last frame unacknowledged, without NAK and with the credit the port already
has, leaves none unacknowledged. ACK_TIMER on a port in service with something to acknowledge sends a CTRL frame and
owes nothing more. No memory of the package changes. (R215, R216, R217, R241) -/
def Obligations.DataFramesKeepTheirOrder : Prop :=
  (∀ (p : PortId) (vc : Fin 3) (s : State) (f : OutFrame) (rest : List OutFrame),
    vcAt (s.port p).outq vc.val = f :: rest → maySend (s.port p) vc.val f = true → f.arrival = none →
    ∃ t bs, exec (.dataFrameSend p vc) s = .next t ∧ bs = mkFrame 1 vc.val (s.port p).txSeq f.dest f.addr f.tag f.payload ∧
      vcAt (t.port p).outq vc.val = rest ∧ (t.port p).txSeq = ((s.port p).txSeq + 1) % 4096 ∧
      (t.port p).unacked = (s.port p).unacked ++ [⟨(s.port p).txSeq, vc.val, bs, f.owner, false⟩] ∧
      vcAt (t.port p).sent vc.val = (vcAt (s.port p).sent vc.val + frameUnits f.payload) % 65536 ∧ t.mem = s.mem ∧
      t.scratch = s.scratch) ∧
  (∀ (p : PortId) (frame : List Byte) (fixed : Nat) (s : State), (s.port p).carries = true → frameCrcOk frame = true →
    (frameHead frame).type = 1 → frameFormOk frame = true → (frameHead frame).seq = (s.port p).rxSeq →
    distMod 16 (vcAt (s.port p).recv (frameHead frame).vc + frameUnits (framePayload frame))
      (vcAt (s.port p).freed (frameHead frame).vc) ≤ 8192 →
    (frameHead frame).dest = s.obj kPackageId → fecFails (s.port p).fecNow frame.length fixed false = false →
    ∃ t, exec (.dataFrameReceive p frame fixed false) s = .next t ∧ (t.port p).rxSeq = ((s.port p).rxSeq + 1) % 4096 ∧
      vcAt (t.port p).rx (frameHead frame).vc = vcAt (s.port p).rx (frameHead frame).vc ++
        [⟨(frameHead frame).dest, (frameHead frame).addr, (frameHead frame).tag, framePayload frame, (s.port p).epoch⟩] ∧
      (t.port p).discarding = false ∧ t.mem = s.mem ∧ t.scratch = s.scratch) ∧
  (∀ (p : PortId) (frame : List Byte) (fixed : Nat) (s : State) (fs : List SentFrame) (l : SentFrame), (s.port p).carries = true →
    (s.port p).txSeq = (l.seq + 1) % 4096 → fecFails (s.port p).fecNow frame.length fixed false = false →
    frameCrcOk frame = true → (frameHead frame).type = 2 → frameFormOk frame = true →
    (s.port p).unacked = fs ++ [l] → (∀ f ∈ fs, f.seq ≠ l.seq) → fld (leAt (framePayload frame) 0 2) 0 12 = l.seq →
    bitAt (leAt (framePayload frame) 0 2) 15 = false →
    (∀ v, v < 3 → leAt (framePayload frame) (2 + 2 * v) 2 = vcAt (s.port p).credit v ∧
      vcAt (s.port p).credit v < 65536 ∧
      (distMod 16 (vcAt (s.port p).credit v) (vcAt (s.port p).sent v) ≤ 8192 ∨
        2 ^ 15 ≤ distMod 16 (vcAt (s.port p).credit v) (vcAt (s.port p).sent v))) →
    ∃ t, exec (.ctrlFrameReceive p frame ⟨fixed, false⟩) s = .next t ∧ (t.port p).unacked = [] ∧ (t.port p).st = (s.port p).st ∧
      t.mem = s.mem ∧ t.scratch = s.scratch) ∧
  (∀ (p : PortId) (s : State), (s.port p).carries = true → (s.port p).sinceAck ≠ 0 ∨ (s.port p).owed = true →
    ∃ t, exec (.ackTimer p) s = .next t ∧ (t.port p).sinceAck = 0 ∧ (t.port p).owed = false ∧
      (t.port p).unacked = (s.port p).unacked ∧ t.mem = s.mem ∧ t.scratch = s.scratch)

/-- With the licence: DROPSTITCH_TRIGGER_OFF sets DS_CTRL with TRIGGER 0 and disarms injection; NOW, TICK and
SINGLE_SHOT set DS_CTRL with TRIGGER 1, 2 and 3, and leave it to the next frame boundary while TRIGGER was non-zero.
While it was 0 they take effect at once: the count of frames restarts, and injection begins at the tick the counter
shows, for TICK only when DS_TICK has arrived. Nothing else changes. Without the licence all four leave every port, core
and byte of memory as it was. (R232, R219) -/
def Obligations.DropstitchTriggers : Prop :=
  ∀ (p : PortId) (drop corrupt reorder : BitVec 16) (classes : BitVec 4) (s : State),
    (s.licensed 2 = true →
      exec (.dropstitchTriggerOff p drop corrupt reorder classes) s = .next (s.modPort p fun x => { x with
        dsCtrl := dsCtrlOf drop corrupt reorder classes 0, dsArmed := none, dsWait := false }) ∧
      (fld (s.port p).dsCtrl 0 2 ≠ 0 →
        exec (.dropstitchTriggerNow p drop corrupt reorder classes) s = .next (s.modPort p fun x => { x with
          dsCtrl := dsCtrlOf drop corrupt reorder classes 1, dsWait := true }) ∧
        exec (.dropstitchTriggerTick p drop corrupt reorder classes) s = .next (s.modPort p fun x => { x with
          dsCtrl := dsCtrlOf drop corrupt reorder classes 2, dsWait := true }) ∧
        exec (.dropstitchSingleShot p drop corrupt reorder classes) s = .next (s.modPort p fun x => { x with
          dsCtrl := dsCtrlOf drop corrupt reorder classes 3, dsWait := true })) ∧
      (fld (s.port p).dsCtrl 0 2 = 0 →
        exec (.dropstitchTriggerNow p drop corrupt reorder classes) s = .next (s.modPort p fun x => { x with
          dsCtrl := dsCtrlOf drop corrupt reorder classes 1, dsWait := false, dsJ := 0, dsArmed := some s.tick.count }) ∧
        exec (.dropstitchTriggerTick p drop corrupt reorder classes) s = .next (s.modPort p fun x => { x with
          dsCtrl := dsCtrlOf drop corrupt reorder classes 2, dsWait := false, dsJ := 0
          dsArmed := if x.dsTick ≤ s.tick.count ∧ s.tick.arrived = true then some s.tick.count else none }) ∧
        exec (.dropstitchSingleShot p drop corrupt reorder classes) s = .next (s.modPort p fun x => { x with
          dsCtrl := dsCtrlOf drop corrupt reorder classes 3, dsWait := false, dsJ := 0, dsArmed := some s.tick.count }))) ∧
    (s.licensed 2 = false → ∀ i : Instr, i ∈ [.dropstitchTriggerOff p drop corrupt reorder classes,
        .dropstitchTriggerNow p drop corrupt reorder classes, .dropstitchTriggerTick p drop corrupt reorder classes,
        .dropstitchSingleShot p drop corrupt reorder classes] →
      ∃ t, exec i s = .next t ∧ t.fabric = s.fabric ∧ t.cores = s.cores ∧ t.mem = s.mem)

/-- When round robin names a queue and its entry is read and not refused: the queue holds the command that the 64 bytes
spell, its SQ_HEAD is one further, and no other queue changes. When the entry cannot be read, the queue is in ERROR with
cause 3. A queue that holds a NOP not yet started completes it: the completion entry names the command and the queue
with status 0, and its other queues, memory and cores are as they were. (R341, R342, R343, R349) -/
def Obligations.HostCommandsAreFetchedInTurn : Prop :=
  (∀ (raw : List Byte) (s : State) (q : Fin 64), nextQueue s = some q → fetchStatus s (fitBytes 64 raw) = none →
    ∃ t, exec (.commandFetch (some raw)) s = .next t ∧ (t.queue q).cmd = some (hostCmdOf (fitBytes 64 raw)) ∧
      (t.queue q).sqHead = ((s.queue q).sqHead + 1) % 2 ^ (s.queue q).size ∧ (∀ r, r ≠ q → t.queue r = s.queue r) ∧
      t.mem = s.mem ∧ t.cores = s.cores) ∧
  (∀ (s : State) (q : Fin 64), nextQueue s = some q →
    ∃ t, exec (.commandFetch none) s = .next t ∧ (t.queue q).st = 2 ∧ (t.queue q).cause = 3 ∧ (t.queue q).cmd = (s.queue q).cmd) ∧
  (∀ (q : Fin 64) (c : HostCmd) (s : State), waitingCmd s q 0 = some c →
    ∃ t, exec (.nop q) s = .next t ∧ Completed s t q c 0 ∧ (∀ r, r ≠ q → t.queue r = s.queue r) ∧ t.mem = s.mem ∧
      t.cores = s.cores)

/-- COPY_TO_DEVICE outside any CODE segment and COPY_FROM_DEVICE, with operands that keep the rules of R343, mark their
command started with one open chunk for each 256 KiB aligned piece of the device range, and change nothing else. A chunk
of a copy to the device that no reset has ended, arriving while others are open and no region of its die is being
initialised, takes code 0 and leaves the others as they are; when it is
the last open one and every other code is 0, the command completes with status 0. (R343, R346, R345) -/
def Obligations.CopiesGoByChunks : Prop :=
  (∀ (q : Fin 64) (c : HostCmd) (s : State), copyOk s c = true →
    (waitingCmd s q 1 = some c → inCode s c.b c.c = false → exec (.copyToDevice q) s = .next (modQueue s q fun x => { x with
      cmd := some { c with started := true, chunks := List.replicate (copyCount c.b c.c) 255 } })) ∧
    (waitingCmd s q 2 = some c → exec (.copyFromDevice q) s = .next (modQueue s q fun x => { x with
      cmd := some { c with started := true, chunks := List.replicate (copyCount c.b c.c) 255 } }))) ∧
  (∀ (q : Fin 64) (slot : Fin 4) (bs : List Byte) (inFlight : Fin 4) (c : HostCmd) (j : Nat) (s : State),
    (s.queue q).cmd = some c → c.started = true → c.op = 1 → (copyOpen c.chunks)[slot.val]? = some j →
    initialising s (copySpan c.b c.c j).1 = false → c.ended = false →
    ((c.chunks.set j 0).contains 255 = true →
      ∃ t, exec (.copyChunkDone q slot (some bs) false .good inFlight) s = .next t ∧
        (t.queue q).cmd = some { c with chunks := c.chunks.set j 0 } ∧ ∀ r, r ≠ q → t.queue r = s.queue r) ∧
    ((∀ k ∈ c.chunks.set j 0, k = 0) →
      ∃ t, exec (.copyChunkDone q slot (some bs) false .good inFlight) s = .next t ∧ Completed s t q c 0))

/-- In its turn, in a device state that permits it: LOAD_IMAGE of bytes that admission accepts loads that image, its
present used cores wait, and the command completes with status 0; START of a loaded image that admission accepts arms it
at START_TICK, every used core waits with its scalar registers zero, and it completes; STOP of an armed or running image
raises STOP_REQUEST and stays in progress; STOP_COMMAND_COMPLETE completes it once every core of the run has stopped or
trapped; RESUME of a resumable image lets its cores wait with no trap record and completes; UNLOAD of an image that no
core runs discards it, every core is idle, and it completes. (R343, R35, R28, R47, R42, R73) -/
def Obligations.ImageCommandsRunTheImage : Prop :=
  (∀ (q : Fin 64) (c : HostCmd) (raw : List Byte) (s : State), imageCmd s q 0x10 = some c → 128 ≤ c.c →
    (admitBytes s (fitBytes c.c raw)).reason = 0 →
    ∃ t, exec (.loadImage q (some raw)) s = .next t ∧ Completed s t q c 0 ∧ t.run.image = some (imageOf (fitBytes c.c raw)) ∧
      t.run.phase = .loaded ∧ ∀ k ∈ t.runCores, (t.core k).st = .waiting) ∧
  (∀ (q : Fin 64) (c : HostCmd) (img : Image) (s : State), imageCmd s q 0x11 = some c → s.run.image = some img →
    s.obj kDeviceState = stOperational → s.run.phase = .loaded ∨ s.run.phase = .ended →
    (admission s img true (some c.a)).reason = 0 →
    ∃ t, exec (.start q) s = .next t ∧ Completed s t q c 0 ∧ t.run.phase = .armed ∧ t.run.next = c.a ∧ t.run.step = c.b ∧
      ∀ k ∈ s.runCores, (t.core k).st = .waiting ∧ ∀ i, (t.core k).sreg i = 0) ∧
  (∀ (q : Fin 64) (c : HostCmd) (s : State), imageCmd s q 0x12 = some c → s.hasImage = true → statePermits s 0x12 = true →
    s.run.phase = .armed ∨ s.run.phase = .running →
    ∃ t, exec (.stop q) s = .next t ∧ t.run.contrib = s.run.contrib ||| flagStop ∧
      (t.queue q).cmd = some { c with started := true, chunks := [] } ∧ t.cores = s.cores) ∧
  (∀ (q : Fin 64) (c : HostCmd) (s : State), (s.queue q).cmd = some c → c.op = 0x12 → c.started = true → allHalted s = true →
    ∃ t, exec (.stopCommandComplete q) s = .next t ∧ Completed s t q c 0 ∧ t.cores = s.cores ∧ t.run = s.run) ∧
  (∀ (q : Fin 64) (c : HostCmd) (s : State), imageCmd s q 0x13 = some c → s.hasImage = true → statePermits s 0x13 = true →
    resumable s c.a = true →
    ∃ t, exec (.resume q) s = .next t ∧ Completed s t q c 0 ∧ t.run.next = c.a ∧ t.run.phase ≠ .stopped ∧
      ∀ k ∈ s.runCores, (t.core k).st = .waiting ∧ (t.core k).trap.valid = false ∧ (t.core k).sregs = (s.core k).sregs) ∧
  (∀ (q : Fin 64) (c : HostCmd) (s : State), imageCmd s q 0x14 = some c → s.hasImage = true → statePermits s 0x14 = true →
    unloadable s = true →
    ∃ t, exec (.unload q) s = .next t ∧ Completed s t q c 0 ∧ t.run.image = none ∧
      ∀ k, (t.core k).st = .idle ∧ (t.core k).trap.valid = false)

/-- In its turn, in a device state that permits it, with addresses in data areas: EXPORT_SHARD whose shard table reads as
valid holds a job of the queue at record 0 with the table's bytes, its command in progress; whose table does not is
completed with status 6. EXPORT_RECORD_DONE of a job that no step has overtaken, with room for its next record, writes that
record to the host: while records are left the job goes on to the next one, and after the last one the command completes,
with status 0 when no record was poisoned and 6 when one was. A job that a step has overtaken completes with status 6, and
one without room with status 9 when no record was poisoned. IMPORT_SHARD with a valid table into a package with no image
completes with status 0 when no record of the source was refused, and else with 6; when the first record of the source is
accepted, object 0x6700:01 is its LOSS_EXP and 0x6700:02 its CLEAN_COUNT. (R296, R297, R298, R299, R345) -/
def Obligations.ShardsAreExportedAndImported : Prop :=
  (∀ (q : Fin 64) (c : HostCmd) (s : State), imageCmd s q 0x20 = some c → statePermits s 0x20 = true → shardAddrsOk s c = true →
    ((hostTable s c.b).2.1 = true →
      ∃ t j, exec (.exportShard q) s = .next t ∧ t.host.job = some j ∧ j.queue = q.val ∧ j.table = (hostTable s c.b).1 ∧
        j.next = 0 ∧ j.written = 0 ∧ j.commit = c.d ∧ j.overrun = false ∧ (t.queue q).cmd = some { c with started := true, chunks := [] }) ∧
    ((hostTable s c.b).2.1 = false → ∃ t, exec (.exportShard q) s = .next t ∧ Completed s t q c 6)) ∧
  (∀ (s : State) (j : ExportJob), s.host.job = some j → j.overrun = false →
    128 + recordPayload (shardOf j.table) j.flags j.next ≤ j.room →
    (j.next + 1 < recordCount (shardOf j.table) j.flags →
      ∃ t k, exec .exportRecordDone s = .next t ∧ t.host.job = some k ∧ k.next = j.next + 1 ∧ k.written = j.written + 1 ∧
        Output.hostWrite j.dest (exportRecord s j (shardOf j.table) j.next).1 false ∈ t.out) ∧
    (∀ c, recordCount (shardOf j.table) j.flags ≤ j.next + 1 → (s.queue (queueFin j.queue)).cmd = some c →
      ∃ t, exec .exportRecordDone s = .next t ∧ t.host.job = none ∧
        Output.hostWrite j.dest (exportRecord s j (shardOf j.table) j.next).1 false ∈ t.out ∧
        Completed s t (queueFin j.queue) c (if j.poisoned || (exportRecord s j (shardOf j.table) j.next).2.1 then 6 else 0))) ∧
  (∀ (s : State) (j : ExportJob) (c : HostCmd), s.host.job = some j → (s.queue (queueFin j.queue)).cmd = some c →
    (j.overrun = true → ∃ t, exec .exportRecordDone s = .next t ∧ t.host.job = none ∧ Completed s t (queueFin j.queue) c 6) ∧
    (j.overrun = false → j.room < 128 + recordPayload (shardOf j.table) j.flags j.next → j.poisoned = false →
      ∃ t, exec .exportRecordDone s = .next t ∧ t.host.job = none ∧ Completed s t (queueFin j.queue) c 9)) ∧
  (∀ (q : Fin 64) (c : HostCmd) (raw : List Byte) (s : State), imageCmd s q 0x21 = some c → statePermits s 0x21 = true →
    s.hasImage = false → shardAddrsOk s c = true → (hostTable s c.b).2.1 = true →
    (let src := cutRecords (c.c + 1) (fitBytes c.c raw)
     let r := src.foldl (importRecord (shardOf (hostTable s c.b).1) c.d)
       ⟨0, 0, none, List.replicate (shardOf (hostTable s c.b).1).elems false, [], (hostTable s c.b).2.2⟩
     ∃ t, exec (.importShard q (some raw)) s = .next t ∧ Completed s t q c (if r.outcome = 0 then 0 else 6) ∧
      ∀ b bs, src = b :: bs → refusals (shardOf (hostTable s c.b).1) none b = [] →
        t.obj kScale = leAt b 0x2A 1 ∧ t.obj 0x670002 = leAt b 0x2C 2))

/-- A doorbell written with 4 aligned bytes and no EP, whose queue or ring is enabled and whose value lies in it: SQ_TAIL
takes the value; CQ_HEAD takes it and frees the entries passed, if that many are used; EVR_HEAD takes it and leaves in use
the slots from it to the next record's. A value beyond the queue puts an enabled queue in ERROR with cause 1 (SQ_TAIL) or 2
(CQ_HEAD). Enabling a disabled queue or ring with a size from 4 to 16 starts it at slot 0 with PHASE 1; disabling clears EN.
A WIN_BASE that is a multiple of the window's size is kept. No other queue or ring changes. What an EVR_HEAD equal to the
next record's slot frees is the model's choice (log entry 57). (R341, R347, R349, R350, R339) -/
def Obligations.DoorbellsAndRingRegisters : Prop :=
  (∀ (q : Fin 64) (v : BitVec 32) (s : State), (s.queue q).en = true →
    (v.toNat < 2 ^ (s.queue q).size →
      exec (.sqTailWrite q v true false) s = .next (modQueue s q fun x => { x with sqTail := v.toNat }) ∧
      ((v.toNat + 2 ^ (s.queue q).size - (s.queue q).cqHead) % 2 ^ (s.queue q).size ≤ (s.queue q).cqUsed →
        exec (.cqHeadWrite q v true false) s = .next (modQueue s q fun x => { x with
          cqHead := v.toNat, cqUsed := x.cqUsed - (v.toNat + 2 ^ x.size - x.cqHead) % 2 ^ x.size }))) ∧
    (2 ^ (s.queue q).size ≤ v.toNat → (s.queue q).st ≠ 2 →
      (∃ t, exec (.sqTailWrite q v true false) s = .next t ∧ (t.queue q).st = 2 ∧ (t.queue q).cause = 1 ∧
        ∀ r, r ≠ q → t.queue r = s.queue r) ∧
      ∃ t, exec (.cqHeadWrite q v true false) s = .next t ∧ (t.queue q).st = 2 ∧ (t.queue q).cause = 2 ∧
        ∀ r, r ≠ q → t.queue r = s.queue r)) ∧
  (∀ (r : Fin 8) (v : BitVec 32) (s : State), s.host.rings[r].en = true → v.toNat < 2 ^ s.host.rings[r].size →
    exec (.evrHeadWrite r v true false) s =
      .next { s with host := { s.host with rings := vmod s.host.rings r fun y => { y with
        head := v.toNat, used := (y.tail + 2 ^ y.size - v.toNat) % 2 ^ y.size } } }) ∧
  (∀ (q : Fin 64) (v : BitVec 64) (s : State), (s.queue q).en = false → 4 ≤ fld v.toNat 0 5 → fld v.toNat 0 5 ≤ 16 →
    ∃ t, exec (.queueEnable q v) s = .next t ∧ (t.queue q).en = true ∧ (t.queue q).st = 1 ∧ (t.queue q).sqHead = 0 ∧
      (t.queue q).sqTail = 0 ∧ (t.queue q).cqHead = 0 ∧ (t.queue q).cqUsed = 0 ∧ (t.queue q).phase = true ∧
      (t.queue q).size = fld v.toNat 0 5 ∧ ∀ r, r ≠ q → t.queue r = s.queue r) ∧
  (∀ (q : Fin 64) (v : BitVec 64) (s : State),
    ∃ t, exec (.queueDisable q v) s = .next t ∧ (t.queue q).en = false ∧ ∀ r, r ≠ q → t.queue r = s.queue r) ∧
  (∀ (r : Fin 8) (v : BitVec 64) (s : State), s.host.rings[r].en = false → 4 ≤ fld v.toNat 0 5 → fld v.toNat 0 5 ≤ 16 →
    ∃ t, exec (.eventRingEnable r v) s = .next t ∧ t.host.rings[r].en = true ∧ t.host.rings[r].head = 0 ∧
      t.host.rings[r].tail = 0 ∧ t.host.rings[r].used = 0 ∧ t.host.rings[r].phase = true ∧ t.host.rings[r].seq = 0 ∧
      ∀ k : Fin 8, k ≠ r → t.host.rings[k] = s.host.rings[k]) ∧
  (∀ (r : Fin 8) (v : BitVec 64) (s : State),
    ∃ t, exec (.eventRingDisable r v) s = .next t ∧ t.host.rings[r].en = false ∧
      ∀ k : Fin 8, k ≠ r → t.host.rings[k] = s.host.rings[k]) ∧
  (∀ (v : BitVec 64) (s : State), fld v.toNat 30 18 * 2 ^ 30 % 2 ^ s.host.bar2Log2 = 0 →
    exec (.winBaseWrite v) s = .next { s with host := { s.host with winBase := fld v.toNat 30 18 * 2 ^ 30 } })

/-- BAR0_BAD_ACCESS of a read emits a completion of status Unsupported Request and logs the error, of a write only logs
it; a misaligned REGISTER_WRITE of the host does the same as the write. No register, memory byte or other state changes.
(R6) -/
def Obligations.BadBar0AccessesChangeNoRegister : Prop :=
  ∀ (s : State), exec (.bar0BadAccess false) s = .next ((s.emit .unsupported).emit (.aer 0)) ∧
    exec (.bar0BadAccess true) s = .next (s.emit (.aer 0)) ∧
    ∀ (fn : Fin 2) (addr : BitVec 28) (v : BitVec 64) (how : MemOutcome),
      (addr.toNat % 8 ≠ 0 → exec (.registerWrite 0 fn addr true v how) s = .next (s.emit (.aer 0))) ∧
      (addr.toNat % 4 ≠ 0 → exec (.registerWrite 0 fn addr false v how) s = .next (s.emit (.aer 0)))

/-- A BAR2 read of one page of data areas, no region of its die being initialised, emits the bytes that a good read of them
gives, without EP when none is poison and no attempt fails, and else bytes of 0xFF with EP, with an AER log behind them. A
BAR2 read and a BAR2 write outside the data areas and an AtomicOp change nothing but what is answered and logged; a write
inside them, outside CODE, stores its bytes page by page. A vector unmasked with its pending bit set, in a function whose
MSI-X is enabled and not masked (that gate is PCI Express's, log entry 158), clears the bit and sends its message. A function
level reset of function 0 disables every queue and ring and leaves no command but copies whose chunks are in flight, and of
function 1 releases every host lock and clears the mailbox. PERST_N asserted takes the link down and does both; released in a
package whose references hold, the link trains, and BAR2 has the size then given where it may have it. (R338, R339, R340,
R346, R348, R404) -/
def Obligations.HostWindowAndFunctionResets : Prop :=
  (∀ (o : BitVec 41) (n : Nat) (s : State), o.toNat < 2 ^ s.host.bar2Log2 → 1 ≤ n → (s.host.winBase + o.toNat) % 512 + n ≤ 512 →
    inDataAreas s (s.host.winBase + o.toNat) n = true → initialising s (s.host.winBase + o.toNat) = false →
    (let l := memLoad s (s.host.winBase + o.toNat) n (some .normal) .good
     (l.bad = 0 → l.failed = none → ∃ t, exec (.bar2Read o n .good) s = .next t ∧ t.out.head? = some (.readData l.bytes false) ∧
        t.host.queues = s.host.queues) ∧
     (l.bad ≠ 0 ∨ l.failed ≠ none → ∃ t o', exec (.bar2Read o n .good) s = .next t ∧
        t.out = .aer 1 :: .readData (List.replicate n 0xFF#8) true :: o'))) ∧
  (∀ (o : BitVec 41) (n : Nat) (how : MemOutcome) (bs : List Byte) (ep : Bool) (s : State),
    exec (.bar2Write o bs ep true) s = .next ((s.emit .unsupported).emit (.aer 0)) ∧
    (inDataAreas s (s.host.winBase + o.toNat) n = false → exec (.bar2Read o n how) s = .next ((s.emit .unsupported).emit (.aer 0))) ∧
    (inDataAreas s (s.host.winBase + o.toNat) bs.length = false → exec (.bar2Write o bs ep false) s = .next (s.emit (.aer 0))) ∧
    (o.toNat < 2 ^ s.host.bar2Log2 → inDataAreas s (s.host.winBase + o.toNat) bs.length = true →
      inCode s (s.host.winBase + o.toNat) bs.length = false → initialising s (s.host.winBase + o.toNat) = false →
      exec (.bar2Write o bs false false) s = .next (s.each (pagePieces (s.host.winBase + o.toNat) bs.length) fun u p =>
        memStore u p.1 (bytesAt bs (p.1 - (s.host.winBase + o.toNat)) p.2) (some .normal)))) ∧
  (∀ (vec : Fin 2048) (s : State), kvGet false s.host.msixPend vec.val = true → (s.fnConfig 0).msixEn = true →
    (s.fnConfig 0).fnMask = false →
    ∃ t a d, exec (.msixUnmask 0 (.vector vec)) s = .next t ∧ kvGet false t.host.msixPend vec.val = false ∧
      t.out = .msix 0 vec.val a d :: s.out ∧ a = kvGet 0 s.host.msixAddr vec.val) ∧
  (∀ (s : State), ∃ t, exec .flrFunction0 s = .next t ∧
    ∀ q : Fin 64, (t.queue q).en = false ∧ (∀ c, (t.queue q).cmd = some c → c.ended = true ∧ c.started = true ∧ (c.op = 1 ∨ c.op = 2)) ∧
      ∀ r : Fin 8, t.host.rings[r].en = false) ∧
  (∀ (s : State), ∃ t, exec .flrFunction1 s = .next t ∧ (∀ l ∈ t.mgmt.locks, l.2 ≠ 0) ∧ t.mgmt.request = [] ∧
    t.mgmt.busy = false ∧ t.mgmt.mbxDone = false ∧ t.host.queues = s.host.queues ∧ t.cores = s.cores) ∧
  (∀ (s : State), s.host.perstLow = false → ∃ t, exec .perstNAssert s = .next t ∧ t.host.perstLow = true ∧
    t.host.linkUp = false ∧ (∀ q : Fin 64, (t.queue q).en = false) ∧ ∀ l ∈ t.mgmt.locks, l.2 ≠ 0) ∧
  (∀ (rate width bar2 : BitVec 8) (s : State), s.host.perstLow = true → 3 ≤ s.life.stage → s.clocks.pcieOk = true →
    s.power.tripped = false →
    ∃ t, exec (.perstNRelease rate ⟨width, bar2⟩) s = .next t ∧ t.host.perstLow = false ∧ t.host.linkUp = true ∧
      t.obj 0x690006 = rate.toNat ∧ t.obj 0x690007 = width.toNat ∧ t.host.queues = s.host.queues ∧
      t.host.bar2Log2 = if 30 ≤ bar2.toNat ∧ bar2.toNat ≤ 41 then bar2.toNat else s.host.bar2Log2)

/-- A write of 8 bytes to REGION_n of a die's Stratus or HBM sets its EN, strength, size and base fields and leaves every
other region register and the cores as they were, and a read of the register then gives exactly those fields. A LOW_HALF_READ
of a 64-bit register of function 0 answers its low half and keeps its value; a HIGH_HALF_READ of the register by the same
requester answers that value's high half. A write to RESET_STATUS changes nothing. NF_RECORD_CLEAR empties the core's
first-position record and CROSS_INFO_CLEAR the die's CROSS_INFO; a crossing that times out under a read of the host answers all
ones and, where CROSS_INFO holds no earlier timeout, records the access. (R8, R121, R192, R454, R455, R459) -/
def Obligations.RegistersReadWhatWasWritten : Prop :=
  (∀ (d : DieId) (n : Fin 16) (v : BitVec 64) (how : MemOutcome) (s : State) (a : Nat),
    a = 0x1000000 * (1 + d.val) + (if n.val < 8 then 0x200200 else 0x300200) + 8 * (n.val % 8) →
    ∃ t, exec (.registerWrite 0 0 (BitVec.ofNat 28 a) true v how) s = .next t ∧
      readReg t a = some (fld v.toNat 63 1 * 2 ^ 63 + fld v.toNat 58 3 * 2 ^ 58 + fld v.toNat 32 25 * 2 ^ 32 + fld v.toNat 0 25) ∧
      t.cores = s.cores ∧ t.mem = s.mem ∧ ∀ m : Fin 16, m ≠ n → (t.die d).region[m] = (s.die d).region[m]) ∧
  (∀ (req : Fin 17) (addr : BitVec 28) (v : Nat) (s : State), addr.toNat % 8 = 0 → readEffect s req addr.toNat = s →
    oneReg addr.toNat = true → readReg s addr.toNat = some v →
    exec (.lowHalfRead req ⟨0, addr⟩) s = .next (returnRead (setSnap s req addr.toNat v) req 4 (v % 2 ^ 32))) ∧
  (∀ (req : Fin 17) (addr : BitVec 28) (v : Nat) (s : State), readEffect s req (addr.toNat / 8 * 8) = s →
    s.clocks.snaps[req] = some (addr.toNat / 8 * 8, v) →
    exec (.highHalfRead req ⟨0, addr⟩) s = .next (returnRead s req 4 (v / 2 ^ 32 % 2 ^ 32))) ∧
  (∀ (v : BitVec 64) (how : MemOutcome) (s : State), exec (.registerWrite 0 0 0x1000 true v how) s = .next s) ∧
  (∀ (c : CoreId) (s : State), exec (.nfRecordClear c) s = .next (s.modCore c fun x => { x with nf := .empty })) ∧
  (∀ (d : DieId) (s : State), ∃ t, exec (.crossInfoClear d) s = .next t ∧ t.clocks.cross[d].value = 0 ∧ t.mem = s.mem ∧
    t.cores = s.cores) ∧
  (∀ (off : BitVec 28) (d : DieId) (s : State), crossingDie s off.toNat = some d → s.clocks.cross[d].timeout = false →
    ∃ t, exec (.crossingTimeout 0 false false off) s = .next t ∧ t.clocks.cross[d] = ⟨true, 0, false, off.toNat⟩ ∧
      t.out.head? = some (.readData (List.replicate 8 0xFF#8) false))

/-- For a request of a master that is served, in a device state that permits it and outside the session rule: READ of an
object that is not write-only and needs no absent licence, from offset 0 with at most 1,024 bytes, is answered OK with
the value's length in OFFSET and its first bytes, and no object changes but the two that a read clears and the two that
the model brings up to date as free values at their read (log entry 137); WRITE of a writable object that holds no
command and lies outside 0x2110 while an image is loaded, with the right length and a value in range (RWP objects in
PREOP, the indices that an image locks without one), is answered OK and the object holds the value; WRITE of an index
that the other master has locked is answered LOCKED and no object changes (the stop command and the resets excepted);
LOCK of a free index below 64 locks takes it, and UNLOCK of one's own lock frees it; DESCRIBE of an object and a request
of no defined opcode are answered, the latter with OPCODE, and change no object. When a lease ends, exactly the master's
locks end, and LOCKS_BROKEN counts them. (R356, R357, R358, R365, R366, R367, R368, R355, R377) -/
def Obligations.EnytreRequestsAreAnswered : Prop :=
  (∀ (m : Fin 2) (seq : BitVec 8) (index : BitVec 16) (sub : BitVec 8) (len : BitVec 16) (secure : Bool) (o : Obj) (s : State),
    MayRequest s m 1 index.toNat secure false → objFind index.toNat sub.toNat = some o → len.toNat ≤ 1024 →
    unlicensed s (objKey index.toNat sub.toNat) = false → o.access ≠ .wo →
    ∃ t, exec (.enytreRead m seq index sub len 0 secure) s = .next t ∧
      Told t m ⟨1, seq.toNat, index.toNat, sub.toNat, len.toNat, 0, []⟩ 0 (objBytes (bringUpToDate s (objKey index.toNat sub.toNat)) o
        (objKey index.toNat sub.toNat)).length ((objBytes (bringUpToDate s (objKey index.toNat sub.toNat)) o
        (objKey index.toNat sub.toNat)).take len.toNat) ∧
      (∀ k, k ≠ 0x610007 → k ≠ 0xA10003 → k ≠ 0x64000E → k ≠ 0x692004 → t.obj k = s.obj k) ∧ t.mem = s.mem ∧ t.cores = s.cores) ∧
  (∀ (m : Fin 2) (seq : BitVec 8) (index : BitVec 16) (sub : BitVec 8) (data : List Byte) (secure : Bool) (o : Obj) (s : State),
    MayRequest s m 2 index.toNat secure true → objFind index.toNat sub.toNat = some o →
    unlicensed s (objKey index.toNat sub.toNat) = false → o.access = .rw ∨ o.access = .rwp →
    (o.access = .rwp → s.obj kDeviceState = stPreop) → data.length = o.type.width / 8 →
    ((mayWrite s m (writeReq seq index.toNat sub.toNat 0 data) = true →
        imageLocked index.toNat = false ∨ s.hasImage = false → index.toNat ≠ 0x2110 ∨ s.hasImage = false →
        valueOk s o (objKey index.toNat sub.toNat) (leAt data 0 (o.type.width / 8)) = true →
        ∃ t, exec (.enytreWrite m seq index sub 0 data secure) s = .next t ∧
          Told t m (writeReq seq index.toNat sub.toNat 0 data) 0 0 [] ∧
          t.obj (objKey index.toNat sub.toNat) = leAt data 0 (o.type.width / 8) ∧ t.cores = s.cores) ∧
      (mayWrite s m (writeReq seq index.toNat sub.toNat 0 data) = false →
        ∃ t, exec (.enytreWrite m seq index sub 0 data secure) s = .next t ∧
          Told t m (writeReq seq index.toNat sub.toNat 0 data) stLocked 0 [] ∧ t.dict = s.dict ∧ t.cores = s.cores))) ∧
  (∀ (m : Fin 2) (seq : BitVec 8) (index : BitVec 16) (sub : BitVec 8) (secure : Bool) (s : State),
    objIndexExists index.toNat = true →
    (MayRequest s m 3 index.toNat secure true → holder s index.toNat = none → lockCount s m.val < 64 →
      ∃ t, exec (.enytreLock m seq index sub secure) s = .next t ∧
        Told t m ⟨3, seq.toNat, index.toNat, sub.toNat, 0, 0, []⟩ 0 0 [] ∧
        (∀ i, holder t i = if i = index.toNat then some m.val else holder s i) ∧ t.dict = s.dict) ∧
    (MayRequest s m 4 index.toNat secure true → holder s index.toNat = some m.val →
      ∃ t, exec (.enytreUnlock m seq index sub secure) s = .next t ∧
        Told t m ⟨4, seq.toNat, index.toNat, sub.toNat, 0, 0, []⟩ 0 0 [] ∧
        (∀ i, holder t i = if i = index.toNat then none else holder s i) ∧ t.dict = s.dict)) ∧
  (∀ (m : Fin 2) (seq : BitVec 8) (index : BitVec 16) (sub : BitVec 8) (o : Obj) (s : State),
    MayRequest s m 5 index.toNat false false → objFind index.toNat sub.toNat = some o →
    unlicensed s (objKey index.toNat sub.toNat) = false →
    ∃ t, exec (.enytreDescribe m seq index sub) s = .next t ∧
      Told t m ⟨5, seq.toNat, index.toNat, sub.toNat, 0, 0, []⟩ 0 0 (leBytes 1 (typeCode o.type) ++ leBytes 1 (accessCode o.access)
        ++ leBytes 2 0 ++ leBytes 4 (objBytes s o (objKey index.toNat sub.toNat)).length) ∧ t.dict = s.dict ∧ t.cores = s.cores) ∧
  (∀ (m : Fin 2) (op seq : BitVec 8) (index : BitVec 16) (sub : BitVec 8) (s : State), served s m = true →
    op.toNat = 0 ∨ 5 < op.toNat →
    ∃ t, exec (.enytreBadOpcode m op seq index sub) s = .next t ∧
      Told t m ⟨op.toNat, seq.toNat, index.toNat, sub.toNat, 0, 0, []⟩ stOpcode 0 [] ∧ t.dict = s.dict ∧ t.cores = s.cores) ∧
  (∀ (m : Fin 2) (s : State),
    ∃ t, exec (.lockLeaseExpiry m) s = .next t ∧ t.mgmt.locks = s.mgmt.locks.filter (fun l => l.2 != m.val) ∧
      t.obj 0x110102 % 2 ^ 32 = (s.obj 0x110102 + lockCount s m.val) % 2 ^ 32 ∧ t.mem = s.mem ∧ t.cores = s.cores)

/-- For a request of a master that is served, not barred by the session rule or a lock: STATE_COMMAND 1 in PREOP makes
the state OPERATIONAL with cause 0; 2 in OPERATIONAL with no image makes it PREOP; 3 with an image armed or running
contributes STOP_REQUEST, whatever lock is held on 0x1001. With no image, a reservation in its range holds the value
written; a power budget from the grade's floor to its cap likewise. PACKAGE_RESET is answered OK, and the package is in
BOOT, in stage 1, with cause 3; COMPUTE_RESET, where a compute reset is possible and none is in progress, begins one of
cause 8, with the bond test exactly for value 2, READY falls and no core runs any more. Each is answered OK. (R354, R355,
R365, R36, R423, R396, R399, R411) -/
def Obligations.WritesOfCommandObjectsAct : Prop :=
  (∀ (m : Fin 2) (seq : BitVec 8) (secure : Bool) (s : State), MayRequest s m 2 0x1001 secure true →
    (mayWrite s m (writeReq seq 0x1001 2 0 [1]) = true → s.obj kDeviceState = stPreop →
      ∃ t, exec (.stateCommandOperational m seq secure) s = .next t ∧ t.obj kDeviceState = stOperational ∧
        t.obj 0x100103 = 0 ∧ Told t m (writeReq seq 0x1001 2 0 [1]) 0 0 []) ∧
    (mayWrite s m (writeReq seq 0x1001 2 0 [2]) = true → s.obj kDeviceState = stOperational → s.hasImage = false →
      ∃ t, exec (.stateCommandPreop m seq secure) s = .next t ∧ t.obj kDeviceState = stPreop ∧
        t.obj 0x100103 = 0 ∧ Told t m (writeReq seq 0x1001 2 0 [2]) 0 0 []) ∧
    (s.obj kDeviceState = stOperational → s.hasImage = true → s.run.phase = .armed ∨ s.run.phase = .running →
      ∃ t, exec (.stateCommandStop m seq secure) s = .next t ∧ t.run.contrib = s.run.contrib ||| flagStop ∧
        t.obj kDeviceState = stOperational ∧ Told t m (writeReq seq 0x1001 2 0 [3]) 0 0 [])) ∧
  (∀ (m : Fin 2) (seq sub : BitVec 8) (v : BitVec 32) (secure : Bool) (s : State), MayRequest s m 2 0x2110 secure true →
    holder s 0x2110 = none ∨ holder s 0x2110 = some m.val → s.hasImage = false →
    (sub = 2 ∧ 500 ≤ v.toNat ∧ v.toNat ≤ 5000) ∨ (sub = 4 ∧ v.toNat ≤ 4096) ∨ (sub = 5 ∧ v.toNat ≤ 5000) →
    ∃ t, exec (.reservationWrite m seq sub v secure) s = .next t ∧ t.obj (objKey 0x2110 sub.toNat) = v.toNat ∧
      Told t m (writeReq seq 0x2110 sub.toNat 0 (leBytes (if sub = 4 then 4 else 2) v.toNat)) 0 0 []) ∧
  (∀ (m : Fin 2) (seq : BitVec 8) (v : BitVec 16) (secure : Bool) (s : State), MayRequest s m 2 0xA000 secure true →
    holder s 0xA000 = none ∨ holder s 0xA000 = some m.val → s.grade.floor ≤ v.toNat → v.toNat ≤ s.grade.cap →
    ∃ t, exec (.powerBudgetWrite m seq v secure) s = .next t ∧ t.obj 0xA00001 = v.toNat ∧ t.cores = s.cores ∧
      Told t m (writeReq seq 0xA000 1 0 (leBytes 2 v.toNat)) 0 0 []) ∧
  (∀ (m : Fin 2) (seq : BitVec 8) (secure : Bool) (s : State), MayRequest s m 2 0x2A00 secure true →
    (∃ t, exec (.packageResetWrite m seq secure) s = .next t ∧ t.obj kDeviceState = stBoot ∧ t.life.stage = 1 ∧
      t.life.lastPackage = 3 ∧ t.run = Run.reset ∧ t.cores = State.reset.cores ∧ t.mem = [] ∧
      Told t m (writeReq seq 0x2A00 1 0 [0xA5]) 0 0 []) ∧
    (s.life.resetting = false → resettable s = true →
      (∃ t, exec (.computeResetWrite m seq secure) s = .next t ∧ t.life.resetting = true ∧ t.life.lastCompute = 8 ∧
        t.life.withBond = false ∧ t.life.ready = false ∧ (∀ c, (t.core c).st ≠ .running) ∧
        Told t m (writeReq seq 0x2A00 2 0 [1]) 0 0 []) ∧
      (∃ t, exec (.computeResetBondWrite m seq secure) s = .next t ∧ t.life.resetting = true ∧ t.life.lastCompute = 8 ∧
        t.life.withBond = true ∧ t.life.ready = false ∧ (∀ c, (t.core c).st ≠ .running) ∧
        Told t m (writeReq seq 0x2A00 2 0 [2]) 0 0 [])))

/-- MAILBOX_GO with KIND 0 while BUSY is 0 and the primary Zenith answers: a reply is sent that echoes the request's
opcode with bit 7 set, its SEQ, INDEX and SUBINDEX; while BUSY is 1 the GO is only counted and the mailbox keeps its
request. A watchdog's expiry, no other within the last second, marks that core restarting and counts one restart; the
end of a restart of a core marks it running, and a request that waited in the mailbox for the primary core is answered
BUSY and not applied. (R360, R353, R428) -/
def Obligations.MailboxAndZenithRestarts : Prop :=
  (∀ (v : BitVec 32) (s : State), served s 0 = true → s.mgmt.busy = false → v.getLsbD 1 = false →
    ∃ t bs, exec (.mailboxGo v) s = .next t ∧ Output.reply 0 bs ∈ t.out ∧
      leAt bs 0 1 = (mailboxRequest s).op % 128 + 128 ∧ leAt bs 1 1 = (mailboxRequest s).seq % 256 ∧
      leAt bs 2 2 = (mailboxRequest s).index % 65536 ∧ leAt bs 4 1 = (mailboxRequest s).sub % 256) ∧
  (∀ (v : BitVec 32) (s : State), s.mgmt.busy = true →
    ∃ t, exec (.mailboxGo v) s = .next t ∧ t.obj 0x110105 = (s.obj 0x110105 + 1) % 2 ^ 32 ∧ t.mgmt.busy = true ∧
      t.mgmt.request = s.mgmt.request ∧ t.out = s.out ∧ t.cores = s.cores) ∧
  (∀ (die : DieId) (s : State), (∀ x, s.mgmt.watchdog[die] = some x → x + cyclesOfMs 1000 ≤ s.now) →
    ∃ t, exec (.zenithWatchdogExpiry die) s = .next t ∧ t.irq.restarting.getLsbD die.val = true ∧ t.cores = s.cores ∧
      t.obj 0x100206 = (s.obj 0x100206 + 1) % 2 ^ 32) ∧
  (∀ (die : DieId) (s : State),
    (∃ t, exec (.zenithRestartDone die) s = .next t ∧ t.irq.restarting = s.irq.restarting &&& ~~~(1#8 <<< die.val) ∧
      t.dict = s.dict ∧ t.cores = s.cores) ∧
    (die = 0 → s.mgmt.busy = true → s.mgmt.kind = false → s.irq.restarting.getLsbD 0 = true →
      ∃ t, exec (.zenithRestartDone die) s = .next t ∧ t.mgmt.busy = false ∧
        t.mgmt.response = answerBytes (mailboxRequest s) (plainAnswer (mailboxRequest s) stBusy) ∧ t.dict = s.dict))

/-- On the bus (VDD_AON up, from stage 2): ENTDAA, and SETDASA with the static address, give a target without a dynamic
address the address offered; RSTDAA takes it, and RSTDAA and the target reset end exactly the locks of the master on
Contrail; SETMRL and SETMWL set lengths from 64 to 256 and no others. Where messages reach the K8: a message of a type
other than those of Table 16.9, and one whose packets are not good, is counted as discarded; a control, PLDM or SPDM
message is counted as received; a vendor-defined message of Lompen's ID is answered with a message of that type; Set
Endpoint ID stores an ID that is not 0 or 255 and answers it (rejecting those two is
the model's own reading, log entry 34), Get Endpoint ID answers the one held, the type query answers the four types, and
the version query answers four bytes that the specification does not state (a free value). (R361, R362, R367, R357) -/
def Obligations.ContrailIsAddressedAndAnswered : Prop :=
  (∀ (a : BitVec 7) (s : State), onBus s = true → s.obj 0x110002 = 0 →
    exec (.i3cEntdaa a) s = .next (s.setObj 0x110002 a.toNat) ∧
    ∀ st : BitVec 7, st.toNat = s.obj 0x110001 → exec (.i3cSetdasa st a) s = .next (s.setObj 0x110002 a.toNat)) ∧
  (∀ s : State, onBus s = true →
    (∃ t, exec .i3cRstdaa s = .next t ∧ t.obj 0x110002 = 0 ∧ t.mgmt.locks = s.mgmt.locks.filter (fun l => l.2 != 1)) ∧
    (∃ t, exec .i3cTargetReset s = .next t ∧ t.mgmt.locks = s.mgmt.locks.filter (fun l => l.2 != 1) ∧ t.dict = s.dict) ∧
    ∀ n : BitVec 16,
      (exec (.i3cSetmrl n) s = .next { s with mgmt := { s.mgmt with
        mrl := if 64 ≤ n.toNat ∧ n.toNat ≤ 256 then n.toNat else s.mgmt.mrl } }) ∧
      (exec (.i3cSetmwl n) s = .next { s with mgmt := { s.mgmt with
        mwl := if 64 ≤ n.toNat ∧ n.toNat ≤ 256 then n.toNat else s.mgmt.mwl } })) ∧
  (∀ s : State, reachable s = true →
    (∀ (type : BitVec 8) (body : List Byte) (secure : Bool),
      (∃ t, exec (.mctpMessageReceive type body false secure) s = .next t ∧ t = s.bump 0x110005) ∧
      (type = 0 ∨ type = 1 ∨ type = 5 → exec (.mctpMessageReceive type body true secure) s = .next (s.bump 0x110004)) ∧
      (type ≠ 0 → type ≠ 1 → type ≠ 5 → type ≠ 0x7E →
        ∃ t, exec (.mctpMessageReceive type body true secure) s = .next t ∧ t.out = s.out ∧ t.cores = s.cores ∧
          t.obj 0x110005 = (s.obj 0x110005 + 1) % 2 ^ 32) ∧
      (body.take 2 = mctpVendor → ∃ t bs, exec (.mctpMessageReceive 0x7E body true secure) s = .next t ∧
        Output.mctp 0x7E bs ∈ t.out)) ∧
    (∀ eid : BitVec 8, eid ≠ 0 → eid ≠ 255 →
      ∃ t, exec (.mctpSetEndpointId eid) s = .next t ∧ t.obj 0x110003 = eid.toNat ∧ Output.mctp 0 [eid] ∈ t.out) ∧
    (∃ t, exec .mctpGetEndpointId s = .next t ∧ t.dict = s.dict ∧ Output.mctp 0 (leBytes 1 (s.obj 0x110003)) ∈ t.out) ∧
    (∃ t bs, exec .mctpGetVersionSupport s = .next t ∧ t.dict = s.dict ∧ bs.length = 4 ∧ Output.mctp 0 bs ∈ t.out) ∧
    (∃ t, exec .mctpGetMessageTypeSupport s = .next t ∧ t.dict = s.dict ∧ Output.mctp 0 [0, 1, 5, 0x7E] ∈ t.out))

/-- Where a PLDM request of a master can be in progress: discovery answers the types 0, 2 and 5; a sensor of the map is
read as its object's value, followed by its unit and modifier (this placing is the model's, log entry 35); a threshold
of the map that the master may write, in range and of the right length, is written; an update may begin when none is in
progress, and then the slot that does not run is neither valid nor pending; the end of the transfer makes that slot
valid exactly when the image is signed and its rollback number is not below the fused counter, and records its version;
activation of a verified component marks the slot pending, and the running slot is never changed. (R363, R365, R370) -/
def Obligations.PldmServesSensorsAndUpdates : Prop :=
  (∀ (m : Fin 2) (s : State), pldmServed s m = true →
    (∃ t bs, exec (.pldmBaseDiscovery m) s = .next t ∧ t.dict = s.dict ∧ bs = [0, 0, 2, 5] ∧
      (m = 0 → Output.reply 0 bs ∈ t.out) ∧ (m = 1 → Output.mctp 1 bs ∈ t.out)) ∧
    (∀ id : BitVec 16, ∃ t, exec (.pldmSensorRead m id) s = .next t ∧ t.cores = s.cores ∧ t.mem = s.mem ∧
      ∀ (index sub unit modifier thr : Nat) (o : Obj),
      sensorEntry id.toNat = some (index, sub, unit, modifier, thr) → objFind index sub = some o → o.access ≠ .wo →
      statePermitsReq s false index = true → unlicensed s (objKey index sub) = false →
      ∃ bs, bs = [0] ++ (objBytes s o (objKey index sub) ++ leBytes 1 unit ++ leBytes 1 modifier) ∧
        (m = 0 → Output.reply 0 bs ∈ t.out) ∧ (m = 1 → Output.mctp 1 bs ∈ t.out)) ∧
    (∀ (id : BitVec 16) (sub : BitVec 8) (data : List Byte),
      ∃ t, exec (.pldmSetThreshold m id sub data) s = .next t ∧
      ∀ (index : Nat) (o : Obj) (e : Nat × Nat × Nat × Nat),
      sensorEntry id.toNat = some (e.1, e.2.1, e.2.2.1, e.2.2.2, index) → index ≠ 0 → objFind index sub.toNat = some o →
      o.access = .rw → statePermitsReq s true index = true → holder s index = none ∨ holder s index = some m.val →
      imageLocked index = false ∨ s.hasImage = false → index ≠ 0x2110 ∨ s.hasImage = false →
      data.length = o.type.width / 8 → valueOk s o (objKey index sub.toNat) (leAt data 0 (o.type.width / 8)) = true →
        t.obj (objKey index sub.toNat) = leAt data 0 (o.type.width / 8) ∧ t.cores = s.cores)) ∧
  (∀ (m : Fin 2) (s : State), pldmServed s m = true →
    (s.life.update = none →
      ∃ t, exec (.pldmRequestUpdate m) s = .next t ∧ t.life.update = some false ∧ t.life.running = s.life.running ∧
        t.life.slots[inactiveSlot s].valid = false ∧ t.life.slots[inactiveSlot s].pending = false ∧
        t.life.slots[s.life.running] = s.life.slots[s.life.running]) ∧
    (∀ (image : List Byte) (version : BitVec 32) (rollback : BitVec 16), s.life.update.isSome = true →
      ∃ t, exec (.pldmTransferEnd m image version rollback) s = .next t ∧ t.life.running = s.life.running ∧
        (t.life.slots[inactiveSlot s].valid = true ↔ Config.signed image = true ∧ s.life.fuseRollback ≤ rollback.toNat) ∧
        t.life.slots[inactiveSlot s].version = version.toNat ∧ t.life.slots[inactiveSlot s].pending = false ∧
        t.life.slots[s.life.running] = s.life.slots[s.life.running]) ∧
    (s.life.update = some true →
      ∃ t, exec (.pldmActivateFirmware m false) s = .next t ∧ t.life.update = none ∧ t.life.running = s.life.running ∧
        t.life.slots[inactiveSlot s].pending = true ∧
        t.life.slots[inactiveSlot s].valid = s.life.slots[inactiveSlot s].valid ∧
        t.life.slots[s.life.running] = s.life.slots[s.life.running]))

/-- Where SPDM requests of a master are served: the version request starts the connection, after which capabilities and
then algorithms that the offer holds make it complete; a complete connection answers digests, the certificate chain of
slot 0 from an offset inside it, a challenge, the number of measurements or the measurements, and a key exchange, which
with a good FINISH gives a session; a session answers heartbeats and key updates, and END_SESSION ends it. Every one of
them leaves the dictionary and the cores as they are. A request for which the connection has not come far enough, or has no
session, or has one already at a key exchange, is counted in 0xD010:02 and leaves every connection as it was.
(R375, R376, R377) -/
def Obligations.SpdmNegotiatesAndAttests : Prop :=
  (∀ (m : Fin 2) (s : State), spdmServed s m = true →
    (∃ t, exec (.spdmGetVersion m) s = .next t ∧ t.mgmt.spdm[m] = ⟨1, false, false⟩ ∧ t.dict = s.dict ∧ t.cores = s.cores) ∧
    (1 ≤ (s.mgmt.spdm[m]).step → ∃ t, exec (.spdmGetCapabilities m) s = .next t ∧ 2 ≤ (t.mgmt.spdm[m]).step ∧
      t.dict = s.dict ∧ t.cores = s.cores) ∧
    (2 ≤ (s.mgmt.spdm[m]).step → ∃ t, exec (.spdmNegotiateAlgorithms m true) s = .next t ∧ (t.mgmt.spdm[m]).step = 3 ∧
      t.dict = s.dict ∧ t.cores = s.cores) ∧
    ((s.mgmt.spdm[m]).step = 3 →
      (∃ t bs, exec (.spdmGetDigests m) s = .next t ∧ t.mgmt.spdm = s.mgmt.spdm ∧ bs = [0, 1] ++ leBytes 48 (Config.sha384 Config.certChain) ∧
        (m = 0 → Output.reply 0 bs ∈ t.out) ∧ (m = 1 → Output.mctp 5 bs ∈ t.out) ∧ t.dict = s.dict ∧ t.cores = s.cores) ∧
      (∀ off len : BitVec 16, off.toNat ≤ Config.certChain.length →
        ∃ t bs, exec (.spdmGetCertificate m 0 off len) s = .next t ∧ t.mgmt.spdm = s.mgmt.spdm ∧
          bs = [0] ++ (Config.certChain.drop off.toNat).take len.toNat ∧
          (m = 0 → Output.reply 0 bs ∈ t.out) ∧ (m = 1 → Output.mctp 5 bs ∈ t.out) ∧ t.dict = s.dict ∧ t.cores = s.cores) ∧
      (∃ t bs, exec (.spdmChallenge m 0) s = .next t ∧ t.mgmt.spdm = s.mgmt.spdm ∧
        ([0] ++ leBytes 48 (Config.sha384 Config.certChain)).isPrefixOf bs = true ∧
        (m = 0 → Output.reply 0 bs ∈ t.out) ∧ (m = 1 → Output.mctp 5 bs ∈ t.out) ∧ t.dict = s.dict ∧ t.cores = s.cores) ∧
      (∀ (i : BitVec 8) (signed : Bool), i.toNat ≤ 6 ∨ i = 255 →
        ∃ t bs, exec (.spdmGetMeasurements m i signed) s = .next t ∧ t.mgmt.spdm = s.mgmt.spdm ∧ t.dict = s.dict ∧
          t.cores = s.cores ∧ ([0] ++ measurements s i.toNat).isPrefixOf bs = true ∧
          (signed = false → bs = [0] ++ measurements s i.toNat) ∧
          (m = 0 → Output.reply 0 bs ∈ t.out) ∧ (m = 1 → Output.mctp 5 bs ∈ t.out)) ∧
      ((s.mgmt.spdm[m]).session = false →
        ∃ t, exec (.spdmKeyExchange m 0) s = .next t ∧ (t.mgmt.spdm[m]).exchanging = true ∧
          (t.mgmt.spdm[m]).session = false ∧ t.dict = s.dict ∧ t.cores = s.cores)) ∧
    ((s.mgmt.spdm[m]).exchanging = true →
      ∃ t, exec (.spdmFinish m true) s = .next t ∧ (t.mgmt.spdm[m]).session = true ∧ (t.mgmt.spdm[m]).exchanging = false ∧
        t.dict = s.dict ∧ t.cores = s.cores) ∧
    ((s.mgmt.spdm[m]).session = true →
      (∃ t, exec (.spdmHeartbeat m) s = .next t ∧ t.mgmt.spdm = s.mgmt.spdm ∧ t.dict = s.dict ∧ t.cores = s.cores) ∧
      (∃ t, exec (.spdmKeyUpdate m) s = .next t ∧ t.mgmt.spdm = s.mgmt.spdm ∧ t.dict = s.dict ∧ t.cores = s.cores) ∧
      (∃ t, exec (.spdmEndSession m) s = .next t ∧ (t.mgmt.spdm[m]).session = false ∧ t.dict = s.dict ∧ t.cores = s.cores))) ∧
  (∀ (m : Fin 2) (i : BitVec 8) (off len : BitVec 16) (signed : Bool) (c : Instr) (s : State), spdmServed s m = true →
    ((s.mgmt.spdm[m]).step = 0 ∧ c = .spdmGetCapabilities m) ∨
    ((s.mgmt.spdm[m]).step < 2 ∧ c = .spdmNegotiateAlgorithms m true) ∨
    ((s.mgmt.spdm[m]).step ≠ 3 ∧ c ∈ [.spdmGetDigests m, .spdmGetCertificate m 0 off len, .spdmChallenge m 0,
        .spdmGetMeasurements m i signed, .spdmKeyExchange m 0]) ∨
    ((s.mgmt.spdm[m]).exchanging = false ∧ c = .spdmFinish m true) ∨
    ((s.mgmt.spdm[m]).session = true ∧ c = .spdmKeyExchange m 0) ∨
    ((s.mgmt.spdm[m]).session = false ∧ c ∈ [.spdmHeartbeat m, .spdmKeyUpdate m, .spdmEndSession m]) →
    ∃ t, exec c s = .next t ∧ t.mgmt.spdm = s.mgmt.spdm ∧ t.obj 0xD01002 = (s.obj 0xD01002 + 1) % 2 ^ 32 ∧ t.cores = s.cores)

/-- Where licence requests of a master are served: INSTALL answers the outcome of Table 16.12; for outcome 0 the record
is installed and valid at once, and for any other the store is as it was. LIST answers the installed records one after
another. REMOVE in a secured session of a serial number that is installed and in use by no loaded image answers 0, and
no record of that number is left. FUSE_UPDATE never lowers the rollback counter or the revocation epoch, and changes
nothing else: the records that the new epoch revokes stay until the next entry into PREOP. (R372, R373, R374, R376) -/
def Obligations.LicencesAndFuses : Prop :=
  (∀ (m : Fin 2) (rec : List Byte) (s : State), spdmServed s m = true →
    ∃ t, exec (.licenceInstall m rec) s = .next t ∧
      t.mgmt.licences = (if installOutcome s rec = 0 then s.mgmt.licences ++ [⟨rec, true⟩] else s.mgmt.licences) ∧
      (m = 0 → Output.reply 0 (leBytes 1 (installOutcome s rec)) ∈ t.out) ∧
      (m = 1 → Output.mctp 5 (leBytes 1 (installOutcome s rec)) ∈ t.out) ∧ t.dict = s.dict ∧ t.cores = s.cores) ∧
  (∀ (m : Fin 2) (s : State), spdmServed s m = true →
    ∃ t bs, exec (.licenceList m) s = .next t ∧ t.mgmt.licences = s.mgmt.licences ∧
      bs = [0] ++ (s.mgmt.licences.map (·.bytes)).flatten ∧
      (m = 0 → Output.reply 0 bs ∈ t.out) ∧ (m = 1 → Output.mctp 5 bs ∈ t.out)) ∧
  (∀ (m : Fin 2) (serial : BitVec 64) (l : Licence) (s : State), spdmServed s m = true → (s.mgmt.spdm[m]).session = true →
    s.mgmt.licences.find? (fun x => x.serial == serial.toNat) = some l → licenceInUse s l = false →
    ∃ t, exec (.licenceRemove m serial true) s = .next t ∧ (∀ x ∈ t.mgmt.licences, x.serial ≠ serial.toNat) ∧
      (∀ x ∈ s.mgmt.licences, x.serial ≠ serial.toNat → x ∈ t.mgmt.licences) ∧
      (m = 0 → Output.reply 0 [0] ∈ t.out) ∧ (m = 1 → Output.mctp 5 [0] ∈ t.out)) ∧
  (∀ (epoch : BitVec 32) (rollback : BitVec 16) (s : State),
    exec (.fuseUpdate epoch rollback) s = .next { s with life := { s.life with
      fuseEpoch := max s.life.fuseEpoch epoch.toNat, fuseRollback := max s.life.fuseRollback rollback.toNat } })

/-- An edge source, or a level source whose condition was absent, that is not external, not in quarantine and below its storm
limit: an assertion counts it, keeps its details, pends it in CLAIM mode when it was IDLE and enabled, leaves a re-pend
where it was ACTIVE, and changes no other source; an edge source above its limit that no core holds is QUARANTINED. The end of a storm window makes every source's count of the window 0. A filtered change flips the input and its
source's level; a glitch is only counted. Leaving quarantine makes the source IDLE, or asserts it again while its level
is active. The claiming core's first read of a level source's SRC_STATUS samples LEVEL. Contrail's oldest record leaves. A claim answers
the source that is PENDING, targets the core, exceeds its running priority and has the highest priority of those routed
to it, and makes it ACTIVE there; a fast claim answers a PENDING fast source that targets the core, which holds no other. A
completion by the claim's holder ends it: QUARANTINED when that waits, PENDING (below the storm limit) on a re-pend or where
a level source's sample and its level are active, else IDLE; any other completion is only counted. Entering QUEUE ends every claim and pending source of the die; CLAIM is entered only with an empty queue;
advancing EQ_HEAD frees at most the records held. (R380, R381, R382, R384, R385, R386, R387, R388, R389, R390, R391) -/
def Obligations.InterruptsAreAssertedClaimedAndCompleted : Prop :=
  (∀ (source : BitVec 12) (d0 : BitVec 64) (d1 : BitVec 32) (s : State), (srcInfo source.toNat).isSome = true →
    isExternalSrc source.toNat = false → isLevelSrc source.toNat = true → (s.src source.toNat).level = false →
    (s.src source.toNat).st ≠ .quarantined → (s.src source.toNat).quar = false →
    (s.src source.toNat).storm + 1 ≤ s.obj 0x290001 → ∃ t, exec (.sourceAssert source d0 d1) s = .next t ∧
      (t.src source.toNat).level = true ∧ (t.src source.toNat).count = ((s.src source.toNat).count + 1) % 65536 ∧
      (t.src source.toNat).detail0 = d0.toNat ∧ (t.src source.toNat).detail1 = d1.toNat ∧
      ((s.src source.toNat).en = true → (s.ic (dieFin (source.toNat / 512))).claimMode = true →
        (t.src source.toNat).st = (if (s.src source.toNat).st = .idle then .pending else (s.src source.toNat).st) ∧
        ((s.src source.toNat).st = .active → (t.src source.toNat).repend = true)) ∧
      ∀ k, k ≠ source.toNat → t.src k = s.src k) ∧
  (∀ (source : BitVec 12) (d0 : BitVec 64) (d1 : BitVec 32) (s : State), (srcInfo source.toNat).isSome = true →
    isExternalSrc source.toNat = false → isLevelSrc source.toNat = false →
    (s.src source.toNat).st ≠ .quarantined → (s.src source.toNat).quar = false →
    ((s.src source.toNat).storm + 1 ≤ s.obj 0x290001 → ∃ t, exec (.sourceAssert source d0 d1) s = .next t ∧
      (t.src source.toNat).count = ((s.src source.toNat).count + 1) % 65536 ∧
      (t.src source.toNat).detail0 = d0.toNat ∧ (t.src source.toNat).detail1 = d1.toNat ∧
      ((s.src source.toNat).en = true → (s.ic (dieFin (source.toNat / 512))).claimMode = true →
        (t.src source.toNat).st = (if (s.src source.toNat).st = .idle then .pending else (s.src source.toNat).st) ∧
        ((s.src source.toNat).st = .active → (t.src source.toNat).repend = true)) ∧
      ∀ k, k ≠ source.toNat → t.src k = s.src k) ∧
    (s.obj 0x290001 < (s.src source.toNat).storm + 1 → (s.src source.toNat).st ≠ .active →
      ∃ t, exec (.sourceAssert source d0 d1) s = .next t ∧ (t.src source.toNat).st = .quarantined ∧
        ∀ k, k ≠ source.toNat → t.src k = s.src k)) ∧
  (∀ s : State, ∃ t, exec .stormWindowEnd s = .next t ∧ ∀ n, t.src n = { s.src n with storm := 0 }) ∧
  (∀ (i : Fin 21) (s : State), (s.irq.ext[i]).filtered = true ∨ alertsIgnored s = false →
    ∃ t, exec (.extInputFilterChange i) s = .next t ∧ (t.irq.ext[i]).filtered = !(s.irq.ext[i]).filtered ∧
      (t.src (288 + i.val)).level = !(s.irq.ext[i]).filtered) ∧
  (∀ (i : Fin 21) (s : State), exec (.extInputGlitch i) s = .next (s.bump 0x691003)) ∧
  (∀ (source : BitVec 12) (s : State), (s.src source.toNat).st = .quarantined →
    (isLevelSrc source.toNat = false ∨ (s.src source.toNat).level = false →
      exec (.quarantineRelease source) s = .next (s.setSrc source.toNat { s.src source.toNat with st := .idle, quar := false })) ∧
    (isLevelSrc source.toNat = true → (s.src source.toNat).level = true → (s.src source.toNat).storm + 1 ≤ s.obj 0x290001 →
      ∃ t, exec (.quarantineRelease source) s = .next t ∧ (t.src source.toNat).st ≠ .quarantined ∧
        (t.src source.toNat).count = ((s.src source.toNat).count + 1) % 65536)) ∧
  (∀ (z : DieId) (source : BitVec 12) (s : State), (s.src source.toNat).st = .active → (s.src source.toNat).core = z.val →
    isLevelSrc source.toNat = true → (s.src source.toNat).sample = none →
    ∃ t, exec (.srcStatusLevelSample z source) s = .next t ∧ (t.src source.toNat).sample = some (s.src source.toNat).level ∧
      Output.zenithRead z.val (t.src source.toNat).status ∈ t.out) ∧
  (∀ (s : State) (r : List Byte) (rs : List (List Byte)), s.irq.contrail = r :: rs →
    exec .contrailEventSend s = .next ({ s with irq := { s.irq with contrail := rs } }.emit (.mctp 1 r))) ∧
  (∀ (z : DieId) (s : State), (∀ k ∈ liveSources s, k ≠ 0) →
    (∃ t n, exec (.claimRead z) s = .next t ∧ t.out = .zenithRead z.val n :: s.out ∧
      (n ≠ 0 → (s.src n).st = .pending ∧ (s.src n).isFast = false ∧ bitAt (s.src n).targets z.val = true ∧
        runPrio s z < (s.src n).prio ∧ (t.src n).st = .active ∧ (t.src n).core = z.val ∧ (t.src n).fast = false ∧
        (∀ k, routedTo s k = some z → (s.src k).isFast = false → (s.src k).prio ≤ (s.src n).prio) ∧ ∀ k, k ≠ n → t.src k = s.src k) ∧
      (n = 0 → t.irq = s.irq ∧ ∀ k ∈ liveSources s, (s.src k).isFast = true ∨ routedTo s k ≠ some z)) ∧
    (∃ t n, exec (.claimFastRead z) s = .next t ∧ t.out = .zenithRead z.val n :: s.out ∧
      (n ≠ 0 → (s.src n).st = .pending ∧ (s.src n).isFast = true ∧ bitAt (s.src n).targets z.val = true ∧ holdsFast s z = false ∧
        (t.src n).st = .active ∧ (t.src n).core = z.val ∧ (t.src n).fast = true ∧ ∀ k, k ≠ n → t.src k = s.src k) ∧
      (n = 0 → t.irq = s.irq))) ∧
  (∀ (z : DieId) (source : BitVec 12) (fast : Bool) (r : SrcRec) (s : State), r = s.src source.toNat →
    (r.st = .active → r.core = z.val → r.fast = fast → isLevelSrc source.toNat = false →
      ∃ t, (fast = false → exec (.completeWrite z source) s = .next t) ∧ (fast = true → exec (.completeFastWrite z source) s = .next t) ∧
        (r.quar = true → (t.src source.toNat).st = .quarantined) ∧
        (r.quar = false → r.repend = true → r.storm + 1 ≤ s.obj 0x290001 → (t.src source.toNat).st = .pending) ∧
        (r.quar = false → r.repend = false → (t.src source.toNat).st = .idle) ∧ ∀ k, k ≠ source.toNat → t.src k = s.src k) ∧
    (r.st = .active → r.core = z.val → r.fast = fast → isLevelSrc source.toNat = true →
      ∃ t, (fast = false → exec (.completeWrite z source) s = .next t) ∧ (fast = true → exec (.completeFastWrite z source) s = .next t) ∧
        (r.quar = true → (t.src source.toNat).st = .quarantined) ∧
        (r.quar = false → r.repend = true ∨ (r.sample.getD r.level = true ∧ r.level = true) → r.storm + 1 ≤ s.obj 0x290001 →
          (t.src source.toNat).st = .pending) ∧
        (r.quar = false → r.repend = false → r.sample.getD r.level = false ∨ r.level = false → (t.src source.toNat).st = .idle) ∧
        ∀ k, k ≠ source.toNat → t.src k = s.src k) ∧
    (r.st ≠ .active ∨ r.core ≠ z.val ∨ r.fast ≠ fast →
      (fast = false → exec (.completeWrite z source) s = .next (s.bump 0x691005)) ∧
      (fast = true → exec (.completeFastWrite z source) s = .next (s.bump 0x691005)))) ∧
  (∀ (d : DieId) (n : Nat) (s : State),
    (∃ t, exec (.icModeQueueWrite d) s = .next t ∧ (t.ic d).claimMode = false ∧ (t.ic d).entry = 3 ∧
      ∀ k, k / 512 = d.val → (t.src k).st ≠ .active ∧ (t.src k).st ≠ .pending) ∧
    ((s.ic d).head = (s.ic d).tail → exec (.icModeClaimWrite d) s = .next (s.setIc d { s.ic d with claimMode := true })) ∧
    ((s.ic d).head ≠ (s.ic d).tail → exec (.icModeClaimWrite d) s = .next s) ∧
    ((s.ic d).head < 2 ^ (s.ic d).sizeLog2 → (s.ic d).tail < 2 ^ (s.ic d).sizeLog2 →
      ∃ t, exec (.eqHeadAdvance d n) s = .next t ∧ (t.ic d).tail = (s.ic d).tail ∧ (t.ic d).head =
        ((s.ic d).head + min n (((s.ic d).tail + 2 ^ (s.ic d).sizeLog2 - (s.ic d).head) % 2 ^ (s.ic d).sizeLog2)) % 2 ^ (s.ic d).sizeLog2 ∧
        t.irq.src = s.irq.src))

/-- APPLY while not BUSY takes legal settings and begins initialisation of the changed regions, or reports why not and
leaves the settings in force; its end leaves zeros with valid check bytes in every changed enabled region and changes no
other byte of memory. A scrub, no upset waiting for it, takes a queued page: clean or poisoned it stays, with errors in its
check symbols alone it loses its deviation, correctable it is rewritten with the corrected data, uncorrectable it takes its
poison form; a sweep over a unit without deviations moves on and changes no data. A code-test command with an image loaded,
on a reserved target or at a bad address reports so and changes nothing else. Else, where no word of the die's cache frames
is changed: READ_RAW puts the stored data (of a page or a line) and check bytes at the front of the buffers and changes no
memory; WRITE_RAW stores the buffers as they are (a page: its 512 bytes, and the check bytes of its strength), and for the
arrays on the die changes no memory; ENCODE computes the check bytes of the data; and READ_DECODED of a clean page reports
its data and outcome 0. Cache write-back leaves no dirty line, demotion no KEEP line; both leave every line resident, and
memory as it was (for a write-back, where no word of the frames is changed). Keep windows and rings are stored, and are in
force at once unless an image is armed or running. (R192, R205, R206, R207, R171, R172, R188) -/
def Obligations.RegionsScrubbingAndTheCodeTest : Prop :=
  (∀ (d : DieId) (s : State), (s.die d).protBusy = none →
    (applyStatus s d = 0 → ∃ t, exec (.regionApply d) s = .next t ∧ (t.die d).applied = (s.die d).region ∧
      (t.die d).protBusy = some (changedRegions (s.die d)) ∧ (t.die d).protStatus = 0 ∧ t.mem = s.mem) ∧
    (applyStatus s d ≠ 0 → ∃ t, exec (.regionApply d) s = .next t ∧ (t.die d).applied = (s.die d).applied ∧
      (t.die d).protBusy = none ∧ (t.die d).protStatus = applyStatus s d ∧ t.mem = s.mem)) ∧
  (∀ (d : DieId) (m : Nat) (s : State), (s.die d).protBusy = some m →
    ∃ t, exec (.regionApplyDone d) s = .next t ∧ (t.die d).protBusy = none ∧ t.cores = s.cores ∧
      ∀ a, (kvGet 0 t.mem a, kvGet 0 t.pageDev a, kvGet 0 t.byteDev a) =
        if ∃ n : Fin 16, m.testBit n.val = true ∧ regEn ((s.die d).applied[n]) = true ∧
            addrOf d (8 ≤ n.val) (regBase ((s.die d).applied[n])) ≤ a ∧
            a < addrOf d (8 ≤ n.val) (regBase ((s.die d).applied[n])) + regSize ((s.die d).applied[n])
        then (0, 0, 0) else (kvGet 0 s.mem a, kvGet 0 s.pageDev a, kvGet 0 s.byteDev a)) ∧
  (∀ (d : DieId) (hbm : Bool) (a : Nat) (rest : List Nat) (h : RegionHit) (s : State), s.obj 0x250002 ≠ 0 → s.wear.next = .good →
    (if hbm then (s.die d).rewriteH else (s.die d).rewriteS) = a :: rest → regionOf s a = some h → h.isByte = false →
    isFenced s h.die (pageOf a) = false →
    ∃ t, exec (.scrubStep d hbm .good) s = .next t ∧ (if hbm then (t.die d).rewriteH else (t.die d).rewriteS) = rest ∧
      match pageRead h.t (kvRange s.mem (pageOf a) 512).isEmpty (kvGet 0 s.pageDev (pageOf a)) with
      | .clean => t.mem = s.mem ∧ t.pageDev = s.pageDev
      | .poisoned => t.mem = s.mem ∧ t.pageDev = s.pageDev
      | .checkOnly => t.mem = s.mem ∧ kvGet 0 t.pageDev (pageOf a) = 0
      | .corrected mask => kvGet 0 t.pageDev (pageOf a) = 0 ∧
          t.mem = memWrite (kvClear s.mem (pageOf a) 512) (pageOf a) (pageData s (pageOf a) mask)
      | .uncorrectable => kvGet 0 t.pageDev (pageOf a) = 2 ^ (20 * h.t) - 1 ∧ t.mem = kvClear s.mem (pageOf a) 512) ∧
  (∀ (d : DieId) (hbm : Bool) (u : Nat × Nat) (h : RegionHit) (s : State), s.obj 0x250002 ≠ 0 → s.wear.next = .good →
    (if hbm then (s.die d).rewriteH else (s.die d).rewriteS) = [] →
    sweepUnit s d hbm (if hbm then (s.die d).sweepH else (s.die d).sweepS) = some u → regionOf s (addrOf d hbm u.1) = some h →
    (h.isByte = false → kvGet 0 s.pageDev (pageOf (addrOf d hbm u.1)) = 0) →
    (h.isByte = true → ∀ i, i < 64 → kvGet 0 s.byteDev (addrOf d hbm u.1 / 64 * 64 + i) = 0) →
    ∃ t, exec (.scrubStep d hbm .good) s = .next t ∧ t.mem = s.mem ∧ t.pageDev = s.pageDev ∧ t.byteDev = s.byteDev ∧
      (if hbm then (t.die d).sweepH else (t.die d).sweepS) =
        if (sweepUnit s d hbm (u.1 + u.2)).isSome then u.1 + u.2 else 0) ∧
  (∀ (d : DieId) (tgt : BitVec 4) (how : MemOutcome) (s : State), ctResult s d tgt.toNat ≠ 0 →
    ∀ c ∈ [.ctReadRaw d tgt, .ctWriteRaw d tgt, .ctEncode d tgt, .ctReadDecoded d tgt how],
      exec c s = .next (modCt s d fun x => { x with target := tgt.toNat, result := ctResult s d tgt.toNat })) ∧
  (∀ (d : DieId) (tgt : BitVec 4) (a : Nat) (s : State), ctResult s d tgt.toNat = 0 → a = ctAddr s d tgt.toNat →
    (s.die d).cacheWord = [] → (s.die d).cacheDev = [] →
    (∃ t, exec (.ctReadRaw d tgt) s = .next t ∧ (t.die d).ct.result = 0 ∧ t.mem = s.mem ∧ t.scratch = s.scratch ∧
      ∃ data check, (t.die d).ct.data = putHead (s.die d).ct.data data ∧ (t.die d).ct.check = putHead (s.die d).ct.check check ∧
        (tgt = 0 → data = memRead s.mem a 512) ∧ (tgt = 1 → data = memRead s.mem a 64)) ∧
    (∃ t, exec (.ctWriteRaw d tgt) s = .next t ∧ (t.die d).ct.data = (s.die d).ct.data ∧ (tgt ≠ 0 → tgt ≠ 1 → t.mem = s.mem) ∧
      (tgt = 0 → memRead t.mem a 512 = fitBytes 512 (s.die d).ct.data ∧ t.scratch = s.scratch ∧
        kvGet 0 t.pageDev a = pageCheck (ctStrength s a) (fitBytes 512 (s.die d).ct.data) ^^^
          leAt (s.die d).ct.check 0 (pageCheckBytes (ctStrength s a)))) ∧
    (∃ t, exec (.ctEncode d tgt) s = .next t ∧ (t.die d).ct.data = (s.die d).ct.data ∧ t.mem = s.mem ∧ t.scratch = s.scratch ∧
      (t.die d).ct.check = putHead (s.die d).ct.check (ctEncode s d tgt.toNat (s.die d).ct.data)) ∧
    (tgt = 0 → s.wear.next = .good → kvGet 0 s.pageDev a = 0 → isFenced s d a = false →
      ∃ t, exec (.ctReadDecoded d tgt .good) s = .next t ∧ (t.die d).ct.outcome = 0 ∧ t.mem = s.mem ∧
        (t.die d).ct.data = putHead (s.die d).ct.data (memRead s.mem a 512))) ∧
  (∀ (d : DieId) (s : State),
    (∃ t, exec (.cacheWriteBack d) s = .next t ∧ (∀ p ∈ (t.die d).cache, ∀ l ∈ p.2, l.dirty = false) ∧
      ((s.die d).cacheWord = [] → (s.die d).cacheDev = [] → t.mem = s.mem) ∧
      (t.die d).cache.map (fun p => (p.1, p.2.map (·.line))) = (s.die d).cache.map (fun p => (p.1, p.2.map (·.line)))) ∧
    (∃ t, exec (.cacheDemote d) s = .next t ∧ t.mem = s.mem ∧ (∀ p ∈ (t.die d).cache, ∀ l ∈ p.2, l.hint ≠ .keep) ∧
      (t.die d).cache.map (fun p => (p.1, p.2.map (·.line))) = (s.die d).cache.map (fun p => (p.1, p.2.map (·.line))))) ∧
  (∀ (d : DieId) (n : Fin 8) (r : Fin 16) (v : BitVec 64) (s : State),
    (∃ t, exec (.keepWinWrite d n v) s = .next t ∧ (t.die d).keep[n] = v &&& 0x800000FFFFFFFFFF ∧
      (s.runs = false → (t.die d).keepNow[n] = v &&& 0x800000FFFFFFFFFF) ∧ (s.runs = true → (t.die d).keepNow = (s.die d).keepNow)) ∧
    (∃ t, exec (.ringRegWrite d r v) s = .next t ∧ (t.die d).ring[r] = v &&& 0xFF00FFFFFFFFFFFF ∧
      (s.runs = false → (t.die d).ringNow[r] = v &&& 0xFF00FFFFFFFFFFFF) ∧ (s.runs = true → (t.die d).ringNow = (s.die d).ringNow)))

/-- With fewer than 8 collectives in progress, the next collective in turn, of whose banks no earlier handover is pending, is
accepted: after a PERMUTE's incoming map is read, its queue entry is marked accepted and it stands last among those in
progress; with no frame aborted its data operation then begins, and when one of the same frame and ID is in progress it
instead ends at once, HALTED: the others stay and its queue entry is done. The first frame of a port's or of a die's
collective buffer that need not wait leaves the buffer: refused, it is counted and the collectives in progress stay as
they are; taken, it goes to its collective. Data that arrives in a reduction changes the member's values, element by
element, to the incoming value plus its own as FP32 addition gives it, poison where either is poison, and no other
element. A collective that has ended leaves the engine: the others keep their order, COLLECTIVES_DONE counts it, and its
queue entry is done. (R235, R236, R242, R244, R248, R250, R251) -/
def Obligations.CollectivesAreAcceptedReducedAndCompleted : Prop :=
  (∀ (d : DieId) (c : CoreId) (q : QInst) (b : List Byte) (s : State) (m : List (Option PermRange) × State),
    (s.unit d).coll.runs.length < 8 → acceptCore s d 7 (s.unit d).coll.last = some (c, q) → q.op = .coll b →
    collWaits s c q b = false →
    m = (if (collOf b).op ≠ 5 ∨ (collOf b).inEntries = 0 then ([], s)
      else readMap s c (collOf b).inMap (collOf b).inEntries q.seq q.pc) →
    ∃ t, (t.unit d).coll.runs = (m.2.unit d).coll.runs ++ [freshColl m.2 d c q b m.1] ∧ (t.unit d).coll.last = c.val % 4 ∧
      t.mem = m.2.mem ∧ t.scratch = m.2.scratch ∧
      (t.core c).queue 7 = ((m.2.core c).queue 7).map (fun i => if i.seq = q.seq then { i with accepted := true } else i) ∧
      (((s.unit d).coll.runs.any fun y => y.frame == q.frame % 2 ^ 32 && y.id == (collOf b).id) = false → s.faulted = none →
        exec (.collAccept d) s = .next (beginColl t d (s.unit d).coll.runs.length)) ∧
      (((s.unit d).coll.runs.any fun y => y.frame == q.frame % 2 ^ 32 && y.id == (collOf b).id) = true →
        ∃ u, exec (.collAccept d) s = .next u ∧
          u = endColl (raiseFlags (haltColl t d (s.unit d).coll.runs.length true) flagExchange) d (s.unit d).coll.runs.length ∧
          (u.unit d).coll.runs = (m.2.unit d).coll.runs ∧
          ∀ i ∈ (u.core c).queue 7, i.seq = q.seq → i.done = 1)) ∧
  (∀ (p : PortId) (k : Nat) (f : RxFrame) (s : State), s.life.resetting = false → (vcAt (s.port p).rx 0)[k]? = some f →
    (∀ j < k, ∀ g, (vcAt (s.port p).rx 0)[j]? = some g → collFate s (collHead g.payload).die g.payload = .wait) →
    (collFate s (collHead f.payload).die f.payload = .refuse →
      ∃ t, exec (.collChunkReceive (.port p)) s = .next t ∧ t.obj 0x663004 = (s.obj 0x663004 + 1) % 2 ^ 32 ∧
        vcAt (t.port p).rx 0 = (vcAt (s.port p).rx 0).eraseIdx k ∧ ∀ d, (t.unit d).coll.runs = (s.unit d).coll.runs) ∧
    (∀ i, collFate s (collHead f.payload).die f.payload = .take i →
      ∃ t, exec (.collChunkReceive (.port p)) s = .next (takeFrame t (dieFin (collHead f.payload).die) i f.payload) ∧
        vcAt (t.port p).rx 0 = (vcAt (s.port p).rx 0).eraseIdx k ∧ ∀ d, (t.unit d).coll = (s.unit d).coll)) ∧
  (∀ (d : DieId) (k : Nat) (pl : List Byte) (from' : Nat) (i : Nat) (s : State), (s.unit d).coll.inbox[k]? = some ⟨from', pl⟩ →
    (∀ j < k, ∀ g, (s.unit d).coll.inbox[j]? = some g → collFate s d.val g.payload = .wait) →
    (collFate s d.val pl = .take i →
      exec (.collChunkReceive (.die d)) s = .next (takeFrame (modColl s d fun e => { e with inbox := e.inbox.eraseIdx k }) d i pl)) ∧
    (collFate s d.val pl = .refuse →
      ∃ t, exec (.collChunkReceive (.die d)) s = .next t ∧ t.obj 0x663004 = (s.obj 0x663004 + 1) % 2 ^ 32 ∧
        (t.unit d).coll.inbox = (s.unit d).coll.inbox.eraseIdx k ∧ ∀ e, (t.unit e).coll.runs = (s.unit e).coll.runs)) ∧
  (∀ (d : DieId) (i k step off : Nat) (p : CollPhase) (bs : List (Option Byte)) (s : State) (lo n : Nat),
    phaseAt s d i k = some p → n = bs.length / collFmtBytes p.wire →
    lo = chunkLo p.size p.n (reduceChunk p.n p.rank (step - p.step0 + 1)) + off / collFmtBytes p.wire → lo + n ≤ p.vals.length →
    ∃ q, phaseAt (takeReduce s d i k p step off bs) d i k = some q ∧ q.vals.length = p.vals.length ∧
      ∀ e, q.vals[e]? = if lo ≤ e ∧ e < lo + n then
          some (match (optVals p.wire n bs).getD (e - lo) none, p.vals.getD e none with
            | some x, some y => some (fadd x y)
            | _, _ => none)
        else p.vals[e]?) ∧
  (∀ (d : DieId) (slot : Fin 8) (lost : Bool) (r : CollRun) (s : State), collRunAt s d slot.val = some r →
    collEnded s d r = true → ∃ t, exec (.collComplete d slot lost) s = .next t ∧
      (t.unit d).coll.runs = (s.unit d).coll.runs.eraseIdx slot.val ∧ t.obj 0x663001 = (s.obj 0x663001 + 1) % 2 ^ 64 ∧
      ∀ q ∈ (t.core (coreFin r.core)).queue 7, q.seq = r.seq → q.done = 1)

/-- With fewer than 8 exchanges in progress the next exchange in turn, of whose banks no earlier handover is pending, is
accepted: its queue entry is marked accepted and it stands last among those in progress; with no frame aborted its
operation then begins, and when it is no ROUTE and another of the same frame and ID, no ROUTE, is in progress it instead
ends at once: the others stay and its queue entry is done. The first manifest, grant, row or return frame of a port's
buffer that need not wait leaves the buffer: refused, it is counted and no exchange changes; taken, it goes to its
exchange. A DISPATCH with everything placed, granted and acknowledged is finished and nothing else changes. An exchange
that has ended leaves the unit: the others keep their order, EXCHANGES_DONE counts it, and its queue entry is done.
(R256, R257, R266, R268, R271, R275, R276, R236) -/
def Obligations.ExchangesAreAcceptedFedAndCompleted : Prop :=
  (∀ (d : DieId) (c : CoreId) (q : QInst) (b : List Byte) (dup : Bool) (s : State), (s.unit d).skein.runs.length < 8 →
    acceptCore s d 8 (s.unit d).skein.last = some (c, q) → q.op = .exch b → exchWaits s c q b = false →
    dup = ((exchOf b).op != 0 && (s.unit d).skein.runs.any fun y =>
      y.frame == q.frame % 2 ^ 32 && y.id == (exchOf b).id && (exchOf y.desc).op != 0) →
    ∃ t, (t.unit d).skein.runs = (s.unit d).skein.runs ++ [freshExch c q b] ∧ (t.unit d).skein.last = c.val % 4 ∧
      t.mem = s.mem ∧ t.scratch = s.scratch ∧
      (t.core c).queue 8 = ((s.core c).queue 8).map (fun i => if i.seq = q.seq then { i with accepted := true } else i) ∧
      (dup = false → s.faulted = none → exec (.exchAccept d) s = .next (beginExch t d (s.unit d).skein.runs.length)) ∧
      (dup = true → ∃ u, exec (.exchAccept d) s = .next u ∧
        u = endAtOnce (raiseFlags (haltExch (openRun t d (s.unit d).skein.runs.length true) d (s.unit d).skein.runs.length true)
          flagExchange) d (s.unit d).skein.runs.length ∧
        (u.unit d).skein.runs = (s.unit d).skein.runs ∧ ∀ i ∈ (u.core c).queue 8, i.seq = q.seq → i.done = 1)) ∧
  (∀ (p : PortId) (kind : Fin 4) (k : Nat) (f : RxFrame) (c : Instr) (s : State),
    (kind, c) ∈ [(0, Instr.manifestReceive p), (1, Instr.grantReceive p), (2, Instr.rowReceive p), (3, Instr.returnReceive p)] →
    s.life.resetting = false → (vcAt (s.port p).rx 1)[k]? = some f → (exchHead f.payload).kind = kind.val →
    (∀ j < k, ∀ g, (vcAt (s.port p).rx 1)[j]? = some g → (exchHead g.payload).kind ≠ kind.val ∨ exchFate s g.payload = none) →
    (exchFate s f.payload = some none →
      ∃ t, exec c s = .next t ∧ t.obj 0x662008 = (s.obj 0x662008 + 1) % 2 ^ 32 ∧
        vcAt (t.port p).rx 1 = (vcAt (s.port p).rx 1).eraseIdx k ∧ ∀ d, (t.unit d).skein = (s.unit d).skein) ∧
    (∀ d i, exchFate s f.payload = some (some (d, i)) →
      ∃ t, exec c s = .next (takeExch t d i f.payload) ∧
        vcAt (t.port p).rx 1 = (vcAt (s.port p).rx 1).eraseIdx k ∧ ∀ e, (t.unit e).skein = (s.unit e).skein)) ∧
  (∀ (d : DieId) (slot : Fin 8) (r : ExchRun) (s : State), exchAt s d slot.val = some r → dispatchDone s d r = true →
    exec (.dispatchFinish d slot) s = .next (modExch s d slot.val fun q => { q with finished := true })) ∧
  (∀ (d : DieId) (slot : Fin 8) (lost : Bool) (r : ExchRun) (s : State), exchAt s d slot.val = some r →
    exchEnded s d r = true → ∃ t, exec (.exchComplete d slot lost) s = .next t ∧
      (t.unit d).skein.runs = (s.unit d).skein.runs.eraseIdx slot.val ∧ t.obj 0x662001 = (s.obj 0x662001 + 1) % 2 ^ 64 ∧
      ∀ q ∈ (t.core (coreFin r.core)).queue 8, q.seq = r.seq → q.done = 1)

/-- With fewer than 16 in progress and its record neither refreshed nor repaired, the next update in turn is accepted by
the operation of its own. A value that an update takes, arrived, with no combination with replicas left to do and none
missed, is appended to the gradients of an update without a staging ring and is no longer to be handed over. A row band
whose open blocks have all their values becomes ready. A block with all its values, its band and products behind it, and
its step's scale known is written, and counts as updated when nothing it read was poison. The end of a refresh without
replica stages leaves the record idle, or in the repair that waited for that, and counts the bytes. The first fingerprint
whose record has committed its step leaves its buffer; one that matches no record is refused late and counted. A
comparison at the timeout that finds a member missing counts a mismatch and ends that wait. A failed repair ends with a
request to stop; one that succeeds is counted, and a member that is not the source and got no data keeps waiting. (R304,
R305, R310, R314, R323, R326, R329, R330) -/
def Obligations.UpdatesAreAcceptedFedAndRefreshed : Prop :=
  (∀ (d : DieId) (c : CoreId) (q : QInst) (b : List Byte) (w1 w2 w3 : Nat) (s : State), (s.unit d).cirrus.upds.length < 16 →
    acceptCore s d 9 (s.unit d).cirrus.last = some (c, q) → q.op = .upd b w1 w2 w3 →
    (∀ y ∈ (s.unit d).cirrus.recs, y.addr = (placeOf s (updOf b).commit.1).base + (updOf b).commit.2 → y.busy = 0) →
    exec (.updAccept d) s = .next (acceptUpd s d c q b w1 w2 w3)) ∧
  (∀ (d : DieId) (slot : Fin 8) (r : CollRun) (u j : Nat) (run : UpdRun) (k : Block) (s : State),
    collRunAt s d slot.val = some r → (collOf r.desc).toCirrus = true → r.aborted = false → r.duplicate = false →
    r.handed < r.shard.length → takerOf s d r.frame r.id r.handed = some (u, j) → updAt s d u = some run →
    meetsAny r.shardGaps r.handed (r.handed + 1) = false → meetsAny r.repMissed r.handed (r.handed + 1) = false →
    (updOf run.desc).repStages = 0 ∨ r.handed < r.combined →
    run.blocks[j]? = some k → run.codes.getD j 0 = 255 → (updOf run.desc).bands = false →
    ∃ t, exec (.gradientHandoff d slot) s = .next t ∧
      updAt t d u = some { run with grads := run.grads ++ [(r.handed, r.value r.handed)] } ∧
      (collRunAt t d slot.val).map (·.handed) = some (r.handed + 1) ∧ t.mem = s.mem ∧ t.cores = s.cores) ∧
  (∀ (d : DieId) (slot : Fin 16) (elem : Nat) (u : UpdRun) (s : State), updAt s d slot.val = some u →
    (updOf u.desc).bands = true → elem ∉ u.ready →
    (∃ j < u.codes.length, (u.blocks[j]?).map (·.band) = some elem ∧ u.codes.getD j 0 = 255) →
    (∀ j k, u.blocks[j]? = some k → k.band = elem → j < u.codes.length → u.codes.getD j 0 = 255 → blockFed u k = true) →
    ∃ t u', exec (.bandReady d slot elem) s = .next t ∧ updAt t d slot.val = some u' ∧ u'.ready = elem :: u.ready ∧
      u'.grads = u.grads ∧ t.mem = s.mem ∧ (blockProducts (updOf u.desc) u.step = 0 → u'.prods = u.prods ∧ t.cirrusOn = s.cirrusOn)) ∧
  (∀ (d : DieId) (slot : Fin 16) (block e : Nat) (u : UpdRun) (b : Block) (s : State), updAt s d slot.val = some u →
    u.blocks[block]? = some b → stepScale s u.step = some e → u.codes.getD block 0 = 255 → blockFed u b = true →
    (updOf u.desc).bands = false ∨ b.band ∈ u.ready → (∀ p ∈ u.prods, p.1 ≠ block) →
    ∃ t, exec (.blockWritten d slot block) s = .next t ∧
      t.obj 0x680001 = if (computeBlock s u (updOf u.desc) (shardOf u.table) (recField s u.commit 0 2) e block b).code = 0
        then (s.obj 0x680001 + 1) % 2 ^ 64 else s.obj 0x680001) ∧
  (∀ (d : DieId) (rec : Nat) (r : RecTrack) (t0 : Shard) (s : State), (s.unit d).cirrus.recs[rec]? = some r → r.busy = 4 →
    t0 = shardOf (readTable (touchRec s (dieCore d) r.addr) (dieCore d) r.table).1 →
    ∃ t, exec (.refreshEnd d rec) s = .next t ∧ (r.repStages = 0 →
      ((t.unit d).cirrus.recs[rec]?).map (·.busy) = some (if r.repairDue = none then 0 else 5) ∧
      t.obj 0x68000A = (s.obj 0x68000A + t0.elems * (4 + t0.workBytes)) % 2 ^ 64)) ∧
  (∀ (p : PortId) (k : Nat) (f : RxFrame) (s : State), s.life.resetting = false → (vcAt (s.port p).rx 2)[k]? = some f →
    ((msgRecord s f.payload).isSome → (∀ j < k, ∀ g, (vcAt (s.port p).rx 2)[j]? = some g → msgRecord s g.payload = none) →
      ∃ t, exec (.fingerprintReceive p false) s = .next t ∧ vcAt (t.port p).rx 2 = (vcAt (s.port p).rx 2).eraseIdx k) ∧
    (msgRecord s f.payload = none → (∀ j < k, ∀ g, (vcAt (s.port p).rx 2)[j]? = some g → msgRecord s g.payload ≠ none) →
      ∃ t, exec (.fingerprintReceive p true) s = .next t ∧ t.obj 0x680008 = (s.obj 0x680008 + 1) % 2 ^ 32 ∧
        vcAt (t.port p).rx 2 = (vcAt (s.port p).rx 2).eraseIdx k ∧ t.units = s.units)) ∧
  (∀ (d : DieId) (rec : Nat) (r : RecTrack) (own : List Byte) (s : State), (s.unit d).cirrus.recs[rec]? = some r →
    r.own.head? = some own → (msgsFor s d own).length + 1 < groupSize s r.repTopo r.repStages →
    ∃ t, exec (.gaugeTimeoutExpiry d rec) s = .next t ∧ t.obj 0x680006 = (s.obj 0x680006 + 1) % 2 ^ 32 ∧
      ((t.unit d).cirrus.recs[rec]?).map (·.own) = some (r.own.filter (· != own)) ∧ t.run.contrib ||| flagGauge = t.run.contrib) ∧
  (∀ (d : DieId) (rec : Nat) (r : RecTrack) (data : Option (List Byte)) (t0 : Shard) (s : State),
    (s.unit d).cirrus.recs[rec]? = some r → r.busy = 5 → t0 = shardOf (readTable s (dieCore d) r.table).1 →
    (∃ t, exec (.repairDone d rec data true) s = .next t ∧ t.run.contrib ||| flagStop = t.run.contrib ∧
      ((t.unit d).cirrus.recs[rec]?).map (·.busy) = some (if r.repairDue = none then 0 else 5)) ∧
    (groupRank s r.repTopo r.repStages d = r.source ∨ (∃ bs, data = some bs ∧ bs.length = 6 * t0.elems + t0.auxBytes) →
      ∃ t, exec (.repairDone d rec data false) s = .next t ∧ t.obj 0x680007 = (s.obj 0x680007 + 1) % 2 ^ 32) ∧
    (groupRank s r.repTopo r.repStages d ≠ r.source → exec (.repairDone d rec none false) s = .next s))

/-- A step of a die's controller, and one of the package's, puts the budget in force and reports the power measured; the
die's counts its steps above 420 W, and the package's adds the energy and lifts the cap of a power within 2% of the
budget. AVSBus: a confirmed voltage is the die's; an unconfirmed command is repeated once, and then counted as an error
with the voltage unchanged. A droop is counted and marks its die throttled. While the alert inputs are heard, an alert
holds the group (18 and 19 have no domain) and is counted when it did not hold it before; ignored, it changes nothing. The
alert's end marks the input high, and the end of the hold releases the group unless the input is low again. A dip holds
the group and keeps its lowest voltage, and one in the hold of an earlier dip counts that one; the return above the
warning level records the dip, and the end of the hold releases the group and counts it. A rail at its reset level resets
the package with cause 4. (R423, R426, R427, R430, R431, R432, R433, R434, R422) -/
def Obligations.PowerRailsAndDroops : Prop :=
  (∀ (d : DieId) (dieMw stackMw rest : Nat) (cores : List Nat) (soon : Bool) (s : State),
    ∃ t, exec (.controllerStep d dieMw stackMw cores rest soon) s = .next t ∧ t.power.budget = s.obj 0xA00001 ∧
      t.obj (kDie d 1) = wattsF32 dieMw ∧ t.obj (kDie d 2) = wattsF32 stackMw ∧
      (t.pdie d).stackSteps = (if 420000 < stackMw then (s.pdie d).stackSteps + 1 else 0) ∧ t.mem = s.mem ∧
      (∀ c, { t.core c with use := (s.core c).use } = s.core c) ∧ (s.run.active = false → t.cores = s.cores)) ∧
  (∀ (mw mj : Nat) (s : State), ∃ t, exec (.packageStep mw mj) s = .next t ∧ t.power.budget = s.obj 0xA00001 ∧
    t.obj 0xA10001 = wattsF32 mw ∧ t.obj 0xA10002 = (s.obj 0xA10002 + mj) % 2 ^ objWidth 0xA10002 ∧ t.cores = s.cores ∧
    (mw ≤ s.obj 0xA00001 * 1020 → t.power.cap = none)) ∧
  (∀ (d : DieId) (mv : Nat) (again : Bool) (status : BitVec 32) (s : State), (s.pdie d).asked = some (mv, again) →
    (∃ t, exec (.avsbusCommandDone d true status) s = .next t ∧ (t.pdie d).voltage = mv ∧ (t.pdie d).asked = none ∧
      (t.pdie d).avsFault = false ∧ t.dict = s.dict) ∧
    (∃ t, exec (.avsbusCommandDone d false status) s = .next t ∧ (t.pdie d).voltage = (s.pdie d).voltage ∧
      (again = false → (t.pdie d).asked = some (mv, true) ∧ Output.avs d.val d.val mv ∈ t.out) ∧
      (again = true → (t.pdie d).asked = none ∧ (t.pdie d).avsFault = true ∧ t.obj 0xA30008 = (s.obj 0xA30008 + 1) % 2 ^ 32))) ∧
  (∀ (d : DieId) (s : State), ∃ t, exec (.droopDetect d) s = .next t ∧ t.obj 0xA30002 = (s.obj 0xA30002 + 1) % 2 ^ objWidth 0xA30002 ∧
    (t.pdie d).throttled = true ∧ t.cores = s.cores) ∧
  (∀ (g : Fin 20) (s : State),
    (alertsIgnored s = false → ∃ t, exec (.vrAlertFall g) s = .next t ∧
      t.power.groups = s.power.groups.set g { s.power.groups[g] with alertLow := true, alertHeld := decide (g.val < 18) } ∧
      t.obj 0xA30003 = (if g.val < 18 ∧ (s.power.groups[g]).alertHeld = false then (s.obj 0xA30003 + 1) % 2 ^ objWidth 0xA30003
        else s.obj 0xA30003)) ∧
    (alertsIgnored s = true → exec (.vrAlertFall g) s = .next s) ∧
    (exec (.vrAlertRise g) s = .next (s.modGroup g fun x => { x with alertLow := false })) ∧
    (∃ t, exec (.vrAlertHoldEnd g) s = .next t ∧ (t.power.groups[g]).alertHeld =
      ((s.power.groups[g]).alertLow && (s.power.groups[g]).alertHeld) ∧ t.dict = s.dict ∧ t.cores = s.cores)) ∧
  (∀ (g : Fin 20) (mv us : Nat) (s : State),
    ((s.power.groups[g]).dipLow = false → ∃ t, exec (.brownoutDip g mv) s = .next t ∧
      t.power.groups = s.power.groups.set g { s.power.groups[g] with dipLow := true, dipHeld := true, dipMv := mv, dipAt := s.now } ∧
      t.obj 0xA30004 = if (s.power.groups[g]).dipHeld then (s.obj 0xA30004 + 1) % 2 ^ objWidth 0xA30004 else s.obj 0xA30004) ∧
    ((s.power.groups[g]).dipLow = true → exec (.brownoutDip g mv) s =
      .next (s.modGroup g fun x => { x with dipMv := min x.dipMv mv })) ∧
    ((s.power.groups[g]).dipLow = true → exec (.railAboveWarningLevel g mv us) s = .next (s.modGroup g fun x => { x with
      dipLow := false, dipMv := min x.dipMv mv, dipUs := us, upAt := some s.now })) ∧
    ((s.power.groups[g]).dipHeld = true → (s.power.groups[g]).dipLow = false → ∃ t, exec (.brownoutHoldEnd g) s = .next t ∧
      t.power.groups = s.power.groups.set g { s.power.groups[g] with dipHeld := false } ∧
      t.obj 0xA30004 = (s.obj 0xA30004 + 1) % 2 ^ objWidth 0xA30004) ∧
    (s.powered = true → ∃ t, exec (.railResetLevel g) s = .next t ∧ t.life.stage = 1 ∧ t.life.lastPackage = 4 ∧
      t.obj kDeviceState = stBoot ∧ t.mem = [] ∧ t.run = Run.reset))

/-- A read of a die's sensors replaces their readings, and its HBM's temperature when it brings one, and marks the die
critical exactly when its hottest value is at 110 °C or above. A check distrusts a trusted sensor exactly at its fourth reading in a row more than 8 °C off its
estimate, and trusts another again exactly at its thousandth within 4 °C. A throttle step counts one up while the value is above its limit, and to 0 once it is 3 °C below. A remote
channel that is off reads fault code 3 and stands at no limit; a good reading is reported with its flags, an open or
shorted one is counted with its code. A trip of a privileged comparator, the package not yet tripped, ends all work and
drives THERMTRIP_N. A re-plan records guard bands that are not below those in force, which stay in force for now. An
hour is counted. A bond test still due after its grace is reported, and again every 24 hours. (R436, R437, R438, R439, R440, R441, R443, R444,
R417) -/
def Obligations.TemperaturesAgeingAndHours : Prop :=
  (∀ (d : DieId) (readings : List Int) (stack : Option (Int × Bool)) (s : State),
    ∃ t, exec (.sensorRead d readings stack) s = .next t ∧
    (t.pdie d).hbmTemp = (match stack with
      | some p => p.1
      | none => (s.pdie d).hbmTemp) ∧
    (∀ k : Fin 64, ((t.pdie d).sensors[k]).reading = readings.getD k.val ((s.pdie d).sensors[k]).reading ∧
      ((t.pdie d).sensors[k]).suspect = ((s.pdie d).sensors[k]).suspect) ∧
    ((t.pdie d).crit = true ↔ 880 ≤ (hottest t d).1)) ∧
  (∀ (d : DieId) (estimates : List Int) (s : State), ∃ t, exec (.sensorCheck d estimates) s = .next t ∧
    ∀ k : Fin 64, ((t.pdie d).sensors[k]).reading = ((s.pdie d).sensors[k]).reading ∧
      (((s.pdie d).sensors[k]).suspect = false → (((t.pdie d).sensors[k]).suspect = true ↔ 3 ≤ ((s.pdie d).sensors[k]).off ∧
        64 < (((s.pdie d).sensors[k]).reading - estimates.getD k.val ((s.pdie d).sensors[k]).estimate).natAbs)) ∧
      (((s.pdie d).sensors[k]).suspect = true → (((t.pdie d).sensors[k]).suspect = false ↔ 999 ≤ ((s.pdie d).sensors[k]).agree ∧
        (((s.pdie d).sensors[k]).reading - estimates.getD k.val ((s.pdie d).sensors[k]).estimate).natAbs ≤ 32))) ∧
  (∀ (d : DieId) (s : State), ∃ t, exec (.thermalThrottleStep d) s = .next t ∧ t.cores = s.cores ∧
    (t.pdie d).thermal = (if (8 * s.obj 0xA01001 : Int) < (hottest s d).1 then (s.pdie d).thermal + 1
      else if (hottest s d).1 < 8 * s.obj 0xA01001 - 24 then 0 else (s.pdie d).thermal) ∧
    (t.pdie d).hbm = (if (8 * s.obj 0xA01004 : Int) < (s.pdie d).hbmTemp then (s.pdie d).hbm + 1
      else if (s.pdie d).hbmTemp < 8 * s.obj 0xA01004 - 24 then 0 else (s.pdie d).hbm)) ∧
  (∀ (n : Fin 8) (r : RemoteResult) (s : State), s.obj (kRemote n 1) = 0 → ∃ t, exec (.remoteConversion n r) s = .next t ∧
    t.obj (kRemote n 9) = 3 ∧ t.obj (kRemote n 8) = s.obj (kRemote n 8) ∧ t.obj 0xA30006 = s.obj 0xA30006 ∧
    t.power.remote = s.power.remote.set n ⟨false, false⟩ ∧ t.cores = s.cores ∧ t.run = s.run) ∧
  (∀ (n : Fin 8) (v : Int) (s : State), s.obj (kRemote n 1) ≠ 0 →
    (∃ t, exec (.remoteConversion n (.good v)) s = .next t ∧ t.obj (kRemote n 9) = 0 ∧ t.obj (kRemote n 8) = celsiusF32 v ∧
      ((t.power.remote[n]).warn = true ↔ 8 * sgn 16 (s.obj (kRemote n 5)) < v) ∧
      ((t.power.remote[n]).crit = true ↔ 8 * sgn 16 (s.obj (kRemote n 6)) < v)) ∧
    (∃ t, exec (.remoteConversion n .opened) s = .next t ∧ t.obj (kRemote n 9) = 1 ∧
      t.obj 0xA30006 = (s.obj 0xA30006 + 1) % 2 ^ objWidth 0xA30006) ∧
    (∃ t, exec (.remoteConversion n .shorted) s = .next t ∧ t.obj (kRemote n 9) = 2 ∧
      t.obj 0xA30006 = (s.obj 0xA30006 + 1) % 2 ^ objWidth 0xA30006)) ∧
  (∀ (d : DieId) (v : Int) (s : State), privileged d 31 = true → s.power.tripped = false →
    ∃ t, exec (.thermalTrip d v) s = .next t ∧ t.power.tripped = true ∧ Output.pin 1 false ∈ t.out ∧ t.run = Run.reset ∧
      (∀ c, t.core c = CoreState.reset) ∧ (∀ p, (t.port p).carries = false) ∧ t.mem = s.mem) ∧
  (∀ (growth : List Nat) (s : State), ∃ t r, exec (.ageingReplan growth) s = .next t ∧ t.power.replans.head? = some r ∧
    r.hour = s.obj 0xC21001 ∧ t.obj 0xC30004 = s.obj 0xC21001 ∧ t.power.guard = s.power.guard ∧
    (∀ d : Fin 8, s.power.guard[d] ≤ r.guards.getD d.val 0 ∧ ∀ j < 4, 9 * growth.getD (4 * d.val + j) 0 ≤ 1000 * r.guards.getD d.val 0) ∧
    t.power.replans.length ≤ 8) ∧
  (∀ s : State, ∃ t, exec .operatingHour s = .next t ∧ t.obj 0xC21001 = (s.obj 0xC21001 + 1) % 2 ^ objWidth 0xC21001 ∧
    (s.life.bondDue.isSome = true → t.life.bondDue = s.life.bondDue) ∧ t.cores = s.cores) ∧
  (∀ (h : Nat) (s : State), s.life.bondDue = some h → h + s.obj 0x2A0004 ≤ s.obj 0xC21001 →
    (∀ r, s.life.bondRaised = some r → r + 24 ≤ s.obj 0xC21001) →
    ∃ t, exec .bondTestGraceExpiry s = .next t ∧ t.life.bondRaised = some (s.obj 0xC21001) ∧ t.life.bondDue = some h ∧
      t.cores = s.cores)

/-- VDD_AON's rise and SYS_RESET_N put the package into stage 1 with their cause; the loss of VDD_AON loses memory and
objects and keeps the fuses, the firmware slots and the health record. The boot ROM starts the slot it chose in stage 2, or
ends in FAULT for an unassigned grade or no slot. With every rail good, stage 3 begins: PLLs lock, enabled ports train; a
bridge that does not train ends in FAULT. A second of waiting for rails raises the event. A die's Stratus and HBM are
ready with their fenced pages repaired, an HBM that fails twice is fenced; both on every die give stage 5. The swatch test
ends in PREOP with READY when a core is present and nothing failed, in FAULT otherwise. A slot on trial that does not come
up is unmarked, and the package reset with cause 5. A compute reset goes on, once Cirrus works on no record, to its end:
no image, every unit and core as after reset. A PLL that loses lock is counted; it relocks with its reference. The loss
of the PCIe reference takes the link down, of the SerDes reference every port and PLL it feeds, of the always-on
reference ends in FAULT; a reference's return is noted. (R396, R397, R398, R399, R400, R401, R402, R403, R411, R456,
R457, R219) -/
def Obligations.ResetsBringUpAndClocks : Prop :=
  (∀ (testEn cool : Bool) (s : State),
    (s.powered = false → ∃ t, exec (.vddAonRise testEn cool) s = .next t ∧ t.powered = true ∧ t.life.stage = 1 ∧
      t.life.lastPackage = 1 ∧ t.life.testEn = testEn ∧ t.obj kDeviceState = stBoot ∧ t.mem = []) ∧
    (s.powered = true → (∃ t, exec (.sysResetNLow testEn cool) s = .next t ∧ t.life.stage = 1 ∧ t.life.lastPackage = 2 ∧
        t.life.testEn = testEn ∧ t.obj kDeviceState = stBoot ∧ t.mem = []) ∧
      (∃ t, exec .vddAonLoss s = .next t ∧ t.powered = false ∧ t.mem = [] ∧ t.dict = [] ∧ t.life.slots = s.life.slots ∧
        t.life.fuse = s.life.fuse ∧ t.life.health = s.life.health))) ∧
  (∀ s : State, s.powered = true → s.life.stage = 1 → s.life.testEn = false → s.power.tripped = false → s.obj kDeviceState = stBoot →
    (gradeOf s.life.fuse = none → ∃ t, exec .bootRom s = .next t ∧ t.obj kDeviceState = stFault ∧ t.obj 0x100103 = 172) ∧
    (∀ g, gradeOf s.life.fuse = some g → (chooseSlot s = none → ∃ t, exec .bootRom s = .next t ∧ t.obj kDeviceState = stFault) ∧
      ∀ i trial fb, chooseSlot s = some (i, trial, fb) → ∃ t, exec .bootRom s = .next t ∧ t.life.stage = 2 ∧
        t.life.running = i ∧ t.life.trial = trial ∧ t.obj 0xA00001 = g.cap ∧ t.power.budget = g.cap ∧ t.mem = s.mem)) ∧
  (∀ (order : List (Fin 20)) (bridges : BitVec 10) (rate width : BitVec 8) (s : State), s.life.stage = 2 →
    (bridges = 0 → ∃ t, exec (.firmwareStart 0 order bridges rate width) s = .next t ∧ t.life.stage = 3 ∧
      t.life.railOrder = order.map (·.val) ∧ (∀ d : DieId, t.clocks.lock[d] = allLocked d.val) ∧
      ∀ p : PortId, bitAt (s.obj 0x260001) p.val = true → (t.port p).en = true ∧ (t.port p).st = .training) ∧
    (bridges ≠ 0 → s.obj kDeviceState = stBoot →
      ∃ t, exec (.firmwareStart 0 order bridges rate width) s = .next t ∧ t.obj kDeviceState = stFault) ∧
    ∀ rails : BitVec 20, s.life.railsWaited = false → ∃ t, exec (.railsWaiting rails) s = .next t ∧ t.life.railsWaited = true ∧
      t.life.stage = 2 ∧ (t.src 170).level = true) ∧
  (∀ (d : DieId) (bond : BondResult) (fails repaired : List Nat) (s : State), s.life.stage = 3 →
    (s.life.stratusUp.getLsbD d.val = false → ∃ t, exec (.stratusBringup d bond) s = .next t ∧ (t.die d).fencedS = [] ∧
      t.life.stratusUp = s.life.stratusUp ||| 1#8 <<< d.val ∧ (bond = ⟨[], []⟩ → (s.die d).fencedS = [] →
        t.life.stage = if s.life.stratusUp ||| 1#8 <<< d.val = 0xFF ∧ s.life.hbmUp = 0xFF then 5 else 3)) ∧
    (s.life.hbmUp.getLsbD d.val = false → ∃ t, exec (.hbmBringup d fails repaired) s = .next t ∧
      (t.die d).fencedH = (s.die d).fencedH.filter (fun a => !repaired.contains a) ∧
      t.life.hbmUp = s.life.hbmUp ||| 1#8 <<< d.val ∧ (fails.length < 2 → t.life.failCause = s.life.failCause) ∧
      (2 ≤ fails.length → t.life.failCause.isSome = true ∧ FailUnit.hbm d.val ∈ t.wear.units) ∧
      t.life.stage = if s.life.stratusUp = 0xFF ∧ s.life.hbmUp ||| 1#8 <<< d.val = 0xFF then 5 else 3)) ∧
  (∀ (swatch : List (List (Nat × Nat))) (s : State), s.life.stage = 5 → s.obj kDeviceState = stBoot →
    ∃ t, exec (.computeBringup swatch) s = .next t ∧ t.scratch = [] ∧
      (t.life.present = 0 ∨ s.life.failCause ≠ none → t.obj kDeviceState = stFault) ∧
      (t.life.present ≠ 0 → s.life.failCause = none → t.obj kDeviceState = stPreop ∧ t.life.stage = 7 ∧ t.life.ready = true)) ∧
  (∀ s : State, s.life.trial = true → s.obj kDeviceState = stBoot → ∃ t, exec .pendingSlotTimeout s = .next t ∧
    t.life.stage = 1 ∧ t.life.lastPackage = 5 ∧ (t.life.slots[s.life.running]).pending = false ∧ t.mem = []) ∧
  (∀ (bond : List BondResult) (swatch : List (List (Nat × Nat))) (s : State), s.life.resetting = true → cirrusBusy s = false →
    ∃ t, exec (.computeResetContinue bond swatch) s = .next t ∧ t.life.resetting = false ∧ t.run.image = none ∧
      (∀ d, t.unit d = DieUnits.reset) ∧ (∀ c, t.core c = CoreState.reset) ∧ t.scratch = []) ∧
  (∀ (d : DieId) (pll : Fin 13) (us : Nat) (s : State), hasPll d pll.val = true →
    (bitAt s.clocks.lock[d] pll.val = true → ∃ t, exec (.pllUnlock d pll us) s = .next t ∧
      bitAt t.clocks.lock[d] pll.val = false ∧ t.obj 0x692002 = (s.obj 0x692002 + 1) % 2 ^ objWidth 0x692002) ∧
    (fedPll s pll.val = true → 3 ≤ s.life.stage → ∃ t, exec (.pllRelock d pll) s = .next t ∧
      bitAt t.clocks.lock[d] pll.val = true ∧ t.dict = s.dict ∧ t.cores = s.cores)) ∧
  (∀ (ref : Fin 3) (khz : Nat) (s : State), ∃ t, exec (.refclkLoss ref khz) s = .next t ∧
    t.obj 0x692003 = (s.obj 0x692003 + 1) % 2 ^ objWidth 0x692003 ∧
    (ref = 0 → t.host.linkUp = false ∧ t.clocks.pcieOk = false ∧ t.cores = s.cores) ∧
    (ref = 1 → t.clocks.serdesOk = false ∧ (∀ d : DieId, ∀ k < 9, bitAt t.clocks.lock[d] k = false) ∧ ∀ p, (t.port p).st ≠ .up) ∧
    (ref = 2 → t.clocks.aonInternal = true ∧ t.obj kDeviceState = stFault)) ∧
  (∀ (rate width : BitVec 8) (s : State), 3 ≤ s.life.stage →
    (s.clocks.pcieOk = false → s.host.perstLow = false → s.power.tripped = false →
      ∃ t, exec (.refclkReturn 0 rate width) s = .next t ∧ t.clocks.pcieOk = true ∧ t.host.linkUp = true ∧
        t.obj 0x690006 = rate.toNat ∧ t.obj 0x690007 = width.toNat) ∧
    exec (.refclkReturn 1 rate width) s = .next (s.modClocks fun c => { c with serdesOk := true }))

/-- State.reset is the package right after a package reset: device state BOOT, bring-up stage 1, READY low; no image and
no waiting command; tick mode LOCAL, base period 100,000 ns, flag latency 1, tick timeout 4; region 0 of Stratus and of
HBM enabled, paged, over the whole memory, and no other; every port disabled; every core idle, with no trap; no host
queue or ring enabled; every vector masked and every assigned source idle and routed to its own die's core. The
canonical forms of the sparse tables, which are the model's own representation (log entry 40), hold, and the hard-wired
registers read as the specification says. (R398, R354, R192, R219, R24, R25, R384, R348, R347, 16 Table 16.14) -/
def Obligations.ResetLeavesTheStatedValues : Prop :=
  State.reset.obj kDeviceState = stBoot ∧ State.reset.life.stage = 1 ∧ State.reset.life.ready = false ∧ State.reset.pending = [] ∧
  State.reset.hasImage = false ∧ State.reset.obj kTickMode = modeLocal ∧ State.reset.obj kBasePeriod = 100000 ∧
  State.reset.obj kFlagLatency = 1 ∧ State.reset.obj kTickTimeout = 4 ∧
  (∀ (d : DieId) (k : Fin 16), (State.reset.die d).applied[k] = if k.val = 0 then BitVec.ofNat 64 (2 ^ 63 + 8192 * 2 ^ 32)
    else if k.val = 8 then BitVec.ofNat 64 (2 ^ 63 + 65536 * 2 ^ 32) else 0) ∧
  (∀ p : PortId, (State.reset.port p).en = false ∧ (State.reset.port p).st = .disabled) ∧
  (∀ c : CoreId, (State.reset.core c).st = .idle ∧ (State.reset.core c).trap.valid = false) ∧
  (∀ q : Fin 64, (State.reset.queue q).en = false ∧ (State.reset.queue q).cmd = none) ∧
  (∀ r : Fin 8, (State.reset.host.rings[r]).en = false) ∧
  (∀ k, kvGet msixDataReset State.reset.host.msixData k = 2 ^ 32) ∧
  (∀ n, (State.reset.src n).st = .idle ∧ (State.reset.src n).level = false) ∧
  (∀ n, (srcInfo n).isSome = true → n % 512 ≠ 35 → n < 4096 → (State.reset.src n).en = true ∧ (State.reset.src n).targets = 2 ^ (n / 512)) ∧
  State.reset.MemCanonical ∧ State.reset.DictCanonical ∧ State.reset.HardWired

/-- For every state in which memory and the scratchpads are held in canonical form (addresses strictly rising, and no
byte listed that equals what an unlisted address reads as, the form of log entry 40), a step that answers a next state
leaves them in that form, whichever of the commands it runs and whether or not the state lies on a run from reset.
(R160, R192, R197, R198, R201) -/
def Obligations.EveryStepKeepsMemoryCanonical : Prop :=
  ∀ s t : State, s.MemCanonical → step s = .next t → t.MemCanonical

/-- For every command and every state, when the command answers a next state the commands still waiting are the same in
the same order; so a step on a non-empty queue leaves exactly the rest of it. The queue is the model's frame for
commands sent from outside (log entry 2). (R369, R359) -/
def Obligations.CommandsLeaveTheWaitingQueue : Prop :=
  (∀ (c : Instr) (s t : State), exec c s = .next t → t.pending = s.pending) ∧
  (∀ (c : Instr) (rest : List Instr) (s t : State), s.pending = c :: rest → step s = .next t → t.pending = rest)
end

