-- ==== Sys2Proof/Laws/Codes.lean ====
section
/-!
SUPPORT. Laws/Codes.lean: the CRC-32 of 02 R31 computed on numbers, which evaluates fast, and fields of
zero bytes.
-/
namespace Sys2Proof.Machine

/-- `n` shifts of the reflected register, on numbers. -/
def crcShiftNat : Nat → Nat → Nat
  | 0, c => c
  | n + 1, c => crcShiftNat n (bif c % 2 == 1 then (c / 2) ^^^ 0xEDB88320 else c / 2)

/-- The CRC-32 on numbers. -/
def crcNat (bs : List Byte) : Nat := 0xFFFFFFFF - bs.foldl (fun c b => crcShiftNat 8 (c ^^^ b.toNat)) 0xFFFFFFFF

theorem crcShift_toNat (n : Nat) (c : BitVec 32) : (crcShift n c).toNat = crcShiftNat n c.toNat := by
  induction n generalizing c with
  | zero => rfl
  | succ n ih =>
    simp only [crcShift, crcShiftNat, ih]
    congr 1
    have h : c.getLsbD 0 = (c.toNat % 2 == 1) := by
      simp only [BitVec.getLsbD, Nat.testBit_zero]
      rfl
    rw [h]
    cases hb : (c.toNat % 2 == 1) <;> simp [Nat.shiftRight_eq_div_pow]

/-- The CRC-32 is the one computed on numbers. -/
theorem crc32_eq_crcNat (bs : List Byte) : crc32 bs = crcNat bs := by
  have h : ∀ (bs : List Byte) (c : BitVec 32),
      (bs.foldl crcByte c).toNat = bs.foldl (fun c b => crcShiftNat 8 (c ^^^ b.toNat)) c.toNat := by
    intro bs
    induction bs with
    | nil => intro c; rfl
    | cons b bs ih =>
      intro c
      simp only [List.foldl_cons, ih]
      congr 1
      have e : b.toNat % 4294967296 = b.toNat := by have := b.isLt; omega
      simp [crcByte, crcShift_toNat, e]
  simp only [crc32, crcNat, BitVec.toNat_not, h]
  rfl

/-- A field whose bytes are all zero reads as zero. -/
theorem leAt_zero (bs : List Byte) (off n : Nat) (h : ∀ i, off ≤ i → i < off + n → bs.getD i 0#8 = 0#8) : leAt bs off n = 0 := by
  have key : ∀ l : List Nat, (∀ i ∈ l, i < n) → leNat (l.map fun i => bs.getD (off + i) 0#8) = 0 := by
    intro l
    induction l with
    | nil => intro _; rfl
    | cons a l ih =>
      intro hl
      have h0 := h (off + a) (by omega) (by have := hl a (by simp); omega)
      simp only [List.map_cons, leNat, h0, ih fun i hi => hl i (by simp [hi])]
      rfl
  exact key _ fun i hi => List.mem_range.mp hi

end Sys2Proof.Machine
end

