-- ==== Sys2Proof/Laws/Kv.lean ====
section
/-!
SUPPORT. Laws/Kv.lean: the laws of sparse tables and memories: what reads after writes give, and that every operation keeps
the canonical form.
-/
namespace Sys2Proof

variable {α : Type}

@[simp] theorem kvGet_nil (d : α) (a : Nat) : kvGet d [] a = d := rfl

/-- Deleting a key leaves the others. -/
theorem kvGet_kvDel_ne (d : α) (m : Kv α) {a b : Nat} (h : b ≠ a) : kvGet d (kvDel m a) b = kvGet d m b := by
  induction m with
  | nil => rfl
  | cons c m ih =>
    obtain ⟨k, v⟩ := c
    by_cases hk : k = a
    · subst hk
      have : kvDel ((k, v) :: m) k = kvDel m k := by simp [kvDel]
      rw [this, ih]
      simp [kvGet, Ne.symm h]
    · have : kvDel ((k, v) :: m) a = (k, v) :: kvDel m a := by simp [kvDel, hk]
      rw [this]
      simp [kvGet, ih]

/-- A deleted key reads as the default. -/
theorem kvGet_kvDel_same (d : α) (m : Kv α) (a : Nat) : kvGet d (kvDel m a) a = d := by
  induction m with
  | nil => rfl
  | cons c m ih =>
    obtain ⟨k, v⟩ := c
    by_cases hk : k = a
    · subst hk
      have : kvDel ((k, v) :: m) k = kvDel m k := by simp [kvDel]
      rw [this, ih]
    · have : kvDel ((k, v) :: m) a = (k, v) :: kvDel m a := by simp [kvDel, hk]
      rw [this]
      simp [kvGet, hk, ih]

/-- An inserted key leaves the others. -/
theorem kvGet_kvIns_ne (d : α) (m : Kv α) {a b : Nat} (v : α) (h : b ≠ a) : kvGet d (kvIns m a v) b = kvGet d m b := by
  induction m with
  | nil => simp [kvIns, kvGet, Ne.symm h]
  | cons c m ih =>
    obtain ⟨k, w⟩ := c
    simp only [kvIns]
    split
    · simp [kvGet, Ne.symm h]
    · simp [kvGet, ih]

/-- An inserted key reads as its value, where the table did not list it. -/
theorem kvGet_kvIns_same (d : α) (m : Kv α) (a : Nat) (v : α) (h : ∀ c ∈ m, c.1 ≠ a) : kvGet d (kvIns m a v) a = v := by
  induction m with
  | nil => simp [kvIns, kvGet]
  | cons c m ih =>
    obtain ⟨k, w⟩ := c
    have hk : k ≠ a := h (k, w) (by simp)
    have hm : ∀ c ∈ m, c.1 ≠ a := fun c hc => h c (by simp [hc])
    simp only [kvIns]
    split
    · simp [kvGet]
    · simp [kvGet, hk, ih hm]

/-- No entry of a table without a key has that key. -/
theorem kvDel_ne (m : Kv α) (a : Nat) : ∀ c ∈ kvDel m a, c.1 ≠ a := by
  intro c hc
  simpa [kvDel] using (List.mem_filter.mp hc).2

/-- A key reads as what was written to it. -/
@[simp] theorem kvGet_kvSet_same [DecidableEq α] (d : α) (m : Kv α) (a : Nat) (v : α) : kvGet d (kvSet d m a v) a = v := by
  unfold kvSet
  split
  · rename_i h; rw [kvGet_kvDel_same, h]
  · exact kvGet_kvIns_same d _ a v (kvDel_ne m a)

/-- A write leaves every other key. -/
theorem kvGet_kvSet_ne [DecidableEq α] (d : α) (m : Kv α) {a b : Nat} (v : α) (h : b ≠ a) :
    kvGet d (kvSet d m a v) b = kvGet d m b := by
  unfold kvSet
  split
  · exact kvGet_kvDel_ne d m h
  · rw [kvGet_kvIns_ne d _ v h, kvGet_kvDel_ne d m h]

/-- A read after a write, at any key. -/
theorem kvGet_kvSet [DecidableEq α] (d : α) (m : Kv α) (a b : Nat) (v : α) :
    kvGet d (kvSet d m a v) b = if b = a then v else kvGet d m b := by
  split
  · rename_i h; rw [h, kvGet_kvSet_same]
  · rename_i h; exact kvGet_kvSet_ne d m v h

/-! ## The canonical form -/

/-- A table is sorted just when its keys rise strictly. -/
theorem kvSorted_iff (m : Kv α) : kvSorted m = true ↔ (m.map (·.1)).Pairwise (· < ·) := by
  induction m with
  | nil => simp [kvSorted]
  | cons c m ih =>
    obtain ⟨k, v⟩ := c
    cases m with
    | nil => simp [kvSorted]
    | cons c' m =>
      obtain ⟨k', v'⟩ := c'
      simp only [kvSorted, Bool.and_eq_true, decide_eq_true_eq, ih]
      constructor
      · rintro ⟨h1, h2⟩
        simp only [List.map_cons, List.pairwise_cons] at h2 ⊢
        refine ⟨?_, h2⟩
        intro b hb
        rcases List.mem_cons.mp hb with rfl | hb
        · exact h1
        · exact lt_trans h1 (h2.1 b hb)
      · intro h
        simp only [List.map_cons, List.pairwise_cons] at h ⊢
        exact ⟨h.1 k' (by simp), h.2⟩

/-- Keeping some of a sorted table's entries keeps it sorted. -/
theorem kvSorted_filter (m : Kv α) (p : Nat × α → Bool) (h : kvSorted m = true) : kvSorted (m.filter p) = true := by
  rw [kvSorted_iff] at h ⊢
  exact h.sublist ((List.filter_sublist (l := m) (p := p)).map _)

/-- The keys of a table with one inserted. -/
theorem mem_keys_kvIns (m : Kv α) (a b : Nat) (v : α) : b ∈ (kvIns m a v).map (·.1) ↔ b = a ∨ b ∈ m.map (·.1) := by
  induction m with
  | nil => simp [kvIns]
  | cons c m ih =>
    obtain ⟨k, w⟩ := c
    simp only [kvIns]
    split
    · simp
    · simp only [List.map_cons, List.mem_cons, ih]; tauto

/-- Inserting a key that is not listed keeps a table sorted. -/
theorem kvSorted_kvIns (m : Kv α) (a : Nat) (v : α) (hs : kvSorted m = true) (hn : ∀ c ∈ m, c.1 ≠ a) :
    kvSorted (kvIns m a v) = true := by
  rw [kvSorted_iff] at hs ⊢
  induction m with
  | nil => simp [kvIns]
  | cons c m ih =>
    obtain ⟨k, w⟩ := c
    simp only [List.map_cons, List.pairwise_cons] at hs
    have hk : k ≠ a := hn (k, w) (by simp)
    have hm : ∀ c ∈ m, c.1 ≠ a := fun c hc => hn c (by simp [hc])
    simp only [kvIns]
    split
    · rename_i hlt
      simp only [List.map_cons, List.pairwise_cons]
      refine ⟨?_, hs⟩
      intro b hb
      rcases List.mem_cons.mp hb with rfl | hb
      · exact hlt
      · exact lt_trans hlt (hs.1 b hb)
    · rename_i hge
      simp only [List.map_cons, List.pairwise_cons]
      refine ⟨?_, ih hs.2 hm⟩
      intro b hb
      rcases (mem_keys_kvIns m a b v).mp hb with rfl | hb
      · omega
      · exact hs.1 b hb

/-- The entries of a table with one inserted. -/
theorem mem_kvIns (m : Kv α) (a : Nat) (v : α) (c : Nat × α) : c ∈ kvIns m a v ↔ c = (a, v) ∨ c ∈ m := by
  induction m with
  | nil => simp [kvIns]
  | cons e m ih =>
    obtain ⟨k, w⟩ := e
    simp only [kvIns]
    split
    · simp
    · simp only [List.mem_cons, ih]; tauto

/-- Keeping some entries keeps the canonical form. -/
theorem kvWf_filter [DecidableEq α] (d : α) (m : Kv α) (p : Nat × α → Bool) (h : kvWf d m = true) :
    kvWf d (m.filter p) = true := by
  simp only [kvWf, Bool.and_eq_true] at h ⊢
  refine ⟨kvSorted_filter m p h.1, ?_⟩
  rw [List.all_eq_true] at h ⊢
  exact fun c hc => h.2 c (List.mem_filter.mp hc).1

/-- Clearing a range keeps the canonical form. -/
theorem kvWf_kvClear [DecidableEq α] (d : α) (m : Kv α) (lo n : Nat) (h : kvWf d m = true) : kvWf d (kvClear m lo n) = true :=
  kvWf_filter d m _ h

/-- A write keeps the canonical form. -/
theorem kvWf_kvSet [DecidableEq α] (d : α) (m : Kv α) (a : Nat) (v : α) (h : kvWf d m = true) :
    kvWf d (kvSet d m a v) = true := by
  unfold kvSet
  have hd : kvWf d (kvDel m a) = true := kvWf_filter d m _ h
  split
  · exact hd
  · rename_i hv
    simp only [kvWf, Bool.and_eq_true] at hd ⊢
    refine ⟨kvSorted_kvIns _ a v hd.1 (kvDel_ne m a), ?_⟩
    rw [List.all_eq_true]
    intro c hc
    rcases (mem_kvIns _ a v c).mp hc with rfl | hc
    · simpa using hv
    · exact (List.all_eq_true.mp hd.2) c hc

/-- An update keeps the canonical form. -/
theorem kvWf_kvMod [DecidableEq α] (d : α) (m : Kv α) (a : Nat) (f : α → α) (h : kvWf d m = true) :
    kvWf d (kvMod d m a f) = true := kvWf_kvSet d m a _ h

/-- Consecutive writes keep the canonical form. -/
theorem kvWf_kvSetList [DecidableEq α] (d : α) (m : Kv α) (a : Nat) (vs : List α) (h : kvWf d m = true) :
    kvWf d (kvSetList d m a vs) = true := by
  induction vs generalizing m a with
  | nil => exact h
  | cons v vs ih => exact ih _ _ (kvWf_kvSet d m a v h)

/-! ## Memories -/

@[simp] theorem memWf_nil : memWf [] = true := rfl

/-- One byte written keeps a memory's canonical form. -/
theorem memWf_memSet (m : List Host.Cell) (a : Nat) (b : Byte) (h : memWf m = true) : memWf (memSet m a b) = true :=
  kvWf_kvSet 0#8 m a b h

/-- Bytes written keep a memory's canonical form. -/
theorem memWf_memWrite (m : List Host.Cell) (a : Nat) (bs : List Byte) (h : memWf m = true) :
    memWf (memWrite m a bs) = true := kvWf_kvSetList 0#8 m a bs h

/-- A cleared range keeps a memory's canonical form. -/
theorem memWf_kvClear (m : List Host.Cell) (lo n : Nat) (h : memWf m = true) : memWf (kvClear m lo n) = true :=
  kvWf_kvClear 0#8 m lo n h

/-- A byte of a memory after a list of bytes is written from `a`. -/
theorem kvGet_memWrite (m : List Host.Cell) (a : Nat) (bs : List Byte) (b : Nat) :
    kvGet 0#8 (memWrite m a bs) b = if a ≤ b ∧ b < a + bs.length then bs.getD (b - a) 0#8 else kvGet 0#8 m b := by
  unfold memWrite
  induction bs generalizing m a with
  | nil => simp [kvSetList]
  | cons v vs ih =>
    rw [kvSetList, ih]
    by_cases h1 : a + 1 ≤ b ∧ b < a + 1 + vs.length
    · have h2 : a ≤ b ∧ b < a + (v :: vs).length := by simp only [List.length_cons]; omega
      rw [if_pos h1, if_pos h2]
      have : b - a = (b - (a + 1)) + 1 := by omega
      rw [this]; simp
    · rw [if_neg h1]
      by_cases h3 : b = a
      · subst h3; simp
      · have h2 : ¬(a ≤ b ∧ b < a + (v :: vs).length) := by simp only [List.length_cons]; omega
        rw [if_neg h2, kvGet_kvSet_ne _ _ _ h3]

/-- A write leaves every byte outside it. -/
theorem kvGet_memWrite_out (m : List Host.Cell) (a : Nat) (bs : List Byte) (b : Nat) (h : b < a ∨ a + bs.length ≤ b) :
    kvGet 0#8 (memWrite m a bs) b = kvGet 0#8 m b := by
  rw [kvGet_memWrite, if_neg (by omega)]

/-- Bytes read back as they were written. -/
theorem memRead_memWrite (m : List Host.Cell) (a : Nat) (bs : List Byte) : memRead (memWrite m a bs) a bs.length = bs := by
  apply List.ext_getElem
  · simp [memRead]
  · intro i h1 h2
    simp only [memRead, List.getElem_map, List.getElem_range]
    rw [kvGet_memWrite, if_pos (by omega)]
    simp [List.getD_eq_getElem?_getD, h2]

end Sys2Proof
end

