-- ==== Sys2Proof/Laws/State.lean ====
section
/-!
SUPPORT. Laws/State.lean: what each named update of the state leaves alone, one lemma per field, and what the fields it
updates read afterwards. No later proof needs to unfold a record update.
-/
namespace Sys2Proof.Machine

variable (s : State)

/-! ## setCore -/

@[simp] theorem State.setCore_pending (c : CoreId) (x : CoreState) : (s.setCore c x).pending = s.pending := rfl
@[simp] theorem State.setCore_now (c : CoreId) (x : CoreState) : (s.setCore c x).now = s.now := rfl
@[simp] theorem State.setCore_out (c : CoreId) (x : CoreState) : (s.setCore c x).out = s.out := rfl
@[simp] theorem State.setCore_free (c : CoreId) (x : CoreState) : (s.setCore c x).free = s.free := rfl
@[simp] theorem State.setCore_dict (c : CoreId) (x : CoreState) : (s.setCore c x).dict = s.dict := rfl
@[simp] theorem State.setCore_mem (c : CoreId) (x : CoreState) : (s.setCore c x).mem = s.mem := rfl
@[simp] theorem State.setCore_pageDev (c : CoreId) (x : CoreState) : (s.setCore c x).pageDev = s.pageDev := rfl
@[simp] theorem State.setCore_byteDev (c : CoreId) (x : CoreState) : (s.setCore c x).byteDev = s.byteDev := rfl
@[simp] theorem State.setCore_scratch (c : CoreId) (x : CoreState) : (s.setCore c x).scratch = s.scratch := rfl
@[simp] theorem State.setCore_wordDev (c : CoreId) (x : CoreState) : (s.setCore c x).wordDev = s.wordDev := rfl
@[simp] theorem State.setCore_fenceLog (c : CoreId) (x : CoreState) : (s.setCore c x).fenceLog = s.fenceLog := rfl
@[simp] theorem State.setCore_wear (c : CoreId) (x : CoreState) : (s.setCore c x).wear = s.wear := rfl
@[simp] theorem State.setCore_dies (c : CoreId) (x : CoreState) : (s.setCore c x).dies = s.dies := rfl
@[simp] theorem State.setCore_host (c : CoreId) (x : CoreState) : (s.setCore c x).host = s.host := rfl
@[simp] theorem State.setCore_irq (c : CoreId) (x : CoreState) : (s.setCore c x).irq = s.irq := rfl
@[simp] theorem State.setCore_run (c : CoreId) (x : CoreState) : (s.setCore c x).run = s.run := rfl
@[simp] theorem State.setCore_tick (c : CoreId) (x : CoreState) : (s.setCore c x).tick = s.tick := rfl
@[simp] theorem State.setCore_fabric (c : CoreId) (x : CoreState) : (s.setCore c x).fabric = s.fabric := rfl
@[simp] theorem State.setCore_units (c : CoreId) (x : CoreState) : (s.setCore c x).units = s.units := rfl
@[simp] theorem State.setCore_cirrusOn (c : CoreId) (x : CoreState) : (s.setCore c x).cirrusOn = s.cirrusOn := rfl
@[simp] theorem State.setCore_faulted (c : CoreId) (x : CoreState) : (s.setCore c x).faulted = s.faulted := rfl
@[simp] theorem State.setCore_power (c : CoreId) (x : CoreState) : (s.setCore c x).power = s.power := rfl
@[simp] theorem State.setCore_clocks (c : CoreId) (x : CoreState) : (s.setCore c x).clocks = s.clocks := rfl
@[simp] theorem State.setCore_life (c : CoreId) (x : CoreState) : (s.setCore c x).life = s.life := rfl
@[simp] theorem State.setCore_mgmt (c : CoreId) (x : CoreState) : (s.setCore c x).mgmt = s.mgmt := rfl

/-! ## modCore -/

@[simp] theorem State.modCore_pending (c : CoreId) (f : CoreState → CoreState) : (s.modCore c f).pending = s.pending := rfl
@[simp] theorem State.modCore_now (c : CoreId) (f : CoreState → CoreState) : (s.modCore c f).now = s.now := rfl
@[simp] theorem State.modCore_out (c : CoreId) (f : CoreState → CoreState) : (s.modCore c f).out = s.out := rfl
@[simp] theorem State.modCore_free (c : CoreId) (f : CoreState → CoreState) : (s.modCore c f).free = s.free := rfl
@[simp] theorem State.modCore_dict (c : CoreId) (f : CoreState → CoreState) : (s.modCore c f).dict = s.dict := rfl
@[simp] theorem State.modCore_mem (c : CoreId) (f : CoreState → CoreState) : (s.modCore c f).mem = s.mem := rfl
@[simp] theorem State.modCore_pageDev (c : CoreId) (f : CoreState → CoreState) : (s.modCore c f).pageDev = s.pageDev := rfl
@[simp] theorem State.modCore_byteDev (c : CoreId) (f : CoreState → CoreState) : (s.modCore c f).byteDev = s.byteDev := rfl
@[simp] theorem State.modCore_scratch (c : CoreId) (f : CoreState → CoreState) : (s.modCore c f).scratch = s.scratch := rfl
@[simp] theorem State.modCore_wordDev (c : CoreId) (f : CoreState → CoreState) : (s.modCore c f).wordDev = s.wordDev := rfl
@[simp] theorem State.modCore_fenceLog (c : CoreId) (f : CoreState → CoreState) : (s.modCore c f).fenceLog = s.fenceLog := rfl
@[simp] theorem State.modCore_wear (c : CoreId) (f : CoreState → CoreState) : (s.modCore c f).wear = s.wear := rfl
@[simp] theorem State.modCore_dies (c : CoreId) (f : CoreState → CoreState) : (s.modCore c f).dies = s.dies := rfl
@[simp] theorem State.modCore_host (c : CoreId) (f : CoreState → CoreState) : (s.modCore c f).host = s.host := rfl
@[simp] theorem State.modCore_irq (c : CoreId) (f : CoreState → CoreState) : (s.modCore c f).irq = s.irq := rfl
@[simp] theorem State.modCore_run (c : CoreId) (f : CoreState → CoreState) : (s.modCore c f).run = s.run := rfl
@[simp] theorem State.modCore_tick (c : CoreId) (f : CoreState → CoreState) : (s.modCore c f).tick = s.tick := rfl
@[simp] theorem State.modCore_fabric (c : CoreId) (f : CoreState → CoreState) : (s.modCore c f).fabric = s.fabric := rfl
@[simp] theorem State.modCore_units (c : CoreId) (f : CoreState → CoreState) : (s.modCore c f).units = s.units := rfl
@[simp] theorem State.modCore_cirrusOn (c : CoreId) (f : CoreState → CoreState) : (s.modCore c f).cirrusOn = s.cirrusOn := rfl
@[simp] theorem State.modCore_faulted (c : CoreId) (f : CoreState → CoreState) : (s.modCore c f).faulted = s.faulted := rfl
@[simp] theorem State.modCore_power (c : CoreId) (f : CoreState → CoreState) : (s.modCore c f).power = s.power := rfl
@[simp] theorem State.modCore_clocks (c : CoreId) (f : CoreState → CoreState) : (s.modCore c f).clocks = s.clocks := rfl
@[simp] theorem State.modCore_life (c : CoreId) (f : CoreState → CoreState) : (s.modCore c f).life = s.life := rfl
@[simp] theorem State.modCore_mgmt (c : CoreId) (f : CoreState → CoreState) : (s.modCore c f).mgmt = s.mgmt := rfl

/-! ## modDie -/

@[simp] theorem State.modDie_pending (d : DieId) (f : DieMem → DieMem) : (s.modDie d f).pending = s.pending := rfl
@[simp] theorem State.modDie_now (d : DieId) (f : DieMem → DieMem) : (s.modDie d f).now = s.now := rfl
@[simp] theorem State.modDie_out (d : DieId) (f : DieMem → DieMem) : (s.modDie d f).out = s.out := rfl
@[simp] theorem State.modDie_free (d : DieId) (f : DieMem → DieMem) : (s.modDie d f).free = s.free := rfl
@[simp] theorem State.modDie_dict (d : DieId) (f : DieMem → DieMem) : (s.modDie d f).dict = s.dict := rfl
@[simp] theorem State.modDie_mem (d : DieId) (f : DieMem → DieMem) : (s.modDie d f).mem = s.mem := rfl
@[simp] theorem State.modDie_pageDev (d : DieId) (f : DieMem → DieMem) : (s.modDie d f).pageDev = s.pageDev := rfl
@[simp] theorem State.modDie_byteDev (d : DieId) (f : DieMem → DieMem) : (s.modDie d f).byteDev = s.byteDev := rfl
@[simp] theorem State.modDie_scratch (d : DieId) (f : DieMem → DieMem) : (s.modDie d f).scratch = s.scratch := rfl
@[simp] theorem State.modDie_wordDev (d : DieId) (f : DieMem → DieMem) : (s.modDie d f).wordDev = s.wordDev := rfl
@[simp] theorem State.modDie_fenceLog (d : DieId) (f : DieMem → DieMem) : (s.modDie d f).fenceLog = s.fenceLog := rfl
@[simp] theorem State.modDie_wear (d : DieId) (f : DieMem → DieMem) : (s.modDie d f).wear = s.wear := rfl
@[simp] theorem State.modDie_cores (d : DieId) (f : DieMem → DieMem) : (s.modDie d f).cores = s.cores := rfl
@[simp] theorem State.modDie_host (d : DieId) (f : DieMem → DieMem) : (s.modDie d f).host = s.host := rfl
@[simp] theorem State.modDie_irq (d : DieId) (f : DieMem → DieMem) : (s.modDie d f).irq = s.irq := rfl
@[simp] theorem State.modDie_run (d : DieId) (f : DieMem → DieMem) : (s.modDie d f).run = s.run := rfl
@[simp] theorem State.modDie_tick (d : DieId) (f : DieMem → DieMem) : (s.modDie d f).tick = s.tick := rfl
@[simp] theorem State.modDie_fabric (d : DieId) (f : DieMem → DieMem) : (s.modDie d f).fabric = s.fabric := rfl
@[simp] theorem State.modDie_units (d : DieId) (f : DieMem → DieMem) : (s.modDie d f).units = s.units := rfl
@[simp] theorem State.modDie_cirrusOn (d : DieId) (f : DieMem → DieMem) : (s.modDie d f).cirrusOn = s.cirrusOn := rfl
@[simp] theorem State.modDie_faulted (d : DieId) (f : DieMem → DieMem) : (s.modDie d f).faulted = s.faulted := rfl
@[simp] theorem State.modDie_power (d : DieId) (f : DieMem → DieMem) : (s.modDie d f).power = s.power := rfl
@[simp] theorem State.modDie_clocks (d : DieId) (f : DieMem → DieMem) : (s.modDie d f).clocks = s.clocks := rfl
@[simp] theorem State.modDie_life (d : DieId) (f : DieMem → DieMem) : (s.modDie d f).life = s.life := rfl
@[simp] theorem State.modDie_mgmt (d : DieId) (f : DieMem → DieMem) : (s.modDie d f).mgmt = s.mgmt := rfl

/-! ## emit -/

@[simp] theorem State.emit_pending (o : Output) : (s.emit o).pending = s.pending := rfl
@[simp] theorem State.emit_now (o : Output) : (s.emit o).now = s.now := rfl
@[simp] theorem State.emit_free (o : Output) : (s.emit o).free = s.free := rfl
@[simp] theorem State.emit_dict (o : Output) : (s.emit o).dict = s.dict := rfl
@[simp] theorem State.emit_mem (o : Output) : (s.emit o).mem = s.mem := rfl
@[simp] theorem State.emit_pageDev (o : Output) : (s.emit o).pageDev = s.pageDev := rfl
@[simp] theorem State.emit_byteDev (o : Output) : (s.emit o).byteDev = s.byteDev := rfl
@[simp] theorem State.emit_scratch (o : Output) : (s.emit o).scratch = s.scratch := rfl
@[simp] theorem State.emit_wordDev (o : Output) : (s.emit o).wordDev = s.wordDev := rfl
@[simp] theorem State.emit_fenceLog (o : Output) : (s.emit o).fenceLog = s.fenceLog := rfl
@[simp] theorem State.emit_wear (o : Output) : (s.emit o).wear = s.wear := rfl
@[simp] theorem State.emit_cores (o : Output) : (s.emit o).cores = s.cores := rfl
@[simp] theorem State.emit_dies (o : Output) : (s.emit o).dies = s.dies := rfl
@[simp] theorem State.emit_host (o : Output) : (s.emit o).host = s.host := rfl
@[simp] theorem State.emit_irq (o : Output) : (s.emit o).irq = s.irq := rfl
@[simp] theorem State.emit_run (o : Output) : (s.emit o).run = s.run := rfl
@[simp] theorem State.emit_tick (o : Output) : (s.emit o).tick = s.tick := rfl
@[simp] theorem State.emit_fabric (o : Output) : (s.emit o).fabric = s.fabric := rfl
@[simp] theorem State.emit_units (o : Output) : (s.emit o).units = s.units := rfl
@[simp] theorem State.emit_cirrusOn (o : Output) : (s.emit o).cirrusOn = s.cirrusOn := rfl
@[simp] theorem State.emit_faulted (o : Output) : (s.emit o).faulted = s.faulted := rfl
@[simp] theorem State.emit_power (o : Output) : (s.emit o).power = s.power := rfl
@[simp] theorem State.emit_clocks (o : Output) : (s.emit o).clocks = s.clocks := rfl
@[simp] theorem State.emit_life (o : Output) : (s.emit o).life = s.life := rfl
@[simp] theorem State.emit_mgmt (o : Output) : (s.emit o).mgmt = s.mgmt := rfl

/-! ## setObj -/

@[simp] theorem State.setObj_pending (key v : Nat) : (s.setObj key v).pending = s.pending := rfl
@[simp] theorem State.setObj_now (key v : Nat) : (s.setObj key v).now = s.now := rfl
@[simp] theorem State.setObj_out (key v : Nat) : (s.setObj key v).out = s.out := rfl
@[simp] theorem State.setObj_free (key v : Nat) : (s.setObj key v).free = s.free := rfl
@[simp] theorem State.setObj_mem (key v : Nat) : (s.setObj key v).mem = s.mem := rfl
@[simp] theorem State.setObj_pageDev (key v : Nat) : (s.setObj key v).pageDev = s.pageDev := rfl
@[simp] theorem State.setObj_byteDev (key v : Nat) : (s.setObj key v).byteDev = s.byteDev := rfl
@[simp] theorem State.setObj_scratch (key v : Nat) : (s.setObj key v).scratch = s.scratch := rfl
@[simp] theorem State.setObj_wordDev (key v : Nat) : (s.setObj key v).wordDev = s.wordDev := rfl
@[simp] theorem State.setObj_fenceLog (key v : Nat) : (s.setObj key v).fenceLog = s.fenceLog := rfl
@[simp] theorem State.setObj_wear (key v : Nat) : (s.setObj key v).wear = s.wear := rfl
@[simp] theorem State.setObj_cores (key v : Nat) : (s.setObj key v).cores = s.cores := rfl
@[simp] theorem State.setObj_dies (key v : Nat) : (s.setObj key v).dies = s.dies := rfl
@[simp] theorem State.setObj_host (key v : Nat) : (s.setObj key v).host = s.host := rfl
@[simp] theorem State.setObj_irq (key v : Nat) : (s.setObj key v).irq = s.irq := rfl
@[simp] theorem State.setObj_run (key v : Nat) : (s.setObj key v).run = s.run := rfl
@[simp] theorem State.setObj_tick (key v : Nat) : (s.setObj key v).tick = s.tick := rfl
@[simp] theorem State.setObj_fabric (key v : Nat) : (s.setObj key v).fabric = s.fabric := rfl
@[simp] theorem State.setObj_units (key v : Nat) : (s.setObj key v).units = s.units := rfl
@[simp] theorem State.setObj_cirrusOn (key v : Nat) : (s.setObj key v).cirrusOn = s.cirrusOn := rfl
@[simp] theorem State.setObj_faulted (key v : Nat) : (s.setObj key v).faulted = s.faulted := rfl
@[simp] theorem State.setObj_power (key v : Nat) : (s.setObj key v).power = s.power := rfl
@[simp] theorem State.setObj_clocks (key v : Nat) : (s.setObj key v).clocks = s.clocks := rfl
@[simp] theorem State.setObj_life (key v : Nat) : (s.setObj key v).life = s.life := rfl
@[simp] theorem State.setObj_mgmt (key v : Nat) : (s.setObj key v).mgmt = s.mgmt := rfl

/-! ## bumpBy -/

@[simp] theorem State.bumpBy_pending (key n : Nat) : (s.bumpBy key n).pending = s.pending := rfl
@[simp] theorem State.bumpBy_now (key n : Nat) : (s.bumpBy key n).now = s.now := rfl
@[simp] theorem State.bumpBy_out (key n : Nat) : (s.bumpBy key n).out = s.out := rfl
@[simp] theorem State.bumpBy_free (key n : Nat) : (s.bumpBy key n).free = s.free := rfl
@[simp] theorem State.bumpBy_mem (key n : Nat) : (s.bumpBy key n).mem = s.mem := rfl
@[simp] theorem State.bumpBy_pageDev (key n : Nat) : (s.bumpBy key n).pageDev = s.pageDev := rfl
@[simp] theorem State.bumpBy_byteDev (key n : Nat) : (s.bumpBy key n).byteDev = s.byteDev := rfl
@[simp] theorem State.bumpBy_scratch (key n : Nat) : (s.bumpBy key n).scratch = s.scratch := rfl
@[simp] theorem State.bumpBy_wordDev (key n : Nat) : (s.bumpBy key n).wordDev = s.wordDev := rfl
@[simp] theorem State.bumpBy_fenceLog (key n : Nat) : (s.bumpBy key n).fenceLog = s.fenceLog := rfl
@[simp] theorem State.bumpBy_wear (key n : Nat) : (s.bumpBy key n).wear = s.wear := rfl
@[simp] theorem State.bumpBy_cores (key n : Nat) : (s.bumpBy key n).cores = s.cores := rfl
@[simp] theorem State.bumpBy_dies (key n : Nat) : (s.bumpBy key n).dies = s.dies := rfl
@[simp] theorem State.bumpBy_host (key n : Nat) : (s.bumpBy key n).host = s.host := rfl
@[simp] theorem State.bumpBy_irq (key n : Nat) : (s.bumpBy key n).irq = s.irq := rfl
@[simp] theorem State.bumpBy_run (key n : Nat) : (s.bumpBy key n).run = s.run := rfl
@[simp] theorem State.bumpBy_tick (key n : Nat) : (s.bumpBy key n).tick = s.tick := rfl
@[simp] theorem State.bumpBy_fabric (key n : Nat) : (s.bumpBy key n).fabric = s.fabric := rfl
@[simp] theorem State.bumpBy_units (key n : Nat) : (s.bumpBy key n).units = s.units := rfl
@[simp] theorem State.bumpBy_cirrusOn (key n : Nat) : (s.bumpBy key n).cirrusOn = s.cirrusOn := rfl
@[simp] theorem State.bumpBy_faulted (key n : Nat) : (s.bumpBy key n).faulted = s.faulted := rfl
@[simp] theorem State.bumpBy_power (key n : Nat) : (s.bumpBy key n).power = s.power := rfl
@[simp] theorem State.bumpBy_clocks (key n : Nat) : (s.bumpBy key n).clocks = s.clocks := rfl
@[simp] theorem State.bumpBy_life (key n : Nat) : (s.bumpBy key n).life = s.life := rfl
@[simp] theorem State.bumpBy_mgmt (key n : Nat) : (s.bumpBy key n).mgmt = s.mgmt := rfl

/-! ## bump -/

@[simp] theorem State.bump_pending (key : Nat) : (s.bump key).pending = s.pending := rfl
@[simp] theorem State.bump_now (key : Nat) : (s.bump key).now = s.now := rfl
@[simp] theorem State.bump_out (key : Nat) : (s.bump key).out = s.out := rfl
@[simp] theorem State.bump_free (key : Nat) : (s.bump key).free = s.free := rfl
@[simp] theorem State.bump_mem (key : Nat) : (s.bump key).mem = s.mem := rfl
@[simp] theorem State.bump_pageDev (key : Nat) : (s.bump key).pageDev = s.pageDev := rfl
@[simp] theorem State.bump_byteDev (key : Nat) : (s.bump key).byteDev = s.byteDev := rfl
@[simp] theorem State.bump_scratch (key : Nat) : (s.bump key).scratch = s.scratch := rfl
@[simp] theorem State.bump_wordDev (key : Nat) : (s.bump key).wordDev = s.wordDev := rfl
@[simp] theorem State.bump_fenceLog (key : Nat) : (s.bump key).fenceLog = s.fenceLog := rfl
@[simp] theorem State.bump_wear (key : Nat) : (s.bump key).wear = s.wear := rfl
@[simp] theorem State.bump_cores (key : Nat) : (s.bump key).cores = s.cores := rfl
@[simp] theorem State.bump_dies (key : Nat) : (s.bump key).dies = s.dies := rfl
@[simp] theorem State.bump_host (key : Nat) : (s.bump key).host = s.host := rfl
@[simp] theorem State.bump_irq (key : Nat) : (s.bump key).irq = s.irq := rfl
@[simp] theorem State.bump_run (key : Nat) : (s.bump key).run = s.run := rfl
@[simp] theorem State.bump_tick (key : Nat) : (s.bump key).tick = s.tick := rfl
@[simp] theorem State.bump_fabric (key : Nat) : (s.bump key).fabric = s.fabric := rfl
@[simp] theorem State.bump_units (key : Nat) : (s.bump key).units = s.units := rfl
@[simp] theorem State.bump_cirrusOn (key : Nat) : (s.bump key).cirrusOn = s.cirrusOn := rfl
@[simp] theorem State.bump_faulted (key : Nat) : (s.bump key).faulted = s.faulted := rfl
@[simp] theorem State.bump_power (key : Nat) : (s.bump key).power = s.power := rfl
@[simp] theorem State.bump_clocks (key : Nat) : (s.bump key).clocks = s.clocks := rfl
@[simp] theorem State.bump_life (key : Nat) : (s.bump key).life = s.life := rfl
@[simp] theorem State.bump_mgmt (key : Nat) : (s.bump key).mgmt = s.mgmt := rfl

/-! ## draw -/

@[simp] theorem State.draw_pending : (s.draw.2).pending = s.pending := rfl
@[simp] theorem State.draw_now : (s.draw.2).now = s.now := rfl
@[simp] theorem State.draw_out : (s.draw.2).out = s.out := rfl
@[simp] theorem State.draw_dict : (s.draw.2).dict = s.dict := rfl
@[simp] theorem State.draw_mem : (s.draw.2).mem = s.mem := rfl
@[simp] theorem State.draw_pageDev : (s.draw.2).pageDev = s.pageDev := rfl
@[simp] theorem State.draw_byteDev : (s.draw.2).byteDev = s.byteDev := rfl
@[simp] theorem State.draw_scratch : (s.draw.2).scratch = s.scratch := rfl
@[simp] theorem State.draw_wordDev : (s.draw.2).wordDev = s.wordDev := rfl
@[simp] theorem State.draw_fenceLog : (s.draw.2).fenceLog = s.fenceLog := rfl
@[simp] theorem State.draw_wear : (s.draw.2).wear = s.wear := rfl
@[simp] theorem State.draw_cores : (s.draw.2).cores = s.cores := rfl
@[simp] theorem State.draw_dies : (s.draw.2).dies = s.dies := rfl
@[simp] theorem State.draw_host : (s.draw.2).host = s.host := rfl
@[simp] theorem State.draw_irq : (s.draw.2).irq = s.irq := rfl
@[simp] theorem State.draw_run : (s.draw.2).run = s.run := rfl
@[simp] theorem State.draw_tick : (s.draw.2).tick = s.tick := rfl
@[simp] theorem State.draw_fabric : (s.draw.2).fabric = s.fabric := rfl
@[simp] theorem State.draw_units : (s.draw.2).units = s.units := rfl
@[simp] theorem State.draw_cirrusOn : (s.draw.2).cirrusOn = s.cirrusOn := rfl
@[simp] theorem State.draw_faulted : (s.draw.2).faulted = s.faulted := rfl
@[simp] theorem State.draw_power : (s.draw.2).power = s.power := rfl
@[simp] theorem State.draw_clocks : (s.draw.2).clocks = s.clocks := rfl
@[simp] theorem State.draw_life : (s.draw.2).life = s.life := rfl
@[simp] theorem State.draw_mgmt : (s.draw.2).mgmt = s.mgmt := rfl

/-! ## setSrc -/

@[simp] theorem State.setSrc_pending (n : Nat) (r : SrcRec) : (s.setSrc n r).pending = s.pending := rfl
@[simp] theorem State.setSrc_now (n : Nat) (r : SrcRec) : (s.setSrc n r).now = s.now := rfl
@[simp] theorem State.setSrc_out (n : Nat) (r : SrcRec) : (s.setSrc n r).out = s.out := rfl
@[simp] theorem State.setSrc_free (n : Nat) (r : SrcRec) : (s.setSrc n r).free = s.free := rfl
@[simp] theorem State.setSrc_dict (n : Nat) (r : SrcRec) : (s.setSrc n r).dict = s.dict := rfl
@[simp] theorem State.setSrc_mem (n : Nat) (r : SrcRec) : (s.setSrc n r).mem = s.mem := rfl
@[simp] theorem State.setSrc_pageDev (n : Nat) (r : SrcRec) : (s.setSrc n r).pageDev = s.pageDev := rfl
@[simp] theorem State.setSrc_byteDev (n : Nat) (r : SrcRec) : (s.setSrc n r).byteDev = s.byteDev := rfl
@[simp] theorem State.setSrc_scratch (n : Nat) (r : SrcRec) : (s.setSrc n r).scratch = s.scratch := rfl
@[simp] theorem State.setSrc_wordDev (n : Nat) (r : SrcRec) : (s.setSrc n r).wordDev = s.wordDev := rfl
@[simp] theorem State.setSrc_fenceLog (n : Nat) (r : SrcRec) : (s.setSrc n r).fenceLog = s.fenceLog := rfl
@[simp] theorem State.setSrc_wear (n : Nat) (r : SrcRec) : (s.setSrc n r).wear = s.wear := rfl
@[simp] theorem State.setSrc_cores (n : Nat) (r : SrcRec) : (s.setSrc n r).cores = s.cores := rfl
@[simp] theorem State.setSrc_dies (n : Nat) (r : SrcRec) : (s.setSrc n r).dies = s.dies := rfl
@[simp] theorem State.setSrc_host (n : Nat) (r : SrcRec) : (s.setSrc n r).host = s.host := rfl
@[simp] theorem State.setSrc_run (n : Nat) (r : SrcRec) : (s.setSrc n r).run = s.run := rfl
@[simp] theorem State.setSrc_tick (n : Nat) (r : SrcRec) : (s.setSrc n r).tick = s.tick := rfl
@[simp] theorem State.setSrc_fabric (n : Nat) (r : SrcRec) : (s.setSrc n r).fabric = s.fabric := rfl
@[simp] theorem State.setSrc_units (n : Nat) (r : SrcRec) : (s.setSrc n r).units = s.units := rfl
@[simp] theorem State.setSrc_cirrusOn (n : Nat) (r : SrcRec) : (s.setSrc n r).cirrusOn = s.cirrusOn := rfl
@[simp] theorem State.setSrc_faulted (n : Nat) (r : SrcRec) : (s.setSrc n r).faulted = s.faulted := rfl
@[simp] theorem State.setSrc_power (n : Nat) (r : SrcRec) : (s.setSrc n r).power = s.power := rfl
@[simp] theorem State.setSrc_clocks (n : Nat) (r : SrcRec) : (s.setSrc n r).clocks = s.clocks := rfl
@[simp] theorem State.setSrc_life (n : Nat) (r : SrcRec) : (s.setSrc n r).life = s.life := rfl
@[simp] theorem State.setSrc_mgmt (n : Nat) (r : SrcRec) : (s.setSrc n r).mgmt = s.mgmt := rfl

/-! ## setIc -/

@[simp] theorem State.setIc_pending (d : DieId) (x : IntCtl) : (s.setIc d x).pending = s.pending := rfl
@[simp] theorem State.setIc_now (d : DieId) (x : IntCtl) : (s.setIc d x).now = s.now := rfl
@[simp] theorem State.setIc_out (d : DieId) (x : IntCtl) : (s.setIc d x).out = s.out := rfl
@[simp] theorem State.setIc_free (d : DieId) (x : IntCtl) : (s.setIc d x).free = s.free := rfl
@[simp] theorem State.setIc_dict (d : DieId) (x : IntCtl) : (s.setIc d x).dict = s.dict := rfl
@[simp] theorem State.setIc_mem (d : DieId) (x : IntCtl) : (s.setIc d x).mem = s.mem := rfl
@[simp] theorem State.setIc_pageDev (d : DieId) (x : IntCtl) : (s.setIc d x).pageDev = s.pageDev := rfl
@[simp] theorem State.setIc_byteDev (d : DieId) (x : IntCtl) : (s.setIc d x).byteDev = s.byteDev := rfl
@[simp] theorem State.setIc_scratch (d : DieId) (x : IntCtl) : (s.setIc d x).scratch = s.scratch := rfl
@[simp] theorem State.setIc_wordDev (d : DieId) (x : IntCtl) : (s.setIc d x).wordDev = s.wordDev := rfl
@[simp] theorem State.setIc_fenceLog (d : DieId) (x : IntCtl) : (s.setIc d x).fenceLog = s.fenceLog := rfl
@[simp] theorem State.setIc_wear (d : DieId) (x : IntCtl) : (s.setIc d x).wear = s.wear := rfl
@[simp] theorem State.setIc_cores (d : DieId) (x : IntCtl) : (s.setIc d x).cores = s.cores := rfl
@[simp] theorem State.setIc_dies (d : DieId) (x : IntCtl) : (s.setIc d x).dies = s.dies := rfl
@[simp] theorem State.setIc_host (d : DieId) (x : IntCtl) : (s.setIc d x).host = s.host := rfl
@[simp] theorem State.setIc_run (d : DieId) (x : IntCtl) : (s.setIc d x).run = s.run := rfl
@[simp] theorem State.setIc_tick (d : DieId) (x : IntCtl) : (s.setIc d x).tick = s.tick := rfl
@[simp] theorem State.setIc_fabric (d : DieId) (x : IntCtl) : (s.setIc d x).fabric = s.fabric := rfl
@[simp] theorem State.setIc_units (d : DieId) (x : IntCtl) : (s.setIc d x).units = s.units := rfl
@[simp] theorem State.setIc_cirrusOn (d : DieId) (x : IntCtl) : (s.setIc d x).cirrusOn = s.cirrusOn := rfl
@[simp] theorem State.setIc_faulted (d : DieId) (x : IntCtl) : (s.setIc d x).faulted = s.faulted := rfl
@[simp] theorem State.setIc_power (d : DieId) (x : IntCtl) : (s.setIc d x).power = s.power := rfl
@[simp] theorem State.setIc_clocks (d : DieId) (x : IntCtl) : (s.setIc d x).clocks = s.clocks := rfl
@[simp] theorem State.setIc_life (d : DieId) (x : IntCtl) : (s.setIc d x).life = s.life := rfl
@[simp] theorem State.setIc_mgmt (d : DieId) (x : IntCtl) : (s.setIc d x).mgmt = s.mgmt := rfl

/-! ## modPort -/

@[simp] theorem State.modPort_pending (p : PortId) (f : Port → Port) : (s.modPort p f).pending = s.pending := rfl
@[simp] theorem State.modPort_now (p : PortId) (f : Port → Port) : (s.modPort p f).now = s.now := rfl
@[simp] theorem State.modPort_out (p : PortId) (f : Port → Port) : (s.modPort p f).out = s.out := rfl
@[simp] theorem State.modPort_free (p : PortId) (f : Port → Port) : (s.modPort p f).free = s.free := rfl
@[simp] theorem State.modPort_dict (p : PortId) (f : Port → Port) : (s.modPort p f).dict = s.dict := rfl
@[simp] theorem State.modPort_mem (p : PortId) (f : Port → Port) : (s.modPort p f).mem = s.mem := rfl
@[simp] theorem State.modPort_pageDev (p : PortId) (f : Port → Port) : (s.modPort p f).pageDev = s.pageDev := rfl
@[simp] theorem State.modPort_byteDev (p : PortId) (f : Port → Port) : (s.modPort p f).byteDev = s.byteDev := rfl
@[simp] theorem State.modPort_scratch (p : PortId) (f : Port → Port) : (s.modPort p f).scratch = s.scratch := rfl
@[simp] theorem State.modPort_wordDev (p : PortId) (f : Port → Port) : (s.modPort p f).wordDev = s.wordDev := rfl
@[simp] theorem State.modPort_fenceLog (p : PortId) (f : Port → Port) : (s.modPort p f).fenceLog = s.fenceLog := rfl
@[simp] theorem State.modPort_wear (p : PortId) (f : Port → Port) : (s.modPort p f).wear = s.wear := rfl
@[simp] theorem State.modPort_cores (p : PortId) (f : Port → Port) : (s.modPort p f).cores = s.cores := rfl
@[simp] theorem State.modPort_dies (p : PortId) (f : Port → Port) : (s.modPort p f).dies = s.dies := rfl
@[simp] theorem State.modPort_host (p : PortId) (f : Port → Port) : (s.modPort p f).host = s.host := rfl
@[simp] theorem State.modPort_irq (p : PortId) (f : Port → Port) : (s.modPort p f).irq = s.irq := rfl
@[simp] theorem State.modPort_run (p : PortId) (f : Port → Port) : (s.modPort p f).run = s.run := rfl
@[simp] theorem State.modPort_tick (p : PortId) (f : Port → Port) : (s.modPort p f).tick = s.tick := rfl
@[simp] theorem State.modPort_units (p : PortId) (f : Port → Port) : (s.modPort p f).units = s.units := rfl
@[simp] theorem State.modPort_cirrusOn (p : PortId) (f : Port → Port) : (s.modPort p f).cirrusOn = s.cirrusOn := rfl
@[simp] theorem State.modPort_faulted (p : PortId) (f : Port → Port) : (s.modPort p f).faulted = s.faulted := rfl
@[simp] theorem State.modPort_power (p : PortId) (f : Port → Port) : (s.modPort p f).power = s.power := rfl
@[simp] theorem State.modPort_clocks (p : PortId) (f : Port → Port) : (s.modPort p f).clocks = s.clocks := rfl
@[simp] theorem State.modPort_life (p : PortId) (f : Port → Port) : (s.modPort p f).life = s.life := rfl
@[simp] theorem State.modPort_mgmt (p : PortId) (f : Port → Port) : (s.modPort p f).mgmt = s.mgmt := rfl

/-! ## fenceUnit -/

@[simp] theorem fenceUnit_pending (u : FailUnit) : (fenceUnit s u).pending = s.pending := rfl
@[simp] theorem fenceUnit_now (u : FailUnit) : (fenceUnit s u).now = s.now := rfl
@[simp] theorem fenceUnit_out (u : FailUnit) : (fenceUnit s u).out = s.out := rfl
@[simp] theorem fenceUnit_free (u : FailUnit) : (fenceUnit s u).free = s.free := rfl
@[simp] theorem fenceUnit_dict (u : FailUnit) : (fenceUnit s u).dict = s.dict := rfl
@[simp] theorem fenceUnit_mem (u : FailUnit) : (fenceUnit s u).mem = s.mem := rfl
@[simp] theorem fenceUnit_pageDev (u : FailUnit) : (fenceUnit s u).pageDev = s.pageDev := rfl
@[simp] theorem fenceUnit_byteDev (u : FailUnit) : (fenceUnit s u).byteDev = s.byteDev := rfl
@[simp] theorem fenceUnit_scratch (u : FailUnit) : (fenceUnit s u).scratch = s.scratch := rfl
@[simp] theorem fenceUnit_wordDev (u : FailUnit) : (fenceUnit s u).wordDev = s.wordDev := rfl
@[simp] theorem fenceUnit_fenceLog (u : FailUnit) : (fenceUnit s u).fenceLog = s.fenceLog := rfl
@[simp] theorem fenceUnit_cores (u : FailUnit) : (fenceUnit s u).cores = s.cores := rfl
@[simp] theorem fenceUnit_dies (u : FailUnit) : (fenceUnit s u).dies = s.dies := rfl
@[simp] theorem fenceUnit_host (u : FailUnit) : (fenceUnit s u).host = s.host := rfl
@[simp] theorem fenceUnit_irq (u : FailUnit) : (fenceUnit s u).irq = s.irq := rfl
@[simp] theorem fenceUnit_run (u : FailUnit) : (fenceUnit s u).run = s.run := rfl
@[simp] theorem fenceUnit_tick (u : FailUnit) : (fenceUnit s u).tick = s.tick := rfl
@[simp] theorem fenceUnit_fabric (u : FailUnit) : (fenceUnit s u).fabric = s.fabric := rfl
@[simp] theorem fenceUnit_units (u : FailUnit) : (fenceUnit s u).units = s.units := rfl
@[simp] theorem fenceUnit_cirrusOn (u : FailUnit) : (fenceUnit s u).cirrusOn = s.cirrusOn := rfl
@[simp] theorem fenceUnit_faulted (u : FailUnit) : (fenceUnit s u).faulted = s.faulted := rfl
@[simp] theorem fenceUnit_power (u : FailUnit) : (fenceUnit s u).power = s.power := rfl
@[simp] theorem fenceUnit_clocks (u : FailUnit) : (fenceUnit s u).clocks = s.clocks := rfl
@[simp] theorem fenceUnit_life (u : FailUnit) : (fenceUnit s u).life = s.life := rfl
@[simp] theorem fenceUnit_mgmt (u : FailUnit) : (fenceUnit s u).mgmt = s.mgmt := rfl

theorem mem_fenceUnit (u : FailUnit) : u ∈ (fenceUnit s u).wear.units := List.mem_cons_self

/-! ## modUnit -/

@[simp] theorem State.modUnit_pending (d : DieId) (f : DieUnits → DieUnits) : (s.modUnit d f).pending = s.pending := rfl
@[simp] theorem State.modUnit_now (d : DieId) (f : DieUnits → DieUnits) : (s.modUnit d f).now = s.now := rfl
@[simp] theorem State.modUnit_out (d : DieId) (f : DieUnits → DieUnits) : (s.modUnit d f).out = s.out := rfl
@[simp] theorem State.modUnit_free (d : DieId) (f : DieUnits → DieUnits) : (s.modUnit d f).free = s.free := rfl
@[simp] theorem State.modUnit_dict (d : DieId) (f : DieUnits → DieUnits) : (s.modUnit d f).dict = s.dict := rfl
@[simp] theorem State.modUnit_mem (d : DieId) (f : DieUnits → DieUnits) : (s.modUnit d f).mem = s.mem := rfl
@[simp] theorem State.modUnit_pageDev (d : DieId) (f : DieUnits → DieUnits) : (s.modUnit d f).pageDev = s.pageDev := rfl
@[simp] theorem State.modUnit_byteDev (d : DieId) (f : DieUnits → DieUnits) : (s.modUnit d f).byteDev = s.byteDev := rfl
@[simp] theorem State.modUnit_scratch (d : DieId) (f : DieUnits → DieUnits) : (s.modUnit d f).scratch = s.scratch := rfl
@[simp] theorem State.modUnit_wordDev (d : DieId) (f : DieUnits → DieUnits) : (s.modUnit d f).wordDev = s.wordDev := rfl
@[simp] theorem State.modUnit_fenceLog (d : DieId) (f : DieUnits → DieUnits) : (s.modUnit d f).fenceLog = s.fenceLog := rfl
@[simp] theorem State.modUnit_wear (d : DieId) (f : DieUnits → DieUnits) : (s.modUnit d f).wear = s.wear := rfl
@[simp] theorem State.modUnit_cores (d : DieId) (f : DieUnits → DieUnits) : (s.modUnit d f).cores = s.cores := rfl
@[simp] theorem State.modUnit_dies (d : DieId) (f : DieUnits → DieUnits) : (s.modUnit d f).dies = s.dies := rfl
@[simp] theorem State.modUnit_host (d : DieId) (f : DieUnits → DieUnits) : (s.modUnit d f).host = s.host := rfl
@[simp] theorem State.modUnit_irq (d : DieId) (f : DieUnits → DieUnits) : (s.modUnit d f).irq = s.irq := rfl
@[simp] theorem State.modUnit_run (d : DieId) (f : DieUnits → DieUnits) : (s.modUnit d f).run = s.run := rfl
@[simp] theorem State.modUnit_tick (d : DieId) (f : DieUnits → DieUnits) : (s.modUnit d f).tick = s.tick := rfl
@[simp] theorem State.modUnit_fabric (d : DieId) (f : DieUnits → DieUnits) : (s.modUnit d f).fabric = s.fabric := rfl
@[simp] theorem State.modUnit_cirrusOn (d : DieId) (f : DieUnits → DieUnits) : (s.modUnit d f).cirrusOn = s.cirrusOn := rfl
@[simp] theorem State.modUnit_faulted (d : DieId) (f : DieUnits → DieUnits) : (s.modUnit d f).faulted = s.faulted := rfl
@[simp] theorem State.modUnit_power (d : DieId) (f : DieUnits → DieUnits) : (s.modUnit d f).power = s.power := rfl
@[simp] theorem State.modUnit_clocks (d : DieId) (f : DieUnits → DieUnits) : (s.modUnit d f).clocks = s.clocks := rfl
@[simp] theorem State.modUnit_life (d : DieId) (f : DieUnits → DieUnits) : (s.modUnit d f).life = s.life := rfl
@[simp] theorem State.modUnit_mgmt (d : DieId) (f : DieUnits → DieUnits) : (s.modUnit d f).mgmt = s.mgmt := rfl

/-! ## modTick -/

@[simp] theorem State.modTick_pending (f : TickNet → TickNet) : (s.modTick f).pending = s.pending := rfl
@[simp] theorem State.modTick_now (f : TickNet → TickNet) : (s.modTick f).now = s.now := rfl
@[simp] theorem State.modTick_out (f : TickNet → TickNet) : (s.modTick f).out = s.out := rfl
@[simp] theorem State.modTick_free (f : TickNet → TickNet) : (s.modTick f).free = s.free := rfl
@[simp] theorem State.modTick_dict (f : TickNet → TickNet) : (s.modTick f).dict = s.dict := rfl
@[simp] theorem State.modTick_mem (f : TickNet → TickNet) : (s.modTick f).mem = s.mem := rfl
@[simp] theorem State.modTick_pageDev (f : TickNet → TickNet) : (s.modTick f).pageDev = s.pageDev := rfl
@[simp] theorem State.modTick_byteDev (f : TickNet → TickNet) : (s.modTick f).byteDev = s.byteDev := rfl
@[simp] theorem State.modTick_scratch (f : TickNet → TickNet) : (s.modTick f).scratch = s.scratch := rfl
@[simp] theorem State.modTick_wordDev (f : TickNet → TickNet) : (s.modTick f).wordDev = s.wordDev := rfl
@[simp] theorem State.modTick_fenceLog (f : TickNet → TickNet) : (s.modTick f).fenceLog = s.fenceLog := rfl
@[simp] theorem State.modTick_wear (f : TickNet → TickNet) : (s.modTick f).wear = s.wear := rfl
@[simp] theorem State.modTick_cores (f : TickNet → TickNet) : (s.modTick f).cores = s.cores := rfl
@[simp] theorem State.modTick_dies (f : TickNet → TickNet) : (s.modTick f).dies = s.dies := rfl
@[simp] theorem State.modTick_host (f : TickNet → TickNet) : (s.modTick f).host = s.host := rfl
@[simp] theorem State.modTick_irq (f : TickNet → TickNet) : (s.modTick f).irq = s.irq := rfl
@[simp] theorem State.modTick_run (f : TickNet → TickNet) : (s.modTick f).run = s.run := rfl
@[simp] theorem State.modTick_fabric (f : TickNet → TickNet) : (s.modTick f).fabric = s.fabric := rfl
@[simp] theorem State.modTick_units (f : TickNet → TickNet) : (s.modTick f).units = s.units := rfl
@[simp] theorem State.modTick_cirrusOn (f : TickNet → TickNet) : (s.modTick f).cirrusOn = s.cirrusOn := rfl
@[simp] theorem State.modTick_faulted (f : TickNet → TickNet) : (s.modTick f).faulted = s.faulted := rfl
@[simp] theorem State.modTick_power (f : TickNet → TickNet) : (s.modTick f).power = s.power := rfl
@[simp] theorem State.modTick_clocks (f : TickNet → TickNet) : (s.modTick f).clocks = s.clocks := rfl
@[simp] theorem State.modTick_life (f : TickNet → TickNet) : (s.modTick f).life = s.life := rfl
@[simp] theorem State.modTick_mgmt (f : TickNet → TickNet) : (s.modTick f).mgmt = s.mgmt := rfl

/-! ## modPdie -/

@[simp] theorem State.modPdie_pending (d : DieId) (f : PowerDie → PowerDie) : (s.modPdie d f).pending = s.pending := rfl
@[simp] theorem State.modPdie_now (d : DieId) (f : PowerDie → PowerDie) : (s.modPdie d f).now = s.now := rfl
@[simp] theorem State.modPdie_out (d : DieId) (f : PowerDie → PowerDie) : (s.modPdie d f).out = s.out := rfl
@[simp] theorem State.modPdie_free (d : DieId) (f : PowerDie → PowerDie) : (s.modPdie d f).free = s.free := rfl
@[simp] theorem State.modPdie_dict (d : DieId) (f : PowerDie → PowerDie) : (s.modPdie d f).dict = s.dict := rfl
@[simp] theorem State.modPdie_mem (d : DieId) (f : PowerDie → PowerDie) : (s.modPdie d f).mem = s.mem := rfl
@[simp] theorem State.modPdie_pageDev (d : DieId) (f : PowerDie → PowerDie) : (s.modPdie d f).pageDev = s.pageDev := rfl
@[simp] theorem State.modPdie_byteDev (d : DieId) (f : PowerDie → PowerDie) : (s.modPdie d f).byteDev = s.byteDev := rfl
@[simp] theorem State.modPdie_scratch (d : DieId) (f : PowerDie → PowerDie) : (s.modPdie d f).scratch = s.scratch := rfl
@[simp] theorem State.modPdie_wordDev (d : DieId) (f : PowerDie → PowerDie) : (s.modPdie d f).wordDev = s.wordDev := rfl
@[simp] theorem State.modPdie_fenceLog (d : DieId) (f : PowerDie → PowerDie) : (s.modPdie d f).fenceLog = s.fenceLog := rfl
@[simp] theorem State.modPdie_wear (d : DieId) (f : PowerDie → PowerDie) : (s.modPdie d f).wear = s.wear := rfl
@[simp] theorem State.modPdie_cores (d : DieId) (f : PowerDie → PowerDie) : (s.modPdie d f).cores = s.cores := rfl
@[simp] theorem State.modPdie_dies (d : DieId) (f : PowerDie → PowerDie) : (s.modPdie d f).dies = s.dies := rfl
@[simp] theorem State.modPdie_host (d : DieId) (f : PowerDie → PowerDie) : (s.modPdie d f).host = s.host := rfl
@[simp] theorem State.modPdie_irq (d : DieId) (f : PowerDie → PowerDie) : (s.modPdie d f).irq = s.irq := rfl
@[simp] theorem State.modPdie_run (d : DieId) (f : PowerDie → PowerDie) : (s.modPdie d f).run = s.run := rfl
@[simp] theorem State.modPdie_tick (d : DieId) (f : PowerDie → PowerDie) : (s.modPdie d f).tick = s.tick := rfl
@[simp] theorem State.modPdie_fabric (d : DieId) (f : PowerDie → PowerDie) : (s.modPdie d f).fabric = s.fabric := rfl
@[simp] theorem State.modPdie_units (d : DieId) (f : PowerDie → PowerDie) : (s.modPdie d f).units = s.units := rfl
@[simp] theorem State.modPdie_cirrusOn (d : DieId) (f : PowerDie → PowerDie) : (s.modPdie d f).cirrusOn = s.cirrusOn := rfl
@[simp] theorem State.modPdie_faulted (d : DieId) (f : PowerDie → PowerDie) : (s.modPdie d f).faulted = s.faulted := rfl
@[simp] theorem State.modPdie_clocks (d : DieId) (f : PowerDie → PowerDie) : (s.modPdie d f).clocks = s.clocks := rfl
@[simp] theorem State.modPdie_life (d : DieId) (f : PowerDie → PowerDie) : (s.modPdie d f).life = s.life := rfl
@[simp] theorem State.modPdie_mgmt (d : DieId) (f : PowerDie → PowerDie) : (s.modPdie d f).mgmt = s.mgmt := rfl

/-! ## modClk -/

@[simp] theorem State.modClk_pending (c : CoreId) (f : CoreClk → CoreClk) : (s.modClk c f).pending = s.pending := rfl
@[simp] theorem State.modClk_now (c : CoreId) (f : CoreClk → CoreClk) : (s.modClk c f).now = s.now := rfl
@[simp] theorem State.modClk_out (c : CoreId) (f : CoreClk → CoreClk) : (s.modClk c f).out = s.out := rfl
@[simp] theorem State.modClk_free (c : CoreId) (f : CoreClk → CoreClk) : (s.modClk c f).free = s.free := rfl
@[simp] theorem State.modClk_dict (c : CoreId) (f : CoreClk → CoreClk) : (s.modClk c f).dict = s.dict := rfl
@[simp] theorem State.modClk_mem (c : CoreId) (f : CoreClk → CoreClk) : (s.modClk c f).mem = s.mem := rfl
@[simp] theorem State.modClk_pageDev (c : CoreId) (f : CoreClk → CoreClk) : (s.modClk c f).pageDev = s.pageDev := rfl
@[simp] theorem State.modClk_byteDev (c : CoreId) (f : CoreClk → CoreClk) : (s.modClk c f).byteDev = s.byteDev := rfl
@[simp] theorem State.modClk_scratch (c : CoreId) (f : CoreClk → CoreClk) : (s.modClk c f).scratch = s.scratch := rfl
@[simp] theorem State.modClk_wordDev (c : CoreId) (f : CoreClk → CoreClk) : (s.modClk c f).wordDev = s.wordDev := rfl
@[simp] theorem State.modClk_fenceLog (c : CoreId) (f : CoreClk → CoreClk) : (s.modClk c f).fenceLog = s.fenceLog := rfl
@[simp] theorem State.modClk_wear (c : CoreId) (f : CoreClk → CoreClk) : (s.modClk c f).wear = s.wear := rfl
@[simp] theorem State.modClk_cores (c : CoreId) (f : CoreClk → CoreClk) : (s.modClk c f).cores = s.cores := rfl
@[simp] theorem State.modClk_dies (c : CoreId) (f : CoreClk → CoreClk) : (s.modClk c f).dies = s.dies := rfl
@[simp] theorem State.modClk_host (c : CoreId) (f : CoreClk → CoreClk) : (s.modClk c f).host = s.host := rfl
@[simp] theorem State.modClk_irq (c : CoreId) (f : CoreClk → CoreClk) : (s.modClk c f).irq = s.irq := rfl
@[simp] theorem State.modClk_run (c : CoreId) (f : CoreClk → CoreClk) : (s.modClk c f).run = s.run := rfl
@[simp] theorem State.modClk_tick (c : CoreId) (f : CoreClk → CoreClk) : (s.modClk c f).tick = s.tick := rfl
@[simp] theorem State.modClk_fabric (c : CoreId) (f : CoreClk → CoreClk) : (s.modClk c f).fabric = s.fabric := rfl
@[simp] theorem State.modClk_units (c : CoreId) (f : CoreClk → CoreClk) : (s.modClk c f).units = s.units := rfl
@[simp] theorem State.modClk_cirrusOn (c : CoreId) (f : CoreClk → CoreClk) : (s.modClk c f).cirrusOn = s.cirrusOn := rfl
@[simp] theorem State.modClk_faulted (c : CoreId) (f : CoreClk → CoreClk) : (s.modClk c f).faulted = s.faulted := rfl
@[simp] theorem State.modClk_clocks (c : CoreId) (f : CoreClk → CoreClk) : (s.modClk c f).clocks = s.clocks := rfl
@[simp] theorem State.modClk_life (c : CoreId) (f : CoreClk → CoreClk) : (s.modClk c f).life = s.life := rfl
@[simp] theorem State.modClk_mgmt (c : CoreId) (f : CoreClk → CoreClk) : (s.modClk c f).mgmt = s.mgmt := rfl

/-! ## modGroup -/

@[simp] theorem State.modGroup_pending (g : Fin 20) (f : RailGroup → RailGroup) : (s.modGroup g f).pending = s.pending := rfl
@[simp] theorem State.modGroup_now (g : Fin 20) (f : RailGroup → RailGroup) : (s.modGroup g f).now = s.now := rfl
@[simp] theorem State.modGroup_out (g : Fin 20) (f : RailGroup → RailGroup) : (s.modGroup g f).out = s.out := rfl
@[simp] theorem State.modGroup_free (g : Fin 20) (f : RailGroup → RailGroup) : (s.modGroup g f).free = s.free := rfl
@[simp] theorem State.modGroup_dict (g : Fin 20) (f : RailGroup → RailGroup) : (s.modGroup g f).dict = s.dict := rfl
@[simp] theorem State.modGroup_mem (g : Fin 20) (f : RailGroup → RailGroup) : (s.modGroup g f).mem = s.mem := rfl
@[simp] theorem State.modGroup_pageDev (g : Fin 20) (f : RailGroup → RailGroup) : (s.modGroup g f).pageDev = s.pageDev := rfl
@[simp] theorem State.modGroup_byteDev (g : Fin 20) (f : RailGroup → RailGroup) : (s.modGroup g f).byteDev = s.byteDev := rfl
@[simp] theorem State.modGroup_scratch (g : Fin 20) (f : RailGroup → RailGroup) : (s.modGroup g f).scratch = s.scratch := rfl
@[simp] theorem State.modGroup_wordDev (g : Fin 20) (f : RailGroup → RailGroup) : (s.modGroup g f).wordDev = s.wordDev := rfl
@[simp] theorem State.modGroup_fenceLog (g : Fin 20) (f : RailGroup → RailGroup) : (s.modGroup g f).fenceLog = s.fenceLog := rfl
@[simp] theorem State.modGroup_wear (g : Fin 20) (f : RailGroup → RailGroup) : (s.modGroup g f).wear = s.wear := rfl
@[simp] theorem State.modGroup_cores (g : Fin 20) (f : RailGroup → RailGroup) : (s.modGroup g f).cores = s.cores := rfl
@[simp] theorem State.modGroup_dies (g : Fin 20) (f : RailGroup → RailGroup) : (s.modGroup g f).dies = s.dies := rfl
@[simp] theorem State.modGroup_host (g : Fin 20) (f : RailGroup → RailGroup) : (s.modGroup g f).host = s.host := rfl
@[simp] theorem State.modGroup_irq (g : Fin 20) (f : RailGroup → RailGroup) : (s.modGroup g f).irq = s.irq := rfl
@[simp] theorem State.modGroup_run (g : Fin 20) (f : RailGroup → RailGroup) : (s.modGroup g f).run = s.run := rfl
@[simp] theorem State.modGroup_tick (g : Fin 20) (f : RailGroup → RailGroup) : (s.modGroup g f).tick = s.tick := rfl
@[simp] theorem State.modGroup_fabric (g : Fin 20) (f : RailGroup → RailGroup) : (s.modGroup g f).fabric = s.fabric := rfl
@[simp] theorem State.modGroup_units (g : Fin 20) (f : RailGroup → RailGroup) : (s.modGroup g f).units = s.units := rfl
@[simp] theorem State.modGroup_cirrusOn (g : Fin 20) (f : RailGroup → RailGroup) : (s.modGroup g f).cirrusOn = s.cirrusOn := rfl
@[simp] theorem State.modGroup_faulted (g : Fin 20) (f : RailGroup → RailGroup) : (s.modGroup g f).faulted = s.faulted := rfl
@[simp] theorem State.modGroup_clocks (g : Fin 20) (f : RailGroup → RailGroup) : (s.modGroup g f).clocks = s.clocks := rfl
@[simp] theorem State.modGroup_life (g : Fin 20) (f : RailGroup → RailGroup) : (s.modGroup g f).life = s.life := rfl
@[simp] theorem State.modGroup_mgmt (g : Fin 20) (f : RailGroup → RailGroup) : (s.modGroup g f).mgmt = s.mgmt := rfl

/-! ## modRemote -/

@[simp] theorem State.modRemote_pending (n : Fin 8) (f : Remote → Remote) : (s.modRemote n f).pending = s.pending := rfl
@[simp] theorem State.modRemote_now (n : Fin 8) (f : Remote → Remote) : (s.modRemote n f).now = s.now := rfl
@[simp] theorem State.modRemote_out (n : Fin 8) (f : Remote → Remote) : (s.modRemote n f).out = s.out := rfl
@[simp] theorem State.modRemote_free (n : Fin 8) (f : Remote → Remote) : (s.modRemote n f).free = s.free := rfl
@[simp] theorem State.modRemote_dict (n : Fin 8) (f : Remote → Remote) : (s.modRemote n f).dict = s.dict := rfl
@[simp] theorem State.modRemote_mem (n : Fin 8) (f : Remote → Remote) : (s.modRemote n f).mem = s.mem := rfl
@[simp] theorem State.modRemote_pageDev (n : Fin 8) (f : Remote → Remote) : (s.modRemote n f).pageDev = s.pageDev := rfl
@[simp] theorem State.modRemote_byteDev (n : Fin 8) (f : Remote → Remote) : (s.modRemote n f).byteDev = s.byteDev := rfl
@[simp] theorem State.modRemote_scratch (n : Fin 8) (f : Remote → Remote) : (s.modRemote n f).scratch = s.scratch := rfl
@[simp] theorem State.modRemote_wordDev (n : Fin 8) (f : Remote → Remote) : (s.modRemote n f).wordDev = s.wordDev := rfl
@[simp] theorem State.modRemote_fenceLog (n : Fin 8) (f : Remote → Remote) : (s.modRemote n f).fenceLog = s.fenceLog := rfl
@[simp] theorem State.modRemote_wear (n : Fin 8) (f : Remote → Remote) : (s.modRemote n f).wear = s.wear := rfl
@[simp] theorem State.modRemote_cores (n : Fin 8) (f : Remote → Remote) : (s.modRemote n f).cores = s.cores := rfl
@[simp] theorem State.modRemote_dies (n : Fin 8) (f : Remote → Remote) : (s.modRemote n f).dies = s.dies := rfl
@[simp] theorem State.modRemote_host (n : Fin 8) (f : Remote → Remote) : (s.modRemote n f).host = s.host := rfl
@[simp] theorem State.modRemote_irq (n : Fin 8) (f : Remote → Remote) : (s.modRemote n f).irq = s.irq := rfl
@[simp] theorem State.modRemote_run (n : Fin 8) (f : Remote → Remote) : (s.modRemote n f).run = s.run := rfl
@[simp] theorem State.modRemote_tick (n : Fin 8) (f : Remote → Remote) : (s.modRemote n f).tick = s.tick := rfl
@[simp] theorem State.modRemote_fabric (n : Fin 8) (f : Remote → Remote) : (s.modRemote n f).fabric = s.fabric := rfl
@[simp] theorem State.modRemote_units (n : Fin 8) (f : Remote → Remote) : (s.modRemote n f).units = s.units := rfl
@[simp] theorem State.modRemote_cirrusOn (n : Fin 8) (f : Remote → Remote) : (s.modRemote n f).cirrusOn = s.cirrusOn := rfl
@[simp] theorem State.modRemote_faulted (n : Fin 8) (f : Remote → Remote) : (s.modRemote n f).faulted = s.faulted := rfl
@[simp] theorem State.modRemote_clocks (n : Fin 8) (f : Remote → Remote) : (s.modRemote n f).clocks = s.clocks := rfl
@[simp] theorem State.modRemote_life (n : Fin 8) (f : Remote → Remote) : (s.modRemote n f).life = s.life := rfl
@[simp] theorem State.modRemote_mgmt (n : Fin 8) (f : Remote → Remote) : (s.modRemote n f).mgmt = s.mgmt := rfl

/-! ## modLife -/

@[simp] theorem State.modLife_pending (f : Life → Life) : (s.modLife f).pending = s.pending := rfl
@[simp] theorem State.modLife_now (f : Life → Life) : (s.modLife f).now = s.now := rfl
@[simp] theorem State.modLife_out (f : Life → Life) : (s.modLife f).out = s.out := rfl
@[simp] theorem State.modLife_free (f : Life → Life) : (s.modLife f).free = s.free := rfl
@[simp] theorem State.modLife_dict (f : Life → Life) : (s.modLife f).dict = s.dict := rfl
@[simp] theorem State.modLife_mem (f : Life → Life) : (s.modLife f).mem = s.mem := rfl
@[simp] theorem State.modLife_pageDev (f : Life → Life) : (s.modLife f).pageDev = s.pageDev := rfl
@[simp] theorem State.modLife_byteDev (f : Life → Life) : (s.modLife f).byteDev = s.byteDev := rfl
@[simp] theorem State.modLife_scratch (f : Life → Life) : (s.modLife f).scratch = s.scratch := rfl
@[simp] theorem State.modLife_wordDev (f : Life → Life) : (s.modLife f).wordDev = s.wordDev := rfl
@[simp] theorem State.modLife_fenceLog (f : Life → Life) : (s.modLife f).fenceLog = s.fenceLog := rfl
@[simp] theorem State.modLife_wear (f : Life → Life) : (s.modLife f).wear = s.wear := rfl
@[simp] theorem State.modLife_cores (f : Life → Life) : (s.modLife f).cores = s.cores := rfl
@[simp] theorem State.modLife_dies (f : Life → Life) : (s.modLife f).dies = s.dies := rfl
@[simp] theorem State.modLife_host (f : Life → Life) : (s.modLife f).host = s.host := rfl
@[simp] theorem State.modLife_irq (f : Life → Life) : (s.modLife f).irq = s.irq := rfl
@[simp] theorem State.modLife_run (f : Life → Life) : (s.modLife f).run = s.run := rfl
@[simp] theorem State.modLife_tick (f : Life → Life) : (s.modLife f).tick = s.tick := rfl
@[simp] theorem State.modLife_fabric (f : Life → Life) : (s.modLife f).fabric = s.fabric := rfl
@[simp] theorem State.modLife_units (f : Life → Life) : (s.modLife f).units = s.units := rfl
@[simp] theorem State.modLife_cirrusOn (f : Life → Life) : (s.modLife f).cirrusOn = s.cirrusOn := rfl
@[simp] theorem State.modLife_faulted (f : Life → Life) : (s.modLife f).faulted = s.faulted := rfl
@[simp] theorem State.modLife_power (f : Life → Life) : (s.modLife f).power = s.power := rfl
@[simp] theorem State.modLife_clocks (f : Life → Life) : (s.modLife f).clocks = s.clocks := rfl
@[simp] theorem State.modLife_mgmt (f : Life → Life) : (s.modLife f).mgmt = s.mgmt := rfl

/-! ## modClocks -/

@[simp] theorem State.modClocks_pending (f : Clocks → Clocks) : (s.modClocks f).pending = s.pending := rfl
@[simp] theorem State.modClocks_now (f : Clocks → Clocks) : (s.modClocks f).now = s.now := rfl
@[simp] theorem State.modClocks_out (f : Clocks → Clocks) : (s.modClocks f).out = s.out := rfl
@[simp] theorem State.modClocks_free (f : Clocks → Clocks) : (s.modClocks f).free = s.free := rfl
@[simp] theorem State.modClocks_dict (f : Clocks → Clocks) : (s.modClocks f).dict = s.dict := rfl
@[simp] theorem State.modClocks_mem (f : Clocks → Clocks) : (s.modClocks f).mem = s.mem := rfl
@[simp] theorem State.modClocks_pageDev (f : Clocks → Clocks) : (s.modClocks f).pageDev = s.pageDev := rfl
@[simp] theorem State.modClocks_byteDev (f : Clocks → Clocks) : (s.modClocks f).byteDev = s.byteDev := rfl
@[simp] theorem State.modClocks_scratch (f : Clocks → Clocks) : (s.modClocks f).scratch = s.scratch := rfl
@[simp] theorem State.modClocks_wordDev (f : Clocks → Clocks) : (s.modClocks f).wordDev = s.wordDev := rfl
@[simp] theorem State.modClocks_fenceLog (f : Clocks → Clocks) : (s.modClocks f).fenceLog = s.fenceLog := rfl
@[simp] theorem State.modClocks_wear (f : Clocks → Clocks) : (s.modClocks f).wear = s.wear := rfl
@[simp] theorem State.modClocks_cores (f : Clocks → Clocks) : (s.modClocks f).cores = s.cores := rfl
@[simp] theorem State.modClocks_dies (f : Clocks → Clocks) : (s.modClocks f).dies = s.dies := rfl
@[simp] theorem State.modClocks_host (f : Clocks → Clocks) : (s.modClocks f).host = s.host := rfl
@[simp] theorem State.modClocks_irq (f : Clocks → Clocks) : (s.modClocks f).irq = s.irq := rfl
@[simp] theorem State.modClocks_run (f : Clocks → Clocks) : (s.modClocks f).run = s.run := rfl
@[simp] theorem State.modClocks_tick (f : Clocks → Clocks) : (s.modClocks f).tick = s.tick := rfl
@[simp] theorem State.modClocks_fabric (f : Clocks → Clocks) : (s.modClocks f).fabric = s.fabric := rfl
@[simp] theorem State.modClocks_units (f : Clocks → Clocks) : (s.modClocks f).units = s.units := rfl
@[simp] theorem State.modClocks_cirrusOn (f : Clocks → Clocks) : (s.modClocks f).cirrusOn = s.cirrusOn := rfl
@[simp] theorem State.modClocks_faulted (f : Clocks → Clocks) : (s.modClocks f).faulted = s.faulted := rfl
@[simp] theorem State.modClocks_power (f : Clocks → Clocks) : (s.modClocks f).power = s.power := rfl
@[simp] theorem State.modClocks_life (f : Clocks → Clocks) : (s.modClocks f).life = s.life := rfl
@[simp] theorem State.modClocks_mgmt (f : Clocks → Clocks) : (s.modClocks f).mgmt = s.mgmt := rfl

/-! ## modQueue -/

@[simp] theorem modQueue_pending (q : Fin 64) (f : HostQueue → HostQueue) : (modQueue s q f).pending = s.pending := rfl
@[simp] theorem modQueue_now (q : Fin 64) (f : HostQueue → HostQueue) : (modQueue s q f).now = s.now := rfl
@[simp] theorem modQueue_out (q : Fin 64) (f : HostQueue → HostQueue) : (modQueue s q f).out = s.out := rfl
@[simp] theorem modQueue_free (q : Fin 64) (f : HostQueue → HostQueue) : (modQueue s q f).free = s.free := rfl
@[simp] theorem modQueue_dict (q : Fin 64) (f : HostQueue → HostQueue) : (modQueue s q f).dict = s.dict := rfl
@[simp] theorem modQueue_mem (q : Fin 64) (f : HostQueue → HostQueue) : (modQueue s q f).mem = s.mem := rfl
@[simp] theorem modQueue_pageDev (q : Fin 64) (f : HostQueue → HostQueue) : (modQueue s q f).pageDev = s.pageDev := rfl
@[simp] theorem modQueue_byteDev (q : Fin 64) (f : HostQueue → HostQueue) : (modQueue s q f).byteDev = s.byteDev := rfl
@[simp] theorem modQueue_scratch (q : Fin 64) (f : HostQueue → HostQueue) : (modQueue s q f).scratch = s.scratch := rfl
@[simp] theorem modQueue_wordDev (q : Fin 64) (f : HostQueue → HostQueue) : (modQueue s q f).wordDev = s.wordDev := rfl
@[simp] theorem modQueue_fenceLog (q : Fin 64) (f : HostQueue → HostQueue) : (modQueue s q f).fenceLog = s.fenceLog := rfl
@[simp] theorem modQueue_wear (q : Fin 64) (f : HostQueue → HostQueue) : (modQueue s q f).wear = s.wear := rfl
@[simp] theorem modQueue_cores (q : Fin 64) (f : HostQueue → HostQueue) : (modQueue s q f).cores = s.cores := rfl
@[simp] theorem modQueue_dies (q : Fin 64) (f : HostQueue → HostQueue) : (modQueue s q f).dies = s.dies := rfl
@[simp] theorem modQueue_irq (q : Fin 64) (f : HostQueue → HostQueue) : (modQueue s q f).irq = s.irq := rfl
@[simp] theorem modQueue_run (q : Fin 64) (f : HostQueue → HostQueue) : (modQueue s q f).run = s.run := rfl
@[simp] theorem modQueue_tick (q : Fin 64) (f : HostQueue → HostQueue) : (modQueue s q f).tick = s.tick := rfl
@[simp] theorem modQueue_fabric (q : Fin 64) (f : HostQueue → HostQueue) : (modQueue s q f).fabric = s.fabric := rfl
@[simp] theorem modQueue_units (q : Fin 64) (f : HostQueue → HostQueue) : (modQueue s q f).units = s.units := rfl
@[simp] theorem modQueue_cirrusOn (q : Fin 64) (f : HostQueue → HostQueue) : (modQueue s q f).cirrusOn = s.cirrusOn := rfl
@[simp] theorem modQueue_faulted (q : Fin 64) (f : HostQueue → HostQueue) : (modQueue s q f).faulted = s.faulted := rfl
@[simp] theorem modQueue_power (q : Fin 64) (f : HostQueue → HostQueue) : (modQueue s q f).power = s.power := rfl
@[simp] theorem modQueue_clocks (q : Fin 64) (f : HostQueue → HostQueue) : (modQueue s q f).clocks = s.clocks := rfl
@[simp] theorem modQueue_life (q : Fin 64) (f : HostQueue → HostQueue) : (modQueue s q f).life = s.life := rfl
@[simp] theorem modQueue_mgmt (q : Fin 64) (f : HostQueue → HostQueue) : (modQueue s q f).mgmt = s.mgmt := rfl

/-! ## What is read after an update -/

@[simp] theorem State.core_setCore_same (c : CoreId) (x : CoreState) : (s.setCore c x).core c = x := by
  simp [State.core, State.setCore]

theorem State.core_setCore_ne {c c' : CoreId} (x : CoreState) (h : c' ≠ c) : (s.setCore c x).core c' = s.core c' := by
  have h' : c.val ≠ c'.val := fun e => h (Fin.ext e.symm)
  simp [State.core, State.setCore, h']

@[simp] theorem State.core_modCore_same (c : CoreId) (f : CoreState → CoreState) : (s.modCore c f).core c = f (s.core c) :=
  State.core_setCore_same s c _

theorem State.core_modCore_ne {c c' : CoreId} (f : CoreState → CoreState) (h : c' ≠ c) : (s.modCore c f).core c' = s.core c' :=
  State.core_setCore_ne s _ h

@[simp] theorem vmod_same {α : Type} {n : Nat} (v : Vector α n) (i : Fin n) (f : α → α) : (vmod v i f)[i] = f v[i] := by
  simp [vmod]

theorem vmod_ne {α : Type} {n : Nat} (v : Vector α n) {i j : Fin n} (f : α → α) (h : j ≠ i) : (vmod v i f)[j] = v[j] := by
  have h' : i.val ≠ j.val := fun e => h (Fin.ext e.symm)
  simp [vmod, h']

@[simp] theorem State.die_modDie_same (d : DieId) (f : DieMem → DieMem) : (s.modDie d f).die d = f (s.die d) :=
  vmod_same _ d f

theorem State.die_modDie_ne {d d' : DieId} (f : DieMem → DieMem) (h : d' ≠ d) : (s.modDie d f).die d' = s.die d' :=
  vmod_ne _ f h

@[simp] theorem State.port_modPort_same (p : PortId) (f : Port → Port) : (s.modPort p f).port p = f (s.port p) :=
  vmod_same _ p f

theorem State.port_modPort_ne {p p' : PortId} (f : Port → Port) (h : p' ≠ p) : (s.modPort p f).port p' = s.port p' :=
  vmod_ne _ f h

@[simp] theorem State.pdie_modPdie_same (d : DieId) (f : PowerDie → PowerDie) : (s.modPdie d f).pdie d = f (s.pdie d) :=
  vmod_same _ d f

theorem State.pdie_modPdie_ne {d d' : DieId} (f : PowerDie → PowerDie) (h : d' ≠ d) : (s.modPdie d f).pdie d' = s.pdie d' :=
  vmod_ne _ f h

@[simp] theorem queue_modQueue_same (q : Fin 64) (f : HostQueue → HostQueue) : (modQueue s q f).queue q = f (s.queue q) :=
  vmod_same _ q f

theorem queue_modQueue_ne {q q' : Fin 64} (f : HostQueue → HostQueue) (h : q' ≠ q) : (modQueue s q f).queue q' = s.queue q' :=
  vmod_ne _ f h

@[simp] theorem State.emit_out (o : Output) : (s.emit o).out = o :: s.out := rfl

@[simp] theorem State.obj_setObj_same (key v : Nat) : (s.setObj key v).obj key = v := by
  simp [State.obj, State.setObj]

theorem State.obj_setObj_ne {key k : Nat} (v : Nat) (h : k ≠ key) : (s.setObj key v).obj k = s.obj k :=
  kvGet_kvSet_list_ne s.dict v h
where
  /-- Another object's default is its own. -/
  kvGet_kvSet_list_ne (m : Kv Nat) (v : Nat) (h : k ≠ key) :
      kvGet (objDefault k) (kvSet (objDefault key) m key v) k = kvGet (objDefault k) m k := by
    unfold kvSet
    split
    · exact kvGet_kvDel_ne _ m h
    · rw [kvGet_kvIns_ne _ _ v h, kvGet_kvDel_ne _ m h]

@[simp] theorem State.obj_bumpBy_same (key n : Nat) : (s.bumpBy key n).obj key = (s.obj key + n) % 2 ^ objWidth key := by
  simp [State.bumpBy]

theorem State.obj_bumpBy_ne {key k : Nat} (n : Nat) (h : k ≠ key) : (s.bumpBy key n).obj k = s.obj k :=
  State.obj_setObj_ne s _ h

@[simp] theorem State.obj_bump_same (key : Nat) : (s.bump key).obj key = (s.obj key + 1) % 2 ^ objWidth key := by
  simp [State.bump]

theorem State.obj_bump_ne {key k : Nat} (h : k ≠ key) : (s.bump key).obj k = s.obj k := State.obj_bumpBy_ne s 1 h

theorem State.src_setSrc_same (n : Nat) (r : SrcRec) : (s.setSrc n r).src n = r := by
  simp [State.src, State.setSrc]

theorem State.src_setSrc_ne {n k : Nat} (r : SrcRec) (h : k ≠ n) : (s.setSrc n r).src k = s.src k := by
  unfold State.src State.setSrc kvSet
  simp only
  split
  · exact kvGet_kvDel_ne _ _ h
  · rw [kvGet_kvIns_ne _ _ r h, kvGet_kvDel_ne _ _ h]

@[simp] theorem State.ic_setIc_same (d : DieId) (x : IntCtl) : (s.setIc d x).ic d = x := by
  simp [State.ic, State.setIc]

theorem State.ic_setIc_ne {d d' : DieId} (x : IntCtl) (h : d' ≠ d) : (s.setIc d x).ic d' = s.ic d' := by
  have h' : d.val ≠ d'.val := fun e => h (Fin.ext e.symm)
  simp [State.ic, State.setIc, h']

@[simp] theorem State.when_true (f : State → State) : s.when true f = f s := rfl

@[simp] theorem State.when_false (f : State → State) : s.when false f = s := rfl

/-- What a conditional change keeps. -/
theorem State.when_keeps {β : Type} (g : State → β) (b : Bool) (f : State → State) (h : g (f s) = g s) : g (s.when b f) = g s := by
  cases b
  · rfl
  · exact h

/-- What every change of a sequence keeps, the sequence keeps. -/
theorem State.each_keeps {α β : Type} (g : State → β) (l : List α) (f : State → α → State)
    (h : ∀ t a, g (f t a) = g t) : g (s.each l f) = g s := by
  unfold State.each
  induction l generalizing s with
  | nil => rfl
  | cons a l ih => rw [List.foldl_cons, ih, h]

end Sys2Proof.Machine
end

