-- ==== Sys2Proof/Laws/Steady.lean ====
section
/-!
SUPPORT. Laws/Steady.lean: that the effects of the shared operations: dictionary, outputs, events, cache, memory, scratchpad, queues and
traps leave the waiting commands alone and keep memory and the scratchpads in canonical form. One lemma per
operation and per meaning: from a state that is steady against an earlier one, its effect is too.
-/
namespace Sys2Proof.Machine

/-- What every effect keeps: the commands that wait, and the canonical form of memory and of the scratchpads. -/
structure Steady (s t : State) : Prop where
  queue : t.pending = s.pending
  mem : memWf s.mem = true → memWf t.mem = true
  scratch : memWf s.scratch = true → memWf t.scratch = true

/-- The same of an outcome: what holds of its next state, if it has one. -/
structure SteadyR (s : State) (r : Result) : Prop where
  ofNext : ∀ t, r = .next t → Steady s t

theorem memWf_nil : memWf [] = true := rfl

theorem Steady.refl (s : State) : Steady s s := ⟨rfl, id, id⟩

theorem Steady.trans {s t u : State} (h : Steady s t) (k : Steady t u) : Steady s u :=
  ⟨k.queue.trans h.queue, fun m => k.mem (h.mem m), fun m => k.scratch (h.scratch m)⟩

theorem Steady.canonical {s t : State} (h : Steady s t) (k : s.MemCanonical) : t.MemCanonical :=
  ⟨h.mem k.1, h.scratch k.2⟩

theorem Steady.next {s t : State} (h : Steady s t) : SteadyR s (.next t) := ⟨fun _ e => by
  cases e; exact h⟩

/-- A record update that leaves the queue alone, and puts canonical memories in place. -/
theorem Steady.mk' {s t : State} {now out free dict mem pageDev byteDev scratch wordDev fenceLog wear cores dies host irq run tick
    fabric units cirrusOn faulted power clocks life mgmt} (h : Steady s t)
    (hm : memWf t.mem = true → memWf mem = true) (hs : memWf t.scratch = true → memWf scratch = true) :
    Steady s ⟨t.pending, now, out, free, dict, mem, pageDev, byteDev, scratch, wordDev, fenceLog, wear, cores, dies, host, irq, run,
      tick, fabric, units, cirrusOn, faulted, power, clocks, life, mgmt⟩ :=
  ⟨h.queue, fun m => hm (h.mem m), fun m => hs (h.scratch m)⟩

theorem Steady.ite {s t u : State} {c : Prop} [Decidable c] (h : Steady s t) (k : Steady s u) : Steady s (if c then t else u) := by
  split
  · exact h
  · exact k

theorem Steady.foldl {α : Type} {s t : State} (h : Steady s t) (l : List α) (f : State → α → State)
    (hf : ∀ u a, Steady s u → Steady s (f u a)) : Steady s (l.foldl f t) := by
  induction l generalizing t with
  | nil => exact h
  | cons a l ih => exact ih (hf _ _ h)

theorem Steady.foldlFst {α β : Type} {s : State} {p : State × β} (h : Steady s p.1) (l : List α) (f : State × β → α → State × β)
    (hf : ∀ u a, Steady s u.1 → Steady s (f u a).1) : Steady s (l.foldl f p).1 := by
  induction l generalizing p with
  | nil => exact h
  | cons a l ih => exact ih (hf _ _ h)

theorem Steady.foldlSnd {α β : Type} {s : State} {p : β × State} (h : Steady s p.2) (l : List α) (f : β × State → α → β × State)
    (hf : ∀ u a, Steady s u.2 → Steady s (f u a).2) : Steady s (l.foldl f p).2 := by
  induction l generalizing p with
  | nil => exact h
  | cons a l ih => exact ih (hf _ _ h)

theorem Steady.foldlSnd2 {α β γ : Type} {s : State} {p : β × γ × State} (h : Steady s p.2.2) (l : List α)
    (f : β × γ × State → α → β × γ × State) (hf : ∀ u a, Steady s u.2.2 → Steady s (f u a).2.2) :
    Steady s (l.foldl f p).2.2 := by
  induction l generalizing p with
  | nil => exact h
  | cons a l ih => exact ih (hf _ _ h)

theorem Steady.foldlSnd3 {α β γ δ : Type} {s : State} {p : β × γ × δ × State} (h : Steady s p.2.2.2) (l : List α)
    (f : β × γ × δ × State → α → β × γ × δ × State) (hf : ∀ u a, Steady s u.2.2.2 → Steady s (f u a).2.2.2) :
    Steady s (l.foldl f p).2.2.2 := by
  induction l generalizing p with
  | nil => exact h
  | cons a l ih => exact ih (hf _ _ h)

/-- A fold over a record that holds a state at `g`. -/
theorem Steady.foldlAt {α β : Type} {s : State} (g : β → State) {p : β} (h : Steady s (g p)) (l : List α) (f : β → α → β)
    (hf : ∀ u a, Steady s (g u) → Steady s (g (f u a))) : Steady s (g (l.foldl f p)) := by
  induction l generalizing p with
  | nil => exact h
  | cons a l ih => exact ih (hf _ _ h)

theorem Steady.foldlLoad {α : Type} {s : State} {p : Load} (h : Steady s p.s) (l : List α) (f : Load → α → Load)
    (hf : ∀ u a, Steady s u.s → Steady s (f u a).s) : Steady s (l.foldl f p).s := Steady.foldlAt Load.s h l f hf

theorem Steady.foldlSeg {α : Type} {s : State} {p : SegOut} (h : Steady s p.s) (l : List α) (f : SegOut → α → SegOut)
    (hf : ∀ u a, Steady s u.s → Steady s (f u a).s) : Steady s (l.foldl f p).s := Steady.foldlAt SegOut.s h l f hf

theorem Steady.foldlImport {α : Type} {s : State} {p : ImportRun} (h : Steady s p.s) (l : List α)
    (f : ImportRun → α → ImportRun) (hf : ∀ u a, Steady s u.s → Steady s (f u a).s) : Steady s (l.foldl f p).s :=
  Steady.foldlAt ImportRun.s h l f hf

theorem State.each_steady {α : Type} {s0 s : State} (hS : Steady s0 s) (l : List α) (f : State → α → State)
    (hf : ∀ u a, Steady s0 u → Steady s0 (f u a)) : Steady s0 (State.each l f s) := hS.foldl l f hf

theorem State.when_steady {s0 s : State} (hS : Steady s0 s) (b : Bool) (f : State → State)
    (hf : ∀ u, Steady s0 u → Steady s0 (f u)) : Steady s0 (s.when b f) := by
  unfold State.when; split
  · exact hf _ hS
  · exact hS

/-! ## Machine/Ops.lean -/

theorem State.setCore_steady {s0 s : State} (hS : Steady s0 s) (c : CoreId) (x : CoreState) :
    Steady s0 (State.setCore s c x) := by
  unfold State.setCore
  with_reducible
    repeat' first
      | assumption | intro _ | apply Steady.mk'

theorem State.modCore_steady {s0 s : State} (hS : Steady s0 s) (c : CoreId) (f : CoreState → CoreState) :
    Steady s0 (State.modCore s c f) := by
  unfold State.modCore
  with_reducible
    repeat' first
      | assumption | apply State.setCore_steady

theorem State.modDie_steady {s0 s : State} (hS : Steady s0 s) (d : DieId) (f : DieMem → DieMem) :
    Steady s0 (State.modDie s d f) := by
  unfold State.modDie
  with_reducible
    repeat' first
      | assumption | intro _ | apply Steady.mk'

theorem State.emit_steady {s0 s : State} (hS : Steady s0 s) (o : Output) : Steady s0 (State.emit s o) := by
  unfold State.emit
  with_reducible
    repeat' first
      | assumption | intro _ | apply Steady.mk'

theorem State.setObj_steady {s0 s : State} (hS : Steady s0 s) (key : Nat) (v : Nat) :
    Steady s0 (State.setObj s key v) := by
  unfold State.setObj
  with_reducible
    repeat' first
      | assumption | intro _ | apply Steady.mk'

theorem State.bumpBy_steady {s0 s : State} (hS : Steady s0 s) (key : Nat) (n : Nat) :
    Steady s0 (State.bumpBy s key n) := by
  unfold State.bumpBy
  with_reducible
    repeat' first
      | assumption | apply State.setObj_steady

theorem State.bump_steady {s0 s : State} (hS : Steady s0 s) (key : Nat) : Steady s0 (State.bump s key) := by
  unfold State.bump
  with_reducible
    repeat' first
      | assumption | apply State.bumpBy_steady

theorem State.draw_steady {s0 s : State} (hS : Steady s0 s) : Steady s0 (State.draw s).2 := by
  unfold State.draw
  with_reducible
    repeat' first
      | assumption | intro _ | apply Steady.mk'

/-! ## Machine/Events.lean -/

theorem State.setSrc_steady {s0 s : State} (hS : Steady s0 s) (n : Nat) (r : SrcRec) :
    Steady s0 (State.setSrc s n r) := by
  unfold State.setSrc
  with_reducible
    repeat' first
      | assumption | intro _ | apply Steady.mk'

theorem State.setIc_steady {s0 s : State} (hS : Steady s0 s) (d : DieId) (x : IntCtl) :
    Steady s0 (State.setIc s d x) := by
  unfold State.setIc
  with_reducible
    repeat' first
      | assumption | intro _ | apply Steady.mk'

theorem signalVector_steady {s0 s : State} (hS : Steady s0 s) (fn : Nat) (vec : Nat)
    : Steady s0 (signalVector s fn vec) := by
  unfold signalVector
  with_reducible
    repeat' first
      | assumption | apply State.emit_steady | intro _ | split | dsimp only | apply Steady.mk'

theorem eqRecord_steady {s0 s : State} (hS : Steady s0 s) (d : DieId) (n : Nat) (kind : Nat) (sev : Nat) (d0 :
    Nat) (d1 : Nat) :
    Steady s0 (eqRecord s d n kind sev d0 d1) := by
  unfold eqRecord
  with_reducible
    repeat' first
      | assumption | apply State.bump_steady | apply State.setIc_steady | split | dsimp only

theorem ringRecord_steady {s0 s : State} (hS : Steady s0 s) (r : Fin 8) (n : Nat) (kind : Nat) (sev : Nat) (d0 : Nat)
    (d1 : Nat) : Steady s0 (ringRecord s r n kind sev d0 d1) := by
  unfold ringRecord
  with_reducible
    repeat' first
      | assumption | apply State.bump_steady | apply State.emit_steady | apply State.when_steady
      | apply signalVector_steady | intro _ | split | dsimp only | apply Steady.mk'

theorem contrailRecord_steady {s0 s : State} (hS : Steady s0 s) (n : Nat) (kind : Nat) (sev : Nat) (d0 : Nat) (d1
    : Nat) :
    Steady s0 (contrailRecord s n kind sev d0 d1) := by
  unfold contrailRecord
  with_reducible
    repeat' first
      | assumption | apply State.bump_steady | intro _ | split | apply Steady.mk'

theorem sendRecords_steady {s0 s : State} (hS : Steady s0 s) (n : Nat) (kind : Nat) (d0 : Nat) (d1 : Nat) :
    Steady s0 (sendRecords s n kind d0 d1) := by
  unfold sendRecords
  with_reducible
    repeat' first
      | assumption | apply State.when_steady | apply ringRecord_steady | apply signalVector_steady
      | apply contrailRecord_steady | intro _

theorem zenithSide_steady {s0 s : State} (hS : Steady s0 s) (n : Nat) (kind : Nat) (d0 : Nat) (d1 : Nat) :
    Steady s0 (zenithSide s n kind d0 d1) := by
  unfold zenithSide
  with_reducible
    repeat' first
      | assumption | apply State.setSrc_steady | apply eqRecord_steady | split | dsimp only

theorem quarantine_steady {s0 s : State} (hS : Steady s0 s) (n : Nat) (d0 : Nat) (d1 : Nat) :
    Steady s0 (quarantine s n d0 d1) := by
  unfold quarantine
  with_reducible
    repeat' first
      | assumption | apply State.when_steady | apply State.bump_steady | apply State.setSrc_steady
      | apply eqRecord_steady | apply sendRecords_steady | intro _

theorem raise_steady {s0 s : State} (hS : Steady s0 s) (n : Nat) (d0 : Nat) (d1 : Nat) :
    Steady s0 (raise s n d0 d1) := by
  unfold raise
  with_reducible
    repeat' first
      | assumption | apply State.setSrc_steady | apply State.bump_steady | apply quarantine_steady
      | apply sendRecords_steady | apply zenithSide_steady | split | dsimp only

theorem raiseOn_steady {s0 s : State} (hS : Steady s0 s) (d : DieId) (l : Nat) (d0 : Nat) (d1 : Nat) :
    Steady s0 (raiseOn s d l d0 d1) := by
  unfold raiseOn
  with_reducible
    repeat' first
      | assumption | apply raise_steady

theorem setLevel_steady {s0 s : State} (hS : Steady s0 s) (n : Nat) (on : Bool) (d0 : Nat) (d1 : Nat) :
    Steady s0 (setLevel s n on d0 d1) := by
  unfold setLevel
  with_reducible
    repeat' first
      | assumption | apply State.when_steady | apply State.setSrc_steady | apply raise_steady | intro _

theorem setLevelOn_steady {s0 s : State} (hS : Steady s0 s) (d : DieId) (l : Nat) (on : Bool) (d0 : Nat) (d1 :
    Nat) :
    Steady s0 (setLevelOn s d l on d0 d1) := by
  unfold setLevelOn
  with_reducible
    repeat' first
      | assumption | apply setLevel_steady

theorem notifyContrail_steady {s0 s : State} (hS : Steady s0 s) (index : Nat) (sub : Nat) (data : List Byte) :
    Steady s0 (notifyContrail s index sub data) := by
  unfold notifyContrail
  with_reducible
    repeat' first
      | assumption | apply State.draw_steady | apply State.emit_steady | split

theorem mailboxState_steady {s0 s : State} (hS : Steady s0 s) : Steady s0 (mailboxState s) := by
  unfold mailboxState
  with_reducible
    repeat' first
      | assumption | apply signalVector_steady | intro _ | apply Steady.mk'

theorem setDeviceState_steady {s0 s : State} (hS : Steady s0 s) (st : Nat) (cause : Nat) :
    Steady s0 (setDeviceState s st cause) := by
  unfold setDeviceState
  with_reducible
    repeat' first
      | assumption | apply notifyContrail_steady | apply mailboxState_steady | apply raise_steady
      | apply State.setObj_steady | split

theorem driveReady_steady {s0 s : State} (hS : Steady s0 s) (level : Bool) : Steady s0 (driveReady s level) := by
  unfold driveReady
  with_reducible
    repeat' first
      | assumption | apply State.emit_steady | intro _ | split | apply Steady.mk'

theorem freezeImage_steady {s0 s : State} (hS : Steady s0 s) : Steady s0 (freezeImage s) := by
  unfold freezeImage
  with_reducible
    repeat' first
      | assumption | intro _ | apply Steady.mk'

theorem enterFault_steady {s0 s : State} (hS : Steady s0 s) (cause : Nat) : Steady s0 (enterFault s cause) := by
  unfold enterFault
  with_reducible
    repeat' first
      | assumption | apply freezeImage_steady | apply driveReady_steady | apply setDeviceState_steady | intro _
      | split | apply Steady.mk'

theorem fenceUnit_steady {s0 s : State} (hS : Steady s0 s) (u : FailUnit) : Steady s0 (fenceUnit s u) := by
  unfold fenceUnit
  with_reducible
    repeat' first
      | assumption | intro _ | split | dsimp only | apply Steady.mk'

theorem failUnit_steady {s0 s : State} (hS : Steady s0 s) (u : FailUnit) (cause : Nat)
    : Steady s0 (failUnit s u cause) := by
  unfold failUnit
  with_reducible
    repeat' first
      | assumption | apply enterFault_steady | apply fenceUnit_steady

/-! ## Machine/Cache.lean -/

theorem demandOverrun_steady {s0 s : State} (hS : Steady s0 s) (unit : Nat) (offset : Nat) :
    Steady s0 (demandOverrun s unit offset) := by
  unfold demandOverrun
  with_reducible
    repeat' first
      | assumption | apply raise_steady | apply State.bump_steady

theorem countBytes_steady {s0 s : State} (hS : Steady s0 s) (kind : Nat) (unit : Nat) (n : Nat) :
    Steady s0 (countBytes s kind unit n) := by
  unfold countBytes
  with_reducible
    repeat' first
      | assumption | apply demandOverrun_steady | apply State.bump_steady | intro _ | split | dsimp only
      | apply Steady.mk'

theorem countPath_steady {s0 s : State} (hS : Steady s0 s) (a : DieId) (b : DieId) (n : Nat) :
    Steady s0 (countPath s a b n) := by
  unfold countPath
  with_reducible
    repeat' first
      | assumption | apply State.each_steady | apply countBytes_steady | intro _

theorem countAt_steady {s0 s : State} (hS : Steady s0 s) (d : DieId) (a : Nat) (m : Nat) (write : Bool) :
    Steady s0 (countAt s d a m write) := by
  unfold countAt
  with_reducible
    repeat' first
      | assumption | apply countBytes_steady | apply countPath_steady | split

theorem poisonByte_steady {s0 s : State} (hS : Steady s0 s) (a : Nat) : Steady s0 (poisonByte s a) := by
  unfold poisonByte
  with_reducible
    repeat' first
      | assumption | apply State.bump_steady | apply memWf_memSet | intro _ | split | dsimp only | apply Steady.mk'

theorem sramUncorrectable_steady {s0 s : State} (hS : Steady s0 s) (d : DieId) (tgt : Nat) (addr : Nat)
    : Steady s0 (sramUncorrectable s d tgt addr) := by
  unfold sramUncorrectable
  with_reducible
    repeat' first
      | assumption | apply raiseOn_steady

theorem setFrameWord_steady {s0 s : State} (hS : Steady s0 s) (d : DieId) (k : Nat) (v : Nat) (dev : Nat)
    : Steady s0 (setFrameWord s d k v dev) := by
  unfold setFrameWord
  with_reducible
    repeat' first
      | assumption | apply State.modDie_steady

theorem clearWords_steady {s0 s : State} (hS : Steady s0 s) (d : DieId) (k : Nat) (n : Nat)
    : Steady s0 (clearWords s d k n) := by
  unfold clearWords
  with_reducible
    repeat' first
      | assumption | apply State.modDie_steady

theorem loseWord_steady {s0 s : State} (hS : Steady s0 s) (d : DieId) (l : CacheLine) (k : Nat)
    : Steady s0 (loseWord s d l k) := by
  unfold loseWord
  with_reducible
    repeat' first
      | assumption | apply State.each_steady | apply poisonByte_steady | apply sramUncorrectable_steady
      | apply State.bump_steady | apply clearWords_steady | intro _

theorem backWord_steady {s0 s : State} (hS : Steady s0 s) (d : DieId) (l : CacheLine) (k : Nat)
    : Steady s0 (backWord d l s k) := by
  unfold backWord
  with_reducible
    repeat' first
      | assumption | apply State.bump_steady | apply State.each_steady | apply poisonByte_steady
      | apply loseWord_steady | apply memWf_memWrite | apply memWf_kvClear | intro _ | split | dsimp only
      | apply Steady.mk'

theorem settleLine_steady {s0 s : State} (hS : Steady s0 s) (d : DieId) (l : CacheLine)
    : Steady s0 (settleLine d s l) := by
  unfold settleLine
  with_reducible
    repeat' first
      | assumption | apply clearWords_steady | apply State.when_steady | apply State.each_steady
      | apply backWord_steady | intro _ | split | dsimp only

theorem setCacheSet_steady {s0 s : State} (hS : Steady s0 s) (d : DieId) (line : Nat) (ls : List CacheLine)
    : Steady s0 (setCacheSet s d line ls) := by
  unfold setCacheSet
  with_reducible
    repeat' first
      | assumption | apply State.modDie_steady | apply State.each_steady | apply settleLine_steady
      | apply memWf_kvClear | intro _

theorem readFrameWord_steady {s0 s : State} (hS : Steady s0 s) (d : DieId) (k : Nat)
    : Steady s0 (readFrameWord s d k).2 := by
  unfold readFrameWord
  with_reducible
    repeat' first
      | assumption | apply State.bump_steady | apply setFrameWord_steady | apply loseWord_steady
      | apply clearWords_steady | intro _ | split | dsimp only

theorem readFrames_steady {s0 s : State} (hS : Steady s0 s) (d : DieId) (o : Nat) (n : Nat)
    : Steady s0 (readFrames s d o n).2 := by
  unfold readFrames
  with_reducible
    repeat' first
      | assumption | apply readFrameWord_steady | intro _ | apply Steady.foldl | apply Steady.foldlFst
      | apply Steady.foldlSnd | apply Steady.foldlSnd2 | apply Steady.foldlLoad | apply Steady.foldlSeg
      | apply Steady.foldlImport | apply Steady.foldlSnd3 | split

theorem writeFrames_steady {s0 s : State} (hS : Steady s0 s) (d : DieId) (o : Nat) (bs : List Byte)
    : Steady s0 (writeFrames s d o bs) := by
  unfold writeFrames
  with_reducible
    repeat' first
      | assumption | apply State.each_steady | apply clearWords_steady | apply readFrameWord_steady
      | apply State.modDie_steady | intro _ | split | dsimp only

theorem updatePairing_steady {s0 s : State} (hS : Steady s0 s) (d : DieId) (line : Nat)
    : Steady s0 (updatePairing s d line) := by
  unfold updatePairing
  with_reducible
    repeat' first
      | assumption | apply State.bump_steady | apply setCacheSet_steady | apply State.setObj_steady | intro _ | split
      | dsimp only

theorem cacheLineAccess_steady {s0 s : State} (hS : Steady s0 s) (d : DieId) (line : Nat) (mask : BitVec 4)
    (hint : Hint) (write : Bool) (byteRegion : Bool)
    : Steady s0 (cacheLineAccess s d line mask hint write byteRegion) := by
  unfold cacheLineAccess
  with_reducible
    repeat' first
      | assumption | apply setCacheSet_steady | apply updatePairing_steady | apply State.bumpBy_steady
      | apply State.when_steady | apply State.bump_steady | apply State.setObj_steady | intro _ | split | dsimp only

theorem cacheAccess_steady {s0 s : State} (hS : Steady s0 s) (d : DieId) (o : Nat) (n : Nat) (hint : Hint) (write
    : Bool) (byteRegion : Bool) :
    Steady s0 (cacheAccess s d o n hint write byteRegion) := by
  unfold cacheAccess
  with_reducible
    repeat' first
      | assumption | apply State.each_steady | apply cacheLineAccess_steady | intro _ | split

theorem prefetchLine_steady {s0 s : State} (hS : Steady s0 s) (d : DieId) (hint : Hint) (ln : Nat)
    : Steady s0 (prefetchLine s d hint ln) := by
  unfold prefetchLine
  with_reducible
    repeat' first
      | assumption | apply State.draw_steady | apply State.bump_steady | apply setCacheSet_steady
      | apply updatePairing_steady | apply State.bumpBy_steady | apply State.when_steady | apply State.setObj_steady
      | intro _ | split | dsimp only

theorem noteMiss_steady {s0 s : State} (hS : Steady s0 s) (d : DieId) (c : CoreId) (line : Nat)
    : Steady s0 (noteMiss s d c line) := by
  unfold noteMiss
  with_reducible
    repeat' first
      | assumption | apply State.modDie_steady

theorem prefetch_steady {s0 s : State} (hS : Steady s0 s) (d : DieId) (c : CoreId) (line : Nat) (missed : Bool)
    (hint : Hint) : Steady s0 (prefetch s d c line missed hint) := by
  unfold prefetch
  with_reducible
    repeat' first
      | assumption | apply State.when_steady | apply prefetchLine_steady | apply noteMiss_steady | intro _ | split

/-! ## Machine/Protect.lean -/

theorem poisonPage_steady {s0 s : State} (hS : Steady s0 s) (t : Nat) (page : Nat) :
    Steady s0 (poisonPage s t page) := by
  unfold poisonPage
  with_reducible
    repeat' first
      | assumption | apply State.bump_steady | apply memWf_kvClear | intro _ | apply Steady.mk'

theorem rePair_steady {s0 s : State} (hS : Steady s0 s) (d : DieId) (o : Nat) (n : Nat) :
    Steady s0 (rePair s d o n) := by
  unfold rePair
  with_reducible
    repeat' first
      | assumption | apply State.each_steady | apply updatePairing_steady | intro _ | split

theorem dropFrames_steady {s0 s : State} (hS : Steady s0 s) (h : RegionHit) (a : Nat) (n : Nat)
    : Steady s0 (dropFrames s h a n) := by
  unfold dropFrames
  with_reducible
    repeat' first
      | assumption | apply State.when_steady | apply clearWords_steady | intro _

theorem poisonMem_steady {s0 s : State} (hS : Steady s0 s) (a : Nat) (n : Nat) (hint : Hint)
    : Steady s0 (poisonMem s a n hint) := by
  unfold poisonMem
  with_reducible
    repeat' first
      | assumption | apply State.when_steady | apply cacheAccess_steady | apply State.each_steady
      | apply State.bump_steady | apply poisonByte_steady | apply dropFrames_steady | apply poisonPage_steady
      | apply rePair_steady | intro _ | split

theorem memUncorrectable_steady {s0 s : State} (hS : Steady s0 s) (d : DieId) (a : Nat) :
    Steady s0 (memUncorrectable s d a) := by
  unfold memUncorrectable
  with_reducible
    repeat' first
      | assumption | apply raiseOn_steady

theorem logFence_steady {s0 s : State} (hS : Steady s0 s) (d : DieId) (memory : Nat) (a : Nat) :
    Steady s0 (logFence s d memory a) := by
  unfold logFence
  with_reducible
    repeat' first
      | assumption | intro _ | apply Steady.mk'

theorem fencePage_steady {s0 s : State} (hS : Steady s0 s) (d : DieId) (a : Nat) : Steady s0 (fencePage s d a) := by
  unfold fencePage
  with_reducible
    repeat' first
      | assumption | apply failUnit_steady | apply logFence_steady | apply State.modDie_steady | apply raiseOn_steady
      | intro _ | split | dsimp only

theorem lastingError_steady {s0 s : State} (hS : Steady s0 s) (h : RegionHit) (a : Nat) (hard : Bool) :
    Steady s0 (lastingError s h a hard) := by
  unfold lastingError
  with_reducible
    repeat' first
      | assumption | apply State.when_steady | apply poisonByte_steady | apply poisonPage_steady
      | apply memUncorrectable_steady | apply State.bump_steady | apply fencePage_steady | intro _ | split

theorem queueRewrite_steady {s0 s : State} (hS : Steady s0 s) (d : DieId) (a : Nat) :
    Steady s0 (queueRewrite s d a) := by
  unfold queueRewrite
  with_reducible
    repeat' first
      | assumption | apply State.bump_steady | apply State.modDie_steady | split | dsimp only

theorem countMove_steady {s0 s : State} (hS : Steady s0 s) (d : DieId) (a : Nat) (n : Nat) (write : Bool) :
    Steady s0 (countMove s d a n write) := by
  unfold countMove
  with_reducible
    repeat' first
      | assumption | apply countAt_steady

theorem loadPage_steady {s0 : State} {l : Load} (hS : Steady s0 l.s) (h : RegionHit) (a : Nat) (n : Nat) (page :
    Nat) :
    Steady s0 (loadPage h a n l page).s := by
  unfold loadPage
  with_reducible
    repeat' first
      | assumption | apply State.bump_steady | apply queueRewrite_steady | apply lastingError_steady | split
      | dsimp only

theorem loadByte_steady {s0 : State} {l : Load} (hS : Steady s0 l.s) (h : RegionHit) (a : Nat) (n : Nat) (b : Nat)
    : Steady s0 (loadByte h a n l b).s := by
  unfold loadByte
  with_reducible
    repeat' first
      | assumption | apply State.bump_steady | apply lastingError_steady | intro _ | split | dsimp only

theorem loadOutcome_steady {s0 : State} {l : Load} (hS : Steady s0 l.s) (h : RegionHit) (a : Nat) (n : Nat) (how :
    MemOutcome) :
    Steady s0 (loadOutcome h a n how l).s := by
  unfold loadOutcome
  with_reducible
    repeat' first
      | assumption | apply State.bump_steady | apply lastingError_steady | split

theorem takeUpset_steady {s0 s : State} (hS : Steady s0 s) (how : MemOutcome) : Steady s0 (takeUpset s how).2 := by
  unfold takeUpset
  with_reducible
    repeat' first
      | assumption | intro _ | split | dsimp only | apply Steady.mk'

theorem overlay_steady {s0 : State} {l : Load} (hS : Steady s0 l.s) (d : DieId) (a : Nat) (n : Nat) (p : Nat × Nat)
    : Steady s0 (overlay d a n l p).s := by
  unfold overlay
  with_reducible
    repeat' first
      | assumption | intro _ | split

theorem memLoad_steady {s0 s : State} (hS : Steady s0 s) (a : Nat) (n : Nat) (hint : Option Hint) (how : MemOutcome)
    : Steady s0 (memLoad s a n hint how).s := by
  unfold memLoad
  with_reducible
    repeat' first
      | assumption | apply cacheAccess_steady | apply readFrames_steady | apply loadByte_steady
      | apply loadPage_steady | apply overlay_steady | apply takeUpset_steady | apply loadOutcome_steady | intro _
      | apply Steady.foldl | apply Steady.foldlFst | apply Steady.foldlSnd | apply Steady.foldlSnd2
      | apply Steady.foldlLoad | apply Steady.foldlSeg | apply Steady.foldlImport | apply Steady.foldlSnd3 | split

theorem storePage_steady {s0 s : State} (hS : Steady s0 s) (h : RegionHit) (page : Nat) (bs : List Byte) :
    Steady s0 (storePage s h page bs) := by
  unfold storePage
  with_reducible
    repeat' first
      | assumption | apply State.bump_steady | apply memWf_memWrite | apply memWf_kvClear | intro _ | split
      | apply Steady.mk'

theorem storePart_steady {s0 s : State} (hS : Steady s0 s) (h : RegionHit) (page : Nat) (off : Nat) (bs : List Byte)
    : Steady s0 (storePart s h page off bs) := by
  unfold storePart
  with_reducible
    repeat' first
      | assumption | apply State.bump_steady | apply storePage_steady | apply takeUpset_steady
      | apply memUncorrectable_steady | apply lastingError_steady | apply State.when_steady | intro _ | split
      | dsimp only

theorem storeByte_steady {s0 s : State} (hS : Steady s0 s) (h : RegionHit) (b : Nat) (v : Byte) :
    Steady s0 (storeByte s h b v) := by
  unfold storeByte
  with_reducible
    repeat' first
      | assumption | apply State.bump_steady | apply memWf_memSet | intro _ | split | apply Steady.mk'

theorem storePageAt_steady {s0 s : State} (hS : Steady s0 s) (h : RegionHit) (a : Nat) (bs : List Byte) (page :
    Nat) :
    Steady s0 (storePageAt h a bs s page) := by
  unfold storePageAt
  with_reducible
    repeat' first
      | assumption | apply storePage_steady | apply storePart_steady | split | dsimp only

theorem memStore_steady {s0 s : State} (hS : Steady s0 s) (a : Nat) (bs : List Byte) (hint : Option Hint)
    : Steady s0 (memStore s a bs hint) := by
  unfold memStore
  with_reducible
    repeat' first
      | assumption | apply cacheAccess_steady | apply writeFrames_steady | apply State.each_steady
      | apply storeByte_steady | apply storePageAt_steady | apply rePair_steady | intro _ | apply Steady.foldl
      | apply Steady.foldlFst | apply Steady.foldlSnd | apply Steady.foldlSnd2 | apply Steady.foldlLoad
      | apply Steady.foldlSeg | apply Steady.foldlImport | apply Steady.foldlSnd3 | split

theorem clearRegion_steady {s0 s : State} (hS : Steady s0 s) (start : Nat) (n : Nat) :
    Steady s0 (clearRegion s start n) := by
  unfold clearRegion
  with_reducible
    repeat' first
      | assumption | apply memWf_kvClear | intro _ | apply Steady.mk'

theorem scratchUncorrectable_steady {s0 s : State} (hS : Steady s0 s) (c : CoreId) (off : Nat) :
    Steady s0 (scratchUncorrectable s c off) := by
  unfold scratchUncorrectable
  with_reducible
    repeat' first
      | assumption | apply raiseOn_steady

theorem poisonWord_steady {s0 s : State} (hS : Steady s0 s) (k : Nat) : Steady s0 (poisonWord s k) := by
  unfold poisonWord
  with_reducible
    repeat' first
      | assumption | apply State.bump_steady | apply memWf_kvClear | intro _ | apply Steady.mk'

theorem memWf_clearEach (ks : List Nat) (m : List Host.Cell) (h : memWf m = true) :
    memWf (ks.foldl (fun m k => kvClear m k 4) m) = true := by
  induction ks generalizing m with
  | nil => exact h
  | cons k ks ih => exact ih _ (memWf_kvClear _ _ _ h)

theorem keepDead_steady {s0 s : State} (hS : Steady s0 s) (ks : List Nat) : Steady s0 (keepDead s ks) := by
  unfold keepDead
  exact hS.mk' id (memWf_clearEach _ _)

theorem poisonScratch_steady {s0 s : State} (hS : Steady s0 s) (c : CoreId) (off : Nat) (n : Nat) :
    Steady s0 (poisonScratch s c off n) := by
  unfold poisonScratch
  with_reducible
    repeat' first
      | assumption | apply State.each_steady | apply poisonWord_steady | intro _

theorem scratchLasting_steady {s0 s : State} (hS : Steady s0 s) (c : CoreId) (off : Nat) (hard : Bool)
    : Steady s0 (scratchLasting s c off hard) := by
  unfold scratchLasting
  with_reducible
    repeat' first
      | assumption | apply scratchUncorrectable_steady | apply State.bump_steady | apply poisonWord_steady
      | apply State.when_steady | apply logFence_steady | intro _ | split | dsimp only | apply Steady.mk'

theorem loadWord_steady {s0 : State} {l : Load} (hS : Steady s0 l.s) (c : CoreId) (off : Nat) (n : Nat) (k : Nat) :
    Steady s0 (loadWord c off n l k).s := by
  unfold loadWord
  with_reducible
    repeat' first
      | assumption | apply State.bump_steady | apply scratchLasting_steady | split | dsimp only

theorem scratchLoad_steady {s0 s : State} (hS : Steady s0 s) (c : CoreId) (off : Nat) (n : Nat) (how : MemOutcome)
    : Steady s0 (scratchLoad s c off n how).s := by
  unfold scratchLoad
  with_reducible
    repeat' first
      | assumption | apply loadWord_steady | apply takeUpset_steady | apply State.bump_steady
      | apply scratchLasting_steady | intro _ | apply Steady.foldl | apply Steady.foldlFst | apply Steady.foldlSnd
      | apply Steady.foldlSnd2 | apply Steady.foldlLoad | apply Steady.foldlSeg | apply Steady.foldlImport
      | apply Steady.foldlSnd3 | split | dsimp only

theorem scratchStore_steady {s0 s : State} (hS : Steady s0 s) (c : CoreId) (off : Nat) (bs : List Byte)
    : Steady s0 (scratchStore s c off bs) := by
  unfold scratchStore
  with_reducible
    repeat' first
      | assumption | apply keepDead_steady | apply memWf_memWrite | intro _ | apply Steady.foldl
      | apply Steady.foldlFst | apply Steady.foldlSnd | apply Steady.foldlSnd2 | apply Steady.foldlLoad
      | apply Steady.foldlSeg | apply Steady.foldlImport | apply Steady.foldlSnd3 | split | dsimp only
      | apply Steady.mk'

/-! ## Machine/Flags.lean -/

theorem raiseFlags_steady {s0 s : State} (hS : Steady s0 s) (bits : Nat) : Steady s0 (raiseFlags s bits) := by
  unfold raiseFlags
  with_reducible
    repeat' first
      | assumption | intro _ | apply Steady.mk'

theorem noteNonfinite_steady {s0 s : State} (hS : Steady s0 s) (c : CoreId) (f : Nat) (queue : Nat) (pc : Nat)
    (seq : Nat) (flags : Bool) (e : NfElem) :
    Steady s0 (noteNonfinite s c f queue pc seq flags e) := by
  unfold noteNonfinite
  with_reducible
    repeat' first
      | assumption | apply State.when_steady | apply State.modCore_steady | apply State.bump_steady
      | apply raiseFlags_steady | intro _

/-! ## Machine/Operands.lean -/

theorem trapCore_steady {s0 s : State} (hS : Steady s0 s) (c : CoreId) (t : TrapInfo) (queue : Nat) (pc : Nat) :
    Steady s0 (trapCore s c t queue pc) := by
  unfold trapCore
  with_reducible
    repeat' first
      | assumption | apply State.bump_steady | apply State.setCore_steady | split | dsimp only

theorem markLine_steady {s0 s : State} (hS : Steady s0 s) (c : CoreId) (line : Nat) (page : Nat)
    : Steady s0 (markLine s c line page) := by
  unfold markLine
  with_reducible
    repeat' first
      | assumption | apply State.modCore_steady

theorem fillLine_steady {s0 s : State} (hS : Steady s0 s) (c : CoreId) (line : Nat)
    : Steady s0 (fillLine s c line) := by
  unfold fillLine
  with_reducible
    repeat' first
      | assumption | apply State.modCore_steady

theorem readLine_steady {s0 s : State} (hS : Steady s0 s) (core : CoreId) (off : Nat) (how : MemOutcome)
    : Steady s0 (readLine s core off how) := by
  unfold readLine
  with_reducible
    repeat' first
      | assumption | apply memLoad_steady | apply fillLine_steady | apply markLine_steady | intro _ | split
      | dsimp only

theorem fetchWord_steady {s0 s : State} (hS : Steady s0 s) (c : CoreId) (off : Nat)
    : Steady s0 (fetchWord c s off) := by
  unfold fetchWord
  with_reducible
    repeat' first
      | assumption | apply State.modCore_steady | apply State.bump_steady | apply markLine_steady
      | apply readLine_steady | intro _ | split | dsimp only

theorem fetchCode_steady {s0 s : State} (hS : Steady s0 s) (c : CoreId) (words : Nat)
    : Steady s0 (fetchCode s c words) := by
  unfold fetchCode
  with_reducible
    repeat' first
      | assumption | apply State.each_steady | apply fetchWord_steady | intro _ | split

theorem regCorrect_steady {s0 s : State} (hS : Steady s0 s) (c : CoreId) (keys : List Nat) :
    Steady s0 (regCorrect s c keys) := by
  unfold regCorrect
  with_reducible
    repeat' first
      | assumption | apply State.each_steady | apply State.bump_steady | apply State.modCore_steady | intro _ | split

theorem issue_steady {z0 s0 : State} (hS : Steady z0 s0) (c : CoreId) (op : Nat) (words : Nat) (h : Hdr)
    (f : BitVec 51) (legal : Bool) (reads : List Nat) (checks : List TrapInfo) (act : State → State)
    (hF : ∀ x0, Steady z0 x0 → Steady z0 (act x0)) : Steady z0 (issue s0 c op words h f legal reads checks act) := by
  unfold issue
  with_reducible
    repeat' first
      | assumption | apply hF | apply fetchCode_steady | apply trapCore_steady | apply State.modCore_steady
      | apply regCorrect_steady | intro _ | split | dsimp only

theorem jumpTo_steady {s0 s : State} (hS : Steady s0 s) (c : CoreId) (t : Word) : Steady s0 (jumpTo s c t) := by
  unfold jumpTo
  with_reducible
    repeat' first
      | assumption | apply State.modCore_steady | apply trapCore_steady | split

theorem enqueue_steady {s0 s : State} (hS : Steady s0 s) (c : CoreId) (q : Nat) (words : Nat) (op : QOp) (scratch
    : Bool) (onIssue : CoreState → CoreState) :
    Steady s0 (enqueue s c q words op scratch onIssue) := by
  unfold enqueue
  with_reducible
    repeat' first
      | assumption | apply State.setCore_steady | split | dsimp only

theorem finishHead_steady {s0 s : State} (hS : Steady s0 s) (c : CoreId) (q : Nat) :
    Steady s0 (finishHead s c q) := by
  unfold finishHead
  with_reducible
    repeat' first
      | assumption | apply State.modCore_steady

theorem setHead_steady {s0 s : State} (hS : Steady s0 s) (c : CoreId) (q : Nat) (i : QInst) :
    Steady s0 (setHead s c q i) := by
  unfold setHead
  with_reducible
    repeat' first
      | assumption | apply State.modCore_steady

end Sys2Proof.Machine
end

