-- ==== Sys2Proof/Laws/SteadyCores.lean ====
section
/-!
SUPPORT. Laws/SteadyCores.lean: that the instructions of the cores and their units leave the waiting commands alone and keep memory and the
scratchpads in canonical form. One lemma per operation and per meaning: from a state that is steady against an
earlier one, its effect is too.
-/
namespace Sys2Proof.Machine

/-! ## Machine/Scalar.lean -/

theorem writeSreg_steady {s0 s : State} (hS : Steady s0 s) (c : CoreId) (words : Nat) (i : Nat) (v : Word) :
    Steady s0 (writeSreg s c words i v) := by
  unfold writeSreg
  with_reducible
    repeat' first
      | assumption | apply State.modCore_steady

theorem writePred_steady {s0 s : State} (hS : Steady s0 s) (c : CoreId) (i : Nat) (b : Bool) :
    Steady s0 (writePred s c i b) := by
  unfold writePred
  with_reducible
    repeat' first
      | assumption | apply State.modCore_steady

theorem stallOn_steady {s0 s : State} (hS : Steady s0 s) (c : CoreId) (st : Stall) : Steady s0 (stallOn s c st) := by
  unfold stallOn
  with_reducible
    repeat' first
      | assumption | apply State.modCore_steady

theorem execSop_steady {s0 s : State} (hS : Steady s0 s) (core : CoreId) (h : Hdr) (f : BitVec 51) :
    SteadyR s0 (execSop core h f s) := by
  unfold execSop
  with_reducible
    repeat' first
      | assumption | apply Steady.next | apply issue_steady | apply writeSreg_steady | intro _

theorem execSopi_steady {s0 s : State} (hS : Steady s0 s) (core : CoreId) (h : Hdr) (f : BitVec 51) :
    SteadyR s0 (execSopi core h f s) := by
  unfold execSopi
  with_reducible
    repeat' first
      | assumption | apply Steady.next | apply issue_steady | apply writeSreg_steady | intro _

theorem execSli_steady {s0 s : State} (hS : Steady s0 s) (core : CoreId) (h : Hdr) (f : BitVec 51) (imm : BitVec
    64) :
    SteadyR s0 (execSli core h f imm s) := by
  unfold execSli
  with_reducible
    repeat' first
      | assumption | apply Steady.next | apply issue_steady | apply writeSreg_steady | intro _

theorem execSld_steady {s0 s : State} (hS : Steady s0 s) (core : CoreId) (h : Hdr) (f : BitVec 51) :
    SteadyR s0 (execSld core h f s) := by
  unfold execSld
  with_reducible
    repeat' first
      | assumption | apply Steady.next | apply issue_steady | apply stallOn_steady | intro _

theorem execSst_steady {s0 s : State} (hS : Steady s0 s) (core : CoreId) (h : Hdr) (f : BitVec 51) :
    SteadyR s0 (execSst core h f s) := by
  unfold execSst
  with_reducible
    repeat' first
      | assumption | apply Steady.next | apply issue_steady | apply stallOn_steady | intro _

theorem execScmp_steady {s0 s : State} (hS : Steady s0 s) (core : CoreId) (h : Hdr) (f : BitVec 51) :
    SteadyR s0 (execScmp core h f s) := by
  unfold execScmp
  with_reducible
    repeat' first
      | assumption | apply Steady.next | apply issue_steady | apply writePred_steady | intro _

theorem execScmpi_steady {s0 s : State} (hS : Steady s0 s) (core : CoreId) (h : Hdr) (f : BitVec 51) :
    SteadyR s0 (execScmpi core h f s) := by
  unfold execScmpi
  with_reducible
    repeat' first
      | assumption | apply Steady.next | apply issue_steady | apply writePred_steady | intro _

theorem execPset_steady {s0 s : State} (hS : Steady s0 s) (core : CoreId) (h : Hdr) (f : BitVec 51) :
    SteadyR s0 (execPset core h f s) := by
  unfold execPset
  with_reducible
    repeat' first
      | assumption | apply Steady.next | apply issue_steady | apply writePred_steady | intro _

theorem execBr_steady {s0 s : State} (hS : Steady s0 s) (core : CoreId) (h : Hdr) (f : BitVec 51) :
    SteadyR s0 (execBr core h f s) := by
  unfold execBr
  with_reducible
    repeat' first
      | assumption | apply Steady.next | apply issue_steady | apply jumpTo_steady | intro _

theorem execCall_steady {s0 s : State} (hS : Steady s0 s) (core : CoreId) (h : Hdr) (f : BitVec 51) :
    SteadyR s0 (execCall core h f s) := by
  unfold execCall
  with_reducible
    repeat' first
      | assumption | apply Steady.next | apply issue_steady | apply jumpTo_steady | apply State.modCore_steady
      | intro _ | split | dsimp only

theorem execJmpr_steady {s0 s : State} (hS : Steady s0 s) (core : CoreId) (h : Hdr) (f : BitVec 51) :
    SteadyR s0 (execJmpr core h f s) := by
  unfold execJmpr
  with_reducible
    repeat' first
      | assumption | apply Steady.next | apply issue_steady | apply jumpTo_steady | intro _

theorem srdScale_steady {s0 s : State} (hS : Steady s0 s) (c : CoreId) (sd : Nat) : Steady s0 (srdScale s c sd) := by
  unfold srdScale
  with_reducible
    repeat' first
      | assumption | apply writeSreg_steady | apply stallOn_steady | split

theorem execSrd_steady {s0 s : State} (hS : Steady s0 s) (core : CoreId) (h : Hdr) (f : BitVec 51) :
    SteadyR s0 (execSrd core h f s) := by
  unfold execSrd
  with_reducible
    repeat' first
      | assumption | apply Steady.next | apply issue_steady | apply srdScale_steady | apply writeSreg_steady | intro _
      | split

theorem execDset_steady {s0 s : State} (hS : Steady s0 s) (core : CoreId) (h : Hdr) (f : BitVec 51)
    : SteadyR s0 (execDset core h f s) := by
  unfold execDset
  with_reducible
    repeat' first
      | assumption | apply Steady.next | apply issue_steady | apply State.modCore_steady | intro _

theorem execDget_steady {s0 s : State} (hS : Steady s0 s) (core : CoreId) (h : Hdr) (f : BitVec 51)
    : SteadyR s0 (execDget core h f s) := by
  unfold execDget
  with_reducible
    repeat' first
      | assumption | apply Steady.next | apply issue_steady | apply writeSreg_steady | intro _

theorem execDld_steady {s0 s : State} (hS : Steady s0 s) (core : CoreId) (h : Hdr) (f : BitVec 51) :
    SteadyR s0 (execDld core h f s) := by
  unfold execDld
  with_reducible
    repeat' first
      | assumption | apply Steady.next | apply issue_steady | apply stallOn_steady | intro _

theorem execDst_steady {s0 s : State} (hS : Steady s0 s) (core : CoreId) (h : Hdr) (f : BitVec 51)
    : SteadyR s0 (execDst core h f s) := by
  unfold execDst
  with_reducible
    repeat' first
      | assumption | apply Steady.next | apply issue_steady | apply stallOn_steady | intro _

theorem execDadv_steady {s0 s : State} (hS : Steady s0 s) (core : CoreId) (h : Hdr) (f : BitVec 51)
    : SteadyR s0 (execDadv core h f s) := by
  unfold execDadv
  with_reducible
    repeat' first
      | assumption | apply Steady.next | apply issue_steady | apply State.modCore_steady | intro _

theorem execReservedOpcodeTrap_steady {s0 s : State} (hS : Steady s0 s) (core : CoreId) (op : BitVec 7) (h : Hdr)
    (f : BitVec 51) : SteadyR s0 (execReservedOpcodeTrap core op h f s) := by
  unfold execReservedOpcodeTrap
  with_reducible
    repeat' first
      | assumption | apply Steady.next | apply issue_steady | intro _ | split | dsimp only | dsimp only [id]

theorem countScalar_steady {s0 s : State} (hS : Steady s0 s) (c : CoreId) (a : Nat) (write : Bool) :
    Steady s0 (countScalar s c a write) := by
  unfold countScalar
  with_reducible
    repeat' first
      | assumption | apply countAt_steady

theorem scalarMemLoad_steady {s0 s : State} (hS : Steady s0 s) (c : CoreId) (a : Nat) (n : Nat) (how : MemOutcome)
    : Steady s0 (scalarMemLoad s c a n how).s := by
  unfold scalarMemLoad
  with_reducible
    repeat' first
      | assumption | apply memLoad_steady | apply countScalar_steady | apply prefetch_steady | intro _ | split

theorem segLoad_steady {s0 s : State} (hS : Steady s0 s) (c : CoreId) (g : Seg) (off : Nat) (n : Nat) (how :
    MemOutcome) :
    Steady s0 (segLoad s c g off n how).s := by
  unfold segLoad
  with_reducible
    repeat' first
      | assumption | apply scratchLoad_steady | apply scalarMemLoad_steady | split

theorem segStore_steady {s0 s : State} (hS : Steady s0 s) (c : CoreId) (g : Seg) (off : Nat) (bs : List Byte)
    : Steady s0 (segStore s c g off bs) := by
  unfold segStore
  with_reducible
    repeat' first
      | assumption | apply scratchStore_steady | apply memStore_steady | apply countScalar_steady
      | apply State.when_steady | apply noteMiss_steady | intro _ | split | dsimp only

theorem ctrlRead_steady {s0 s : State} (hS : Steady s0 s) (c : CoreId) (seg : Nat) (off : Nat) (n : Nat) (how :
    MemOutcome) (k : State → List Byte → State) (hF : ∀ x0 x1, Steady s0 x0 → Steady s0 (k x0 x1)) :
    Steady s0 (ctrlRead s c seg off n how k) := by
  unfold ctrlRead
  with_reducible
    repeat' first
      | assumption | apply trapCore_steady | apply segLoad_steady | apply hF | split | dsimp only

theorem ctrlWrite_steady {s0 s : State} (hS : Steady s0 s) (c : CoreId) (seg : Nat) (off : Nat) (bs : List Byte) :
    Steady s0 (ctrlWrite s c seg off bs) := by
  unfold ctrlWrite
  with_reducible
    repeat' first
      | assumption | apply trapCore_steady | apply State.modCore_steady | apply segStore_steady | split

theorem execScalarAccessDone_steady {s0 s : State} (hS : Steady s0 s) (core : CoreId) (how : MemOutcome) :
    SteadyR s0 (execScalarAccessDone core how s) := by
  unfold execScalarAccessDone
  with_reducible
    repeat' first
      | assumption | apply Steady.next | apply ctrlRead_steady | apply State.modCore_steady | apply ctrlWrite_steady
      | intro _ | split

/-! ## Machine/Vector.lean -/

theorem storeRow_steady {s0 s : State} (hS : Steady s0 s) (c : CoreId) (d : Desc) (rnd : Nat) (step : Nat) (p :
    Nat) (r : Nat) (vs : List F32) :
    Steady s0 (storeRow s c d rnd step p r vs).1 := by
  unfold storeRow
  with_reducible
    repeat' first
      | assumption | apply scratchStore_steady

theorem loadRow_steady {s0 s : State} (hS : Steady s0 s) (c : CoreId) (d : Desc) (p : Nat) (r : Nat) :
    Steady s0 (loadRow s c d p r).2 := by
  unfold loadRow
  with_reducible
    repeat' first
      | assumption | apply scratchLoad_steady

theorem overrunIf_steady {s0 s : State} (hS : Steady s0 s) (c : CoreId) (off : Nat) (used : Nat) (declared : Nat) :
    Steady s0 (overrunIf s c off used declared) := by
  unfold overrunIf
  with_reducible
    repeat' first
      | assumption | apply demandOverrun_steady | apply State.modCore_steady | split

theorem chargeVector_steady {s0 s : State} (hS : Steady s0 s) (c : CoreId) (n : Nat) :
    Steady s0 (chargeVector s c n) := by
  unfold chargeVector
  with_reducible
    repeat' first
      | assumption | apply State.modCore_steady | apply overrunIf_steady | split

theorem chargeEngine_steady {s0 s : State} (hS : Steady s0 s) (c : CoreId) (n : Nat) :
    Steady s0 (chargeEngine s c n) := by
  unfold chargeEngine
  with_reducible
    repeat' first
      | assumption | apply State.modCore_steady | apply overrunIf_steady | split

theorem chargePurl_steady {s0 s : State} (hS : Steady s0 s) (c : CoreId) (n : Nat) :
    Steady s0 (chargePurl s c n) := by
  unfold chargePurl
  with_reducible
    repeat' first
      | assumption | apply State.modCore_steady | apply overrunIf_steady | split

theorem issueVec_steady {s0 s : State} (hS : Steady s0 s) (c : CoreId) (k : VecKind) (op : Nat) (h : Hdr) (f :
    BitVec 51) :
    Steady s0 (issueVec s c k op h f) := by
  unfold issueVec
  with_reducible
    repeat' first
      | assumption | apply issue_steady | apply enqueue_steady | intro _

theorem execVbin_steady {s0 s : State} (hS : Steady s0 s) (core : CoreId) (h : Hdr) (f : BitVec 51) :
    SteadyR s0 (execVbin core h f s) := by
  unfold execVbin
  with_reducible
    repeat' first
      | assumption | apply Steady.next | apply issueVec_steady

theorem execVfma_steady {s0 s : State} (hS : Steady s0 s) (core : CoreId) (h : Hdr) (f : BitVec 51) :
    SteadyR s0 (execVfma core h f s) := by
  unfold execVfma
  with_reducible
    repeat' first
      | assumption | apply Steady.next | apply issueVec_steady

theorem execVun_steady {s0 s : State} (hS : Steady s0 s) (core : CoreId) (h : Hdr) (f : BitVec 51) :
    SteadyR s0 (execVun core h f s) := by
  unfold execVun
  with_reducible
    repeat' first
      | assumption | apply Steady.next | apply issueVec_steady

theorem execVred_steady {s0 s : State} (hS : Steady s0 s) (core : CoreId) (h : Hdr) (f : BitVec 51) :
    SteadyR s0 (execVred core h f s) := by
  unfold execVred
  with_reducible
    repeat' first
      | assumption | apply Steady.next | apply issueVec_steady

theorem vecRow_steady {s0 : State} {acc : State × Option NfElem} (hS : Steady s0 acc.1) (c : CoreId) (v : VecOp)
    (step : Nat) (shared : List F32) (pr : Nat × Nat) :
    Steady s0 (vecRow c v step shared acc pr).1 := by
  unfold vecRow
  with_reducible
    repeat' first
      | assumption | apply loadRow_steady | apply storeRow_steady | split

theorem runVec_steady {s0 s : State} (hS : Steady s0 s) (c : CoreId) (i : QInst) (v : VecOp) :
    Steady s0 (runVec s c i v) := by
  unfold runVec
  with_reducible
    repeat' first
      | assumption | apply chargeVector_steady | apply loadRow_steady | apply vecRow_steady
      | apply noteNonfinite_steady | intro _ | apply Steady.foldlFst | split | dsimp only

theorem unitTrap_steady {s0 s : State} (hS : Steady s0 s) (c : CoreId) (q : Nat) (i : QInst) (t : TrapInfo) :
    Steady s0 (unitTrap s c q i t) := by
  unfold unitTrap
  with_reducible
    repeat' first
      | assumption | apply State.modCore_steady | apply trapCore_steady

theorem finishVector_steady {s0 s : State} (hS : Steady s0 s) (c : CoreId) : Steady s0 (finishVector s c) := by
  unfold finishVector
  with_reducible
    repeat' first
      | assumption | apply unitTrap_steady | apply finishHead_steady | apply runVec_steady | split | dsimp only

/-! ## Machine/Matrix.lean -/

theorem execMmul_steady {s0 s : State} (hS : Steady s0 s) (core : CoreId) (h : Hdr) (f : BitVec 51) :
    SteadyR s0 (execMmul core h f s) := by
  unfold execMmul
  with_reducible
    repeat' first
      | assumption | apply Steady.next | apply issue_steady | apply enqueue_steady | intro _

theorem execMwld_steady {s0 s : State} (hS : Steady s0 s) (core : CoreId) (h : Hdr) (f : BitVec 51) :
    SteadyR s0 (execMwld core h f s) := by
  unfold execMwld
  with_reducible
    repeat' first
      | assumption | apply Steady.next | apply issue_steady | apply enqueue_steady | intro _

theorem execMrd_steady {s0 s : State} (hS : Steady s0 s) (core : CoreId) (h : Hdr) (f : BitVec 51) :
    SteadyR s0 (execMrd core h f s) := by
  unfold execMrd
  with_reducible
    repeat' first
      | assumption | apply Steady.next | apply issue_steady | apply enqueue_steady | intro _

theorem loadCols_steady {s0 s : State} (hS : Steady s0 s) (core : CoreId) (f : Format) (c : Nat) (off : Nat) (c0 :
    Nat) (c1 : Nat) :
    Steady s0 (loadCols s core f c off c0 c1).2 := by
  unfold loadCols
  with_reducible
    repeat' first
      | assumption | apply scratchLoad_steady | split

theorem loadEach_steady {s0 s : State} (hS : Steady s0 s) {α : Type} {β : Type} (l : List α) (g : State → α → β ×
    State) (hF : ∀ x0 x1, Steady s0 x0 → Steady s0 (g x0 x1).2) :
    Steady s0 (@loadEach α β l g s).2 := by
  unfold loadEach
  with_reducible
    repeat' first
      | assumption | apply hF | intro _ | apply Steady.foldlSnd

theorem loadDense_steady {s0 s : State} (hS : Steady s0 s) (core : CoreId) (w : Desc) (k0 : Nat) (k1 : Nat) (c0 :
    Nat) (c1 : Nat) :
    Steady s0 (loadDense s core w k0 k1 c0 c1).2 := by
  unfold loadDense
  with_reducible
    repeat' first
      | assumption | apply loadEach_steady | apply loadCols_steady | intro _

theorem loadGroup_steady {s0 s : State} (hS : Steady s0 s) (core : CoreId) (w : Desc) (spar : Nat) (c0 : Nat) (c1
    : Nat) (g : Nat) :
    Steady s0 (loadGroup core w spar c0 c1 s g).2 := by
  unfold loadGroup
  with_reducible
    repeat' first
      | assumption | apply loadEach_steady | apply loadCols_steady | apply scratchLoad_steady | intro _

theorem loadSparse_steady {s0 s : State} (hS : Steady s0 s) (core : CoreId) (w : Desc) (spar : Nat) (g0 : Nat) (g1
    : Nat) (c0 : Nat) (c1 : Nat) :
    Steady s0 (loadSparse s core w spar g0 g1 c0 c1).2 := by
  unfold loadSparse
  with_reducible
    repeat' first
      | assumption | apply loadEach_steady | apply loadGroup_steady | apply State.bumpBy_steady | intro _

theorem loadBlock_steady {s0 s : State} (hS : Steady s0 s) (core : CoreId) (w : Desc) (spar : Nat) (kb : Nat)
    (kRows : Nat) (c0 : Nat) (c1 : Nat) :
    Steady s0 (loadBlock s core w spar kb kRows c0 c1).2 := by
  unfold loadBlock
  with_reducible
    repeat' first
      | assumption | apply loadDense_steady | apply loadSparse_steady | split

theorem noteArrays_steady {s0 s : State} (hS : Steady s0 s) (c : CoreId) (r : ArrayReads)
    : Steady s0 (noteArrays s c r) := by
  unfold noteArrays
  with_reducible
    repeat' first
      | assumption | apply State.when_steady | apply State.bumpBy_steady | intro _

theorem engineFails_steady {s0 s : State} (hS : Steady s0 s) (c : CoreId) (i : QInst) (e : Nat) :
    Steady s0 (engineFails s c i e) := by
  unfold engineFails
  with_reducible
    repeat' first
      | assumption | apply unitTrap_steady | apply State.modCore_steady

theorem foldActs_steady {s0 s : State} (hS : Steady s0 s) (core : CoreId) (x : MmRun) (f : Fold) :
    Steady s0 (foldActs s core x f).2 := by
  unfold foldActs
  with_reducible
    repeat' first
      | assumption | apply loadEach_steady | apply loadCols_steady | intro _

theorem runEngine_steady {s0 s : State} (hS : Steady s0 s) (core : CoreId) (x : MmRun) (f : Fold) (held : Option
    WTile) (as : List (Nat × (Nat → Val))) (e : Nat) :
    Steady s0 (runEngine core x f held as s e) := by
  unfold runEngine
  with_reducible
    repeat' first
      | assumption | apply State.bump_steady | apply loadBlock_steady | apply State.modCore_steady | split

theorem storeCols_steady {s0 s : State} (hS : Steady s0 s) (c : CoreId) (d : Desc) (rnd : Nat) (step : Nat) (r :
    Nat) (c0 : Nat) (vs : List F32) :
    Steady s0 (storeCols s c d rnd step r c0 vs).1 := by
  unfold storeCols
  with_reducible
    repeat' first
      | assumption | apply scratchStore_steady | split | dsimp only

theorem groupRow_steady {s0 : State} {acc : State × Option NfElem} (hS : Steady s0 acc.1) (c : CoreId) (x : MmRun)
    (step : Nat) (g : Nat) (m : Nat) :
    Steady s0 (groupRow c x step g acc m).1 := by
  unfold groupRow
  with_reducible
    repeat' first
      | assumption | apply State.modCore_steady | apply loadRow_steady | apply storeCols_steady | split

theorem endGroup_steady {s0 s : State} (hS : Steady s0 s) (c : CoreId) (x : MmRun) (step : Nat) (g : Nat) (nf :
    Option NfElem) :
    Steady s0 (endGroup s c x step g nf).1 := by
  unfold endGroup
  with_reducible
    repeat' first
      | assumption | apply groupRow_steady | apply State.bumpBy_steady | intro _ | apply Steady.foldlFst

theorem beginMmul_steady {s0 s : State} (hS : Steady s0 s) (c : CoreId) (i : QInst) (m : Mm) :
    Steady s0 (beginMmul s c i m).2 := by
  unfold beginMmul
  with_reducible
    repeat' first
      | assumption | apply State.when_steady | apply scratchLoad_steady | apply State.bump_steady
      | apply State.modCore_steady | intro _ | split

theorem runFold_steady {s0 s : State} (hS : Steady s0 s) (c : CoreId) (i : QInst) (x : MmRun) (f : Fold)
    (nextF : Option Fold) : Steady s0 (runFold s c i x f nextF) := by
  unfold runFold
  with_reducible
    repeat' first
      | assumption | apply engineFails_steady | apply setHead_steady | apply chargeEngine_steady
      | apply State.bumpBy_steady | apply State.bump_steady | apply noteArrays_steady | apply foldActs_steady
      | apply runEngine_steady | apply endGroup_steady | apply State.modCore_steady | intro _ | apply Steady.foldl
      | apply Steady.foldlFst | apply Steady.foldlSnd | apply Steady.foldlSnd2 | apply Steady.foldlLoad
      | apply Steady.foldlSeg | apply Steady.foldlImport | apply Steady.foldlSnd3 | split

theorem mmulFold_steady {s0 s : State} (hS : Steady s0 s) (c : CoreId) (i : QInst) (m : Mm) :
    Steady s0 (mmulFold s c i m) := by
  unfold mmulFold
  with_reducible
    repeat' first
      | assumption | apply unitTrap_steady | apply beginMmul_steady | apply setHead_steady | apply runFold_steady
      | split | dsimp only

theorem takeProduct_steady {s0 s : State} (hS : Steady s0 s) (c : CoreId) : Steady s0 (takeProduct s c) := by
  unfold takeProduct
  with_reducible
    repeat' first
      | assumption | apply State.modCore_steady | intro _ | split | dsimp only | apply Steady.mk'

theorem execMatrixFoldBoundary_steady {s0 s : State} (hS : Steady s0 s) (core : CoreId) :
    SteadyR s0 (execMatrixFoldBoundary core s) := by
  unfold execMatrixFoldBoundary
  with_reducible
    repeat' first
      | assumption | apply Steady.next | apply takeProduct_steady | apply mmulFold_steady | split | dsimp only

theorem closeMmul_steady {s0 s : State} (hS : Steady s0 s) (c : CoreId) (i : QInst) (x : MmRun) :
    Steady s0 (closeMmul s c i x) := by
  unfold closeMmul
  with_reducible
    repeat' first
      | assumption | apply State.when_steady | apply chargeEngine_steady | apply State.bump_steady
      | apply endGroup_steady | apply State.modCore_steady | apply noteNonfinite_steady | intro _
      | apply Steady.foldlFst | split | dsimp only

theorem finishMmul_steady {s0 s : State} (hS : Steady s0 s) (c : CoreId) (i : QInst) (m : Mm)
    : Steady s0 (finishMmul s c i m) := by
  unfold finishMmul
  with_reducible
    repeat' first
      | assumption | apply unitTrap_steady | apply beginMmul_steady | apply engineFails_steady | apply setHead_steady
      | apply finishHead_steady | apply closeMmul_steady | apply noteArrays_steady | intro _ | split | dsimp only

theorem runMwld_steady {s0 s : State} (hS : Steady s0 s) (c : CoreId) (d : Desc) (spar : Nat)
    : Steady s0 (runMwld s c d spar) := by
  unfold runMwld
  with_reducible
    repeat' first
      | assumption | apply chargeEngine_steady | apply loadEach_steady | apply loadBlock_steady
      | apply State.modCore_steady | intro _

theorem mrdRow_steady {s0 : State} {acc : State × Option NfElem} (hS : Steady s0 acc.1) (c : CoreId) (d : Desc)
    (set : Nat) (rnd : Nat) (step : Nat) (clear : Bool) (q : F32) (m : Nat) :
    Steady s0 (mrdRow c d set rnd step clear q acc m).1 := by
  unfold mrdRow
  with_reducible
    repeat' first
      | assumption | apply State.when_steady | apply storeCols_steady | apply State.modCore_steady | intro _

theorem runMrd_steady {s0 s : State} (hS : Steady s0 s) (c : CoreId) (i : QInst) (d : Desc) (set : Nat) (clear :
    Bool) (rnd : Nat) (flags : Bool) (q : F32) :
    Steady s0 (runMrd s c i d set clear rnd flags q) := by
  unfold runMrd
  with_reducible
    repeat' first
      | assumption | apply mrdRow_steady | apply chargeEngine_steady | apply noteNonfinite_steady | intro _
      | apply Steady.foldlFst | split | dsimp only

theorem matrixHead_steady {s0 s : State} (hS : Steady s0 s) (c : CoreId) : Steady s0 (matrixHead s c) := by
  unfold matrixHead
  with_reducible
    repeat' first
      | assumption | apply unitTrap_steady | apply finishHead_steady | apply runMwld_steady | apply engineFails_steady
      | apply runMrd_steady | apply noteArrays_steady | apply finishMmul_steady | intro _ | split | dsimp only

theorem finishMatrix_steady {s0 s : State} (hS : Steady s0 s) (c : CoreId) : Steady s0 (finishMatrix s c) := by
  unfold finishMatrix
  with_reducible
    repeat' first
      | assumption | apply takeProduct_steady | apply matrixHead_steady | split

/-! ## Machine/Purl.lean -/

theorem execPmv_steady {s0 s : State} (hS : Steady s0 s) (core : CoreId) (h : Hdr) (f : BitVec 51) :
    SteadyR s0 (execPmv core h f s) := by
  unfold execPmv
  with_reducible
    repeat' first
      | assumption | apply Steady.next | apply issue_steady | apply enqueue_steady | intro _

theorem loadWRow_steady {s0 s : State} (hS : Steady s0 s) (c : CoreId) (w : Desc) (r : Nat) :
    Steady s0 (loadWRow c w s r).2 := by
  unfold loadWRow
  with_reducible
    repeat' first
      | assumption | apply loadRow_steady | apply memLoad_steady | apply countMove_steady | split

theorem runPmv_steady {s0 s : State} (hS : Steady s0 s) (c : CoreId) (i : QInst) (p : PurlOp) (wait : Nat)
    : Steady s0 (runPmv s c i p wait) := by
  unfold runPmv
  with_reducible
    repeat' first
      | assumption | apply State.bumpBy_steady | apply chargePurl_steady | apply loadEach_steady
      | apply loadRow_steady | apply loadWRow_steady | apply storeRow_steady | apply noteNonfinite_steady | intro _
      | apply Steady.foldl | apply Steady.foldlFst | apply Steady.foldlSnd | apply Steady.foldlSnd2
      | apply Steady.foldlLoad | apply Steady.foldlSeg | apply Steady.foldlImport | apply Steady.foldlSnd3 | split
      | dsimp only

theorem finishPurl_steady {s0 s : State} (hS : Steady s0 s) (c : CoreId) (wait : Nat) :
    Steady s0 (finishPurl s c wait) := by
  unfold finishPurl
  with_reducible
    repeat' first
      | assumption | apply unitTrap_steady | apply finishHead_steady | apply runPmv_steady | split | dsimp only

/-! ## Machine/Dma.lean -/

theorem issueDesc_steady {s0 s : State} (hS : Steady s0 s) (c : CoreId) (op : Nat) (words : Nat) (h : Hdr) (f :
    BitVec 51) (legal : Bool) (q : Nat) (size : Nat) (w1 : Nat) (w2 : Nat) (w3 : Nat) :
    Steady s0 (issueDesc s c op words h f legal q size w1 w2 w3) := by
  unfold issueDesc
  with_reducible
    repeat' first
      | assumption | apply issue_steady | apply stallOn_steady | intro _ | split

theorem execDma_steady {s0 s : State} (hS : Steady s0 s) (core : CoreId) (h : Hdr) (f : BitVec 51) :
    SteadyR s0 (execDma core h f s) := by
  unfold execDma
  with_reducible
    repeat' first
      | assumption | apply Steady.next | apply issueDesc_steady

theorem execTld_steady {s0 s : State} (hS : Steady s0 s) (core : CoreId) (h : Hdr) (f : BitVec 51) :
    SteadyR s0 (execTld core h f s) := by
  unfold execTld
  with_reducible
    repeat' first
      | assumption | apply Steady.next | apply issue_steady | apply enqueue_steady | intro _

theorem moverLoad_steady {s0 s : State} (hS : Steady s0 s) (c : CoreId) (g : Seg) (off : Nat) (n : Nat) (hint :
    Nat) (how : MemOutcome) :
    Steady s0 (moverLoad s c g off n hint how).s := by
  unfold moverLoad
  with_reducible
    repeat' first
      | assumption | apply scratchLoad_steady | apply memLoad_steady | apply countMove_steady | split

theorem moverStore_steady {s0 s : State} (hS : Steady s0 s) (c : CoreId) (g : Seg) (off : Nat) (bs : List Byte)
    (hint : Nat) :
    Steady s0 (moverStore s c g off bs hint) := by
  unfold moverStore
  with_reducible
    repeat' first
      | assumption | apply scratchStore_steady | apply memStore_steady | apply countMove_steady | split

theorem moverPut_steady {s0 s : State} (hS : Steady s0 s) (c : CoreId) (g : Seg) (off : Nat) (bs : List Byte)
    (hint : Nat) :
    Steady s0 (moverPut s c g off bs hint) := by
  unfold moverPut
  with_reducible
    repeat' first
      | assumption | apply scratchStore_steady | apply memStore_steady | apply countAt_steady | split

theorem moverPoison_steady {s0 s : State} (hS : Steady s0 s) (c : CoreId) (g : Seg) (off : Nat) (n : Nat) (hint : Nat)
    : Steady s0 (moverPoison s c g off n hint) := by
  unfold moverPoison
  with_reducible
    repeat' first
      | assumption | apply poisonScratch_steady | apply poisonMem_steady | intro _ | split

theorem poisonRuns_steady {s0 s : State} (hS : Steady s0 s) (c : CoreId) (g : Seg) (off : Nat) (n : Nat) (bad : Nat)
    (hint : Nat) : Steady s0 (poisonRuns s c g off n bad hint) := by
  unfold poisonRuns
  with_reducible
    repeat' first
      | assumption | apply State.each_steady | apply moverPoison_steady | intro _

theorem loadPieces_steady {s0 s : State} (hS : Steady s0 s) (c : CoreId) (g : Seg) (hint : Nat) (how : MemOutcome)
    (ps : List (Nat × Nat)) :
    Steady s0 (loadPieces c g hint how s ps).s := by
  unfold loadPieces
  with_reducible
    repeat' first
      | assumption | apply moverLoad_steady | intro _ | apply Steady.foldlLoad

theorem rowPart_steady {s0 s : State} (hS : Steady s0 s) (n : Nat) (r : Row) (b0 : Nat) (b1 : Nat)
    : Steady s0 (rowPart n r b0 b1 s).s := by
  unfold rowPart
  with_reducible
    repeat' first
      | assumption

theorem readZrRow_steady {s0 s : State} (hS : Steady s0 s) (c : CoreId) (x : Xfer) (how : MemOutcome) (i : Nat)
    : Steady s0 (readZrRow s c x how i).s := by
  unfold readZrRow
  with_reducible
    repeat' first
      | assumption | apply moverLoad_steady | apply State.bumpBy_steady

theorem readPiece_steady {s0 s : State} (hS : Steady s0 s) (c : CoreId) (x : Xfer) (ring : Option RingView)
    (how : MemOutcome) (held : Option (Nat × Row)) (i : Nat) (b0 : Nat) (b1 : Nat)
    : Steady s0 (readPiece s c x ring how held i b0 b1).1.s := by
  unfold readPiece
  with_reducible
    repeat' first
      | assumption | apply loadPieces_steady | apply moverLoad_steady | apply rowPart_steady | apply readZrRow_steady
      | intro _ | split | dsimp only

theorem writeZrRow_steady {s0 s : State} (hS : Steady s0 s) (c : CoreId) (x : Xfer) (i : Nat) (raw : List Byte)
    (bad : Bool) : Steady s0 (writeZrRow s c x i raw bad).1 := by
  unfold writeZrRow
  with_reducible
    repeat' first
      | assumption | apply moverStore_steady | apply State.bumpBy_steady | apply State.when_steady
      | apply moverPoison_steady | intro _

theorem writePiece_steady {s0 s : State} (hS : Steady s0 s) (c : CoreId) (x : Xfer) (ring : Option RingView) (i : Nat)
    (b0 : Nat) (bs : List Byte) (bad : Nat) : Steady s0 (writePiece s c x ring i b0 bs bad).1 := by
  unfold writePiece
  with_reducible
    repeat' first
      | assumption | apply moverStore_steady | apply poisonRuns_steady | intro _ | apply Steady.foldl
      | apply Steady.foldlFst | apply Steady.foldlSnd | apply Steady.foldlSnd2 | apply Steady.foldlLoad
      | apply Steady.foldlSeg | apply Steady.foldlImport | apply Steady.foldlSnd3 | split

theorem poisonPieces_steady {s0 s : State} (hS : Steady s0 s) (c : CoreId) (x : Xfer) (ring : Option RingView)
    (ps : List (Nat × Nat × Nat)) : Steady s0 (poisonPieces s c x ring ps) := by
  unfold poisonPieces
  with_reducible
    repeat' first
      | assumption | apply State.each_steady | apply moverPoison_steady | intro _ | split

theorem poisonSegment_steady {s0 s : State} (hS : Steady s0 s) (c : CoreId) (x : Xfer) (k : Nat)
    : Steady s0 (poisonSegment s c x k) := by
  unfold poisonSegment
  with_reducible
    repeat' first
      | assumption | apply poisonPieces_steady

theorem movePiece_steady {s0 : State} {o : SegOut} (hS : Steady s0 o.s) (c : CoreId) (x : Xfer)
    (ringIn : Option RingView) (ringOut : Option RingView) (how : MemOutcome) (p : Nat × Nat × Nat)
    : Steady s0 (movePiece c x ringIn ringOut how o p).s := by
  unfold movePiece
  with_reducible
    repeat' first
      | assumption | apply readPiece_steady | apply writePiece_steady | apply writeZrRow_steady | intro _ | split
      | dsimp only

theorem movePieces_steady {s0 : State} {o : SegOut} (hS : Steady s0 o.s) (c : CoreId) (x : Xfer)
    (ringIn : Option RingView) (ringOut : Option RingView) (how : MemOutcome) (ps : List (Nat × Nat × Nat))
    : Steady s0 (movePieces c x ringIn ringOut how o ps).s := by
  unfold movePieces
  with_reducible
    repeat' first
      | assumption | apply movePiece_steady | intro _ | apply Steady.foldl | apply Steady.foldlFst
      | apply Steady.foldlSnd | apply Steady.foldlSnd2 | apply Steady.foldlLoad | apply Steady.foldlSeg

theorem moveSegment_steady {s0 s : State} (hS : Steady s0 s) (c : CoreId) (x : Xfer) (how : MemOutcome)
    (row : Option (Nat × Row)) (k : Nat) : Steady s0 (moveSegment s c x how row k).s := by
  unfold moveSegment
  with_reducible
    repeat' first
      | assumption | apply takeUpset_steady | apply movePieces_steady | apply State.when_steady
      | apply State.bump_steady | apply poisonSegment_steady | intro _ | split | dsimp only

theorem setBulk_steady {s0 s : State} (hS : Steady s0 s) (d : DieId) (k : Nat) (o : Option (Nat × Nat)) :
    Steady s0 (setBulk s d k o) := by
  unfold setBulk
  with_reducible
    repeat' first
      | assumption | apply State.modDie_steady

theorem execBulkChannelAssign_steady {s0 s : State} (hS : Steady s0 s) (core : CoreId) (ch : Fin 4) :
    SteadyR s0 (execBulkChannelAssign core ch s) := by
  unfold execBulkChannelAssign
  with_reducible
    repeat' first
      | assumption | apply Steady.next | apply setHead_steady | apply setBulk_steady | split | dsimp only

theorem dmaHalted_steady {s0 s : State} (hS : Steady s0 s) (c : CoreId) (ch : Nat) (pc : Nat) (first : Nat) :
    Steady s0 (dmaHalted s c ch pc first) := by
  unfold dmaHalted
  with_reducible
    repeat' first
      | assumption | apply raiseOn_steady | apply State.bump_steady

theorem haltXfer_steady {s0 s : State} (hS : Steady s0 s) (c : CoreId) (ch : Nat) (i : QInst) (x : Xfer) (codes :
    List (Nat × Nat)) (first : Nat) :
    Steady s0 (haltXfer s c ch i x codes first) := by
  unfold haltXfer
  with_reducible
    repeat' first
      | assumption | apply State.each_steady | apply poisonSegment_steady | apply setHead_steady
      | apply dmaHalted_steady | intro _

theorem readFill_steady {s0 s : State} (hS : Steady s0 s) (c : CoreId) (a : Desc) : Steady s0 (readFill s c a).2 := by
  unfold readFill
  with_reducible
    repeat' first
      | assumption | apply moverLoad_steady

theorem moveExb_steady {s0 s : State} (hS : Steady s0 s) (c : CoreId) (x : Xfer) (a : Desc) (fill : Row)
    (how : MemOutcome) (row : Option (Nat × Row)) (k : Nat) : Steady s0 (moveExb s c x a fill how row k).s := by
  unfold moveExb
  with_reducible
    repeat' first
      | assumption | apply State.bump_steady | apply moverPoison_steady | apply moveSegment_steady | intro _ | split

theorem runSegment_steady {s0 s : State} (hS : Steady s0 s) (c : CoreId) (i : QInst) (x : Xfer) (how : MemOutcome)
    (row : Option (Nat × Row)) (k : Nat) : Steady s0 (runSegment s c i x how row k).s := by
  unfold runSegment
  with_reducible
    repeat' first
      | assumption | apply moveExb_steady | apply moveSegment_steady | intro _ | split

theorem beginXfer_steady {s0 s : State} (hS : Steady s0 s) (c : CoreId) (i : QInst) :
    Steady s0 (beginXfer s c i).2 := by
  unfold beginXfer
  with_reducible
    repeat' first
      | assumption | apply readFill_steady | split

theorem stepSegment_steady {s0 s : State} (hS : Steady s0 s) (c : CoreId) (ch : Nat) (i : QInst) (x : Xfer)
    (how : MemOutcome) : Steady s0 (stepSegment s c ch i x how) := by
  unfold stepSegment
  with_reducible
    repeat' first
      | assumption | apply unitTrap_steady | apply beginXfer_steady | apply runSegment_steady | apply haltXfer_steady
      | apply setHead_steady | apply State.modCore_steady | intro _ | split | dsimp only

theorem execDmaSegmentDone_steady {s0 s : State} (hS : Steady s0 s) (core : CoreId) (ch : Fin 4) (how :
    MemOutcome) :
    SteadyR s0 (execDmaSegmentDone core ch how s) := by
  unfold execDmaSegmentDone
  with_reducible
    repeat' first
      | assumption | apply Steady.next | apply stepSegment_steady | split

theorem runInFlight_steady {s0 : State} {acc : State × List (Nat × Nat)} (hS : Steady s0 acc.1) (c : CoreId)
    (i : QInst) (x : Xfer) (k : Nat) : Steady s0 (runInFlight c i x acc k).1 := by
  unfold runInFlight
  with_reducible
    repeat' first
      | assumption | apply runSegment_steady

theorem failSegment_steady {s0 s : State} (hS : Steady s0 s) (c : CoreId) (ch : Nat) (i : QInst) (x : Xfer)
    (atDest : Bool) (inFlight : Nat) :
    Steady s0 (failSegment s c ch i x atDest inFlight) := by
  unfold failSegment
  with_reducible
    repeat' first
      | assumption | apply unitTrap_steady | apply beginXfer_steady | apply State.bump_steady
      | apply poisonSegment_steady | apply runInFlight_steady | apply haltXfer_steady | intro _
      | apply Steady.foldlFst | split

theorem countUnmoved_steady {s0 s : State} (hS : Steady s0 s) (c : CoreId) (x : Xfer) (v : StreamRun)
    (p : Nat × Nat × Nat) : Steady s0 (countUnmoved c x v s p) := by
  unfold countUnmoved
  with_reducible
    repeat' first
      | assumption | apply countMove_steady | apply State.each_steady | apply State.when_steady | intro _ | split
      | dsimp only

theorem streamSegment_steady {s0 : State} {acc : State × List (Nat × Nat)} (hS : Steady s0 acc.1) (c : CoreId)
    (x : Xfer) (v : StreamRun) (seg : Nat) : Steady s0 (streamSegment c x v acc seg).1 := by
  unfold streamSegment
  with_reducible
    repeat' first
      | assumption | apply takeUpset_steady | apply movePieces_steady | apply State.each_steady
      | apply countUnmoved_steady | apply State.when_steady | apply State.bump_steady | apply poisonPieces_steady
      | intro _ | split | dsimp only

theorem streamStep_steady {s0 : State} {acc : State × List (Nat × Nat)} (hS : Steady s0 acc.1) (c : CoreId) (x : Xfer)
    (v : StreamRun) (limit : Nat) (seg : Nat) : Steady s0 (streamStep c x v limit acc seg).1 := by
  unfold streamStep
  with_reducible
    repeat' first
      | assumption | apply poisonPieces_steady | apply streamSegment_steady | intro _ | split

theorem streamSegments_steady {s0 s : State} (hS : Steady s0 s) (c : CoreId) (x : Xfer) (v : StreamRun)
    (fail : Option StreamFail) : Steady s0 (streamSegments s c x v fail).1 := by
  unfold streamSegments
  with_reducible
    repeat' first
      | assumption | apply streamStep_steady | apply State.bump_steady | apply poisonPieces_steady | intro _
      | apply Steady.foldl | apply Steady.foldlFst | apply Steady.foldlSnd | apply Steady.foldlSnd2
      | apply Steady.foldlLoad | apply Steady.foldlSeg | apply Steady.foldlImport | apply Steady.foldlSnd3 | split

theorem advanceRing_steady {s0 s : State} (hS : Steady s0 s) (g : Seg) (off : Nat) (v : Nat) (hint : Nat) :
    Steady s0 (advanceRing s g off v hint) := by
  unfold advanceRing
  with_reducible
    repeat' first
      | assumption | apply memStore_steady

theorem poisonRing_steady {s0 s : State} (hS : Steady s0 s) (c : CoreId) (x : Xfer) (r : RingView)
    : Steady s0 (poisonRing s c x r) := by
  unfold poisonRing
  with_reducible
    repeat' first
      | assumption | apply State.each_steady | apply moverPoison_steady | intro _ | split

theorem ringInvalid_steady {s0 s : State} (hS : Steady s0 s) (c : CoreId) (ch : Nat) (i : QInst) (x : Xfer)
    (r : RingView) : Steady s0 (ringInvalid s c ch i x r) := by
  unfold ringInvalid
  with_reducible
    repeat' first
      | assumption | apply poisonRing_steady | apply State.each_steady | apply poisonSegment_steady
      | apply setHead_steady | apply State.bump_steady | intro _ | split

theorem runStream_steady {s0 s : State} (hS : Steady s0 s) (c : CoreId) (ch : Nat) (i : QInst) (x : Xfer)
    (fail : Option StreamFail) : Steady s0 (runStream s c ch i x fail) := by
  unfold runStream
  with_reducible
    repeat' first
      | assumption | apply moverLoad_steady | apply ringInvalid_steady | apply streamSegments_steady
      | apply advanceRing_steady | apply moverPut_steady | apply State.when_steady | apply State.bump_steady
      | apply setHead_steady | apply dmaHalted_steady | intro _ | split | dsimp only

theorem streamHead_steady {s0 s : State} (hS : Steady s0 s) (c : CoreId) (ch : Nat) (mode : Nat)
    (fail : Option StreamFail) : Steady s0 (streamHead s c ch mode fail) := by
  unfold streamHead
  with_reducible
    repeat' first
      | assumption | apply unitTrap_steady | apply runStream_steady | intro _ | split

theorem execStreamIn_steady {s0 s : State} (hS : Steady s0 s) (core : CoreId) (ch : Fin 4)
    : SteadyR s0 (execStreamIn core ch s) := by
  unfold execStreamIn
  with_reducible
    repeat' first
      | assumption | apply Steady.next | apply streamHead_steady

theorem execStreamOut_steady {s0 s : State} (hS : Steady s0 s) (core : CoreId) (ch : Fin 4)
    : SteadyR s0 (execStreamOut core ch s) := by
  unfold execStreamOut
  with_reducible
    repeat' first
      | assumption | apply Steady.next | apply streamHead_steady

theorem execDmaSegmentFailed_steady {s0 s : State} (hS : Steady s0 s) (core : CoreId) (ch : Fin 4) (atDest : Bool)
    (inFlight : Fin 4) : SteadyR s0 (execDmaSegmentFailed core ch atDest inFlight s) := by
  unfold execDmaSegmentFailed
  with_reducible
    repeat' first
      | assumption | apply Steady.next | apply streamHead_steady | apply failSegment_steady | intro _ | split

theorem tldMask_steady {s0 s : State} (hS : Steady s0 s) (c : CoreId) (i : QInst) (x : Xfer)
    : Steady s0 (tldMask s c i x) := by
  unfold tldMask
  with_reducible
    repeat' first
      | assumption | apply moverPut_steady | intro _ | split

theorem writeRecord_steady {s0 s : State} (hS : Steady s0 s) (c : CoreId) (i : QInst) (x : Xfer) :
    Steady s0 (writeRecord s c i x) := by
  unfold writeRecord
  with_reducible
    repeat' first
      | assumption | apply moverPut_steady | split

theorem endXfer_steady {s0 s : State} (hS : Steady s0 s) (c : CoreId) (ch : Nat) (i : QInst) (x : Xfer) :
    Steady s0 (endXfer s c ch i x) := by
  unfold endXfer
  with_reducible
    repeat' first
      | assumption | apply tldMask_steady | apply writeRecord_steady | apply setBulk_steady | apply finishHead_steady
      | split

theorem finishDma_steady {s0 s : State} (hS : Steady s0 s) (c : CoreId) (ch : Nat) :
    Steady s0 (finishDma s c ch) := by
  unfold finishDma
  with_reducible
    repeat' first
      | assumption | apply unitTrap_steady | apply endXfer_steady | split

/-! ## Machine/Control.lean -/

theorem execWaitq_steady {s0 s : State} (hS : Steady s0 s) (core : CoreId) (h : Hdr) (f : BitVec 51) :
    SteadyR s0 (execWaitq core h f s) := by
  unfold execWaitq
  with_reducible
    repeat' first
      | assumption | apply Steady.next | apply issue_steady | apply State.setCore_steady | apply stallOn_steady
      | intro _ | split | dsimp only

theorem execWaitqRelease_steady {s0 s : State} (hS : Steady s0 s) (core : CoreId) :
    SteadyR s0 (execWaitqRelease core s) := by
  unfold execWaitqRelease
  with_reducible
    repeat' first
      | assumption | apply Steady.next | apply State.setCore_steady | split | dsimp only

theorem execBankset_steady {s0 s : State} (hS : Steady s0 s) (core : CoreId) (h : Hdr) (f : BitVec 51) :
    SteadyR s0 (execBankset core h f s) := by
  unfold execBankset
  with_reducible
    repeat' first
      | assumption | apply Steady.next | apply issue_steady | apply State.modCore_steady | intro _

theorem execFlagset_steady {s0 s : State} (hS : Steady s0 s) (core : CoreId) (h : Hdr) (f : BitVec 51) :
    SteadyR s0 (execFlagset core h f s) := by
  unfold execFlagset
  with_reducible
    repeat' first
      | assumption | apply Steady.next | apply issue_steady | apply State.modCore_steady | apply raiseFlags_steady
      | intro _

theorem execFlagrd_steady {s0 s : State} (hS : Steady s0 s) (core : CoreId) (h : Hdr) (f : BitVec 51) :
    SteadyR s0 (execFlagrd core h f s) := by
  unfold execFlagrd
  with_reducible
    repeat' first
      | assumption | apply Steady.next | apply issue_steady | apply writeSreg_steady | apply stallOn_steady | intro _
      | split

theorem execFlagrdPayloadFinal_steady {s0 s : State} (hS : Steady s0 s) (core : CoreId) :
    SteadyR s0 (execFlagrdPayloadFinal core s) := by
  unfold execFlagrdPayloadFinal
  with_reducible
    repeat' first
      | assumption | apply Steady.next | apply State.modCore_steady | split

theorem execPtag_steady {s0 s : State} (hS : Steady s0 s) (core : CoreId) (h : Hdr) (f : BitVec 51)
    : SteadyR s0 (execPtag core h f s) := by
  unfold execPtag
  with_reducible
    repeat' first
      | assumption | apply Steady.next | apply issue_steady | apply State.modCore_steady | intro _

theorem execSrdScaleRelease_steady {s0 s : State} (hS : Steady s0 s) (core : CoreId) :
    SteadyR s0 (execSrdScaleRelease core s) := by
  unfold execSrdScaleRelease
  with_reducible
    repeat' first
      | assumption | apply Steady.next | apply State.modCore_steady | split

theorem execIssueQueueSpace_steady {s0 s : State} (hS : Steady s0 s) (core : CoreId) :
    SteadyR s0 (execIssueQueueSpace core s) := by
  unfold execIssueQueueSpace
  with_reducible
    repeat' first
      | assumption | apply Steady.next | apply State.setCore_steady | split | dsimp only

theorem execFendRetire_steady {s0 s : State} (hS : Steady s0 s) (core : CoreId) (elapsed : Nat) :
    SteadyR s0 (execFendRetire core elapsed s) := by
  unfold execFendRetire
  with_reducible
    repeat' first
      | assumption | apply Steady.next | apply State.setCore_steady | apply overrunIf_steady | split | dsimp only

theorem execIcacheLineFill_steady {s0 s : State} (hS : Steady s0 s) (core : CoreId) (line : Nat) (how : FillOutcome)
    : SteadyR s0 (execIcacheLineFill core line how s) := by
  unfold execIcacheLineFill
  with_reducible
    repeat' first
      | assumption | apply Steady.next | apply State.when_steady | apply State.bump_steady | apply readLine_steady
      | intro _ | split | dsimp only

end Sys2Proof.Machine
end

