-- ==== Sys2Proof/Laws/SteadyFabric.lean ====
section
/-!
SUPPORT. Laws/SteadyFabric.lean: that the frames, collectives, exchanges, updates and ports leave the waiting commands alone and keep memory and
the scratchpads in canonical form. One lemma per operation and per meaning: from a state that is steady against
an earlier one, its effect is too.
-/
namespace Sys2Proof.Machine

/-! ## Machine/Links.lean -/

theorem State.modPort_steady {s0 s : State} (hS : Steady s0 s) (p : PortId) (f : Port → Port) :
    Steady s0 (State.modPort s p f) := by
  unfold State.modPort
  with_reducible
    repeat' first
      | assumption | intro _ | apply Steady.mk'

theorem noteFixed_steady {s0 s : State} (hS : Steady s0 s) (p : PortId) (n : Nat) (fixed : Nat) (bad : Bool)
    : Steady s0 (noteFixed s p n fixed bad) := by
  unfold noteFixed
  with_reducible
    repeat' first
      | assumption | apply State.when_steady | apply State.bumpBy_steady | intro _ | split | dsimp only

theorem emitFrame_steady {s0 s : State} (hS : Steady s0 s) (p : PortId) (type : Nat) (bs : List Byte)
    : Steady s0 (emitFrame s p type bs) := by
  unfold emitFrame
  with_reducible
    repeat' first
      | assumption | apply State.emit_steady | apply State.each_steady | apply State.modPort_steady | intro _ | split

theorem dsBoundary_steady {s0 s : State} (hS : Steady s0 s) (p : PortId) : Steady s0 (dsBoundary s p) := by
  unfold dsBoundary
  with_reducible
    repeat' first
      | assumption | apply State.modPort_steady | split | dsimp only

theorem sendRaw_steady {s0 s : State} (hS : Steady s0 s) (p : PortId) (type : Nat) (bs : List Byte)
    : Steady s0 (sendRaw s p type bs) := by
  unfold sendRaw
  with_reducible
    repeat' first
      | assumption | apply dsBoundary_steady | apply emitFrame_steady | apply State.modPort_steady | intro _ | split
      | dsimp only

theorem sendCtrl_steady {s0 s : State} (hS : Steady s0 s) (p : PortId) (nak : Bool) :
    Steady s0 (sendCtrl s p nak) := by
  unfold sendCtrl
  with_reducible
    repeat' first
      | assumption | apply State.modPort_steady | apply sendRaw_steady

theorem replayAll_steady {s0 s : State} (hS : Steady s0 s) (p : PortId) : Steady s0 (replayAll s p) := by
  unfold replayAll
  with_reducible
    repeat' first
      | assumption | apply State.each_steady | apply State.modPort_steady | apply sendRaw_steady | intro _

theorem portEvent_steady {s0 s : State} (hS : Steady s0 s) (p : PortId) (base : Nat) (d1 : Nat) :
    Steady s0 (portEvent s p base d1) := by
  unfold portEvent
  with_reducible
    repeat' first
      | assumption | apply raiseOn_steady

theorem enterRetraining_steady {s0 s : State} (hS : Steady s0 s) (p : PortId) (cause : Nat) :
    Steady s0 (enterRetraining s p cause).1 := by
  unfold enterRetraining
  with_reducible
    repeat' first
      | assumption | apply State.modPort_steady | apply portEvent_steady | split | dsimp only

theorem violation_steady {s0 s : State} (hS : Steady s0 s) (p : PortId) (c : Nat) :
    Steady s0 (violation s p c).1 := by
  unfold violation
  with_reducible
    repeat' first
      | assumption | apply State.modPort_steady | apply State.bump_steady | apply portEvent_steady
      | apply enterRetraining_steady | split | dsimp only

theorem nakFrame_steady {s0 s : State} (hS : Steady s0 s) (p : PortId) : Steady s0 (nakFrame s p) := by
  unfold nakFrame
  with_reducible
    repeat' first
      | assumption | apply State.modPort_steady | apply sendCtrl_steady

theorem frameInError_steady {s0 s : State} (hS : Steady s0 s) (p : PortId) : Steady s0 (frameInError s p) := by
  unfold frameInError
  with_reducible
    repeat' first
      | assumption | apply nakFrame_steady | apply State.bump_steady

theorem takeRx_steady {s0 s : State} (hS : Steady s0 s) (p : PortId) (vc : Nat) (i : Nat) :
    Steady s0 (takeRx s p vc i) := by
  unfold takeRx
  with_reducible
    repeat' first
      | assumption | apply State.modPort_steady

theorem freeCredit_steady {s0 s : State} (hS : Steady s0 s) (a : Nat × Nat) (vc : Nat) (units : Nat)
    : Steady s0 (freeCredit s a vc units) := by
  unfold freeCredit
  with_reducible
    repeat' first
      | assumption | apply State.modPort_steady

theorem queueFrame_steady {s0 s u : State} {d : DieId} {vc i : Nat} {f : OutFrame} (h : queueFrame s d vc i f = some u)
    (hS : Steady s0 s) : Steady s0 u := by
  unfold queueFrame at h
  split at h
  · cases h
  · cases h; exact State.modPort_steady (countPath_steady hS _ _ _) _ _

theorem unroutable_steady {s0 s : State} (hS : Steady s0 s) (d : DieId) (dest : Nat) :
    Steady s0 (unroutable s d dest) := by
  unfold unroutable
  with_reducible
    repeat' first
      | assumption | apply raiseFlags_steady | apply raiseOn_steady | apply State.bump_steady

theorem sendData_steady {s0 s : State} (hS : Steady s0 s) (p : PortId) (vc : Nat) (f : OutFrame)
    : Steady s0 (sendData s p vc f) := by
  unfold sendData
  with_reducible
    repeat' first
      | assumption | apply State.modPort_steady | apply countBytes_steady | apply State.bumpBy_steady
      | apply sendRaw_steady | apply freeCredit_steady | intro _ | split

/-! ## Machine/Coll.lean -/

theorem execColl_steady {s0 s : State} (hS : Steady s0 s) (core : CoreId) (h : Hdr) (f : BitVec 51) :
    SteadyR s0 (execColl core h f s) := by
  unfold execColl
  with_reducible
    repeat' first
      | assumption | apply Steady.next | apply issueDesc_steady

theorem State.modUnit_steady {s0 s : State} (hS : Steady s0 s) (d : DieId) (f : DieUnits → DieUnits) :
    Steady s0 (State.modUnit s d f) := by
  unfold State.modUnit
  with_reducible
    repeat' first
      | assumption | intro _ | apply Steady.mk'

theorem modColl_steady {s0 s : State} (hS : Steady s0 s) (d : DieId) (f : CollEngine → CollEngine) :
    Steady s0 (modColl s d f) := by
  unfold modColl
  with_reducible
    repeat' first
      | assumption | apply State.modUnit_steady

theorem modRun_steady {s0 s : State} (hS : Steady s0 s) (d : DieId) (i : Nat) (f : CollRun → CollRun) :
    Steady s0 (modRun s d i f) := by
  unfold modRun
  with_reducible
    repeat' first
      | assumption | apply modColl_steady

theorem loadOpt_steady {s0 s : State} (hS : Steady s0 s) (c : CoreId) (seg : Nat) (off : Nat) (n : Nat) :
    Steady s0 (loadOpt s c seg off n).2 := by
  unfold loadOpt
  with_reducible
    repeat' first
      | assumption | apply moverLoad_steady

theorem storeOpt_steady {s0 s : State} (hS : Steady s0 s) (c : CoreId) (seg : Nat) (off : Nat)
    (bs : List (Option Byte)) : Steady s0 (storeOpt s c seg off bs) := by
  unfold storeOpt
  with_reducible
    repeat' first
      | assumption | apply poisonRuns_steady | apply moverStore_steady | intro _ | split

theorem sendPiece_steady {s0 s : State} (hS : Steady s0 s) (d : DieId) (r : CollRun) (t : CollDest) (i : Nat)
    (offset : Nat) (data : List Byte) (poison : Bool) : Steady s0 (sendPiece s d r t i offset data poison).1 := by
  unfold sendPiece
  with_reducible
    repeat' first
      | assumption | apply countPath_steady | apply modColl_steady
      | refine queueFrame_steady ‹queueFrame _ _ _ _ _ = some _› ?_ | apply unroutable_steady | intro _ | split
      | dsimp only

theorem countZr_steady {s0 s : State} (hS : Steady s0 s) (raw : Nat) (enc : Nat) : Steady s0 (countZr s raw enc) := by
  unfold countZr
  with_reducible
    repeat' first
      | assumption | apply State.bumpBy_steady

theorem sendChunk_steady {s0 s : State} (hS : Steady s0 s) (d : DieId) (r : CollRun) (t : CollDest) (at' : Nat)
    (off : Nat) (bs : List (Option Byte)) : Steady s0 (sendChunk s d r t at' off bs).1 := by
  unfold sendChunk
  with_reducible
    repeat' first
      | assumption | apply sendPiece_steady | apply countZr_steady | intro _ | apply Steady.foldl
      | apply Steady.foldlFst | apply Steady.foldlSnd | apply Steady.foldlSnd2 | apply Steady.foldlLoad
      | apply Steady.foldlSeg | apply Steady.foldlImport | apply Steady.foldlSnd3 | split

theorem poisonOpen_steady {s0 s : State} (hS : Steady s0 s) (c : CoreId) (seg : Nat) (off : Nat) (n : Nat)
    : Steady s0 (poisonOpen s c seg off n) := by
  unfold poisonOpen
  with_reducible
    repeat' first
      | assumption | apply poisonScratch_steady | apply moverPoison_steady | intro _ | apply Steady.foldl
      | apply Steady.foldlFst | apply Steady.foldlSnd | apply Steady.foldlSnd2 | apply Steady.foldlLoad
      | apply Steady.foldlSeg | apply Steady.foldlImport | apply Steady.foldlSnd3 | split | dsimp only

theorem poisonDst_steady {s0 s : State} (hS : Steady s0 s) (d : DieId) (i : Nat) (off : Nat) (n : Nat)
    : Steady s0 (poisonDst s d i off n) := by
  unfold poisonDst
  with_reducible
    repeat' first
      | assumption | apply poisonOpen_steady | intro _ | split | dsimp only

theorem readMap_steady {s0 s : State} (hS : Steady s0 s) (c : CoreId) (l : Nat × Nat) (n : Nat) (seq : Nat) (pc : Nat)
    : Steady s0 (readMap s c l n seq pc).2 := by
  unfold readMap
  with_reducible
    repeat' first
      | assumption | apply trapCore_steady | apply moverLoad_steady | intro _ | split

theorem failSegs_steady {s0 s : State} (hS : Steady s0 s) (d : DieId) (i : Nat) (code : Nat) (sel : Nat → Bool)
    : Steady s0 (failSegs s d i code sel) := by
  unfold failSegs
  with_reducible
    repeat' first
      | assumption | apply State.each_steady | apply poisonDst_steady | apply modRun_steady | intro _ | split

theorem chunkLost_steady {s0 s : State} (hS : Steady s0 s) (d : DieId) (i : Nat) (lo : Nat) (hi : Nat)
    : Steady s0 (chunkLost s d i lo hi) := by
  unfold chunkLost
  with_reducible
    repeat' first
      | assumption | apply failSegs_steady | apply raiseFlags_steady | apply modRun_steady | intro _ | split

theorem sendOrLose_steady {s0 s : State} (hS : Steady s0 s) (d : DieId) (i : Nat) (t : CollDest) (at' : Nat)
    (off : Nat) (bs : List (Option Byte)) : Steady s0 (sendOrLose s d i t at' off bs) := by
  unfold sendOrLose
  with_reducible
    repeat' first
      | assumption | apply sendChunk_steady | apply chunkLost_steady | intro _ | split | dsimp only

theorem writeDst_steady {s0 s : State} (hS : Steady s0 s) (d : DieId) (i : Nat) (off : Nat) (bs : List (Option Byte))
    : Steady s0 (writeDst s d i off bs) := by
  unfold writeDst
  with_reducible
    repeat' first
      | assumption | apply failSegs_steady | apply trapCore_steady | apply modRun_steady | apply storeOpt_steady
      | intro _ | split | dsimp only

theorem modPhase_steady {s0 s : State} (hS : Steady s0 s) (d : DieId) (i : Nat) (k : Nat) (f : CollPhase → CollPhase)
    : Steady s0 (modPhase s d i k f) := by
  unfold modPhase
  with_reducible
    repeat' first
      | assumption | apply modRun_steady

theorem sendReady_steady {s0 s : State} (hS : Steady s0 s) (d : DieId) (i : Nat) (k : Nat)
    : Steady s0 (sendReady s d i k) := by
  unfold sendReady
  with_reducible
    repeat' first
      | assumption | apply modPhase_steady | apply State.each_steady | apply sendOrLose_steady | intro _ | split

theorem gatherHere_steady {s0 s : State} (hS : Steady s0 s) (n : Nat) (d : DieId) (i k off : Nat) (bs : List (Option Byte)) :
    Steady s0 (gatherHere n s d i k off bs) := by
  induction n generalizing s k off with
  | zero => exact hS
  | succ n ih =>
    unfold gatherHere
    repeat' first
      | with_reducible assumption | with_reducible apply ih | with_reducible apply sendReady_steady
      | with_reducible apply modPhase_steady | split

theorem sumsHere_steady {s0 s : State} (hS : Steady s0 s) (d : DieId) (i : Nat) (k : Nat) (lo : Nat)
    (vs : List (Option F32)) : Steady s0 (sumsHere s d i k lo vs) := by
  unfold sumsHere
  with_reducible
    repeat' first
      | assumption | apply modRun_steady | apply gatherHere_steady | apply failSegs_steady | apply writeDst_steady
      | intro _ | split | dsimp only

theorem reduceHere_steady {s0 s : State} (hS : Steady s0 s) (n : Nat) (d : DieId) (i k lo : Nat) (vs : List (Option F32)) :
    Steady s0 (reduceHere n s d i k lo vs) := by
  induction n generalizing s k lo with
  | zero => exact hS
  | succ n ih =>
    unfold reduceHere
    repeat' first
      | with_reducible assumption | with_reducible apply ih | with_reducible apply sumsHere_steady
      | with_reducible apply sendReady_steady | with_reducible apply modPhase_steady | split

theorem permWrite_steady {s0 s : State} (hS : Steady s0 s) (rank : Nat) (off : Nat) (bs : List (Option Byte))
    (d : DieId) (i : Nat) (k : Nat) : Steady s0 (permWrite rank off bs d i s k) := by
  unfold permWrite
  with_reducible
    repeat' first
      | assumption | apply failSegs_steady | apply trapCore_steady | apply modRun_steady | apply storeOpt_steady
      | intro _ | split | dsimp only

theorem refuseColl_steady {s0 s : State} (hS : Steady s0 s) : Steady s0 (refuseColl s) := by
  unfold refuseColl
  with_reducible
    repeat' first
      | assumption | apply raiseFlags_steady | apply State.bump_steady

theorem permPlace_steady {s0 s : State} (hS : Steady s0 s) (d : DieId) (i : Nat) (rank : Nat) (off : Nat)
    (bs : List (Option Byte)) : Steady s0 (permPlace s d i rank off bs) := by
  unfold permPlace
  with_reducible
    repeat' first
      | assumption | apply refuseColl_steady | apply State.each_steady | apply permWrite_steady | intro _ | split

theorem permSend_steady {s0 s : State} (hS : Steady s0 s) (d : DieId) (i : Nat) (e : Option PermRange)
    : Steady s0 (permSend d i s e) := by
  unfold permSend
  with_reducible
    repeat' first
      | assumption | apply chunkLost_steady | apply trapCore_steady | apply loadOpt_steady | apply permPlace_steady
      | apply sendOrLose_steady | intro _ | split | dsimp only

theorem beginPermute_steady {s0 s : State} (hS : Steady s0 s) (d : DieId) (i : Nat) (r : CollRun)
    : Steady s0 (beginPermute s d i r) := by
  unfold beginPermute
  with_reducible
    repeat' first
      | assumption | apply State.each_steady | apply poisonDst_steady | apply readMap_steady | apply permSend_steady
      | intro _ | split

theorem beginColl_steady {s0 s : State} (hS : Steady s0 s) (d : DieId) (i : Nat) : Steady s0 (beginColl s d i) := by
  unfold beginColl
  with_reducible
    repeat' first
      | assumption | apply trapCore_steady | apply loadOpt_steady | apply gatherHere_steady | apply writeDst_steady
      | apply State.each_steady | apply sendOrLose_steady | apply beginPermute_steady | apply reduceHere_steady
      | intro _ | split | dsimp only

theorem haltColl_steady {s0 s : State} (hS : Steady s0 s) (d : DieId) (i : Nat) (dup : Bool) :
    Steady s0 (haltColl s d i dup) := by
  unfold haltColl
  with_reducible
    repeat' first
      | assumption | apply failSegs_steady | apply modRun_steady

theorem modEntry_steady {s0 s : State} (hS : Steady s0 s) (c : CoreId) (q : Nat) (seq : Nat) (f : QInst → QInst) :
    Steady s0 (modEntry s c q seq f) := by
  unfold modEntry
  with_reducible
    repeat' first
      | assumption | apply State.modCore_steady

theorem partHere_steady {s0 s : State} (hS : Steady s0 s) (d : DieId) (i : Nat) (k : Nat) (t : Nat) (off : Nat)
    (n : Nat) : Steady s0 (partHere s d i k t off n) := by
  unfold partHere
  with_reducible
    repeat' first
      | assumption | apply modPhase_steady

theorem takeReduce_steady {s0 s : State} (hS : Steady s0 s) (d : DieId) (i : Nat) (k : Nat) (p : CollPhase)
    (step : Nat) (off : Nat) (bs : List (Option Byte)) : Steady s0 (takeReduce s d i k p step off bs) := by
  unfold takeReduce
  with_reducible
    repeat' first
      | assumption | apply modPhase_steady | apply partHere_steady | apply sendOrLose_steady | apply reduceHere_steady
      | intro _ | split | dsimp only

theorem takeGather_steady {s0 s : State} (hS : Steady s0 s) (d : DieId) (i : Nat) (k : Nat) (p : CollPhase)
    (step : Nat) (off : Nat) (bs : List (Option Byte)) (sent : Bool)
    : Steady s0 (takeGather s d i k p step off bs sent) := by
  unfold takeGather
  with_reducible
    repeat' first
      | assumption | apply partHere_steady | apply modRun_steady | apply writeDst_steady | apply sendOrLose_steady
      | apply gatherHere_steady | intro _ | split

theorem placeData_steady {s0 s : State} (hS : Steady s0 s) (d : DieId) (i : Nat) (h : CollHead) (off : Nat)
    (bs : List (Option Byte)) : Steady s0 (placeData s d i h off bs) := by
  unfold placeData
  with_reducible
    repeat' first
      | assumption | apply State.each_steady | apply sendOrLose_steady | apply writeDst_steady
      | apply permPlace_steady | apply takeReduce_steady | apply takeGather_steady | intro _ | split | dsimp only

theorem takeEncoded_steady {s0 s : State} (hS : Steady s0 s) (d : DieId) (i : Nat) (h : CollHead)
    (payload : List Byte) : Steady s0 (takeEncoded s d i h payload) := by
  unfold takeEncoded
  with_reducible
    repeat' first
      | assumption | apply modRun_steady | apply placeData_steady | apply countZr_steady | intro _ | split
      | dsimp only

theorem takeFrame_steady {s0 s : State} (hS : Steady s0 s) (d : DieId) (i : Nat) (payload : List Byte)
    : Steady s0 (takeFrame s d i payload) := by
  unfold takeFrame
  with_reducible
    repeat' first
      | assumption | apply takeEncoded_steady | apply placeData_steady | intro _ | split

theorem execCollChunkReceive_steady {s0 s : State} (hS : Steady s0 s) (src : FrameSrc) :
    SteadyR s0 (execCollChunkReceive src s) := by
  unfold execCollChunkReceive
  with_reducible
    repeat' first
      | assumption | apply Steady.next | apply countPath_steady | apply takeRx_steady | apply takeFrame_steady
      | apply refuseColl_steady | apply modColl_steady | split | dsimp only

theorem finishColl_steady {s0 s : State} (hS : Steady s0 s) (d : DieId) (i : Nat) (r : CollRun)
    : Steady s0 (finishColl s d i r) := by
  unfold finishColl
  with_reducible
    repeat' first
      | assumption | apply trapCore_steady | apply moverPut_steady | apply State.when_steady | apply State.bump_steady
      | apply raiseFlags_steady | apply modColl_steady | apply modEntry_steady | intro _ | split

theorem losePhase_steady {s0 s : State} (hS : Steady s0 s) (d : DieId) (i : Nat) : Steady s0 (losePhase s d i) := by
  unfold losePhase
  with_reducible
    repeat' first
      | assumption | apply failSegs_steady | apply State.each_steady | apply modRun_steady | apply modPhase_steady
      | apply partHere_steady | apply reduceHere_steady | apply takeGather_steady | intro _ | split

theorem abortColls_steady {s0 s : State} (hS : Steady s0 s) (n : Nat) : Steady s0 (abortColls s n) := by
  unfold abortColls
  with_reducible
    repeat' first
      | assumption | apply State.each_steady | apply State.bump_steady | apply haltColl_steady | intro _ | split

/-! ## Machine/Skein.lean -/

theorem exchStore_steady {s0 s : State} (hS : Steady s0 s) (c : CoreId) (l : Nat × Nat) (off : Nat) (bs : List
    Byte) :
    Steady s0 (exchStore s c l off bs) := by
  unfold exchStore
  with_reducible
    repeat' first
      | assumption | apply moverStore_steady

theorem markEntry_steady {s0 s : State} (hS : Steady s0 s) (c : CoreId) (l : Nat × Nat) (i : Nat) (status : Nat)
    (rank : Nat) (row : Nat) : Steady s0 (markEntry s c l i status rank row) := by
  unfold markEntry
  with_reducible
    repeat' first
      | assumption | apply exchStore_steady | intro _ | split

theorem execExch_steady {s0 s : State} (hS : Steady s0 s) (core : CoreId) (h : Hdr) (f : BitVec 51) :
    SteadyR s0 (execExch core h f s) := by
  unfold execExch
  with_reducible
    repeat' first
      | assumption | apply Steady.next | apply issueDesc_steady

theorem modSkein_steady {s0 s : State} (hS : Steady s0 s) (d : DieId) (f : SkeinUnit → SkeinUnit) :
    Steady s0 (modSkein s d f) := by
  unfold modSkein
  with_reducible
    repeat' first
      | assumption | apply State.modUnit_steady

theorem modExch_steady {s0 s : State} (hS : Steady s0 s) (d : DieId) (i : Nat) (f : ExchRun → ExchRun) :
    Steady s0 (modExch s d i f) := by
  unfold modExch
  with_reducible
    repeat' first
      | assumption | apply modSkein_steady

theorem withExch_steady {s0 s : State} (hS : Steady s0 s) (d : DieId) (i : Nat) (f : ExchRun → ExchDesc → State)
    (hF : ∀ x0 x1,  Steady s0 (f x0 x1)) :
    Steady s0 (withExch s d i f) := by
  unfold withExch
  with_reducible
    repeat' first
      | assumption | apply hF | split

theorem exchLoad_steady {s0 s : State} (hS : Steady s0 s) (c : CoreId) (r : ExchRun) (l : Nat × Nat) (n : Nat) :
    Steady s0 (exchLoad s c r l n).2 := by
  unfold exchLoad
  with_reducible
    repeat' first
      | assumption | apply trapCore_steady | apply loadOpt_steady | split

theorem exchWrite_steady {s0 s : State} (hS : Steady s0 s) (c : CoreId) (r : ExchRun) (l : Nat × Nat) (bs : List
    (Option Byte)) :
    Steady s0 (exchWrite s c r l bs).1 := by
  unfold exchWrite
  with_reducible
    repeat' first
      | assumption | apply trapCore_steady | apply storeOpt_steady | split

theorem exchRow_steady {s0 s : State} (hS : Steady s0 s) (c : CoreId) (r : ExchRun) (l : Nat × Nat) (bs : List
    (Option Byte)) :
    Steady s0 (exchRow s c r l bs).1 := by
  unfold exchRow
  with_reducible
    repeat' first
      | assumption | apply State.when_steady | apply exchWrite_steady | apply State.bump_steady | intro _

theorem sendExch_steady {s0 s : State} (hS : Steady s0 s) (d : DieId) (r : ExchRun) (kind : Nat) (rank : Nat)
    (expert : Nat) (index : Nat) (item : Nat) (poison : Bool) (late : Bool) (data : List Byte) :
    Steady s0 (sendExch s d r kind rank expert index item poison late data).1 := by
  unfold sendExch
  with_reducible
    repeat' first
      | assumption | apply unroutable_steady | refine queueFrame_steady ‹queueFrame _ _ _ _ _ = some _› ?_ | intro _
      | apply Steady.foldlFst | split | dsimp only

theorem sendRowBytes_steady {s0 s : State} (hS : Steady s0 s) (d : DieId) (r : ExchRun) (kind : Nat) (rank : Nat)
    (expert : Nat) (index : Nat) (item : Nat) (late : Bool) (bs : List (Option Byte))
    : Steady s0 (sendRowBytes s d r kind rank expert index item late bs).1 := by
  unfold sendRowBytes
  with_reducible
    repeat' first
      | assumption | apply sendExch_steady | apply countZr_steady | intro _ | split

theorem listCounts_steady {s0 s : State} (hS : Steady s0 s) (c : CoreId) (l : Nat × Nat) (n : Nat) :
    Steady s0 (listCounts s c l n) := by
  unfold listCounts
  with_reducible
    repeat' first
      | assumption | apply exchStore_steady

theorem headerCounts_steady {s0 s : State} (hS : Steady s0 s) (c : CoreId) (x : ExchDesc)
    : Steady s0 (headerCounts s c x) := by
  unfold headerCounts
  with_reducible
    repeat' first
      | assumption | apply listCounts_steady | intro _ | split | dsimp only

theorem dispatchHeader_steady {s0 s : State} (hS : Steady s0 s) (d : DieId) (i : Nat)
    : Steady s0 (dispatchHeader s d i) := by
  unfold dispatchHeader
  with_reducible
    repeat' first
      | assumption | apply withExch_steady | apply State.each_steady | apply markEntry_steady | apply exchStore_steady
      | apply headerCounts_steady | intro _ | split | dsimp only

theorem closeRank_steady {s0 s : State} (hS : Steady s0 s) (d : DieId) (i : Nat) (rank : Nat)
    : Steady s0 (closeRank s d i rank) := by
  unfold closeRank
  with_reducible
    repeat' first
      | assumption | apply withExch_steady | apply modExch_steady | apply dispatchHeader_steady | intro _ | split

theorem failEntry_steady {s0 s : State} (hS : Steady s0 s) (d : DieId) (i : Nat) (m : Nat)
    : Steady s0 (failEntry s d i m) := by
  unfold failEntry
  with_reducible
    repeat' first
      | assumption | apply withExch_steady | apply markEntry_steady | apply headerCounts_steady | apply modExch_steady
      | intro _ | split

theorem updateFill_steady {s0 s : State} (hS : Steady s0 s) (d : DieId) (i : Nat) (e : Nat) :
    Steady s0 (updateFill s d i e) := by
  unfold updateFill
  with_reducible
    repeat' first
      | assumption | apply withExch_steady | apply exchStore_steady | intro _ | split | dsimp only

theorem failRow_steady {s0 s : State} (hS : Steady s0 s) (d : DieId) (i : Nat) (e : Nat) (row : Nat) (code : Nat) :
    Steady s0 (failRow s d i e row code) := by
  unfold failRow
  with_reducible
    repeat' first
      | assumption | apply withExch_steady | apply modExch_steady | apply exchRow_steady | apply updateFill_steady
      | intro _ | split

theorem exchLost_steady {s0 s : State} (hS : Steady s0 s) (d : DieId) (i : Nat) (kind : Nat) (item : Nat)
    : Steady s0 (exchLost s d i kind item) := by
  unfold exchLost
  with_reducible
    repeat' first
      | assumption | apply withExch_steady | apply closeRank_steady | apply State.each_steady | apply failEntry_steady
      | apply failRow_steady | apply modExch_steady | intro _ | split

theorem freshEntry_steady {s0 s : State} (hS : Steady s0 s) (expert : Nat) (status : Nat) (weight : Nat) :
    Steady s0 (freshEntry s expert status weight).2 := by
  unfold freshEntry
  with_reducible
    repeat' first
      | assumption | apply State.draw_steady

theorem poisonEntries_steady {s0 s : State} (hS : Steady s0 s) (k : Nat) : Steady s0 (poisonEntries s k).2 := by
  unfold poisonEntries
  with_reducible
    repeat' first
      | assumption | apply State.draw_steady | apply freshEntry_steady | intro _ | apply Steady.foldlSnd

theorem choiceEntries_steady {s0 s : State} (hS : Steady s0 s) (k : Nat) (cs : List (Nat × Nat × Nat)) :
    Steady s0 (choiceEntries s k cs).2 := by
  unfold choiceEntries
  with_reducible
    repeat' first
      | assumption | apply freshEntry_steady | apply State.draw_steady | intro _ | apply Steady.foldlSnd | split

theorem routeToken_steady {s0 s : State} (hS : Steady s0 s) (r : ExchRun) (x : ExchDesc) (t : Nat) :
    Steady s0 (routeToken s r x t).s := by
  unfold routeToken
  with_reducible
    repeat' first
      | assumption | apply exchLoad_steady | apply poisonEntries_steady | apply choiceEntries_steady | split
      | dsimp only

theorem runRoute_steady {s0 s : State} (hS : Steady s0 s) (d : DieId) (i : Nat) : Steady s0 (runRoute s d i) := by
  unfold runRoute
  with_reducible
    repeat' first
      | assumption | apply withExch_steady | apply routeToken_steady | apply exchStore_steady
      | apply State.bumpBy_steady | apply modExch_steady | apply noteNonfinite_steady | intro _
      | apply Steady.foldlSnd3 | split | dsimp only

theorem placeRow_steady {s0 s : State} (hS : Steady s0 s) (d : DieId) (i : Nat) (e : Nat) (row : Nat)
    (bs : List (Option Byte)) : Steady s0 (placeRow s d i e row bs) := by
  unfold placeRow
  with_reducible
    repeat' first
      | assumption | apply withExch_steady | apply exchRow_steady | apply updateFill_steady | apply modExch_steady
      | intro _ | split

theorem placeExpert_steady {s0 s : State} (hS : Steady s0 s) (d : DieId) (i : Nat) (e : Nat) (offers : List (Nat ×
    Nat)) :
    Steady s0 (placeExpert s d i e offers) := by
  unfold placeExpert
  with_reducible
    repeat' first
      | assumption | apply withExch_steady | apply modExch_steady | apply exchStore_steady | apply updateFill_steady
      | intro _ | split | dsimp only

theorem dispatchRow_steady {s0 s : State} (hS : Steady s0 s) (r : ExchRun) (x : ExchDesc) (m : Nat) :
    Steady s0 (dispatchRow s r x m).2 := by
  unfold dispatchRow
  with_reducible
    repeat' first
      | assumption | apply exchLoad_steady | split | dsimp only

theorem sendRow_steady {s0 s : State} (hS : Steady s0 s) (d : DieId) (i : Nat) (m : Nat) (rank : Nat) (expert : Nat)
    (row : Nat) : Steady s0 (sendRow s d i m rank expert row) := by
  unfold sendRow
  with_reducible
    repeat' first
      | assumption | apply withExch_steady | apply dispatchRow_steady | apply modExch_steady | apply placeRow_steady
      | apply sendRowBytes_steady | apply exchLost_steady | intro _ | split | dsimp only

theorem settleOffer_steady {s0 s : State} (hS : Steady s0 s) (d : DieId) (i : Nat) (rank : Nat) (expert : Nat) (m
    : Nat) (row : Option Nat) :
    Steady s0 (settleOffer s d i rank expert m row) := by
  unfold settleOffer
  with_reducible
    repeat' first
      | assumption | apply withExch_steady | apply State.bump_steady | apply markEntry_steady | apply modExch_steady
      | intro _ | split

theorem takeGrant_steady {s0 s : State} (hS : Steady s0 s) (d : DieId) (i : Nat) (rank : Nat)
    (pairs : List (Nat × Nat)) : Steady s0 (takeGrant s d i rank pairs) := by
  unfold takeGrant
  with_reducible
    repeat' first
      | assumption | apply withExch_steady | apply State.each_steady | apply sendRow_steady | apply settleOffer_steady
      | apply closeRank_steady | intro _ | split

theorem placeManifests_steady {s0 s : State} (hS : Steady s0 s) (d : DieId) (i : Nat) :
    Steady s0 (placeManifests s d i) := by
  unfold placeManifests
  with_reducible
    repeat' first
      | assumption | apply State.each_steady | apply withExch_steady | apply placeExpert_steady
      | apply sendExch_steady | apply exchLost_steady | apply takeGrant_steady | intro _ | split | dsimp only

theorem takeManifest_steady {s0 s : State} (hS : Steady s0 s) (d : DieId) (i : Nat) (rank : Nat) (words : List
    Nat) :
    Steady s0 (takeManifest s d i rank words) := by
  unfold takeManifest
  with_reducible
    repeat' first
      | assumption | apply withExch_steady | apply modExch_steady | apply placeManifests_steady | intro _ | split

theorem beginDispatch_steady {s0 s : State} (hS : Steady s0 s) (d : DieId) (i : Nat) :
    Steady s0 (beginDispatch s d i) := by
  unfold beginDispatch
  with_reducible
    repeat' first
      | assumption | apply State.each_steady | apply withExch_steady | apply modExch_steady | apply sendExch_steady
      | apply exchLost_steady | apply takeManifest_steady | intro _ | split | dsimp only

theorem runReplicated_steady {s0 s : State} (hS : Steady s0 s) (d : DieId) (i : Nat) :
    Steady s0 (runReplicated s d i) := by
  unfold runReplicated
  with_reducible
    repeat' first
      | assumption | apply State.each_steady | apply withExch_steady | apply modExch_steady | apply placeExpert_steady
      | apply settleOffer_steady | apply sendRow_steady | apply dispatchHeader_steady | intro _ | split

theorem runReuse_steady {s0 s : State} (hS : Steady s0 s) (d : DieId) (i : Nat) : Steady s0 (runReuse s d i) := by
  unfold runReuse
  with_reducible
    repeat' first
      | assumption | apply withExch_steady | apply modExch_steady | apply State.each_steady | apply updateFill_steady
      | apply exchStore_steady | apply sendRow_steady | intro _ | split | dsimp only

theorem slotVals_steady {s0 s : State} (hS : Steady s0 s) (r : ExchRun) (x : ExchDesc) (slot : Nat) :
    Steady s0 (slotVals s r x slot).2.2 := by
  unfold slotVals
  with_reducible
    repeat' first
      | assumption | apply exchLoad_steady

theorem sumRow_steady {s0 s : State} (hS : Steady s0 s) (d : DieId) (i : Nat) (t : Nat) (dst : Nat × Nat) (acc0 :
    Bool) (poisoned : Bool) (terms : List (Nat × F32)) :
    Steady s0 (sumRow s d i t dst acc0 poisoned terms).1 := by
  unfold sumRow
  with_reducible
    repeat' first
      | assumption | apply exchLoad_steady | apply slotVals_steady | apply exchRow_steady | apply modExch_steady
      | intro _ | apply Steady.foldlSnd2 | split

theorem writeToken_steady {s0 s : State} (hS : Steady s0 s) (d : DieId) (i : Nat) (t : Nat) :
    Steady s0 (writeToken s d i t) := by
  unfold writeToken
  with_reducible
    repeat' first
      | assumption | apply withExch_steady | apply sumRow_steady | apply modExch_steady | intro _ | split

theorem writeLate_steady {s0 s : State} (hS : Steady s0 s) (d : DieId) (i : Nat) : Steady s0 (writeLate s d i) := by
  unfold writeLate
  with_reducible
    repeat' first
      | assumption | apply State.each_steady | apply withExch_steady | apply sumRow_steady | intro _ | split
      | dsimp only

theorem combineRows_steady {s0 s : State} (hS : Steady s0 s) (d : DieId) (i : Nat) :
    Steady s0 (combineRows s d i) := by
  unfold combineRows
  with_reducible
    repeat' first
      | assumption | apply State.each_steady | apply withExch_steady | apply writeToken_steady
      | apply exchStore_steady | apply modExch_steady | apply writeLate_steady | intro _ | split

theorem takeReturn_steady {s0 s : State} (hS : Steady s0 s) (d : DieId) (i : Nat) (entry : Nat) (late : Bool)
    (bs : List (Option Byte)) : Steady s0 (takeReturn s d i entry late bs) := by
  unfold takeReturn
  with_reducible
    repeat' first
      | assumption | apply withExch_steady | apply exchRow_steady | apply modExch_steady | intro _

theorem sendReturn_steady {s0 s : State} (hS : Steady s0 s) (d : DieId) (i : Nat) (rank : Nat) (expert : Nat)
    (entry : Nat) (late : Bool) (count : Bool) (l : List (Option Byte))
    : Steady s0 (sendReturn s d i rank expert entry late count l) := by
  unfold sendReturn
  with_reducible
    repeat' first
      | assumption | apply withExch_steady | apply modExch_steady | apply takeReturn_steady
      | apply sendRowBytes_steady | apply exchLost_steady | intro _ | split | dsimp only

theorem beginCombine_steady {s0 s : State} (hS : Steady s0 s) (d : DieId) (i : Nat)
    : Steady s0 (beginCombine s d i) := by
  unfold beginCombine
  with_reducible
    repeat' first
      | assumption | apply withExch_steady | apply modExch_steady | apply State.each_steady | apply exchLoad_steady
      | apply sendReturn_steady | apply combineRows_steady | intro _ | split | dsimp only

theorem beginExch_steady {s0 s : State} (hS : Steady s0 s) (d : DieId) (i : Nat) : Steady s0 (beginExch s d i) := by
  unfold beginExch
  with_reducible
    repeat' first
      | assumption | apply exchLoad_steady | apply runRoute_steady | apply State.each_steady | apply runReuse_steady
      | apply runReplicated_steady | apply beginDispatch_steady | apply beginCombine_steady | intro _ | split
      | dsimp only

theorem haltExch_steady {s0 s : State} (hS : Steady s0 s) (d : DieId) (i : Nat) (dup : Bool) :
    Steady s0 (haltExch s d i dup) := by
  unfold haltExch
  with_reducible
    repeat' first
      | assumption | apply State.each_steady | apply withExch_steady | apply failRow_steady | apply exchRow_steady
      | apply modExch_steady | intro _

theorem openRun_steady {s0 s : State} (hS : Steady s0 s) (d : DieId) (i : Nat) (dup : Bool) :
    Steady s0 (openRun s d i dup) := by
  unfold openRun
  with_reducible
    repeat' first
      | assumption | apply withExch_steady | apply modExch_steady | intro _

theorem finishExch_steady {s0 s : State} (hS : Steady s0 s) (d : DieId) (i : Nat) (r : ExchRun)
    : Steady s0 (finishExch s d i r) := by
  unfold finishExch
  with_reducible
    repeat' first
      | assumption | apply trapCore_steady | apply moverPut_steady | apply State.when_steady | apply State.bump_steady
      | apply raiseFlags_steady | apply modSkein_steady | apply modEntry_steady | intro _ | split

theorem endAtOnce_steady {s0 s : State} (hS : Steady s0 s) (d : DieId) (i : Nat) : Steady s0 (endAtOnce s d i) := by
  unfold endAtOnce
  with_reducible
    repeat' first
      | assumption | apply finishExch_steady | intro _ | split

theorem execExchAccept_steady {s0 s : State} (hS : Steady s0 s) (die : DieId)
    : SteadyR s0 (execExchAccept die s) := by
  unfold execExchAccept
  with_reducible
    repeat' first
      | assumption | apply Steady.next | apply modEntry_steady | apply modSkein_steady | apply endAtOnce_steady
      | apply raiseFlags_steady | apply haltExch_steady | apply openRun_steady | apply State.bump_steady
      | apply beginExch_steady | intro _ | split | dsimp only

theorem actWhole_steady {s0 s : State} (hS : Steady s0 s) (d : DieId) (i : Nat) (h : ExchHead) (bs : List Byte)
    (bad : Bool) : Steady s0 (actWhole s d i h bs bad) := by
  unfold actWhole
  with_reducible
    repeat' first
      | assumption | apply withExch_steady | apply countZr_steady | apply takeManifest_steady | apply takeGrant_steady
      | apply placeRow_steady | apply combineRows_steady | apply takeReturn_steady | intro _ | split

theorem takeExch_steady {s0 s : State} (hS : Steady s0 s) (d : DieId) (i : Nat) (payload : List Byte) :
    Steady s0 (takeExch s d i payload) := by
  unfold takeExch
  with_reducible
    repeat' first
      | assumption | apply withExch_steady | apply actWhole_steady | apply modExch_steady | intro _ | split
      | dsimp only

theorem receiveExch_steady {s0 s : State} (hS : Steady s0 s) (p : PortId) (kind : Nat) :
    Steady s0 (receiveExch s p kind) := by
  unfold receiveExch
  with_reducible
    repeat' first
      | assumption | apply takeExch_steady | apply countPath_steady | apply takeRx_steady | apply raiseFlags_steady
      | apply State.bump_steady | split | dsimp only

theorem execManifestReceive_steady {s0 s : State} (hS : Steady s0 s) (src : PortId) :
    SteadyR s0 (execManifestReceive src s) := by
  unfold execManifestReceive
  with_reducible
    repeat' first
      | assumption | apply Steady.next | apply receiveExch_steady

theorem execGrantReceive_steady {s0 s : State} (hS : Steady s0 s) (src : PortId) :
    SteadyR s0 (execGrantReceive src s) := by
  unfold execGrantReceive
  with_reducible
    repeat' first
      | assumption | apply Steady.next | apply receiveExch_steady

theorem execRowReceive_steady {s0 s : State} (hS : Steady s0 s) (src : PortId) :
    SteadyR s0 (execRowReceive src s) := by
  unfold execRowReceive
  with_reducible
    repeat' first
      | assumption | apply Steady.next | apply receiveExch_steady

theorem execReturnReceive_steady {s0 s : State} (hS : Steady s0 s) (src : PortId) :
    SteadyR s0 (execReturnReceive src s) := by
  unfold execReturnReceive
  with_reducible
    repeat' first
      | assumption | apply Steady.next | apply receiveExch_steady

theorem execDispatchFinish_steady {s0 s : State} (hS : Steady s0 s) (die : DieId) (slot : Fin 8) :
    SteadyR s0 (execDispatchFinish die slot s) := by
  unfold execDispatchFinish
  with_reducible
    repeat' first
      | assumption | apply Steady.next | apply modExch_steady | split

theorem giveUp_steady {s0 s : State} (hS : Steady s0 s) (d : DieId) (i : Nat) : Steady s0 (giveUp s d i) := by
  unfold giveUp
  with_reducible
    repeat' first
      | assumption | apply withExch_steady | apply State.each_steady | apply failRow_steady | apply failEntry_steady
      | apply exchRow_steady | apply modExch_steady | apply closeRank_steady | intro _ | split

theorem execExchComplete_steady {s0 s : State} (hS : Steady s0 s) (die : DieId) (slot : Fin 8) (lost : Bool) :
    SteadyR s0 (execExchComplete die slot lost s) := by
  unfold execExchComplete
  with_reducible
    repeat' first
      | assumption | apply Steady.next | apply finishExch_steady | apply giveUp_steady | split | dsimp only

theorem abortExchs_steady {s0 s : State} (hS : Steady s0 s) (n : Nat) (stop : Bool)
    : Steady s0 (abortExchs s n stop) := by
  unfold abortExchs
  with_reducible
    repeat' first
      | assumption | apply State.each_steady | apply State.bump_steady | apply haltExch_steady | intro _ | split

/-! ## Machine/Cirrus.lean -/

theorem absLoad_steady {s0 s : State} (hS : Steady s0 s) (c : CoreId) (a : Nat) (n : Nat) :
    Steady s0 (absLoad s c a n).2 := by
  unfold absLoad
  with_reducible
    repeat' first
      | assumption | apply moverLoad_steady

theorem absStore_steady {s0 s : State} (hS : Steady s0 s) (c : CoreId) (a : Nat) (bs : List (Option Byte))
    : Steady s0 (absStore s c a bs) := by
  unfold absStore
  with_reducible
    repeat' first
      | assumption | apply poisonRuns_steady | apply moverStore_steady | intro _ | split

theorem readTable_steady {s0 s : State} (hS : Steady s0 s) (c : CoreId) (a : Nat) :
    Steady s0 (readTable s c a).2.2 := by
  unfold readTable
  with_reducible
    repeat' first
      | assumption | apply absLoad_steady

theorem execUpd_steady {s0 s : State} (hS : Steady s0 s) (core : CoreId) (h : Hdr) (f : BitVec 51) (w1 : BitVec
    64) (w2 : BitVec 64) (w3 : BitVec 64) :
    SteadyR s0 (execUpd core h f w1 w2 w3 s) := by
  unfold execUpd
  with_reducible
    repeat' first
      | assumption | apply Steady.next | apply issueDesc_steady

theorem modCirrus_steady {s0 s : State} (hS : Steady s0 s) (d : DieId) (f : CirrusUnit → CirrusUnit) :
    Steady s0 (modCirrus s d f) := by
  unfold modCirrus
  with_reducible
    repeat' first
      | assumption | apply State.modUnit_steady

theorem modUpd_steady {s0 s : State} (hS : Steady s0 s) (d : DieId) (i : Nat) (f : UpdRun → UpdRun) :
    Steady s0 (modUpd s d i f) := by
  unfold modUpd
  with_reducible
    repeat' first
      | assumption | apply modCirrus_steady

theorem modRecs_steady {s0 s : State} (hS : Steady s0 s) (d : DieId) (f : List RecTrack → List RecTrack) :
    Steady s0 (modRecs s d f) := by
  unfold modRecs
  with_reducible
    repeat' first
      | assumption | apply modCirrus_steady

theorem modRec_steady {s0 s : State} (hS : Steady s0 s) (d : DieId) (i : Nat) (f : RecTrack → RecTrack) :
    Steady s0 (modRec s d i f) := by
  unfold modRec
  with_reducible
    repeat' first
      | assumption | apply modRecs_steady

theorem touchRec_steady {s0 s : State} (hS : Steady s0 s) (c : CoreId) (a : Nat) : Steady s0 (touchRec s c a) := by
  unfold touchRec
  with_reducible
    repeat' first
      | assumption | apply absLoad_steady

theorem setRecField_steady {s0 s : State} (hS : Steady s0 s) (c : CoreId) (a : Nat) (off : Nat) (n : Nat) (v :
    Nat) :
    Steady s0 (setRecField s c a off n v) := by
  unfold setRecField
  with_reducible
    repeat' first
      | assumption | apply moverStore_steady

theorem writeSlot_steady {s0 s : State} (hS : Steady s0 s) (commit : Nat) (gen : Nat)
    : Steady s0 (writeSlot s commit gen) := by
  unfold writeSlot
  with_reducible
    repeat' first
      | assumption | intro _ | split | dsimp only | apply Steady.mk'

theorem settleUpd_steady {s0 s : State} (hS : Steady s0 s) (d : DieId) (i : Nat) : Steady s0 (settleUpd s d i) := by
  unfold settleUpd
  with_reducible
    repeat' first
      | assumption | apply State.when_steady | apply moverPut_steady | apply raiseFlags_steady | apply modEntry_steady
      | apply modCirrus_steady | intro _ | split

theorem failBlocks_steady {s0 s : State} (hS : Steady s0 s) (d : DieId) (i : Nat) (code : Nat) (sel : Nat → Bool) :
    Steady s0 (failBlocks s d i code sel) := by
  unfold failBlocks
  with_reducible
    repeat' first
      | assumption | apply modUpd_steady | apply State.bumpBy_steady | apply setRecField_steady | split | dsimp only

theorem failFeed_steady {s0 s : State} (hS : Steady s0 s) (d : DieId) (frame : Nat) (id : Nat) (holds : Nat →
    Bool) :
    Steady s0 (failFeed s d frame id holds) := by
  unfold failFeed
  with_reducible
    repeat' first
      | assumption | apply modRun_steady | split

theorem updRate_steady {s0 s : State} (hS : Steady s0 s) (c : CoreId) (x : UpdDesc) (step : Nat) (w1 : Nat) (w2 : Nat)
    : Steady s0 (updRate s c x step w1 w2).2 := by
  unfold updRate
  with_reducible
    repeat' first
      | assumption | apply absLoad_steady | intro _ | split

theorem openRecord_steady {s0 s : State} (hS : Steady s0 s) (d : DieId) (c : CoreId) (q : QInst) (x : UpdDesc)
    (a : Nat) (table : Nat) (blocks : Nat) (sel : Nat × Nat) (aux : List (Nat × Nat))
    : Steady s0 (openRecord s d c q x a table blocks sel aux) := by
  unfold openRecord
  with_reducible
    repeat' first
      | assumption | apply setRecField_steady | apply modRec_steady | apply modRecs_steady | intro _ | split
      | dsimp only

theorem copyAux_steady {s0 s : State} (hS : Steady s0 s) (c : CoreId) (t : Shard) (x : UpdDesc) (commit : Nat)
    (gen : Nat) (taken : List (Nat × Nat)) : Steady s0 (copyAux s c t x commit gen taken).1 := by
  unfold copyAux
  with_reducible
    repeat' first
      | assumption | apply absLoad_steady | apply absStore_steady | apply writeSlot_steady | apply State.when_steady
      | apply raiseFlags_steady | apply State.bump_steady | intro _ | apply Steady.foldl | apply Steady.foldlFst
      | apply Steady.foldlSnd | apply Steady.foldlSnd2 | apply Steady.foldlLoad | apply Steady.foldlSeg
      | apply Steady.foldlImport | apply Steady.foldlSnd3 | split | dsimp only

theorem closeRecord_steady {s0 s : State} (hS : Steady s0 s) (d : DieId) (i : Nat)
    : Steady s0 (closeRecord d s i) := by
  unfold closeRecord
  with_reducible
    repeat' first
      | assumption | apply failFeed_steady | apply State.bumpBy_steady | apply setRecField_steady
      | apply modRec_steady | intro _ | split | dsimp only

theorem closeSelection_steady {s0 s : State} (hS : Steady s0 s) (d : DieId) : Steady s0 (closeSelection s d) := by
  unfold closeSelection
  with_reducible
    repeat' first
      | assumption | apply State.each_steady | apply closeRecord_steady | intro _ | split

theorem execFend_steady {s0 s : State} (hS : Steady s0 s) (core : CoreId) (h : Hdr) (f : BitVec 51)
    : SteadyR s0 (execFend core h f s) := by
  unfold execFend
  with_reducible
    repeat' first
      | assumption | apply Steady.next | apply issue_steady | apply closeSelection_steady | apply State.modCore_steady
      | intro _

theorem acceptUpd_steady {s0 s : State} (hS : Steady s0 s) (d : DieId) (c : CoreId) (q : QInst) (b : List Byte)
    (w1 : Nat) (w2 : Nat) (w3 : Nat) : Steady s0 (acceptUpd s d c q b w1 w2 w3) := by
  unfold acceptUpd
  with_reducible
    repeat' first
      | assumption | apply readTable_steady | apply updRate_steady | apply touchRec_steady | apply modEntry_steady
      | apply modCirrus_steady | apply openRecord_steady | apply copyAux_steady | apply modUpd_steady
      | apply failBlocks_steady | apply failFeed_steady | apply State.when_steady | apply raiseFlags_steady
      | apply closeSelection_steady | apply settleUpd_steady | intro _ | split | apply Steady.ite

theorem execUpdAccept_steady {s0 s : State} (hS : Steady s0 s) (die : DieId) : SteadyR s0 (execUpdAccept die s) := by
  unfold execUpdAccept
  with_reducible
    repeat' first
      | assumption | apply Steady.next | apply acceptUpd_steady | split | dsimp only

theorem stageValue_steady {s0 s : State} (hS : Steady s0 s) (u : UpdRun) (x : UpdDesc) (k : Block) (start : Nat)
    (e : Nat) (v : Option F32) :
    Steady s0 (stageValue s u x k start e v) := by
  unfold stageValue
  with_reducible
    repeat' first
      | assumption | apply absStore_steady

theorem giveValue_steady {s0 s : State} (hS : Steady s0 s) (d : DieId) (i : Nat) (j : Nat) (e : Nat) (v : Option
    F32) :
    Steady s0 (giveValue s d i j e v).1 := by
  unfold giveValue
  with_reducible
    repeat' first
      | assumption | apply modUpd_steady | apply stageValue_steady | apply settleUpd_steady | apply failBlocks_steady
      | split | dsimp only

theorem beginReplica_steady {s0 s : State} (hS : Steady s0 s) (d : DieId) (i : Nat) (k : Nat) (y : UpdDesc)
    : Steady s0 (beginReplica s d i k y) := by
  unfold beginReplica
  with_reducible
    repeat' first
      | assumption | apply reduceHere_steady | apply modRun_steady | intro _ | split

theorem handOver_steady {s0 s : State} (hS : Steady s0 s) (d : DieId) (i : Nat) (r : CollRun)
    : Steady s0 (handOver s d i r) := by
  unfold handOver
  with_reducible
    repeat' first
      | assumption | apply modRun_steady | apply failFeed_steady | apply beginReplica_steady | apply settleUpd_steady
      | apply failBlocks_steady | apply giveValue_steady | intro _ | split | dsimp only

theorem execGradientHandoff_steady {s0 s : State} (hS : Steady s0 s) (die : DieId) (slot : Fin 8) :
    SteadyR s0 (execGradientHandoff die slot s) := by
  unfold execGradientHandoff
  with_reducible
    repeat' first
      | assumption | apply Steady.next | apply handOver_steady | split

theorem takeIdle_steady {s0 s : State} (hS : Steady s0 s) (c : CoreId) : Steady s0 (takeIdle s c) := by
  unfold takeIdle
  with_reducible
    repeat' first
      | assumption | apply takeProduct_steady | intro _ | split

theorem productFails_steady {s0 s : State} (hS : Steady s0 s) (c : CoreId) (e : Nat)
    : Steady s0 (productFails s c e) := by
  unfold productFails
  with_reducible
    repeat' first
      | assumption | apply trapCore_steady | apply State.modCore_steady

theorem execBandReady_steady {s0 s : State} (hS : Steady s0 s) (die : DieId) (slot : Fin 16) (elem : Nat) :
    SteadyR s0 (execBandReady die slot elem s) := by
  unfold execBandReady
  with_reducible
    repeat' first
      | assumption | apply Steady.next | apply State.each_steady | apply modUpd_steady | apply takeIdle_steady
      | intro _ | split | dsimp only

theorem scrambleAcc3_steady {s0 s : State} (hS : Steady s0 s) (c : CoreId) : Steady s0 (scrambleAcc3 s c) := by
  unfold scrambleAcc3
  with_reducible
    repeat' first
      | assumption | apply State.draw_steady | apply State.modCore_steady

theorem execCirrusProductEnd_steady {s0 s : State} (hS : Steady s0 s) (core : CoreId)
    : SteadyR s0 (execCirrusProductEnd core s) := by
  unfold execCirrusProductEnd
  with_reducible
    repeat' first
      | assumption | apply Steady.next | apply modUpd_steady | apply productFails_steady | apply noteArrays_steady
      | apply takeIdle_steady | apply scrambleAcc3_steady | intro _ | split | dsimp only | apply Steady.mk'

theorem loadBlockRows_steady {s0 s : State} (hS : Steady s0 s) (c : CoreId) (base : Nat) (n : Nat) (b : Block) :
    Steady s0 (loadBlockRows s c base n b).2 := by
  unfold loadBlockRows
  with_reducible
    repeat' first
      | assumption | apply absLoad_steady | intro _ | apply Steady.foldlSnd

theorem storeBlockRows_steady {s0 s : State} (hS : Steady s0 s) (c : CoreId) (base : Nat) (n : Nat) (b : Block)
    (rows : List (List (Option Byte))) :
    Steady s0 (storeBlockRows s c base n b rows) := by
  unfold storeBlockRows
  with_reducible
    repeat' first
      | assumption | apply State.each_steady | apply absStore_steady | intro _

theorem computeBlock_steady {s0 s : State} (hS : Steady s0 s) (u : UpdRun) (x : UpdDesc) (t : Shard) (gen : Nat)
    (e : Nat) (j : Nat) (b : Block) : Steady s0 (computeBlock s u x t gen e j b).s := by
  unfold computeBlock
  with_reducible
    repeat' first
      | assumption | apply loadBlockRows_steady | apply absLoad_steady | intro _ | split | dsimp only

theorem scrambleWork_steady {s0 s : State} (hS : Steady s0 s) (c : CoreId) (x : UpdDesc) :
    Steady s0 (scrambleWork s c x) := by
  unfold scrambleWork
  with_reducible
    repeat' first
      | assumption | apply State.draw_steady | apply moverStore_steady | split

theorem writeBlock_steady {s0 s : State} (hS : Steady s0 s) (d : DieId) (i : Nat) (j : Nat) (u : UpdRun) (b : Block)
    (e : Nat) : Steady s0 (writeBlock s d i j u b e) := by
  unfold writeBlock
  with_reducible
    repeat' first
      | assumption | apply computeBlock_steady | apply storeBlockRows_steady | apply writeSlot_steady
      | apply absStore_steady | apply State.when_steady | apply raiseFlags_steady | apply State.bump_steady
      | apply scrambleWork_steady | apply failBlocks_steady | apply setRecField_steady | apply modUpd_steady
      | apply settleUpd_steady | intro _ | split

theorem execBlockWritten_steady {s0 s : State} (hS : Steady s0 s) (die : DieId) (slot : Fin 16) (block : Nat) :
    SteadyR s0 (execBlockWritten die slot block s) := by
  unfold execBlockWritten
  with_reducible
    repeat' first
      | assumption | apply Steady.next | apply writeBlock_steady | split

theorem feedEnded_steady {s0 s : State} (hS : Steady s0 s) (d : DieId) (r : CollRun) :
    Steady s0 (feedEnded s d r) := by
  unfold feedEnded
  with_reducible
    repeat' first
      | assumption | apply State.each_steady | apply settleUpd_steady | apply failBlocks_steady | intro _ | split

theorem completeColl_steady {s0 s : State} (hS : Steady s0 s) (d : DieId) (i : Nat) (r : CollRun) :
    Steady s0 (completeColl s d i r) := by
  unfold completeColl
  with_reducible
    repeat' first
      | assumption | apply finishColl_steady | apply feedEnded_steady | split

theorem endColl_steady {s0 s : State} (hS : Steady s0 s) (d : DieId) (i : Nat) : Steady s0 (endColl s d i) := by
  unfold endColl
  with_reducible
    repeat' first
      | assumption | apply completeColl_steady | intro _ | split

theorem execCollComplete_steady {s0 s : State} (hS : Steady s0 s) (die : DieId) (slot : Fin 8) (lost : Bool)
    : SteadyR s0 (execCollComplete die slot lost s) := by
  unfold execCollComplete
  with_reducible
    repeat' first
      | assumption | apply Steady.next | apply completeColl_steady | apply losePhase_steady | intro _ | split

theorem execCollAccept_steady {s0 s : State} (hS : Steady s0 s) (die : DieId)
    : SteadyR s0 (execCollAccept die s) := by
  unfold execCollAccept
  with_reducible
    repeat' first
      | assumption | apply Steady.next | apply readMap_steady | apply modEntry_steady | apply modColl_steady
      | apply endColl_steady | apply raiseFlags_steady | apply haltColl_steady | apply State.bump_steady
      | apply beginColl_steady | intro _ | split | dsimp only

theorem stopUpds_steady {s0 s : State} (hS : Steady s0 s) (c : CoreId) : Steady s0 (stopUpds s c) := by
  unfold stopUpds
  with_reducible
    repeat' first
      | assumption | apply State.each_steady | apply settleUpd_steady | apply failBlocks_steady | intro _ | split

theorem startRepair_steady {s0 s : State} (hS : Steady s0 s) (d : DieId) (i : Nat) (k : Nat)
    : Steady s0 (startRepair s d i k) := by
  unfold startRepair
  with_reducible
    repeat' first
      | assumption | apply modRec_steady | apply setRecField_steady | apply readTable_steady | apply absLoad_steady
      | intro _ | split

theorem idleRec_steady {s0 s : State} (hS : Steady s0 s) (d : DieId) (i : Nat) : Steady s0 (idleRec s d i) := by
  unfold idleRec
  with_reducible
    repeat' first
      | assumption | apply startRepair_steady | intro _ | split

theorem decideDie_steady {s0 s : State} (hS : Steady s0 s) (d : DieId) (step : Nat) (outcome : Nat)
    : Steady s0 (decideDie s d step outcome) := by
  unfold decideDie
  with_reducible
    repeat' first
      | assumption | apply State.each_steady | apply touchRec_steady | apply setRecField_steady | apply modRec_steady
      | apply State.bump_steady | apply idleRec_steady | apply State.when_steady | intro _ | split | dsimp only

theorem decideRecords_steady {s0 s : State} (hS : Steady s0 s) (step : Nat) (outcome : Nat) :
    Steady s0 (decideRecords s step outcome) := by
  unfold decideRecords
  with_reducible
    repeat' first
      | assumption | apply State.each_steady | apply decideDie_steady | intro _

theorem refreshShard_steady {s0 s : State} (hS : Steady s0 s) (c : CoreId) (t : Shard) (gen : Nat) (step : Nat)
    (sr : Bool) :
    Steady s0 (refreshShard s c t gen step sr).1 := by
  unfold refreshShard
  with_reducible
    repeat' first
      | assumption | apply absLoad_steady | apply absStore_steady | apply State.bumpBy_steady

theorem compareGauge_steady {s0 s : State} (hS : Steady s0 s) (d : DieId) (i : Nat) (own : List Byte)
    : Steady s0 (compareGauge s d i own) := by
  unfold compareGauge
  with_reducible
    repeat' first
      | assumption | apply modRec_steady | apply modCirrus_steady | apply raiseOn_steady | apply raiseFlags_steady
      | apply State.bump_steady | apply State.when_steady | apply startRepair_steady | intro _ | split | dsimp only

theorem compareIfFull_steady {s0 s : State} (hS : Steady s0 s) (d : DieId) (i : Nat)
    : Steady s0 (compareIfFull s d i) := by
  unfold compareIfFull
  with_reducible
    repeat' first
      | assumption | apply State.each_steady | apply compareGauge_steady | intro _ | split

theorem refreshRecord_steady {s0 s : State} (hS : Steady s0 s) (d : DieId) (i : Nat)
    : Steady s0 (refreshRecord s d i) := by
  unfold refreshRecord
  with_reducible
    repeat' first
      | assumption | apply readTable_steady | apply touchRec_steady | apply refreshShard_steady
      | apply setRecField_steady | apply idleRec_steady | apply modRec_steady | apply State.each_steady
      | refine queueFrame_steady ‹queueFrame _ _ _ _ _ = some _› ?_ | apply unroutable_steady
      | apply compareIfFull_steady | intro _ | split | dsimp only

theorem execRefreshEnd_steady {s0 s : State} (hS : Steady s0 s) (die : DieId) (rec : Nat) :
    SteadyR s0 (execRefreshEnd die rec s) := by
  unfold execRefreshEnd
  with_reducible
    repeat' first
      | assumption | apply Steady.next | apply refreshRecord_steady | split

theorem execFingerprintReceive_steady {s0 s : State} (hS : Steady s0 s) (src : PortId) (late : Bool)
    : SteadyR s0 (execFingerprintReceive src late s) := by
  unfold execFingerprintReceive
  with_reducible
    repeat' first
      | assumption | apply Steady.next | apply raiseFlags_steady | apply State.bump_steady | apply takeRx_steady
      | apply countPath_steady | apply modCirrus_steady | apply compareIfFull_steady | intro _ | split | dsimp only

theorem execGaugeTimeoutExpiry_steady {s0 s : State} (hS : Steady s0 s) (die : DieId) (rec : Nat)
    : SteadyR s0 (execGaugeTimeoutExpiry die rec s) := by
  unfold execGaugeTimeoutExpiry
  with_reducible
    repeat' first
      | assumption | apply Steady.next | apply compareGauge_steady | intro _ | split

theorem repairSlots_steady {s0 s : State} (hS : Steady s0 s) (c : CoreId) (t : Shard) (gen : Nat) (bs : List Byte) :
    Steady s0 (repairSlots s c t gen bs) := by
  unfold repairSlots
  with_reducible
    repeat' first
      | assumption | apply absStore_steady

theorem execRepairDone_steady {s0 s : State} (hS : Steady s0 s) (die : DieId) (rec : Nat) (data : Option (List Byte))
    (failed : Bool) : SteadyR s0 (execRepairDone die rec data failed s) := by
  unfold execRepairDone
  with_reducible
    repeat' first
      | assumption | apply Steady.next | apply raiseFlags_steady | apply idleRec_steady | apply modRec_steady
      | apply setRecField_steady | apply readTable_steady | apply refreshRecord_steady | apply State.bump_steady
      | apply repairSlots_steady | apply writeSlot_steady | intro _ | split

/-! ## Machine/Queues.lean -/

theorem execDescriptorFetchDone_steady {s0 s : State} (hS : Steady s0 s) (core : CoreId) (how : MemOutcome)
    : SteadyR s0 (execDescriptorFetchDone core how s) := by
  unfold execDescriptorFetchDone
  with_reducible
    repeat' first
      | assumption | apply Steady.next | apply ctrlRead_steady | apply trapCore_steady | apply enqueue_steady
      | intro _ | split

theorem finishUnit_steady {s0 s : State} (hS : Steady s0 s) (c : CoreId) (q : Nat) :
    Steady s0 (finishUnit s c q) := by
  unfold finishUnit
  with_reducible
    repeat' first
      | assumption | apply State.setCore_steady | split | dsimp only

theorem execQueueInstructionDone_steady {s0 s : State} (hS : Steady s0 s) (core : CoreId) (q : Fin 10) (wait :
    Nat) :
    SteadyR s0 (execQueueInstructionDone core q wait s) := by
  unfold execQueueInstructionDone
  with_reducible
    repeat' first
      | assumption | apply Steady.next | apply finishUnit_steady | apply finishMatrix_steady
      | apply finishVector_steady | apply finishPurl_steady | apply finishDma_steady | split

theorem execHandoverEffect_steady {s0 s : State} (hS : Steady s0 s) (core : CoreId) (bank : Fin 8) (waited : Nat) :
    SteadyR s0 (execHandoverEffect core bank waited s) := by
  unfold execHandoverEffect
  with_reducible
    repeat' first
      | assumption | apply Steady.next | apply State.bumpBy_steady | apply State.setCore_steady | split | dsimp only

theorem execFrameWatchdog_steady {s0 s : State} (hS : Steady s0 s) (core : CoreId)
    : SteadyR s0 (execFrameWatchdog core s) := by
  unfold execFrameWatchdog
  with_reducible
    repeat' first
      | assumption | apply Steady.next | apply trapCore_steady | intro _ | split

/-! ## Machine/Life.lean -/

theorem lockedWrite_steady {s0 s : State} (hS : Steady s0 s) : Steady s0 (lockedWrite s) := by
  unfold lockedWrite
  with_reducible
    repeat' first
      | assumption | apply State.bump_steady

/-! ## Machine/Ports.lean -/

theorem ownerLost_steady {s0 s : State} (hS : Steady s0 s) (o : FrameOwner) : Steady s0 (ownerLost s o) := by
  unfold ownerLost
  with_reducible
    repeat' first
      | assumption | apply chunkLost_steady | apply exchLost_steady | apply raiseFlags_steady | split

theorem requeue_steady {s0 s : State} (hS : Steady s0 s) (p : PortId) (vc : Nat) (f : OutFrame × Nat)
    : Steady s0 (requeue s p vc f) := by
  unfold requeue
  with_reducible
    repeat' first
      | assumption | refine queueFrame_steady ‹queueFrame _ _ _ _ _ = some _› ?_ | apply ownerLost_steady
      | apply unroutable_steady | apply freeCredit_steady | intro _ | split

theorem failFrames_steady {s0 s : State} (hS : Steady s0 s) (p : PortId) : Steady s0 (failFrames s p) := by
  unfold failFrames
  with_reducible
    repeat' first
      | assumption | apply State.modPort_steady | apply State.each_steady | apply ownerLost_steady
      | apply State.bump_steady | apply requeue_steady | intro _

theorem settlePort_steady {s0 : State} {r : State × Bool} (hS : Steady s0 r.1) (p : PortId) :
    Steady s0 (settlePort p r) := by
  unfold settlePort
  with_reducible
    repeat' first
      | assumption | apply failFrames_steady | split

theorem violate_steady {s0 s : State} (hS : Steady s0 s) (p : PortId) (c : Nat) : Steady s0 (violate s p c) := by
  unfold violate
  with_reducible
    repeat' first
      | assumption | apply settlePort_steady | apply violation_steady

theorem badForm_steady {s0 s : State} (hS : Steady s0 s) (p : PortId) : Steady s0 (badForm s p) := by
  unfold badForm
  with_reducible
    repeat' first
      | assumption | apply violate_steady | apply frameInError_steady

theorem takeFrameOf_steady {s0 s : State} (hS : Steady s0 s) (p : PortId) (type : Nat) (frame : List Byte)
    (fixed : Nat) (bad : Bool) (k : State → State) (hF : ∀ x0, Steady s0 x0 → Steady s0 (k x0))
    : Steady s0 (takeFrameOf s p type frame fixed bad k) := by
  unfold takeFrameOf
  with_reducible
    repeat' first
      | assumption | apply hF | apply noteFixed_steady | apply frameInError_steady | apply badForm_steady | intro _
      | split

theorem execPortEnable_steady {s0 s : State} (hS : Steady s0 s) (port : PortId) :
    SteadyR s0 (execPortEnable port s) := by
  unfold execPortEnable
  with_reducible
    repeat' first
      | assumption | apply Steady.next | apply State.modPort_steady

theorem disablePort_steady {s0 s : State} (hS : Steady s0 s) (p : PortId) : Steady s0 (disablePort s p) := by
  unfold disablePort
  with_reducible
    repeat' first
      | assumption | apply State.when_steady | apply State.modPort_steady | apply failFrames_steady | intro _

theorem execPortDisable_steady {s0 s : State} (hS : Steady s0 s) (port : PortId) :
    SteadyR s0 (execPortDisable port s) := by
  unfold execPortDisable
  with_reducible
    repeat' first
      | assumption | apply Steady.next | apply disablePort_steady

theorem execPortRetrainWrite_steady {s0 s : State} (hS : Steady s0 s) (port : PortId) :
    SteadyR s0 (execPortRetrainWrite port s) := by
  unfold execPortRetrainWrite
  with_reducible
    repeat' first
      | assumption | apply Steady.next | apply settlePort_steady | apply enterRetraining_steady

theorem execPortTrained_steady {s0 s : State} (hS : Steady s0 s) (port : PortId) (pkg : BitVec 16) (pport : BitVec
    8) (fec : BitVec 2) :
    SteadyR s0 (execPortTrained port pkg pport fec s) := by
  unfold execPortTrained
  with_reducible
    repeat' first
      | assumption | apply Steady.next | apply State.modPort_steady | split

theorem execPortTrainSlow_steady {s0 s : State} (hS : Steady s0 s) (port : PortId) :
    SteadyR s0 (execPortTrainSlow port s) := by
  unfold execPortTrainSlow
  with_reducible
    repeat' first
      | assumption | apply Steady.next | apply State.modPort_steady | apply portEvent_steady | split

theorem execMeasureTimeout_steady {s0 s : State} (hS : Steady s0 s) (port : PortId) :
    SteadyR s0 (execMeasureTimeout port s) := by
  unfold execMeasureTimeout
  with_reducible
    repeat' first
      | assumption | apply Steady.next | apply State.modPort_steady | split

theorem execCodewordLockLoss_steady {s0 s : State} (hS : Steady s0 s) (port : PortId) :
    SteadyR s0 (execCodewordLockLoss port s) := by
  unfold execCodewordLockLoss
  with_reducible
    repeat' first
      | assumption | apply Steady.next | apply settlePort_steady | apply enterRetraining_steady

theorem execRetrainTimeout_steady {s0 s : State} (hS : Steady s0 s) (port : PortId) :
    SteadyR s0 (execRetrainTimeout port s) := by
  unfold execRetrainTimeout
  with_reducible
    repeat' first
      | assumption | apply Steady.next | apply failFrames_steady | apply portEvent_steady | apply State.modPort_steady
      | split

theorem execProbeSend_steady {s0 s : State} (hS : Steady s0 s) (port : PortId) (stamp : BitVec 64) :
    SteadyR s0 (execProbeSend port stamp s) := by
  unfold execProbeSend
  with_reducible
    repeat' first
      | assumption | apply Steady.next | apply sendRaw_steady | apply State.modPort_steady | split

theorem execProbeTimeout_steady {s0 s : State} (hS : Steady s0 s) (port : PortId) :
    SteadyR s0 (execProbeTimeout port s) := by
  unfold execProbeTimeout
  with_reducible
    repeat' first
      | assumption | apply Steady.next | apply State.modPort_steady

theorem drawBetween_steady {s0 s : State} (hS : Steady s0 s) (lo : Int) (hi : Int) :
    Steady s0 (drawBetween s lo hi).2 := by
  unfold drawBetween
  with_reducible
    repeat' first
      | assumption | apply State.draw_steady

theorem portUp_steady {s0 s : State} (hS : Steady s0 s) (p : PortId) : Steady s0 (portUp s p) := by
  unfold portUp
  with_reducible
    repeat' first
      | assumption | apply sendCtrl_steady | apply State.modPort_steady | apply State.when_steady
      | apply failFrames_steady | apply portEvent_steady | intro _ | split | dsimp only

theorem newLatency_steady {s0 s : State} (hS : Steady s0 s) (p : PortId) (v : Int) :
    Steady s0 (newLatency s p v) := by
  unfold newLatency
  with_reducible
    repeat' first
      | assumption | apply State.modPort_steady | apply drawBetween_steady | apply portUp_steady | split | dsimp only

theorem takeEcho_steady {s0 s : State} (hS : Steady s0 s) (p : PortId) (stamp : Nat) (turn : Nat) (arrive : Nat) :
    Steady s0 (takeEcho s p stamp turn arrive) := by
  unfold takeEcho
  with_reducible
    repeat' first
      | assumption | apply violate_steady | apply State.draw_steady | apply State.modPort_steady
      | apply newLatency_steady | split | dsimp only

theorem execProbeReceive_steady {z0 s0 : State} (hS : Steady z0 s0) (port : PortId) (frame : List Byte) (fec : FecOutcome)
    (arrive : BitVec 64) (turn : BitVec 32) : SteadyR z0 (execProbeReceive port frame fec arrive turn s0) := by
  unfold execProbeReceive
  with_reducible
    repeat' first
      | assumption | apply Steady.next | apply noteFixed_steady | apply frameInError_steady | apply State.bump_steady
      | apply badForm_steady | apply violate_steady | apply sendRaw_steady | apply takeEcho_steady | intro _ | split
      | dsimp only

theorem execDataFrameSend_steady {s0 s : State} (hS : Steady s0 s) (port : PortId) (vc : Fin 3) :
    SteadyR s0 (execDataFrameSend port vc s) := by
  unfold execDataFrameSend
  with_reducible
    repeat' first
      | assumption | apply Steady.next | apply sendData_steady | split

theorem forwardFrame_steady {s0 s : State} (hS : Steady s0 s) (p : PortId) (vc : Nat) (h : FrameHead)
    (payload : List Byte) : Steady s0 (forwardFrame s p vc h payload) := by
  unfold forwardFrame
  with_reducible
    repeat' first
      | assumption | refine queueFrame_steady ‹queueFrame _ _ _ _ _ = some _› ?_ | apply State.bump_steady
      | apply freeCredit_steady | apply unroutable_steady | intro _ | split | dsimp only

theorem acceptData_steady {s0 s : State} (hS : Steady s0 s) (p : PortId) (h : FrameHead) (frame : List Byte) :
    Steady s0 (acceptData s p h frame) := by
  unfold acceptData
  with_reducible
    repeat' first
      | assumption | apply State.when_steady | apply State.modPort_steady | apply countBytes_steady
      | apply State.bumpBy_steady | apply sendCtrl_steady | apply forwardFrame_steady | intro _ | split

theorem takeData_steady {s0 s : State} (hS : Steady s0 s) (p : PortId) (frame : List Byte)
    : Steady s0 (takeData s p frame) := by
  unfold takeData
  with_reducible
    repeat' first
      | assumption | apply violate_steady | apply frameInError_steady | apply nakFrame_steady
      | apply acceptData_steady | intro _ | split | dsimp only

theorem execDataFrameReceive_steady {s0 s : State} (hS : Steady s0 s) (port : PortId) (frame : List Byte)
    (fixed : Nat) (bad : Bool) : SteadyR s0 (execDataFrameReceive port frame fixed bad s) := by
  unfold execDataFrameReceive
  with_reducible
    repeat' first
      | assumption | apply Steady.next | apply takeFrameOf_steady | apply takeData_steady | intro _

theorem takeCredit_steady {s0 s : State} (hS : Steady s0 s) (p : PortId) (vc : Nat) (c : Nat) :
    Steady s0 (takeCredit s p vc c) := by
  unfold takeCredit
  with_reducible
    repeat' first
      | assumption | apply violate_steady | apply State.modPort_steady | split | dsimp only

theorem takeNak_steady {s0 s : State} (hS : Steady s0 s) (p : PortId) : Steady s0 (takeNak s p) := by
  unfold takeNak
  with_reducible
    repeat' first
      | assumption | apply State.when_steady | apply settlePort_steady | apply enterRetraining_steady
      | apply State.bump_steady | apply replayAll_steady | intro _ | split

theorem takeCtrl_steady {s0 s : State} (hS : Steady s0 s) (p : PortId) (pl : List Byte)
    : Steady s0 (takeCtrl s p pl) := by
  unfold takeCtrl
  with_reducible
    repeat' first
      | assumption | apply violate_steady | apply State.bumpBy_steady | apply State.modPort_steady
      | apply State.each_steady | apply takeCredit_steady | apply replayAll_steady | apply State.when_steady
      | apply takeNak_steady | intro _ | split | dsimp only

theorem execCtrlFrameReceive_steady {s0 s : State} (hS : Steady s0 s) (port : PortId) (frame : List Byte)
    (fec : FecOutcome) : SteadyR s0 (execCtrlFrameReceive port frame fec s) := by
  unfold execCtrlFrameReceive
  with_reducible
    repeat' first
      | assumption | apply Steady.next | apply takeFrameOf_steady | apply takeCtrl_steady | intro _

theorem execAckTimer_steady {s0 s : State} (hS : Steady s0 s) (port : PortId) : SteadyR s0 (execAckTimer port s) := by
  unfold execAckTimer
  with_reducible
    repeat' first
      | assumption | apply Steady.next | apply sendCtrl_steady | split

theorem writeDsCtrl_steady {s0 s : State} (hS : Steady s0 s) (p : PortId) (v : Nat) :
    Steady s0 (writeDsCtrl s p v) := by
  unfold writeDsCtrl
  with_reducible
    repeat' first
      | assumption | apply State.when_steady | apply lockedWrite_steady | apply State.modPort_steady
      | apply dsBoundary_steady | intro _ | split

theorem execDropstitchTriggerOff_steady {s0 s : State} (hS : Steady s0 s) (port : PortId) (drop : BitVec 16)
    (corrupt : BitVec 16) (reorder : BitVec 16) (classes : BitVec 4) :
    SteadyR s0 (execDropstitchTriggerOff port drop corrupt reorder classes s) := by
  unfold execDropstitchTriggerOff
  with_reducible
    repeat' first
      | assumption | apply Steady.next | apply writeDsCtrl_steady

theorem execDropstitchTriggerNow_steady {s0 s : State} (hS : Steady s0 s) (port : PortId) (drop : BitVec 16)
    (corrupt : BitVec 16) (reorder : BitVec 16) (classes : BitVec 4) :
    SteadyR s0 (execDropstitchTriggerNow port drop corrupt reorder classes s) := by
  unfold execDropstitchTriggerNow
  with_reducible
    repeat' first
      | assumption | apply Steady.next | apply writeDsCtrl_steady

theorem execDropstitchTriggerTick_steady {s0 s : State} (hS : Steady s0 s) (port : PortId) (drop : BitVec 16)
    (corrupt : BitVec 16) (reorder : BitVec 16) (classes : BitVec 4) :
    SteadyR s0 (execDropstitchTriggerTick port drop corrupt reorder classes s) := by
  unfold execDropstitchTriggerTick
  with_reducible
    repeat' first
      | assumption | apply Steady.next | apply writeDsCtrl_steady

theorem execDropstitchSingleShot_steady {s0 s : State} (hS : Steady s0 s) (port : PortId) (drop : BitVec 16)
    (corrupt : BitVec 16) (reorder : BitVec 16) (classes : BitVec 4) :
    SteadyR s0 (execDropstitchSingleShot port drop corrupt reorder classes s) := by
  unfold execDropstitchSingleShot
  with_reducible
    repeat' first
      | assumption | apply Steady.next | apply writeDsCtrl_steady

end Sys2Proof.Machine
end

