-- ==== Sys2Proof/Laws/SteadyRun.lean ====
section
/-!
SUPPORT. Laws/SteadyRun.lean: that the frames of the image, ticks, power, images and the host interface leave the waiting commands alone and
keep memory and the scratchpads in canonical form. One lemma per operation and per meaning: from a state that is
steady against an earlier one, its effect is too.
-/
namespace Sys2Proof.Machine

/-! ## Machine/Clock.lean -/

theorem State.modPdie_steady {s0 s : State} (hS : Steady s0 s) (d : DieId) (f : PowerDie → PowerDie) :
    Steady s0 (State.modPdie s d f) := by
  unfold State.modPdie
  with_reducible
    repeat' first
      | assumption | intro _ | apply Steady.mk'

theorem State.modClk_steady {s0 s : State} (hS : Steady s0 s) (c : CoreId) (f : CoreClk → CoreClk) :
    Steady s0 (State.modClk s c f) := by
  unfold State.modClk
  with_reducible
    repeat' first
      | assumption | intro _ | apply Steady.mk'

theorem State.modGroup_steady {s0 s : State} (hS : Steady s0 s) (g : Fin 20) (f : RailGroup → RailGroup) :
    Steady s0 (State.modGroup s g f) := by
  unfold State.modGroup
  with_reducible
    repeat' first
      | assumption | intro _ | apply Steady.mk'

theorem refreshClocks_steady {s0 s : State} (hS : Steady s0 s) (d : DieId) : Steady s0 (refreshClocks s d) := by
  unfold refreshClocks
  with_reducible
    repeat' first
      | assumption | apply State.each_steady | apply State.when_steady | apply State.modPdie_steady
      | apply State.modClk_steady | intro _

theorem refreshAllClocks_steady {s0 s : State} (hS : Steady s0 s) : Steady s0 (refreshAllClocks s) := by
  unfold refreshAllClocks
  with_reducible
    repeat' first
      | assumption | apply State.each_steady | apply refreshClocks_steady | intro _

theorem planFrame_steady {s0 s : State} (hS : Steady s0 s) (fd : FrameDesc) : Steady s0 (planFrame s fd) := by
  unfold planFrame
  with_reducible
    repeat' first
      | assumption | apply State.each_steady | apply State.draw_steady | apply State.modClk_steady
      | apply refreshAllClocks_steady | intro _ | split | dsimp only

theorem clearFloors_steady {s0 s : State} (hS : Steady s0 s) : Steady s0 (clearFloors s) := by
  unfold clearFloors
  with_reducible
    repeat' first
      | assumption | apply State.each_steady | apply State.modClk_steady | intro _

theorem addPhase_steady {s0 s : State} (hS : Steady s0 s) (d : DieId) (tag : Nat) (us : Nat) :
    Steady s0 (addPhase s d tag us) := by
  unfold addPhase
  with_reducible
    repeat' first
      | assumption | apply State.modPdie_steady

theorem closePhases_steady {s0 s : State} (hS : Steady s0 s) (tag : Nat) : Steady s0 (closePhases s tag) := by
  unfold closePhases
  with_reducible
    repeat' first
      | assumption | apply State.each_steady | apply State.when_steady | apply addPhase_steady
      | apply State.modPdie_steady | intro _

theorem clearPhases_steady {s0 s : State} (hS : Steady s0 s) : Steady s0 (clearPhases s) := by
  unfold clearPhases
  with_reducible
    repeat' first
      | assumption | apply State.each_steady | apply State.modPdie_steady | intro _

/-! ## Machine/Frame.lean -/

theorem setContrib_steady {s0 s : State} (hS : Steady s0 s) (n : Nat) (c : Contrib) :
    Steady s0 (setContrib s n c) := by
  unfold setContrib
  with_reducible
    repeat' first
      | assumption | intro _ | apply Steady.mk'

theorem parkFlags_steady {s0 s : State} (hS : Steady s0 s) : Steady s0 (parkFlags s) := by
  unfold parkFlags
  with_reducible
    repeat' first
      | assumption | apply setContrib_steady | intro _ | split | dsimp only | apply Steady.mk'

theorem sealFrame_steady {s0 s : State} (hS : Steady s0 s) : Steady s0 (sealFrame s) := by
  unfold sealFrame
  with_reducible
    repeat' first
      | assumption | apply setContrib_steady | intro _ | apply Steady.mk'

theorem stopRequest_steady {s0 s : State} (hS : Steady s0 s) (cause : Nat) : Steady s0 (stopRequest s cause) := by
  unfold stopRequest
  with_reducible
    repeat' first
      | assumption | apply raiseFlags_steady | intro _ | apply Steady.mk'

theorem stopCore_steady {s0 s : State} (hS : Steady s0 s) (c : CoreId) : Steady s0 (stopCore s c) := by
  unfold stopCore
  with_reducible
    repeat' first
      | assumption | apply State.setCore_steady | split | dsimp only

theorem settleStop_steady {s0 s : State} (hS : Steady s0 s) : Steady s0 (settleStop s) := by
  unfold settleStop
  with_reducible
    repeat' first
      | assumption | apply State.when_steady | apply sealFrame_steady | apply setDeviceState_steady | intro _ | split

theorem abandonStep_steady {s0 s : State} (hS : Steady s0 s) (r : StepRec) : Steady s0 (abandonStep s r) := by
  unfold abandonStep
  with_reducible
    repeat' first
      | assumption | apply decideRecords_steady | apply State.bump_steady | intro _ | split | dsimp only
      | apply Steady.mk'

theorem stopImage_steady {s0 s : State} (hS : Steady s0 s) (t : Nat) (cause : Nat)
    : Steady s0 (stopImage s t cause) := by
  unfold stopImage
  with_reducible
    repeat' first
      | assumption | apply State.each_steady | apply stopUpds_steady | apply stopCore_steady
      | apply abandonStep_steady | apply State.when_steady | apply parkFlags_steady | apply settleStop_steady
      | apply abortExchs_steady | intro _ | split | dsimp only | apply Steady.mk'

theorem execTrapRecordWrite_steady {s0 s : State} (hS : Steady s0 s) (core : CoreId)
    : SteadyR s0 (execTrapRecordWrite core s) := by
  unfold execTrapRecordWrite
  with_reducible
    repeat' first
      | assumption | apply Steady.next | apply State.setCore_steady | apply raiseOn_steady | apply State.bump_steady
      | apply settleStop_steady | apply stopRequest_steady | intro _ | split | dsimp only

theorem execCoreStopRecord_steady {s0 s : State} (hS : Steady s0 s) (core : CoreId) :
    SteadyR s0 (execCoreStopRecord core s) := by
  unfold execCoreStopRecord
  with_reducible
    repeat' first
      | assumption | apply Steady.next | apply settleStop_steady | apply State.setCore_steady | split

theorem snapRings_steady {s0 s : State} (hS : Steady s0 s) : Steady s0 (snapRings s) := by
  unfold snapRings
  with_reducible
    repeat' first
      | assumption | apply State.each_steady | apply absLoad_steady | apply absStore_steady | intro _ | split
      | dsimp only

theorem latchWindows_steady {s0 s : State} (hS : Steady s0 s) : Steady s0 (latchWindows s) := by
  unfold latchWindows
  with_reducible
    repeat' first
      | assumption | apply State.each_steady | apply State.modDie_steady | intro _

theorem fetchEntry_steady {s0 s : State} (hS : Steady s0 s) (c : CoreId) (entry : Nat)
    : Steady s0 (fetchEntry s c entry) := by
  unfold fetchEntry
  with_reducible
    repeat' first
      | assumption | apply State.when_steady | apply readLine_steady | intro _

theorem startCore_steady {s0 s : State} (hS : Steady s0 s) (fd : FrameDesc) (n : Nat) (step : Nat) (c : CoreId)
    : Steady s0 (startCore fd n step s c) := by
  unfold startCore
  with_reducible
    repeat' first
      | assumption | apply State.modCore_steady | apply fetchEntry_steady | intro _ | split

theorem resumeCore_steady {s0 s : State} (hS : Steady s0 s) (n : Nat) (c : CoreId)
    : Steady s0 (resumeCore n s c) := by
  unfold resumeCore
  with_reducible
    repeat' first
      | assumption | apply State.modCore_steady

theorem startFrame_steady {s0 s : State} (hS : Steady s0 s) (fd : FrameDesc) : Steady s0 (startFrame s fd) := by
  unfold startFrame
  with_reducible
    repeat' first
      | assumption | apply State.each_steady | apply snapRings_steady | apply latchWindows_steady
      | apply planFrame_steady | apply startCore_steady | intro _ | apply Steady.mk'

theorem resumeFrame_steady {s0 s : State} (hS : Steady s0 s) : Steady s0 (resumeFrame s) := by
  unfold resumeFrame
  with_reducible
    repeat' first
      | assumption | apply State.each_steady | apply refreshAllClocks_steady | apply resumeCore_steady | intro _
      | apply Steady.mk'

theorem execFrameStart_steady {s0 s : State} (hS : Steady s0 s) : SteadyR s0 (execFrameStart s) := by
  unfold execFrameStart
  with_reducible
    repeat' first
      | assumption | apply Steady.next | apply State.setObj_steady | apply resumeFrame_steady
      | apply startFrame_steady | split

theorem execFrameComplete_steady {s0 s : State} (hS : Steady s0 s) : SteadyR s0 (execFrameComplete s) := by
  unfold execFrameComplete
  with_reducible
    repeat' first
      | assumption | apply Steady.next | apply closePhases_steady | apply sealFrame_steady | split

theorem execImageEnd_steady {s0 s : State} (hS : Steady s0 s) : SteadyR s0 (execImageEnd s) := by
  unfold execImageEnd
  with_reducible
    repeat' first
      | assumption | apply Steady.next | apply raise_steady | apply clearFloors_steady | apply State.each_steady
      | apply State.modCore_steady | intro _ | split | dsimp only | apply Steady.mk'

/-! ## Machine/Tick.lean -/

theorem State.modTick_steady {s0 s : State} (hS : Steady s0 s) (f : TickNet → TickNet) :
    Steady s0 (State.modTick s f) := by
  unfold State.modTick
  with_reducible
    repeat' first
      | assumption | intro _ | apply Steady.mk'

theorem sendMarkers_steady {s0 s : State} (hS : Steady s0 s) (t : Nat) (period : Nat) (e : Nat) (hops : Nat) (base
    : Nat) (origin : Nat) (delays : List Nat) :
    Steady s0 (sendMarkers s t period e hops base origin delays) := by
  unfold sendMarkers
  with_reducible
    repeat' first
      | assumption | apply State.each_steady | apply sendRaw_steady | intro _

theorem holdTick_steady {s0 s : State} (hS : Steady s0 s) (t : Nat) : Steady s0 (holdTick s t) := by
  unfold holdTick
  with_reducible
    repeat' first
      | assumption | apply State.modTick_steady

theorem fireTick_steady {s0 s : State} (hS : Steady s0 s) (delays : List Nat) : Steady s0 (fireTick s delays) := by
  unfold fireTick
  with_reducible
    repeat' first
      | assumption | apply State.when_steady | apply sendMarkers_steady | apply holdTick_steady | intro _

theorem execTimebaseTick_steady {s0 s : State} (hS : Steady s0 s) (delays : List Nat) :
    SteadyR s0 (execTimebaseTick delays s) := by
  unfold execTimebaseTick
  with_reducible
    repeat' first
      | assumption | apply Steady.next | apply fireTick_steady | split

theorem execTickInEdge_steady {s0 s : State} (hS : Steady s0 s) (gap : Nat) (delays : List Nat) :
    SteadyR s0 (execTickInEdge gap delays s) := by
  unfold execTickInEdge
  with_reducible
    repeat' first
      | assumption | apply Steady.next | apply State.bump_steady | apply fireTick_steady | apply State.modTick_steady
      | split

theorem sendWave_steady {s0 s : State} (hS : Steady s0 s) (w : Nat) : Steady s0 (sendWave s w) := by
  unfold sendWave
  with_reducible
    repeat' first
      | assumption | apply State.each_steady | apply sendRaw_steady | intro _

theorem setWave_steady {s0 s : State} (hS : Steady s0 s) (w : Nat) (v : Wave) : Steady s0 (setWave s w v) := by
  unfold setWave
  with_reducible
    repeat' first
      | assumption | apply State.modTick_steady

theorem originateWave_steady {s0 s : State} (hS : Steady s0 s) (t : Nat) : Steady s0 (originateWave s t) := by
  unfold originateWave
  with_reducible
    repeat' first
      | assumption | apply setWave_steady | apply sendWave_steady | apply State.modTick_steady

theorem keepPayload_steady {s0 s : State} (hS : Steady s0 s) (n : Nat) (p : Payload)
    : Steady s0 (keepPayload s n p) := by
  unfold keepPayload
  with_reducible
    repeat' first
      | assumption | apply State.modTick_steady

theorem actPayload_steady {s0 s : State} (hS : Steady s0 s) (n : Nat) (p : Payload) :
    Steady s0 (actPayload s n p) := by
  unfold actPayload
  with_reducible
    repeat' first
      | assumption | apply abortExchs_steady | apply abortColls_steady | intro _ | split | apply Steady.mk'

theorem deliverOne_steady {s0 : State} {r : State × Bool} (hS : Steady s0 r.1) (w : Nat) (n : Nat) :
    Steady s0 (deliverOne w r n).1 := by
  unfold deliverOne
  with_reducible
    repeat' first
      | assumption | apply actPayload_steady | apply keepPayload_steady

theorem setPeriod_steady {s0 s : State} (hS : Steady s0 s) (p : Nat) : Steady s0 (setPeriod s p) := by
  unfold setPeriod
  with_reducible
    repeat' first
      | assumption | apply State.bump_steady | apply State.modTick_steady | split

theorem stretch_steady {s0 s : State} (hS : Steady s0 s) (late : Bool) : Steady s0 (stretch s late) := by
  unfold stretch
  with_reducible
    repeat' first
      | assumption | apply State.modTick_steady | apply setPeriod_steady | intro _ | split | dsimp only

theorem decideStep_steady {s0 s : State} (hS : Steady s0 s) (r : StepRec) : Steady s0 (decideStep s r) := by
  unfold decideStep
  with_reducible
    repeat' first
      | assumption | apply decideRecords_steady | apply State.setObj_steady | apply State.bump_steady | intro _
      | split | dsimp only | apply Steady.mk'

theorem decideSteps_steady {s0 a1 : State} (hS : Steady s0 a1) (a0 : Nat) : Steady s0 (decideSteps a0 a1) := by
  induction a0 generalizing a1 with
  | zero => exact hS
  | succ n ih =>
    unfold decideSteps
    repeat' first
      | with_reducible assumption | with_reducible apply ih | with_reducible apply decideStep_steady | split

theorem markLate_steady {s0 s : State} (hS : Steady s0 s) (t : Nat) : Steady s0 (markLate s t) := by
  unfold markLate
  with_reducible
    repeat' first
      | assumption | apply setContrib_steady | intro _ | split | apply Steady.mk'

theorem tickPortsStep_steady {s0 s : State} (hS : Steady s0 s) (t : Nat) : Steady s0 (tickPortsStep s t) := by
  unfold tickPortsStep
  with_reducible
    repeat' first
      | assumption | apply State.each_steady | apply State.modPort_steady | intro _

theorem deliver_steady {s0 s : State} (hS : Steady s0 s) (t : Nat) : Steady s0 (deliver s t) := by
  unfold deliver
  with_reducible
    repeat' first
      | assumption | apply State.when_steady | apply deliverOne_steady | apply State.modTick_steady
      | apply stretch_steady | apply State.bump_steady | apply stopImage_steady | apply decideSteps_steady | intro _
      | apply Steady.foldlFst | split | dsimp only

theorem tickArrive_steady {s0 s : State} (hS : Steady s0 s) (t : Nat) : Steady s0 (tickArrive s t) := by
  unfold tickArrive
  with_reducible
    repeat' first
      | assumption | apply State.modTick_steady | apply State.when_steady | apply State.emit_steady
      | apply State.draw_steady | apply State.setObj_steady | apply originateWave_steady | apply markLate_steady
      | apply tickPortsStep_steady | apply deliver_steady | intro _

theorem execTickArrival_steady {s0 s : State} (hS : Steady s0 s) : SteadyR s0 (execTickArrival s) := by
  unfold execTickArrival
  with_reducible
    repeat' first
      | assumption | apply Steady.next | apply tickArrive_steady | apply State.modTick_steady | split

theorem compareMarker_steady {s0 s : State} (hS : Steady s0 s) (p : PortId) (m : Marker) :
    Steady s0 (compareMarker s p m) := by
  unfold compareMarker
  with_reducible
    repeat' first
      | assumption | apply stopRequest_steady | apply raise_steady | split

theorem sequenceFault_steady {s0 s : State} (hS : Steady s0 s) (p : PortId) (t : Nat) :
    Steady s0 (sequenceFault s p t) := by
  unfold sequenceFault
  with_reducible
    repeat' first
      | assumption | apply raise_steady | apply violate_steady

theorem firstMarker_steady {s0 s : State} (hS : Steady s0 s) (p : PortId) (m : Marker) (delays : List Nat) :
    Steady s0 (firstMarker s p m delays) := by
  unfold firstMarker
  with_reducible
    repeat' first
      | assumption | apply State.each_steady | apply State.when_steady | apply sendMarkers_steady
      | apply State.setObj_steady | apply State.modTick_steady | apply raise_steady | apply holdTick_steady
      | apply tickArrive_steady | intro _ | split | dsimp only

theorem takeMarker_steady {s0 s : State} (hS : Steady s0 s) (p : PortId) (m : Marker) (delays : List Nat) :
    Steady s0 (takeMarker s p m delays) := by
  unfold takeMarker
  with_reducible
    repeat' first
      | assumption | apply firstMarker_steady | apply compareMarker_steady | apply sequenceFault_steady
      | apply setLevel_steady | apply State.modTick_steady | split | dsimp only

theorem execMarkerReceive_steady {s0 s : State} (hS : Steady s0 s) (port : PortId) (frame : List Byte) (fec : FecOutcome)
    (delays : List Nat) : SteadyR s0 (execMarkerReceive port frame fec delays s) := by
  unfold execMarkerReceive
  with_reducible
    repeat' first
      | assumption | apply Steady.next | apply takeFrameOf_steady | apply takeMarker_steady | intro _ | split

theorem execTickConflictEnd_steady {s0 s : State} (hS : Steady s0 s) : SteadyR s0 (execTickConflictEnd s) := by
  unfold execTickConflictEnd
  with_reducible
    repeat' first
      | assumption | apply Steady.next | apply setLevel_steady | apply State.modTick_steady

theorem takeWave_steady {s0 s : State} (hS : Steady s0 s) (w : Nat) (v : Wave) (settle : Nat) :
    Steady s0 (takeWave s w v settle) := by
  unfold takeWave
  with_reducible
    repeat' first
      | assumption | apply sendWave_steady | apply setWave_steady | apply State.setObj_steady
      | apply stopRequest_steady | apply raise_steady | split | dsimp only

theorem execWaveReceive_steady {s0 s : State} (hS : Steady s0 s) (port : PortId) (frame : List Byte) (fec : FecOutcome)
    (settle : Nat) : SteadyR s0 (execWaveReceive port frame fec settle s) := by
  unfold execWaveReceive
  with_reducible
    repeat' first
      | assumption | apply Steady.next | apply takeFrameOf_steady | apply takeWave_steady | apply sequenceFault_steady
      | intro _ | split | dsimp only

theorem execTickLoss_steady {s0 s : State} (hS : Steady s0 s) : SteadyR s0 (execTickLoss s) := by
  unfold execTickLoss
  with_reducible
    repeat' first
      | assumption | apply Steady.next | apply State.when_steady | apply State.modTick_steady | apply stopImage_steady
      | apply raise_steady | intro _

/-! ## Machine/Power.lean -/

theorem applyBudget_steady {s0 s : State} (hS : Steady s0 s) : Steady s0 (applyBudget s) := by
  unfold applyBudget
  with_reducible
    repeat' first
      | assumption | apply State.when_steady | apply State.setObj_steady | apply raise_steady
      | apply State.draw_steady | apply refreshAllClocks_steady | intro _ | split | dsimp only | apply Steady.mk'

theorem addEnergy_steady {s0 s : State} (hS : Steady s0 s) (d : DieId) (tag : Nat) (uj : Nat)
    : Steady s0 (addEnergy s d tag uj) := by
  unfold addEnergy
  with_reducible
    repeat' first
      | assumption | apply State.modPdie_steady

theorem splitEnergy_steady {s0 s : State} (hS : Steady s0 s) (c : CoreId) (uj : Nat)
    : Steady s0 (splitEnergy s c uj) := by
  unfold splitEnergy
  with_reducible
    repeat' first
      | assumption | apply State.draw_steady | apply addEnergy_steady | apply State.modCore_steady | intro _
      | apply Steady.foldl | apply Steady.foldlFst

theorem countEnergy_steady {s0 s : State} (hS : Steady s0 s) (d : DieId) (cores : List Nat) (rest : Nat)
    : Steady s0 (countEnergy s d cores rest) := by
  unfold countEnergy
  with_reducible
    repeat' first
      | assumption | apply State.each_steady | apply splitEnergy_steady | apply addEnergy_steady | intro _ | split

theorem askVoltage_steady {s0 s : State} (hS : Steady s0 s) (d : DieId) (mv : Nat) :
    Steady s0 (askVoltage s d mv) := by
  unfold askVoltage
  with_reducible
    repeat' first
      | assumption | apply State.emit_steady | apply State.modPdie_steady

theorem planVoltage_steady {s0 s : State} (hS : Steady s0 s) (d : DieId) (soon : Bool) :
    Steady s0 (planVoltage s d soon) := by
  unfold planVoltage
  with_reducible
    repeat' first
      | assumption | apply askVoltage_steady | split | dsimp only

theorem stackLimit_steady {s0 s : State} (hS : Steady s0 s) (d : DieId) (mw : Nat) :
    Steady s0 (stackLimit s d mw) := by
  unfold stackLimit
  with_reducible
    repeat' first
      | assumption | apply State.modPdie_steady | apply setLevelOn_steady

theorem execControllerStep_steady {s0 s : State} (hS : Steady s0 s) (die : DieId) (dieMw : Nat) (stackMw : Nat)
    (cores : List Nat) (rest : Nat) (soon : Bool) :
    SteadyR s0 (execControllerStep die dieMw stackMw cores rest soon s) := by
  unfold execControllerStep
  with_reducible
    repeat' first
      | assumption | apply Steady.next | apply State.setObj_steady | apply stackLimit_steady
      | apply countEnergy_steady | apply applyBudget_steady | apply refreshClocks_steady | apply planVoltage_steady

theorem budgetLimit_steady {s0 s : State} (hS : Steady s0 s) (mw : Nat) : Steady s0 (budgetLimit s mw) := by
  unfold budgetLimit
  with_reducible
    repeat' first
      | assumption | apply State.when_steady | apply State.draw_steady | apply setLevel_steady
      | apply State.bump_steady | intro _ | split | dsimp only | apply Steady.mk'

theorem setShares_steady {s0 s : State} (hS : Steady s0 s) : Steady s0 (setShares s) := by
  unfold setShares
  with_reducible
    repeat' first
      | assumption | apply State.each_steady | apply State.draw_steady | apply State.setObj_steady | intro _

theorem execPackageStep_steady {s0 s : State} (hS : Steady s0 s) (mw : Nat) (mj : Nat) :
    SteadyR s0 (execPackageStep mw mj s) := by
  unfold execPackageStep
  with_reducible
    repeat' first
      | assumption | apply Steady.next | apply State.when_steady | apply State.bumpBy_steady
      | apply State.setObj_steady | apply refreshAllClocks_steady | apply budgetLimit_steady | apply setShares_steady
      | apply applyBudget_steady | intro _

theorem execAvsbusCommandDone_steady {s0 s : State} (hS : Steady s0 s) (die : DieId) (ok : Bool) (status : BitVec
    32) :
    SteadyR s0 (execAvsbusCommandDone die ok status s) := by
  unfold execAvsbusCommandDone
  with_reducible
    repeat' first
      | assumption | apply Steady.next | apply refreshClocks_steady | apply State.modPdie_steady
      | apply State.emit_steady | apply State.bump_steady | apply raiseOn_steady | split

theorem execDroopDetect_steady {s0 s : State} (hS : Steady s0 s) (die : DieId) :
    SteadyR s0 (execDroopDetect die s) := by
  unfold execDroopDetect
  with_reducible
    repeat' first
      | assumption | apply Steady.next | apply State.when_steady | apply State.modPdie_steady
      | apply State.bump_steady | apply raiseOn_steady | intro _

theorem groupClocks_steady {s0 s : State} (hS : Steady s0 s) (g : Fin 20) : Steady s0 (groupClocks s g) := by
  unfold groupClocks
  with_reducible
    repeat' first
      | assumption | apply State.when_steady | apply refreshClocks_steady | intro _

theorem execVrAlertFall_steady {s0 s : State} (hS : Steady s0 s) (group : Fin 20) :
    SteadyR s0 (execVrAlertFall group s) := by
  unfold execVrAlertFall
  with_reducible
    repeat' first
      | assumption | apply Steady.next | apply State.when_steady | apply State.modGroup_steady
      | apply groupClocks_steady | apply State.bump_steady | intro _ | split

theorem execVrAlertRise_steady {s0 s : State} (hS : Steady s0 s) (group : Fin 20) :
    SteadyR s0 (execVrAlertRise group s) := by
  unfold execVrAlertRise
  with_reducible
    repeat' first
      | assumption | apply Steady.next | apply State.modGroup_steady

theorem execVrAlertHoldEnd_steady {s0 s : State} (hS : Steady s0 s) (group : Fin 20) :
    SteadyR s0 (execVrAlertHoldEnd group s) := by
  unfold execVrAlertHoldEnd
  with_reducible
    repeat' first
      | assumption | apply Steady.next | apply State.modGroup_steady

theorem reportDip_steady {s0 s : State} (hS : Steady s0 s) (g : Fin 20) : Steady s0 (reportDip s g) := by
  unfold reportDip
  with_reducible
    repeat' first
      | assumption | apply raiseOn_steady | apply State.bump_steady

theorem execBrownoutDip_steady {s0 s : State} (hS : Steady s0 s) (group : Fin 20) (mv : Nat) :
    SteadyR s0 (execBrownoutDip group mv s) := by
  unfold execBrownoutDip
  with_reducible
    repeat' first
      | assumption | apply Steady.next | apply State.when_steady | apply State.modGroup_steady
      | apply reportDip_steady | apply groupClocks_steady | intro _ | split

theorem execRailAboveWarningLevel_steady {s0 s : State} (hS : Steady s0 s) (group : Fin 20) (mv : Nat) (us : Nat) :
    SteadyR s0 (execRailAboveWarningLevel group mv us s) := by
  unfold execRailAboveWarningLevel
  with_reducible
    repeat' first
      | assumption | apply Steady.next | apply State.modGroup_steady

theorem execBrownoutHoldEnd_steady {s0 s : State} (hS : Steady s0 s) (group : Fin 20) :
    SteadyR s0 (execBrownoutHoldEnd group s) := by
  unfold execBrownoutHoldEnd
  with_reducible
    repeat' first
      | assumption | apply Steady.next | apply State.modGroup_steady | apply reportDip_steady | split

theorem thermalStop_steady {s0 s : State} (hS : Steady s0 s) (d : DieId) (sensor : Nat) (reading : Int) :
    Steady s0 (thermalStop s d sensor reading) := by
  unfold thermalStop
  with_reducible
    repeat' first
      | assumption | apply stopRequest_steady | apply raise_steady | apply stopImage_steady | intro _
      | apply Steady.mk'

theorem checkCritical_steady {s0 s : State} (hS : Steady s0 s) (d : DieId) : Steady s0 (checkCritical s d) := by
  unfold checkCritical
  with_reducible
    repeat' first
      | assumption | apply State.when_steady | apply State.modPdie_steady | apply thermalStop_steady | intro _

theorem execSensorRead_steady {s0 s : State} (hS : Steady s0 s) (die : DieId) (readings : List Int) (stack :
    Option (Int × Bool)) :
    SteadyR s0 (execSensorRead die readings stack s) := by
  unfold execSensorRead
  with_reducible
    repeat' first
      | assumption | apply Steady.next | apply State.modPdie_steady | apply setLevelOn_steady
      | apply State.setObj_steady | apply checkCritical_steady | split

theorem reportSensor_steady {s0 s : State} (hS : Steady s0 s) (d : DieId) (p : (Sensor × Sensor) × Nat) :
    Steady s0 (reportSensor d s p) := by
  unfold reportSensor
  with_reducible
    repeat' first
      | assumption | apply raiseOn_steady | apply State.bump_steady | apply State.setObj_steady | split | dsimp only

theorem execSensorCheck_steady {s0 s : State} (hS : Steady s0 s) (die : DieId) (estimates : List Int) :
    SteadyR s0 (execSensorCheck die estimates s) := by
  unfold execSensorCheck
  with_reducible
    repeat' first
      | assumption | apply Steady.next | apply State.modPdie_steady | apply reportSensor_steady | intro _
      | apply Steady.foldl

theorem execThermalThrottleStep_steady {s0 s : State} (hS : Steady s0 s) (die : DieId) :
    SteadyR s0 (execThermalThrottleStep die s) := by
  unfold execThermalThrottleStep
  with_reducible
    repeat' first
      | assumption | apply Steady.next | apply State.when_steady | apply State.modPdie_steady
      | apply State.bump_steady | apply setLevelOn_steady | apply refreshClocks_steady | intro _

theorem State.modRemote_steady {s0 s : State} (hS : Steady s0 s) (n : Fin 8) (f : Remote → Remote) :
    Steady s0 (State.modRemote s n f) := by
  unfold State.modRemote
  with_reducible
    repeat' first
      | assumption | intro _ | apply Steady.mk'

theorem remoteFault_steady {s0 s : State} (hS : Steady s0 s) (n : Fin 8) (kind : Nat) :
    Steady s0 (remoteFault s n kind) := by
  unfold remoteFault
  with_reducible
    repeat' first
      | assumption | apply raise_steady | apply State.bump_steady | apply State.setObj_steady

theorem remoteReading_steady {s0 s : State} (hS : Steady s0 s) (n : Fin 8) (t : Int) :
    Steady s0 (remoteReading s n t) := by
  unfold remoteReading
  with_reducible
    repeat' first
      | assumption | apply State.when_steady | apply State.modRemote_steady | apply State.setObj_steady
      | apply setLevel_steady | apply raise_steady | apply thermalStop_steady | intro _

theorem execRemoteConversion_steady {s0 s : State} (hS : Steady s0 s) (channel : Fin 8) (result : RemoteResult) :
    SteadyR s0 (execRemoteConversion channel result s) := by
  unfold execRemoteConversion
  with_reducible
    repeat' first
      | assumption | apply Steady.next | apply State.when_steady | apply State.modRemote_steady
      | apply State.setObj_steady | apply setLevel_steady | apply remoteReading_steady | apply remoteFault_steady
      | intro _ | split

theorem portsDown_steady {s0 s : State} (hS : Steady s0 s) : Steady s0 (portsDown s) := by
  unfold portsDown
  with_reducible
    repeat' first
      | assumption | apply State.each_steady | apply State.modPort_steady | intro _

theorem endWork_steady {s0 s : State} (hS : Steady s0 s) : Steady s0 (endWork s) := by
  unfold endWork
  with_reducible
    repeat' first
      | assumption | intro _ | apply Steady.mk'

theorem execThermalTrip_steady {s0 s : State} (hS : Steady s0 s) (die : DieId) (reading : Int) :
    SteadyR s0 (execThermalTrip die reading s) := by
  unfold execThermalTrip
  with_reducible
    repeat' first
      | assumption | apply Steady.next | apply raiseOn_steady | apply State.emit_steady | apply portsDown_steady
      | apply endWork_steady | intro _ | split | apply Steady.mk'

theorem writeHealth_steady {s0 s : State} (hS : Steady s0 s) : Steady s0 (writeHealth s) := by
  unfold writeHealth
  with_reducible
    repeat' first
      | assumption | intro _ | apply Steady.mk'

theorem replan_steady {s0 s : State} (hS : Steady s0 s) (growth : List Nat) : Steady s0 (replan s growth) := by
  unfold replan
  with_reducible
    repeat' first
      | assumption | apply State.each_steady | apply State.setObj_steady | apply writeHealth_steady
      | apply raiseOn_steady | intro _ | apply Steady.mk'

theorem execAgeingReplan_steady {s0 s : State} (hS : Steady s0 s) (growth : List Nat) :
    SteadyR s0 (execAgeingReplan growth s) := by
  unfold execAgeingReplan
  with_reducible
    repeat' first
      | assumption | apply Steady.next | apply replan_steady

/-! ## Machine/Images.lean -/

theorem setVerdict_steady {s0 s : State} (hS : Steady s0 s) (v : Verdict) : Steady s0 (setVerdict s v) := by
  unfold setVerdict
  with_reducible
    repeat' first
      | assumption | apply State.setObj_steady

theorem demoteDie_steady {s0 s : State} (hS : Steady s0 s) (d : DieId) : Steady s0 (demoteDie s d) := by
  unfold demoteDie
  with_reducible
    repeat' first
      | assumption | apply State.modDie_steady

theorem placeSegs_steady {s0 s : State} (hS : Steady s0 s) (img : Image) (bs : List Byte) :
    Steady s0 (placeSegs s img bs) := by
  unfold placeSegs
  with_reducible
    repeat' first
      | assumption | apply State.each_steady | apply memStore_steady | apply scratchStore_steady | intro _ | split

theorem loadImage_steady {s0 s : State} (hS : Steady s0 s) (bs : List Byte) : Steady s0 (loadImage s bs) := by
  unfold loadImage
  with_reducible
    repeat' first
      | assumption | apply placeSegs_steady | apply clearPhases_steady | apply State.each_steady
      | apply demoteDie_steady | apply State.modCore_steady | intro _ | split | dsimp only | apply Steady.mk'

theorem armImage_steady {s0 s : State} (hS : Steady s0 s) (tick : Nat) (step : Nat)
    : Steady s0 (armImage s tick step) := by
  unfold armImage
  with_reducible
    repeat' first
      | assumption | apply State.when_steady | apply State.setObj_steady | apply State.each_steady
      | apply State.modCore_steady | intro _ | split | dsimp only | apply Steady.mk'

theorem resumeImage_steady {s0 s : State} (hS : Steady s0 s) (tick : Nat) : Steady s0 (resumeImage s tick) := by
  unfold resumeImage
  with_reducible
    repeat' first
      | assumption | apply State.each_steady | apply State.when_steady | apply State.modCore_steady
      | apply refreshAllClocks_steady | apply setDeviceState_steady | intro _ | apply Steady.mk'

theorem unloadImage_steady {s0 s : State} (hS : Steady s0 s) : Steady s0 (unloadImage s) := by
  unfold unloadImage
  with_reducible
    repeat' first
      | assumption | apply State.each_steady | apply State.modDie_steady | apply State.modCore_steady
      | apply refreshAllClocks_steady | apply clearFloors_steady | apply State.when_steady
      | apply setDeviceState_steady | intro _ | split | dsimp only | apply Steady.mk'

/-! ## Machine/Host.lean -/

theorem modQueue_steady {s0 s : State} (hS : Steady s0 s) (q : Fin 64) (f : HostQueue → HostQueue) :
    Steady s0 (modQueue s q f) := by
  unfold modQueue
  with_reducible
    repeat' first
      | assumption | intro _ | apply Steady.mk'

theorem complete_steady {s0 s : State} (hS : Steady s0 s) (q : Fin 64) (status : Nat) (a : Nat) (b : Nat) (c :
    Nat) :
    Steady s0 (complete s q status a b c) := by
  unfold complete
  with_reducible
    repeat' first
      | assumption | apply State.when_steady | apply State.emit_steady | apply modQueue_steady
      | apply State.bump_steady | apply signalVector_steady | intro _ | split | dsimp only | apply Steady.mk'

theorem completePlain_steady {s0 s : State} (hS : Steady s0 s) (q : Fin 64) (status : Nat) :
    Steady s0 (completePlain s q status) := by
  unfold completePlain
  with_reducible
    repeat' first
      | assumption | apply State.draw_steady | apply complete_steady

theorem completeVerdict_steady {s0 s : State} (hS : Steady s0 s) (q : Fin 64) (v : Verdict) :
    Steady s0 (completeVerdict s q v) := by
  unfold completeVerdict
  with_reducible
    repeat' first
      | assumption | apply State.draw_steady | apply complete_steady | apply setVerdict_steady

theorem queueError_steady {s0 s : State} (hS : Steady s0 s) (q : Fin 64) (cause : Nat) :
    Steady s0 (queueError s q cause) := by
  unfold queueError
  with_reducible
    repeat' first
      | assumption | apply raise_steady | apply modQueue_steady | split

theorem execCommandFetch_steady {s0 s : State} (hS : Steady s0 s) (bytes : Option (List Byte)) :
    SteadyR s0 (execCommandFetch bytes s) := by
  unfold execCommandFetch
  with_reducible
    repeat' first
      | assumption | apply Steady.next | apply queueError_steady | apply modQueue_steady | apply completePlain_steady
      | intro _ | split | dsimp only | apply Steady.mk'

theorem markStarted_steady {s0 s : State} (hS : Steady s0 s) (q : Fin 64) (chunks : List Nat) :
    Steady s0 (markStarted s q chunks) := by
  unfold markStarted
  with_reducible
    repeat' first
      | assumption | apply modQueue_steady

theorem execNop_steady {s0 s : State} (hS : Steady s0 s) (queue : Fin 64) : SteadyR s0 (execNop queue s) := by
  unfold execNop
  with_reducible
    repeat' first
      | assumption | apply Steady.next | apply completePlain_steady | split

theorem startCopy_steady {s0 s : State} (hS : Steady s0 s) (q : Fin 64) (toDevice : Bool) :
    Steady s0 (startCopy s q toDevice) := by
  unfold startCopy
  with_reducible
    repeat' first
      | assumption | apply completePlain_steady | apply markStarted_steady | split

theorem execCopyToDevice_steady {s0 s : State} (hS : Steady s0 s) (queue : Fin 64) :
    SteadyR s0 (execCopyToDevice queue s) := by
  unfold execCopyToDevice
  with_reducible
    repeat' first
      | assumption | apply Steady.next | apply startCopy_steady

theorem execCopyFromDevice_steady {s0 s : State} (hS : Steady s0 s) (queue : Fin 64) :
    SteadyR s0 (execCopyFromDevice queue s) := by
  unfold execCopyFromDevice
  with_reducible
    repeat' first
      | assumption | apply Steady.next | apply startCopy_steady

theorem hostWrites_steady {s0 s : State} (hS : Steady s0 s) (a : Nat) (bs : List Byte) (bad : Nat) :
    Steady s0 (hostWrites s a bs bad) := by
  unfold hostWrites
  with_reducible
    repeat' first
      | assumption | apply State.emit_steady | intro _ | apply Steady.foldlFst

theorem poisonChunk_steady {s0 s : State} (hS : Steady s0 s) (c : HostCmd) (j : Nat)
    : Steady s0 (poisonChunk s c j) := by
  unfold poisonChunk
  with_reducible
    repeat' first
      | assumption | apply poisonMem_steady

theorem finishCopy_steady {s0 s : State} (hS : Steady s0 s) (q : Fin 64) (c : HostCmd) (codes : List Nat) (status
    : Nat) :
    Steady s0 (finishCopy s q c codes status) := by
  unfold finishCopy
  with_reducible
    repeat' first
      | assumption | apply State.when_steady | apply State.emit_steady | apply raise_steady | apply complete_steady
      | intro _

theorem copyDrop_steady {s0 s : State} (hS : Steady s0 s) (q : Fin 64) (c : HostCmd) (keep : Nat) :
    Steady s0 (copyDrop s q c keep) := by
  unfold copyDrop
  with_reducible
    repeat' first
      | assumption | apply State.each_steady | apply State.when_steady | apply poisonChunk_steady
      | apply modQueue_steady | intro _

theorem copyIn_steady {s0 s : State} (hS : Steady s0 s) (c : HostCmd) (j : Nat) (data : Option (List Byte)) (how :
    MemOutcome) :
    Steady s0 (copyIn s c j data how).2 := by
  unfold copyIn
  with_reducible
    repeat' first
      | assumption | apply poisonChunk_steady | apply lastingError_steady | apply memStore_steady | split | dsimp only

theorem copyOut_steady {s0 s : State} (hS : Steady s0 s) (c : HostCmd) (j : Nat) (how : MemOutcome) :
    Steady s0 (copyOut s c j how).2 := by
  unfold copyOut
  with_reducible
    repeat' first
      | assumption | apply memLoad_steady | apply hostWrites_steady | split | dsimp only

theorem execCopyChunkDone_steady {s0 s : State} (hS : Steady s0 s) (queue : Fin 64) (slot : Fin 4)
    (data : Option (List Byte)) (retried : Bool) (how : MemOutcome) (inFlight : Fin 4)
    : SteadyR s0 (execCopyChunkDone queue slot data retried how inFlight s) := by
  unfold execCopyChunkDone
  with_reducible
    repeat' first
      | assumption | apply Steady.next | apply copyIn_steady | apply copyOut_steady | apply modQueue_steady
      | apply State.bumpBy_steady | apply State.when_steady | apply copyDrop_steady | apply finishCopy_steady
      | intro _ | split | dsimp only

theorem execLoadImage_steady {s0 s : State} (hS : Steady s0 s) (queue : Fin 64) (bytes : Option (List Byte)) :
    SteadyR s0 (execLoadImage queue bytes s) := by
  unfold execLoadImage
  with_reducible
    repeat' first
      | assumption | apply Steady.next | apply State.when_steady | apply completePlain_steady
      | apply completeVerdict_steady | apply raise_steady | apply loadImage_steady | intro _ | split

theorem execStart_steady {s0 s : State} (hS : Steady s0 s) (queue : Fin 64) : SteadyR s0 (execStart queue s) := by
  unfold execStart
  with_reducible
    repeat' first
      | assumption | apply Steady.next | apply State.when_steady | apply completePlain_steady
      | apply completeVerdict_steady | apply armImage_steady | intro _ | split

theorem stopNow_steady {s0 s : State} (hS : Steady s0 s) : Steady s0 (stopNow s) := by
  unfold stopNow
  with_reducible
    repeat' first
      | assumption | apply stopRequest_steady | apply stopImage_steady | split

theorem execStop_steady {s0 s : State} (hS : Steady s0 s) (queue : Fin 64) : SteadyR s0 (execStop queue s) := by
  unfold execStop
  with_reducible
    repeat' first
      | assumption | apply Steady.next | apply completePlain_steady | apply stopNow_steady | apply markStarted_steady
      | split

theorem execStopCommandComplete_steady {s0 s : State} (hS : Steady s0 s) (queue : Fin 64) :
    SteadyR s0 (execStopCommandComplete queue s) := by
  unfold execStopCommandComplete
  with_reducible
    repeat' first
      | assumption | apply Steady.next | apply State.draw_steady | apply complete_steady | split

theorem execResume_steady {s0 s : State} (hS : Steady s0 s) (queue : Fin 64) : SteadyR s0 (execResume queue s) := by
  unfold execResume
  with_reducible
    repeat' first
      | assumption | apply Steady.next | apply completePlain_steady | apply resumeImage_steady | split

theorem execUnload_steady {s0 s : State} (hS : Steady s0 s) (queue : Fin 64) : SteadyR s0 (execUnload queue s) := by
  unfold execUnload
  with_reducible
    repeat' first
      | assumption | apply Steady.next | apply completePlain_steady | apply unloadImage_steady | split

theorem doorbell_steady {s0 s : State} (hS : Steady s0 s) (en : Bool) (good : Bool) (ep : Bool) (f : State →
    State) (hF : ∀ x0, Steady s0 x0 → Steady s0 (f x0)) :
    Steady s0 (doorbell s en good ep f) := by
  unfold doorbell
  with_reducible
    repeat' first
      | assumption | apply State.emit_steady | apply State.bump_steady | apply hF | split

theorem execSqTailWrite_steady {s0 s : State} (hS : Steady s0 s) (queue : Fin 64) (value : BitVec 32) (good :
    Bool) (ep : Bool) :
    SteadyR s0 (execSqTailWrite queue value good ep s) := by
  unfold execSqTailWrite
  with_reducible
    repeat' first
      | assumption | apply Steady.next | apply doorbell_steady | apply queueError_steady | apply modQueue_steady
      | intro _ | split

theorem execCqHeadWrite_steady {s0 s : State} (hS : Steady s0 s) (queue : Fin 64) (value : BitVec 32) (good :
    Bool) (ep : Bool) :
    SteadyR s0 (execCqHeadWrite queue value good ep s) := by
  unfold execCqHeadWrite
  with_reducible
    repeat' first
      | assumption | apply Steady.next | apply doorbell_steady | apply queueError_steady | apply modQueue_steady
      | intro _ | split

theorem execEvrHeadWrite_steady {s0 s : State} (hS : Steady s0 s) (ring : Fin 8) (value : BitVec 32) (good : Bool)
    (ep : Bool) : SteadyR s0 (execEvrHeadWrite ring value good ep s) := by
  unfold execEvrHeadWrite
  with_reducible
    repeat' first
      | assumption | apply Steady.next | apply doorbell_steady | intro _ | split | dsimp only | apply Steady.mk'

theorem writeQCtrl_steady {s0 s : State} (hS : Steady s0 s) (q : Fin 64) (v : Nat) :
    Steady s0 (writeQCtrl s q v) := by
  unfold writeQCtrl
  with_reducible
    repeat' first
      | assumption | apply modQueue_steady

theorem writeRingCtrl_steady {s0 s : State} (hS : Steady s0 s) (r : Fin 8) (v : Nat)
    : Steady s0 (writeRingCtrl s r v) := by
  unfold writeRingCtrl
  with_reducible
    repeat' first
      | assumption | intro _ | split | dsimp only | apply Steady.mk'

theorem execQueueEnable_steady {s0 s : State} (hS : Steady s0 s) (queue : Fin 64) (value : BitVec 64) :
    SteadyR s0 (execQueueEnable queue value s) := by
  unfold execQueueEnable
  with_reducible
    repeat' first
      | assumption | apply Steady.next | apply writeQCtrl_steady

theorem execQueueDisable_steady {s0 s : State} (hS : Steady s0 s) (queue : Fin 64) (value : BitVec 64) :
    SteadyR s0 (execQueueDisable queue value s) := by
  unfold execQueueDisable
  with_reducible
    repeat' first
      | assumption | apply Steady.next | apply writeQCtrl_steady

theorem execEventRingEnable_steady {s0 s : State} (hS : Steady s0 s) (ring : Fin 8) (value : BitVec 64) :
    SteadyR s0 (execEventRingEnable ring value s) := by
  unfold execEventRingEnable
  with_reducible
    repeat' first
      | assumption | apply Steady.next | apply writeRingCtrl_steady

theorem execEventRingDisable_steady {s0 s : State} (hS : Steady s0 s) (ring : Fin 8) (value : BitVec 64) :
    SteadyR s0 (execEventRingDisable ring value s) := by
  unfold execEventRingDisable
  with_reducible
    repeat' first
      | assumption | apply Steady.next | apply writeRingCtrl_steady

theorem writeWinBase_steady {s0 s : State} (hS : Steady s0 s) (v : Nat) : Steady s0 (writeWinBase s v) := by
  unfold writeWinBase
  with_reducible
    repeat' first
      | assumption | intro _ | split | dsimp only | apply Steady.mk'

theorem execWinBaseWrite_steady {s0 s : State} (hS : Steady s0 s) (value : BitVec 64) :
    SteadyR s0 (execWinBaseWrite value s) := by
  unfold execWinBaseWrite
  with_reducible
    repeat' first
      | assumption | apply Steady.next | apply writeWinBase_steady

theorem bar2Read_steady {s0 s : State} (hS : Steady s0 s) (offset : Nat) (n : Nat) (how : MemOutcome)
    : Steady s0 (bar2Read s offset n how) := by
  unfold bar2Read
  with_reducible
    repeat' first
      | assumption | apply State.emit_steady | apply memLoad_steady | apply State.when_steady | intro _
      | apply Steady.foldl | apply Steady.foldlFst | apply Steady.foldlSnd | apply Steady.foldlSnd2
      | apply Steady.foldlLoad | apply Steady.foldlSeg | apply Steady.foldlImport | apply Steady.foldlSnd3 | split
      | dsimp only

theorem execBar2Read_steady {s0 s : State} (hS : Steady s0 s) (offset : BitVec 41) (len : Nat) (how : MemOutcome) :
    SteadyR s0 (execBar2Read offset len how s) := by
  unfold execBar2Read
  with_reducible
    repeat' first
      | assumption | apply Steady.next | apply bar2Read_steady

theorem bar2Write_steady {s0 s : State} (hS : Steady s0 s) (offset : Nat) (bs : List Byte) (ep : Bool)
    : Steady s0 (bar2Write s offset bs ep) := by
  unfold bar2Write
  with_reducible
    repeat' first
      | assumption | apply State.emit_steady | apply raise_steady | apply State.each_steady | apply poisonMem_steady
      | apply memStore_steady | intro _ | split | dsimp only

theorem execBar2Write_steady {s0 s : State} (hS : Steady s0 s) (offset : BitVec 41) (bytes : List Byte) (ep :
    Bool) (atomic : Bool) :
    SteadyR s0 (execBar2Write offset bytes ep atomic s) := by
  unfold execBar2Write
  with_reducible
    repeat' first
      | assumption | apply Steady.next | apply State.emit_steady | apply bar2Write_steady | split

theorem execBar0BadAccess_steady {s0 s : State} (hS : Steady s0 s) (write : Bool) :
    SteadyR s0 (execBar0BadAccess write s) := by
  unfold execBar0BadAccess
  with_reducible
    repeat' first
      | assumption | apply Steady.next | apply State.emit_steady | split

theorem signalPending_steady {s0 s : State} (hS : Steady s0 s) (fn : Nat) (vec : Nat)
    : Steady s0 (signalPending s fn vec) := by
  unfold signalPending
  with_reducible
    repeat' first
      | assumption | apply signalVector_steady | intro _ | split | dsimp only | apply Steady.mk'

theorem unmaskVector_steady {s0 s : State} (hS : Steady s0 s) (fn : Nat) (vec : Nat)
    : Steady s0 (unmaskVector s fn vec) := by
  unfold unmaskVector
  with_reducible
    repeat' first
      | assumption | apply signalPending_steady | intro _ | split | dsimp only | apply Steady.mk'

theorem writeMsixControl_steady {s0 s : State} (hS : Steady s0 s) (fn : Fin 2) (en : Bool) (mask : Bool)
    : Steady s0 (writeMsixControl s fn en mask) := by
  unfold writeMsixControl
  with_reducible
    repeat' first
      | assumption | apply State.when_steady | apply State.each_steady | apply signalPending_steady | intro _ | split
      | dsimp only | apply Steady.mk'

theorem execMsixUnmask_steady {s0 s : State} (hS : Steady s0 s) (fn : Fin 2) (what : MsixWrite)
    : SteadyR s0 (execMsixUnmask fn what s) := by
  unfold execMsixUnmask
  with_reducible
    repeat' first
      | assumption | apply Steady.next | apply unmaskVector_steady | apply writeMsixControl_steady | intro _ | split

theorem abortCmd_steady {s0 s : State} (hS : Steady s0 s) (q : Fin 64) : Steady s0 (abortCmd s q) := by
  unfold abortCmd
  with_reducible
    repeat' first
      | assumption | apply copyDrop_steady | apply completePlain_steady | intro _ | split

theorem abortCmds_steady {s0 s : State} (hS : Steady s0 s) : Steady s0 (abortCmds s) := by
  unfold abortCmds
  with_reducible
    repeat' first
      | assumption | apply State.each_steady | apply abortCmd_steady | intro _ | apply Steady.mk'

theorem disableHost_steady {s0 s : State} (hS : Steady s0 s) : Steady s0 (disableHost s) := by
  unfold disableHost
  with_reducible
    repeat' first
      | assumption | intro _ | split | dsimp only | apply Steady.mk'

theorem resizeBar2_steady {s0 s : State} (hS : Steady s0 s) (log2 : Nat) : Steady s0 (resizeBar2 s log2) := by
  unfold resizeBar2
  with_reducible
    repeat' first
      | assumption | intro _ | split | dsimp only | apply Steady.mk'

/-! ## Machine/Shards.lean -/

theorem hostLoad_steady {s0 s : State} (hS : Steady s0 s) (a : Nat) (n : Nat) : Steady s0 (hostLoad s a n).2 := by
  unfold hostLoad
  with_reducible
    repeat' first
      | assumption | apply memLoad_steady

theorem hostTable_steady {s0 s : State} (hS : Steady s0 s) (a : Nat) : Steady s0 (hostTable s a).2.2 := by
  unfold hostTable
  with_reducible
    repeat' first
      | assumption | apply hostLoad_steady

theorem completeShard_steady {s0 s : State} (hS : Steady s0 s) (q : Fin 64) (status : Nat) (outcome : Nat) (count
    : Nat) (b : Nat) :
    Steady s0 (completeShard s q status outcome count b) := by
  unfold completeShard
  with_reducible
    repeat' first
      | assumption | apply State.draw_steady | apply complete_steady

theorem loadPayload_steady {s0 s : State} (hS : Steady s0 s) (parts : List (Nat × Nat)) :
    Steady s0 (loadPayload s parts).2.2 := by
  unfold loadPayload
  with_reducible
    repeat' first
      | assumption | apply hostLoad_steady | intro _ | apply Steady.foldlSnd2

theorem exportRecord_steady {s0 s : State} (hS : Steady s0 s) (j : ExportJob) (t : Shard) (k : Nat) :
    Steady s0 (exportRecord s j t k).2.2 := by
  unfold exportRecord
  with_reducible
    repeat' first
      | assumption | apply loadPayload_steady

theorem commitScale_steady {s0 s : State} (hS : Steady s0 s) (step : Nat) : Steady s0 (commitScale s step).2.2 := by
  unfold commitScale
  with_reducible
    repeat' first
      | assumption | apply State.draw_steady | intro _ | split | dsimp only

theorem execExportShard_steady {s0 s : State} (hS : Steady s0 s) (queue : Fin 64)
    : SteadyR s0 (execExportShard queue s) := by
  unfold execExportShard
  with_reducible
    repeat' first
      | assumption | apply Steady.next | apply completePlain_steady | apply hostTable_steady
      | apply completeShard_steady | apply commitScale_steady | apply markStarted_steady | intro _ | split
      | dsimp only | apply Steady.mk'

theorem finishExport_steady {s0 s : State} (hS : Steady s0 s) (j : ExportJob) (outcome : Nat) (short : Bool) :
    Steady s0 (finishExport s j outcome short) := by
  unfold finishExport
  with_reducible
    repeat' first
      | assumption | apply completeShard_steady | intro _ | apply Steady.mk'

theorem execExportRecordDone_steady {s0 s : State} (hS : Steady s0 s) : SteadyR s0 (execExportRecordDone s) := by
  unfold execExportRecordDone
  with_reducible
    repeat' first
      | assumption | apply Steady.next | apply finishExport_steady | apply State.bump_steady
      | apply exportRecord_steady | apply State.emit_steady | intro _ | split | dsimp only | apply Steady.mk'

theorem flushImport_steady {s0 s : State} (hS : Steady s0 s) (m : Kv (Option Byte))
    : Steady s0 (flushImport s m) := by
  unfold flushImport
  with_reducible
    repeat' first
      | assumption | apply State.each_steady | apply memStore_steady | intro _

theorem importHead_steady {s0 s : State} (hS : Steady s0 s) (commit : Nat) (b : List Byte)
    : Steady s0 (importHead s commit b) := by
  unfold importHead
  with_reducible
    repeat' first
      | assumption | apply memStore_steady | apply State.setObj_steady | intro _ | apply Steady.foldl
      | apply Steady.foldlFst | apply Steady.foldlSnd | apply Steady.foldlSnd2 | apply Steady.foldlLoad
      | apply Steady.foldlSeg | apply Steady.foldlImport | apply Steady.foldlSnd3 | split | dsimp only
      | apply Steady.mk'

theorem importRecord_steady {s0 : State} {r : ImportRun} (hS : Steady s0 r.s) (t : Shard) (commit : Nat)
    (b : List Byte) : Steady s0 (importRecord t commit r b).s := by
  unfold importRecord
  with_reducible
    repeat' first
      | assumption | apply importHead_steady | apply memStore_steady | apply State.bump_steady | intro _
      | apply Steady.foldl | apply Steady.foldlFst | apply Steady.foldlSnd | apply Steady.foldlSnd2
      | apply Steady.foldlLoad | apply Steady.foldlSeg | apply Steady.foldlImport | apply Steady.foldlSnd3 | split

theorem importGauge_steady {s0 s : State} (hS : Steady s0 s) (t : Shard) (commit : Nat) :
    Steady s0 (importGauge s t commit) := by
  unfold importGauge
  with_reducible
    repeat' first
      | assumption | apply hostLoad_steady | apply memStore_steady

theorem execImportShard_steady {s0 s : State} (hS : Steady s0 s) (queue : Fin 64) (bytes : Option (List Byte))
    : SteadyR s0 (execImportShard queue bytes s) := by
  unfold execImportShard
  with_reducible
    repeat' first
      | assumption | apply Steady.next | apply completePlain_steady | apply completeShard_steady
      | apply hostTable_steady | apply State.when_steady | apply raise_steady | apply importRecord_steady
      | apply importGauge_steady | apply flushImport_steady | intro _ | apply Steady.foldl | apply Steady.foldlFst
      | apply Steady.foldlSnd | apply Steady.foldlSnd2 | apply Steady.foldlLoad | apply Steady.foldlSeg
      | apply Steady.foldlImport | apply Steady.foldlSnd3 | split | dsimp only

end Sys2Proof.Machine
end

