-- ==== Sys2Proof/Laws/SteadyManage.lean ====
section
/-!
SUPPORT. Laws/SteadyManage.lean: that the events, regions, resets, references, the dictionary, attestation and registers leave the waiting
commands alone and keep memory and the scratchpads in canonical form. One lemma per operation and per meaning:
from a state that is steady against an earlier one, its effect is too.
-/
namespace Sys2Proof.Machine

/-! ## Machine/Irqs.lean -/

theorem execSourceAssert_steady {s0 s : State} (hS : Steady s0 s) (source : BitVec 12) (d0 : BitVec 64) (d1 :
    BitVec 32) :
    SteadyR s0 (execSourceAssert source d0 d1 s) := by
  unfold execSourceAssert
  with_reducible
    repeat' first
      | assumption | apply Steady.next | apply setLevel_steady | apply raise_steady | split

theorem execStormWindowEnd_steady {s0 s : State} (hS : Steady s0 s) : SteadyR s0 (execStormWindowEnd s) := by
  unfold execStormWindowEnd
  with_reducible
    repeat' first
      | assumption | apply Steady.next | apply State.each_steady | apply State.setSrc_steady | intro _

theorem execExtInputFilterChange_steady {s0 s : State} (hS : Steady s0 s) (input : Fin 21) :
    SteadyR s0 (execExtInputFilterChange input s) := by
  unfold execExtInputFilterChange
  with_reducible
    repeat' first
      | assumption | apply Steady.next | apply setLevel_steady | intro _ | split | apply Steady.mk'

theorem execExtInputGlitch_steady {s0 s : State} (hS : Steady s0 s) (_input : Fin 21) :
    SteadyR s0 (execExtInputGlitch _input s) := by
  unfold execExtInputGlitch
  with_reducible
    repeat' first
      | assumption | apply Steady.next | apply State.bump_steady

theorem releaseSource_steady {s0 s : State} (hS : Steady s0 s) (n : Nat) : Steady s0 (releaseSource s n) := by
  unfold releaseSource
  with_reducible
    repeat' first
      | assumption | apply State.when_steady | apply State.setSrc_steady | apply raise_steady | intro _ | split
      | dsimp only

theorem execQuarantineRelease_steady {s0 s : State} (hS : Steady s0 s) (source : BitVec 12) :
    SteadyR s0 (execQuarantineRelease source s) := by
  unfold execQuarantineRelease
  with_reducible
    repeat' first
      | assumption | apply Steady.next | apply releaseSource_steady

theorem takeClaim_steady {s0 s : State} (hS : Steady s0 s) (c : DieId) (n : Nat) (fast : Bool) :
    Steady s0 (takeClaim s c n fast) := by
  unfold takeClaim
  with_reducible
    repeat' first
      | assumption | apply State.setSrc_steady | apply State.emit_steady | split

theorem execClaimRead_steady {s0 s : State} (hS : Steady s0 s) (zenith : DieId) :
    SteadyR s0 (execClaimRead zenith s) := by
  unfold execClaimRead
  with_reducible
    repeat' first
      | assumption | apply Steady.next | apply takeClaim_steady

theorem execClaimFastRead_steady {s0 s : State} (hS : Steady s0 s) (zenith : DieId) :
    SteadyR s0 (execClaimFastRead zenith s) := by
  unfold execClaimFastRead
  with_reducible
    repeat' first
      | assumption | apply Steady.next | apply takeClaim_steady

theorem sampleLevel_steady {s0 s : State} (hS : Steady s0 s) (n : Nat) : Steady s0 (sampleLevel s n) := by
  unfold sampleLevel
  with_reducible
    repeat' first
      | assumption | apply State.setSrc_steady | apply State.bump_steady | split | dsimp only

theorem endClaim_steady {s0 s : State} (hS : Steady s0 s) (n : Nat) : Steady s0 (endClaim s n) := by
  unfold endClaim
  with_reducible
    repeat' first
      | assumption | apply sampleLevel_steady | apply State.setSrc_steady | apply quarantine_steady | split
      | dsimp only

theorem completeClaim_steady {s0 s : State} (hS : Steady s0 s) (c : DieId) (n : Nat) (fast : Bool) :
    Steady s0 (completeClaim s c n fast) := by
  unfold completeClaim
  with_reducible
    repeat' first
      | assumption | apply endClaim_steady | apply State.bump_steady | split | dsimp only

theorem execCompleteWrite_steady {s0 s : State} (hS : Steady s0 s) (zenith : DieId) (source : BitVec 12) :
    SteadyR s0 (execCompleteWrite zenith source s) := by
  unfold execCompleteWrite
  with_reducible
    repeat' first
      | assumption | apply Steady.next | apply completeClaim_steady

theorem execCompleteFastWrite_steady {s0 s : State} (hS : Steady s0 s) (zenith : DieId) (source : BitVec 12) :
    SteadyR s0 (execCompleteFastWrite zenith source s) := by
  unfold execCompleteFastWrite
  with_reducible
    repeat' first
      | assumption | apply Steady.next | apply completeClaim_steady

theorem execSrcStatusLevelSample_steady {s0 s : State} (hS : Steady s0 s) (zenith : DieId) (source : BitVec 12) :
    SteadyR s0 (execSrcStatusLevelSample zenith source s) := by
  unfold execSrcStatusLevelSample
  with_reducible
    repeat' first
      | assumption | apply Steady.next | apply State.when_steady | apply sampleLevel_steady | apply State.emit_steady
      | intro _

theorem endClaims_steady {s0 s : State} (hS : Steady s0 s) (ns : List Nat) : Steady s0 (endClaims s ns) := by
  unfold endClaims
  with_reducible
    repeat' first
      | assumption | apply State.each_steady | apply endClaim_steady | intro _

theorem flushSource_steady {s0 s : State} (hS : Steady s0 s) (n : Nat) : Steady s0 (flushSource s n) := by
  unfold flushSource
  with_reducible
    repeat' first
      | assumption | apply eqRecord_steady | apply State.setSrc_steady | split | dsimp only

theorem enterQueue_steady {s0 s : State} (hS : Steady s0 s) (d : DieId) (entry : Nat) :
    Steady s0 (enterQueue s d entry) := by
  unfold enterQueue
  with_reducible
    repeat' first
      | assumption | apply State.each_steady | apply endClaims_steady | apply flushSource_steady
      | apply State.setIc_steady | intro _

theorem execIcModeQueueWrite_steady {s0 s : State} (hS : Steady s0 s) (die : DieId) :
    SteadyR s0 (execIcModeQueueWrite die s) := by
  unfold execIcModeQueueWrite
  with_reducible
    repeat' first
      | assumption | apply Steady.next | apply enterQueue_steady

theorem execIcModeClaimWrite_steady {s0 s : State} (hS : Steady s0 s) (die : DieId) :
    SteadyR s0 (execIcModeClaimWrite die s) := by
  unfold execIcModeClaimWrite
  with_reducible
    repeat' first
      | assumption | apply Steady.next | apply State.setIc_steady | split

theorem execEqHeadAdvance_steady {s0 s : State} (hS : Steady s0 s) (die : DieId) (n : Nat) :
    SteadyR s0 (execEqHeadAdvance die n s) := by
  unfold execEqHeadAdvance
  with_reducible
    repeat' first
      | assumption | apply Steady.next | apply State.setIc_steady

theorem execContrailEventSend_steady {s0 s : State} (hS : Steady s0 s) : SteadyR s0 (execContrailEventSend s) := by
  unfold execContrailEventSend
  with_reducible
    repeat' first
      | assumption | apply Steady.next | apply State.emit_steady | intro _ | split | apply Steady.mk'

/-! ## Machine/Areas.lean -/

theorem execRegionApply_steady {s0 s : State} (hS : Steady s0 s) (die : DieId) :
    SteadyR s0 (execRegionApply die s) := by
  unfold execRegionApply
  with_reducible
    repeat' first
      | assumption | apply Steady.next | apply State.modDie_steady | split

theorem initRegion_steady {s0 s : State} (hS : Steady s0 s) (d : DieId) (n : Nat) : Steady s0 (initRegion s d n) := by
  unfold initRegion
  with_reducible
    repeat' first
      | assumption | apply clearRegion_steady | split | dsimp only

theorem execRegionApplyDone_steady {s0 s : State} (hS : Steady s0 s) (die : DieId) :
    SteadyR s0 (execRegionApplyDone die s) := by
  unfold execRegionApplyDone
  with_reducible
    repeat' first
      | assumption | apply Steady.next | apply State.each_steady | apply initRegion_steady | apply raiseOn_steady
      | apply State.modDie_steady | intro _ | split

theorem scrubPage_steady {z0 s0 : State} (hS : Steady z0 s0) (h : RegionHit) (page : Nat) (how : MemOutcome)
    : Steady z0 (scrubPage s0 h page how) := by
  unfold scrubPage
  with_reducible
    repeat' first
      | assumption | apply takeUpset_steady | apply State.bump_steady | apply lastingError_steady
      | apply State.when_steady | apply storePage_steady | intro _ | split | dsimp only | apply Steady.mk'

theorem scrubByte_steady {s0 s : State} (hS : Steady s0 s) (h : RegionHit) (b : Nat) :
    Steady s0 (scrubByte h s b) := by
  unfold scrubByte
  with_reducible
    repeat' first
      | assumption | apply State.bump_steady | apply storeByte_steady | apply lastingError_steady | intro _ | split
      | dsimp only | apply Steady.mk'

theorem scrubUnit_steady {s0 s : State} (hS : Steady s0 s) (a : Nat) (how : MemOutcome)
    : Steady s0 (scrubUnit s a how) := by
  unfold scrubUnit
  with_reducible
    repeat' first
      | assumption | apply scrubPage_steady | apply State.bumpBy_steady | apply takeUpset_steady
      | apply lastingError_steady | apply State.each_steady | apply scrubByte_steady | apply State.when_steady
      | apply State.bump_steady | intro _ | split | dsimp only

theorem execScrubStep_steady {s0 s : State} (hS : Steady s0 s) (die : DieId) (hbm : Bool) (how : MemOutcome) :
    SteadyR s0 (execScrubStep die hbm how s) := by
  unfold execScrubStep
  with_reducible
    repeat' first
      | assumption | apply Steady.next | apply scrubUnit_steady | apply State.modDie_steady | apply State.bump_steady
      | apply raiseOn_steady | split | dsimp only

theorem dropLine_steady {s0 s : State} (hS : Steady s0 s) (d : DieId) (line : Nat) :
    Steady s0 (dropLine s d line) := by
  unfold dropLine
  with_reducible
    repeat' first
      | assumption | apply State.when_steady | apply setCacheSet_steady | apply State.setObj_steady | intro _ | split
      | dsimp only

theorem dropLines_steady {s0 s : State} (hS : Steady s0 s) (a : Nat) (n : Nat) : Steady s0 (dropLines s a n) := by
  unfold dropLines
  with_reducible
    repeat' first
      | assumption | apply State.each_steady | apply dropLine_steady | intro _ | split

theorem heldWord_steady {s0 s : State} (hS : Steady s0 s) (w : Kv Nat) (k : Nat) : Steady s0 (heldWord s w k).2 := by
  unfold heldWord
  with_reducible
    repeat' first
      | assumption | apply State.draw_steady | split

theorem sramGet_steady {s0 s : State} (hS : Steady s0 s) (d : DieId) (tgt : Nat) (addr : Nat) (k : Nat)
    : Steady s0 (sramGet s d tgt addr k).2.2 := by
  unfold sramGet
  with_reducible
    repeat' first
      | assumption | apply heldWord_steady | intro _ | split

theorem sramSet_steady {s0 s : State} (hS : Steady s0 s) (d : DieId) (tgt : Nat) (addr : Nat) (k : Nat) (v : Nat)
    (dev : Nat) : Steady s0 (sramSet s d tgt addr k v dev) := by
  unfold sramSet
  with_reducible
    repeat' first
      | assumption | apply keepDead_steady | apply State.modCore_steady | apply setFrameWord_steady
      | apply State.modDie_steady | apply memWf_memWrite | intro _ | split | dsimp only | apply Steady.mk'

theorem modCt_steady {s0 s : State} (hS : Steady s0 s) (d : DieId) (f : CodeTest → CodeTest) :
    Steady s0 (modCt s d f) := by
  unfold modCt
  with_reducible
    repeat' first
      | assumption | apply State.modDie_steady

theorem ctRaw_steady {s0 s : State} (hS : Steady s0 s) (d : DieId) (tgt : Nat) : Steady s0 (ctRaw s d tgt).2.2 := by
  unfold ctRaw
  with_reducible
    repeat' first
      | assumption | apply sramGet_steady | intro _ | apply Steady.foldl | apply Steady.foldlFst
      | apply Steady.foldlSnd | apply Steady.foldlSnd2 | apply Steady.foldlLoad | apply Steady.foldlSeg
      | apply Steady.foldlImport | apply Steady.foldlSnd3 | split

theorem ctStore_steady {s0 s : State} (hS : Steady s0 s) (d : DieId) (tgt : Nat) : Steady s0 (ctStore s d tgt) := by
  unfold ctStore
  with_reducible
    repeat' first
      | assumption | apply State.each_steady | apply sramSet_steady | apply memWf_memWrite | apply memWf_kvClear
      | intro _ | apply Steady.foldl | apply Steady.foldlFst | apply Steady.foldlSnd | apply Steady.foldlSnd2
      | apply Steady.foldlLoad | apply Steady.foldlSeg | apply Steady.foldlImport | apply Steady.foldlSnd3 | split
      | dsimp only | apply Steady.mk'

theorem ctPrepare_steady {s0 s : State} (hS : Steady s0 s) (d : DieId) (tgt : Nat)
    : Steady s0 (ctPrepare s d tgt) := by
  unfold ctPrepare
  with_reducible
    repeat' first
      | assumption | apply dropLines_steady | intro _ | split

theorem sramLost_steady {s0 s : State} (hS : Steady s0 s) (d : DieId) (tgt : Nat) (addr : Nat) (i : Nat) (k : Nat)
    (hard : Bool) : Steady s0 (sramLost s d tgt addr i k hard) := by
  unfold sramLost
  with_reducible
    repeat' first
      | assumption | apply State.bump_steady | apply sramSet_steady | apply sramUncorrectable_steady
      | apply State.when_steady | apply logFence_steady | intro _ | split | dsimp only | apply Steady.mk'

theorem sramDecode_steady {s0 s : State} (hS : Steady s0 s) (d : DieId) (tgt : Nat) (addr : Nat) (i : Nat) (k : Nat)
    : Steady s0 (sramDecode s d tgt addr i k).2.2 := by
  unfold sramDecode
  with_reducible
    repeat' first
      | assumption | apply readFrameWord_steady | apply sramGet_steady | apply State.bump_steady
      | apply sramLost_steady | intro _ | split | dsimp only

theorem ctDecoded_steady {s0 s : State} (hS : Steady s0 s) (d : DieId) (tgt : Nat) (how : MemOutcome)
    : Steady s0 (ctDecoded s d tgt how).2.2 := by
  unfold ctDecoded
  with_reducible
    repeat' first
      | assumption | apply memLoad_steady | apply sramDecode_steady | apply takeUpset_steady | apply State.bump_steady
      | apply sramLost_steady | intro _ | apply Steady.foldl | apply Steady.foldlFst | apply Steady.foldlSnd
      | apply Steady.foldlSnd2 | apply Steady.foldlLoad | apply Steady.foldlSeg | apply Steady.foldlImport
      | apply Steady.foldlSnd3 | split | dsimp only

theorem ctCommand_steady {s0 s : State} (hS : Steady s0 s) (d : DieId) (tgt : Nat) (f : State → State) (hF : ∀ x0,
    Steady s0 x0 → Steady s0 (f x0)) :
    Steady s0 (ctCommand s d tgt f) := by
  unfold ctCommand
  with_reducible
    repeat' first
      | assumption | apply modCt_steady | apply ctPrepare_steady | apply hF | split | dsimp only

theorem execCtReadRaw_steady {s0 s : State} (hS : Steady s0 s) (die : DieId) (target : BitVec 4) :
    SteadyR s0 (execCtReadRaw die target s) := by
  unfold execCtReadRaw
  with_reducible
    repeat' first
      | assumption | apply Steady.next | apply ctCommand_steady | apply ctRaw_steady | apply modCt_steady | intro _

theorem execCtWriteRaw_steady {s0 s : State} (hS : Steady s0 s) (die : DieId) (target : BitVec 4) :
    SteadyR s0 (execCtWriteRaw die target s) := by
  unfold execCtWriteRaw
  with_reducible
    repeat' first
      | assumption | apply Steady.next | apply ctCommand_steady | apply ctStore_steady | intro _

theorem execCtEncode_steady {s0 s : State} (hS : Steady s0 s) (die : DieId) (target : BitVec 4) :
    SteadyR s0 (execCtEncode die target s) := by
  unfold execCtEncode
  with_reducible
    repeat' first
      | assumption | apply Steady.next | apply ctCommand_steady | apply modCt_steady | intro _

theorem execCtReadDecoded_steady {s0 s : State} (hS : Steady s0 s) (die : DieId) (target : BitVec 4) (how :
    MemOutcome) :
    SteadyR s0 (execCtReadDecoded die target how s) := by
  unfold execCtReadDecoded
  with_reducible
    repeat' first
      | assumption | apply Steady.next | apply ctCommand_steady | apply ctDecoded_steady | apply modCt_steady
      | intro _

theorem writeBackDie_steady {s0 s : State} (hS : Steady s0 s) (d : DieId) : Steady s0 (writeBackDie s d) := by
  unfold writeBackDie
  with_reducible
    repeat' first
      | assumption | apply State.modDie_steady | apply State.each_steady | apply State.when_steady
      | apply settleLine_steady | intro _

theorem execCacheWriteBack_steady {s0 s : State} (hS : Steady s0 s) (die : DieId) :
    SteadyR s0 (execCacheWriteBack die s) := by
  unfold execCacheWriteBack
  with_reducible
    repeat' first
      | assumption | apply Steady.next | apply writeBackDie_steady

theorem execCacheDemote_steady {s0 s : State} (hS : Steady s0 s) (die : DieId) :
    SteadyR s0 (execCacheDemote die s) := by
  unfold execCacheDemote
  with_reducible
    repeat' first
      | assumption | apply Steady.next | apply demoteDie_steady

theorem writeKeep_steady {s0 s : State} (hS : Steady s0 s) (d : DieId) (n : Fin 8) (v : Nat) :
    Steady s0 (writeKeep s d n v) := by
  unfold writeKeep
  with_reducible
    repeat' first
      | assumption | apply State.when_steady | apply State.modDie_steady | apply raiseOn_steady | intro _

theorem execKeepWinWrite_steady {s0 s : State} (hS : Steady s0 s) (die : DieId) (n : Fin 8) (value : BitVec 64) :
    SteadyR s0 (execKeepWinWrite die n value s) := by
  unfold execKeepWinWrite
  with_reducible
    repeat' first
      | assumption | apply Steady.next | apply writeKeep_steady

theorem writeRing_steady {s0 s : State} (hS : Steady s0 s) (d : DieId) (n : Fin 16) (v : Nat) :
    Steady s0 (writeRing s d n v) := by
  unfold writeRing
  with_reducible
    repeat' first
      | assumption | apply State.modDie_steady

theorem execRingRegWrite_steady {s0 s : State} (hS : Steady s0 s) (die : DieId) (n : Fin 16) (value : BitVec 64) :
    SteadyR s0 (execRingRegWrite die n value s) := by
  unfold execRingRegWrite
  with_reducible
    repeat' first
      | assumption | apply Steady.next | apply writeRing_steady

/-! ## Machine/Upsets.lean -/

theorem strikeMem_steady {s0 s : State} (hS : Steady s0 s) (a : Nat) (flip : Nat) (check : Nat)
    : Steady s0 (strikeMem s a flip check) := by
  unfold strikeMem
  with_reducible
    repeat' first
      | assumption | apply memWf_memSet | intro _ | split | dsimp only | apply Steady.mk'

theorem strikeScratch_steady {s0 s : State} (hS : Steady s0 s) (k : Nat) (flip : Nat) (check : Nat)
    : Steady s0 (strikeScratch s k flip check) := by
  unfold strikeScratch
  with_reducible
    repeat' first
      | assumption | apply keepDead_steady | apply memWf_memWrite | intro _ | split | dsimp only | apply Steady.mk'

theorem strikeAcc_steady {s0 s : State} (hS : Steady s0 s) (c : CoreId) (k : Nat) (flip : Nat) (check : Nat)
    : Steady s0 (strikeAcc s c k flip check) := by
  unfold strikeAcc
  with_reducible
    repeat' first
      | assumption | apply State.modCore_steady

theorem strikeSum_steady {s0 s : State} (hS : Steady s0 s) (c : CoreId) (k : Nat) (flip : Nat) (check : Nat)
    : Steady s0 (strikeSum s c k flip check) := by
  unfold strikeSum
  with_reducible
    repeat' first
      | assumption | apply State.modCore_steady

theorem strikeBuffer_steady {s0 s : State} (hS : Steady s0 s) (c : CoreId) (k : Nat) (flip : Nat) (check : Nat)
    : Steady s0 (strikeBuffer s c k flip check) := by
  unfold strikeBuffer
  with_reducible
    repeat' first
      | assumption | apply State.modCore_steady

theorem strikeFetch_steady {s0 s : State} (hS : Steady s0 s) (c : CoreId) (off : Nat) (flip : Nat) (check : Nat)
    : Steady s0 (strikeFetch s c off flip check) := by
  unfold strikeFetch
  with_reducible
    repeat' first
      | assumption | apply State.modCore_steady | intro _ | split

theorem strikeFrame_steady {s0 s : State} (hS : Steady s0 s) (d : DieId) (k : Nat) (flip : Nat) (check : Nat)
    : Steady s0 (strikeFrame s d k flip check) := by
  unfold strikeFrame
  with_reducible
    repeat' first
      | assumption | apply setFrameWord_steady | intro _ | split

theorem strikeTag_steady {s0 s : State} (hS : Steady s0 s) (d : DieId) (line : Nat)
    : Steady s0 (strikeTag s d line) := by
  unfold strikeTag
  with_reducible
    repeat' first
      | assumption | apply failUnit_steady | apply State.bump_steady | apply clearWords_steady | intro _ | split

theorem strikeReg_steady {s0 s : State} (hS : Steady s0 s) (c : CoreId) (k : Nat) (e : Nat)
    : Steady s0 (strikeReg s c k e) := by
  unfold strikeReg
  with_reducible
    repeat' first
      | assumption | apply State.modCore_steady | intro _ | split | dsimp only

theorem upsetOf_steady {s0 s : State} (hS : Steady s0 s) (r : Nat) : Steady s0 (upsetOf s r) := by
  unfold upsetOf
  with_reducible
    repeat' first
      | assumption | apply strikeMem_steady | apply strikeScratch_steady | apply strikeAcc_steady
      | apply strikeSum_steady | apply strikeBuffer_steady | apply strikeFetch_steady | apply strikeFrame_steady
      | apply strikeTag_steady | apply strikeReg_steady | apply failUnit_steady | intro _ | split | dsimp only
      | apply Steady.mk'

theorem idle_steady {s0 s : State} (hS : Steady s0 s) : Steady s0 (idle s) := by
  unfold idle
  with_reducible
    repeat' first
      | assumption | apply State.draw_steady | apply upsetOf_steady | intro _ | split | dsimp only | apply Steady.mk'

/-! ## Machine/Reset.lean -/

theorem State.modLife_steady {s0 s : State} (hS : Steady s0 s) (f : Life → Life) : Steady s0 (State.modLife s f) := by
  unfold State.modLife
  with_reducible
    repeat' first
      | assumption | intro _ | apply Steady.mk'

theorem keptState_steady {s0 s : State} (hS : Steady s0 s) (cause : Nat) (tripped : Bool) :
    Steady s0 (keptState s cause tripped) := by
  unfold keptState
  exact hS.mk' (fun _ => memWf_nil) (fun _ => memWf_nil)

theorem packageReset_steady {s0 s : State} (hS : Steady s0 s) (cause : Nat) (cool : Bool) :
    Steady s0 (packageReset s cause cool) := by
  unfold packageReset
  with_reducible
    repeat' first
      | assumption | apply State.when_steady | apply State.emit_steady | apply keptState_steady
      | apply mailboxState_steady | apply raise_steady | intro _

theorem execSysResetNLow_steady {s0 s : State} (hS : Steady s0 s) (testEn : Bool) (cool : Bool) :
    SteadyR s0 (execSysResetNLow testEn cool s) := by
  unfold execSysResetNLow
  with_reducible
    repeat' first
      | assumption | apply Steady.next | apply State.modLife_steady | apply packageReset_steady | split

theorem execVddAonRise_steady {s0 s : State} (hS : Steady s0 s) (testEn : Bool) (cool : Bool) :
    SteadyR s0 (execVddAonRise testEn cool s) := by
  unfold execVddAonRise
  with_reducible
    repeat' first
      | assumption | apply Steady.next | apply State.modLife_steady | apply packageReset_steady | split

theorem execRailResetLevel_steady {s0 s : State} (hS : Steady s0 s) (_group : Fin 20) :
    SteadyR s0 (execRailResetLevel _group s) := by
  unfold execRailResetLevel
  with_reducible
    repeat' first
      | assumption | apply Steady.next | apply packageReset_steady | split

theorem execVddAonLoss_steady {s0 s : State} (hS : Steady s0 s) : SteadyR s0 (execVddAonLoss s) := by
  unfold execVddAonLoss
  with_reducible
    repeat' first
      | assumption | apply Steady.next | apply keptState_steady | intro _ | split | apply Steady.mk'

theorem gradeObjects_steady {s0 s : State} (hS : Steady s0 s) : Steady s0 (gradeObjects s) := by
  unfold gradeObjects
  with_reducible
    repeat' first
      | assumption | apply State.setObj_steady | intro _ | apply Steady.mk'

theorem execBootRom_steady {s0 s : State} (hS : Steady s0 s) : SteadyR s0 (execBootRom s) := by
  unfold execBootRom
  with_reducible
    repeat' first
      | assumption | apply Steady.next | apply State.when_steady | apply enterFault_steady | apply raise_steady
      | apply gradeObjects_steady | apply State.modLife_steady | intro _ | split

theorem restoreHealth_steady {s0 s : State} (hS : Steady s0 s) : Steady s0 (restoreHealth s) := by
  unfold restoreHealth
  with_reducible
    repeat' first
      | assumption | apply State.modLife_steady | apply State.setObj_steady | intro _ | split | dsimp only
      | apply Steady.mk'

theorem recordRails_steady {s0 s : State} (hS : Steady s0 s) (order : List Nat) :
    Steady s0 (recordRails s order) := by
  unfold recordRails
  with_reducible
    repeat' first
      | assumption | apply State.modLife_steady | apply raise_steady | split

theorem trainLink_steady {s0 s : State} (hS : Steady s0 s) (rate : Nat) (width : Nat) :
    Steady s0 (trainLink s rate width) := by
  unfold trainLink
  with_reducible
    repeat' first
      | assumption | apply State.setObj_steady | intro _ | split | apply Steady.mk'

theorem startPorts_steady {s0 s : State} (hS : Steady s0 s) : Steady s0 (startPorts s) := by
  unfold startPorts
  with_reducible
    repeat' first
      | assumption | apply State.each_steady | apply State.modPort_steady | intro _

theorem execFirmwareStart_steady {s0 s : State} (hS : Steady s0 s) (rails : BitVec 20) (order : List (Fin 20))
    (bridges : BitVec 10) (rate : BitVec 8) (width : BitVec 8)
    : SteadyR s0 (execFirmwareStart rails order bridges rate width s) := by
  unfold execFirmwareStart
  with_reducible
    repeat' first
      | assumption | apply Steady.next | apply recordRails_steady | apply setLevel_steady | apply restoreHealth_steady
      | apply startPorts_steady | apply State.modLife_steady | apply trainLink_steady | apply State.each_steady
      | apply failUnit_steady | intro _ | split | dsimp only | apply Steady.mk'

theorem execRailsWaiting_steady {s0 s : State} (hS : Steady s0 s) (rails : BitVec 20) :
    SteadyR s0 (execRailsWaiting rails s) := by
  unfold execRailsWaiting
  with_reducible
    repeat' first
      | assumption | apply Steady.next | apply setLevel_steady | apply State.modLife_steady | split

theorem spareLane_steady {s0 s : State} (hS : Steady s0 s) (d : DieId) (p : Nat × Nat)
    : Steady s0 (spareLane d s p) := by
  unfold spareLane
  with_reducible
    repeat' first
      | assumption | apply failUnit_steady | apply State.modLife_steady | apply raiseOn_steady | intro _ | split
      | dsimp only

theorem spareRow_steady {s0 s : State} (hS : Steady s0 s) (d : DieId) (a : Nat) : Steady s0 (spareRow d s a) := by
  unfold spareRow
  with_reducible
    repeat' first
      | assumption | apply failUnit_steady | apply raiseOn_steady | apply State.modLife_steady | intro _ | split
      | dsimp only

theorem bondObjects_steady {s0 s : State} (hS : Steady s0 s) : Steady s0 (bondObjects s) := by
  unfold bondObjects
  with_reducible
    repeat' first
      | assumption | apply State.setObj_steady

theorem showBondDue_steady {s0 s : State} (hS : Steady s0 s) : Steady s0 (showBondDue s) := by
  unfold showBondDue
  with_reducible
    repeat' first
      | assumption | apply State.setObj_steady

theorem bondTest_steady {s0 s : State} (hS : Steady s0 s) (d : DieId) (r : BondResult) :
    Steady s0 (bondTest s d r) := by
  unfold bondTest
  with_reducible
    repeat' first
      | assumption | apply State.each_steady | apply spareLane_steady | apply bondObjects_steady
      | apply spareRow_steady | apply showBondDue_steady | apply State.modLife_steady | apply State.setObj_steady
      | intro _

theorem endStage3_steady {s0 s : State} (hS : Steady s0 s) : Steady s0 (endStage3 s) := by
  unfold endStage3
  with_reducible
    repeat' first
      | assumption | apply State.modLife_steady | split

theorem execStratusBringup_steady {s0 s : State} (hS : Steady s0 s) (die : DieId) (bond : BondResult) :
    SteadyR s0 (execStratusBringup die bond s) := by
  unfold execStratusBringup
  with_reducible
    repeat' first
      | assumption | apply Steady.next | apply State.each_steady | apply bondTest_steady | apply bondObjects_steady
      | apply spareRow_steady | apply initRegion_steady | apply State.modDie_steady | apply endStage3_steady
      | apply State.modLife_steady | intro _ | split

theorem execHbmBringup_steady {s0 s : State} (hS : Steady s0 s) (die : DieId) (fails : List Nat) (repaired : List Nat)
    : SteadyR s0 (execHbmBringup die fails repaired s) := by
  unfold execHbmBringup
  with_reducible
    repeat' first
      | assumption | apply Steady.next | apply raiseOn_steady | apply State.when_steady | apply State.modLife_steady
      | apply fenceUnit_steady | apply State.modDie_steady | apply State.each_steady | apply initRegion_steady
      | apply endStage3_steady | intro _ | split

theorem reportFails_steady {s0 s : State} (hS : Steady s0 s) (i : Nat) (f : Nat × Nat) :
    Steady s0 (reportFails i s f) := by
  unfold reportFails
  with_reducible
    repeat' first
      | assumption | apply State.when_steady | apply raiseOn_steady | apply State.bump_steady
      | apply State.modLife_steady | intro _

theorem reportCore_steady {s0 s : State} (hS : Steady s0 s) (old : List PhysCore) (new : List PhysCore) (i : Nat) :
    Steady s0 (reportCore old new s i) := by
  unfold reportCore
  with_reducible
    repeat' first
      | assumption | apply State.when_steady | apply raiseOn_steady | intro _

theorem mapObjects_steady {s0 s : State} (hS : Steady s0 s) : Steady s0 (mapObjects s) := by
  unfold mapObjects
  with_reducible
    repeat' first
      | assumption | apply State.setObj_steady

theorem swatchTest_steady {s0 s : State} (hS : Steady s0 s) (swatch : List (List (Nat × Nat)))
    : Steady s0 (swatchTest s swatch) := by
  unfold swatchTest
  with_reducible
    repeat' first
      | assumption | apply State.each_steady | apply reportFails_steady | apply State.bump_steady
      | apply State.modLife_steady | apply reportCore_steady | apply mapObjects_steady | apply State.when_steady
      | apply raise_steady | apply enterFault_steady | intro _ | split | dsimp only | exact memWf_nil
      | apply Steady.mk'

theorem enterPreop_steady {s0 s : State} (hS : Steady s0 s) : Steady s0 (enterPreop s) := by
  unfold enterPreop
  with_reducible
    repeat' first
      | assumption | apply setDeviceState_steady | apply writeHealth_steady | intro _ | apply Steady.mk'

theorem keepFirmware_steady {s0 s : State} (hS : Steady s0 s) : Steady s0 (keepFirmware s) := by
  unfold keepFirmware
  with_reducible
    repeat' first
      | assumption | apply State.modLife_steady

theorem raiseReady_steady {s0 s : State} (hS : Steady s0 s) : Steady s0 (raiseReady s) := by
  unfold raiseReady
  with_reducible
    repeat' first
      | assumption | apply driveReady_steady | apply State.modLife_steady | apply State.setObj_steady

theorem execComputeBringup_steady {s0 s : State} (hS : Steady s0 s) (swatch : List (List (Nat × Nat))) :
    SteadyR s0 (execComputeBringup swatch s) := by
  unfold execComputeBringup
  with_reducible
    repeat' first
      | assumption | apply Steady.next | apply swatchTest_steady | apply enterFault_steady | apply enterPreop_steady
      | apply raiseReady_steady | apply keepFirmware_steady | split | dsimp only

theorem abandonSlot_steady {s0 s : State} (hS : Steady s0 s) : Steady s0 (abandonSlot s) := by
  unfold abandonSlot
  with_reducible
    repeat' first
      | assumption | apply packageReset_steady | apply State.modLife_steady | apply raise_steady

theorem execPendingSlotTimeout_steady {s0 s : State} (hS : Steady s0 s) : SteadyR s0 (execPendingSlotTimeout s) := by
  unfold execPendingSlotTimeout
  with_reducible
    repeat' first
      | assumption | apply Steady.next | apply abandonSlot_steady | split

theorem sealStop_steady {s0 s : State} (hS : Steady s0 s) : Steady s0 (sealStop s) := by
  unfold sealStop
  with_reducible
    repeat' first
      | assumption | apply setContrib_steady | apply sendWave_steady | apply setWave_steady | intro _ | split
      | dsimp only | apply Steady.mk'

theorem quiesce_steady {s0 s : State} (hS : Steady s0 s) (on : Bool) : Steady s0 (quiesce s on) := by
  unfold quiesce
  with_reducible
    repeat' first
      | assumption | apply State.each_steady | apply State.modPort_steady | intro _

theorem computeReset_steady {s0 s : State} (hS : Steady s0 s) (cause : Nat) (bond : Bool) :
    Steady s0 (computeReset s cause bond) := by
  unfold computeReset
  with_reducible
    repeat' first
      | assumption | apply State.each_steady | apply State.bump_steady | apply driveReady_steady
      | apply State.modLife_steady | apply abortCmds_steady | apply enterQueue_steady | apply quiesce_steady
      | apply sealStop_steady | apply freezeImage_steady | intro _ | split | apply Steady.mk'

theorem resetUnits_steady {s0 s : State} (hS : Steady s0 s) : Steady s0 (resetUnits s) := by
  unfold resetUnits
  with_reducible
    repeat' first
      | assumption | apply State.each_steady | apply State.modDie_steady | apply refreshAllClocks_steady
      | apply clearFloors_steady | intro _ | split | dsimp only | apply Steady.mk'

theorem resetStratus_steady {s0 s : State} (hS : Steady s0 s) (bond : List BondResult) :
    Steady s0 (resetStratus s bond) := by
  unfold resetStratus
  with_reducible
    repeat' first
      | assumption | apply State.each_steady | apply State.when_steady | apply bondTest_steady
      | apply initRegion_steady | intro _

theorem endReset_steady {s0 s : State} (hS : Steady s0 s) : Steady s0 (endReset s) := by
  unfold endReset
  with_reducible
    repeat' first
      | assumption | apply State.when_steady | apply State.modLife_steady | apply quiesce_steady
      | apply raiseReady_steady | apply setDeviceState_steady | intro _ | split | dsimp only

theorem execComputeResetContinue_steady {s0 s : State} (hS : Steady s0 s) (bond : List BondResult) (swatch : List
    (List (Nat × Nat))) :
    SteadyR s0 (execComputeResetContinue bond swatch s) := by
  unfold execComputeResetContinue
  with_reducible
    repeat' first
      | assumption | apply Steady.next | apply endReset_steady | apply swatchTest_steady | apply resetStratus_steady
      | apply resetUnits_steady | split

theorem resetVectors_steady {s0 s : State} (hS : Steady s0 s) (fn : Nat) : Steady s0 (resetVectors s fn) := by
  unfold resetVectors
  with_reducible
    repeat' first
      | assumption | intro _ | apply Steady.mk'

theorem flr0_steady {s0 s : State} (hS : Steady s0 s) (cause : Nat) : Steady s0 (flr0 s cause) := by
  unfold flr0
  with_reducible
    repeat' first
      | assumption | apply computeReset_steady | apply disableHost_steady | apply abortCmds_steady
      | apply resetVectors_steady | intro _ | split | dsimp only | apply Steady.mk'

theorem execFlrFunction0_steady {s0 s : State} (hS : Steady s0 s) : SteadyR s0 (execFlrFunction0 s) := by
  unfold execFlrFunction0
  with_reducible
    repeat' first
      | assumption | apply Steady.next | apply flr0_steady

theorem dropLocks_steady {s0 s : State} (hS : Steady s0 s) (m : Nat) : Steady s0 (dropLocks s m) := by
  unfold dropLocks
  with_reducible
    repeat' first
      | assumption | intro _ | apply Steady.mk'

theorem flr1_steady {s0 s : State} (hS : Steady s0 s) : Steady s0 (flr1 s) := by
  unfold flr1
  with_reducible
    repeat' first
      | assumption | apply resetVectors_steady | apply dropLocks_steady | intro _ | split | dsimp only
      | apply Steady.mk'

theorem execFlrFunction1_steady {s0 s : State} (hS : Steady s0 s) : SteadyR s0 (execFlrFunction1 s) := by
  unfold execFlrFunction1
  with_reducible
    repeat' first
      | assumption | apply Steady.next | apply flr1_steady

theorem linkDown_steady {s0 s : State} (hS : Steady s0 s) : Steady s0 (linkDown s) := by
  unfold linkDown
  with_reducible
    repeat' first
      | assumption | apply State.setObj_steady | intro _ | apply Steady.mk'

theorem execPerstNAssert_steady {s0 s : State} (hS : Steady s0 s) : SteadyR s0 (execPerstNAssert s) := by
  unfold execPerstNAssert
  with_reducible
    repeat' first
      | assumption | apply Steady.next | apply linkDown_steady | apply flr1_steady | apply flr0_steady | intro _
      | split | apply Steady.mk'

theorem execPerstNRelease_steady {s0 s : State} (hS : Steady s0 s) (rate : BitVec 8) (link : LinkSetup) :
    SteadyR s0 (execPerstNRelease rate link s) := by
  unfold execPerstNRelease
  with_reducible
    repeat' first
      | assumption | apply Steady.next | apply trainLink_steady | apply State.when_steady | apply resizeBar2_steady
      | intro _ | split | dsimp only | apply Steady.mk'

theorem execOperatingHour_steady {s0 s : State} (hS : Steady s0 s) : SteadyR s0 (execOperatingHour s) := by
  unfold execOperatingHour
  with_reducible
    repeat' first
      | assumption | apply Steady.next | apply State.bump_steady | apply showBondDue_steady
      | apply State.modLife_steady | split

theorem execBondTestGraceExpiry_steady {s0 s : State} (hS : Steady s0 s) :
    SteadyR s0 (execBondTestGraceExpiry s) := by
  unfold execBondTestGraceExpiry
  with_reducible
    repeat' first
      | assumption | apply Steady.next | apply State.each_steady | apply State.modLife_steady | apply raiseOn_steady
      | intro _ | split

theorem execFuseUpdate_steady {s0 s : State} (hS : Steady s0 s) (epoch : BitVec 32) (rollback : BitVec 16) :
    SteadyR s0 (execFuseUpdate epoch rollback s) := by
  unfold execFuseUpdate
  with_reducible
    repeat' first
      | assumption | apply Steady.next | apply State.modLife_steady

theorem execZenithWatchdogExpiry_steady {s0 s : State} (hS : Steady s0 s) (die : DieId)
    : SteadyR s0 (execZenithWatchdogExpiry die s) := by
  unfold execZenithWatchdogExpiry
  with_reducible
    repeat' first
      | assumption | apply Steady.next | apply endClaims_steady | apply State.bump_steady | apply enterQueue_steady
      | apply raiseOn_steady | apply abandonSlot_steady | apply failUnit_steady | intro _ | split | dsimp only
      | apply Steady.mk'

/-! ## Machine/Refs.lean -/

theorem State.modClocks_steady {s0 s : State} (hS : Steady s0 s) (f : Clocks → Clocks) :
    Steady s0 (State.modClocks s f) := by
  unfold State.modClocks
  with_reducible
    repeat' first
      | assumption | intro _ | apply Steady.mk'

theorem loseLock_steady {s0 s : State} (hS : Steady s0 s) (d : DieId) (pll : Nat) (us : Nat) :
    Steady s0 (loseLock s d pll us) := by
  unfold loseLock
  with_reducible
    repeat' first
      | assumption | apply State.when_steady | apply State.modClocks_steady | apply raiseOn_steady
      | apply State.bump_steady | apply enterFault_steady | intro _ | split

theorem execPllUnlock_steady {s0 s : State} (hS : Steady s0 s) (die : DieId) (pll : Fin 13) (us : Nat) :
    SteadyR s0 (execPllUnlock die pll us s) := by
  unfold execPllUnlock
  with_reducible
    repeat' first
      | assumption | apply Steady.next | apply loseLock_steady

theorem execPllRelock_steady {s0 s : State} (hS : Steady s0 s) (die : DieId) (pll : Fin 13) :
    SteadyR s0 (execPllRelock die pll s) := by
  unfold execPllRelock
  with_reducible
    repeat' first
      | assumption | apply Steady.next | apply State.modClocks_steady | split

theorem losePlls_steady {s0 s : State} (hS : Steady s0 s) : Steady s0 (losePlls s) := by
  unfold losePlls
  with_reducible
    repeat' first
      | assumption | apply State.each_steady | apply State.draw_steady | apply loseLock_steady | intro _

theorem losePorts_steady {s0 s : State} (hS : Steady s0 s) : Steady s0 (losePorts s) := by
  unfold losePorts
  with_reducible
    repeat' first
      | assumption | apply State.each_steady | apply settlePort_steady | apply enterRetraining_steady | intro _

theorem execRefclkLoss_steady {s0 s : State} (hS : Steady s0 s) (ref : Fin 3) (khz : Nat) :
    SteadyR s0 (execRefclkLoss ref khz s) := by
  unfold execRefclkLoss
  with_reducible
    repeat' first
      | assumption | apply Steady.next | apply raise_steady | apply State.bump_steady | apply linkDown_steady
      | apply State.modClocks_steady | apply losePlls_steady | apply losePorts_steady | apply enterFault_steady
      | apply stopRequest_steady | split

theorem execRefclkReturn_steady {s0 s : State} (hS : Steady s0 s) (ref : Fin 2) (rate : BitVec 8) (width : BitVec
    8) :
    SteadyR s0 (execRefclkReturn ref rate width s) := by
  unfold execRefclkReturn
  with_reducible
    repeat' first
      | assumption | apply Steady.next | apply trainLink_steady | apply State.modClocks_steady | split

theorem returnRead_steady {s0 s : State} (hS : Steady s0 s) (req : Fin 17) (n : Nat) (value : Nat) :
    Steady s0 (returnRead s req n value) := by
  unfold returnRead
  with_reducible
    repeat' first
      | assumption | apply State.emit_steady | split

theorem setSnap_steady {s0 s : State} (hS : Steady s0 s) (req : Fin 17) (addr : Nat) (value : Nat) :
    Steady s0 (setSnap s req addr value) := by
  unfold setSnap
  with_reducible
    repeat' first
      | assumption | apply State.modClocks_steady

theorem execCrossingTimeout_steady {s0 s : State} (hS : Steady s0 s) (req : Fin 17) (write : Bool) (half : Bool)
    (offset : BitVec 28) :
    SteadyR s0 (execCrossingTimeout req write half offset s) := by
  unfold execCrossingTimeout
  with_reducible
    repeat' first
      | assumption | apply Steady.next | apply State.when_steady | apply State.modClocks_steady | apply raiseOn_steady
      | apply State.bump_steady | apply setSnap_steady | apply returnRead_steady | intro _ | split

theorem clearCross_steady {s0 s : State} (hS : Steady s0 s) (d : DieId) : Steady s0 (clearCross s d) := by
  unfold clearCross
  with_reducible
    repeat' first
      | assumption | apply State.modClocks_steady

theorem execCrossInfoClear_steady {s0 s : State} (hS : Steady s0 s) (die : DieId) :
    SteadyR s0 (execCrossInfoClear die s) := by
  unfold execCrossInfoClear
  with_reducible
    repeat' first
      | assumption | apply Steady.next | apply clearCross_steady

/-! ## Machine/Manage.lean -/

theorem bringUpToDate_steady {s0 s : State} (hS : Steady s0 s) (key : Nat) : Steady s0 (bringUpToDate s key) := by
  unfold bringUpToDate
  with_reducible
    repeat' first
      | assumption | apply State.draw_steady | apply State.setObj_steady | apply State.bumpBy_steady | split

theorem clearRead_steady {s0 s : State} (hS : Steady s0 s) (key : Nat) : Steady s0 (clearRead s key) := by
  unfold clearRead
  with_reducible
    repeat' first
      | assumption | apply State.when_steady | apply State.setObj_steady | intro _

theorem setObjSnap_steady {s0 s : State} (hS : Steady s0 s) (m : Fin 2) (x : Snap) :
    Steady s0 (setObjSnap s m x) := by
  unfold setObjSnap
  with_reducible
    repeat' first
      | assumption | intro _ | apply Steady.mk'

theorem readObject_steady {s0 s : State} (hS : Steady s0 s) (m : Fin 2) (o : Obj) (q : EnyReq) :
    Steady s0 (readObject s m o q).2 := by
  unfold readObject
  with_reducible
    repeat' first
      | assumption | apply bringUpToDate_steady | apply setObjSnap_steady | apply clearRead_steady | split

theorem stateCommand_steady {s0 s : State} (hS : Steady s0 s) (v : Nat) : Steady s0 (stateCommand s v).2 := by
  unfold stateCommand
  with_reducible
    repeat' first
      | assumption | apply setDeviceState_steady | apply enterPreop_steady | apply stopNow_steady | intro _ | split
      | dsimp only | apply Steady.mk'

theorem afterWrite_steady {s0 s : State} (hS : Steady s0 s) (key : Nat) : Steady s0 (afterWrite s key) := by
  unfold afterWrite
  with_reducible
    repeat' first
      | assumption | apply State.modTick_steady | split

theorem writeReservation_steady {s0 s : State} (hS : Steady s0 s) (q : EnyReq) (v : Nat) :
    Steady s0 (writeReservation s q v).2 := by
  unfold writeReservation
  with_reducible
    repeat' first
      | assumption | apply State.setObj_steady | apply setVerdict_steady | split | dsimp only

theorem storeObject_steady {s0 s : State} (hS : Steady s0 s) (q : EnyReq) (v : Nat) :
    Steady s0 (storeObject s q v).2 := by
  unfold storeObject
  with_reducible
    repeat' first
      | assumption | apply stateCommand_steady | apply packageReset_steady | apply computeReset_steady
      | apply writeReservation_steady | apply afterWrite_steady | apply State.setObj_steady | split

theorem writeObject_steady {s0 s : State} (hS : Steady s0 s) (m : Fin 2) (o : Obj) (q : EnyReq) :
    Steady s0 (writeObject s m o q).2 := by
  unfold writeObject
  with_reducible
    repeat' first
      | assumption | apply storeObject_steady | split | dsimp only

theorem tellBroken_steady {s0 s : State} (hS : Steady s0 s) (m : Nat) (index : Nat) :
    Steady s0 (tellBroken s m index) := by
  unfold tellBroken
  with_reducible
    repeat' first
      | assumption | apply State.bump_steady | apply signalVector_steady | apply notifyContrail_steady | intro _
      | split | apply Steady.mk'

theorem lockIndex_steady {s0 s : State} (hS : Steady s0 s) (m : Fin 2) (q : EnyReq) :
    Steady s0 (lockIndex s m q).2 := by
  unfold lockIndex
  with_reducible
    repeat' first
      | assumption | apply tellBroken_steady | intro _ | split | dsimp only | apply Steady.mk'

theorem unlockIndex_steady {s0 s : State} (hS : Steady s0 s) (m : Fin 2) (q : EnyReq) :
    Steady s0 (unlockIndex s m q).2 := by
  unfold unlockIndex
  with_reducible
    repeat' first
      | assumption | intro _ | split | apply Steady.mk'

theorem execLockLeaseExpiry_steady {s0 s : State} (hS : Steady s0 s) (master : Fin 2) :
    SteadyR s0 (execLockLeaseExpiry master s) := by
  unfold execLockLeaseExpiry
  with_reducible
    repeat' first
      | assumption | apply Steady.next | apply State.each_steady | apply tellBroken_steady | apply dropLocks_steady
      | intro _

theorem describeObject_steady {s0 s : State} (hS : Steady s0 s) (o : Obj) (q : EnyReq) :
    Steady s0 (describeObject s o q).2 := by
  unfold describeObject
  with_reducible
    repeat' first
      | assumption

theorem answerRequest_steady {s0 s : State} (hS : Steady s0 s) (m : Fin 2) (q : EnyReq) (secure : Bool) :
    Steady s0 (answerRequest s m q secure).2 := by
  unfold answerRequest
  with_reducible
    repeat' first
      | assumption | apply lockIndex_steady | apply unlockIndex_steady | apply readObject_steady
      | apply writeObject_steady | apply describeObject_steady | split

theorem answerHost_steady {s0 s : State} (hS : Steady s0 s) (bs : List Byte) : Steady s0 (answerHost s bs) := by
  unfold answerHost
  with_reducible
    repeat' first
      | assumption | apply State.when_steady | apply State.emit_steady | apply signalVector_steady | intro _
      | apply Steady.mk'

theorem answerContrail_steady {s0 s : State} (hS : Steady s0 s) (type : Nat) (bs : List Byte) :
    Steady s0 (answerContrail s type bs) := by
  unfold answerContrail
  with_reducible
    repeat' first
      | assumption | apply State.emit_steady

theorem deliverAnswer_steady {s0 s : State} (hS : Steady s0 s) (m : Fin 2) (bs : List Byte) :
    Steady s0 (deliverAnswer s m bs) := by
  unfold deliverAnswer
  with_reducible
    repeat' first
      | assumption | apply answerHost_steady | apply answerContrail_steady | split

theorem request_steady {s0 s : State} (hS : Steady s0 s) (m : Fin 2) (q : EnyReq) (secure : Bool) :
    Steady s0 (request s m q secure) := by
  unfold request
  with_reducible
    repeat' first
      | assumption | apply answerRequest_steady | apply packageReset_steady | apply deliverAnswer_steady | split
      | dsimp only

theorem execEnytreRead_steady {s0 s : State} (hS : Steady s0 s) (master : Fin 2) (seq : BitVec 8) (index : BitVec
    16) (sub : BitVec 8) (len : BitVec 16) (offset : BitVec 32) (secure : Bool) :
    SteadyR s0 (execEnytreRead master seq index sub len offset secure s) := by
  unfold execEnytreRead
  with_reducible
    repeat' first
      | assumption | apply Steady.next | apply request_steady

theorem execEnytreWrite_steady {s0 s : State} (hS : Steady s0 s) (master : Fin 2) (seq : BitVec 8) (index : BitVec
    16) (sub : BitVec 8) (offset : BitVec 32) (data : List Byte) (secure : Bool) :
    SteadyR s0 (execEnytreWrite master seq index sub offset data secure s) := by
  unfold execEnytreWrite
  with_reducible
    repeat' first
      | assumption | apply Steady.next | apply request_steady

theorem execEnytreLock_steady {s0 s : State} (hS : Steady s0 s) (master : Fin 2) (seq : BitVec 8) (index : BitVec
    16) (sub : BitVec 8) (secure : Bool) :
    SteadyR s0 (execEnytreLock master seq index sub secure s) := by
  unfold execEnytreLock
  with_reducible
    repeat' first
      | assumption | apply Steady.next | apply request_steady

theorem execEnytreUnlock_steady {s0 s : State} (hS : Steady s0 s) (master : Fin 2) (seq : BitVec 8) (index :
    BitVec 16) (sub : BitVec 8) (secure : Bool) :
    SteadyR s0 (execEnytreUnlock master seq index sub secure s) := by
  unfold execEnytreUnlock
  with_reducible
    repeat' first
      | assumption | apply Steady.next | apply request_steady

theorem execEnytreDescribe_steady {s0 s : State} (hS : Steady s0 s) (master : Fin 2) (seq : BitVec 8) (index :
    BitVec 16) (sub : BitVec 8) :
    SteadyR s0 (execEnytreDescribe master seq index sub s) := by
  unfold execEnytreDescribe
  with_reducible
    repeat' first
      | assumption | apply Steady.next | apply request_steady

theorem execEnytreBadOpcode_steady {s0 s : State} (hS : Steady s0 s) (master : Fin 2) (opcode : BitVec 8) (seq :
    BitVec 8) (index : BitVec 16) (sub : BitVec 8) :
    SteadyR s0 (execEnytreBadOpcode master opcode seq index sub s) := by
  unfold execEnytreBadOpcode
  with_reducible
    repeat' first
      | assumption | apply Steady.next | apply request_steady | split

theorem execStateCommandOperational_steady {s0 s : State} (hS : Steady s0 s) (master : Fin 2) (seq : BitVec 8)
    (secure : Bool) :
    SteadyR s0 (execStateCommandOperational master seq secure s) := by
  unfold execStateCommandOperational
  with_reducible
    repeat' first
      | assumption | apply Steady.next | apply request_steady

theorem execStateCommandPreop_steady {s0 s : State} (hS : Steady s0 s) (master : Fin 2) (seq : BitVec 8) (secure :
    Bool) :
    SteadyR s0 (execStateCommandPreop master seq secure s) := by
  unfold execStateCommandPreop
  with_reducible
    repeat' first
      | assumption | apply Steady.next | apply request_steady

theorem execStateCommandStop_steady {s0 s : State} (hS : Steady s0 s) (master : Fin 2) (seq : BitVec 8) (secure :
    Bool) :
    SteadyR s0 (execStateCommandStop master seq secure s) := by
  unfold execStateCommandStop
  with_reducible
    repeat' first
      | assumption | apply Steady.next | apply request_steady

theorem execReservationWrite_steady {s0 s : State} (hS : Steady s0 s) (master : Fin 2) (seq : BitVec 8) (sub :
    BitVec 8) (value : BitVec 32) (secure : Bool) :
    SteadyR s0 (execReservationWrite master seq sub value secure s) := by
  unfold execReservationWrite
  with_reducible
    repeat' first
      | assumption | apply Steady.next | apply request_steady | split

theorem execPowerBudgetWrite_steady {s0 s : State} (hS : Steady s0 s) (master : Fin 2) (seq : BitVec 8) (value :
    BitVec 16) (secure : Bool) :
    SteadyR s0 (execPowerBudgetWrite master seq value secure s) := by
  unfold execPowerBudgetWrite
  with_reducible
    repeat' first
      | assumption | apply Steady.next | apply request_steady

theorem execPackageResetWrite_steady {s0 s : State} (hS : Steady s0 s) (master : Fin 2) (seq : BitVec 8) (secure :
    Bool) :
    SteadyR s0 (execPackageResetWrite master seq secure s) := by
  unfold execPackageResetWrite
  with_reducible
    repeat' first
      | assumption | apply Steady.next | apply request_steady

theorem execComputeResetWrite_steady {s0 s : State} (hS : Steady s0 s) (master : Fin 2) (seq : BitVec 8) (secure :
    Bool) :
    SteadyR s0 (execComputeResetWrite master seq secure s) := by
  unfold execComputeResetWrite
  with_reducible
    repeat' first
      | assumption | apply Steady.next | apply request_steady

theorem execComputeResetBondWrite_steady {s0 s : State} (hS : Steady s0 s) (master : Fin 2) (seq : BitVec 8)
    (secure : Bool) :
    SteadyR s0 (execComputeResetBondWrite master seq secure s) := by
  unfold execComputeResetBondWrite
  with_reducible
    repeat' first
      | assumption | apply Steady.next | apply request_steady

theorem mailboxGo_steady {s0 s : State} (hS : Steady s0 s) (v : Nat) : Steady s0 (mailboxGo s v) := by
  unfold mailboxGo
  with_reducible
    repeat' first
      | assumption | apply State.bump_steady | apply request_steady | intro _ | split | dsimp only | apply Steady.mk'

theorem execMailboxGo_steady {s0 s : State} (hS : Steady s0 s) (value : BitVec 32) :
    SteadyR s0 (execMailboxGo value s) := by
  unfold execMailboxGo
  with_reducible
    repeat' first
      | assumption | apply Steady.next | apply mailboxGo_steady

theorem execZenithRestartDone_steady {s0 s : State} (hS : Steady s0 s) (die : DieId) :
    SteadyR s0 (execZenithRestartDone die s) := by
  unfold execZenithRestartDone
  with_reducible
    repeat' first
      | assumption | apply Steady.next | apply answerHost_steady | intro _ | split | apply Steady.mk'

theorem execI3cEntdaa_steady {s0 s : State} (hS : Steady s0 s) (addr : BitVec 7) :
    SteadyR s0 (execI3cEntdaa addr s) := by
  unfold execI3cEntdaa
  with_reducible
    repeat' first
      | assumption | apply Steady.next | apply State.setObj_steady | split

theorem execI3cSetdasa_steady {s0 s : State} (hS : Steady s0 s) (static : BitVec 7) (addr : BitVec 7) :
    SteadyR s0 (execI3cSetdasa static addr s) := by
  unfold execI3cSetdasa
  with_reducible
    repeat' first
      | assumption | apply Steady.next | apply State.setObj_steady | split

theorem execI3cSetmrl_steady {s0 s : State} (hS : Steady s0 s) (n : BitVec 16) : SteadyR s0 (execI3cSetmrl n s) := by
  unfold execI3cSetmrl
  with_reducible
    repeat' first
      | assumption | apply Steady.next | intro _ | split | apply Steady.mk'

theorem execI3cSetmwl_steady {s0 s : State} (hS : Steady s0 s) (n : BitVec 16) : SteadyR s0 (execI3cSetmwl n s) := by
  unfold execI3cSetmwl
  with_reducible
    repeat' first
      | assumption | apply Steady.next | intro _ | split | apply Steady.mk'

theorem execI3cRstdaa_steady {s0 s : State} (hS : Steady s0 s) : SteadyR s0 (execI3cRstdaa s) := by
  unfold execI3cRstdaa
  with_reducible
    repeat' first
      | assumption | apply Steady.next | apply dropLocks_steady | apply State.setObj_steady | split

theorem execI3cTargetReset_steady {s0 s : State} (hS : Steady s0 s) : SteadyR s0 (execI3cTargetReset s) := by
  unfold execI3cTargetReset
  with_reducible
    repeat' first
      | assumption | apply Steady.next | apply dropLocks_steady | split

theorem execMctpMessageReceive_steady {s0 s : State} (hS : Steady s0 s) (type : BitVec 8) (body : List Byte) (good
    : Bool) (secure : Bool) :
    SteadyR s0 (execMctpMessageReceive type body good secure s) := by
  unfold execMctpMessageReceive
  with_reducible
    repeat' first
      | assumption | apply Steady.next | apply State.bump_steady | apply request_steady | split

theorem execMctpSetEndpointId_steady {s0 s : State} (hS : Steady s0 s) (eid : BitVec 8) :
    SteadyR s0 (execMctpSetEndpointId eid s) := by
  unfold execMctpSetEndpointId
  with_reducible
    repeat' first
      | assumption | apply Steady.next | apply State.when_steady | apply State.setObj_steady
      | apply answerContrail_steady | intro _ | split

theorem execMctpGetEndpointId_steady {s0 s : State} (hS : Steady s0 s) : SteadyR s0 (execMctpGetEndpointId s) := by
  unfold execMctpGetEndpointId
  with_reducible
    repeat' first
      | assumption | apply Steady.next | apply answerContrail_steady | split

theorem execMctpGetVersionSupport_steady {s0 s : State} (hS : Steady s0 s) :
    SteadyR s0 (execMctpGetVersionSupport s) := by
  unfold execMctpGetVersionSupport
  with_reducible
    repeat' first
      | assumption | apply Steady.next | apply State.draw_steady | apply answerContrail_steady | split

theorem execMctpGetMessageTypeSupport_steady {s0 s : State} (hS : Steady s0 s) :
    SteadyR s0 (execMctpGetMessageTypeSupport s) := by
  unfold execMctpGetMessageTypeSupport
  with_reducible
    repeat' first
      | assumption | apply Steady.next | apply answerContrail_steady | split

/-! ## Machine/Attest.lean -/

theorem answerPldm_steady {s0 s : State} (hS : Steady s0 s) (m : Fin 2) (code : Nat) (data : List Byte) :
    Steady s0 (answerPldm s m code data) := by
  unfold answerPldm
  with_reducible
    repeat' first
      | assumption | apply answerHost_steady | apply answerContrail_steady | split

theorem pldm_steady {s0 s : State} (hS : Steady s0 s) (m : Fin 2) (f : State → Nat × List Byte × State) (hF : ∀
    x0, Steady s0 x0 → Steady s0 (f x0).2.2) :
    Steady s0 (pldm s m f) := by
  unfold pldm
  with_reducible
    repeat' first
      | assumption | apply answerPldm_steady | apply hF | split

theorem execPldmBaseDiscovery_steady {s0 s : State} (hS : Steady s0 s) (master : Fin 2) :
    SteadyR s0 (execPldmBaseDiscovery master s) := by
  unfold execPldmBaseDiscovery
  with_reducible
    repeat' first
      | assumption | apply Steady.next | apply pldm_steady | intro _

theorem execPldmSensorRead_steady {s0 s : State} (hS : Steady s0 s) (master : Fin 2) (sensor : BitVec 16) :
    SteadyR s0 (execPldmSensorRead master sensor s) := by
  unfold execPldmSensorRead
  with_reducible
    repeat' first
      | assumption | apply Steady.next | apply pldm_steady | apply clearRead_steady | intro _ | split

theorem execPldmSetThreshold_steady {s0 s : State} (hS : Steady s0 s) (master : Fin 2) (sensor : BitVec 16) (sub :
    BitVec 8) (data : List Byte) :
    SteadyR s0 (execPldmSetThreshold master sensor sub data s) := by
  unfold execPldmSetThreshold
  with_reducible
    repeat' first
      | assumption | apply Steady.next | apply pldm_steady | apply writeObject_steady | intro _ | split

theorem modSlot_steady {s0 s : State} (hS : Steady s0 s) (i : Fin 2) (f : FwSlot → FwSlot) :
    Steady s0 (modSlot s i f) := by
  unfold modSlot
  with_reducible
    repeat' first
      | assumption | apply State.modLife_steady

theorem execPldmRequestUpdate_steady {s0 s : State} (hS : Steady s0 s) (master : Fin 2) :
    SteadyR s0 (execPldmRequestUpdate master s) := by
  unfold execPldmRequestUpdate
  with_reducible
    repeat' first
      | assumption | apply Steady.next | apply pldm_steady | apply State.modLife_steady | apply modSlot_steady
      | intro _ | split

theorem execPldmTransferEnd_steady {s0 s : State} (hS : Steady s0 s) (master : Fin 2) (image : List Byte) (version
    : BitVec 32) (rollback : BitVec 16) :
    SteadyR s0 (execPldmTransferEnd master image version rollback s) := by
  unfold execPldmTransferEnd
  with_reducible
    repeat' first
      | assumption | apply Steady.next | apply pldm_steady | apply State.modLife_steady | apply modSlot_steady
      | intro _ | split

theorem execPldmActivateFirmware_steady {s0 s : State} (hS : Steady s0 s) (master : Fin 2) (selfContained : Bool) :
    SteadyR s0 (execPldmActivateFirmware master selfContained s) := by
  unfold execPldmActivateFirmware
  with_reducible
    repeat' first
      | assumption | apply Steady.next | apply pldm_steady | apply State.modLife_steady | apply modSlot_steady
      | intro _ | split

theorem answerSpdm_steady {s0 s : State} (hS : Steady s0 s) (m : Fin 2) (bs : List Byte) :
    Steady s0 (answerSpdm s m bs) := by
  unfold answerSpdm
  with_reducible
    repeat' first
      | assumption | apply State.emit_steady | apply answerContrail_steady | split

theorem setSpdm_steady {s0 s : State} (hS : Steady s0 s) (m : Fin 2) (x : Spdm) : Steady s0 (setSpdm s m x) := by
  unfold setSpdm
  with_reducible
    repeat' first
      | assumption | intro _ | apply Steady.mk'

theorem spdm_steady {s0 s : State} (hS : Steady s0 s) (m : Fin 2) (ok : Spdm → Bool) (f : State → Spdm → Spdm ×
    List Byte × State) (hF : ∀ x0 x1, Steady s0 x0 → Steady s0 (f x0 x1).2.2) :
    Steady s0 (spdm s m ok f) := by
  unfold spdm
  with_reducible
    repeat' first
      | assumption | apply answerSpdm_steady | apply setSpdm_steady | apply State.bump_steady | apply hF | split
      | dsimp only

theorem signature_steady {s0 s : State} (hS : Steady s0 s) : Steady s0 (signature s).2 := by
  unfold signature
  with_reducible
    repeat' first
      | assumption | apply State.draw_steady

theorem execSpdmGetVersion_steady {s0 s : State} (hS : Steady s0 s) (master : Fin 2) :
    SteadyR s0 (execSpdmGetVersion master s) := by
  unfold execSpdmGetVersion
  with_reducible
    repeat' first
      | assumption | apply Steady.next | apply spdm_steady | intro _

theorem execSpdmGetCapabilities_steady {s0 s : State} (hS : Steady s0 s) (master : Fin 2) :
    SteadyR s0 (execSpdmGetCapabilities master s) := by
  unfold execSpdmGetCapabilities
  with_reducible
    repeat' first
      | assumption | apply Steady.next | apply spdm_steady | apply State.draw_steady | intro _

theorem execSpdmNegotiateAlgorithms_steady {s0 s : State} (hS : Steady s0 s) (master : Fin 2) (offers : Bool) :
    SteadyR s0 (execSpdmNegotiateAlgorithms master offers s) := by
  unfold execSpdmNegotiateAlgorithms
  with_reducible
    repeat' first
      | assumption | apply Steady.next | apply spdm_steady | intro _

theorem execSpdmGetDigests_steady {s0 s : State} (hS : Steady s0 s) (master : Fin 2) :
    SteadyR s0 (execSpdmGetDigests master s) := by
  unfold execSpdmGetDigests
  with_reducible
    repeat' first
      | assumption | apply Steady.next | apply spdm_steady | intro _

theorem execSpdmGetCertificate_steady {s0 s : State} (hS : Steady s0 s) (master : Fin 2) (slot : BitVec 8) (offset
    : BitVec 16) (len : BitVec 16) :
    SteadyR s0 (execSpdmGetCertificate master slot offset len s) := by
  unfold execSpdmGetCertificate
  with_reducible
    repeat' first
      | assumption | apply Steady.next | apply spdm_steady | intro _

theorem execSpdmChallenge_steady {s0 s : State} (hS : Steady s0 s) (master : Fin 2) (slot : BitVec 8) :
    SteadyR s0 (execSpdmChallenge master slot s) := by
  unfold execSpdmChallenge
  with_reducible
    repeat' first
      | assumption | apply Steady.next | apply spdm_steady | apply signature_steady | intro _

theorem execSpdmGetMeasurements_steady {s0 s : State} (hS : Steady s0 s) (master : Fin 2) (index : BitVec 8)
    (signed : Bool) :
    SteadyR s0 (execSpdmGetMeasurements master index signed s) := by
  unfold execSpdmGetMeasurements
  with_reducible
    repeat' first
      | assumption | apply Steady.next | apply spdm_steady | apply signature_steady | intro _ | split

theorem execSpdmKeyExchange_steady {s0 s : State} (hS : Steady s0 s) (master : Fin 2) (slot : BitVec 8) :
    SteadyR s0 (execSpdmKeyExchange master slot s) := by
  unfold execSpdmKeyExchange
  with_reducible
    repeat' first
      | assumption | apply Steady.next | apply spdm_steady | apply signature_steady | intro _

theorem execSpdmFinish_steady {s0 s : State} (hS : Steady s0 s) (master : Fin 2) (good : Bool) :
    SteadyR s0 (execSpdmFinish master good s) := by
  unfold execSpdmFinish
  with_reducible
    repeat' first
      | assumption | apply Steady.next | apply setSpdm_steady | apply spdm_steady | intro _ | split

theorem execSpdmHeartbeat_steady {s0 s : State} (hS : Steady s0 s) (master : Fin 2) :
    SteadyR s0 (execSpdmHeartbeat master s) := by
  unfold execSpdmHeartbeat
  with_reducible
    repeat' first
      | assumption | apply Steady.next | apply spdm_steady | intro _

theorem execSpdmKeyUpdate_steady {s0 s : State} (hS : Steady s0 s) (master : Fin 2) :
    SteadyR s0 (execSpdmKeyUpdate master s) := by
  unfold execSpdmKeyUpdate
  with_reducible
    repeat' first
      | assumption | apply Steady.next | apply spdm_steady | intro _

theorem execSpdmEndSession_steady {s0 s : State} (hS : Steady s0 s) (master : Fin 2) :
    SteadyR s0 (execSpdmEndSession master s) := by
  unfold execSpdmEndSession
  with_reducible
    repeat' first
      | assumption | apply Steady.next | apply spdm_steady | intro _

theorem answerLicence_steady {s0 s : State} (hS : Steady s0 s) (m : Fin 2) (code : Nat) (data : List Byte) :
    Steady s0 (answerLicence s m code data) := by
  unfold answerLicence
  with_reducible
    repeat' first
      | assumption | apply answerSpdm_steady

theorem execLicenceInstall_steady {s0 s : State} (hS : Steady s0 s) (master : Fin 2) (record : List Byte) :
    SteadyR s0 (execLicenceInstall master record s) := by
  unfold execLicenceInstall
  with_reducible
    repeat' first
      | assumption | apply Steady.next | apply State.when_steady | apply answerLicence_steady | intro _ | split
      | apply Steady.mk'

theorem execLicenceList_steady {s0 s : State} (hS : Steady s0 s) (master : Fin 2) :
    SteadyR s0 (execLicenceList master s) := by
  unfold execLicenceList
  with_reducible
    repeat' first
      | assumption | apply Steady.next | apply answerLicence_steady | split

theorem execLicenceRemove_steady {s0 s : State} (hS : Steady s0 s) (master : Fin 2) (serial : BitVec 64) (secure :
    Bool) :
    SteadyR s0 (execLicenceRemove master serial secure s) := by
  unfold execLicenceRemove
  with_reducible
    repeat' first
      | assumption | apply Steady.next | apply State.when_steady | apply answerLicence_steady | intro _ | split
      | apply Steady.mk'

/-! ## Machine/Regs.lean -/

theorem andThen_steady {s0 s : State} {r : Result} (hS : Steady s0 s) (hR : SteadyR s0 r) : Steady s0 (andThen r s) := by
  unfold andThen
  split
  · exact hR.ofNext _ rfl
  · exact hS

theorem writeDieControl_steady {s0 s : State} (hS : Steady s0 s) (d : DieId) (o : Nat) (w : Nat) :
    Steady s0 (writeDieControl s d o w) := by
  unfold writeDieControl
  with_reducible
    repeat' first
      | assumption | apply State.when_steady | apply State.modCore_steady | apply andThen_steady
      | apply execRegionApply_steady | intro _ | split

theorem writeRegion_steady {s0 s : State} (hS : Steady s0 s) (d : DieId) (first : Nat) (o : Nat) (v : Nat) :
    Steady s0 (writeRegion s d first o v) := by
  unfold writeRegion
  with_reducible
    repeat' first
      | assumption | apply State.modDie_steady | split

theorem writeStratus_steady {s0 s : State} (hS : Steady s0 s) (d : DieId) (o : Nat) (v : Nat) :
    Steady s0 (writeStratus s d o v) := by
  unfold writeStratus
  with_reducible
    repeat' first
      | assumption | apply writeRing_steady | apply writeRegion_steady | split

theorem writeCacheHbm_steady {s0 s : State} (hS : Steady s0 s) (d : DieId) (o : Nat) (v : Nat) (w : Nat) :
    Steady s0 (writeCacheHbm s d o v w) := by
  unfold writeCacheHbm
  with_reducible
    repeat' first
      | assumption | apply State.when_steady | apply writeBackDie_steady | apply demoteDie_steady
      | apply writeKeep_steady | apply writeRegion_steady | intro _ | split

theorem writePortCtrl_steady {s0 s : State} (hS : Steady s0 s) (p : PortId) (v : Nat) (w : Nat) :
    Steady s0 (writePortCtrl s p v w) := by
  unfold writePortCtrl
  with_reducible
    repeat' first
      | assumption | apply State.when_steady | apply State.modPort_steady | apply disablePort_steady
      | apply andThen_steady | apply execPortEnable_steady | apply settlePort_steady | apply enterRetraining_steady
      | intro _ | split

theorem writeDsReg_steady {s0 s : State} (hS : Steady s0 s) (p : PortId) (f : Port → Port) :
    Steady s0 (writeDsReg s p f) := by
  unfold writeDsReg
  with_reducible
    repeat' first
      | assumption | apply lockedWrite_steady | apply State.modPort_steady | split

theorem writePorts_steady {s0 s : State} (hS : Steady s0 s) (d : DieId) (o : Nat) (v : Nat) (w : Nat) :
    Steady s0 (writePorts s d o v w) := by
  unfold writePorts
  with_reducible
    repeat' first
      | assumption | apply writePortCtrl_steady | apply writeDsCtrl_steady | apply writeDsReg_steady | split

theorem writeSrcCfg_steady {s0 s : State} (hS : Steady s0 s) (n : Nat) (zenith : Bool) (v : Nat) :
    Steady s0 (writeSrcCfg s n zenith v) := by
  unfold writeSrcCfg
  with_reducible
    repeat' first
      | assumption | apply State.setSrc_steady | split

theorem writeEqState_steady {s0 s : State} (hS : Steady s0 s) (d : DieId) (v : Nat) :
    Steady s0 (writeEqState s d v) := by
  unfold writeEqState
  with_reducible
    repeat' first
      | assumption | apply State.setIc_steady | apply andThen_steady | apply execEqHeadAdvance_steady | split
      | dsimp only

theorem writeIcMode_steady {s0 s : State} (hS : Steady s0 s) (d : DieId) (v : Nat) :
    Steady s0 (writeIcMode s d v) := by
  unfold writeIcMode
  with_reducible
    repeat' first
      | assumption | apply andThen_steady | apply execIcModeClaimWrite_steady | apply enterQueue_steady | split

theorem writeInterrupts_steady {s0 s : State} (hS : Steady s0 s) (req : Fin 17) (d : DieId) (o : Nat) (v : Nat)
    (w : Nat) (lo : Bool) : Steady s0 (writeInterrupts s req d o v w lo) := by
  unfold writeInterrupts
  with_reducible
    repeat' first
      | assumption | apply writeSrcCfg_steady | apply State.when_steady | apply releaseSource_steady
      | apply writeIcMode_steady | apply writeEqState_steady | apply completeClaim_steady | intro _ | split
      | dsimp only | apply Steady.mk'

theorem writeCtCtrl_steady {s0 s : State} (hS : Steady s0 s) (d : DieId) (how : MemOutcome) (v : Nat) (w : Nat) :
    Steady s0 (writeCtCtrl s d how v w) := by
  unfold writeCtCtrl
  with_reducible
    repeat' first
      | assumption | apply modCt_steady | apply andThen_steady | apply execCtReadRaw_steady
      | apply execCtWriteRaw_steady | apply execCtEncode_steady | apply execCtReadDecoded_steady | split

theorem writeDebug_steady {s0 s : State} (hS : Steady s0 s) (d : DieId) (how : MemOutcome) (o : Nat) (v : Nat)
    (w : Nat) (lo : Bool) (hi : Bool) : Steady s0 (writeDebug s d how o v w lo hi) := by
  unfold writeDebug
  with_reducible
    repeat' first
      | assumption | apply modCt_steady | apply writeCtCtrl_steady | intro _ | split

theorem writeDie_steady {s0 s : State} (hS : Steady s0 s) (req : Fin 17) (d : DieId) (how : MemOutcome) (o : Nat)
    (v : Nat) (w : Nat) (lo : Bool) (hi : Bool) : Steady s0 (writeDie s req d how o v w lo hi) := by
  unfold writeDie
  with_reducible
    repeat' first
      | assumption | apply writeDieControl_steady | apply writeStratus_steady | apply writeCacheHbm_steady
      | apply writePorts_steady | apply writeInterrupts_steady | apply State.when_steady | apply clearCross_steady
      | apply writeDebug_steady | intro _ | split

theorem writeQueueReg_steady {s0 s : State} (hS : Steady s0 s) (q : Fin 64) (o : Nat) (v : Nat) :
    Steady s0 (writeQueueReg s q o v) := by
  unfold writeQueueReg
  with_reducible
    repeat' first
      | assumption | apply modQueue_steady | apply writeQCtrl_steady | split

theorem writeRingReg_steady {s0 s : State} (hS : Steady s0 s) (r : Fin 8) (o : Nat) (v : Nat) :
    Steady s0 (writeRingReg s r o v) := by
  unfold writeRingReg
  with_reducible
    repeat' first
      | assumption | apply writeRingCtrl_steady | intro _ | split | apply Steady.mk'

theorem writeMsix_steady {s0 s : State} (hS : Steady s0 s) (o : Nat) (v : Nat) : Steady s0 (writeMsix s o v) := by
  unfold writeMsix
  with_reducible
    repeat' first
      | assumption | apply State.when_steady | apply unmaskVector_steady | intro _ | split | apply Steady.mk'

theorem writeTables_steady {s0 s : State} (hS : Steady s0 s) (o : Nat) (v : Nat) (lo : Bool) (hi : Bool) :
    Steady s0 (writeTables s o v lo hi) := by
  unfold writeTables
  with_reducible
    repeat' first
      | assumption | apply State.when_steady | apply raise_steady | intro _ | split | dsimp only | apply Steady.mk'

theorem writePackage_steady {s0 s : State} (hS : Steady s0 s) (o : Nat) (v : Nat) (lo : Bool) (hi : Bool) :
    Steady s0 (writePackage s o v lo hi) := by
  unfold writePackage
  with_reducible
    repeat' first
      | assumption | apply writeTables_steady | apply writeQueueReg_steady | apply writeRingReg_steady
      | apply writeWinBase_steady | apply writeMsix_steady | split

theorem writeMailbox_steady {s0 s : State} (hS : Steady s0 s) (o : Nat) (v : Nat) (w : Nat) (lo : Bool) :
    Steady s0 (writeMailbox s o v w lo) := by
  unfold writeMailbox
  with_reducible
    repeat' first
      | assumption | apply State.when_steady | apply mailboxGo_steady | intro _ | split | apply Steady.mk'

theorem execRegisterWrite_steady {s0 s : State} (hS : Steady s0 s) (req : Fin 17) (fn : Fin 2) (addr : BitVec 28)
    (wide : Bool) (value : BitVec 64) (how : MemOutcome)
    : SteadyR s0 (execRegisterWrite req fn addr wide value how s) := by
  unfold execRegisterWrite
  with_reducible
    repeat' first
      | assumption | apply Steady.next | apply State.emit_steady | apply State.when_steady | apply writeMailbox_steady
      | apply writePackage_steady | apply writeDie_steady | intro _ | split

theorem readEffect_steady {s0 s : State} (hS : Steady s0 s) (req : Fin 17) (a : Nat) :
    Steady s0 (readEffect s req a) := by
  unfold readEffect
  with_reducible
    repeat' first
      | assumption | apply State.when_steady | apply sampleLevel_steady | intro _

theorem readHalf1_steady {s0 s : State} (hS : Steady s0 s) (req : Fin 17) (a : Nat) (at' : Nat)
    : Steady s0 (readHalf1 s req a at') := by
  unfold readHalf1
  with_reducible
    repeat' first
      | assumption | apply State.when_steady | apply returnRead_steady | intro _

theorem execLowHalfRead_steady {s0 s : State} (hS : Steady s0 s) (req : Fin 17) (reg : RegPlace) :
    SteadyR s0 (execLowHalfRead req reg s) := by
  unfold execLowHalfRead
  with_reducible
    repeat' first
      | assumption | apply Steady.next | apply readEffect_steady | apply State.when_steady | apply setSnap_steady
      | apply readHalf1_steady | apply returnRead_steady | intro _ | split

theorem execHighHalfRead_steady {s0 s : State} (hS : Steady s0 s) (req : Fin 17) (reg : RegPlace) :
    SteadyR s0 (execHighHalfRead req reg s) := by
  unfold execHighHalfRead
  with_reducible
    repeat' first
      | assumption | apply Steady.next | apply readEffect_steady | apply readHalf1_steady | apply returnRead_steady
      | intro _ | split

theorem execNfRecordClear_steady {s0 s : State} (hS : Steady s0 s) (core : CoreId) :
    SteadyR s0 (execNfRecordClear core s) := by
  unfold execNfRecordClear
  with_reducible
    repeat' first
      | assumption | apply Steady.next | apply State.modCore_steady

end Sys2Proof.Machine
end

