-- ==== Sys2Proof/WellFormed.lean ====
section
/-!
DEFINITION. WellFormed.lean: what the types of a command's operands leave open: lists of a stated length, values that the
hardware cannot present. An ill-formed command never reaches the package; its meaning is total all the same.
-/
namespace Sys2Proof

/-- Read data of a stated length, or none. -/
def sized (n : Nat) : Option (List Byte) → Bool
  | none => true
  | some bs => bs.length == n

/-- A list with one entry for each port. -/
def perPort (l : List Nat) : Bool := l.length == 24

/-- The bytes of a frame: a header of 12 bytes, a payload of 0 to 512 bytes in multiples of 16, and a CRC of 4 (10 R213). -/
def frameSized (bs : List Byte) : Bool := 16 ≤ bs.length && bs.length ≤ 528 && bs.length % 16 == 0

/-- Lanes that exist: layers 0 to 3, groups 0 to 511 (18 R416). -/
def lanesOk (b : BondResult) : Bool := b.lanes.all fun l => l.1 < 4 && l.2 < 512

/-- An outcome of the swatch test: one entry for each physical core (18 R405). -/
def swatchSized (l : List (List (Nat × Nat))) : Bool := l.length ≤ 32

/-- Can the hardware present this command. -/
def Instr.wf : Instr → Bool
  | .commandFetch bytes => sized 64 bytes
  | .timebaseTick delays => perPort delays
  | .tickInEdge _ delays => perPort delays
  | .markerReceive _ frame _ delays => frameSized frame && perPort delays
  | .waveReceive _ frame _ _ => frameSized frame
  | .probeReceive _ frame _ _ _ => frameSized frame
  | .dataFrameReceive _ frame _ _ => frameSized frame
  | .ctrlFrameReceive _ frame _ => frameSized frame
  | .bar2Read _ len _ => 0 < len
  | .bar2Write _ bytes _ _ => !bytes.isEmpty
  | .registerWrite req fn _ _ _ _ => fn.val == 0 || req.val == 0
  | .lowHalfRead req reg | .highHalfRead req reg => reg.fn.val == 0 || req.val == 0
  | .msixUnmask fn (.vector vec) => fn.val == 0 || vec.val < 16
  | .msixUnmask _ (.control _ _) => true
  | .controllerStep _ _ _ cores _ _ => cores.length == 4
  | .sensorRead _ readings _ => readings.length == 64
  | .sensorCheck _ estimates => estimates.length == 64
  | .ageingReplan growth => growth.length == 32
  | .stratusBringup _ bond => lanesOk bond
  | .computeResetContinue bond swatch => bond.all lanesOk && swatchSized swatch
  | .computeBringup swatch => swatchSized swatch
  | .reservedOpcodeTrap _ op _ _ => !assignedOp op.toNat
  | .reservationWrite _ _ sub _ _ => sub == 2 || sub == 4 || sub == 5
  | .sop .. | .sopi .. | .sli .. | .sld .. | .sst .. | .scmp .. | .scmpi .. | .pset .. | .br .. | .call ..
  | .jmpr .. | .srd .. | .dset .. | .dget .. | .dld .. | .dst .. | .dadv .. | .vbin .. | .vfma .. | .vun ..
  | .vred .. | .mmul .. | .mwld .. | .mrd .. | .pmv .. | .dma .. | .tld .. | .coll .. | .exch .. | .upd ..
  | .fend .. | .waitq .. | .bankset .. | .flagset .. | .flagrd .. | .ptag ..
  | .trapRecordWrite .. | .icacheLineFill .. | .issueQueueSpace .. | .scalarAccessDone ..
  | .descriptorFetchDone .. | .queueInstructionDone .. | .waitqRelease .. | .handoverEffect .. | .fendRetire ..
  | .flagrdPayloadFinal .. | .srdScaleRelease .. | .matrixFoldBoundary .. | .cirrusProductEnd ..
  | .bulkChannelAssign .. | .dmaSegmentDone .. | .dmaSegmentFailed .. | .streamIn .. | .streamOut ..
  | .tickConflictEnd .. | .tickArrival .. | .tickLoss .. | .frameStart .. | .frameComplete ..
  | .frameWatchdog .. | .coreStopRecord .. | .imageEnd .. | .nop .. | .copyToDevice .. | .copyFromDevice ..
  | .copyChunkDone .. | .loadImage .. | .start .. | .stop .. | .stopCommandComplete .. | .resume ..
  | .unload .. | .exportShard .. | .importShard .. | .sqTailWrite .. | .cqHeadWrite .. | .evrHeadWrite ..
  | .queueEnable .. | .queueDisable .. | .eventRingEnable .. | .eventRingDisable .. | .winBaseWrite ..
  | .bar0BadAccess .. | .nfRecordClear .. | .flrFunction0 ..
  | .flrFunction1 .. | .perstNAssert .. | .perstNRelease .. | .enytreRead .. | .enytreWrite .. | .enytreLock ..
  | .enytreUnlock .. | .enytreDescribe .. | .enytreBadOpcode .. | .lockLeaseExpiry .. | .mailboxGo ..
  | .stateCommandOperational .. | .stateCommandPreop .. | .stateCommandStop .. | .powerBudgetWrite ..
  | .packageResetWrite .. | .computeResetWrite .. | .computeResetBondWrite .. | .zenithWatchdogExpiry ..
  | .zenithRestartDone .. | .i3cEntdaa .. | .i3cSetdasa .. | .i3cSetmrl .. | .i3cSetmwl .. | .i3cRstdaa ..
  | .i3cTargetReset .. | .mctpMessageReceive .. | .mctpSetEndpointId .. | .mctpGetEndpointId ..
  | .mctpGetVersionSupport .. | .mctpGetMessageTypeSupport .. | .pldmBaseDiscovery .. | .pldmSensorRead ..
  | .pldmSetThreshold .. | .pldmRequestUpdate .. | .pldmTransferEnd .. | .pldmActivateFirmware ..
  | .spdmGetVersion .. | .spdmGetCapabilities .. | .spdmNegotiateAlgorithms .. | .spdmGetDigests ..
  | .spdmGetCertificate .. | .spdmChallenge .. | .spdmGetMeasurements .. | .spdmKeyExchange .. | .spdmFinish ..
  | .spdmHeartbeat .. | .spdmKeyUpdate .. | .spdmEndSession .. | .licenceInstall .. | .licenceList ..
  | .licenceRemove .. | .sourceAssert .. | .stormWindowEnd .. | .extInputFilterChange .. | .extInputGlitch ..
  | .quarantineRelease .. | .claimRead .. | .completeWrite .. | .claimFastRead .. | .completeFastWrite ..
  | .srcStatusLevelSample .. | .icModeQueueWrite .. | .icModeClaimWrite .. | .eqHeadAdvance ..
  | .contrailEventSend .. | .regionApply .. | .regionApplyDone .. | .scrubStep .. | .ctReadRaw ..
  | .ctWriteRaw .. | .ctEncode .. | .ctReadDecoded .. | .cacheWriteBack .. | .cacheDemote .. | .keepWinWrite ..
  | .ringRegWrite .. | .portEnable .. | .portDisable .. | .portRetrainWrite .. | .portTrained ..
  | .portTrainSlow .. | .probeSend .. | .probeTimeout .. | .measureTimeout .. | .codewordLockLoss ..
  | .retrainTimeout .. | .dataFrameSend .. | .ackTimer .. | .dropstitchTriggerOff .. | .dropstitchTriggerNow ..
  | .dropstitchTriggerTick .. | .dropstitchSingleShot .. | .collAccept .. | .collChunkReceive ..
  | .collComplete .. | .exchAccept .. | .manifestReceive .. | .grantReceive .. | .rowReceive ..
  | .returnReceive .. | .dispatchFinish .. | .exchComplete .. | .updAccept .. | .gradientHandoff ..
  | .bandReady .. | .blockWritten .. | .refreshEnd .. | .fingerprintReceive .. | .gaugeTimeoutExpiry ..
  | .repairDone .. | .packageStep .. | .avsbusCommandDone .. | .droopDetect .. | .vrAlertFall ..
  | .vrAlertHoldEnd .. | .brownoutDip .. | .brownoutHoldEnd .. | .railResetLevel .. | .thermalThrottleStep ..
  | .remoteConversion .. | .thermalTrip .. | .operatingHour .. | .bondTestGraceExpiry .. | .vddAonRise ..
  | .sysResetNLow .. | .bootRom .. | .firmwareStart .. | .railsWaiting .. | .hbmBringup ..
  | .pendingSlotTimeout .. | .pllUnlock .. | .pllRelock .. | .refclkLoss .. | .crossingTimeout ..
  | .crossInfoClear .. | .vrAlertRise .. | .railAboveWarningLevel .. | .refclkReturn .. | .vddAonLoss ..
  | .exportRecordDone .. | .fuseUpdate .. => true

end Sys2Proof
end

