-- ==== Sys2Proof/Tests/Slice0.lean ====
section
/-!
SUPPORT. Tests/Slice0.lean: the model's own tests: the ill-formed commands that WellFormed refuses, values that the
specification gives, and for every statement with hypotheses a state and operands that meet them.
-/
namespace Sys2Proof.Tests

open Sys2Proof.Machine

/-! ## Ill-formed commands are refused -/

/-- A list of `n` zero bytes. -/
def zeros (n : Nat) : List Byte := List.replicate n 0

/-- The fetch of a command entry that has 1 byte in place of 64. -/
theorem test_illformed_fetch : Instr.wf (.commandFetch (some [0])) = false := by decide

/-- Delays for fewer than 24 ports. -/
theorem test_illformed_ticks : Instr.wf (.timebaseTick []) = false ∧
    Instr.wf (.tickInEdge 0 [1]) = false := by decide

/-- Frames too short, too long, or not a multiple of 16 bytes; a marker without its delays. -/
theorem test_illformed_frames : Instr.wf (.markerReceive 0 [] ⟨0, false⟩ (List.replicate 24 0)) = false ∧
    Instr.wf (.markerReceive 0 (zeros 48) ⟨0, false⟩ []) = false ∧
    Instr.wf (.waveReceive 0 (zeros 15) ⟨0, false⟩ 0) = false ∧ Instr.wf (.probeReceive 0 [] ⟨0, false⟩ 0 0) = false ∧
    Instr.wf (.dataFrameReceive 0 (zeros 17) 0 false) = false := by decide

/-- A frame longer than a header, 512 bytes and a CRC. -/
theorem test_illformed_long : Instr.wf (.ctrlFrameReceive 0 (zeros 544) ⟨0, false⟩) = false := by
  simp only [Instr.wf, frameSized, zeros, List.length_replicate]
  decide

/-- Accesses of no bytes; a requester inside the package at function 1; a vector that function 1 lacks. -/
theorem test_illformed_accesses : Instr.wf (.bar2Read 0 0 .good) = false ∧
    Instr.wf (.bar2Write 0 [] false false) = false ∧ Instr.wf (.registerWrite 1 1 0 false 0 .good) = false ∧
    Instr.wf (.msixUnmask 1 (.vector 16)) = false := by decide

/-- Powers of 3 cores, readings of 63 sensors, growths of 31 cores. -/
theorem test_illformed_power : Instr.wf (.controllerStep 0 0 0 [1, 2, 3] 0 false) = false ∧
    Instr.wf (.sensorRead 0 (List.replicate 63 0) none) = false ∧
    Instr.wf (.sensorCheck 0 (List.replicate 63 0)) = false ∧
    Instr.wf (.ageingReplan (List.replicate 31 0)) = false := by decide

/-- A lane of layer 4, outcomes for 33 cores, a reservation message of subindex 3. -/
theorem test_illformed_life : Instr.wf (.stratusBringup 0 ⟨[(4, 0)], []⟩) = false ∧
    Instr.wf (.computeResetContinue [⟨[(0, 512)], []⟩] []) = false ∧
    Instr.wf (.computeBringup (List.replicate 33 [])) = false ∧
    Instr.wf (.reservationWrite 0 0 3 0 false) = false := by decide

/-! ## States for the tests -/

/-- An image whose one segment is 4,096 bytes of code on die 0, and one of 2 MiB in core 0's scratchpad. -/
def demoImage : Image :=
  ⟨1, 1, 2, false, 0, 0, 4096, [⟨0x2000, 4096, 0, 1, 0, 0, 0⟩, ⟨0, 2097152, 1, 3, 0, 0, 0⟩], [], []⟩

/-- Core 0 runs a frame of that image; the package is OPERATIONAL with every core present. -/
def demo : State :=
  { State.reset with
    cores := State.reset.cores.set 0 { CoreState.reset with st := .running }
    run := { Run.reset with image := some demoImage, phase := .running, active := true }
    life := { Life.reset with stage := 6, present := BitVec.allOnes 32 }
    dict := kvSet 0 [] 0x100101 2 }

/-- The header of an instruction of one word, and of two, with no guard. -/
def hdr1 : Hdr := ⟨0, false, 0⟩
/-- Two words. -/
def hdr2 : Hdr := ⟨0, false, 1⟩

theorem demo_issues : Issues demo 0 1 hdr1 := by decide

theorem demo_issues_two : Issues demo 0 2 hdr2 := by decide

theorem witness_step : ({ demo with pending := [Instr.stormWindowEnd] } : State).pending = Instr.stormWindowEnd :: [] := by decide

theorem witness_registers : (3 < 32 ∧ 3 < 32) ∧ (7 < 8 ∧ 0 < 8) := by decide

theorem witness_alu : Issues demo 0 1 hdr1 ∧ ff 0 0 30 = 0 ∧ ff 0 32 3 = 0 ∧ Issues demo 0 2 hdr2 ∧ ff 0 0 46 = 0 ∧
    (scalarFn (ff 0 30 6) ((demo.core 0).sreg 0) ((demo.core 0).sreg 0)).isSome = true ∧
    (scalarFn (ff 0 35 6) ((demo.core 0).sreg 0) (immOperand 0 0)).isSome = true := by decide

theorem witness_compares : Issues demo 0 1 hdr1 ∧ ff 0 46 2 = 0 ∧ ff 0 0 32 = 0 ∧ ff 0 36 5 = 0 ∧ ff 0 0 38 = 0 ∧
    (condition (ff 0 32 4) ((demo.core 0).sreg 0) ((demo.core 0).sreg 0)).isSome = true ∧
    (condition (ff 0 32 4) ((demo.core 0).sreg 0) ((BitVec.ofNat 32 (ff 0 0 32)).signExtend 64)).isSome = true := by decide

theorem witness_branches : Issues demo 0 1 hdr1 ∧ ff 0 32 19 = 0 ∧ ff 0 32 14 = 0 ∧ ff 0 46 5 = 0 ∧ ff 0 0 41 = 0 ∧
    targetOk demo 0 = true ∧ targetOk demo 4096 = false := by decide

theorem witness_srd : Issues demo 0 1 hdr1 ∧ ff 0 0 38 = 0 ∧ ff 0 38 8 < 8 ∧ ff 0x20000000000 38 8 = 8 ∧ ff 0x20000000000 0 38 = 0 := by decide

theorem witness_srd_scale : Issues { demo with run := { demo.run with scales := [(0, 15)] } } 0 1 hdr1 ∧
    stepScale { demo with run := { demo.run with scales := [(0, 15)] } } 0 = some 15 := by decide

theorem witness_descriptors : Issues demo 0 1 hdr1 ∧ ff 0 0 38 = 0 ∧ dField (ff 0 43 4) = some (0, 48) ∧
    dField (ff 0 38 4) = some (0, 48) ∧ ff 0x10000000000 0 40 = 0 ∧ ff 0x10000000000 40 2 = 1 ∧
    dReserved ((demo.core 0).adesc (ff 0 47 4)) = 0 ∧ dReserved ((demo.core 0).adesc (ff 0 42 4)) = 0 ∧
    dReserved ((demo.core 0).adesc (ff 0x10000000000 47 4)) = 0 := by decide

theorem witness_accesses : Issues demo 0 1 hdr1 ∧ ff 0x10040000000 38 1 = 0 ∧ ff 0x40000000 38 4 = 0 ∧
    checkScalar demo 0 (ff 0x10040000000 30 8) (scalarOff (demo.core 0) 0 0) (2 ^ ff 0x10040000000 39 2) (2 ^ ff 0x10040000000 39 2) false = [] ∧
    checkScalar demo 0 (ff 0x10040000000 30 8) (scalarOff (demo.core 0) 0 0) (2 ^ ff 0x10040000000 39 2) (2 ^ ff 0x10040000000 39 2) true = [] ∧
    checkScalar demo 0 (ff 0x40000000 30 8) (scalarOff (demo.core 0) 0 0) 32 8 false = [] ∧
    checkScalar demo 0 (ff 0x40000000 30 8) (scalarOff (demo.core 0) 0 0) 32 8 true = [] ∧
    dReserved ((demo.core 0).adesc (ff 0x40000000 47 4)) = 0 := by decide

/-- Core 0 stalled on a store of 4 bytes at offset 64 of its scratchpad, in a bank that the controller owns. -/
def demoStore : State := demo.modCore 0 fun x => { x with stall := .store 0x11223344 1 64 4, banks := 0x44444440#32 }

theorem witness_scalar_store : (demoStore.core 0).stall = .store 0x11223344 1 64 4 ∧
    demoStore.seg 1 = some ⟨0, 2097152, 1, 3, 0, 0, 0⟩ ∧ scalarGate demoStore 0 ⟨0, 2097152, 1, 3, 0, 0, 0⟩ 64 4 = .pass ∧
    demoStore.wear.dead = [] := by decide

/-- Core 0 stalled on a load of 4 bytes from there into s3. -/
def demoFill : State := demo.modCore 0 fun x => { x with stall := .load 3 1 64 4 true, banks := 0x44444440#32 }

theorem witness_scalar_load : (demoFill.core 0).stall = .load 3 1 64 4 true ∧
    demoFill.seg 1 = some ⟨0, 2097152, 1, 3, 0, 0, 0⟩ ∧ scalarGate demoFill 0 ⟨0, 2097152, 1, 3, 0, 0, 0⟩ 64 4 = .pass ∧
    ScratchSound demoFill := by decide

theorem witness_reserved : canIssue (demo.core 0) = true ∧ fetchTrap demo 0 1 = none ∧ guardOf (demo.core 0) hdr1 = true ∧
    (demo.core 0).regErr = [] ∧ (demo.core 0).icDev = [] ∧ assignedOp 0x7F = false ∧ (demo.core 0).trapPend = none := by decide

theorem witness_control : Issues demo 0 1 hdr1 ∧ ff 0 0 39 = 0 ∧ ff 0 40 3 ≤ 4 ∧ ff 0 16 31 = 0 ∧ ff 0 47 4 ≤ 9 ∧ ff 0 0 43 = 0 := by decide

theorem witness_flagset : Issues demo 0 1 hdr1 ∧ ff 0 0 43 = 0 := by decide

theorem witness_flagrd : Issues demo 0 1 hdr1 ∧ ff 0 0 41 = 0 ∧ keptFrame (demo.core 0).frame (((demo.core 0).sreg 0).toNat % 2 ^ 32) = none := by decide

/-- Core 0 in frame 9 with the payload of frame 0 delivered and final. -/
def demoPayload : State :=
  { demo.modCore 0 fun x => { x with frame := 9 } with tick := { TickNet.reset with payloads := [(0, ⟨5, true⟩)] } }

theorem witness_flagrd_final : Issues demoPayload 0 1 hdr1 ∧
    keptFrame (demoPayload.core 0).frame (((demoPayload.core 0).sreg 0).toNat % 2 ^ 32) = some 0 ∧
    (demoPayload.payload 0).final = true := by decide

theorem witness_resume :
    ((demoPayload.modCore 0 fun x => { x with stall := .flagrd 3 0 }).core 0).stall = .flagrd 3 0 ∧
    ((demo.modCore 0 fun x => { x with stall := .scale 3 0 }).core 0).stall = .scale 3 0 ∧
    ((demo.modCore 0 fun x => { x with stall := .waitq 1 0 0 }).core 0).stall = .waitq 1 0 0 ∧
    distMod 32 0 ((demo.core 0).doneOf 1).toNat ≤ 0 ∧
    ((demo.modCore 0 fun x => { x with stall := .queue 1 }).core 0).stall = .queue 1 ∧
    ((demo.core 0).queue 1).length < 16 := by decide

/-- A descriptor of one FP32 element at an offset of the scratchpad segment of core 0. -/
def demoDesc (off : Nat) : BitVec 256 := BitVec.ofNat 256 (off + 1 * 2 ^ 48 + 1 * 2 ^ 56 + 4 * 2 ^ 64)

/-- Core 0 holds such descriptors in a0 to a2. -/
def demoTiles : State := demo.modCore 0 fun x => ((x.setAdesc 0 (demoDesc 0)).setAdesc 1 (demoDesc 4096)).setAdesc 2 (demoDesc 8192)

/-- A vector instruction with D = a0, A = a1, B = a2 and FN 0. -/
def vecWord : BitVec 51 := BitVec.ofNat 51 (1 * 2 ^ 43 + 2 * 2 ^ 39)

/-- The same without a second operand. -/
def vecWord1 : BitVec 51 := BitVec.ofNat 51 (1 * 2 ^ 43)

theorem witness_vector_issue : Issues demoTiles 0 1 hdr1 ∧ vecLegal .vbin vecWord = true ∧ vecChecks demoTiles 0 .vbin vecWord = [] ∧
    vecLegal .vfma vecWord = true ∧ vecChecks demoTiles 0 .vfma vecWord = [] := by decide

theorem witness_vector_issue_one : vecLegal .vun vecWord1 = true ∧ vecChecks demoTiles 0 .vun vecWord1 = [] ∧
    vecLegal .vred vecWord1 = true ∧ vecChecks demoTiles 0 .vred vecWord1 = [] := by decide

/-- A descriptor of one FP16 element at an offset of a segment, with rows of 512 bytes. -/
def demoHalf (seg off : Nat) : BitVec 256 := BitVec.ofNat 256 (off + seg * 2 ^ 48 + 2 * 2 ^ 56 + 512 * 2 ^ 64)

/-- Core 0 holds an FP32 tile in a0, FP16 tiles in a1 and a2, and an FP32 tile of Stratus in a3. -/
def demoMatrix : State :=
  { demo.modCore 0 fun x => ((((x.setAdesc 0 (demoDesc 0)).setAdesc 1 (demoHalf 1 4096)).setAdesc 2 (demoHalf 1 8192)).setAdesc 3
      (BitVec.ofNat 256 (2 * 2 ^ 48 + 1 * 2 ^ 56 + 4 * 2 ^ 64))) with
    run := { demo.run with image := some { demoImage with segs := demoImage.segs ++ [⟨0x8000, 4096, 2, 3, 0, 0, 0⟩] } } }

theorem witness_matrix_issue : Issues demoMatrix 0 1 hdr1 ∧ mmulChecks demoMatrix 0 (BitVec.ofNat 51 (1 * 2 ^ 47 + 2 * 2 ^ 43)) = [] ∧
    mwldChecks demoMatrix 0 (BitVec.ofNat 51 (2 * 2 ^ 47)) = [] ∧ mrdChecks demoMatrix 0 0 = [] := by decide

theorem witness_purl_issue : pmvChecks demoMatrix 0 (BitVec.ofNat 51 (1 * 2 ^ 43 + 2 * 2 ^ 39)) = [] ∧
    tldChecks demoMatrix 0 (BitVec.ofNat 51 (3 * 2 ^ 45)) = [] := by decide

/-- A descriptor instruction whose descriptor lies at offset 64 of segment 1, with SA = s0. -/
def descWord : BitVec 51 := BitVec.ofNat 51 (1 * 2 ^ 36 + 64)

theorem witness_descriptor_issue : Issues demo 0 1 hdr1 ∧ ff descWord 49 2 = 0 ∧
    checkScalar demo 0 (ff descWord 36 8) (descOff (demo.core 0) (ff descWord 44 5) (ff descWord 0 36)) 64 64 false = [] ∧
    checkScalar demo 0 (ff descWord 36 8) (descOff (demo.core 0) (ff descWord 44 5) (ff descWord 0 36)) 128 64 false = [] := by decide

/-- The same core in a frame that carries UPDATE. -/
def demoUpdate : State :=
  { demo with run := { demo.run with image := some { demoImage with frames := [⟨0, false, true, [], [], []⟩] } } }

theorem witness_upd_issue : Issues demoUpdate 0 4 ⟨0, false, 2⟩ ∧ demoUpdate.isUpdateFrame = true ∧
    checkScalar demoUpdate 0 (ff descWord 36 8) (descOff (demoUpdate.core 0) (ff descWord 44 5) (ff descWord 0 36)) 128 64 false = []
    := by decide

/-- Core 0 stalled on a DMA descriptor at offset 64 of its scratchpad: MODE ZERO, 256 bytes to offset 4096. -/
def demoFetch : State :=
  { demo.modCore 0 fun x => { x with
      stall := .fetchDesc 3 1 64 0 0 0 0, banks := 0x44444440#32 } with
    scratch := memWrite [] 64 (leBytes 8 (1 * 2 ^ 48) ++ leBytes 8 (4096 + 1 * 2 ^ 48) ++ leBytes 4 256 ++ leBytes 4 0
      ++ leBytes 8 0 ++ leBytes 8 0 ++ leBytes 2 3 ++ leBytes 6 9 ++ leBytes 16 0) }

set_option maxRecDepth 4000 in
theorem witness_descriptor_arrives : demoFetch.seg 1 = some ⟨0, 2097152, 1, 3, 0, 0, 0⟩ ∧
    scalarGate demoFetch 0 ⟨0, 2097152, 1, 3, 0, 0, 0⟩ 64 (descBytes 3) = .pass ∧ ScratchSound demoFetch ∧
    ((demoFetch.core 0).queue 3).length < 16 ∧
    descTrap demoFetch 0 3 0 0 (memRead demoFetch.scratch (scratchKey 0 64) (descBytes 3)) = none := by decide

/-- Core 0 with a collective that its engine has finished. -/
def demoFinished : State := demo.modCore 0 fun x => x.setQueue 7 [⟨.coll [], 0, 0, 0, 0, 1, ⟨0, 0⟩, ⟨0, 0⟩, false, none, [], none, true, false, false, none⟩]

theorem witness_unit_done : indexOf? (fun i : QInst => i.accepted && i.done == 1) ((demoFinished.core 0).queue 7) = some 0 := by decide

/-- Core 0 has met FEND with its queues dry. -/
def demoFend : State := demo.modCore 0 fun x => { x with fend := true }

theorem witness_fend : (demoFend.core 0).st = .running ∧ (demoFend.core 0).fend = true ∧ (demoFend.core 0).completed = false ∧
    (∀ q, q < 10 → (demoFend.core 0).issuedOf q = (demoFend.core 0).doneOf q) ∧ coreDemand demoFend 0 = none := by decide

/-- Core 0 with a VUN copy of one element at the head of its VECTOR queue, and the bank its unit owns. -/
def demoVector : State := demoTiles.modCore 0 fun x => { x.setQueue 1
    [⟨.vec .vun (demoDesc 0) (demoDesc 4096) 0 0 0 0 0 false, 0, 0, 0, 0, 0, ⟨0, 0⟩, ⟨0, 0⟩, false, none, [], none, false, true, false, none⟩] with
  banks := 0x44444442#32 }

theorem witness_vector_runs : (demoVector.core 0).queue 1 =
      [⟨.vec .vun (demoDesc 0) (demoDesc 4096) 0 0 0 0 0 false, 0, 0, 0, 0, 0, ⟨0, 0⟩, ⟨0, 0⟩, false, none, [], none, false, true, false, none⟩] ∧
    mayWork (demoVector.core 0) 1 = true ∧ ScratchSound demoVector ∧ dExt0 (demoDesc 0) = dExt0 (demoDesc 4096) ∧
    bankGate (demoVector.core 0) 2 0 ((rowsOf (demoDesc 4096)).map fun pr =>
      vecRowBanks demoVector ⟨.vun, demoDesc 0, demoDesc 4096, 0, 0, 0, 0, 0, false⟩ pr.1 pr.2).flatten = .pass := by decide

/-- An MMUL of one FP16 element by one, into accumulator set 0. -/
def demoMm : Mm := mmulOf (demoMatrix.core 0) (BitVec.ofNat 51 (1 * 2 ^ 47 + 2 * 2 ^ 43))

/-- Core 0 with that MMUL at the head of its MATRIX queue. -/
def demoMmul : State := demoMatrix.modCore 0 fun x => { x.setQueue 0
    [mkQInst demoMatrix 0 demoMm.op true] with banks := 0x44444441#32 }

theorem witness_fold : mayWork (demoMmul.core 0) 0 = true ∧ (0 : CoreId).val ∉ demoMmul.cirrusOn ∧ ScratchSound demoMmul ∧
    (demoMmul.core 0).accDev = [] ∧ (demoMmul.core 0).sumDev = [] ∧ (demoMmul.core 0).bufDev = [] ∧
    mmGate demoMmul (demoMmul.core 0) (mkQInst demoMatrix 0 demoMm.op true) demoMm = .pass ∧
    (mmRun demoMm none (beginMmul demoMmul 0 (mkQInst demoMatrix 0 demoMm.op true) demoMm).1).folds.length = 1 := by decide

theorem witness_fold_head : (demoMmul.core 0).queue 0 = [mkQInst demoMatrix 0 demoMm.op true] := by decide

/-- Core 0 with a handover of bank 2 to the VECTOR unit. -/
def demoHandover : State := demo.modCore 0 fun x => { x with hand := [⟨2, 2, false, 0⟩] }

theorem witness_handover : ((demoHandover.core 0).hand.find? fun g => g.bank == 2) = some ⟨2, 2, false, 0⟩ ∧
    handoverReady demoHandover (demoHandover.core 0) ⟨2, 2, false, 0⟩ = true := by decide

/-- A DMA descriptor of MODE ZERO into a segment: 256 bytes at an offset. -/
def zeroDesc (seg off : Nat) : List Byte := leBytes 8 0 ++ leBytes 8 (off + seg * 2 ^ 48) ++ leBytes 4 256 ++ leBytes 4 0
  ++ leBytes 8 0 ++ leBytes 8 0 ++ leBytes 2 3 ++ leBytes 6 9 ++ leBytes 16 0

/-- Core 0 with such a descriptor into Stratus at the head of channel 0. -/
def demoBulk : State := demoMatrix.modCore 0 fun x => x.setQueue 3 [mkQInst demoMatrix 0 (.dma (zeroDesc 2 0)) true]

set_option maxRecDepth 4000 in
theorem witness_bulk : (demoBulk.core 0).st = .running ∧ xferOf (.dma (zeroDesc 2 0)) = some (dmaOf (zeroDesc 2 0)) ∧
    (dmaOf (zeroDesc 2 0)).isBulk demoBulk = true ∧ freeBulk (demoBulk.die (dieOf 0)) = some 0 := by decide

/-- Core 0 with a descriptor of MODE ZERO into its own scratchpad at the head of channel 0, in a bank the DMA unit owns. -/
def demoZero : State := demo.modCore 0 fun x => { x.setQueue 3 [mkQInst demo 0 (.dma (zeroDesc 1 4096)) true] with banks := 0x44444444#32 }

set_option maxRecDepth 4000 in
theorem witness_zero_segment : (demoZero.core 0).queue 3 = [mkQInst demo 0 (.dma (zeroDesc 1 4096)) true] ∧
    mayWork (demoZero.core 0) 3 = true ∧ (dmaOf (zeroDesc 1 4096)).mode = 3 ∧ (dmaOf (zeroDesc 1 4096)).zrOut = false ∧
    (placeOf demoZero (dmaOf (zeroDesc 1 4096)).dstSeg).kind = 1 ∧
    segmentReady demoZero (mkQInst demo 0 (.dma (zeroDesc 1 4096)) true) (dmaOf (zeroDesc 1 4096)) = true ∧
    bankGate (demoZero.core 0) 4 0 (segmentBanks demoZero (dmaOf (zeroDesc 1 4096)) 0) = .pass ∧ demoZero.wear.dead = [] ∧
    (mkQInst demo 0 (.dma (zeroDesc 1 4096)) true).codes.length = (mkQInst demo 0 (.dma (zeroDesc 1 4096)) true).done := by decide

/-- A stream descriptor of a mode, between the header of a ring and the scratchpad. -/
def streamDesc (mode src dst : Nat) : List Byte := leBytes 8 (src * 2 ^ 48) ++ leBytes 8 (dst * 2 ^ 48) ++ leBytes 4 64 ++ leBytes 4 0
  ++ leBytes 16 0 ++ leBytes 2 mode ++ leBytes 6 9 ++ leBytes 16 0

/-- Core 0 with a stream at the head of channel 0. -/
def demoStream (mode src dst : Nat) : State := demoMatrix.modCore 0 fun x =>
  { x.setQueue 3 [mkQInst demoMatrix 0 (.dma (streamDesc mode src dst)) true] with banks := 0x44444444#32 }

set_option maxRecDepth 4000 in
theorem witness_streams : HeadOf (demoStream 1 2 1) 0 3 (mkQInst demoMatrix 0 (.dma (streamDesc 1 2 1)) true) [] ∧
    xferOf (.dma (streamDesc 1 2 1)) = some (dmaOf (streamDesc 1 2 1)) ∧
    (mkQInst demoMatrix 0 (.dma (streamDesc 1 2 1)) true).done = 0 ∧ (dmaOf (streamDesc 1 2 1)).mode = 1 ∧
    (dmaOf (streamDesc 1 2 1)).isBulk (demoStream 1 2 1) = false ∧
    bankGate ((demoStream 1 2 1).core 0) 4 0 (xferBanks (demoStream 1 2 1) (dmaOf (streamDesc 1 2 1))) = .pass ∧
    HeadOf (demoStream 2 1 2) 0 3 (mkQInst demoMatrix 0 (.dma (streamDesc 2 1 2)) true) [] ∧
    xferOf (.dma (streamDesc 2 1 2)) = some (dmaOf (streamDesc 2 1 2)) ∧ (dmaOf (streamDesc 2 1 2)).mode = 2 ∧
    (dmaOf (streamDesc 2 1 2)).isBulk (demoStream 2 1 2) = false ∧
    bankGate ((demoStream 2 1 2).core 0) 4 0 (xferBanks (demoStream 2 1 2) (dmaOf (streamDesc 2 1 2))) = .pass := by decide

/-- Core 0 stopping with a trap of cause 4 held. -/
def demoTrap : State := demo.modCore 0 fun x => { x with st := .stopping, trapPend := some ⟨true, 4, 0xFF, 0, 8, 0, 0, 0, 0, 0, 0⟩ }

theorem witness_trap_record : (demoTrap.core 0).st = .stopping ∧ (demoTrap.core 0).trapPend.isSome = true ∧
    coreQuiet demoTrap 0 = true ∧ demoTrap.run.phase ≠ .stopped ∧ coreQuiet (demoTrap.modCore 0 fun x => { x with trapPend := none }) 0 = true ∧
    ((demoTrap.modCore 0 fun x => { x with trapPend := none }).core 0).st = .stopping := by decide

theorem witness_watchdog : (demo.setObj 0x220001 4).obj 0x220001 ≠ 0 ∧ demo.run.active = true ∧ (demo.core 0).st = .running ∧
    (demo.core 0).completed = false ∧ (demo.core 0).trapPend = none ∧
    ((demo.modCore 0 fun x => { x with st := .stopping }).core 0).st = .stopping := by decide

theorem witness_code_line : demo.hasImage = true ∧ 256 / 256 * 256 < demo.codeBytes := by decide

/-- An update with one product left on core 0. -/
def demoUpd : UpdRun := ⟨0, 0, 0, 0, 0, [], [], 0, 0, 1, 0, 0, [255], [], [], 0, [], [(0, 0, 1)], false⟩

/-- Core 0's engines run a product of it. -/
def demoProduct : State := ({ demo with cirrusOn := [0] }).modUnit 0 fun u => { u with cirrus := { u.cirrus with upds := [demoUpd] } }

theorem witness_product : (0 : CoreId).val ∈ demoProduct.cirrusOn ∧ (demoProduct.unit (dieOf 0)).cirrus.upds = [demoUpd] ∧
    demoUpd.prods = [(0, (0 : CoreId).val, 1)] := by decide

theorem witness_tick_sources : demo.alive = true ∧ demo.obj kTickMode = modeLocal ∧
    (demo.setObj kTickMode 2).alive = true ∧ (demo.setObj kTickMode 2).obj kTickMode = modeMaster ∧
    ({ demo.setObj kTickMode 3 with tick := { demo.tick with edgesSeen := 1 } }).alive = true ∧
    ({ demo.setObj kTickMode 3 with tick := { demo.tick with edgesSeen := 1 } }).obj kTickMode = modeExternal := by decide

theorem witness_payload : (0 : Nat) < 2 ∧ 2 ≤ 0 + 64 ∧ 3 < 16 := by decide

theorem witness_arrival : ({ demo with tick := { demo.tick with holds := [7] } } : State).tick.holds = [7] := by decide

/-- Port 0 in service with a frame of 48 or 160 bytes to come, in FOLLOWER mode after tick 4. -/
def demoFollower : State :=
  let s := (demo.setObj kTickMode 1).setObj 0x210005 1000
  { s.modPort 0 fun x => { x with st := .up, tickEn := true } with tick := { s.tick with seen := some 4, count := 4 } }

/-- A MARKER of tick 5 with period 50,000 ns. -/
def demoMarker : List Byte := mkFrame 3 0 0 0 0 0 (leBytes 8 5 ++ leBytes 4 50000 ++ leBytes 20 0)

/-- A WAVE of tick 4. -/
def demoWave : List Byte := mkFrame 4 0 0 0 0 0 (leBytes 8 4 ++ leBytes 136 1)

set_option maxRecDepth 20000 in
theorem witness_marker_frame : frameCrcOk demoMarker = true ∧ (frameHead demoMarker).type = 3 ∧ frameFormOk demoMarker = true ∧
    (markerOf (framePayload demoMarker)).tick = 4 + 1 ∧ (markerOf (framePayload demoMarker)).valid = false ∧
    (markerOf (framePayload demoMarker)).elapsed = 0 ∧ (markerOf (framePayload demoMarker)).hops ≤ 4 ∧
    fecFails (demoFollower.port 0).fecNow demoMarker.length 0 false = false := by decide

theorem witness_marker : (demoFollower.port 0).tickEn = true ∧ (demoFollower.port 0).carries = true ∧
    demoFollower.obj kTickMode = modeFollower ∧ demoFollower.tick.seen = some 4 ∧ (demoFollower.port 0).d < 16 * demoFollower.obj 0x210005 := by
  decide

set_option maxRecDepth 20000 in
theorem witness_wave_form : (frameHead demoWave).type = 4 ∧ frameFormOk demoWave = true ∧ leAt (framePayload demoWave) 0 8 = 4 ∧
    fecFails (demoFollower.port 0).fecNow demoWave.length 0 false = false := by decide

theorem witness_wave_window : demoFollower.tick.count ≤ 4 + demoFollower.latency ∧ 4 ≤ demoFollower.tick.count + 1 := by decide

/-- An image of one frame repeated three times. -/
def demoSched : Image := { demoImage with
  frames := [⟨0, false, false, [⟨0, 0, 0, 0, 0, 0, 64⟩], [⟨0, 0, 0, 0, 0, 0, 0, 0⟩], []⟩], sched := [⟨0, 1, 3, false⟩] }

/-- The image is armed, a tick has arrived, and its first frame may start. -/
def demoArmed : State :=
  { demo with run := { Run.reset with image := some demoSched, phase := .armed }, tick := { TickNet.reset with arrived := true } }

theorem witness_frame_start : demoArmed.run.stoppedAt = none ∧ (nextDesc demoArmed).isSome = true ∧ mayStart demoArmed = true ∧ demoArmed.wear.next = .good ∧
    (0 : CoreId) ∈ demoArmed.runCores := by decide

theorem witness_frame_complete : demo.run.active = true ∧ demo.run.phase = .running ∧ ∀ c ∈ (demo.modCore 0 fun x => { x with completed := true }).runCores,
    ((demo.modCore 0 fun x => { x with completed := true }).core c).completed = true := by decide

/-- That image after the last frame of its schedule. -/
def demoLast : State := { demo with run := { Run.reset with image := some demoSched, phase := .running, cursor := ⟨1, 0, 0⟩ } }

theorem witness_image_end : demoLast.run.phase = .running ∧ demoLast.run.active = false ∧ framesLeft demoLast = some 0 ∧
    demoLast.run.steps = [] ∧ refreshing demoLast = false := by decide

theorem witness_tick_loss : demo.hasImage = true ∧ demo.run.phase ≠ .stopped := by decide

theorem witness_port_states : (demo.port 0).st = .disabled ∧ ((demo.modPort 0 fun x => { x with st := .training }).port 0).st = .training ∧
    ((demo.modPort 0 fun x => { x with st := .training }).port 0).slow = false ∧ (0 : BitVec 2).toNat = (demo.port 0).fec ∧
    ({ demo with clocks := { demo.clocks with serdesOk := true } } : State).clocks.serdesOk = true ∧
    ((demo.modPort 0 fun x => { x with st := .up }).port 0).st = .up := by decide

/-- Port 0 UP with a request of stamp 100 outstanding. -/
def demoProbe : State := demo.modPort 0 fun x => { x with st := .up, probes := [100] }

/-- The echo of that request with TURN 4. -/
def demoEcho : List Byte := mkFrame 5 0 0 0 0 0 (leBytes 8 100 ++ leBytes 4 4 ++ leBytes 4 1)

theorem witness_probe_send : (demoProbe.port 0).carries = true ∧ (demoProbe.port 0).dsArmed = none ∧ (demoProbe.port 0).dsWait = false := by
  decide

set_option maxRecDepth 20000 in
theorem witness_probe_echo : frameCrcOk demoEcho = true ∧ (frameHead demoEcho).type = 5 ∧ frameFormOk demoEcho = true ∧
    leAt (framePayload demoEcho) 0xC 1 = 1 ∧ leAt (framePayload demoEcho) 0 8 ∈ (demoProbe.port 0).probes ∧
    leAt (framePayload demoEcho) 8 4 = 4 ∧ distMod 64 (0x7C : BitVec 64).toNat 100 = 24 ∧
    (demoProbe.port 0).st = .up ∧ (demoProbe.port 0).d < 2 ^ 31 ∧
    fecFails (demoProbe.port 0).fecNow demoEcho.length 0 false = false := by decide

theorem witness_probe_range : ∀ r : Fin 2, (0 : Int) ≤ (24 - 4 + (r.val : Int)) / 2 + sgn 16 (demoProbe.port 0).trim ∧
    (24 - 4 + (r.val : Int)) / 2 + sgn 16 (demoProbe.port 0).trim - (demoProbe.port 0).d ≤ 32 ∧
    ((demoProbe.port 0).d : Int) - ((24 - 4 + (r.val : Int)) / 2 + sgn 16 (demoProbe.port 0).trim) ≤ 32 := by decide

/-- A DATA frame of 16 bytes on VC 0 for package 0. -/
def demoData : List Byte := mkFrame 1 0 0 0 0x40 7 (leBytes 16 5)

/-- A CTRL frame that acknowledges SEQ 0 and frees nothing. -/
def demoCtrl : List Byte := mkFrame 2 0 0 0 0 0 (leBytes 16 0)

/-- Port 0 UP with one frame waiting and one unacknowledged. -/
def demoLink : State := demo.modPort 0 fun x => { x with
  st := .up, outq := vcSet x.outq 0 [⟨3, 0x40, 7, leBytes 16 5, .gauge, none⟩]
  unacked := [⟨0, 0, demoData, .gauge, false⟩], txSeq := 1, sinceAck := 1 }

theorem witness_send : vcAt (demoLink.port 0).outq 0 = [⟨3, 0x40, 7, leBytes 16 5, .gauge, none⟩] ∧
    maySend (demoLink.port 0) 0 ⟨3, 0x40, 7, leBytes 16 5, .gauge, none⟩ = true ∧
    (demoLink.port 0).carries = true ∧ (demoLink.port 0).sinceAck ≠ 0 := by decide

set_option maxRecDepth 20000 in
theorem witness_data : frameCrcOk demoData = true ∧ (frameHead demoData).type = 1 ∧ frameFormOk demoData = true ∧
    (frameHead demoData).seq = (demoLink.port 0).rxSeq ∧ (frameHead demoData).dest = demoLink.obj kPackageId ∧
    distMod 16 (vcAt (demoLink.port 0).recv 0 + frameUnits (framePayload demoData)) (vcAt (demoLink.port 0).freed 0) ≤ 8192 ∧
    fecFails (demoLink.port 0).fecNow demoData.length 0 false = false := by decide

set_option maxRecDepth 20000 in
theorem witness_ctrl : (demoLink.port 0).carries = true ∧ frameCrcOk demoCtrl = true ∧ (frameHead demoCtrl).type = 2 ∧ frameFormOk demoCtrl = true ∧
    fld (leAt (framePayload demoCtrl) 0 2) 0 12 = 0 ∧ bitAt (leAt (framePayload demoCtrl) 0 2) 15 = false ∧
    (∀ v, v < 3 → leAt (framePayload demoCtrl) (2 + 2 * v) 2 = vcAt (demoLink.port 0).credit v ∧
      vcAt (demoLink.port 0).credit v < 65536 ∧ distMod 16 (vcAt (demoLink.port 0).credit v) (vcAt (demoLink.port 0).sent v) ≤ 8192) ∧
    (demoLink.port 0).unacked = [] ++ [⟨0, 0, demoData, .gauge, false⟩] ∧ (demoLink.port 0).txSeq = (0 + 1) % 4096 ∧
    fecFails (demoLink.port 0).fecNow demoCtrl.length 0 false = false := by decide

/-- With a licence for feature 2 installed and valid. -/
def demoLicensed : State :=
  { demo with mgmt := { demo.mgmt with licences := [⟨List.replicate 0x18 0 ++ [4] ++ List.replicate 200 0, true⟩] } }

set_option maxRecDepth 4000 in
theorem witness_dropstitch : demo.licensed 2 = false ∧ demoLicensed.licensed 2 = true := by decide

/-- Queue 1 enabled with 16 entries and one command to fetch. -/
def demoQueue : State := modQueue demo 1 fun x => { x with en := true, st := 1, sqTail := 1, sqBase := 0x1000, cqBase := 0x2000 }

/-- Queue 1 holding a command of an opcode. -/
def demoCmd (op a b c : Nat) : State :=
  { modQueue demoQueue 1 fun x => { x with cmd := some ⟨op, 0, 7, a, b, c, 0, [], false, false⟩ } with
    host := { (modQueue demoQueue 1 fun x => { x with cmd := some ⟨op, 0, 7, a, b, c, 0, [], false, false⟩ }).host with order := [1] } }

theorem witness_fetch : nextQueue demoQueue = some 1 := by decide

set_option maxRecDepth 4000 in
theorem witness_fetch_status : fetchStatus demoQueue (fitBytes 64 []) = none := by decide

theorem witness_nop : waitingCmd (demoCmd 0 0 0 0) 1 0 = some ⟨0, 0, 7, 0, 0, 0, 0, [], false, false⟩ := by decide

theorem witness_copy : copyOk (demoCmd 1 0 0x100000 1024) ⟨1, 0, 7, 0, 0x100000, 1024, 0, [], false, false⟩ = true ∧
    waitingCmd (demoCmd 1 0 0x100000 1024) 1 1 = some ⟨1, 0, 7, 0, 0x100000, 1024, 0, [], false, false⟩ ∧
    inCode (demoCmd 1 0 0x100000 1024) 0x100000 1024 = false ∧
    waitingCmd (demoCmd 2 0 0x100000 1024) 1 2 = some ⟨2, 0, 7, 0, 0x100000, 1024, 0, [], false, false⟩ := by decide

theorem witness_copy_chunk : initialising (demoCmd 1 0 0x100000 1024) (copySpan 0x100000 1024 0).1 = false ∧ (copyOpen [255, 0])[0]? = some 0 ∧ (∀ k ∈ [255, 0].set 0 0, k = 0) ∧ ([255, 255].set 0 0).contains 255 = true := by
  decide

set_option maxRecDepth 4000 in
theorem witness_image_commands : imageCmd (demoCmd 0x12 0 0 0) 1 0x12 = some ⟨0x12, 0, 7, 0, 0, 0, 0, [], false, false⟩ ∧
    (demoCmd 0x12 0 0 0).hasImage = true ∧ statePermits (demoCmd 0x12 0 0 0) 0x12 = true ∧ (demoCmd 0x12 0 0 0).run.phase = .running := by
  decide

/-- The image has stopped, and so have its cores. -/
def demoStopped (op a : Nat) : State :=
  { (demoCmd op a 0 0).modCore 0 fun x => { x with st := .stopped } with
    run := { demo.run with phase := .stopped, active := false }, power := { demo.power with cap := none } }

set_option maxRecDepth 4000 in
theorem witness_stop_complete : allHalted (demoStopped 0x12 0) = true ∧ unloadable (demoStopped 0x14 0) = true ∧
    imageCmd (demoStopped 0x14 0) 1 0x14 = some ⟨0x14, 0, 7, 0, 0, 0, 0, [], false, false⟩ ∧ statePermits (demoStopped 0x14 0) 0x14 = true := by
  decide

set_option maxRecDepth 4000 in
theorem witness_resume_command : resumable (demoStopped 0x13 5) 5 = true ∧
    imageCmd (demoStopped 0x13 5) 1 0x13 = some ⟨0x13, 0, 7, 5, 0, 0, 0, [], false, false⟩ := by decide
/-- The start of an image file: header, segment table, and the head of its frame descriptor. -/
def demoHead : List Byte :=
  [75, 77, 86, 83, 0, 1, 128, 0, 216, 3, 0, 0, 0, 0, 0, 0, 1, 0, 1, 0, 1, 0, 0, 0, 0, 0, 0, 0, 214, 21, 32,
    136, 128, 0, 0, 0, 0, 0, 0, 0, 1, 0, 0, 0, 1, 0, 0, 0, 160, 0, 0, 0, 0, 0, 0, 0, 192, 3, 0, 0, 0, 0, 0, 0,
    1, 0, 0, 0, 0, 0, 0, 0, 208, 3, 0, 0, 0, 0, 0, 0, 8] ++ List.replicate 48 0 ++ [32, 0, 0, 0, 0, 0, 0, 0, 16,
    0, 0, 0, 0, 0, 0, 0, 1, 255] ++ List.replicate 13 0 ++ [32, 3, 0, 0, 0, 0, 1]

/-- An image file of 984 bytes for one core: header, a CODE segment, one frame, a schedule of one entry, 8 bytes of code. -/
def demoFile : List Byte := demoHead ++ (List.replicate 797 0 ++ ([1, 0, 0, 0, 1] ++ List.replicate 15 0))

/-- The package without an image, in OPERATIONAL, with LOAD_IMAGE of that file in queue 1. -/
def demoLoad : State := ({ demoCmd 0x10 0 0 984 with run := Run.reset } : State).setObj 0xA03001 1500

theorem witness_load_command : imageCmd demoLoad 1 0x10 = some ⟨0x10, 0, 7, 0, 0, 984, 0, [], false, false⟩ := by decide

/-- Its frame descriptor. -/
def demoFrame : FrameDesc :=
  ⟨0, false, false, [⟨0, 0, 0, 0, 0, 0, 0⟩], List.replicate 8 ⟨0, 0, 0, 0, 0, 0, 0, 0⟩, List.replicate 24 0⟩

/-- The image that the file holds. -/
def demoFileImage : Image := ⟨1, 1, 1, false, 0, 984, 8, [⟨0x2000, 4096, 0, 1, 255, 0, 0⟩], [demoFrame], [⟨0, 1, 1, false⟩]⟩

set_option maxRecDepth 10000 in
theorem demo_file_zeros (i : Nat) (h1 : 167 ≤ i) (h2 : i < 964) : demoFile.getD i 0#8 = 0#8 := by
  have e : demoHead.length = 167 := by decide
  simp only [demoFile, List.getD_eq_getElem?_getD]
  rw [List.getElem?_append_right (by omega), List.getElem?_append_left (by simp; omega), e,
    List.getElem?_replicate]
  split <;> rfl

theorem demo_file_fields (off n : Nat) (h1 : 167 ≤ off) (h2 : off + n ≤ 964) : leAt demoFile off n = 0 :=
  leAt_zero _ _ _ fun i hi hj => demo_file_zeros i (by omega) (by omega)

set_option maxRecDepth 10000 in
theorem demo_file_frame : frameAt demoFile 1 0 = demoFrame := by
  have ho : frameOff demoFile 0 = 160 := by decide
  have t : leAt demoFile 164 1 = 0 := by decide
  have u : leAt demoFile 165 1 = 0 := by decide
  simp [frameAt, demoFrame, ho, t, u, List.range_succ, demo_file_fields, bitAt]

set_option maxRecDepth 100000 in
theorem demo_file_image : imageOf demoFile = demoFileImage := by
  have h0 : leAt demoFile 0x2C 4 = 1 := by decide +kernel
  have h1 : leAt demoFile 0x10 2 = 1 := by decide +kernel
  simp only [imageOf, h0, h1, List.range_one, List.map_cons, List.map_nil, demo_file_frame]
  decide +kernel

set_option maxRecDepth 100000 in
theorem demo_file_check : crc32 (demoFile.take 0x1C ++ List.replicate 4 0#8 ++ demoFile.drop 0x20) = leAt demoFile 0x1C 4 := by
  rw [crc32_eq_crcNat]
  decide +kernel

set_option maxRecDepth 100000 in
theorem demo_file_header : headerOk demoFile = true := by
  have h := demo_file_check
  simp only [headerOk, h, beq_self_eq_true, Bool.and_true]
  decide +kernel

set_option maxRecDepth 100000 in
theorem demo_file_format : formatOk demoFile = true := by
  have h0 : leAt demoFile 0x2C 4 = 1 := by decide +kernel
  have h1 : leAt demoFile 0x40 4 = 1 := by decide +kernel
  simp only [formatOk, demo_file_header, h0, h1, List.range_one, List.all_cons, List.all_nil, Bool.true_and, Bool.and_true]
  decide +kernel

set_option maxRecDepth 100000 in
theorem demo_file_segments : segmentsOk demoLoad demoFile = true := by
  simp only [segmentsOk, demo_file_image]
  decide +kernel

theorem demo_load_admission : admission demoLoad demoFileImage (demoLoad.obj kDeviceState == stOperational && !demoLoad.hasImage) none
    = admitted := by decide +kernel

theorem witness_load : (admitBytes demoLoad demoFile).reason = 0 := by
  simp only [admitBytes, demo_file_format, demo_file_segments, demo_file_image, demo_load_admission]
  rfl

theorem witness_start : (admission demoLoad demoFileImage true (some 5)).reason = 0 ∧ imageCmd (demoCmd 0x11 5 0 0) 1 0x11 =
    some ⟨0x11, 0, 7, 5, 0, 0, 0, [], false, false⟩ := by decide +kernel

/-- A shard table of 512 elements in two pieces, with its arrays in paged pages of die 0. -/
def demoTable : List Byte := leBytes 8 512 ++ leBytes 2 1 ++ leBytes 2 0 ++ leBytes 2 2 ++ leBytes 2 3 ++ leBytes 8 0x10000 ++ leBytes 8 0x11000
  ++ leBytes 8 0x12000 ++ leBytes 8 0x13000 ++ leBytes 8 0x14000 ++ leBytes 40 0
  ++ leBytes 4 1 ++ leBytes 8 0 ++ leBytes 4 1 ++ leBytes 4 256 ++ leBytes 12 0
  ++ leBytes 4 2 ++ leBytes 8 0 ++ leBytes 4 1 ++ leBytes 4 256 ++ leBytes 4 256 ++ leBytes 8 0

/-- That table at address 0x8000, a commit record at 0x9000, and an export or import of it in queue 1. -/
def demoShard (op : Nat) : State :=
  { modQueue (demoCmd op 0 0x8000 0) 1 fun x => { x with cmd := some ⟨op, 1, 7, 0, 0x8000, 0, 0x9000, [], false, false⟩ } with
    mem := memWrite [] 0x8000 demoTable, run := Run.reset }

set_option maxRecDepth 20000 in
theorem witness_shard_command : imageCmd (demoShard 0x20) 1 0x20 = some ⟨0x20, 1, 7, 0, 0x8000, 0, 0x9000, [], false, false⟩ ∧
    statePermits (demoShard 0x20) 0x20 = true ∧ shardAddrsOk (demoShard 0x20) ⟨0x20, 1, 7, 0, 0x8000, 0, 0x9000, [], false, false⟩ = true ∧
    imageCmd (demoShard 0x21) 1 0x21 = some ⟨0x21, 1, 7, 0, 0x8000, 0, 0x9000, [], false, false⟩ ∧ statePermits (demoShard 0x21) 0x21 = true ∧
    (demoShard 0x21).hasImage = false := by decide +kernel

set_option maxRecDepth 20000 in
theorem witness_shard_table : (hostTable (demoShard 0x20) 0x8000).2.1 = true := by decide +kernel

/-- An export of the master array of that table at its first record, with room for it. -/
def demoJob : ExportJob := ⟨1, 1, demoTable, 0x9000, 0, 0, 0, 0, 0, 0x100000, 4096, 0, 0, false, false⟩

set_option maxRecDepth 20000 in
theorem witness_export_record : demoJob.overrun = false ∧ ({ demoJob with overrun := true } : ExportJob).overrun = true ∧
    ({ demoJob with room := 64 } : ExportJob).room < 128 + recordPayload (shardOf demoJob.table) demoJob.flags demoJob.next ∧
    128 + recordPayload (shardOf demoJob.table) demoJob.flags demoJob.next ≤ demoJob.room ∧
    demoJob.next + 1 < recordCount (shardOf demoJob.table) demoJob.flags := by decide +kernel

theorem witness_doorbells : (demoQueue.queue 1).en = true ∧ (3 : BitVec 32).toNat < 2 ^ (demoQueue.queue 1).size ∧
    (0 + 2 ^ (demoQueue.queue 1).size - (demoQueue.queue 1).cqHead) % 2 ^ (demoQueue.queue 1).size ≤ (demoQueue.queue 1).cqUsed ∧
    (demo.queue 1).en = false ∧ fld (8 : BitVec 64).toNat 0 5 = 8 ∧ demo.host.rings[0].en = false ∧
    fld (0 : BitVec 64).toNat 30 18 * 2 ^ 30 % 2 ^ demo.host.bar2Log2 = 0 := by decide

theorem witness_ring_doorbell :
    ({ demo with host := { demo.host with rings := demo.host.rings.set 0 { EventRing.reset 64 with en := true, size := 4 } } } : State).host.rings[0].en
      = true := by decide

theorem witness_bad_access : (4 : BitVec 28).toNat % 8 ≠ 0 ∧ (2 : BitVec 28).toNat % 4 ≠ 0 := by decide

set_option maxRecDepth 4000 in
theorem witness_window : initialising demo (demo.host.winBase + 0x1000) = false ∧ 0x1000 < 2 ^ demo.host.bar2Log2 ∧
    inDataAreas demo (demo.host.winBase + 0x1000) 64 = true ∧
    (memLoad demo (demo.host.winBase + 0x1000) 64 (some .normal) .good).bad = 0 ∧
    (memLoad demo (demo.host.winBase + 0x1000) 64 (some .normal) .good).failed = none ∧ inCode demo 0x1000 64 = false := by decide

theorem witness_link : ({ demo with host := { demo.host with perstLow := true }, clocks := { demo.clocks with pcieOk := true } } : State).clocks.pcieOk
      = true ∧ 3 ≤ demo.life.stage ∧ demo.power.tripped = false ∧ demo.host.perstLow = false := by decide

theorem witness_half_reads : (0x1000 : BitVec 28).toNat % 8 = 0 ∧ oneReg 0x1000 = true ∧ (readReg demo 0x1000).isSome = true ∧
    readEffect demo 0 0x1000 = demo ∧ (setSnap demo 0 0x1000 5).clocks.snaps[(0 : Fin 17)] = some (0x1000, 5) := by decide

theorem witness_crossing : crossingDie demo 0x1200200 = some 0 ∧ demo.clocks.cross[(0 : DieId)].timeout = false := by decide

theorem witness_enytre_read : MayRequest demo 0 1 0x1000 false false ∧ unlicensed demo 0x100009 = false ∧
    (objFind 0x1000 9).map (·.access) = some .rwp ∧ MayRequest demo 0 5 0x1000 false false := by decide

theorem witness_enytre_write : MayRequest demo 0 2 0x2200 false true ∧ (objFind 0x2200 1).map (·.access) = some .rw ∧
    (objFind 0x2200 1).map (·.type.width / 8) = some 1 ∧ mayWrite demo 0 (writeReq 0 0x2200 1 0 [8#8]) = true ∧
    imageLocked 0x2200 = false ∧ (objFind 0x2200 1).map (valueOk demo · 0x220001 8) = some true := by decide

/-- Contrail holds the lock of 0x2200, and is served. -/
def demoLock : State := { demo with mgmt := { demo.mgmt with locks := [(0x2200, 1)] } }

theorem witness_enytre_locked : MayRequest demoLock 0 2 0x2200 false true ∧
    mayWrite demoLock 0 (writeReq 0 0x2200 1 0 [8#8]) = false := by decide

theorem witness_enytre_locks : objIndexExists 0x2200 = true ∧ MayRequest demo 0 3 0x2200 false true ∧ holder demo 0x2200 = none ∧
    lockCount demo 0 < 64 ∧ MayRequest demoLock 1 4 0x2200 false true ∧ holder demoLock 0x2200 = some 1 := by decide

/-- The package in PREOP, without an image. -/
def demoPreop : State := ({ demo with run := Run.reset } : State).setObj 0x100101 1

theorem witness_state_commands : MayRequest demoPreop 0 2 0x1001 false true ∧ demoPreop.obj kDeviceState = stPreop ∧
    mayWrite demoPreop 0 (writeReq 0 0x1001 2 0 [1]) = true ∧ MayRequest demo 0 2 0x1001 false true ∧
    demo.obj kDeviceState = stOperational ∧ demo.hasImage = true ∧ demo.run.phase = .running ∧
    ({ demo with run := Run.reset } : State).hasImage = false ∧
    mayWrite ({ demo with run := Run.reset } : State) 0 (writeReq 0 0x1001 2 0 [2]) = true ∧
    ({ demo with run := Run.reset } : State).obj kDeviceState = stOperational := by decide

theorem witness_reservation : MayRequest demoPreop 0 2 0x2110 false true ∧ holder demoPreop 0x2110 = none ∧
    demoPreop.hasImage = false ∧ MayRequest demo 0 2 0xA000 false true ∧ holder demo 0xA000 = none ∧
    demo.grade.floor ≤ 3400 ∧ 3400 ≤ demo.grade.cap := by decide

theorem witness_reset_writes : MayRequest demo 0 2 0x2A00 false true ∧ demo.life.resetting = false ∧
    resettable (demo.modLife fun l => { l with stage := 7 }) = true := by decide

theorem witness_mailbox : served demo 0 = true ∧ demo.mgmt.busy = false ∧ (1 : BitVec 32).getLsbD 1 = false := by decide

theorem witness_zenith : ∀ x, demo.mgmt.watchdog[(3 : DieId)] = some x → x + cyclesOfMs 1000 ≤ demo.now := by decide

/-- A request waits in the mailbox while the primary Zenith core restarts. -/
def demoRestart : State :=
  { demo with mgmt := { demo.mgmt with busy := true }, irq := { demo.irq with restarting := 1 } }

theorem witness_restart : demoRestart.mgmt.busy = true ∧ demoRestart.mgmt.kind = false ∧
    demoRestart.irq.restarting.getLsbD 0 = true := by decide

/-- The target on Contrail has taken an address. -/
def demoBus : State := demo.setObj 0x110002 9

theorem witness_contrail : onBus demo = true ∧ demo.obj 0x110002 = 0 ∧ (58 : BitVec 7).toNat = demo.obj 0x110001 ∧
    reachable demoBus = true := by decide

/-- A PLDM request of the host waits in the mailbox; an update has been verified. -/
def demoPldm : State := { demo with mgmt := { demo.mgmt with busy := true, kind := true },
                                    life := { demo.life with update := some true } }

theorem witness_pldm : pldmServed demoPldm 0 = true ∧ demoPldm.life.update = some true ∧
    pldmServed { demoPldm with life := demo.life } 0 = true ∧ demo.life.update = none := by decide

/-- The host's SPDM connection at a step, with an exchange or a session. -/
def demoSpdm (x : Spdm) : State := { demo with mgmt := { demo.mgmt with spdm := demo.mgmt.spdm.set 0 x } }

theorem witness_spdm : spdmServed (demoSpdm ⟨3, true, false⟩) 0 = true ∧ ((demoSpdm ⟨3, true, false⟩).mgmt.spdm[(0 : Fin 2)]).step = 3 ∧
    ((demoSpdm ⟨3, true, false⟩).mgmt.spdm[(0 : Fin 2)]).exchanging = true ∧
    ((demoSpdm ⟨3, true, false⟩).mgmt.spdm[(0 : Fin 2)]).session = false ∧ spdmServed (demoSpdm ⟨3, false, true⟩) 0 = true ∧
    ((demoSpdm ⟨3, false, true⟩).mgmt.spdm[(0 : Fin 2)]).session = true := by decide

theorem witness_spdm_offset : (0 : BitVec 16).toNat ≤ Config.certChain.length := Nat.zero_le _

/-- A host session, and a record of serial number 0 that grants nothing. -/
def demoRecords : State :=
  { demo with mgmt := { demo.mgmt with spdm := demo.mgmt.spdm.set 0 ⟨3, false, true⟩, licences := [⟨[], true⟩] } }

theorem witness_licences : spdmServed demoRecords 0 = true ∧ (demoRecords.mgmt.spdm[(0 : Fin 2)]).session = true ∧
    demoRecords.mgmt.licences.find? (fun x => x.serial == (0 : BitVec 64).toNat) = some ⟨[], true⟩ ∧
    licenceInUse demoRecords ⟨[], true⟩ = false := by decide

/-- A source in a state, with LEVEL and a core. -/
def demoSrc (n : Nat) (f : SrcRec → SrcRec) : State := demo.setSrc n (f (demo.src n))

theorem witness_assert : (srcInfo 9).isSome = true ∧ isExternalSrc 9 = false ∧ isLevelSrc 9 = true ∧ (demo.src 9).level = false ∧
    (demo.src 9).st ≠ .quarantined ∧ (demo.src 9).quar = false ∧ (demo.src 9).storm + 1 ≤ demo.obj 0x290001 ∧
    (srcInfo 1).isSome = true ∧ isLevelSrc 1 = false ∧ (demo.src 1).st = .idle ∧ (demo.src 1).quar = false ∧
    (demo.src 1).storm + 1 ≤ demo.obj 0x290001 ∧ isExternalSrc 1 = false := by decide

theorem witness_input : alertsIgnored demo = false := by decide

theorem witness_quarantine : ((demoSrc 9 fun r => { r with st := .quarantined }).src 9).st = .quarantined ∧
    ((demoSrc 9 fun r => { r with st := .quarantined, level := true }).src 9).level = true ∧
    ((demoSrc 9 fun r => { r with st := .quarantined, level := true }).src 9).storm + 1 ≤
      (demoSrc 9 fun r => { r with st := .quarantined, level := true }).obj 0x290001 := by decide

theorem witness_sample : ((demoSrc 9 fun r => { r with st := .active, core := 3 }).src 9).st = .active ∧
    ((demoSrc 9 fun r => { r with st := .active, core := 3 }).src 9).core = (3 : DieId).val ∧
    ((demoSrc 9 fun r => { r with st := .active, core := 3 }).src 9).sample = none := by decide

theorem witness_claims : (∀ k ∈ liveSources (demoSrc 1 fun r => { r with st := .pending }), k ≠ 0) ∧
    claimNormal (demoSrc 1 fun r => { r with st := .pending }) 0 = 1 ∧
    claimFast (demoSrc 257 fun r => { r with st := .pending }) 0 = 257 ∧
    (∀ k ∈ liveSources (demoSrc 257 fun r => { r with st := .pending }), k ≠ 0) := by decide

theorem witness_complete : ((demoSrc 1 fun r => { r with st := .active, core := 3 }).src 1).st = .active ∧
    ((demoSrc 1 fun r => { r with st := .active, core := 3 }).src 1).core = (3 : DieId).val ∧
    ((demoSrc 1 fun r => { r with st := .active, core := 3 }).src 1).fast = false ∧ (demo.src 1).st ≠ .active := by decide

theorem witness_queue_mode : (demo.ic 3).head = (demo.ic 3).tail ∧ (demo.ic 3).head < 2 ^ (demo.ic 3).sizeLog2 ∧
    ((demo.setIc 3 { demo.ic 3 with tail := 1 }).ic 3).head ≠ ((demo.setIc 3 { demo.ic 3 with tail := 1 }).ic 3).tail := by decide

theorem witness_apply : applyStatus { demo with run := Run.reset } 0 = 0 ∧ applyStatus demo 0 ≠ 0 ∧
    (demo.die 0).protBusy = none ∧ ((demo.modDie 3 fun m => { m with protBusy := some 1 }).die 3).protBusy = some 1 := by decide

/-- A page of Stratus queued for rewrite. -/
def demoScrub : State := demo.modDie 0 fun m => { m with rewriteS := [0x4000] }

theorem witness_scrub_page : (demoScrub.die 0).rewriteS = [0x4000] ∧ demoScrub.obj 0x250002 ≠ 0 ∧
    demoScrub.wear.next = .good ∧ (regionOf demoScrub 0x4000).map (fun h => (h.isByte, h.t, isFenced demoScrub h.die (pageOf 0x4000))) = some (false, 4, false) := by
  decide

theorem witness_sweep : demo.obj 0x250002 ≠ 0 ∧ (demo.die 0).rewriteS = [] ∧ sweepUnit demo 0 false (demo.die 0).sweepS = some (0, 512) ∧
    (regionOf demo (addrOf 0 false 0)).map (·.isByte) = some false ∧ kvGet 0 demo.pageDev (pageOf (addrOf 0 false 0)) = 0 := by decide

theorem witness_code_test : ctResult demo 0 0 ≠ 0 ∧ ctResult { demo with run := Run.reset } 0 0 = 0 ∧
    kvGet 0 demo.pageDev (ctAddr demo 0 0) = 0 ∧ (demo.die 0).cacheWord = [] ∧ (demo.die 0).cacheDev = [] ∧ demo.wear.next = .good ∧
    (regionOf { demo with run := Run.reset } 0).map (fun h => isFenced demo h.die 0) = some false := by decide

/-- A BROADCAST of nothing by rank 0 within the package, in the queue of core 0. -/
def bcastDesc : List Byte := leBytes 5 3 ++ [9] ++ [0, 1] ++ List.replicate 120 0
/-- It waits to be accepted. -/
def demoColl : State := demo.modCore 0 fun x => x.setQueue 7 [mkQInst demo 0 (.coll bcastDesc) true]
/-- It is in progress and has nothing left to do. -/
def demoCollRun : State := modColl demo 0 fun e => { e with runs := [freshColl demo 0 0 (mkQInst demo 0 (.coll bcastDesc) true) bcastDesc []] }

theorem witness_coll_accept : (demoColl.unit 0).coll.runs.length < 8 ∧
    (acceptCore demoColl 0 7 (demoColl.unit 0).coll.last).map (fun p => (p.1, p.2.op)) = some (0, .coll bcastDesc) ∧
    collWaits demoColl 0 (mkQInst demo 0 (.coll bcastDesc) true) bcastDesc = false ∧ demoColl.faulted = none := by decide

/-- A frame of a die number that no die has waits in port 0's buffer. -/
def demoRx : State := demo.modPort 0 fun x => { x with rx := #v[[⟨0, 0, 0, List.replicate 6 0 ++ [9] ++ List.replicate 9 0, 0⟩], [], []] }

theorem witness_coll_receive : demoRx.life.resetting = false ∧
    (vcAt (demoRx.port 0).rx 0).map (fun f => collFate demoRx (collHead f.payload).die f.payload) = [.refuse] := by decide

theorem witness_coll_complete : ∃ r, collRunAt demoCollRun 0 0 = some r ∧ collEnded demoCollRun 0 r = true ∧
    (collOf r.desc).toCirrus = false :=
  ⟨freshColl demo 0 0 (mkQInst demo 0 (.coll bcastDesc) true) bcastDesc [], by decide, by decide, by decide⟩

/-- The phase of a reduction of two values by two members, of which this one is rank 0. -/
def demoPhase : CollPhase := ⟨true, 0, 2, 0, true, [0, 1], 0, 0, 2, false, 1, [some 0, some 0], [], [], [], []⟩
/-- A collective in that phase. -/
def demoSum : State := modColl demo 0 fun e => { e with runs := [{ freshColl demo 0 0 (mkQInst demo 0 (.coll bcastDesc) true) bcastDesc [] with
  phases := [demoPhase] }] }

theorem witness_reduce : phaseAt demoSum 0 0 0 = some demoPhase ∧
    chunkLo 2 2 (reduceChunk 2 0 1) + 0 / collFmtBytes 1 + (List.replicate 4 (some (0 : Byte))).length / collFmtBytes 1 ≤ demoPhase.vals.length := by
  decide

/-- The same pair is in progress while the BROADCAST waits. -/
def demoCollTwice : State := modColl demoColl 0 fun e => { e with runs := [freshColl demo 0 0 (mkQInst demo 0 (.coll bcastDesc) true) bcastDesc []] }

theorem witness_coll_duplicate : (demoCollTwice.unit 0).coll.runs.length < 8 ∧
    (acceptCore demoCollTwice 0 7 (demoCollTwice.unit 0).coll.last).map (fun p => (p.1, p.2.op)) = some (0, .coll bcastDesc) ∧
    collWaits demoCollTwice 0 (mkQInst demo 0 (.coll bcastDesc) true) bcastDesc = false ∧
    (acceptCore demoCollTwice 0 7 (demoCollTwice.unit 0).coll.last).map (fun p =>
      (demoCollTwice.unit 0).coll.runs.any fun y => y.frame == p.2.frame % 2 ^ 32 && y.id == (collOf bcastDesc).id) = some true := by decide

/-- A frame of an earlier frame number waits in die 0's own inbox. -/
def demoInbox : State := modColl { demo with run := { demo.run with frame := 5 } } 0 fun e => { e with inbox := [⟨0, List.replicate 16 0⟩] }

theorem witness_coll_inbox : ((demoInbox.unit 0).coll.inbox.map fun f => collFate demoInbox 0 f.payload) = [.refuse] := by decide

/-- A NEIGHBOUR of offset 1 by rank 0 of a ring of two, with WRAP, in progress; the members of the ring are one package. -/
def demoNext : State :=
  let s := { demo with fabric := { demo.fabric with stage := [(0, 2 ^ 63 + 2 * 2 ^ 32)] } }
  let b : List Byte := leBytes 4 4 ++ leBytes 3 (8 + 9 * 2 ^ 8) ++ leBytes 1 1 ++ leBytes 2 0 ++ leBytes 2 256 ++ leBytes 20 0 ++ leBytes 8 16
    ++ leBytes 88 0
  modColl s 0 fun e => { e with runs := [freshColl s 0 0 (mkQInst s 0 (.coll b) true) b []],
                                inbox := [⟨0, leBytes 9 0 ++ leBytes 1 1 ++ leBytes 22 0⟩] }

theorem witness_coll_take : (demoNext.unit 0).coll.inbox.map (fun f => collFate demoNext 0 f.payload) = [.take 0] ∧
    collFate demoNext (collHead (leBytes 9 0 ++ leBytes 1 1 ++ leBytes 22 0)).die (leBytes 9 0 ++ leBytes 1 1 ++ leBytes 22 0) = .take 0 := by
  decide +kernel

/-- A ROUTE of no tokens waits to be accepted. -/
def demoExch : State := demo.modCore 0 fun x => x.setQueue 8 [mkQInst demo 0 (.exch (List.replicate 128 0)) true]
/-- The bytes of a DISPATCH of nothing that reuses buffers. -/
def reuseDesc : List Byte := leBytes 1 1 ++ leBytes 127 (2 ^ 32 - 1)
/-- It is in progress. -/
def demoExchRun (fin : Bool) : State := modSkein demo 0 fun e => { e with runs := [
  { freshExch 0 (mkQInst demo 0 (.exch reuseDesc) true) reuseDesc with finished := fin }] }

theorem witness_exch_accept : (demoExch.unit 0).skein.runs.length < 8 ∧ demoExch.faulted = none ∧
    (acceptCore demoExch 0 8 (demoExch.unit 0).skein.last).map (fun p => (p.1, p.2.op)) = some (0, .exch (List.replicate 128 0)) ∧
    (exchOf (List.replicate 128 0)).op = 0 ∧
    exchWaits demoExch 0 (mkQInst demo 0 (.exch (List.replicate 128 0)) true) (List.replicate 128 0) = false := by decide

/-- A DISPATCH waits to be accepted while one of its pair is in progress. -/
def demoExchTwice : State := modSkein (demo.modCore 0 fun x => x.setQueue 8 [mkQInst demo 0 (.exch reuseDesc) true]) 0 fun e =>
  { e with runs := [freshExch 0 (mkQInst demo 0 (.exch reuseDesc) true) reuseDesc] }

theorem witness_exch_duplicate : (demoExchTwice.unit 0).skein.runs.length < 8 ∧
    (acceptCore demoExchTwice 0 8 (demoExchTwice.unit 0).skein.last).map (fun p => (p.1, p.2.op, (exchOf reuseDesc).op != 0 &&
      (demoExchTwice.unit 0).skein.runs.any fun y => y.frame == p.2.frame % 2 ^ 32 && y.id == (exchOf reuseDesc).id
        && (exchOf y.desc).op != 0)) = some (0, .exch reuseDesc, true) ∧
    exchWaits demoExchTwice 0 (mkQInst demo 0 (.exch reuseDesc) true) reuseDesc = false := by decide

theorem witness_exch_done : ((demoExchRun false).unit 0).skein.runs.map (dispatchDone (demoExchRun false) 0) = [true] := by decide

theorem witness_exch_ended : ((demoExchRun true).unit 0).skein.runs.map (exchEnded (demoExchRun true) 0) = [true] := by decide

/-- A frame of an earlier frame number waits in port 0's EXCH buffer. -/
def demoRxExch (kind : Nat) : State := ({ demo with run := { demo.run with frame := 5 } } : State).modPort 0 fun x => { x with
  rx := #v[[], [⟨0, 0, 0, leBytes 6 1 ++ leBytes 1 kind ++ List.replicate 25 0, 0⟩], []] }

theorem witness_exch_receive : ∀ kind : Fin 4, (vcAt ((demoRxExch kind.val).port 0).rx 1).map (fun f =>
    ((exchHead f.payload).kind, exchFate (demoRxExch kind.val) f.payload)) = [(kind.val, some none)] := by decide

/-- A group of two, a dispatched entry in memory, and a DISPATCH (1) or COMBINE (2) of one token in progress with a row granted. -/
def demoTake (op : Nat) : State :=
  let s := { demo with fabric := { demo.fabric with stage := [(0, 2 ^ 63 + 2 * 2 ^ 32)] }, mem := memWrite [] (0x2000 + 64 + 2) [1] }
  let b : List Byte := leBytes 3 op ++ leBytes 3 1 ++ leBytes 1 1 ++ leBytes 5 0 ++ leBytes 4 1 ++ leBytes 112 0
  modSkein s 0 fun e => { e with runs := [{ freshExch 0 (mkQInst s 0 (.exch b) true) b with rows := [⟨0, 0, 1, 0⟩] }] }

theorem witness_exch_take : ∀ kind : Fin 4, exchFate (demoTake (1 + kind.val / 3)) (leBytes 6 0 ++ leBytes 1 kind.val ++ leBytes 1 1 ++ leBytes 24 0)
    = some (some (0, 0)) := by decide +kernel

/-- An update of one block, and what waits for it in the queue of core 0. -/
def updDesc : List Byte := List.replicate 128 0
/-- It waits to be accepted. -/
def demoUpdQ : State := demo.modCore 0 fun x => x.setQueue 9 [mkQInst demo 0 (.upd updDesc 0 0 0) true]

theorem witness_upd_accept : (demoUpdQ.unit 0).cirrus.upds.length < 16 ∧
    (acceptCore demoUpdQ 0 9 (demoUpdQ.unit 0).cirrus.last).map (fun p => (p.1, p.2.op)) = some (0, .upd updDesc 0 0 0) ∧
    (demoUpdQ.unit 0).cirrus.recs = [] := by decide

/-- A shard table of one piece of one element. -/
def shardTable : List Byte :=
  List.replicate 12 0 ++ leBytes 4 1 ++ List.replicate 92 0 ++ leBytes 4 1 ++ leBytes 4 1 ++ List.replicate 12 0
/-- An update of a rule over blocks of one element. -/
def updRule (rule : Nat) : List Byte := leBytes 4 rule ++ leBytes 2 1 ++ leBytes 2 1 ++ List.replicate 120 0
/-- An update in progress with some gradients, fed by a collective of one value; step 0 has its scale. -/
def demoFeed (rule : Nat) (grads : List (Nat × Option F32)) : State :=
  let s1 := modCirrus { demo with run := { demo.run with scales := [(0, 15)] } } 0 fun e => { e with upds :=
    [{ freshUpd 0 (mkQInst demo 0 (.upd (updRule rule) 0 0 0) true) (updRule rule) shardTable 0x100000 0 1 (0, 0) [255] with
      grads := grads }] }
  modColl s1 0 fun e => { e with runs := [{ freshColl demo 0 0 (mkQInst demo 0 (.coll []) true)
    ([1, 0, 1, 0, 4, 9, 0, 1] ++ List.replicate 120 0) [] with shard := [some 0], shardGaps := [] }] }

theorem witness_feed_collective : (((demoFeed 0 []).unit 0).coll.runs.map fun r => ((collOf r.desc).toCirrus, r.aborted,
      r.duplicate, r.handed, r.shard.length)) = [(true, false, false, 0, 1)] ∧
    (((demoFeed 0 []).unit 0).coll.runs.map fun r => (meetsAny r.shardGaps r.handed (r.handed + 1),
      meetsAny r.repMissed r.handed (r.handed + 1))) = [(false, false)] ∧
    (((demoFeed 0 []).unit 0).coll.runs.map fun r => takerOf (demoFeed 0 []) 0 r.frame r.id r.handed) = [some (0, 0)] := by decide

theorem witness_feed_update : (((demoFeed 0 []).unit 0).cirrus.upds.map fun u => ((updOf u.desc).repStages, (updOf u.desc).bands))
      = [(0, false)] ∧ (((demoFeed 0 []).unit 0).cirrus.upds.map fun u => (u.codes, u.blocks.length)) = [([255], 1)] := by decide

theorem witness_band : (((demoFeed 2 [(0, none)]).unit 0).cirrus.upds.map fun u => ((updOf u.desc).bands, u.ready,
      u.blocks.map fun k => (k.band, blockFed u k))) = [(true, [], [(0, true)])] := by decide

theorem witness_block : (((demoFeed 0 [(0, none)]).unit 0).cirrus.upds.map fun u => (stepScale (demoFeed 0 [(0, none)]) u.step,
      u.prods, u.blocks.map (blockFed u))) = [(some 15, [], [true])] := by decide

/-- A record of die 0 that is refreshed, repaired, or waits for the others' fingerprints. -/
def demoRec (busy : Nat) : State := modCirrus { demo with fabric := { demo.fabric with stage := [(0, 2 ^ 63 + 2 * 2 ^ 32)] } } 0 fun e => { e with recs :=
  [⟨0x100000, 0x200000, none, 64, 64, 0, 0, [], false, 0, 1, busy, [[]], 0, none, []⟩] }

theorem witness_records : ((demoRec 5).unit 0).cirrus.recs.map (·.busy) = [5] ∧ ((demoRec 4).unit 0).cirrus.recs.map (·.busy) = [4] ∧
    ((demoRec 0).unit 0).cirrus.recs.map (·.own.head?) = [some []] ∧
    (msgsFor (demoRec 0) 0 []).length + 1 < groupSize (demoRec 0) 0 1 ∧
    ((demoRec 5).unit 0).cirrus.recs.map (fun r => (groupRank (demoRec 5) r.repTopo r.repStages 0, r.source)) = [(0, 0)] ∧
    groupRank (demoRec 5) 0 1 0 ≠ 1 := by decide

/-- A fingerprint that matches nothing waits in port 0's buffer. -/
def demoGauge : State := demo.modPort 0 fun x => { x with rx := #v[[], [], [⟨0, 0, 0, List.replicate 32 0, 0⟩]] }

theorem witness_fingerprint : demoGauge.life.resetting = false ∧
    (vcAt (demoGauge.port 0).rx 2).map (fun f => msgRecord demoGauge f.payload) = [none] := by decide

/-- A record whose commit record and shard table have been written, and a message of its bucket, rank and STEP. -/
def demoMatch : State :=
  let s := modCirrus { demo with mem := memWrite (memWrite [] 0x9000 (leBytes 16 (3 * 2 ^ 64))) 0x8000 demoTable } 0 fun e => { e with recs :=
    [⟨0x9000, 0x8000, none, 64, 64, 0, 0, [], false, 0, 1, 0, [], 0, none, []⟩] }
  s.modPort 0 fun x => { x with rx := #v[[], [], [⟨0, 0, 0, List.replicate 32 0, 0⟩]] }

set_option maxRecDepth 20000 in
theorem witness_fingerprint_match :
    (vcAt (demoMatch.port 0).rx 2).map (fun f => (msgRecord demoMatch f.payload).isSome) = [true] := by decide +kernel

theorem witness_avs : ((demo.modPdie 0 fun x => { x with asked := some (750, false) }).pdie 0).asked = some (750, false) ∧
    ((demo.modPdie 0 fun x => { x with asked := some (750, true) }).pdie 0).asked = some (750, true) := by decide

theorem witness_groups : alertsIgnored demo = false ∧ alertsIgnored (demo.modGroup 19 fun x => { x with dipLow := true }) = true ∧
    (demo.power.groups[(3 : Fin 20)]).dipLow = false ∧ (demo.power.groups[(3 : Fin 20)]).dipHeld = false ∧ demo.powered = true ∧
    (({ demo.modGroup 3 fun x => { x with dipHeld := true } with now := 0 } : State).power.groups[(3 : Fin 20)]).dipLow = false ∧
    ((demo.modGroup 3 fun x => { x with dipHeld := true }).power.groups[(3 : Fin 20)]).dipHeld = true ∧
    ((demo.modGroup 3 fun x => { x with dipLow := true }).power.groups[(3 : Fin 20)]).dipLow = true := by decide

theorem witness_budget : (3000000 : Nat) ≤ (demo.setObj 0xA00001 3000).obj 0xA00001 * 1020 := by decide

theorem witness_remote : demo.obj (kRemote 3 1) = 0 ∧ (demo.setObj (kRemote 3 1) 1).obj (kRemote 3 1) ≠ 0 := by decide

theorem witness_trip : privileged 1 31 = true ∧ demo.power.tripped = false := by decide

theorem witness_bond : let s := (demo.setObj 0xC21001 5000).modLife fun l => { l with bondDue := some 1000 }
    s.life.bondDue = some 1000 ∧ 1000 + s.obj 0x2A0004 ≤ s.obj 0xC21001 ∧ s.life.bondRaised = none ∧ ((s.modLife fun l => { l with bondRaised := some 976 }).life.bondRaised = some 976 ∧ 976 + 24 ≤ s.obj 0xC21001) := by decide

/-- The package in a stage of its bring-up, in BOOT. -/
def demoStage (n : Nat) : State := (State.reset.setObj 0x100101 0).modLife fun l => { l with stage := n }

theorem witness_boot : State.reset.powered = true ∧ State.reset.life.stage = 1 ∧ State.reset.life.testEn = false ∧
    State.reset.power.tripped = false ∧ State.reset.obj kDeviceState = stBoot ∧ (gradeOf State.reset.life.fuse).isSome = true ∧
    gradeOf 0 = none ∧ (demo.modLife fun l => { l with aonOff := true }).powered = false ∧
    (chooseSlot (State.reset.modLife fun l => { l with slots := #v[⟨true, 1, 0, false, none⟩, ⟨true, 1, 0, false, none⟩] })).isSome = true ∧
    chooseSlot (State.reset.modLife fun l => { l with slots := #v[⟨false, 1, 0, false, none⟩, ⟨false, 1, 0, false, none⟩] }) = none := by decide

theorem witness_bring_up : (demoStage 2).life.stage = 2 ∧ (demoStage 2).obj kDeviceState = stBoot ∧ (demoStage 2).life.railsWaited = false ∧
    (demoStage 3).life.stratusUp.getLsbD 3 = false ∧ (demoStage 3).life.hbmUp.getLsbD 3 = false ∧
    (demoStage 5).obj kDeviceState = stBoot ∧ (demoStage 5).life.failCause = none ∧ ([0x100, 0x200] : List Nat).length ≥ 2 ∧ cirrusBusy demo = false := by decide

theorem witness_plls : hasPll 3 4 = true ∧ bitAt ({ demo with clocks := { demo.clocks with lock := Vector.replicate 8 0x3FF } } : State).clocks.lock[(3 : DieId)] 4 = true ∧
    fedPll { demo with clocks := { demo.clocks with serdesOk := true } } 4 = true ∧ 3 ≤ demo.life.stage ∧
    ({ demo with clocks := { demo.clocks with pcieOk := false } } : State).host.perstLow = false := by decide

theorem witness_sources : (srcInfo 1).isSome = true ∧ (1 : Nat) % 512 ≠ 35 ∧ (1 : Nat) < 4096 := by decide

theorem witness_canonical : demo.MemCanonical := ⟨by decide, by decide⟩

theorem witness_canonical_step : ∃ t, step demo = .next t := ⟨_, rfl⟩

theorem witness_queue : ({ demo with pending := [Instr.stormWindowEnd, .tickArrival] } : State).pending =
    Instr.stormWindowEnd :: [.tickArrival] := by decide

end Sys2Proof.Tests
end

section
/-!
Proofs: the statements of the package's scope (chapter 0): the queue's front command, registers of BAR0 as they are read and
written, and accesses that BAR0 refuses.
-/
namespace Sys2Proof.Machine

/-! ## What raising an event can change -/

/-- The state with all that an event can reach put aside: outputs, counters, the interrupt controllers, the host's event rings
and pending vectors (17 R380 to R391). Two states that agree on it differ in those parts alone. -/
def State.withoutEvents (s : State) : State :=
  { s with out := [], dict := [], irq := .reset, host := { s.host with rings := HostIf.reset.rings, msixPend := [] } }

section Laws
variable (s : State)

@[simp] theorem State.bump_withoutEvents (key : Nat) : (s.bump key).withoutEvents = s.withoutEvents := rfl

@[simp] theorem State.setSrc_withoutEvents (n : Nat) (r : SrcRec) : (s.setSrc n r).withoutEvents = s.withoutEvents := rfl

theorem signalVector_withoutEvents (fn vec : Nat) : (signalVector s fn vec).withoutEvents = s.withoutEvents := by
  unfold signalVector
  dsimp only
  split
  · rfl
  · split <;> rfl

theorem eqRecord_withoutEvents (d : DieId) (n kind sev d0 d1 : Nat) :
    (eqRecord s d n kind sev d0 d1).withoutEvents = s.withoutEvents := by
  unfold eqRecord
  dsimp only
  split <;> rfl

theorem ringRecord_withoutEvents (r : Fin 8) (n kind sev d0 d1 : Nat) :
    (ringRecord s r n kind sev d0 d1).withoutEvents = s.withoutEvents := by
  unfold ringRecord
  dsimp only
  split
  · rfl
  · split
    · rfl
    · exact State.when_keeps _ State.withoutEvents _ _ (signalVector_withoutEvents _ 0 _)

theorem contrailRecord_withoutEvents (n kind sev d0 d1 : Nat) :
    (contrailRecord s n kind sev d0 d1).withoutEvents = s.withoutEvents := by
  unfold contrailRecord
  dsimp only
  split <;> rfl

theorem sendRecords_withoutEvents (n kind d0 d1 : Nat) : (sendRecords s n kind d0 d1).withoutEvents = s.withoutEvents := by
  unfold sendRecords
  simp only [State.when_keeps _ State.withoutEvents, ringRecord_withoutEvents, signalVector_withoutEvents,
    contrailRecord_withoutEvents]

theorem zenithSide_withoutEvents (n kind d0 d1 : Nat) : (zenithSide s n kind d0 d1).withoutEvents = s.withoutEvents := by
  unfold zenithSide
  dsimp only
  split
  · rfl
  · split
    · rfl
    · exact eqRecord_withoutEvents ..

theorem quarantine_withoutEvents (n d0 d1 : Nat) : (quarantine s n d0 d1).withoutEvents = s.withoutEvents := by
  unfold quarantine
  rw [sendRecords_withoutEvents, State.when_keeps _ State.withoutEvents _ _ (eqRecord_withoutEvents ..),
    State.bump_withoutEvents, State.setSrc_withoutEvents]

theorem raise_withoutEvents (n d0 d1 : Nat) : (raise s n d0 d1).withoutEvents = s.withoutEvents := by
  unfold raise
  dsimp only
  split
  · rfl
  · split
    · rfl
    · split
      · rw [quarantine_withoutEvents, State.bump_withoutEvents, State.setSrc_withoutEvents]
      · rw [sendRecords_withoutEvents, zenithSide_withoutEvents, State.bump_withoutEvents, State.setSrc_withoutEvents]

@[simp] theorem raiseOn_clocks (d : DieId) (l d0 d1 : Nat) : (raiseOn s d l d0 d1).clocks = s.clocks :=
  congrArg (·.clocks) (raise_withoutEvents s (512 * d.val + l) d0 d1)

/-! ## The meanings of the register commands -/

theorem exec_registerWrite (req : Fin 17) (fn : Fin 2) (addr : BitVec 28) (wide : Bool) (v : BitVec 64) (how : MemOutcome) :
    exec (.registerWrite req fn addr wide v how) s = execRegisterWrite req fn addr wide v how s := rfl

theorem exec_lowHalfRead (req : Fin 17) (reg : RegPlace) : exec (.lowHalfRead req reg) s = execLowHalfRead req reg s := rfl

theorem exec_highHalfRead (req : Fin 17) (reg : RegPlace) : exec (.highHalfRead req reg) s = execHighHalfRead req reg s := rfl

theorem exec_crossingTimeout (req : Fin 17) (write half : Bool) (off : BitVec 28) :
    exec (.crossingTimeout req write half off) s = execCrossingTimeout req write half off s := rfl

/-! ## Addresses -/

/-- Slot `m` of an array of 8-byte registers stands `8 * m` bytes from its base. -/
theorem arrayIdx_slot (base n : Nat) (m : Fin n) : arrayIdx base n (base + 8 * m.val) = some m := by
  simp [arrayIdx]

theorem arrayIdx_past {base n o : Nat} (h : base + 8 * n ≤ o) : arrayIdx base n o = none := by
  have hn : ¬ (o - base) / 8 < n := by omega
  simp [arrayIdx, hn]

/-- The BAR0 offset of offset `o` in the blocks of a die (00 Table 0.4). -/
def dieAddr (d : DieId) (o : Nat) : Nat := 0x1000000 * (1 + d.val) + o

/-- An offset of a die's blocks lies above the package's blocks and below the reserved space, and gives back die and offset. -/
theorem dieAddr_parts (d : DieId) {o : Nat} (ho : o < 0x1000000) :
    ¬ dieAddr d o < 0x1000000 ∧ dieAddr d o < 0x9000000 ∧ dieFin (dieAddr d o / 0x1000000 - 1) = d ∧
      dieAddr d o % 0x1000000 = o := by
  have hd : d.val < 8 := d.isLt
  unfold dieAddr
  refine ⟨by omega, by omega, Fin.ext ?_, by omega⟩
  simp only [dieFin]
  omega

theorem readReg_dieAddr (d : DieId) {o : Nat} (ho : o < 0x1000000) : readReg s (dieAddr d o) = readDie s d o := by
  obtain ⟨hlow, hhigh, hdie, hoff⟩ := dieAddr_parts d ho
  simp [readReg, hlow, hhigh, hdie, hoff]

/-- A naturally aligned write of 8 bytes to a block of a die. -/
theorem execRegisterWrite_dieAddr (req : Fin 17) (d : DieId) {o : Nat} (v : BitVec 64) (how : MemOutcome) (ho : o < 0x1000000)
    (h8 : o % 8 = 0) :
    execRegisterWrite req 0 (BitVec.ofNat 28 (dieAddr d o)) true v how s =
      .next (writeDie s req d how o v.toNat v.toNat true true) := by
  obtain ⟨hlow, hhigh, hdie, hoff⟩ := dieAddr_parts d ho
  have haddr : (BitVec.ofNat 28 (dieAddr d o)).toNat = dieAddr d o := by
    rw [BitVec.toNat_ofNat]
    omega
  have hal : dieAddr d o % 8 = 0 := by omega
  have hword : dieAddr d o / 8 * 8 = dieAddr d o := by omega
  simp [execRegisterWrite, haddr, hword, hal, hlow, hhigh, hdie, hoff, writtenBits, mergeHalf]

/-! ## The REGION registers (09 Table 9.6) -/

/-- The offset of a region's register in its die: regions 0 to 7 are the Stratus', 8 to 15 the HBM's. -/
def regionOffset (n : Fin 16) : Nat := (if n.val < 8 then 0x200200 else 0x300200) + 8 * (n.val % 8)

/-- The defined fields of a REGION register: EN, strength, size and base. -/
def regionFields (v : Nat) : Nat := fld v 63 1 * 2 ^ 63 + fld v 58 3 * 2 ^ 58 + fld v 32 25 * 2 ^ 32 + fld v 0 25

theorem flagAt_bitAt (v i : Nat) : flagAt (bitAt v i) i = fld v i 1 * 2 ^ i := by
  have h : v / 2 ^ i % 2 = 0 ∨ v / 2 ^ i % 2 = 1 := by omega
  obtain h | h := h <;> simp [flagAt, bitAt, fld, h]

theorem regionFields_lt (v : Nat) : regionFields v < 2 ^ 64 := by
  unfold regionFields fld
  omega

/-- A region's register is a slot of the Stratus block or of the HBM block. -/
theorem region_cases (n : Fin 16) :
    (∃ m : Fin 8, n = regionIdx 0 m ∧ regionOffset n / 2 ^ 20 = 2 ∧ regionOffset n % 2 ^ 20 = 0x200 + 8 * m.val) ∨
      ∃ m : Fin 8, n = regionIdx 8 m ∧ regionOffset n / 2 ^ 20 = 3 ∧ regionOffset n % 2 ^ 20 = 0x200 + 8 * m.val := by
  have hm : n.val % 8 < 8 := Nat.mod_lt _ (by decide)
  by_cases h : n.val < 8
  · left
    refine ⟨⟨n.val % 8, hm⟩, Fin.ext ?_, ?_⟩
    · simp only [regionIdx]
      omega
    · simp only [regionOffset, if_pos h]
      omega
  · right
    refine ⟨⟨n.val % 8, hm⟩, Fin.ext ?_, ?_⟩
    · simp only [regionIdx]
      omega
    · simp only [regionOffset, if_neg h]
      omega

theorem regionOffset_lt (n : Fin 16) : regionOffset n < 0x1000000 := by
  unfold regionOffset
  split <;> omega

theorem regionOffset_aligned (n : Fin 16) : regionOffset n % 8 = 0 := by
  unfold regionOffset
  split <;> omega

theorem writeRegion_slot (d : DieId) (first v : Nat) (m : Fin 8) :
    writeRegion s d first (0x200 + 8 * m.val) v =
      s.modDie d fun x => { x with region := x.region.set (regionIdx first m) (BitVec.ofNat 64 (regionFields v)) } := by
  rw [writeRegion, arrayIdx_slot 0x200 8 m]
  simp only [flagAt_bitAt, regionFields]

theorem readRegions_slot (d : DieId) (first : Nat) (m : Fin 8) :
    readRegions s d first (0x200 + 8 * m.val) = some (s.die d).region[regionIdx first m].toNat := by
  rw [readRegions, arrayIdx_slot 0x200 8 m]

/-- A REGION register as written holds its defined fields. -/
theorem writeDie_region (req : Fin 17) (d : DieId) (how : MemOutcome) (n : Fin 16) (v w : Nat) (lo hi : Bool) :
    writeDie s req d how (regionOffset n) v w lo hi =
      s.modDie d fun x => { x with region := x.region.set n (BitVec.ofNat 64 (regionFields v)) } := by
  obtain ⟨m, rfl, hblock, hslot⟩ | ⟨m, rfl, hblock, hslot⟩ := region_cases n
  · have hring : arrayIdx 0x100 16 (0x200 + 8 * m.val) = none := arrayIdx_past (by omega)
    simp only [writeDie, hblock, hslot, writeStratus, hring, writeRegion_slot]
  · have hkeep : arrayIdx 0x100 8 (0x200 + 8 * m.val) = none := arrayIdx_past (by omega)
    have hctrl : ¬ 0x200 + 8 * m.val = 0 := by omega
    simp only [writeDie, hblock, hslot, writeCacheHbm, if_neg hctrl, hkeep, writeRegion_slot]

theorem readDie_region (d : DieId) (n : Fin 16) : readDie s d (regionOffset n) = some (s.die d).region[n].toNat := by
  obtain ⟨m, rfl, hblock, hslot⟩ | ⟨m, rfl, hblock, hslot⟩ := region_cases n
  · have hring : arrayIdx 0x100 16 (0x200 + 8 * m.val) = none := arrayIdx_past (by omega)
    simp only [readDie, hblock, hslot, readStratus, hring, readRegions_slot]
  · have hkeep : arrayIdx 0x100 8 (0x200 + 8 * m.val) = none := arrayIdx_past (by omega)
    have hctrl : ¬ 0x200 + 8 * m.val = 0 := by omega
    simp only [readDie, hblock, hslot, readCacheHbm, if_neg hctrl, hkeep, readRegions_slot]

/-- A write of REGION_n keeps its defined fields, and no other region, core or byte of memory changes (09 R192). -/
theorem regionWrite_keeps_fields (d : DieId) (n : Fin 16) (v : BitVec 64) (how : MemOutcome) :
    ∃ t, exec (.registerWrite 0 0 (BitVec.ofNat 28 (dieAddr d (regionOffset n))) true v how) s = .next t ∧
      readReg t (dieAddr d (regionOffset n)) = some (regionFields v.toNat) ∧ t.cores = s.cores ∧ t.mem = s.mem ∧
      ∀ m : Fin 16, m ≠ n → (t.die d).region[m] = (s.die d).region[m] := by
  refine ⟨_, execRegisterWrite_dieAddr s 0 d v how (regionOffset_lt n) (regionOffset_aligned n), ?_⟩
  rw [writeDie_region, readReg_dieAddr _ d (regionOffset_lt n), readDie_region]
  refine ⟨?_, rfl, rfl, fun m hm => ?_⟩
  · simpa using regionFields_lt v.toNat
  · have hne : n.val ≠ m.val := fun e => hm (Fin.ext e.symm)
    simp [hne]

/-! ## Reads of half registers (20 R455) -/

theorem lowHalfRead_of_readReg {req : Fin 17} {addr : BitVec 28} {v : Nat} (hal : addr.toNat % 8 = 0)
    (heff : readEffect s req addr.toNat = s) (hone : oneReg addr.toNat = true) (hread : readReg s addr.toNat = some v) :
    exec (.lowHalfRead req ⟨0, addr⟩) s = .next (returnRead (setSnap s req addr.toNat v) req 4 (v % 2 ^ 32)) := by
  have hword : addr.toNat / 8 * 8 = addr.toNat := by omega
  simp [exec_lowHalfRead, execLowHalfRead, hword, heff, hread, hone, fld]

theorem highHalfRead_of_snap {req : Fin 17} {addr : BitVec 28} {v : Nat} (heff : readEffect s req (addr.toNat / 8 * 8) = s)
    (hsnap : s.clocks.snaps[req] = some (addr.toNat / 8 * 8, v)) :
    exec (.highHalfRead req ⟨0, addr⟩) s = .next (returnRead s req 4 (v / 2 ^ 32 % 2 ^ 32)) := by
  simp [exec_highHalfRead, execHighHalfRead, heff, hsnap, fld]

/-! ## RESET_STATUS and the crossings -/

/-- RESET_STATUS is read-only (00 R8, 18 Table 18.7). -/
theorem registerWrite_resetStatus (v : BitVec 64) (how : MemOutcome) :
    exec (.registerWrite 0 0 0x1000 true v how) s = .next s := by
  simp [exec_registerWrite, execRegisterWrite, writePackage]

/-- A crossing that times out under a read of the host: the access is recorded where no earlier one is, and the read completes
with all ones (20 R454, R459). -/
theorem crossingTimeout_hostRead {off : BitVec 28} {d : DieId} (hdie : crossingDie s off.toNat = some d)
    (hfree : s.clocks.cross[d].timeout = false) :
    ∃ t, exec (.crossingTimeout 0 false false off) s = .next t ∧ t.clocks.cross[d] = ⟨true, 0, false, off.toNat⟩ ∧
      t.out.head? = some (.readData (List.replicate 8 0xFF#8) false) := by
  have hones : leBytes 8 (2 ^ 64 - 1) = List.replicate 8 0xFF#8 := by decide
  simp only [exec_crossingTimeout, execCrossingTimeout, hdie]
  refine ⟨_, rfl, ?_, congrArg (fun bs => some (Output.readData bs false)) hones⟩
  simp only [returnRead, Fin.val_zero, if_true, Bool.false_and, State.when_false, State.emit_clocks, raiseOn_clocks,
    State.bump_clocks, State.modClocks, vmod_same, hfree, Bool.false_eq_true, if_false]
  rfl

/-- CROSS_INFO cleared reads as zero (20 R459). -/
theorem clearCross_value (d : DieId) : (clearCross s d).clocks.cross[d].value = 0 := by
  simp [clearCross, State.modClocks, CrossInfo.value, flagAt]

end Laws

/-! ## The obligations -/

/-- Settles O1: the queue's front command is what `step` dispatches. -/
theorem stepRunsTheFrontCommand : Obligations.StepRunsTheFrontCommand := by
  intro c rest s hq
  simp only [step, hq]

/-- Settles O40: the alignment test of R6 comes before the function and the address. -/
theorem badBar0AccessesChangeNoRegister : Obligations.BadBar0AccessesChangeNoRegister := by
  intro s
  refine ⟨rfl, rfl, fun fn addr v how => ⟨fun h => ?_, fun h => ?_⟩⟩
  · simp [exec_registerWrite, execRegisterWrite, h]
  · simp [exec_registerWrite, execRegisterWrite, h]

/-- Settles O42, one lemma for each register. -/
theorem registersReadWhatWasWritten : Obligations.RegistersReadWhatWasWritten := by
  refine ⟨fun d n v how s a ha => ?_, fun _ _ _ s => lowHalfRead_of_readReg s, fun _ _ _ s => highHalfRead_of_snap s,
    fun v how s => registerWrite_resetStatus s v how, fun _ _ => rfl, fun d s => ⟨_, rfl, clearCross_value s d, rfl, rfl⟩,
    fun _ _ s => crossingTimeout_hostRead s⟩
  obtain rfl : a = dieAddr d (regionOffset n) := ha.trans (Nat.add_assoc ..)
  exact regionWrite_keeps_fields s d n v how

end Sys2Proof.Machine
end

section
/-!
Proofs: what a running program stands on, and the operations of caches, memories, counters, events and clocks that leave it alone.
-/
namespace Sys2Proof.Machine

/-! ## What a running program stands on -/

/-- The part of the state that a running program stands on: the cores, the run but for its byte counts, the tick network, the
cores present, and the upset that waits for the next read. -/
structure ProgramView where
  cores : Vector CoreState 32
  run : Run
  tick : TickNet
  present : BitVec 32
  upset : MemOutcome

/-- The program view of a state. -/
def State.program (s : State) : ProgramView :=
  ⟨s.cores, { s.run with bytes := [], overs := [] }, s.tick, s.life.present, s.wear.next⟩

section Reading
variable {s t : State} (h : t.program = s.program)
include h

theorem cores_of_program : t.cores = s.cores := congrArg ProgramView.cores h

theorem core_of_program (c : CoreId) : t.core c = s.core c := congrArg (fun v : ProgramView => v.cores[c]) h

theorem tick_of_program : t.tick = s.tick := congrArg ProgramView.tick h

theorem present_of_program : t.life.present = s.life.present := congrArg ProgramView.present h

theorem upset_of_program : t.wear.next = s.wear.next := congrArg ProgramView.upset h

end Reading

/-- A part of the run that is no byte count is in its view. -/
theorem run_of_program {α : Type} {s t : State} (g : Run → α) (hg : ∀ r : Run, g { r with bytes := [], overs := [] } = g r)
    (h : t.program.run = s.program.run) : g t.run = g s.run :=
  (hg t.run).symm.trans ((congrArg g h).trans (hg s.run))

/-- What every step of a fold keeps, the fold keeps. -/
theorem foldl_keeps {α β γ : Type} (g : β → γ) (l : List α) (f : β → α → β) (b : β) (h : ∀ b a, g (f b a) = g b) :
    g (l.foldl f b) = g b :=
  List.foldlRecOn (motive := fun x => g x = g b) l f rfl fun x hx a _ => (h x a).trans hx

section Program
variable (s : State)

@[simp] theorem State.emit_program (o : Output) : (s.emit o).program = s.program := (rfl)
@[simp] theorem State.setObj_program (key v : Nat) : (s.setObj key v).program = s.program := (rfl)
@[simp] theorem State.bumpBy_program (key n : Nat) : (s.bumpBy key n).program = s.program := (rfl)
@[simp] theorem State.bump_program (key : Nat) : (s.bump key).program = s.program := (rfl)
@[simp] theorem State.draw_program : s.draw.2.program = s.program := (rfl)
@[simp] theorem State.modDie_program (d : DieId) (f : DieMem → DieMem) : (s.modDie d f).program = s.program := (rfl)
@[simp] theorem State.modUnit_program (d : DieId) (f : DieUnits → DieUnits) : (s.modUnit d f).program = s.program := (rfl)
@[simp] theorem State.modPdie_program (d : DieId) (f : PowerDie → PowerDie) : (s.modPdie d f).program = s.program := (rfl)
@[simp] theorem State.modClk_program (c : CoreId) (f : CoreClk → CoreClk) : (s.modClk c f).program = s.program := (rfl)

@[simp] theorem State.when_program (b : Bool) (f : State → State) (h : (f s).program = s.program) :
    (s.when b f).program = s.program := State.when_keeps s State.program b f h

@[simp] theorem State.each_program {α : Type} (l : List α) (f : State → α → State)
    (h : ∀ t a, (f t a).program = t.program) : (s.each l f).program = s.program := State.each_keeps s State.program l f h

@[simp] theorem raise_program (n d0 d1 : Nat) : (raise s n d0 d1).program = s.program := by
  have h := congrArg State.program (raise_withoutEvents s n d0 d1)
  exact h

@[simp] theorem raiseOn_program (d : DieId) (l d0 d1 : Nat) : (raiseOn s d l d0 d1).program = s.program :=
  raise_program s (512 * d.val + l) d0 d1

/-! ### Counts of bytes (07 R157, 08 Table 8.11) -/

@[simp] theorem countBytes_program (kind unit n : Nat) : (countBytes s kind unit n).program = s.program := by
  unfold countBytes demandOverrun
  dsimp only
  split
  · rfl
  · split
    · rfl
    · split
      · simp only [raise_program, State.bump_program]
        rfl
      · rfl

@[simp] theorem countAt_program (d : DieId) (a m : Nat) (write : Bool) : (countAt s d a m write).program = s.program := by
  unfold countAt countPath
  dsimp only
  split
  · rfl
  · cases write <;> simp

@[simp] theorem countMove_program (d : DieId) (a n : Nat) (write : Bool) : (countMove s d a n write).program = s.program :=
  countAt_program ..

/-! ### The cache (08 R167 to R173) -/

@[simp] theorem poisonByte_program (a : Nat) : (poisonByte s a).program = s.program := (rfl)
@[simp] theorem clearWords_program (d : DieId) (k n : Nat) : (clearWords s d k n).program = s.program := (rfl)

@[simp] theorem loseWord_program (d : DieId) (l : CacheLine) (k : Nat) : (loseWord s d l k).program = s.program := by
  simp [loseWord, sramUncorrectable]

@[simp] theorem backWord_program (d : DieId) (l : CacheLine) (k : Nat) : (backWord d l s k).program = s.program := by
  unfold backWord
  dsimp only
  split
  · rfl
  · rfl
  · rfl
  · simp
  · simp

@[simp] theorem settleLine_program (d : DieId) (l : CacheLine) : (settleLine d s l).program = s.program := by
  unfold settleLine
  dsimp only
  split <;> simp

@[simp] theorem setCacheSet_program (d : DieId) (line : Nat) (ls : List CacheLine) :
    (setCacheSet s d line ls).program = s.program := by
  simp [setCacheSet]

@[simp] theorem readFrameWord_program (d : DieId) (k : Nat) : (readFrameWord s d k).2.program = s.program := by
  unfold readFrameWord
  dsimp only
  split
  · rfl
  · split
    · rfl
    · rfl
    · rfl
    · rfl
    · split <;> simp

@[simp] theorem readFrames_program (d : DieId) (o n : Nat) : (readFrames s d o n).2.program = s.program := by
  unfold readFrames
  split
  · rfl
  · exact foldl_keeps (fun p : List (Nat × Nat) × State => p.2.program) _ _ _ fun p k => readFrameWord_program p.2 d k

@[simp] theorem writeFrames_program (d : DieId) (o : Nat) (bs : List Byte) : (writeFrames s d o bs).program = s.program := by
  unfold writeFrames
  split
  · rfl
  · refine State.each_program s _ _ fun t k => ?_
    dsimp only
    split
    · rfl
    · split <;> simp

@[simp] theorem updatePairing_program (d : DieId) (line : Nat) : (updatePairing s d line).program = s.program := by
  unfold updatePairing
  extract_lets ls
  split
  · extract_lets pair
    split
    · rfl
    · split
      · exact (State.bump_program ..).trans (setCacheSet_program ..)
      · exact (State.setObj_program ..).trans (setCacheSet_program ..)
  · rfl

@[simp] theorem cacheLineAccess_program (d : DieId) (line : Nat) (mask : BitVec 4) (hint : Hint) (write byteRegion : Bool) :
    (cacheLineAccess s d line mask hint write byteRegion).program = s.program := by
  unfold cacheLineAccess
  extract_lets ls limit
  split
  · exact (updatePairing_program ..).trans
      ((State.bumpBy_program ..).trans ((State.bumpBy_program ..).trans (setCacheSet_program ..)))
  · rename_i s1 demote room s2 s3 new _ _
    split
    · rfl
    · have h2 : s2.program = s.program := State.when_program s1 demote _ (State.bump_program ..)
      have h3 : s3.program = s2.program := State.when_program s2 (room.2 != 0) _ (State.setObj_program ..)
      rw [updatePairing_program, setCacheSet_program, h3, h2]

@[simp] theorem cacheAccess_program (d : DieId) (o n : Nat) (hint : Hint) (write byteRegion : Bool) :
    (cacheAccess s d o n hint write byteRegion).program = s.program := by
  unfold cacheAccess
  split <;> simp

/-! ### Memory without a hard fault (09 R194 to R203) -/

@[simp] theorem poisonPage_program (t page : Nat) : (poisonPage s t page).program = s.program := (rfl)
@[simp] theorem logFence_program (d : DieId) (memory a : Nat) : (logFence s d memory a).program = s.program := (rfl)

@[simp] theorem dropFrames_program (h : RegionHit) (a n : Nat) : (dropFrames s h a n).program = s.program := by
  simp [dropFrames]

@[simp] theorem rePair_program (d : DieId) (o n : Nat) : (rePair s d o n).program = s.program := by
  unfold rePair
  split <;> simp

@[simp] theorem poisonMem_program (a n : Nat) (hint : Hint) : (poisonMem s a n hint).program = s.program := by
  unfold poisonMem
  dsimp only
  split
  · rfl
  · rw [State.when_program _ _ _ (rePair_program ..)]
    split
    · rw [State.each_program]
      · simp
      · intro t b
        split <;> simp
    · rw [State.each_program]
      · simp
      · intro t p
        split <;> simp

@[simp] theorem memUncorrectable_program (d : DieId) (a : Nat) : (memUncorrectable s d a).program = s.program :=
  raiseOn_program ..

@[simp] theorem queueRewrite_program (d : DieId) (a : Nat) : (queueRewrite s d a).program = s.program := by
  unfold queueRewrite
  extract_lets m q
  split
  · rfl
  · split <;> rfl

@[simp] theorem lastingError_program (h : RegionHit) (a : Nat) : (lastingError s h a false).program = s.program := by
  unfold lastingError
  dsimp only [State.when_false]
  split <;> simp

@[simp] theorem loadPage_program (h : RegionHit) (a n : Nat) (l : Load) (page : Nat) :
    (loadPage h a n l page).s.program = l.s.program := by
  unfold loadPage
  dsimp only
  split
  · rfl
  · split <;> simp

@[simp] theorem loadByte_program (h : RegionHit) (a n : Nat) (l : Load) (b : Nat) :
    (loadByte h a n l b).s.program = l.s.program := by
  unfold loadByte
  dsimp only
  split
  · rfl
  · split <;> simp

@[simp] theorem overlay_program (d : DieId) (a n : Nat) (l : Load) (p : Nat × Nat) :
    (overlay d a n l p).s.program = l.s.program := by
  unfold overlay
  dsimp only
  split
  · rfl
  · split <;> rfl

@[simp] theorem storePage_program (h : RegionHit) (page : Nat) (bs : List Byte) :
    (storePage s h page bs).program = s.program := by
  unfold storePage
  split <;> rfl

@[simp] theorem storeByte_program (h : RegionHit) (b : Nat) (v : Byte) : (storeByte s h b v).program = s.program := by
  unfold storeByte
  split <;> rfl

@[simp] theorem poisonScratch_program (c : CoreId) (off n : Nat) : (poisonScratch s c off n).program = s.program :=
  State.each_program s _ _ fun _ _ => rfl

@[simp] theorem scratchStore_program (c : CoreId) (off : Nat) (bs : List Byte) :
    (scratchStore s c off bs).program = s.program := (rfl)

@[simp] theorem moverPoison_program (c : CoreId) (g : Seg) (off n hint : Nat) :
    (moverPoison s c g off n hint).program = s.program := by
  unfold moverPoison
  split
  · rfl
  · split <;> simp

@[simp] theorem poisonRuns_program (c : CoreId) (g : Seg) (off n bad hint : Nat) :
    (poisonRuns s c g off n bad hint).program = s.program := by
  simp [poisonRuns]

/-! ### Clocks (19 R426 to R435) -/

@[simp] theorem refreshAllClocks_program : (refreshAllClocks s).program = s.program := by
  simp [refreshAllClocks, refreshClocks]

@[simp] theorem planFrame_program (fd : FrameDesc) : (planFrame s fd).program = s.program := by
  unfold planFrame
  dsimp only
  rw [refreshAllClocks_program]
  refine State.each_program s _ _ fun t d => (State.each_program _ _ _ fun u j => ?_).trans t.draw_program
  split <;> rfl

@[simp] theorem clearFloors_program : (clearFloors s).program = s.program := by
  simp [clearFloors]

@[simp] theorem closePhases_program (tag : Nat) : (closePhases s tag).program = s.program := by
  unfold closePhases addPhase
  refine State.each_program s _ _ fun t d => (State.modPdie_program ..).trans ?_
  exact State.when_program _ _ _ (State.each_program _ _ _ fun u g => State.modPdie_program ..)

@[simp] theorem latchWindows_program : (latchWindows s).program = s.program := by
  simp [latchWindows]

end Program
end Sys2Proof.Machine
end

section
/-!
Proofs: what comes to rest stays at rest, and accesses to memory: the program goes on unless an upset makes one of them fail.
-/
namespace Sys2Proof.Machine

/-! ## What comes to rest stays at rest -/

/-- A core that neither issues nor waits for a frame. -/
def CoreState.resting (x : CoreState) : Prop := x.st ≠ .running ∧ x.st ≠ .waiting

/-- A core keeps its registers, descriptors and program counter, and stays at rest if it is. -/
structure CoreRests (x y : CoreState) : Prop where
  sregs : y.sregs = x.sregs
  adescs : y.adescs = x.adescs
  pc : y.pc = x.pc
  resting : x.resting → y.resting

/-- A run keeps the tick of its stop and its undecided steps, and stays stopped if it is. -/
structure RunRests (r q : Run) : Prop where
  stopTick : q.stopTick = r.stopTick
  steps : q.steps = r.steps
  stopped : r.phase = .stopped → q.phase = .stopped

/-- What happens to the package besides issue: every core and the run do as above. -/
structure Rests (s t : State) : Prop where
  core : ∀ c, CoreRests (s.core c) (t.core c)
  run : RunRests s.run t.run

/-- What an access to memory does: the program goes on unchanged, unless an upset waits for the next read. -/
structure Access (s t : State) : Prop where
  rests : Rests s t
  calm : s.wear.next = .good → t.program = s.program

theorem CoreRests.refl (x : CoreState) : CoreRests x x := ⟨rfl, rfl, rfl, id⟩

theorem RunRests.refl (r : Run) : RunRests r r := ⟨rfl, rfl, id⟩

theorem Rests.refl (s : State) : Rests s s := ⟨fun _ => .refl _, .refl _⟩

theorem Rests.trans {s t u : State} (h : Rests s t) (k : Rests t u) : Rests s u where
  core c := ⟨(k.core c).sregs.trans (h.core c).sregs, (k.core c).adescs.trans (h.core c).adescs,
    (k.core c).pc.trans (h.core c).pc, fun x => (k.core c).resting ((h.core c).resting x)⟩
  run := ⟨k.run.stopTick.trans h.run.stopTick, k.run.steps.trans h.run.steps, fun x => k.run.stopped (h.run.stopped x)⟩

/-- A change that reaches no core. -/
theorem Rests.ofCores {s t : State} (h : t.cores = s.cores) (k : RunRests s.run t.run) : Rests s t :=
  ⟨fun c => by rw [State.core, State.core, h]; exact .refl _, k⟩

theorem Rests.ofProgram {s t : State} (h : t.program = s.program) : Rests s t :=
  have hrun := congrArg ProgramView.run h
  .ofCores (cores_of_program h) ⟨run_of_program Run.stopTick (fun _ => rfl) hrun, run_of_program Run.steps (fun _ => rfl) hrun,
    fun k => (run_of_program Run.phase (fun _ => rfl) hrun).trans k⟩

theorem Rests.setCore {s : State} {c : CoreId} {x : CoreState} (h : CoreRests (s.core c) x) : Rests s (s.setCore c x) where
  core c' := by
    by_cases hc : c' = c
    · subst hc
      rwa [State.core_setCore_same]
    · rw [State.core_setCore_ne s x hc]
      exact .refl _
  run := .refl _

theorem Rests.when {s : State} (b : Bool) {f : State → State} (h : Rests s (f s)) : Rests s (s.when b f) := by
  cases b
  · exact .refl s
  · exact h

theorem Rests.ite {s t u : State} {c : Prop} {_ : Decidable c} (h : Rests s t) (k : Rests s u) : Rests s (if c then t else u) := by
  split
  · exact h
  · exact k

theorem Rests.each {α : Type} (s : State) (l : List α) {f : State → α → State} (h : ∀ t a, Rests t (f t a)) :
    Rests s (s.each l f) :=
  List.foldlRecOn (motive := Rests s) l f (.refl s) fun t k a _ => k.trans (h t a)

theorem Access.ofProgram {s t : State} (h : t.program = s.program) : Access s t := ⟨.ofProgram h, fun _ => h⟩

theorem Access.ofUpset {s t : State} (h : s.wear.next ≠ .good) (k : Rests s t) : Access s t := ⟨k, fun e => absurd e h⟩

theorem Access.refl (s : State) : Access s s := .ofProgram rfl

theorem Access.upset {s t : State} (h : Access s t) (k : s.wear.next = .good) : t.wear.next = .good :=
  (upset_of_program (h.calm k)).trans k

theorem Access.trans {s t u : State} (h : Access s t) (k : Access t u) : Access s u :=
  ⟨h.rests.trans k.rests, fun e => (k.calm (h.upset e)).trans (h.calm e)⟩

theorem Access.foldl {α : Type} (s : State) (l : List α) {f : State → α → State} (h : ∀ t a, Access t (f t a)) :
    Access s (l.foldl f s) :=
  List.foldlRecOn (motive := Access s) l f (.refl s) fun t k a _ => k.trans (h t a)

section Rests
variable (s : State)

/-! ### Failures for good (01 R15, 09 R203) -/

@[simp] theorem signalVector_program (fn vec : Nat) : (signalVector s fn vec).program = s.program := by
  have h := congrArg State.program (signalVector_withoutEvents s fn vec)
  exact h

@[simp] theorem setDeviceState_program (st cause : Nat) : (setDeviceState s st cause).program = s.program := by
  have hmailbox (t : State) : (mailboxState t).program = t.program := signalVector_program ..
  have hcontrail (t : State) (data : List Byte) : (notifyContrail t 0x1001 1 data).program = t.program := by
    unfold notifyContrail
    split <;> simp
  unfold setDeviceState
  split
  · rfl
  · simp [hcontrail, hmailbox]

theorem freezeImage_rests : Rests s (freezeImage s) where
  core c := by
    have hcore : (freezeImage s).core c = { s.core c with
        st := if (s.core c).st == .trapped || (s.core c).st == .idle then (s.core c).st else .stopped, drain := 0 } := by
      simp [State.core, freezeImage]
    rw [hcore]
    refine ⟨rfl, rfl, rfl, fun _ => ?_⟩
    cases (s.core c).st <;> exact ⟨nofun, nofun⟩
  run := ⟨rfl, rfl, fun h => by simp [freezeImage, h]⟩

theorem enterFault_rests (cause : Nat) : Rests s (enterFault s cause) := by
  have hready (t : State) : (driveReady t false).program = t.program := by
    unfold driveReady
    split <;> rfl
  unfold enterFault
  split
  · exact .refl s
  · exact ((Rests.ofProgram ((hready _).trans (setDeviceState_program ..))).trans (freezeImage_rests _)).trans
      (.ofProgram rfl)

@[simp] theorem fenceUnit_program (u : FailUnit) : (fenceUnit s u).program = s.program := (rfl)

theorem failUnit_rests (u : FailUnit) (cause : Nat) : Rests s (failUnit s u cause) :=
  (Rests.ofProgram (fenceUnit_program s u)).trans (enterFault_rests ..)

theorem fencePage_rests (d : DieId) (a : Nat) : Rests s (fencePage s d a) := by
  unfold fencePage
  extract_lets p m hbm tbl d0 s1
  have h1 : s1.program = s.program := State.modDie_program ..
  refine .ite (.refl s) (.ite ?_ (.ofProgram ((raiseOn_program ..).trans ((logFence_program ..).trans h1))))
  exact (Rests.ofProgram ((logFence_program ..).trans (State.modDie_program ..))).trans (failUnit_rests ..)

theorem lastingError_rests (h : RegionHit) (a : Nat) (hard : Bool) : Rests s (lastingError s h a hard) := by
  cases hard
  · exact .ofProgram (lastingError_program s h a)
  · exact (Rests.ofProgram (lastingError_program s h a)).trans (fencePage_rests ..)

/-! ### Memory (09 R194 to R203) -/

theorem takeUpset_good (h : s.wear.next = .good) : takeUpset s .good = (.good, s) := by
  simp [takeUpset, h]

theorem takeUpset_access : Access s (takeUpset s .good).2 := by
  by_cases h : s.wear.next = .good
  · rw [takeUpset_good s h]
    exact .refl s
  · refine .ofUpset h ?_
    unfold takeUpset
    split
    · exact .ofCores rfl (.refl _)
    · exact .refl s

theorem loadOutcome_rests (h : RegionHit) (a n : Nat) (how : MemOutcome) (l : Load) :
    Rests l.s (loadOutcome h a n how l).s := by
  cases how
  case good => exact .refl _
  case transient => exact .ofProgram (State.bump_program ..)
  case lasting => exact lastingError_rests l.s h a false
  case hard => exact lastingError_rests l.s h a true

theorem loadOutcome_access (h : RegionHit) (a n : Nat) (l : Load) :
    Access l.s (loadOutcome h a n (takeUpset l.s .good).1 { l with s := (takeUpset l.s .good).2 }).s := by
  by_cases hgood : l.s.wear.next = .good
  · rw [takeUpset_good _ hgood]
    exact .refl _
  · exact .ofUpset hgood ((takeUpset_access l.s).rests.trans
      (loadOutcome_rests h a n _ { l with s := (takeUpset l.s .good).2 }))

theorem memLoad_access (a n : Nat) (hint : Option Hint) : Access s (memLoad s a n hint .good).s := by
  unfold memLoad
  split
  · exact .refl s
  · rename_i h _
    extract_lets s0 f l0 l1 l2
    have h0 : s0.program = s.program := by
      unfold s0
      split
      · rfl
      · split <;> simp
    have hf : f.2.program = s0.program := by
      unfold f
      split <;> simp
    have h1 : l1.s.program = f.2.program := by
      unfold l1
      split
      · exact foldl_keeps (fun l : Load => l.s.program) _ _ l0 fun l b => loadByte_program h a n l b
      · exact foldl_keeps (fun l : Load => l.s.program) _ _ l0 fun l p => loadPage_program h a n l p
    have h2 : l2.s.program = l1.s.program :=
      foldl_keeps (fun l : Load => l.s.program) _ _ l1 fun l p => overlay_program h.die a n l p
    exact (Access.ofProgram (h2.trans (h1.trans (hf.trans h0)))).trans (loadOutcome_access h a n l2)

/-- A part of a page is merged, or lost with what stood there; only an upset lets a hard fault show itself in the read. -/
theorem storePart_access (h : RegionHit) (page off : Nat) (bs : List Byte) : Access s (storePart s h page off bs) := by
  unfold storePart
  extract_lets s1 merge u lost s2
  have h1 : Access s s1 := .ofProgram (State.bump_program ..)
  have hu : Access s u.2 := h1.trans (takeUpset_access s1)
  have h2 : Access s s2 := hu.trans (.ofProgram (State.when_program _ _ _ (State.bump_program ..)))
  have hmerge (t : State) (old : List Byte) : Access t (merge t old) := .ofProgram (storePage_program ..)
  have hbump (t : State) (k : Nat) : Access t (t.bump k) := .ofProgram (State.bump_program ..)
  have hmem (t : State) : Access t (memUncorrectable (t.bump 0xC10008) h.die page) :=
    (hbump t _).trans (.ofProgram (memUncorrectable_program ..))
  split
  · exact h1.trans (hbump ..)
  · split
    · rename_i hfail
      have hupset : s.wear.next ≠ .good := by
        intro hgood
        simp [u, takeUpset_good s1 (h1.upset hgood)] at hfail
      exact .ofUpset hupset (hu.rests.trans ((lastingError_rests u.2 h page _).trans (hmem _).rests))
    · split
      · exact h2.trans (hmerge ..)
      · exact (h2.trans (hbump ..)).trans (hmerge ..)
      · exact (h2.trans (hbump ..)).trans (hmerge ..)
      · exact h2.trans (hmem _)
      · exact hu.trans ((Access.ofProgram (lastingError_program ..)).trans (hmem _))

theorem storePageAt_access (h : RegionHit) (a : Nat) (bs : List Byte) (page : Nat) :
    Access s (storePageAt h a bs s page) := by
  unfold storePageAt
  extract_lets lo hi part
  split
  · exact .ofProgram (storePage_program ..)
  · exact storePart_access ..

theorem memStore_access (a : Nat) (bs : List Byte) (hint : Option Hint) : Access s (memStore s a bs hint) := by
  unfold memStore
  split
  · exact .refl s
  · rename_i h _
    extract_lets s0 sf s1
    have h0 : s0.program = s.program := by
      unfold s0
      split
      · rfl
      · split <;> simp
    have hf : sf.program = s0.program := by
      unfold sf
      split <;> simp
    have h1 : Access sf s1 := by
      unfold s1
      split
      · exact .ofProgram (State.each_program _ _ _ fun t p => storeByte_program ..)
      · exact .foldl _ _ fun t p => storePageAt_access ..
    have hs1 : Access s s1 := (Access.ofProgram (hf.trans h0)).trans h1
    split
    · exact hs1.trans (.ofProgram (rePair_program ..))
    · exact hs1

/-! ### Movers (08 R175 to R180) -/

theorem moverStore_access (c : CoreId) (g : Seg) (off : Nat) (bs : List Byte) (hint : Nat) :
    Access s (moverStore s c g off bs hint) := by
  unfold moverStore
  split
  · exact .ofProgram (scratchStore_program ..)
  · exact (Access.ofProgram (countMove_program ..)).trans (memStore_access ..)

theorem moverPut_access (c : CoreId) (g : Seg) (off : Nat) (bs : List Byte) (hint : Nat) :
    Access s (moverPut s c g off bs hint) := by
  unfold moverPut
  split
  · exact .ofProgram (scratchStore_program ..)
  · exact (Access.ofProgram (countAt_program ..)).trans (memStore_access ..)

theorem storeOpt_access (c : CoreId) (seg off : Nat) (bs : List (Option Byte)) : Access s (storeOpt s c seg off bs) := by
  unfold storeOpt
  split
  · exact .refl s
  · exact (moverStore_access ..).trans (.ofProgram (poisonRuns_program ..))

/-- A package address is no place in a scratchpad. -/
theorem absLoad_access (c : CoreId) (a n : Nat) : Access s (absLoad s c a n).2 := by
  have hseg : ¬ absSeg.kind = 1 := by decide
  simp only [absLoad, moverLoad, if_neg hseg]
  exact (Access.ofProgram (countMove_program ..)).trans (memLoad_access ..)

theorem absStore_access (c : CoreId) (a : Nat) (bs : List (Option Byte)) : Access s (absStore s c a bs) := by
  unfold absStore
  split
  · exact .refl s
  · exact (moverStore_access ..).trans (.ofProgram (poisonRuns_program ..))

end Rests
end Sys2Proof.Machine
end

section
/-!
Proofs: the start and the end of a frame and of an image (02 R28 to R30, R40).
-/
namespace Sys2Proof.Machine

/-! ## A sequence of changes reaches what one of them brings about -/

/-- What the change for one element brings about, under what all changes keep, holds after the whole sequence if none of the
changes undoes it. -/
theorem State.each_reaches {α : Type} {I P : State → Prop} {l : List α} {f : State → α → State} {s : State} {a : α}
    (ha : a ∈ l) (hI : ∀ t b, I t → I (f t b)) (hnew : ∀ t, I t → P (f t a)) (hP : ∀ t b, I t → P t → P (f t b))
    (hs : I s) : P (s.each l f) := by
  unfold State.each
  induction l generalizing s with
  | nil => cases ha
  | cons b l ih =>
    rw [List.foldl_cons]
    obtain rfl | hmem := List.mem_cons.mp ha
    · have hkeep := List.foldlRecOn (motive := fun t => I t ∧ P t) l f ⟨hI s a hs, hnew s hs⟩
        fun t ht b _ => ⟨hI t b ht.1, hP t b ht.1 ht.2⟩
      exact hkeep.2
    · exact ih hmem (hI s b hs)

/-- What all changes keep holds after the whole sequence. -/
theorem State.each_invariant {α : Type} {I : State → Prop} (l : List α) {f : State → α → State} {s : State}
    (hI : ∀ t b, I t → I (f t b)) (hs : I s) : I (s.each l f) :=
  List.foldlRecOn (motive := I) l f hs fun t ht b _ => hI t b ht

/-- The cores of the run depend on the image and on the cores present. -/
theorem State.runCores_congr {s t : State} (himage : t.run.image = s.run.image) (hpresent : t.life.present = s.life.present) :
    t.runCores = s.runCores := by
  have hused : t.usedCores = s.usedCores := by
    unfold State.usedCores
    rw [himage]
  simp only [State.runCores, State.usesCore, State.present, hused, hpresent]

/-! ## Frames (02 R28, R30, R40) -/

section Frames
variable (s : State)

theorem exec_frameStart : exec .frameStart s = execFrameStart s := rfl
theorem exec_frameComplete : exec .frameComplete s = execFrameComplete s := rfl
theorem exec_imageEnd : exec .imageEnd s = execImageEnd s := rfl

theorem snapRings_access : Access s (snapRings s) :=
  .foldl s _ fun t d => .foldl t _ fun u r => by
    dsimp only
    split
    · exact .refl u
    · exact (absLoad_access ..).trans (absStore_access ..)

/-- A frame has begun on a core at an entry of its code. -/
structure Begun (n entry : Nat) (x : CoreState) : Prop where
  st : x.st = .running
  pc : x.pc = BitVec.ofNat 64 entry
  fend : x.fend = false
  frame : x.frame = n

/-- A change of one core that keeps its scalar registers, while the run but for its byte counts and the other cores go on. -/
structure ReachesCore (c : CoreId) (s t : State) : Prop where
  run : t.program.run = s.program.run
  others : ∀ c', c' ≠ c → t.core c' = s.core c'
  sregs : (t.core c).sregs = (s.core c).sregs
  upset : t.wear.next = s.wear.next

theorem ReachesCore.ofProgram {c : CoreId} {s t : State} (h : t.program = s.program) : ReachesCore c s t :=
  ⟨congrArg ProgramView.run h, fun c' _ => core_of_program h c', congrArg CoreState.sregs (core_of_program h c),
    upset_of_program h⟩

theorem ReachesCore.trans {c : CoreId} {s t u : State} (h : ReachesCore c s t) (k : ReachesCore c t u) : ReachesCore c s u :=
  ⟨k.run.trans h.run, fun c' hc => (k.others c' hc).trans (h.others c' hc), k.sregs.trans h.sregs, k.upset.trans h.upset⟩

theorem ReachesCore.modCore (s : State) (c : CoreId) {f : CoreState → CoreState} (h : (f (s.core c)).sregs = (s.core c).sregs) :
    ReachesCore c s (s.modCore c f) :=
  ⟨rfl, fun _ hc => State.core_modCore_ne s f hc, by rwa [State.core_modCore_same], rfl⟩

/-- With no upset waiting, a core's line is fetched into that core's cache alone. -/
theorem fetchEntry_reachesCore (c : CoreId) (entry : Nat) (hs : s.wear.next = .good) :
    ReachesCore c s (fetchEntry s c entry) := by
  have hline (off : Nat) : ReachesCore c s (readLine s c off .good) := by
    unfold readLine
    extract_lets a n l
    have hl : ReachesCore c s l.s := .ofProgram ((memLoad_access s a n none).calm hs)
    split
    · exact hl.trans (.modCore _ c rfl)
    · exact hl.trans (.modCore _ c rfl)
  unfold fetchEntry State.when
  extract_lets off
  split
  · exact hline _
  · exact .ofProgram rfl

theorem startCore_reachesCore (fd : FrameDesc) (n step : Nat) (c : CoreId) (hs : s.wear.next = .good) :
    ReachesCore c s (startCore fd n step s c) := by
  unfold startCore
  split
  · exact .ofProgram rfl
  · exact (fetchEntry_reachesCore s c _ hs).trans (.modCore _ c rfl)

theorem startCore_begun (fd : FrameDesc) (n step : Nat) (c : CoreId) {r : CoreDemand} (hr : fd.cores[c.val]? = some r) :
    Begun n r.entry ((startCore fd n step s c).core c) := by
  simp only [startCore, hr, State.core_modCore_same]
  exact ⟨rfl, rfl, rfl, rfl⟩

/-- What the starts of the cores keep of a state without upset: the run but for its byte counts, and all scalar registers. -/
structure Starting (s t : State) : Prop where
  run : t.program.run = s.program.run
  sregs : ∀ c, (t.core c).sregs = (s.core c).sregs
  upset : t.wear.next = .good

theorem Starting.start {s t : State} (h : Starting s t) (fd : FrameDesc) (n step : Nat) (c : CoreId) :
    Starting s (startCore fd n step t c) := by
  have hc := startCore_reachesCore t fd n step c h.upset
  refine ⟨hc.run.trans h.run, fun c' => ?_, hc.upset.trans h.upset⟩
  by_cases e : c' = c
  · subst e
    exact hc.sregs.trans (h.sregs c')
  · rw [hc.others c' e, h.sregs c']

theorem startCores_starting (fd : FrameDesc) (n step : Nat) (l : List CoreId) (hs : s.wear.next = .good) :
    Starting s (s.each l (startCore fd n step)) :=
  State.each_invariant l (fun _ c h => h.start fd n step c) ⟨rfl, fun _ => rfl, hs⟩

theorem startCores_begun (fd : FrameDesc) (n step : Nat) {l : List CoreId} {c : CoreId} (hc : c ∈ l) {r : CoreDemand}
    (hr : fd.cores[c.val]? = some r) (hs : s.wear.next = .good) :
    Begun n r.entry ((s.each l (startCore fd n step)).core c) := by
  refine State.each_reaches (I := fun t => t.wear.next = .good) (P := fun t => Begun n r.entry (t.core c)) hc
    (fun t b ht => (startCore_reachesCore t fd n step b ht).upset.trans ht) (fun t _ => startCore_begun t fd n step c hr)
    (fun t b ht hbegun => ?_) hs
  by_cases e : c = b
  · subst e
    exact startCore_begun t fd n step c hr
  · rwa [(startCore_reachesCore t fd n step b ht).others c e]

/-- A frame starts its cores, and plans their clocks, in a state that has the frame running and the cores as they were. -/
theorem startFrame_eq (fd : FrameDesc) (hs : s.wear.next = .good) :
    ∃ u : State, startFrame s fd =
        planFrame (u.each u.runCores (startCore fd s.run.next (stepOf s s.run.next).1)) fd ∧
      u.run.active = true ∧ u.run.phase = .running ∧ u.run.frame = s.run.next ∧ u.run.next = s.run.next + 1 ∧
      u.run.cursor = nextCursor s.sched s.run.cursor ∧ u.cores = s.cores ∧ u.runCores = s.runCores ∧ u.wear.next = .good := by
  have h : (snapRings (latchWindows s)).program = s.program :=
    ((Access.ofProgram (latchWindows_program s)).trans (snapRings_access _)).calm hs
  unfold startFrame
  generalize snapRings (latchWindows s) = v at h ⊢
  have himage := run_of_program Run.image (fun _ => rfl) (congrArg ProgramView.run h)
  have hcores := cores_of_program h
  have hpresent := present_of_program h
  have hupset := (upset_of_program h).trans hs
  exact ⟨_, rfl, rfl, rfl, rfl, rfl, rfl, hcores, State.runCores_congr himage hpresent, hupset⟩

/-- What the start of a frame does with no upset waiting. -/
theorem startFrame_spec (fd : FrameDesc) (hs : s.wear.next = .good) :
    (startFrame s fd).run.active = true ∧ (startFrame s fd).run.phase = .running ∧ (startFrame s fd).run.frame = s.run.next ∧
      (startFrame s fd).run.next = s.run.next + 1 ∧ (startFrame s fd).run.cursor = nextCursor s.sched s.run.cursor ∧
      (∀ c ∈ s.runCores, ∀ r, fd.cores[c.val]? = some r → Begun s.run.next r.entry ((startFrame s fd).core c)) ∧
      ∀ c, ((startFrame s fd).core c).sregs = (s.core c).sregs := by
  obtain ⟨u, heq, hactive, hphase, hframe, hnext, hcursor, hcores, hused, hupset⟩ := startFrame_eq s fd hs
  rw [heq, hused]
  have hstart := startCores_starting u fd s.run.next (stepOf s s.run.next).1 s.runCores hupset
  have hplan := planFrame_program (u.each s.runCores (startCore fd s.run.next (stepOf s s.run.next).1)) fd
  have hrun := (congrArg ProgramView.run hplan).trans hstart.run
  refine ⟨(run_of_program Run.active (fun _ => rfl) hrun).trans hactive,
    (run_of_program Run.phase (fun _ => rfl) hrun).trans hphase, (run_of_program Run.frame (fun _ => rfl) hrun).trans hframe,
    (run_of_program Run.next (fun _ => rfl) hrun).trans hnext, (run_of_program Run.cursor (fun _ => rfl) hrun).trans hcursor,
    fun c hc r hr => ?_, fun c => ?_⟩
  · rw [core_of_program hplan]
    exact startCores_begun u fd _ _ hc hr hupset
  · rw [core_of_program hplan, hstart.sregs, State.core, State.core, hcores]

theorem sealFrame_spec : (sealFrame s).run.active = false ∧ (sealFrame s).run.contrib = 0 ∧
    kvGet ⟨0, false⟩ (sealFrame s).tick.contribs s.run.frame = ⟨contribution s s.run.frame, true⟩ ∧
    (sealFrame s).cores = s.cores ∧ (sealFrame s).mem = s.mem :=
  ⟨rfl, rfl, by simp [sealFrame, setContrib], rfl, rfl⟩

theorem closePhases_mem (tag : Nat) : (closePhases s tag).mem = s.mem := by
  unfold closePhases addPhase
  refine State.each_keeps s State.mem _ _ fun t d => (State.modPdie_mem ..).trans ?_
  exact State.when_keeps _ State.mem _ _ (State.each_keeps _ State.mem _ _ fun u g => State.modPdie_mem ..)

/-- FRAME_START of a frame that no stop interrupted (02 R28). -/
theorem frameStart_of_mayStart {fd : FrameDesc} (hstop : s.run.stoppedAt = none) (hdesc : nextDesc s = some fd)
    (hmay : mayStart s = true) :
    exec .frameStart s = .next (startFrame (s.setObj 0x610006 (s.run.next % 2 ^ 32)) fd) := by
  simp [exec_frameStart, execFrameStart, hstop, hdesc, hmay]

/-- FRAME_COMPLETE once every core has completed its part (02 R28, R40). -/
theorem frameComplete_of_completed (hactive : s.run.active = true) (hphase : s.run.phase = .running)
    (hdone : ∀ c ∈ s.runCores, (s.core c).completed = true) :
    exec .frameComplete s = .next (closePhases (sealFrame s) ((s.frameDesc.map (·.tag)).getD 0)) := by
  have hall : (s.runCores.all fun c => (s.core c).completed) = true := List.all_eq_true.mpr hdone
  simp [exec_frameComplete, execFrameComplete, hactive, hphase, hall]

/-- The cores of a list set to idle: a core of the list is, whatever comes after it. -/
theorem idleCores_st {l : List CoreId} {c : CoreId} (hc : c ∈ l) :
    ((s.each l fun t c => t.modCore c fun x => { x with st := .idle }).core c).st = .idle := by
  refine State.each_reaches (I := fun _ => True) (P := fun t => (t.core c).st = .idle) hc (fun _ _ h => h)
    (fun t _ => by rw [State.core_modCore_same]) (fun t b _ ht => ?_) trivial
  by_cases e : c = b
  · subst e
    rw [State.core_modCore_same]
  · rwa [State.core_modCore_ne t _ e]

/-- The run in another phase. -/
def State.inPhase (p : RunPhase) : State := { s with run := { s.run with phase := p } }

/-- IMAGE_END once nothing of the image is left (02 R30). -/
theorem imageEnd_of_finished (hphase : s.run.phase = .running) (hactive : s.run.active = false)
    (hleft : framesLeft s = some 0) (hsteps : s.run.steps = []) (hrefresh : refreshing s = false) :
    exec .imageEnd s = .next (raise (clearFloors ((s.inPhase .ended).each s.runCores fun t c =>
      t.modCore c fun x => { x with st := .idle })) 269 (s.run.frame % 2 ^ 32) 0) := by
  have hcond : (s.run.phase == .running && !s.run.active && framesLeft s == some 0 && s.run.steps.isEmpty
      && !refreshing s) = true := by simp [hphase, hactive, hleft, hsteps, hrefresh]
  rw [exec_imageEnd]
  exact congrArg Host.Outcome.next (if_pos hcond)

end Frames

/-- Settles O29: with no upset waiting, the reads and writes of a frame's start leave the program alone, and each core that starts
leaves the others alone; the end of a frame and of an image go on in the clocks and events only. -/
theorem framesStartAndEnd : Obligations.FramesStartAndEnd := by
  refine ⟨fun s fd hstop hdesc hmay hupset => ?_, fun s hactive hphase hdone => ?_,
    fun s hphase hactive hleft hsteps hrefresh => ?_⟩
  · obtain ⟨hactive, hphase, hframe, hnext, hcursor, hbegun, hsregs⟩ :=
      startFrame_spec (s.setObj 0x610006 (s.run.next % 2 ^ 32)) fd hupset
    refine ⟨_, frameStart_of_mayStart s hstop hdesc hmay, hactive, hphase, hframe, hnext, hcursor, fun c hc r hr => ?_, hsregs⟩
    obtain ⟨hst, hpc, hfend, hn⟩ := hbegun c hc r hr
    exact ⟨hst, hpc, hfend, hn⟩
  · obtain ⟨hsealed, hcontrib, hkept, hcores, hmem⟩ := sealFrame_spec s
    have hprogram := closePhases_program (sealFrame s) ((s.frameDesc.map (·.tag)).getD 0)
    have hrun := congrArg ProgramView.run hprogram
    refine ⟨_, frameComplete_of_completed s hactive hphase hdone,
      (run_of_program Run.active (fun _ => rfl) hrun).trans hsealed,
      (run_of_program Run.contrib (fun _ => rfl) hrun).trans hcontrib, ?_, (cores_of_program hprogram).trans hcores,
      (closePhases_mem ..).trans hmem⟩
    rw [tick_of_program hprogram]
    exact hkept
  · have hrun := State.each_keeps (s.inPhase .ended) State.run s.runCores
      (fun t c => t.modCore c fun x => { x with st := .idle }) fun _ _ => rfl
    have hprogram (t : State) (d0 : Nat) : (raise (clearFloors t) 269 d0 0).program = t.program :=
      (raise_program ..).trans (clearFloors_program t)
    refine ⟨_, imageEnd_of_finished s hphase hactive hleft hsteps hrefresh, ?_, fun c hc => ?_⟩
    · exact (run_of_program Run.phase (fun _ => rfl) (congrArg ProgramView.run (hprogram _ _))).trans (congrArg Run.phase hrun)
    · rw [core_of_program (hprogram _ _)]
      exact idleCores_st _ hc

end Sys2Proof.Machine
end

section
/-!
Proofs: the stop of an image when no tick arrives in time (02 R27, R42, 03 R71).
-/
namespace Sys2Proof.Machine

/-! ## The stop of an image (02 R27, R42, 03 R71) -/

section Stop
variable (s : State)

/-- A change of one core alone that keeps its registers. -/
theorem Rests.modCore (c : CoreId) {f : CoreState → CoreState} (h : CoreRests (s.core c) (f (s.core c))) :
    Rests s (s.modCore c f) := .setCore h

theorem raiseFlags_rests (bits : Nat) : Rests s (raiseFlags s bits) := .ofCores rfl ⟨rfl, rfl, id⟩

theorem modEntry_rests (c : CoreId) (q seq : Nat) (f : QInst → QInst) : Rests s (modEntry s c q seq f) :=
  .modCore s c ⟨rfl, rfl, rfl, id⟩

theorem trapCore_rests (c : CoreId) (t : TrapInfo) (queue pc : Nat) : Rests s (trapCore s c t queue pc) :=
  .ite (.ofProgram (State.bump_program ..)) (.setCore ⟨rfl, rfl, rfl, fun _ => ⟨nofun, nofun⟩⟩)

/-! ### Exchanges that a stop aborts (12 R278) -/

@[simp] theorem modExch_program (d : DieId) (i : Nat) (f : ExchRun → ExchRun) : (modExch s d i f).program = s.program := (rfl)

theorem withExch_rests (d : DieId) (i : Nat) {f : ExchRun → ExchDesc → State} (h : ∀ r x, Rests s (f r x)) :
    Rests s (withExch s d i f) := by
  unfold withExch
  split
  · exact .refl s
  · exact h ..

theorem exchRow_rests (c : CoreId) (r : ExchRun) (l : Nat × Nat) (bs : List (Option Byte)) :
    Rests s (exchRow s c r l bs).1 := by
  have hwrite (bs : List (Option Byte)) : Rests s (exchWrite s c r l bs).1 := by
    unfold exchWrite
    split
    · exact trapCore_rests ..
    · exact (storeOpt_access ..).rests
  unfold exchRow
  extract_lets bad o
  dsimp only
  exact (hwrite _).trans (.when _ (.ofProgram (State.bump_program ..)))

theorem updateFill_rests (d : DieId) (i e : Nat) : Rests s (updateFill s d i e) :=
  withExch_rests s d i fun _ _ => .ite (.refl s) (moverStore_access ..).rests

theorem failRow_rests (d : DieId) (i e row code : Nat) : Rests s (failRow s d i e row code) := by
  refine withExch_rests s d i fun r x => ?_
  extract_lets buf s1 s2
  have h1 : Rests s s1 := .ofProgram (modExch_program ..)
  have h2 : Rests s1 s2 := .ite (exchRow_rests ..) (.refl s1)
  exact (h1.trans h2).trans (updateFill_rests ..)

theorem haltExch_rests (d : DieId) (i : Nat) (dup : Bool) : Rests s (haltExch s d i dup) := by
  refine Rests.trans (withExch_rests s d i fun r x => ?_) (.ofProgram (modExch_program ..))
  extract_lets a b
  have ha : Rests s a := .each s _ fun t w => failRow_rests ..
  have hb : Rests a b := .each a _ fun t k => exchRow_rests ..
  exact (ha.trans hb).trans (.ofProgram (modExch_program ..))

theorem abortExchs_rests (n : Nat) (stop : Bool) : Rests s (abortExchs s n stop) := by
  refine .each s _ fun t d => .each t _ fun u i => ?_
  split
  · exact .refl u
  · exact .ite (.refl u) (.ite ((haltExch_rests ..).trans (.ofProgram (State.bump_program ..))) (.refl u))

/-! ### Update blocks that a stop ends (14 R332) -/

@[simp] theorem modUpd_program (d : DieId) (i : Nat) (f : UpdRun → UpdRun) : (modUpd s d i f).program = s.program := (rfl)
@[simp] theorem modRec_program (d : DieId) (i : Nat) (f : RecTrack → RecTrack) : (modRec s d i f).program = s.program := (rfl)

theorem setRecField_access (c : CoreId) (a off n v : Nat) : Access s (setRecField s c a off n v) := moverStore_access ..

theorem failBlocks_rests (d : DieId) (i code : Nat) (sel : Nat → Bool) : Rests s (failBlocks s d i code sel) := by
  unfold failBlocks
  split
  · exact .refl s
  · rename_i u _
    extract_lets ks s1 s2
    have h2 : Rests s s2 := .ofProgram ((State.bumpBy_program ..).trans (modUpd_program ..))
    exact .ite (.refl s) (.ite (h2.trans (setRecField_access ..).rests) h2)

theorem settleUpd_rests (d : DieId) (i : Nat) : Rests s (settleUpd s d i) := by
  unfold settleUpd
  split
  · exact .refl s
  · rename_i u _
    extract_lets x c raw rec' s1 s2
    have h1 : Rests s s1 := .ite (moverPut_access ..).rests (.refl s)
    have h2 : Rests s1 s2 := .when _ (raiseFlags_rests ..)
    exact .ite (.refl s) (((h1.trans h2).trans (.ofProgram (State.modUnit_program ..))).trans (modEntry_rests ..))

theorem stopUpds_rests (c : CoreId) : Rests s (stopUpds s c) := by
  refine .each s _ fun t i => ?_
  split
  · exact .refl t
  · exact .ite (.refl t) ((failBlocks_rests ..).trans (settleUpd_rests ..))

/-! ### Steps that a stop abandons (14 Table 14.3) -/

theorem readTable_access (c : CoreId) (a : Nat) : Access s (readTable s c a).2.2 :=
  (absLoad_access ..).trans (absLoad_access ..)

theorem startRepair_access (d : DieId) (i k : Nat) : Access s (startRepair s d i k) := by
  unfold startRepair
  split
  · exact .refl s
  · rename_i r _
    extract_lets c s1 tb t gen a b
    have h1 : Access s s1 := (setRecField_access ..).trans (.ofProgram (modRec_program ..))
    have hb : Access s1 b := ((readTable_access ..).trans (absLoad_access ..)).trans (absLoad_access ..)
    split
    · exact h1
    · exact (h1.trans hb).trans (absLoad_access ..)

theorem idleRec_access (d : DieId) (i : Nat) : Access s (idleRec s d i) := by
  unfold idleRec
  split
  · exact .refl s
  · split
    · exact startRepair_access ..
    · exact .refl s

theorem decideDie_access (d : DieId) (step outcome : Nat) : Access s (decideDie s d step outcome) := by
  refine .foldl s _ fun t i => ?_
  split
  · exact .refl t
  · rename_i r _
    extract_lets c st t1 a b a'
    have h1 : Access t t1 := absLoad_access ..
    have hb : Access t1 b := ((setRecField_access ..).trans (setRecField_access ..)).trans (setRecField_access ..)
    have ha : Access t1 a' := by
      unfold a'
      split
      · exact .refl t1
      · exact setRecField_access ..
    split
    · exact .refl t
    · split
      · exact (h1.trans hb).trans (.ofProgram ((modRec_program ..).trans (State.bump_program ..)))
      · refine ((h1.trans ha).trans (.ofProgram ?_)).trans (idleRec_access ..)
        exact (modRec_program ..).trans
          ((State.when_program _ _ _ (State.bump_program ..)).trans (State.bump_program ..))

theorem decideRecords_rests (step outcome : Nat) : Rests s (decideRecords s step outcome) :=
  (Access.foldl s _ fun t d => decideDie_access t d step outcome).rests

theorem abandonStep_rests (r : StepRec) : Rests s (abandonStep s r) := by
  have h : Rests s (decideRecords (s.bump 0x670006) r.num 3) :=
    (Rests.ofProgram (State.bump_program ..)).trans (decideRecords_rests ..)
  unfold abandonStep
  generalize decideRecords (s.bump 0x670006) r.num 3 = t at h ⊢
  exact h.trans (.ofCores rfl ⟨rfl, rfl, id⟩)

/-! ### The stop itself -/

/-- A core that stops keeps its registers, and neither issues nor waits. -/
theorem stopCore_spec (c : CoreId) : Rests s (stopCore s c) ∧ ((stopCore s c).core c).resting := by
  unfold stopCore
  extract_lets x
  cases hst : x.st
  case running => exact ⟨.setCore ⟨rfl, rfl, rfl, fun _ => ⟨nofun, nofun⟩⟩, by simp [CoreState.resting]⟩
  case waiting => exact ⟨.setCore ⟨rfl, rfl, rfl, fun _ => ⟨nofun, nofun⟩⟩, by simp [CoreState.resting]⟩
  case idle => exact ⟨.setCore ⟨rfl, rfl, rfl, fun _ => ⟨nofun, nofun⟩⟩, by simp [CoreState.resting]⟩
  all_goals
    have hcore : (s.core c).st = _ := hst
    exact ⟨.refl s, by simp [CoreState.resting, hcore]⟩

theorem stopCores_resting {l : List CoreId} {c : CoreId} (hc : c ∈ l) : ((s.each l stopCore).core c).resting :=
  State.each_reaches (I := fun _ => True) (P := fun t => (t.core c).resting) hc (fun _ _ h => h)
    (fun t _ => (stopCore_spec t c).2) (fun t b _ h => ((stopCore_spec t b).1.core c).resting h) trivial

theorem parkFlags_rests : Rests s (parkFlags s) := .ofCores rfl ⟨rfl, rfl, id⟩

theorem settleStop_rests : Rests s (settleStop s) := by
  unfold settleStop
  split
  · extract_lets s1
    have h1 : Rests s s1 := .when _ (.ofCores rfl ⟨rfl, rfl, id⟩)
    exact h1.trans (.when _ (.ofProgram (setDeviceState_program ..)))
  · exact .refl s

/-- The stop of R42: the run is stopped at its tick with no step undecided, its cores neither issue nor wait, and every core keeps
its registers. -/
structure StoppedAt (tick : Nat) (s t : State) : Prop where
  phase : t.run.phase = .stopped
  stopTick : t.run.stopTick = some tick
  steps : t.run.steps = []
  resting : ∀ c ∈ s.runCores, (t.core c).resting
  regs : ∀ c, (t.core c).sregs = (s.core c).sregs ∧ (t.core c).adescs = (s.core c).adescs ∧ (t.core c).pc = (s.core c).pc

theorem StoppedAt.rests {tick : Nat} {s t u : State} (h : StoppedAt tick s t) (k : Rests t u) : StoppedAt tick s u where
  phase := k.run.stopped h.phase
  stopTick := k.run.stopTick.trans h.stopTick
  steps := k.run.steps.trans h.steps
  resting c hc := (k.core c).resting (h.resting c hc)
  regs c := by
    obtain ⟨hsregs, hadescs, hpc⟩ := h.regs c
    exact ⟨(k.core c).sregs.trans hsregs, (k.core c).adescs.trans hadescs, (k.core c).pc.trans hpc⟩

theorem stopImage_stoppedAt (t cause : Nat) (himage : s.hasImage = true) (hphase : s.run.phase ≠ .stopped) :
    StoppedAt t s (stopImage s t cause) := by
  have hcond : ¬ (!s.hasImage || s.run.phase == .stopped) = true := by simp [himage, hphase]
  unfold stopImage
  rw [if_neg hcond]
  extract_lets r s1 s2 s3 r3 s4 s5
  have hcores : s1.runCores = s.runCores := State.runCores_congr rfl rfl
  have h2 : Rests s1 s2 :=
    (Rests.each s1 _ fun t c => (stopCore_spec t c).1).trans (.each _ _ fun t c => stopUpds_rests t c)
  have h3 : Rests s2 s3 := .each s2 _ fun t r => abandonStep_rests t r
  have hresting (c : CoreId) (hc : c ∈ s.runCores) : (s2.core c).resting :=
    ((Rests.each _ _ fun t c => stopUpds_rests t c).core c).resting (stopCores_resting s1 (hcores ▸ hc))
  have h4 : StoppedAt t s s4 := {
    phase := h3.run.stopped (h2.run.stopped rfl)
    stopTick := h3.run.stopTick.trans h2.run.stopTick
    steps := rfl
    resting := fun c hc => (h3.core c).resting (hresting c hc)
    regs := fun c => have k := (h2.trans h3).core c; ⟨k.sregs, k.adescs, k.pc⟩ }
  have h5 : Rests s4 s5 := .when _ (parkFlags_rests s4)
  exact h4.rests ((h5.trans (abortExchs_rests ..)).trans (settleStop_rests ..))

theorem exec_tickLoss : exec .tickLoss s = execTickLoss s := rfl

/-- TICK_LOSS stops the image at the tick the counter shows; a follower's forgotten ticks and the event come before, and leave the
cores and the run as they are. -/
theorem tickLoss_eq : ∃ t : State, exec .tickLoss s = .next (stopImage t s.tick.count 257) ∧ t.cores = s.cores ∧
    t.run.image = s.run.image ∧ t.run.phase = s.run.phase ∧ t.life.present = s.life.present := by
  rw [exec_tickLoss]
  unfold execTickLoss
  extract_lets s1
  have hcount : s1.tick.count = s.tick.count := State.when_keeps s (·.tick.count) _ _ rfl
  have hcores : s1.cores = s.cores := State.when_keeps s State.cores _ _ rfl
  have hrun : s1.run = s.run := State.when_keeps s State.run _ _ rfl
  have hlife : s1.life = s.life := State.when_keeps s State.life _ _ rfl
  have hraise := raise_program s1 257 s1.tick.count 0
  have hrun' := congrArg ProgramView.run hraise
  rw [hcount] at hraise hrun' ⊢
  refine ⟨_, rfl, (cores_of_program hraise).trans hcores, ?_, ?_, ?_⟩
  · rw [run_of_program Run.image (fun _ => rfl) hrun', hrun]
  · rw [run_of_program Run.phase (fun _ => rfl) hrun', hrun]
  · rw [present_of_program hraise, hlife]

end Stop

/-- Settles O30: TICK_LOSS is the stop of R42, whose every part leaves the cores' registers alone and no core at work. -/
theorem tickLossStopsTheImage : Obligations.TickLossStopsTheImage := by
  intro s himage hphase
  obtain ⟨t, hexec, hcores, hrun, hphase', hpresent⟩ := tickLoss_eq s
  have himage' : t.hasImage = true := by rwa [State.hasImage, hrun]
  have hcore (c : CoreId) : t.core c = s.core c := by rw [State.core, State.core, hcores]
  have h := stopImage_stoppedAt t s.tick.count 257 himage' (hphase' ▸ hphase)
  refine ⟨_, hexec, h.phase, h.stopTick, h.steps, fun c hc => h.resting c ?_, fun c => ?_⟩
  · rwa [State.runCores_congr hrun hpresent]
  · rw [← hcore c]
    exact h.regs c

end Sys2Proof.Machine
end

section
/-!
Proofs: payloads, the ticks that a timebase fires, and the tick counter (02 R24 to R26, R39, R40, 10 R224 to R228).
-/
namespace Sys2Proof.Machine

/-! ## Payloads (02 R39, R40, 10 R228) -/

theorem bitAt_eq_testBit (x i : Nat) : bitAt x i = x.testBit i := by
  rw [bitAt, Nat.testBit_eq_decide_div_mod_eq]
  rfl

theorem testBit_fld (x lo w b : Nat) (h : b < w) : (fld x lo w).testBit b = x.testBit (lo + b) := by
  simp [fld, Nat.testBit_mod_two_pow, Nat.testBit_div_two_pow, h, Nat.add_comm]

/-- A bit of an OR over a range, of which only the first 64 numbers count, is set exactly when one of them sets it. -/
theorem testBit_foldl_or_range (f : Nat → Nat) (m b : Nat) :
    ((List.range m).foldl (fun acc i => if i < 64 then acc ||| f i else acc) 0).testBit b = true ↔
      ∃ i, i < m ∧ i < 64 ∧ (f i).testBit b = true := by
  induction m with
  | zero => simp
  | succ m ih =>
    rw [List.range_succ, List.foldl_append, List.foldl_cons, List.foldl_nil, Nat.exists_lt_succ_right, ← ih]
    by_cases h : m < 64 <;> simp [h]

/-- The wave of tick `k` holds the flags of frame `n` in its entry `k - 1 - n`. -/
theorem payloadOf_bits_testBit (s : State) (n w b : Nat) (hw : w ≤ n + 64) (hb : b < 16) :
    (payloadOf s n w).bits.testBit b = true ↔
      ∃ k, n < k ∧ k ≤ w ∧ (s.wave k).flags.testBit (16 * (k - 1 - n) + b) = true := by
  have hbits : (payloadOf s n w).bits.testBit b = true ↔
      ∃ i, i < w - n ∧ i < 64 ∧ (s.wave (n + 1 + i)).flags.testBit (16 * i + b) = true := by
    simp only [payloadOf, testBit_foldl_or_range, testBit_fld _ _ 16 b hb]
  rw [hbits]
  constructor
  · rintro ⟨i, hi, -, hflag⟩
    refine ⟨n + 1 + i, by omega, by omega, ?_⟩
    rwa [show n + 1 + i - 1 - n = i by omega]
  · rintro ⟨k, hn, hk, hflag⟩
    refine ⟨k - 1 - n, by omega, by omega, ?_⟩
    rwa [show n + 1 + (k - 1 - n) = k by omega]

theorem payloadOf_final (s : State) (n w : Nat) :
    (payloadOf s n w).final = true ↔ (s.wave w).openBits.testBit (w - 1 - n) = false := by
  simp [payloadOf, bitAt_eq_testBit]

/-- Settles O26: the payload ORs entry `k - 1 - n` of each wave `k`, and of the last wave it reads the OPEN bit of the frame. -/
theorem payloadIsTheOrOfItsWaves : Obligations.PayloadIsTheOrOfItsWaves := by
  refine ⟨fun s n w b _ hw hb => ⟨payloadOf_bits_testBit s n w b hw hb, payloadOf_final s n w⟩, fun a b i => ?_⟩
  exact ⟨Nat.testBit_or .., Nat.testBit_or ..⟩

/-! ## Frames sent on a port (10 R232) -/

/-- What a frame sent on a port changes: neither the program nor the dictionary nor another port, and outputs are only added. -/
structure Sends (p : PortId) (s t : State) : Prop where
  others : ∀ q, q ≠ p → t.port q = s.port q
  out : ∀ o ∈ s.out, o ∈ t.out
  dict : t.dict = s.dict
  program : t.program = s.program

section Sends
variable {p : PortId}

theorem Sends.refl (s : State) : Sends p s s := ⟨fun _ _ => rfl, fun _ h => h, rfl, rfl⟩

theorem Sends.trans {s t u : State} (h : Sends p s t) (k : Sends p t u) : Sends p s u :=
  ⟨fun q hq => (k.others q hq).trans (h.others q hq), fun o ho => k.out o (h.out o ho), k.dict.trans h.dict,
    k.program.trans h.program⟩

theorem Sends.emit (s : State) (o : Output) : Sends p s (s.emit o) :=
  ⟨fun _ _ => rfl, fun _ h => List.mem_cons_of_mem o h, rfl, rfl⟩

theorem Sends.modPort (s : State) (f : Port → Port) : Sends p s (s.modPort p f) :=
  
  ⟨fun _ hq => State.port_modPort_ne s f hq, fun _ h => h, rfl, rfl⟩

theorem emitFrame_sends (s : State) (type : Nat) (bs : List Byte) : Sends p s (emitFrame s p type bs) := by
  unfold emitFrame
  extract_lets s1
  have h1 : Sends p s s1 := .emit s _
  split
  · exact h1
  · exact State.each_invariant (I := Sends p s) _ (fun t f h => h.trans (.emit t _)) (h1.trans (.modPort s1 _))

theorem sendRaw_sends (s : State) (type : Nat) (bs : List Byte) : Sends p s (sendRaw s p type bs) := by
  have hboundary : Sends p s (dsBoundary s p) := by
    unfold dsBoundary
    extract_lets x
    split
    · exact .refl s
    · exact .modPort s _
  unfold sendRaw
  extract_lets s1 x
  refine hboundary.trans ?_
  split
  · exact emitFrame_sends ..
  · extract_lets a single s2
    have h2 : Sends p s1 s2 := .modPort s1 _
    split
    · exact emitFrame_sends ..
    · split
      · exact h2
      · exact h2.trans (emitFrame_sends ..)
      · exact h2.trans (.modPort s2 _)
      · exact h2.trans (emitFrame_sends ..)

end Sends

section Ticks
variable (s : State)

/-- A port without injection sends a frame that is no DATA frame as it is. -/
theorem sendRaw_of_quiet (p : PortId) (type : Nat) (bs : List Byte) (htype : type ≠ 1) (harmed : (s.port p).dsArmed = none)
    (hwait : (s.port p).dsWait = false) : sendRaw s p type bs = s.emit (.frame p.val bs) := by
  have hboundary : dsBoundary s p = s := by simp [dsBoundary, hwait]
  simp [sendRaw, hboundary, harmed, emitFrame, htype]

/-! ## Ticks that a timebase fires (02 R24 to R26) -/

theorem exec_timebaseTick (delays : List Nat) : exec (.timebaseTick delays) s = execTimebaseTick delays s := rfl
theorem exec_tickInEdge (gap : Nat) (delays : List Nat) : exec (.tickInEdge gap delays) s = execTickInEdge gap delays s := rfl

theorem sendMarkers_program (t period e hops base origin : Nat) (delays : List Nat) :
    (sendMarkers s t period e hops base origin delays).program = s.program :=
  State.each_program s _ _ fun _ _ => (sendRaw_sends ..).program

theorem markerFrame_congr {s u : State} (h : u.tick = s.tick) (t period e hops base origin : Nat) :
    markerFrame u t period e hops base origin = markerFrame s t period e hops base origin := by
  simp only [markerFrame, h]

/-- A MARKER leaves on every port of the tick network without injection (10 R224). -/
theorem sendMarkers_out (t period e hops base origin : Nat) (delays : List Nat) {p : PortId} (hticks : (s.port p).ticks = true)
    (harmed : (s.port p).dsArmed = none) (hwait : (s.port p).dsWait = false) :
    Output.frame p.val (markerFrame s t period (e + delays.getD p.val 0) hops base origin) ∈
      (sendMarkers s t period e hops base origin delays).out := by
  have hmem : p ∈ tickPorts s := List.mem_filter.mpr ⟨List.mem_finRange p, hticks⟩
  have hquiet (u : State) (hport : u.port p = s.port p) (bs : List Byte) : sendRaw u p 3 bs = u.emit (.frame p.val bs) :=
    sendRaw_of_quiet u p 3 bs (by decide) (hport ▸ harmed) (hport ▸ hwait)
  refine State.each_reaches (I := fun u => u.tick = s.tick ∧ u.port p = s.port p)
    (P := fun u => Output.frame p.val _ ∈ u.out) hmem (fun u q hu => ⟨?_, ?_⟩) (fun u hu => ?_)
    (fun u q _ ho => (sendRaw_sends ..).out _ ho) ⟨rfl, rfl⟩
  · exact (tick_of_program (sendRaw_sends ..).program).trans hu.1
  · by_cases hq : p = q
    · subst hq
      rw [hquiet u hu.2]
      exact hu.2
    · rw [(sendRaw_sends ..).others p hq, hu.2]
  · rw [hquiet u hu.2, markerFrame_congr hu.1]
    exact List.mem_cons_self

/-- A tick fired waits out its hold behind those before it. -/
theorem fireTick_tick (delays : List Nat) : (fireTick s delays).tick =
    { s.tick with seen := some (nextTick s), holds := s.tick.holds ++ [nextTick s] } := by
  have hmarkers : ∀ b, (s.when b fun x => sendMarkers x (nextTick s) x.tick.period 0 0 (x.obj kBasePeriod)
      (x.obj kPackageId) delays).tick = s.tick :=
    fun b => State.when_keeps s State.tick b _ (tick_of_program (sendMarkers_program ..))
  simp only [fireTick, holdTick, State.modTick, hmarkers]

theorem fireTick_out (delays : List Nat) {p : PortId} (hmode : s.obj kTickMode ≠ modeLocal) (hticks : (s.port p).ticks = true)
    (harmed : (s.port p).dsArmed = none) (hwait : (s.port p).dsWait = false) :
    Output.frame p.val (markerFrame s (nextTick s) s.tick.period (delays.getD p.val 0) 0 (s.obj kBasePeriod)
      (s.obj kPackageId)) ∈ (fireTick s delays).out := by
  have h := sendMarkers_out s (nextTick s) s.tick.period 0 0 (s.obj kBasePeriod) (s.obj kPackageId) delays hticks harmed hwait
  rw [Nat.zero_add] at h
  have hmarkers : (s.obj kTickMode != modeLocal) = true := bne_iff_ne.mpr hmode
  simp only [fireTick, hmarkers, State.when_true]
  exact h

theorem timebaseTick_fires (delays : List Nat) (halive : s.alive = true)
    (hmode : s.obj kTickMode = modeLocal ∨ s.obj kTickMode = modeMaster) :
    exec (.timebaseTick delays) s = .next (fireTick s delays) := by
  simp [exec_timebaseTick, execTimebaseTick, halive, hmode]

/-- In LOCAL mode no MARKER is sent. -/
theorem fireTick_local (delays : List Nat) (hmode : s.obj kTickMode = modeLocal) : fireTick s delays =
    { s with tick := { s.tick with seen := some (nextTick s), holds := s.tick.holds ++ [nextTick s] } } := by
  simp [fireTick, hmode, holdTick, State.modTick]

/-- An edge that comes too soon is counted and ignored (21 R476). -/
theorem tickInEdge_early (gap : Nat) (delays : List Nat) (halive : s.alive = true) (hmode : s.obj kTickMode = modeExternal)
    (hseen : s.tick.edgesSeen ≠ 0) (hgap : gap < 2000) : exec (.tickInEdge gap delays) s = .next (s.bump 0x610009) := by
  simp [exec_tickInEdge, execTickInEdge, halive, hmode, hseen, hgap]

/-- An edge that is accepted sets the period, and fires the next tick (02 R24, R25). -/
theorem tickInEdge_accepted (gap : Nat) (delays : List Nat) (halive : s.alive = true)
    (hmode : s.obj kTickMode = modeExternal) (hseen : s.tick.edgesSeen ≠ 0) (hgap : 2000 ≤ gap) :
    exec (.tickInEdge gap delays) s = .next (fireTick (s.modTick fun x => { x with
      period := gap, edges := (gap :: x.edges).take 15, edgesSeen := x.edgesSeen + 1 }) delays) := by
  have hlate : ¬ gap < 2000 := by omega
  simp [exec_tickInEdge, execTickInEdge, halive, hmode, hseen, hlate, State.modTick]

end Ticks

/-- Settles O25, mode by mode: a tick fires and waits out its hold; what else happens are the markers sent and the edge noted. -/
theorem ticksAreFiredByTheirSource : Obligations.TicksAreFiredByTheirSource := by
  refine ⟨fun delays s halive hmode => ?_, fun delays s halive hmode => ?_, fun gap delays s halive hmode hseen => ⟨?_, ?_⟩⟩
  · rw [timebaseTick_fires s delays halive (.inl hmode), fireTick_local s delays hmode]
  · have hmarkers : s.obj kTickMode ≠ modeLocal := by
      rw [hmode]
      decide
    exact ⟨_, timebaseTick_fires s delays halive (.inr hmode), fireTick_tick s delays,
      fun p => fireTick_out s delays hmarkers⟩
  · exact tickInEdge_early s gap delays halive hmode hseen
  · intro hgap
    refine ⟨_, tickInEdge_accepted s gap delays halive hmode hseen hgap, ?_⟩
    rw [fireTick_tick]
    exact ⟨rfl, rfl, rfl, rfl⟩

/-! ## The tick counter's object (02 Table 2.7) -/

section Counter
variable (s : State)

theorem sendWave_dict (w : Nat) : (sendWave s w).dict = s.dict :=
  State.each_keeps s State.dict _ _ fun _ _ => (sendRaw_sends ..).dict

theorem sendWave_program (w : Nat) : (sendWave s w).program = s.program :=
  State.each_program s _ _ fun _ _ => (sendRaw_sends ..).program

theorem originateWave_dict (t : Nat) : (originateWave s t).dict = s.dict := sendWave_dict ..

theorem originateWave_firstWave (t : Nat) : (originateWave s t).tick.firstWave = some (s.tick.firstWave.getD t) :=
  congrArg TickNet.firstWave (tick_of_program (sendWave_program ..))

theorem markLate_dict (t : Nat) : (markLate s t).dict = s.dict := by
  unfold markLate
  split <;> rfl

theorem markLate_firstWave (t : Nat) : (markLate s t).tick.firstWave = s.tick.firstWave := by
  unfold markLate
  split <;> rfl

theorem tickPortsStep_dict (t : Nat) : (tickPortsStep s t).dict = s.dict := State.each_keeps s State.dict _ _ fun _ _ => rfl

theorem tickPortsStep_tick (t : Nat) : (tickPortsStep s t).tick = s.tick := State.each_keeps s State.tick _ _ fun _ _ => rfl

theorem exec_tickArrival : exec .tickArrival s = execTickArrival s := rfl

/-- With a FLAG_LATENCY above 1 the first tick after a reset delivers no payload. -/
theorem deliver_of_firstWave (t : Nat) (hfirst : s.tick.firstWave = some t) (hlatency : 2 ≤ s.latency) (ht : 0 < t) :
    deliver s t = s := by
  have hearly : t + 1 - s.latency < t := by omega
  simp [deliver, hfirst, hearly]

/-- The object of the tick counter after the first tick: the tick's number, whatever it is. -/
theorem tickArrive_count_first (t : Nat) (harrived : s.tick.arrived = false) (hlatency : 2 ≤ s.latency) (ht : 0 < t) :
    (tickArrive s t).obj 0x610001 = t := by
  unfold tickArrive
  extract_lets s1 s2 m s3 s4
  have hdict : s4.dict = s3.dict := (originateWave_dict ..).trans ((markLate_dict ..).trans (tickPortsStep_dict ..))
  have hobj (k : Nat) : s4.obj k = s3.obj k := congrArg (fun d => kvGet (objDefault k) d k) hdict
  have htick : s3.tick = s1.tick := State.when_keeps s1 State.tick _ _ rfl
  have hdict2 : s2.dict = s.dict := State.when_keeps s1 State.dict _ _ rfl
  have hlatency4 : s4.latency = s.latency := by
    have h1 : s3.obj kFlagLatency = s2.obj kFlagLatency :=
      (State.obj_setObj_ne _ _ (by decide)).trans (State.obj_setObj_ne _ _ (by decide))
    exact (hobj _).trans (h1.trans (congrArg (fun d => kvGet (objDefault kFlagLatency) d kFlagLatency) hdict2))
  have hfirst : s4.tick.firstWave = some t := by
    have h1 : s3.tick.firstWave = none := by simp [htick, s1, State.modTick, harrived]
    rw [originateWave_firstWave, markLate_firstWave, tickPortsStep_tick, h1]
    rfl
  rw [deliver_of_firstWave s4 t hfirst (hlatency4 ▸ hlatency) ht, hobj]
  exact (State.obj_setObj_ne _ _ (by decide)).trans (State.obj_setObj_same ..)

end Counter

/-- A package after its reset with FLAG_LATENCY 2 and one tick on hold, whose number is one more than 64 bits can hold. -/
def beyondCounter : State :=
  { State.reset with dict := [(kFlagLatency, 2)], tick := { TickNet.reset with holds := [2 ^ 64] } }

/-- Refutes O27: the model's tick numbers are unbounded, and TICK_ARRIVAL puts the tick's number into object 0x6100:01 as it is,
where the statement takes it modulo the object's 64 bits; tick 2^64 tells the two apart. -/
theorem not_tickArrivalAdvancesTheCounter : ¬ Obligations.TickArrivalAdvancesTheCounter := by
  intro h
  obtain ⟨t, hexec, -, hobj, -⟩ := h.1 beyondCounter (2 ^ 64) [] rfl
  have hnext : t = tickArrive (beyondCounter.modTick fun x => { x with holds := [] }) (2 ^ 64) := by
    rw [exec_tickArrival] at hexec
    exact (Host.Outcome.next.inj hexec).symm
  have hcount := tickArrive_count_first (beyondCounter.modTick fun x => { x with holds := [] }) (2 ^ 64) rfl (by decide)
    (by decide)
  have hwidth : objWidth 0x610001 = 64 := by decide
  rw [hnext, hcount, hwidth] at hobj
  exact absurd hobj (by decide)

end Sys2Proof.Machine
end

section
/-!
Proofs: the core's controller: registers and predicates, the instructions that it issues and resumes, handovers and bulk
channels (03 R46 to R70, 04 R101, 08 R175).
-/
namespace Sys2Proof.Machine

/-! ## Registers and predicates (03 R46) -/

/-- A bit of a number with a field replaced is the field's inside it and the number's outside. -/
theorem testBit_setFld (x lo w v b : Nat) : (setFld x lo w v).testBit b =
    if b < lo then x.testBit b else if b < lo + w then v.testBit (b - lo) else x.testBit b := by
  have hform : setFld x lo w v = 2 ^ lo * (2 ^ w * (x / 2 ^ (lo + w)) + v % 2 ^ w) + x % 2 ^ lo := by
    rw [setFld, pow_add]
    ring
  rw [hform, Nat.testBit_two_pow_mul_add _ (Nat.mod_lt _ (Nat.two_pow_pos lo)),
    Nat.testBit_two_pow_mul_add _ (Nat.mod_lt _ (Nat.two_pow_pos w))]
  split
  case isTrue h => simp [Nat.testBit_mod_two_pow, h]
  case isFalse h =>
    split
    case isTrue hin =>
      have hb : b < lo + w := by omega
      simp [Nat.testBit_mod_two_pow, hin, hb]
    case isFalse hout =>
      rw [if_neg (by omega), Nat.testBit_div_two_pow, Nat.sub_sub, Nat.sub_add_cancel (by omega)]

theorem testBit_setBitAt (x i b : Nat) (v : Bool) : (setBitAt x i v).testBit b = if b = i then v else x.testBit b := by
  rw [setBitAt, testBit_setFld]
  rcases lt_trichotomy b i with h | rfl | h
  · rw [if_pos h, if_neg h.ne]
  · cases v <;> simp
  · rw [if_neg h.not_gt, if_neg (by omega), if_neg h.ne']

section Registers
variable (x : CoreState)

theorem sreg_zero : x.sreg 0 = 0 := rfl

theorem pred_zero : x.pred 0 = true := rfl

theorem setSreg_zero (v : Word) : x.setSreg 0 v = x := rfl

theorem setPred_zero (b : Bool) : x.setPred 0 b = x := rfl

theorem sreg_setSreg {i j : Nat} (v : Word) (hi : i < 32) (hj : j < 32) :
    (x.setSreg i v).sreg j = if j = 0 then 0 else if j = i then v else x.sreg j := by
  by_cases hj0 : j = 0
  · rw [if_pos hj0, hj0, sreg_zero]
  by_cases hi0 : i = 0
  · rw [if_neg hj0, if_neg (hi0 ▸ hj0), hi0, setSreg_zero]
  simp [CoreState.setSreg, CoreState.sreg, Nat.mod_eq_of_lt hi, Nat.mod_eq_of_lt hj, hi0, hj0, Vector.getElem_set, eq_comm]

theorem pred_setPred {i j : Nat} (b : Bool) (hi : i < 8) (hj : j < 8) :
    (x.setPred i b).pred j = if j = 0 then true else if j = i then b else x.pred j := by
  by_cases hj0 : j = 0
  · rw [if_pos hj0, hj0, pred_zero]
  by_cases hi0 : i = 0
  · rw [if_neg hj0, if_neg (hi0 ▸ hj0), hi0, setPred_zero]
  have hbit : (BitVec.ofNat 8 (setBitAt x.preds.toNat i b)).getLsbD j = if j = i then b else x.preds.getLsbD j := by
    simp only [BitVec.getLsbD_ofNat, hj, decide_true, Bool.true_and, testBit_setBitAt, BitVec.testBit_toNat]
  simp only [CoreState.setPred, CoreState.pred, Nat.mod_eq_of_lt hi, Nat.mod_eq_of_lt hj, hi0, hj0, if_false, hbit,
    beq_eq_false_iff_ne.mpr hj0, Bool.false_or]

@[simp] theorem setSreg_pc (i : Nat) (v : Word) : (x.setSreg i v).pc = x.pc := by
  unfold CoreState.setSreg
  split <;> rfl

@[simp] theorem setSreg_seq (i : Nat) (v : Word) : (x.setSreg i v).seq = x.seq := by
  unfold CoreState.setSreg
  split <;> rfl

end Registers

/-- Settles O2: one lemma for each register file, and the hard-wired entries by definition. -/
theorem scalarRegistersAndPredicates : Obligations.ScalarRegistersAndPredicates :=
  ⟨fun x _ _ v => sreg_setSreg x v, fun x _ _ b => pred_setPred x b, fun x v b => ⟨setSreg_zero x v, setPred_zero x b⟩⟩

/-! ## What the controller issues and resumes (03 R55 to R58, 04 R77) -/

section Controller
variable (s : State) (c : CoreId)

theorem exec_flagrd (h : Hdr) (f : BitVec 51) : exec (.flagrd c h f) s = execFlagrd c h f s := rfl
theorem exec_flagrdPayloadFinal : exec (.flagrdPayloadFinal c) s = execFlagrdPayloadFinal c s := rfl
theorem exec_srdScaleRelease : exec (.srdScaleRelease c) s = execSrdScaleRelease c s := rfl
theorem exec_waitqRelease : exec (.waitqRelease c) s = execWaitqRelease c s := rfl
theorem exec_issueQueueSpace : exec (.issueQueueSpace c) s = execIssueQueueSpace c s := rfl
theorem exec_handoverEffect (bank : Fin 8) (waited : Nat) :
    exec (.handoverEffect c bank waited) s = execHandoverEffect c bank waited s := rfl
theorem exec_bulkChannelAssign (ch : Fin 4) : exec (.bulkChannelAssign c ch) s = execBulkChannelAssign c ch s := rfl

/-- A fetch through a cache without a word in error reads nothing that it must mend. -/
theorem fetchCode_clean (words : Nat) (h : (s.core c).icDev = []) : fetchCode s c words = s := by
  simp [fetchCode, h]

theorem regTrap_clean {x : CoreState} (keys : List Nat) (h : x.regErr = []) : regTrap x keys = none := by
  have hfind : keys.find? (fun k => kvGet 0 x.regErr k == 2) = none := by simp [List.find?_eq_none, h]
  rw [regTrap, hfind]

theorem regCorrect_clean (keys : List Nat) (h : (s.core c).regErr = []) : regCorrect s c keys = s := by
  unfold regCorrect State.each
  refine List.foldlRecOn (motive := (· = s)) keys _ rfl fun t ht k _ => ?_
  subst ht
  simp [h]

/-- An instruction that the controller issues, and whose own checks find nothing, has its effect on the state as it stands. -/
theorem issue_of_issues {words : Nat} {h : Hdr} (hissues : Issues s c words h) (op : Nat) (f : BitVec 51) {legal : Bool}
    (hlegal : legal = true) (reads : List Nat) (act : State → State) :
    issue s c op words h f legal reads [] act = act s := by
  obtain ⟨hcan, hfetch1, hfetch, hlen, hguard, hreg, hcache⟩ := hissues
  simp [issue, fetchCode_clean s c _ hcache, hcan, hfetch1, hfetch, hlen, hguard, hlegal, regTrap_clean _ hreg,
    regCorrect_clean s c _ hreg, lowestTrap]

/-- A change of the core that leaves its place in the program alone, followed by the advance past the instruction. -/
theorem ran_eq_modCore (words : Nat) {f : CoreState → CoreState} (hpc : (f (s.core c)).pc = (s.core c).pc)
    (hseq : (f (s.core c)).seq = (s.core c).seq) : s.ran c words f = s.modCore c fun x => (f x).advance words := by
  simp [State.ran, State.modCore, CoreState.advance, hpc, hseq]

theorem writeSreg_eq_ran (words i : Nat) (v : Word) : writeSreg s c words i v = s.ran c words fun x => x.setSreg i v :=
  (ran_eq_modCore s c words (setSreg_pc ..) (setSreg_seq ..)).symm

theorem modCore_resume_eq_ran (words : Nat) {f : CoreState → CoreState} (hpc : (f (s.core c)).pc = (s.core c).pc)
    (hseq : (f (s.core c)).seq = (s.core c).seq) :
    (s.modCore c fun x => (f x).resume words) = s.ran c words fun x => { f x with stall := .none } :=
  (ran_eq_modCore s c words (f := fun x => { f x with stall := .none }) hpc hseq).symm

/-! ### FLAGRD, and the releases of a stalled controller (04 R101, 13 R292, 03 R64, R56) -/

theorem flagrd_unkept {h : Hdr} {f : BitVec 51} (hissues : Issues s c 1 h) (hzero : ff f 0 41 = 0)
    (hkept : keptFrame (s.core c).frame (((s.core c).sreg (ff f 41 5)).toNat % 2 ^ 32) = none) :
    exec (.flagrd c h f) s = .next (s.ran c 1 fun x => x.setSreg (ff f 46 5) (BitVec.ofNat 64 (2 ^ 63))) := by
  rw [exec_flagrd, execFlagrd, issue_of_issues s c hissues _ _ (by simp [hzero])]
  simp only [hkept, writeSreg_eq_ran]

theorem flagrd_final {h : Hdr} {f : BitVec 51} {n : Nat} (hissues : Issues s c 1 h) (hzero : ff f 0 41 = 0)
    (hkept : keptFrame (s.core c).frame (((s.core c).sreg (ff f 41 5)).toNat % 2 ^ 32) = some n)
    (hfinal : (s.payload n).final = true) :
    exec (.flagrd c h f) s = .next (s.ran c 1 fun x => x.setSreg (ff f 46 5) (BitVec.ofNat 64 (s.payload n).bits)) := by
  rw [exec_flagrd, execFlagrd, issue_of_issues s c hissues _ _ (by simp [hzero])]
  simp only [hkept, hfinal, if_true, writeSreg_eq_ran]

theorem flagrdPayloadFinal_resumes {sd n : Nat} (hstall : (s.core c).stall = .flagrd sd n)
    (hfinal : (s.payload n).final = true) : exec (.flagrdPayloadFinal c) s =
      .next (s.ran c 1 fun x => { x.setSreg sd (BitVec.ofNat 64 (s.payload n).bits) with stall := .none }) := by
  simp only [exec_flagrdPayloadFinal, execFlagrdPayloadFinal, hstall, hfinal, if_true]
  rw [modCore_resume_eq_ran s c 1 (setSreg_pc ..) (setSreg_seq ..)]

theorem srdScaleRelease_resumes {sd step e : Nat} (hstall : (s.core c).stall = .scale sd step)
    (hscale : stepScale s step = some e) : exec (.srdScaleRelease c) s =
      .next (s.ran c 1 fun x => { x.setSreg sd (BitVec.ofNat 64 e) with stall := .none }) := by
  simp only [exec_srdScaleRelease, execSrdScaleRelease, hstall, hscale]
  rw [modCore_resume_eq_ran s c 1 (setSreg_pc ..) (setSreg_seq ..)]

theorem waitqRelease_resumes {q k n : Nat} (hstall : (s.core c).stall = .waitq q k n)
    (hdone : unfinished (s.core c) q n ≤ k) :
    exec (.waitqRelease c) s = .next (s.ran c 1 fun x => { x with stall := .none }) := by
  simp only [exec_waitqRelease, execWaitqRelease, hstall, if_pos hdone]
  rfl

theorem issueQueueSpace_resumes {q : Nat} (hstall : (s.core c).stall = .queue q)
    (hspace : ((s.core c).queue q).length < 16) :
    exec (.issueQueueSpace c) s = .next (s.modCore c fun x => { x with stall := .none }) := by
  simp only [exec_issueQueueSpace, execIssueQueueSpace, hstall, if_pos hspace]
  rfl

/-! ## Handovers and bulk channels (03 R61, 08 R175) -/

theorem handoverEffect_takes {bank : Fin 8} (waited : Nat) {h : Handover}
    (holdest : ((s.core c).hand.find? fun g => g.bank == bank.val) = some h) (hready : handoverReady s (s.core c) h = true) :
    exec (.handoverEffect c bank waited) s = .next ((s.modCore c fun x => { x with
      hand := removeFirst (fun g => g.bank == bank.val) x.hand
      banks := BitVec.ofNat 32 (setFld x.banks.toNat (4 * bank.val) 4 (h.owner + 8 * h.share.toNat)) }).bumpBy 0x620005
        waited) := by
  simp only [exec_handoverEffect, execHandoverEffect, holdest, hready, if_true, State.modCore, Nat.mul_comm h.share.toNat]

theorem setHead_of_cons {q : Nat} {i : QInst} {rest : List QInst} (hqueue : (s.core c).queue q = i :: rest) (j : QInst) :
    setHead s c q j = s.modCore c fun x => x.setQueue q (j :: rest) := by
  simp [setHead, State.modCore, hqueue]

/-- A bulk channel is the die's: no core is touched. -/
theorem setBulk_core (d : DieId) (k : Nat) (o : Option (Nat × Nat)) : (setBulk s d k o).core c = s.core c := rfl

theorem bulkChannelAssign_takes {ch : Fin 4} {i : QInst} {rest : List QInst} {x : Xfer} {k : Nat}
    (hrun : (s.core c).st = .running) (hqueue : (s.core c).queue (3 + ch.val) = i :: rest) (hxfer : xferOf i.op = some x)
    (hbulk : x.isBulk s = true) (hnone : i.bulk = none) (hfree : freeBulk (s.die (dieOf c)) = some k) :
    exec (.bulkChannelAssign c ch) s = .next ((setBulk s (dieOf c) k (some (c.val, ch.val))).modCore c fun y =>
      y.setQueue (3 + ch.val) ({ i with bulk := some k } :: rest)) := by
  have hassign : (x.isBulk s && i.bulk.isNone && (s.core c).st = .running) = true := by simp [hbulk, hnone, hrun]
  simp only [exec_bulkChannelAssign, execBulkChannelAssign, hqueue, hxfer, hfree, hassign, if_true]
  rw [setHead_of_cons _ c ((congrArg (·.queue (3 + ch.val)) (setBulk_core s c ..)).trans hqueue)]

end Controller

/-- Settles O13: an issued instruction acts on the state as it stands, and each release resumes past the waiting one. -/
theorem stalledControllersResume : Obligations.StalledControllersResume :=
  ⟨fun c _ _ s => flagrd_unkept s c, fun c _ _ s _ => flagrd_final s c, fun c s _ _ => flagrdPayloadFinal_resumes s c,
    fun c s _ _ _ => srdScaleRelease_resumes s c, fun c s _ _ _ => waitqRelease_resumes s c,
    fun c s _ => issueQueueSpace_resumes s c⟩

/-- Settles O19: both commands' conditions hold, and each does what its condition allows. -/
theorem handoversAndBulkChannels : Obligations.HandoversAndBulkChannels :=
  ⟨fun c _ waited s _ => handoverEffect_takes s c waited, fun c _ s _ _ _ _ => bulkChannelAssign_takes s c⟩

end Sys2Proof.Machine
end

section
/-!
Proofs: the lines of a core's code, and the failure for good that reading one can meet (03 R69, 09 R203, 01 R15).
-/
namespace Sys2Proof.Machine

section Fault
variable (s : State) (c : CoreId)

theorem exec_icacheLineFill (line : Nat) (how : FillOutcome) :
    exec (.icacheLineFill c line how) s = execIcacheLineFill c line how s := rfl

/-- A line that arrives, or is marked bad, leaves the core's state as reading its bytes left it. -/
theorem readLine_st (off : Nat) (how : MemOutcome) : ((readLine s c off how).core c).st =
    ((memLoad s (codeAddr s c off) (min 256 (((s.seg (codeSeg s c)).map (·.bytes)).getD 0 - off)) none how).s.core c).st := by
  unfold readLine
  dsimp only
  split
  · rw [fillLine, State.core_modCore_same]
  · rw [markLine, State.core_modCore_same]

theorem freezeImage_stops (h : (s.core c).st = .running) : ((freezeImage s).core c).st = .stopped := by
  have hcore : s.cores[c.val].st = .running := h
  simp [freezeImage, State.core, hcore]

theorem driveReady_program (level : Bool) : (driveReady s level).program = s.program := by
  unfold driveReady
  split <;> rfl

theorem enterFault_stops (cause : Nat) (hstate : s.obj kDeviceState ≠ 4) (h : (s.core c).st = .running) :
    ((enterFault s cause).core c).st = .stopped := by
  rw [enterFault, if_neg hstate]
  refine freezeImage_stops _ c ?_
  rw [core_of_program ((driveReady_program ..).trans (setDeviceState_program ..)), h]

/-- One more page to fence than Stratus' table holds moves the package to FAULT, which stops its cores. -/
theorem fencePage_full_stops (d : DieId) {a : Nat} (hstratus : isHbm a = false) (hfenced : isFenced s d a = false)
    (hfull : 64 ≤ (s.die d).fencedS.length) (hstate : s.obj kDeviceState ≠ 4) (h : (s.core c).st = .running) :
    ((fencePage s d a).core c).st = .stopped := by
  simp only [fencePage, hfenced, hstratus, hfull, if_true, Bool.false_eq_true, if_false]
  exact enterFault_stops _ c _ hstate h

end Fault

/-! ## A line fill that stops its core -/

/-- An image of one core whose one segment is 4,096 bytes of code at 0x2000, in die 0's Stratus. -/
def codeImage : Image := ⟨1, 1, 2, false, 0, 0, 4096, [⟨0x2000, 4096, 0, 1, 0, 0, 0⟩], [], []⟩

/-- An OPERATIONAL package whose core 0 runs a frame of that image. 64 pages of die 0's Stratus are fenced, as many as the table
holds and none of them a page of the code, and an upset lets the next read meet a hard fault (09 R203;
notes/assumptions/147.md). -/
def fullFence : State :=
  { State.reset with
    cores := State.reset.cores.set 0 { CoreState.reset with st := .running }
    dies := State.reset.dies.set 0 { DieMem.reset with fencedS := (List.range 64).map fun k => 2 ^ 20 + 512 * k }
    run := { Run.reset with image := some codeImage, phase := .running, active := true }
    life := { Life.reset with stage := 6, present := BitVec.allOnes 32 }
    dict := [(kDeviceState, 2)]
    wear := { Wear.reset with next := .hard } }

/-- Die 0's Stratus: one region of pages. -/
def stratusRegion : RegionHit := ⟨0, false, 0, regionReset 8192, 0⟩

/-- That state once the page of the code's first line is found lost and written in poison form, before it is fenced. -/
def lostPage : State := lastingError { fullFence with wear := .reset } stratusRegion 0x2000 false

theorem memLoad_fullFence : (memLoad fullFence 0x2000 256 none .good).s = fencePage lostPage 0 0x2000 := rfl

/-- Fencing the code's first page is one page too many: the core that was running is stopped. -/
theorem readLine_fullFence_stops : ((readLine fullFence 0 0 .good).core 0).st = .stopped := by
  have hrun : (lostPage.core 0).st = .running := by decide
  have haddr : codeAddr fullFence 0 0 = 0x2000 := by decide
  have hbytes : min 256 (((fullFence.seg (codeSeg fullFence 0)).map (·.bytes)).getD 0 - 0) = 256 := by decide
  rw [readLine_st, haddr, hbytes, memLoad_fullFence]
  exact fencePage_full_stops lostPage 0 0 (by decide) (by decide) (by decide) (by decide) hrun

/-- Refutes O23: a line fill reads Stratus, and a read that meets a hard fault while the table of fenced pages is full fails the
layer for good, moves the package to FAULT and stops the core, whose state the statement keeps. -/
theorem not_codeLinesArrive : ¬ Obligations.CodeLinesArrive := by
  intro h
  obtain ⟨t, hexec, -, -, hst, -⟩ := h 0 0 .filled fullFence (by decide) (by decide)
  have hfill : exec (.icacheLineFill 0 0 .filled) fullFence = .next (readLine fullFence 0 0 .good) := by
    rw [exec_icacheLineFill]
    rfl
  have hnext : readLine fullFence 0 0 .good = t := Host.Outcome.next.inj (hfill.symm.trans hexec)
  have hrun : (fullFence.core 0).st = .running := by decide
  rw [← hnext, readLine_fullFence_stops, hrun] at hst
  exact absurd hst (by decide)

end Sys2Proof.Machine
end

section
/-!
Proofs: the instructions that the controller issues and ends by itself: the scalar class, the control class and the reserved
opcodes (04 R79 to R86, R99 to R102).
-/
namespace Sys2Proof.Machine

/-- The record held for a core whose first trap this is (03 R67, Tables 3.13 to 3.19). -/
def trapRecOf (x : CoreState) (t : TrapInfo) (queue pc : Nat) : TrapRec :=
  ⟨true, t.cause, queue, x.frame % 2 ^ 32, pc, t.addr, t.detail % 2 ^ 64, 0, 0, 0, x.step⟩

section Issued
variable (s : State) (c : CoreId)

/-! ## The meanings of the instructions -/

theorem exec_sop (h : Hdr) (f : BitVec 51) : exec (.sop c h f) s = execSop c h f s := rfl
theorem exec_sopi (h : Hdr) (f : BitVec 51) : exec (.sopi c h f) s = execSopi c h f s := rfl
theorem exec_sli (h : Hdr) (f : BitVec 51) (imm : BitVec 64) : exec (.sli c h f imm) s = execSli c h f imm s := rfl
theorem exec_sld (h : Hdr) (f : BitVec 51) : exec (.sld c h f) s = execSld c h f s := rfl
theorem exec_sst (h : Hdr) (f : BitVec 51) : exec (.sst c h f) s = execSst c h f s := rfl
theorem exec_scmp (h : Hdr) (f : BitVec 51) : exec (.scmp c h f) s = execScmp c h f s := rfl
theorem exec_scmpi (h : Hdr) (f : BitVec 51) : exec (.scmpi c h f) s = execScmpi c h f s := rfl
theorem exec_pset (h : Hdr) (f : BitVec 51) : exec (.pset c h f) s = execPset c h f s := rfl
theorem exec_br (h : Hdr) (f : BitVec 51) : exec (.br c h f) s = execBr c h f s := rfl
theorem exec_call (h : Hdr) (f : BitVec 51) : exec (.call c h f) s = execCall c h f s := rfl
theorem exec_jmpr (h : Hdr) (f : BitVec 51) : exec (.jmpr c h f) s = execJmpr c h f s := rfl
theorem exec_srd (h : Hdr) (f : BitVec 51) : exec (.srd c h f) s = execSrd c h f s := rfl
theorem exec_dset (h : Hdr) (f : BitVec 51) : exec (.dset c h f) s = execDset c h f s := rfl
theorem exec_dget (h : Hdr) (f : BitVec 51) : exec (.dget c h f) s = execDget c h f s := rfl
theorem exec_dld (h : Hdr) (f : BitVec 51) : exec (.dld c h f) s = execDld c h f s := rfl
theorem exec_dst (h : Hdr) (f : BitVec 51) : exec (.dst c h f) s = execDst c h f s := rfl
theorem exec_dadv (h : Hdr) (f : BitVec 51) : exec (.dadv c h f) s = execDadv c h f s := rfl
theorem exec_reservedOpcodeTrap (op : BitVec 7) (h : Hdr) (f : BitVec 51) :
    exec (.reservedOpcodeTrap c op h f) s = execReservedOpcodeTrap c op h f s := rfl
theorem exec_fend (h : Hdr) (f : BitVec 51) : exec (.fend c h f) s = execFend c h f s := rfl
theorem exec_waitq (h : Hdr) (f : BitVec 51) : exec (.waitq c h f) s = execWaitq c h f s := rfl
theorem exec_bankset (h : Hdr) (f : BitVec 51) : exec (.bankset c h f) s = execBankset c h f s := rfl
theorem exec_flagset (h : Hdr) (f : BitVec 51) : exec (.flagset c h f) s = execFlagset c h f s := rfl
theorem exec_ptag (h : Hdr) (f : BitVec 51) : exec (.ptag c h f) s = execPtag c h f s := rfl

/-! ## Advancing past an instruction that writes the register file -/

/-- An instruction that the controller issues, and whose operands the checks pass, has its effect on the state as it stands. -/
theorem issue_of_checked {words : Nat} {h : Hdr} (hissues : Issues s c words h) (op : Nat) (f : BitVec 51) {legal : Bool}
    (hlegal : legal = true) (reads : List Nat) {checks : List TrapInfo} (hchecks : checks = []) (act : State → State) :
    issue s c op words h f legal reads checks act = act s := by
  rw [hchecks, issue_of_issues s c hissues op f hlegal]

@[simp] theorem setPred_pc (x : CoreState) (i : Nat) (b : Bool) : (x.setPred i b).pc = x.pc := by
  unfold CoreState.setPred
  split <;> rfl

@[simp] theorem setPred_seq (x : CoreState) (i : Nat) (b : Bool) : (x.setPred i b).seq = x.seq := by
  unfold CoreState.setPred
  split <;> rfl

theorem writePred_eq_ran (i : Nat) (b : Bool) : writePred s c i b = s.ran c 1 fun x => x.setPred i b :=
  (ran_eq_modCore s c 1 (setPred_pc ..) (setPred_seq ..)).symm

/-! ## The scalar functions (04 R80) -/

theorem sop_writes {h : Hdr} {f : BitVec 51} {v : Word} (hissues : Issues s c 1 h) (hzero : ff f 0 30 = 0)
    (hfn : scalarFn (ff f 30 6) ((s.core c).sreg (ff f 41 5)) ((s.core c).sreg (ff f 36 5)) = some v) :
    exec (.sop c h f) s = .next (s.ran c 1 fun x => x.setSreg (ff f 46 5) v) := by
  rw [exec_sop, execSop, issue_of_issues s c hissues _ _ (by simp [hzero, hfn]), hfn, writeSreg_eq_ran, Option.getD_some]

theorem sopi_writes {h : Hdr} {f : BitVec 51} {v : Word} (hissues : Issues s c 1 h) (hzero : ff f 32 3 = 0)
    (hfn : scalarFn (ff f 35 6) ((s.core c).sreg (ff f 41 5)) (immOperand (ff f 35 6) (BitVec.ofNat 32 (ff f 0 32))) = some v) :
    exec (.sopi c h f) s = .next (s.ran c 1 fun x => x.setSreg (ff f 46 5) v) := by
  rw [exec_sopi, execSopi, issue_of_issues s c hissues _ _ (by simp [hzero, hfn]), hfn, writeSreg_eq_ran, Option.getD_some]

theorem sli_writes {h : Hdr} {f : BitVec 51} (imm : BitVec 64) (hissues : Issues s c 2 h) (hzero : ff f 0 46 = 0) :
    exec (.sli c h f imm) s = .next (s.ran c 2 fun x => x.setSreg (ff f 46 5) imm) := by
  rw [exec_sli, execSli, issue_of_issues s c hissues _ _ (by simp [hzero]), writeSreg_eq_ran]

/-! ## Compares and predicates (04 R83) -/

theorem scmp_writes {h : Hdr} {f : BitVec 51} {b : Bool} (hissues : Issues s c 1 h) (hhigh : ff f 46 2 = 0)
    (hlow : ff f 0 32 = 0)
    (hcc : condition (ff f 32 4) ((s.core c).sreg (ff f 41 5)) ((s.core c).sreg (ff f 36 5)) = some b) :
    exec (.scmp c h f) s = .next (s.ran c 1 fun x => x.setPred (ff f 48 3) b) := by
  rw [exec_scmp, execScmp, issue_of_issues s c hissues _ _ (by simp [hhigh, hlow, hcc]), hcc, writePred_eq_ran,
    Option.getD_some]

theorem scmpi_writes {h : Hdr} {f : BitVec 51} {b : Bool} (hissues : Issues s c 1 h) (hhigh : ff f 46 2 = 0)
    (hsb : ff f 36 5 = 0)
    (hcc : condition (ff f 32 4) ((s.core c).sreg (ff f 41 5)) ((BitVec.ofNat 32 (ff f 0 32)).signExtend 64) = some b) :
    exec (.scmpi c h f) s = .next (s.ran c 1 fun x => x.setPred (ff f 48 3) b) := by
  rw [exec_scmpi, execScmpi, issue_of_issues s c hissues _ _ (by simp [hhigh, hsb, hcc]), hcc, writePred_eq_ran,
    Option.getD_some]

/-- Bit `i` of a number is bit 0 of the number shifted down by `i`. -/
theorem bitAt_div_two_pow (x i : Nat) : bitAt (x / 2 ^ i) 0 = bitAt x i := by
  simp [bitAt]

theorem pset_writes {h : Hdr} {f : BitVec 51} (hissues : Issues s c 1 h) (hzero : ff f 0 38 = 0) :
    exec (.pset c h f) s = .next (s.ran c 1 fun x => x.setPred (ff f 48 3)
      (bitAt (ff f 38 4 / 2 ^ (2 * (x.pred (ff f 45 3)).toNat + (x.pred (ff f 42 3)).toNat)) 0)) := by
  rw [exec_pset, execPset, issue_of_issues s c hissues _ _ (by simp [hzero]), writePred_eq_ran]
  simp only [State.ran, bitAt_div_two_pow]

/-! ## Branches (04 R84, 03 R57) -/

theorem br_jumps {h : Hdr} {f : BitVec 51} (hissues : Issues s c 1 h) (hzero : ff f 32 19 = 0) :
    exec (.br c h f) s = .next (jumpTo s c (branchTarget (s.core c).pc (ff f 0 32))) := by
  rw [exec_br, execBr, issue_of_issues s c hissues _ _ (by simp [hzero])]

theorem jmpr_jumps {h : Hdr} {f : BitVec 51} (hissues : Issues s c 1 h) (hhigh : ff f 46 5 = 0) (hlow : ff f 0 41 = 0) :
    exec (.jmpr c h f) s = .next (jumpTo s c ((s.core c).sreg (ff f 41 5))) := by
  rw [exec_jmpr, execJmpr, issue_of_issues s c hissues _ _ (by simp [hhigh, hlow])]

theorem setCore_setCore (x y : CoreState) : (s.setCore c x).setCore c y = s.setCore c y := by
  simp [State.setCore]

theorem modCore_modCore (f g : CoreState → CoreState) : (s.modCore c f).modCore c g = s.modCore c fun x => g (f x) := by
  simp only [State.modCore, State.core_setCore_same, setCore_setCore]

/-- CALL writes its link before it jumps, or traps and writes nothing. -/
theorem call_jumps {h : Hdr} {f : BitVec 51} (hissues : Issues s c 1 h) (hzero : ff f 32 14 = 0) :
    exec (.call c h f) s = .next (
      let pc := (s.core c).pc
      let t := branchTarget pc (ff f 0 32)
      if targetOk s t then s.modCore c fun x => { x.setSreg (ff f 46 5) (pc + 8) with pc := t, seq := x.seq + 1 }
      else trapCore s c (fetchBounds s c t.toNat) 0xFF pc.toNat) := by
  rw [exec_call, execCall, issue_of_issues s c hissues _ _ (by simp [hzero])]
  dsimp only
  split
  case isTrue hok =>
    have hok' (g : CoreState → CoreState) : targetOk (s.modCore c g) (branchTarget (s.core c).pc (ff f 0 32)) = true := hok
    simp only [jumpTo, hok', if_true, modCore_modCore, setSreg_seq]
  case isFalse hbad => rw [jumpTo, if_neg hbad]

/-! ## SRD (04 R85, 13 R292) -/

theorem srd_reads {h : Hdr} {f : BitVec 51} {v : Word} (hissues : Issues s c 1 h) (hzero : ff f 0 38 = 0)
    (hsel : ff f 38 8 < 8) (hv : srdValue s c (ff f 38 8) = some v) :
    exec (.srd c h f) s = .next (s.ran c 1 fun x => x.setSreg (ff f 46 5) v) := by
  rw [exec_srd, execSrd, issue_of_issues s c hissues _ _ (by simp [hzero, hsel.le])]
  rw [if_neg hsel.ne, hv, writeSreg_eq_ran, Option.getD_some]

theorem srd_scale {h : Hdr} {f : BitVec 51} {e : Nat} (hissues : Issues s c 1 h) (hzero : ff f 0 38 = 0)
    (hsel : ff f 38 8 = 8) (hscale : stepScale s (s.core c).step = some e) :
    exec (.srd c h f) s = .next (s.ran c 1 fun x => x.setSreg (ff f 46 5) (BitVec.ofNat 64 e)) := by
  rw [exec_srd, execSrd, issue_of_issues s c hissues _ _ (by simp [hzero, hsel])]
  simp only [if_pos hsel, srdScale, hscale, writeSreg_eq_ran]

/-! ## Descriptors (04 R86) -/

theorem reservedTrap_of_zero {d : Desc} (h : dReserved d = 0) : reservedTrap d = [] := by
  simp [reservedTrap, require, h]

theorem dset_writes {h : Hdr} {f : BitVec 51} {lo w : Nat} (hissues : Issues s c 1 h) (hzero : ff f 0 38 = 0)
    (hfield : dField (ff f 43 4) = some (lo, w)) (hres : dReserved ((s.core c).adesc (ff f 47 4)) = 0) :
    exec (.dset c h f) s = .next (s.ran c 1 fun x => x.setAdesc (ff f 47 4)
      (descWith (x.adesc (ff f 47 4)) (lo, w) (x.sreg (ff f 38 5)).toNat)) := by
  rw [exec_dset, execDset, issue_of_checked s c hissues _ _ (by simp [hzero, hfield]) _ (reservedTrap_of_zero hres), hfield]
  rw [ran_eq_modCore s c 1 rfl rfl, Option.getD_some]

theorem descField_of_dField {d : Desc} {code lo w : Nat} (hfield : dField code = some (lo, w)) :
    descField d code = some (
      let v := fld d.toNat lo w
      if code = 3 ∨ code = 4 then BitVec.ofInt 64 (sgn 32 v) else BitVec.ofNat 64 v) := by
  simp [descField, hfield]

theorem dget_reads {h : Hdr} {f : BitVec 51} {v : Word} (hissues : Issues s c 1 h) (hzero : ff f 0 38 = 0)
    (hfield : descField ((s.core c).adesc (ff f 42 4)) (ff f 38 4) = some v)
    (hres : dReserved ((s.core c).adesc (ff f 42 4)) = 0) :
    exec (.dget c h f) s = .next (s.ran c 1 fun x => x.setSreg (ff f 46 5) v) := by
  rw [exec_dget, execDget, issue_of_checked s c hissues _ _ (by simp [hzero, hfield]) _ (reservedTrap_of_zero hres), hfield]
  rw [writeSreg_eq_ran, Option.getD_some]

theorem dadv_advances {h : Hdr} {f : BitVec 51} (hissues : Issues s c 1 h) (hzero : ff f 0 40 = 0)
    (hdim : ff f 40 2 = 1 ∨ ff f 40 2 = 2) (hres : dReserved ((s.core c).adesc (ff f 47 4)) = 0) :
    exec (.dadv c h f) s = .next (s.ran c 1 fun x => x.setAdesc (ff f 47 4)
      (descAdvance (x.adesc (ff f 47 4)) (ff f 40 2) (x.sreg (ff f 42 5)))) := by
  rw [exec_dadv, execDadv, issue_of_checked s c hissues _ _ (by simp [hzero, hdim]) _ (reservedTrap_of_zero hres)]
  rw [ran_eq_modCore s c 1 rfl rfl]

/-! ## Accesses that stall the controller (04 R82, R86) -/

theorem sld_stalls {h : Hdr} {f : BitVec 51} (hissues : Issues s c 1 h)
    (hchecks : checkScalar s c (ff f 30 8) (scalarOff (s.core c) (ff f 41 5) (ff f 0 30)) (2 ^ ff f 39 2) (2 ^ ff f 39 2)
      false = []) :
    exec (.sld c h f) s = .next (s.modCore c fun x => { x with
      stall := .load (ff f 46 5) (ff f 30 8) (scalarOff x (ff f 41 5) (ff f 0 30)) (2 ^ ff f 39 2) (ff f 38 1 == 1) }) := by
  rw [exec_sld, execSld, issue_of_checked s c hissues _ _ rfl _ hchecks]
  rfl

theorem sst_stalls {h : Hdr} {f : BitVec 51} (hissues : Issues s c 1 h) (hzero : ff f 38 1 = 0)
    (hchecks : checkScalar s c (ff f 30 8) (scalarOff (s.core c) (ff f 41 5) (ff f 0 30)) (2 ^ ff f 39 2) (2 ^ ff f 39 2)
      true = []) :
    exec (.sst c h f) s = .next (s.modCore c fun x => { x with
      stall := .store ((x.sreg (ff f 46 5)).toNat % 2 ^ (8 * 2 ^ ff f 39 2)) (ff f 30 8) (scalarOff x (ff f 41 5) (ff f 0 30))
        (2 ^ ff f 39 2) }) := by
  rw [exec_sst, execSst, issue_of_checked s c hissues _ _ (by simp [hzero]) _ hchecks]
  rfl

theorem dld_stalls {h : Hdr} {f : BitVec 51} (hissues : Issues s c 1 h) (hzero : ff f 38 4 = 0)
    (hchecks : checkScalar s c (ff f 30 8) (scalarOff (s.core c) (ff f 42 5) (ff f 0 30)) 32 8 false = []) :
    exec (.dld c h f) s = .next (s.modCore c fun x => { x with
      stall := .descLoad (ff f 47 4) (ff f 30 8) (scalarOff x (ff f 42 5) (ff f 0 30)) }) := by
  rw [exec_dld, execDld, issue_of_checked s c hissues _ _ (by simp [hzero]) _ hchecks]
  rfl

theorem dst_stalls {h : Hdr} {f : BitVec 51} (hissues : Issues s c 1 h) (hzero : ff f 38 4 = 0)
    (hchecks : checkScalar s c (ff f 30 8) (scalarOff (s.core c) (ff f 42 5) (ff f 0 30)) 32 8 true = [])
    (hres : dReserved ((s.core c).adesc (ff f 47 4)) = 0) :
    exec (.dst c h f) s = .next (s.modCore c fun x => { x with
      stall := .descStore (x.adesc (ff f 47 4)) (ff f 30 8) (scalarOff x (ff f 42 5) (ff f 0 30)) }) := by
  have hall : reservedTrap ((s.core c).adesc (ff f 47 4)) ++
      checkScalar s c (ff f 30 8) (scalarOff (s.core c) (ff f 42 5) (ff f 0 30)) 32 8 true = [] := by
    rw [reservedTrap_of_zero hres, hchecks, List.append_nil]
  rw [exec_dst, execDst, issue_of_checked s c hissues _ _ (by simp [hzero]) _ hall]
  rfl

/-! ## The control class (03 R58, R61, R64, 04 R99 to R102) -/

theorem fend_ends (h : Hdr) (hissues : Issues s c 1 h) :
    exec (.fend c h 0) s = .next (closeSelection
      (s.ran c 1 fun x => { x.retag ((s.frameDesc.map (·.tag)).getD 0) with fend := true }) (dieOf c)) := by
  rw [exec_fend, execFend, issue_of_issues s c hissues _ _ (legal := ff 0 0 51 == 0) rfl]
  rfl

/-- A field of one bit is 1 just when its bit is set. -/
theorem ff_one_beq (f : BitVec 51) (lo : Nat) : (ff f lo 1 == 1) = bitAt (ff f lo 1) 0 := by
  simp [bitAt, ff, fld]

theorem bankset_requests {h : Hdr} {f : BitVec 51} (hissues : Issues s c 1 h) (hzero : ff f 0 39 = 0) (howner : ff f 40 3 ≤ 4) :
    exec (.bankset c h f) s = .next (s.ran c 1 fun x => { x with
      hand := x.hand ++ ((List.range 8).filter fun b => bitAt (ff f 43 8) b).map fun b =>
        ⟨b, ff f 40 3, bitAt (ff f 39 1) 0, x.seq⟩ }) := by
  rw [exec_bankset, execBankset, issue_of_issues s c hissues _ _ (by simp [hzero, howner])]
  simp only [ff_one_beq]
  rfl

/-- What is unfinished of what has been issued is the distance from DONE to ISSUED. -/
theorem unfinished_issuedOf (x : CoreState) (q : Nat) :
    unfinished x q (x.issuedOf q).toNat = (x.issuedOf q - x.doneOf q).toNat := by
  have hdone := (x.doneOf q).isLt
  rw [unfinished, distMod, BitVec.toNat_sub, Nat.mod_eq_of_lt hdone, Nat.add_comm]

theorem waitq_passes_or_stalls {h : Hdr} {f : BitVec 51} (hissues : Issues s c 1 h) (hzero : ff f 16 31 = 0)
    (hq : ff f 47 4 ≤ 9) :
    exec (.waitq c h f) s = .next (
      let x := s.core c
      if ((x.issuedOf (ff f 47 4)) - (x.doneOf (ff f 47 4))).toNat ≤ ff f 0 16 then s.ran c 1 id
      else s.modCore c fun y => { y with stall := .waitq (ff f 47 4) (ff f 0 16) (x.issuedOf (ff f 47 4)).toNat }) := by
  rw [exec_waitq, execWaitq, issue_of_issues s c hissues _ _ (by simp [hzero, hq])]
  simp only [unfinished_issuedOf]
  rfl

theorem ptag_retags {h : Hdr} {f : BitVec 51} (hissues : Issues s c 1 h) (hzero : ff f 0 43 = 0) :
    exec (.ptag c h f) s = .next (s.ran c 1 fun x => x.retag (ff f 43 8)) := by
  rw [exec_ptag, execPtag, issue_of_issues s c hissues _ _ (by simp [hzero])]
  rfl

/-- FLAGSET is an advance and an OR into the contribution. -/
theorem flagset_raises {h : Hdr} {f : BitVec 51} (hissues : Issues s c 1 h) (hzero : ff f 0 43 = 0) :
    exec (.flagset c h f) s =
      .next { s.ran c 1 id with run := { s.run with contrib := s.run.contrib ||| (ff f 43 8 * 256) } } := by
  rw [exec_flagset, execFlagset, issue_of_issues s c hissues _ _ (by simp [hzero])]
  rfl

/-- Bits 0 to 7 stand below the USER flags, and bit `8 + i` is flag `i`. -/
theorem testBit_or_userFlags (a b i : Nat) : (i < 8 → (a ||| (b * 256)).testBit i = a.testBit i) ∧
    (a ||| (b * 256)).testBit (8 + i) = (a.testBit (8 + i) || b.testBit i) := by
  have hshift : b * 256 = 2 ^ 8 * b := Nat.mul_comm b 256
  rw [hshift]
  refine ⟨fun hi => ?_, ?_⟩
  · rw [Nat.testBit_or, Nat.testBit_two_pow_mul, decide_eq_false (by omega), Bool.false_and, Bool.or_false]
  · rw [Nat.testBit_or, Nat.testBit_two_pow_mul, decide_eq_true (by omega), Bool.true_and, Nat.add_sub_cancel_left]

/-! ## Reserved opcodes (03 R67, 04 R77, R79) -/

/-- An opcode that no instruction has goes to no queue. -/
theorem queueOfOp_of_unassigned {op : Nat} (h : assignedOp op = false) (f : BitVec 51) : queueOfOp op f = 0xFF := by
  simp only [assignedOp, Bool.or_eq_false_iff, Bool.and_eq_false_iff, decide_eq_false_iff_not, beq_eq_false_iff_ne] at h
  unfold queueOfOp
  rw [if_neg (by simp; omega), if_neg (by simp; omega)]
  split
  case h_7 => rfl
  all_goals omega

theorem instrWord_lt (op : Nat) (h : Hdr) (f : BitVec 51) : instrWord op h f < 2 ^ 64 := by
  have hgp := h.gp.isLt
  have hgn := h.gn.toNat_le
  have hlen := h.len.isLt
  have hf := f.isLt
  unfold instrWord
  omega

/-- An instruction that is not legal traps as ILLEGAL_INSTRUCTION, whether its LEN or a field is at fault. -/
theorem issue_illegal {h : Hdr} (op : Nat) (f : BitVec 51) (hcan : canIssue (s.core c) = true) (hfetch : fetchTrap s c 1 = none)
    (hguard : guardOf (s.core c) h = true) (hreg : (s.core c).regErr = []) (hcache : (s.core c).icDev = []) (reads : List Nat)
    (checks : List TrapInfo) (act : State → State) : issue s c op 1 h f false reads checks act =
      trapCore s c (plainTrap 4 (instrWord op h f)) (queueOfOp op f) (s.core c).pc.toNat := by
  simp [issue, fetchCode_clean s c _ hcache, hcan, hfetch, hguard, regTrap_clean _ hreg]

theorem trapCore_of_running (hrun : (s.core c).st = .running) (hnone : (s.core c).trapPend = none) (t : TrapInfo)
    (queue pc : Nat) : trapCore s c t queue pc = s.setCore c { s.core c with
      st := .stopping, trapPend := some (trapRecOf (s.core c) t queue pc), stall := .none, drain := drainSet (s.core c) } := by
  simp [trapCore, hrun, hnone, trapRecOf]

theorem running_of_canIssue {x : CoreState} (h : canIssue x = true) : x.st = .running := by
  simp only [canIssue, Bool.and_eq_true, beq_iff_eq] at h
  exact h.1.1

/-- A word without an instruction traps, and the core's registers stand. -/
theorem reservedOpcodeTrap_traps {op : BitVec 7} {h : Hdr} (f : BitVec 51) (hcan : canIssue (s.core c) = true)
    (hfetch : fetchTrap s c 1 = none) (hguard : guardOf (s.core c) h = true) (hreg : (s.core c).regErr = [])
    (hcache : (s.core c).icDev = []) (hop : assignedOp op.toNat = false) (hnone : (s.core c).trapPend = none) :
    exec (.reservedOpcodeTrap c op h f) s = .next (s.setCore c { s.core c with
      st := .stopping, stall := .none, drain := drainSet (s.core c),
      trapPend := some (trapRecOf (s.core c) (plainTrap 4 (instrWord op.toNat h f)) 0xFF (s.core c).pc.toNat) }) := by
  rw [exec_reservedOpcodeTrap, execReservedOpcodeTrap, hop, if_neg Bool.false_ne_true,
    issue_illegal s c _ f hcan hfetch hguard hreg hcache, queueOfOp_of_unassigned hop,
    trapCore_of_running s c (running_of_canIssue hcan) hnone]

end Issued

/-- Settles O3: each function's value is written as its operands stand at issue. -/
theorem scalarAluWritesSd : Obligations.ScalarAluWritesSd :=
  ⟨fun c _ _ s _ => sop_writes s c, fun c _ _ s _ => sopi_writes s c, fun c _ _ imm s => sli_writes s c imm⟩

/-- Settles O4: the compares write their condition, and PSET the bit of its table that the two predicates name. -/
theorem comparesWriteThePredicate : Obligations.ComparesWriteThePredicate :=
  ⟨fun c _ _ s _ => scmp_writes s c, fun c _ _ s _ => scmpi_writes s c, fun c _ _ s => pset_writes s c⟩

/-- Settles O5: a branch is a jump to its target, whose outcome the target's place alone decides. -/
theorem branchesMoveTheProgramCounter : Obligations.BranchesMoveTheProgramCounter :=
  ⟨fun c _ _ s => br_jumps s c, fun c _ _ s => call_jumps s c, fun c _ _ s => jmpr_jumps s c⟩

/-- Settles O6, selector by selector. -/
theorem srdReadsTheSelectedValue : Obligations.SrdReadsTheSelectedValue := by
  refine ⟨fun c h f s hissues hzero hsel => ?_, fun c _ _ s _ => srd_scale s c⟩
  refine srd_reads s c hissues hzero hsel ?_
  interval_cases hcode : ff f 38 8 <;> rfl

/-- Settles O7: the field's place is the FIELD code's, and DADV moves BASE and ORIGIN together. -/
theorem descriptorFieldInstructions : Obligations.DescriptorFieldInstructions :=
  ⟨fun c _ _ s _ _ => dset_writes s c,
    fun c _ _ s _ _ hissues hzero hfield => dget_reads s c hissues hzero (descField_of_dField hfield),
    fun c _ _ s => dadv_advances s c⟩

/-- Settles O8: each access that its checks pass leaves the controller stalled on it. -/
theorem scalarAccessesStallTheController : Obligations.ScalarAccessesStallTheController :=
  ⟨fun c _ _ s => sld_stalls s c, fun c _ _ s => sst_stalls s c, fun c _ _ s => dld_stalls s c, fun c _ _ s => dst_stalls s c⟩

/-- Settles O11, instruction by instruction. -/
theorem controlInstructionsTakeEffect : Obligations.ControlInstructionsTakeEffect := by
  refine ⟨fun c h f s hissues hzero => ?_, fun c _ _ s => bankset_requests s c, fun c _ _ s => waitq_passes_or_stalls s c,
    fun c _ _ s => ptag_retags s c⟩
  subst hzero
  exact fend_ends s c h hissues

/-- Settles O12: an OR with the flags shifted past bits 0 to 7. -/
theorem flagsetRaisesUserFlags : Obligations.FlagsetRaisesUserFlags := fun c _ f s hissues hzero =>
  ⟨_, flagset_raises s c hissues hzero, rfl, fun i => (testBit_or_userFlags s.run.contrib (ff f 43 8) i).1,
    fun i _ => (testBit_or_userFlags s.run.contrib (ff f 43 8) i).2, by
      show s.run.contrib ||| ff f 43 8 * 256 ||| ff f 43 8 * 256 = s.run.contrib ||| ff f 43 8 * 256
      rw [Nat.or_assoc, Nat.or_self]⟩

/-- Settles O10: of a word without an instruction the check of LEN and that of the opcode trap alike. -/
theorem reservedOpcodesTrap : Obligations.ReservedOpcodesTrap := by
  intro c op h f s hcan hfetch hguard hreg hcache hop hnone
  have hdetail : instrWord op.toNat h f % 2 ^ 64 = instrWord op.toNat h f := Nat.mod_eq_of_lt (instrWord_lt op.toNat h f)
  refine ⟨_, trapRecOf (s.core c) (plainTrap 4 (instrWord op.toNat h f)) 0xFF (s.core c).pc.toNat,
    reservedOpcodeTrap_traps s c f hcan hfetch hguard hreg hcache hop hnone, ?_⟩
  rw [OnlyCore, State.core_setCore_same]
  exact ⟨rfl, rfl, rfl, rfl, rfl, rfl, rfl, rfl, rfl, hdetail, rfl, rfl, rfl⟩

end Sys2Proof.Machine
end

section
/-!
Proofs: the instructions that go to a unit's queue, and those whose descriptor the controller reads first (03 R56, R63, R64,
04 R87 to R98).
-/
namespace Sys2Proof.Machine

section Queued
variable (s : State) (c : CoreId)

/-! ## The meanings of the instructions -/

theorem exec_vbin (h : Hdr) (f : BitVec 51) : exec (.vbin c h f) s = .next (issueVec s c .vbin 0x20 h f) := rfl
theorem exec_vfma (h : Hdr) (f : BitVec 51) : exec (.vfma c h f) s = .next (issueVec s c .vfma 0x21 h f) := rfl
theorem exec_vun (h : Hdr) (f : BitVec 51) : exec (.vun c h f) s = .next (issueVec s c .vun 0x22 h f) := rfl
theorem exec_vred (h : Hdr) (f : BitVec 51) : exec (.vred c h f) s = .next (issueVec s c .vred 0x23 h f) := rfl
theorem exec_mmul (h : Hdr) (f : BitVec 51) : exec (.mmul c h f) s = execMmul c h f s := rfl
theorem exec_mwld (h : Hdr) (f : BitVec 51) : exec (.mwld c h f) s = execMwld c h f s := rfl
theorem exec_mrd (h : Hdr) (f : BitVec 51) : exec (.mrd c h f) s = execMrd c h f s := rfl
theorem exec_pmv (h : Hdr) (f : BitVec 51) : exec (.pmv c h f) s = execPmv c h f s := rfl
theorem exec_tld (h : Hdr) (f : BitVec 51) : exec (.tld c h f) s = execTld c h f s := rfl
theorem exec_dma (h : Hdr) (f : BitVec 51) : exec (.dma c h f) s = execDma c h f s := rfl
theorem exec_coll (h : Hdr) (f : BitVec 51) : exec (.coll c h f) s = execColl c h f s := rfl
theorem exec_exch (h : Hdr) (f : BitVec 51) : exec (.exch c h f) s = execExch c h f s := rfl
theorem exec_upd (h : Hdr) (f : BitVec 51) (w1 w2 w3 : BitVec 64) :
    exec (.upd c h f w1 w2 w3) s = execUpd c h f w1 w2 w3 s := rfl
theorem exec_descriptorFetchDone (how : MemOutcome) :
    exec (.descriptorFetchDone c how) s = execDescriptorFetchDone c how s := rfl
theorem exec_queueInstructionDone (q : Fin 10) (wait : Nat) :
    exec (.queueInstructionDone c q wait) s = execQueueInstructionDone c q wait s := rfl
theorem exec_fendRetire (elapsed : Nat) : exec (.fendRetire c elapsed) s = execFendRetire c elapsed s := rfl

/-! ## Entering a queue (03 R56, R64) -/

/-- What an issue changes besides its queue does not depend on the core's place in the program, and leaves it alone. -/
def KeepsPlace (g : CoreState → CoreState) : Prop :=
  ∀ (x : CoreState) (pc : Word) (seq : Nat), g { x with pc := pc, seq := seq } = { g x with pc := pc, seq := seq }

theorem KeepsPlace.id : KeepsPlace id := fun _ _ _ => rfl

theorem KeepsPlace.heldIss (shape : Option HeldShape) : KeepsPlace fun x => { x with heldIss := shape } := fun _ _ _ => rfl

/-- MMUL forgets the held blocks unless it uses them. -/
theorem KeepsPlace.forgetUnless (p : Prop) [Decidable p] : KeepsPlace fun x => if p then x else { x with heldIss := none } := by
  intro x pc seq
  by_cases hp : p
  · simp only [if_pos hp]
  · simp only [if_neg hp]

/-- An instruction placed in a queue with room moves the controller past its words. -/
theorem enqueue_of_space {q words : Nat} {op : QOp} {scratch : Bool} {g : CoreState → CoreState}
    (hspace : ((s.core c).queue q).length < 16) (hg : KeepsPlace g) :
    enqueue s c q words op scratch g = s.ran c words fun x => g (x.appended q (mkQInst s c op scratch)) := by
  rw [enqueue]
  rw [if_neg (by omega), CoreState.advance, hg]
  rfl

theorem enqueue_eq_queuedOr (q : Nat) (op : QOp) {g : CoreState → CoreState} (hg : KeepsPlace g) :
    enqueue s c q 1 op true g = s.queuedOr c q op g := by
  rw [State.queuedOr]
  split
  case isTrue hfull => rw [enqueue, if_pos hfull, State.modCore]
  case isFalse hspace => rw [enqueue_of_space s c (by omega) hg]

theorem issueVec_enqueues {k : VecKind} (op : Nat) {h : Hdr} {f : BitVec 51} (hissues : Issues s c 1 h)
    (hlegal : vecLegal k f = true) (hchecks : vecChecks s c k f = []) :
    issueVec s c k op h f = s.queuedOr c 1 (vecOp (s.core c) k f) id := by
  rw [issueVec, issue_of_checked s c hissues op f hlegal _ hchecks, enqueue_eq_queuedOr s c 1 _ .id]

theorem mmul_enqueues {h : Hdr} {f : BitVec 51} (hissues : Issues s c 1 h) (hzero : ff f 0 4 = 0) (hspar : ff f 32 2 ≠ 3)
    (hrnd : ff f 20 2 ≠ 3) (hchecks : mmulChecks s c f = []) :
    exec (.mmul c h f) s = .next (s.queuedOr c 0 (mmulOf (s.core c) f).op fun x =>
      if ff f 34 1 = 1 then x else { x with heldIss := none }) := by
  rw [exec_mmul, execMmul, issue_of_checked s c hissues _ _ (by simp [mmulOf, hzero, hspar, hrnd]) _ hchecks]
  have hheld : (fun y : CoreState => if (mmulOf (s.core c) f).wstat = true then y else { y with heldIss := none }) =
      fun x => if ff f 34 1 = 1 then x else { x with heldIss := none } := by simp [mmulOf]
  rw [hheld, enqueue_eq_queuedOr s c 0 _ (.forgetUnless _)]

theorem mwld_enqueues {h : Hdr} {f : BitVec 51} (hissues : Issues s c 1 h) (hhigh : ff f 45 2 = 0) (hlow : ff f 0 43 = 0)
    (hspar : ff f 43 2 ≠ 3) (hchecks : mwldChecks s c f = []) :
    exec (.mwld c h f) s = .next (
      let d := (s.core c).adesc (ff f 47 4)
      s.queuedOr c 0 (.mwld d (ff f 43 2)) fun x =>
        { x with heldIss := some ⟨dFormat d, dExt1 d + 1, dExt0 d + 1, ff f 43 2⟩ }) := by
  rw [exec_mwld, execMwld, issue_of_checked s c hissues _ _ (by simp [hhigh, hlow, hspar]) _ hchecks]
  rw [enqueue_eq_queuedOr s c 0 _ (.heldIss _)]

theorem mrd_enqueues {h : Hdr} {f : BitVec 51} (hissues : Issues s c 1 h) (hzero : ff f 0 36 = 0) (hrnd : ff f 42 2 ≠ 3)
    (hchecks : mrdChecks s c f = []) :
    exec (.mrd c h f) s = .next (
      let x := s.core c
      s.queuedOr c 0 (.mrd (x.adesc (ff f 47 4)) (ff f 45 2) (ff f 44 1 == 1) (ff f 42 2) (ff f 41 1 == 1)
        (x.scale (ff f 36 5))) id) := by
  rw [exec_mrd, execMrd, issue_of_checked s c hissues _ _ (by simp [hzero, hrnd]) _ hchecks]
  rw [enqueue_eq_queuedOr s c 0 _ .id]

theorem pmv_enqueues {h : Hdr} {f : BitVec 51} (hissues : Issues s c 1 h) (hmid : ff f 36 3 = 0) (hrnd : ff f 34 2 ≠ 3)
    (hlow : ff f 0 18 = 0) (hchecks : pmvChecks s c f = []) :
    exec (.pmv c h f) s = .next (
      let x := s.core c
      s.queuedOr c 2 (.pmv (x.adesc (ff f 47 4)) (x.adesc (ff f 43 4)) (x.adesc (ff f 39 4)) (ff f 34 2) (ff f 33 1 == 1)
        (x.scale (ff f 28 5)) (x.scale (ff f 23 5)) (x.scale (ff f 18 5))) id) := by
  rw [exec_pmv, execPmv, issue_of_checked s c hissues _ _ (by simp [hmid, hrnd, hlow]) _ hchecks]
  rw [enqueue_eq_queuedOr s c 2 _ .id]

theorem tld_enqueues {h : Hdr} {f : BitVec 51} (hissues : Issues s c 1 h) (hzero : ff f 0 34 = 0)
    (hchecks : tldChecks s c f = []) :
    exec (.tld c h f) s = .next (
      let x := s.core c
      s.queuedOr c (3 + ff f 49 2) (.tld (x.adesc (ff f 45 4)) (x.adesc (ff f 41 4)) (x.adesc (ff f 37 4))
        (ff f 36 1 == 1) (ff f 35 1 == 1) (ff f 34 1 == 1)) id) := by
  rw [exec_tld, execTld, issue_of_checked s c hissues _ _ (by simp [hzero]) _ hchecks]
  rw [enqueue_eq_queuedOr s c _ _ .id]

/-! ## Reading a descriptor at issue (04 R97) -/

/-- The controller stalls on the arrival of a descriptor that the checks pass, or before it on a full queue. -/
theorem issueDesc_stalls {words : Nat} {h : Hdr} {f : BitVec 51} {legal : Bool} {size : Nat} (hissues : Issues s c words h)
    (op : Nat) (hlegal : legal = true) (q w1 w2 w3 : Nat)
    (hchecks : checkScalar s c (ff f 36 8) (descOff (s.core c) (ff f 44 5) (ff f 0 36)) size 64 false = []) :
    issueDesc s c op words h f legal q size w1 w2 w3 = s.modCore c fun x => { x with
      stall := if 16 ≤ (x.queue q).length then .queue q
        else .fetchDesc q (ff f 36 8) (descOff x (ff f 44 5) (ff f 0 36)) (instrWord op h f) w1 w2 w3 } := by
  rw [issueDesc, issue_of_checked s c hissues op f hlegal _ hchecks, State.modCore]
  split <;> rfl

end Queued

/-- Settles O14: an instruction that its checks pass enters its queue, or the controller waits for room in it. -/
theorem unitInstructionsEnterTheirQueues : Obligations.UnitInstructionsEnterTheirQueues := by
  refine ⟨fun c h f s hissues => ⟨fun hlegal hchecks => ?_, fun hlegal hchecks => ?_, fun hlegal hchecks => ?_,
      fun hlegal hchecks => ?_⟩,
    fun c _ _ s hissues => ⟨mmul_enqueues s c hissues, mwld_enqueues s c hissues, mrd_enqueues s c hissues,
      pmv_enqueues s c hissues, tld_enqueues s c hissues⟩⟩
  · rw [exec_vbin, issueVec_enqueues s c 0x20 hissues hlegal hchecks]
  · rw [exec_vfma, issueVec_enqueues s c 0x21 hissues hlegal hchecks]
  · rw [exec_vun, issueVec_enqueues s c 0x22 hissues hlegal hchecks]
  · rw [exec_vred, issueVec_enqueues s c 0x23 hissues hlegal hchecks]

/-- Settles O15: the four instructions read their descriptor alike. -/
theorem descriptorInstructionsReadTheirDescriptor : Obligations.DescriptorInstructionsReadTheirDescriptor := by
  refine ⟨fun c h f s hissues hchecks => ?_, fun c h f s hissues hzero hchecks => ⟨?_, ?_⟩,
    fun c h f w1 w2 w3 s hissues hzero hw2 hw3 hupd hchecks => ?_⟩
  · rw [exec_dma, execDma, issueDesc_stalls s c hissues 0x40 rfl _ 0 0 0 hchecks]
  · rw [exec_coll, execColl, issueDesc_stalls s c hissues 0x50 (by simp [hzero]) 7 0 0 0 hchecks]
  · rw [exec_exch, execExch, issueDesc_stalls s c hissues 0x51 (by simp [hzero]) 8 0 0 0 hchecks]
  · rw [exec_upd, execUpd, issueDesc_stalls s c hissues 0x60 (by rw [hzero, hw2, hw3, hupd]; rfl) 9 w1.toNat w2.toNat w3.toNat
      hchecks]

end Sys2Proof.Machine
end

section
/-!
Proofs: scratchpad read and written while no word of it is in error (09 R196, R203), and the controllers that wait for it
(04 R82, R97) or for the end of a frame (03 R58, R64).
-/
namespace Sys2Proof.Machine

/-! ## Bytes of a number -/

@[simp] theorem leBytes_length (n v : Nat) : (leBytes n v).length = n := by
  induction n generalizing v with
  | zero => rfl
  | succ n ih => rw [leBytes, List.length_cons, ih]

theorem leBytes_getD {n i : Nat} (v : Nat) (hi : i < n) : (leBytes n v).getD i 0#8 = BitVec.ofNat 8 (v / 2 ^ (8 * i)) := by
  induction n generalizing v i with
  | zero => exact absurd hi (Nat.not_lt_zero i)
  | succ n ih =>
    cases i with
    | zero => simp [leBytes]
    | succ i =>
      have hpow : 256 * 2 ^ (8 * i) = 2 ^ (8 * (i + 1)) := by ring
      rw [leBytes, List.getD_cons_succ, ih (v / 256) (by omega), Nat.div_div_eq_div_mul, hpow]

/-! ## Scratchpad without a word in error -/

theorem hamRead_of_valid (v : Nat) : hamRead 32 6 v 0 = .clean := by
  have hcode : hamDecode 32 6 0 = .clean := by decide
  simp [hamRead, hcode]

section Scratch
variable (s : State) (c : CoreId)

theorem loadWord_of_valid (off n k : Nat) {l : Load} (h : l.s.wordDev = []) : loadWord c off n l k = l := by
  simp [loadWord, h, hamRead_of_valid]

/-- A read of sound scratchpad gives its bytes and changes nothing. -/
theorem scratchLoad_of_sound (off n : Nat) (h : ScratchSound s) :
    scratchLoad s c off n .good = ⟨memRead s.scratch (scratchKey c off) n, 0, none, s⟩ := by
  obtain ⟨hdev, -, hnext⟩ := h
  have hwords : (wordsOf c off n).foldl (loadWord c off n) ⟨memRead s.scratch (scratchKey c off) n, 0, none, s⟩ =
      ⟨memRead s.scratch (scratchKey c off) n, 0, none, s⟩ := by
    refine List.foldlRecOn (motive := (· = (⟨memRead s.scratch (scratchKey c off) n, 0, none, s⟩ : Load))) _ _ rfl ?_
    rintro l rfl k -
    exact loadWord_of_valid c off n k hdev
  rw [scratchLoad, hwords, takeUpset_good s hnext]

theorem keepDead_of_none (ks : List Nat) (h : s.wear.dead = []) : keepDead s ks = s := by
  have hdead : ks.filter s.wear.dead.contains = [] := by simp [List.filter_eq_nil_iff, h]
  rw [keepDead, hdead]
  rfl

/-- A write of scratchpad where no word has a hard fault writes its bytes and gives its words valid check bits. -/
theorem scratchStore_of_alive (off : Nat) (bs : List Byte) (h : s.wear.dead = []) : scratchStore s c off bs = { s with
    scratch := memWrite s.scratch (scratchKey c off) bs
    wordDev := (wordsOf c off bs.length).foldl (fun m k => kvSet 0 m k 0) s.wordDev } := by
  rw [scratchStore, keepDead_of_none]
  exact h

/-! ## The accesses of a stalled controller (04 R82) -/

theorem exec_scalarAccessDone (how : MemOutcome) : exec (.scalarAccessDone c how) s = execScalarAccessDone c how s := rfl

variable {g : Seg} {sg off n : Nat} (hseg : s.seg sg = some g) (hkind : g.kind = 1)
include hseg hkind

/-- A controller's read of sound scratchpad in banks it owns goes on with the bytes. -/
theorem ctrlRead_of_sound (hgate : scalarGate s c g off n = .pass) (hsound : ScratchSound s) (k : State → List Byte → State) :
    ctrlRead s c sg off n .good k = k s (memRead s.scratch (scratchKey c (g.base + off)) n) := by
  simp [ctrlRead, hseg, hgate, segLoad, hkind, scratchLoad_of_sound s c _ _ hsound, loadTrap]

/-- A controller's write of scratchpad in banks it owns stores the bytes and resumes. -/
theorem ctrlWrite_of_pass {bs : List Byte} (hgate : scalarGate s c g off bs.length = .pass) :
    ctrlWrite s c sg off bs = (scratchStore s c (g.base + off) bs).modCore c (·.resume 1) := by
  simp [ctrlWrite, hseg, hgate, segStore, hkind]

theorem scalarStore_completes (how : MemOutcome) {v : Nat} (hstall : (s.core c).stall = .store v sg off n)
    (hgate : scalarGate s c g off n = .pass) : exec (.scalarAccessDone c how) s =
      .next ((scratchStore s c (g.base + off) (leBytes n v)).modCore c (·.resume 1)) := by
  have hlen : scalarGate s c g off (leBytes n v).length = .pass := by rw [leBytes_length, hgate]
  simp only [exec_scalarAccessDone, execScalarAccessDone, hstall, ctrlWrite_of_pass s c hseg hkind hlen]

theorem scalarLoad_completes {sd : Nat} {sx : Bool} (hstall : (s.core c).stall = .load sd sg off n sx)
    (hgate : scalarGate s c g off n = .pass) (hsound : ScratchSound s) : exec (.scalarAccessDone c .good) s =
      .next (s.modCore c fun x =>
        (x.setSreg sd (extendLoad n sx (leNat (memRead s.scratch (scratchKey c (g.base + off)) n)))).resume 1) := by
  simp only [exec_scalarAccessDone, execScalarAccessDone, hstall, ctrlRead_of_sound s c hseg hkind hgate hsound]

/-! ## Descriptors that arrive (04 R97) -/

theorem descriptorFetch_enqueues {q word w1 w2 w3 : Nat} (hstall : (s.core c).stall = .fetchDesc q sg off word w1 w2 w3)
    (hgate : scalarGate s c g off (descBytes q) = .pass) (hsound : ScratchSound s) (hspace : ((s.core c).queue q).length < 16)
    (htrap : descTrap s c q w2 w3 (memRead s.scratch (scratchKey c (g.base + off)) (descBytes q)) = none) :
    exec (.descriptorFetchDone c .good) s = .next (
      let bs := memRead s.scratch (scratchKey c (g.base + off)) (descBytes q)
      s.ran c (if q = 9 then 4 else 1) fun x =>
        { x.appended q (mkQInst s c (descOp q w1 w2 w3 bs) (descScratch s q bs)) with stall := .none }) := by
  have hplace : KeepsPlace fun x => { x with stall := .none } := fun _ _ _ => rfl
  simp only [exec_descriptorFetchDone, execDescriptorFetchDone, hstall, ctrlRead_of_sound s c hseg hkind hgate hsound,
    htrap, enqueue_of_space s c hspace hplace]

end Scratch

section Finish
variable (s : State) (c : CoreId)

/-! ## Work that a unit has finished, and the end of a core's part of the frame (03 R58, R64) -/

theorem unitQueue_finishes {q : Fin 10} {k : Nat} (w : Nat) (hq : 7 ≤ q.val)
    (hdone : indexOf? (fun i : QInst => i.accepted && i.done == 1) ((s.core c).queue q.val) = some k) :
    exec (.queueInstructionDone c q w) s = .next (s.modCore c fun x =>
      (x.setQueue q.val ((x.queue q.val).eraseIdx k)).incDone q.val) := by
  simp only [exec_queueInstructionDone, execQueueInstructionDone, if_pos hq, finishUnit, hdone, State.modCore]

theorem fendRetire_completes (elapsed : Nat) (hrun : (s.core c).st = .running) (hfend : (s.core c).fend = true)
    (hopen : (s.core c).completed = false) (hdry : ∀ q, q < 10 → (s.core c).issuedOf q = (s.core c).doneOf q)
    (hdemand : coreDemand s c = none) : exec (.fendRetire c elapsed) s = .next (s.modCore c fun x =>
      { x with completed := true, st := .waiting, use := { x.use with elapsed := elapsed } }) := by
  have hall : ((List.range 10).all fun q => (s.core c).issuedOf q == (s.core c).doneOf q) = true := by
    simpa only [List.all_eq_true, List.mem_range, beq_iff_eq] using hdry
  simp only [exec_fendRetire, execFendRetire, hrun, hfend, hopen, hall, hdemand, State.modCore, decide_true, Bool.not_false,
    Bool.and_true, if_true]

end Finish

/-- Settles O9: behind the gate a store is a write of scratchpad, and a load of sound words their bytes. -/
theorem scratchpadScalarAccessCompletes : Obligations.ScratchpadScalarAccessCompletes := by
  refine ⟨fun c how s g v sg off n hstall hseg hkind _ _ hgate hdead => ?_,
    fun c s g sd sg off n sx hstall hseg hkind _ _ hsd hgate hsound => ?_⟩
  · refine ⟨_, scalarStore_completes s c hseg hkind how hstall hgate, fun a => ?_, ?_⟩
    · rw [State.modCore_scratch, scratchStore_of_alive s c _ _ hdead, kvGet_memWrite, leBytes_length]
      exact ite_congr rfl (fun h => leBytes_getD v (by omega)) fun _ => rfl
    · rw [scratchStore_of_alive s c _ _ hdead]
      simp only [State.core_modCore_same]
      exact ⟨rfl, rfl, rfl, rfl⟩
  · refine ⟨_, scalarLoad_completes s c hseg hkind hstall hgate hsound, ?_, rfl, rfl, ?_⟩
    · rw [State.core_modCore_same]
      exact (sreg_setSreg _ _ hsd hsd).trans (by rw [if_pos rfl])
    · rw [State.core_modCore_same]
      exact ⟨congrArg (· + 8) (setSreg_pc ..), rfl⟩

/-- Settles O16: a descriptor's arrival is an issue, and finished work and finished frames are told from the queues alone. -/
theorem descriptorsAndFinishedUnitWorkMoveTheQueues : Obligations.DescriptorsAndFinishedUnitWorkMoveTheQueues :=
  ⟨fun c s _ _ _ _ _ _ _ _ hstall hseg hkind => descriptorFetch_enqueues s c hseg hkind hstall,
    fun c _ w _ s => unitQueue_finishes s c w, fun c elapsed s => fendRetire_completes s c elapsed⟩

end Sys2Proof.Machine
end

section
/-!
Proofs: the vector unit at work: the bytes of the rows it writes, and what a vector instruction leaves alone (04 R87, R88,
05 R108, R109, 02 R37, 05 R120).
-/
namespace Sys2Proof.Machine

/-! ## The bytes of a row (05 R108, R109, R112) -/

theorem cdiv_mono {a b : Nat} (n : Nat) (h : a ≤ b) : cdiv a n ≤ cdiv b n := by
  unfold cdiv
  split
  · exact Nat.le_refl 0
  · exact Nat.div_le_div_right (by omega)

/-- A list that `k` blocks of 32 can hold is cut into as many as it needs. -/
theorem blocks32_length {α : Type} {k : Nat} {l : List α} (h : l.length ≤ 32 * k) :
    (blocks32 k l).length = cdiv l.length 32 := by
  induction k generalizing l with
  | zero =>
    have hl : l.length = 0 := by omega
    rw [hl]
    rfl
  | succ k ih =>
    cases l with
    | nil => simp [blocks32, cdiv]
    | cons x xs =>
      have hrest := ih (l := (x :: xs).drop 32) (by simp only [List.length_drop]; omega)
      simp only [blocks32, List.isEmpty_cons, Bool.false_eq_true, if_false, List.length_cons, hrest, List.length_drop, cdiv,
        OfNat.ofNat_ne_zero]
      omega

@[simp] theorem bytesAt_length (bs : List Byte) (off n : Nat) : (bytesAt bs off n).length = n := by
  simp [bytesAt]

/-- A row written occupies the bytes that its format gives its elements. -/
theorem writeRow_bytes_length (f : Format) (vs : List (F32 × RMode)) : (writeRow f vs).bytes.length = rowBytes f vs.length := by
  have hblocks := blocks32_length (k := vs.length + 1) (l := vs.map fun v => (valOf v.1, v.2))
    (by simp only [List.length_map]; omega)
  rw [List.length_map] at hblocks
  unfold writeRow rowBytes
  dsimp only
  split
  · simp only [List.length_append, leBytes_length, fitBytes, bytesAt_length, List.length_map, hblocks]
  · simp only [leBytes_length]

/-- A row of fewer elements occupies no more bytes. -/
theorem rowBytes_mono (f : Format) {m n : Nat} (h : m ≤ n) : rowBytes f m ≤ rowBytes f n := by
  have hblocks := cdiv_mono 32 h
  unfold rowBytes
  split
  · exact Nat.add_le_add (Nat.mul_le_mul_right _ (Nat.mul_le_mul_right _ hblocks)) (Nat.mul_le_mul_left _ (cdiv_mono 4 hblocks))
  · exact cdiv_mono 8 (Nat.mul_le_mul_right _ h)

/-- A vector instruction has no more results for a row than A has elements, and one when it reduces the row. -/
theorem vecResults_length (v : VecOp) (as bs ds : List F32) :
    (vecResults v as bs ds).length ≤ if v.kind = .vred then 1 else as.length := by
  unfold vecResults
  cases v.kind with
  | vbin => simp
  | vfma => simp
  | vun => simp
  | vred => simp

/-! ## What a vector instruction leaves alone -/

/-- A core without what its units note of their work: its use of the frame's cycles and its first NONFINITE instruction. -/
def CoreState.withoutNotes (x : CoreState) : CoreState := { x with use := CoreState.reset.use, nf := .empty }

/-- What a unit's work on a core's scratchpad leaves as it was, where the bytes of `kept` lie outside its destination. -/
structure KeepsBut (c : CoreId) (kept : Nat → Prop) (s t : State) : Prop where
  seg : t.seg = s.seg
  sound : ScratchSound s → ScratchSound t
  mem : t.mem = s.mem
  core : (t.core c).withoutNotes = (s.core c).withoutNotes
  scratch : ∀ x, kept x → kvGet 0#8 t.scratch x = kvGet 0#8 s.scratch x

section Keeps
variable {c : CoreId} {kept : Nat → Prop}

theorem KeepsBut.refl (s : State) : KeepsBut c kept s s := ⟨rfl, id, rfl, rfl, fun _ _ => rfl⟩

theorem KeepsBut.trans {s t u : State} (h : KeepsBut c kept s t) (k : KeepsBut c kept t u) : KeepsBut c kept s u where
  seg := k.seg.trans h.seg
  sound := k.sound ∘ h.sound
  mem := k.mem.trans h.mem
  core := k.core.trans h.core
  scratch x hx := (k.scratch x hx).trans (h.scratch x hx)

/-- A part of the core that holds no notes of its units stands. -/
theorem KeepsBut.read {β : Type} {s t : State} (h : KeepsBut c kept s t) (g : CoreState → β)
    (hg : ∀ x : CoreState, g x.withoutNotes = g x) : g (t.core c) = g (s.core c) :=
  (hg _).symm.trans ((congrArg g h.core).trans (hg _))

theorem KeepsBut.ofEvents {s t : State} (h : t.withoutEvents = s.withoutEvents) : KeepsBut c kept s t where
  seg := (congrArg State.seg h :)
  sound hs := by
    have hview : ScratchSound s.withoutEvents := hs
    rw [← h] at hview
    exact hview
  mem := (congrArg State.mem h :)
  core := (congrArg (fun u : State => (u.core c).withoutNotes) h :)
  scratch x _ := (congrArg (fun u : State => kvGet 0#8 u.scratch x) h :)

theorem KeepsBut.modCore (s : State) {f : CoreState → CoreState} (h : (f (s.core c)).withoutNotes = (s.core c).withoutNotes) :
    KeepsBut c kept s (s.modCore c f) where
  seg := rfl
  sound := id
  mem := rfl
  core := by rw [State.core_modCore_same, h]
  scratch _ _ := rfl

theorem raiseFlags_keepsBut (s : State) (bits : Nat) : KeepsBut c kept s (raiseFlags s bits) :=
  ⟨rfl, id, rfl, rfl, fun _ _ => rfl⟩

theorem KeepsBut.when {s : State} (b : Bool) {f : State → State} (h : KeepsBut c kept s (f s)) :
    KeepsBut c kept s (s.when b f) := by
  cases b with
  | false => exact .refl s
  | true => exact h

theorem KeepsBut.foldl {α : Type} {s : State} {l : List α} {f : State × Option NfElem → α → State × Option NfElem}
    (hs : ScratchSound s) (b : Option NfElem)
    (h : ∀ acc a, a ∈ l → KeepsBut c kept s acc.1 → ScratchSound acc.1 → KeepsBut c kept acc.1 (f acc a).1) :
    KeepsBut c kept s (l.foldl f (s, b)).1 :=
  List.foldlRecOn (motive := fun acc => KeepsBut c kept s acc.1) l f (.refl s) fun acc hacc a ha =>
    hacc.trans (h acc a ha hacc (hacc.sound hs))

/-! ### Cycles and statuses (02 R37, 05 R120) -/

theorem demandOverrun_withoutEvents (s : State) (unit off : Nat) : (demandOverrun s unit off).withoutEvents = s.withoutEvents :=
  raise_withoutEvents ..

theorem overrunIf_keepsBut (s : State) (off used declared : Nat) : KeepsBut c kept s (overrunIf s c off used declared) := by
  unfold overrunIf
  split
  · exact (KeepsBut.modCore s rfl).trans (.ofEvents (demandOverrun_withoutEvents ..))
  · exact .refl s

theorem chargeVector_keepsBut (s : State) (n : Nat) : KeepsBut c kept s (chargeVector s c n) := by
  unfold chargeVector
  dsimp only
  split
  · exact .modCore s rfl
  · exact (KeepsBut.modCore s rfl).trans (overrunIf_keepsBut ..)

theorem noteNonfinite_keepsBut (s : State) (f queue pc seq : Nat) (flags : Bool) (e : NfElem) :
    KeepsBut c kept s (noteNonfinite s c f queue pc seq flags e) := by
  have hflags (t : State) : KeepsBut c kept t (raiseFlags (t.bump 0x620102) flagNonfinite) :=
    (KeepsBut.ofEvents (State.bump_withoutEvents t _)).trans (raiseFlags_keepsBut ..)
  unfold noteNonfinite
  exact ((KeepsBut.modCore s rfl).trans (.ofEvents (State.bump_withoutEvents ..))).trans (.when flags (hflags _))

/-! ### Rows (04 R88) -/

/-- Bytes written into sound scratchpad leave those outside them alone, and every word valid. -/
theorem scratchStore_keepsBut {s : State} {off : Nat} {bs : List Byte} (hs : ScratchSound s)
    (hkept : ∀ x, kept x → x < scratchKey c off ∨ scratchKey c off + bs.length ≤ x) :
    KeepsBut c kept s (scratchStore s c off bs) := by
  obtain ⟨hdev, hdead, hnext⟩ := hs
  have hvalid : (wordsOf c off bs.length).foldl (fun m k => kvSet 0 m k 0) s.wordDev = [] := by
    refine List.foldlRecOn (motive := (· = [])) _ _ hdev ?_
    rintro m rfl k -
    rfl
  rw [scratchStore_of_alive s c off bs hdead, hvalid]
  exact ⟨rfl, fun _ => ⟨rfl, hdead, hnext⟩, rfl, rfl, fun x hx => kvGet_memWrite_out _ _ _ _ (hkept x hx)⟩

theorem loadRow_of_sound {s : State} (hs : ScratchSound s) (d : Desc) (p r : Nat) : (loadRow s c d p r).2 = s := by
  rw [loadRow, scratchLoad_of_sound s c _ _ hs]

theorem rowAt_congr {s t : State} (h : t.seg = s.seg) (d : Desc) (p r : Nat) : rowAt t d p r = rowAt s d p r := by
  simp only [rowAt, h]

/-- What a row's run writes for D fits into a row of D. -/
theorem storeRow_writes {d : Desc} {vs : List F32} (hlen : vs.length ≤ dExt0 d + 1) (s : State) (rnd step p r : Nat) :
    ∃ bs : List Byte, bs.length ≤ dRowBytes d ∧ (storeRow s c d rnd step p r vs).1 = scratchStore s c (rowAt s d p r) bs := by
  refine ⟨_, ?_, rfl⟩
  rw [writeRow_bytes_length, List.length_map, List.length_zipIdx]
  exact rowBytes_mono _ hlen

/-- A row run of sound scratchpad is one write, into the row of D. -/
theorem vecRow_writes {v : VecOp} (hext : dExt0 v.d = if v.kind = .vred then 0 else dExt0 v.a) (step : Nat) (shared : List F32)
    {acc : State × Option NfElem} (hs : ScratchSound acc.1) (pr : Nat × Nat) : ∃ bs : List Byte, bs.length ≤ dRowBytes v.d ∧
      (vecRow c v step shared acc pr).1 = scratchStore acc.1 c (rowAt acc.1 v.d pr.1 pr.2) bs := by
  have hfits (ra : Row) (bs ds : List F32) : (vecResults v (rowF32s v.a ra) bs ds).length ≤ dExt0 v.d + 1 := by
    refine (vecResults_length ..).trans ?_
    rw [hext, rowF32s, List.length_map, List.length_range]
    split <;> omega
  unfold vecRow
  simp only [apply_ite Prod.snd, loadRow_of_sound hs, ite_self]
  exact storeRow_writes (hfits _ _ _) ..

/-- A scratchpad byte outside the rows of D. -/
def VecOp.Spares (v : VecOp) (s : State) (c : CoreId) (x : Nat) : Prop := ∀ pr ∈ rowsOf v.a,
  x < scratchKey c (rowAt s v.d pr.1 pr.2) ∨ scratchKey c (rowAt s v.d pr.1 pr.2) + dRowBytes v.d ≤ x

/-- A vector instruction run whole over sound scratchpad leaves alone what lies outside the rows of D. -/
theorem runVec_keepsBut {s : State} {v : VecOp} (i : QInst) (hs : ScratchSound s)
    (hext : dExt0 v.d = if v.kind = .vred then 0 else dExt0 v.a) : KeepsBut c (v.Spares s c) s (runVec s c i v) := by
  have hcharge : KeepsBut c (v.Spares s c) s (chargeVector s c (vecCycles s v)) := chargeVector_keepsBut ..
  have hrow (shared : List F32) (acc : State × Option NfElem) (pr : Nat × Nat) (hpr : pr ∈ rowsOf v.a)
      (hacc : KeepsBut c (v.Spares s c) (chargeVector s c (vecCycles s v)) acc.1) (hsound : ScratchSound acc.1) :
      KeepsBut c (v.Spares s c) acc.1 (vecRow c v i.step shared acc pr).1 := by
    obtain ⟨bs, hlen, hwrite⟩ := vecRow_writes (c := c) hext i.step shared hsound pr
    rw [hwrite, rowAt_congr (hcharge.trans hacc).seg]
    refine scratchStore_keepsBut hsound fun x hx => ?_
    have hout := hx pr hpr
    omega
  unfold runVec
  simp only [apply_ite Prod.snd, loadRow_of_sound (hcharge.sound hs), ite_self]
  split
  · exact (hcharge.trans (KeepsBut.foldl (hcharge.sound hs) none (hrow _))).trans (noteNonfinite_keepsBut ..)
  · exact hcharge.trans (KeepsBut.foldl (hcharge.sound hs) none (hrow _))

end Keeps

/-! ## The head of the VECTOR queue (03 R60, R64) -/

section Head
variable (x : CoreState)

@[simp] theorem queue_drained (q p : Nat) : (drained x p).queue q = x.queue q := rfl
@[simp] theorem queue_incDone (q p : Nat) : (x.incDone p).queue q = x.queue q := rfl
@[simp] theorem doneOf_drained (q p : Nat) : (drained x p).doneOf q = x.doneOf q := rfl
@[simp] theorem doneOf_setQueue (q p : Nat) (l : List QInst) : (x.setQueue p l).doneOf q = x.doneOf q := rfl

theorem queue_setQueue_same (q : Nat) (l : List QInst) : (x.setQueue q l).queue q = l := by
  simp [CoreState.queue, CoreState.setQueue]

theorem doneOf_incDone_same (q : Nat) : (x.incDone q).doneOf q = x.doneOf q + 1 := by
  simp [CoreState.doneOf, CoreState.incDone]

theorem finishHead_core (s : State) (c : CoreId) (q : Nat) : (finishHead s c q).core c =
    drained (((s.core c).setQueue q (((s.core c).queue q).drop 1)).incDone q) q := State.core_modCore_same ..

theorem finishHead_queue {s : State} {c : CoreId} {q : Nat} {i : QInst} {rest : List QInst}
    (hqueue : (s.core c).queue q = i :: rest) : ((finishHead s c q).core c).queue q = rest := by
  rw [finishHead_core, queue_drained, queue_incDone, queue_setQueue_same, hqueue, List.drop_succ_cons, List.drop_zero]

theorem finishHead_doneOf (s : State) (c : CoreId) (q : Nat) :
    ((finishHead s c q).core c).doneOf q = (s.core c).doneOf q + 1 := by
  rw [finishHead_core, doneOf_drained, doneOf_incDone_same, doneOf_setQueue]

/-- A vector instruction whose banks the unit owns runs and leaves its queue. -/
theorem queueInstructionDone_vector {s : State} {c : CoreId} {i : QInst} {rest : List QInst} {v : VecOp} (w : Nat)
    (hhead : HeadOf s c 1 i rest) (hop : i.op = .vec v.kind v.d v.a v.b v.fn v.bm v.sb v.rnd v.flags)
    (hgate : bankGate (s.core c) 2 i.seq ((rowsOf v.a).map fun pr => vecRowBanks s v pr.1 pr.2).flatten = .pass) :
    exec (.queueInstructionDone c 1 w) s = .next (finishHead (runVec s c i v) c 1) := by
  obtain ⟨hqueue, hwork⟩ := hhead
  have hfinish : finishVector s c = finishHead (runVec s c i v) c 1 := by
    simp only [finishVector, hqueue, hop, hgate]
  rw [exec_queueInstructionDone, ← hfinish]
  simp [execQueueInstructionDone, hwork]

end Head

/-- An instruction that has run leaves its queue, and what its run left alone stands. -/
theorem finishHead_of_keepsBut {c : CoreId} {kept : Nat → Prop} {s t : State} (h : KeepsBut c kept s t) {q : Nat} {i : QInst}
    {rest : List QInst} (hqueue : (s.core c).queue q = i :: rest) :
    let u := finishHead t c q
    (u.core c).queue q = rest ∧ (u.core c).doneOf q = (s.core c).doneOf q + 1 ∧ u.mem = s.mem ∧
      (u.core c).sregs = (s.core c).sregs ∧ (u.core c).preds = (s.core c).preds ∧ (u.core c).adescs = (s.core c).adescs ∧
      (u.core c).pc = (s.core c).pc ∧ (u.core c).acc = (s.core c).acc ∧
      ∀ x, kept x → kvGet 0#8 u.scratch x = kvGet 0#8 s.scratch x := by
  have hhead : (t.core c).queue q = i :: rest := (h.read (·.queue q) fun _ => rfl).trans hqueue
  have hdone : (t.core c).doneOf q = (s.core c).doneOf q := h.read (·.doneOf q) fun _ => rfl
  have hsregs : (t.core c).sregs = (s.core c).sregs := h.read (·.sregs) fun _ => rfl
  have hpreds : (t.core c).preds = (s.core c).preds := h.read (·.preds) fun _ => rfl
  have hadescs : (t.core c).adescs = (s.core c).adescs := h.read (·.adescs) fun _ => rfl
  have hpc : (t.core c).pc = (s.core c).pc := h.read (·.pc) fun _ => rfl
  have hacc : (t.core c).acc = (s.core c).acc := h.read (·.acc) fun _ => rfl
  refine ⟨finishHead_queue hhead, (finishHead_doneOf ..).trans (congrArg (· + 1) hdone), h.mem, ?_⟩
  simp only [finishHead_core, drained, CoreState.incDone, CoreState.setQueue]
  exact ⟨hsregs, hpreds, hadescs, hpc, hacc, h.scratch⟩

/-- Settles O17: every row that runs writes inside its row of D, and the rest of the run is counted, noted or told as events. -/
theorem vectorInstructionWritesOnlyItsDestination : Obligations.VectorInstructionWritesOnlyItsDestination := by
  intro c w s i rest k d a b fn bm sb rnd flags hhead hop hext hsound hgate
  have hexec := queueInstructionDone_vector (v := ⟨k, d, a, b, fn, bm, sb, rnd, flags⟩) w hhead hop hgate
  have hrun := runVec_keepsBut (v := ⟨k, d, a, b, fn, bm, sb, rnd, flags⟩) (c := c) i hsound hext
  exact ⟨_, hexec, finishHead_of_keepsBut hrun hhead.1⟩

end Sys2Proof.Machine
end

section
/-!
Proofs: the matrix unit at a fold boundary: what a fold leaves alone, and what it may write only at the end of its column
group (06 R125, R127, R128, 04 R92).
-/
namespace Sys2Proof.Machine

/-! ## What the matrix unit's work leaves alone -/

/-- A core without what the matrix unit writes of it: the engines' arrays, the held blocks, the
queues that finish their work in a stop, and its units' notes. -/
def CoreState.withoutEngines (x : CoreState) : CoreState :=
  { x.withoutNotes with acc := [], accDev := [], sum := [], sumDev := [], bufWord := [], bufDev := [], held := none, drain := 0 }

/-- What the matrix unit's work on a core leaves as it was. Scratchpad stands too where `quiet` holds. -/
structure FoldKeeps (c : CoreId) (quiet : Prop) (s t : State) : Prop where
  sound : ScratchSound s → ScratchSound t
  mem : t.mem = s.mem
  core : (t.core c).withoutEngines = (s.core c).withoutEngines
  scratch : quiet → t.scratch = s.scratch

section Keeps
variable {c : CoreId} {quiet : Prop}

theorem FoldKeeps.refl (s : State) : FoldKeeps c quiet s s := ⟨id, rfl, rfl, fun _ => rfl⟩

theorem FoldKeeps.trans {s t u : State} (h : FoldKeeps c quiet s t) (k : FoldKeeps c quiet t u) : FoldKeeps c quiet s u where
  sound := k.sound ∘ h.sound
  mem := k.mem.trans h.mem
  core := k.core.trans h.core
  scratch hq := (k.scratch hq).trans (h.scratch hq)

/-- A part of the core that the matrix unit does not write stands. -/
theorem FoldKeeps.read {β : Type} {s t : State} (h : FoldKeeps c quiet s t) (g : CoreState → β)
    (hg : ∀ x : CoreState, g x.withoutEngines = g x) : g (t.core c) = g (s.core c) :=
  (hg _).symm.trans ((congrArg g h.core).trans (hg _))

theorem FoldKeeps.ofEvents {s t : State} (h : t.withoutEvents = s.withoutEvents) : FoldKeeps c quiet s t where
  sound := (KeepsBut.ofEvents (c := c) (kept := fun _ => True) h).sound
  mem := (congrArg State.mem h :)
  core := (congrArg (fun u : State => (u.core c).withoutEngines) h :)
  scratch _ := (congrArg State.scratch h :)

theorem FoldKeeps.modCore (s : State) {f : CoreState → CoreState}
    (h : (f (s.core c)).withoutEngines = (s.core c).withoutEngines) : FoldKeeps c quiet s (s.modCore c f) where
  sound := id
  mem := rfl
  core := by rw [State.core_modCore_same, h]
  scratch _ := rfl

theorem FoldKeeps.when {s : State} (b : Bool) {f : State → State} (h : FoldKeeps c quiet s (f s)) :
    FoldKeeps c quiet s (s.when b f) := by
  cases b with
  | false => exact .refl s
  | true => exact h

theorem FoldKeeps.bumpBy (s : State) (key n : Nat) : FoldKeeps c quiet s (s.bumpBy key n) := .ofEvents rfl

/-- Work that writes scratchpad, where it may. -/
theorem FoldKeeps.ofKeepsBut {s t : State} (hq : ¬quiet) (h : KeepsBut c (fun _ => False) s t) : FoldKeeps c quiet s t where
  sound := h.sound
  mem := h.mem
  core := h.read CoreState.withoutEngines fun _ => rfl
  scratch hquiet := absurd hquiet hq

/-! ### Cycles and counts (02 R37, 09 R196) -/

theorem overrunIf_foldKeeps (s : State) (off used declared : Nat) : FoldKeeps c quiet s (overrunIf s c off used declared) := by
  unfold overrunIf
  split
  · exact (FoldKeeps.modCore s rfl).trans (.ofEvents (demandOverrun_withoutEvents ..))
  · exact .refl s

theorem chargeEngine_foldKeeps (s : State) (n : Nat) : FoldKeeps c quiet s (chargeEngine s c n) := by
  unfold chargeEngine
  dsimp only
  split
  · exact .modCore s rfl
  · exact (FoldKeeps.modCore s rfl).trans (overrunIf_foldKeeps ..)

theorem noteArrays_foldKeeps (s : State) (r : ArrayReads) : FoldKeeps c quiet s (noteArrays s c r) := by
  unfold noteArrays
  exact (FoldKeeps.when _ (.bumpBy ..)).trans (.when _ (.bumpBy ..))

/-! ### Operands (05 R108, 07 R142 to R144) -/

theorem loadCols_of_sound {s : State} (hs : ScratchSound s) (f : Format) (n off c0 c1 : Nat) :
    (loadCols s c f n off c0 c1).2 = s := by
  simp only [loadCols, scratchLoad_of_sound s c _ _ hs, apply_ite Prod.snd, ite_self]

/-- Loads that each leave a state alone leave it alone together. -/
theorem loadEach_of_unchanged {α β : Type} {l : List α} {g : State → α → β × State} {s : State} (h : ∀ a, (g s a).2 = s) :
    (loadEach l g s).2 = s := by
  refine List.foldlRecOn (motive := fun acc : List β × State => acc.2 = s) _ _ rfl ?_
  rintro acc hacc a -
  exact (congrArg (fun t => (g t a).2) hacc).trans (h a)

theorem loadGroup_of_sound {s : State} (hs : ScratchSound s) (w : Desc) (spar c0 c1 g : Nat) :
    (loadGroup c w spar c0 c1 s g).2 = s := by
  have hvalues : (loadEach (List.range (sparKeep spar)) (fun t j => loadCols t c (dFmt w) (dExt0 w + 1)
      (rowAt s w 0 g + j * vrowBytes (dFmt w) (dExt0 w + 1)) c0 c1) s).2 = s :=
    loadEach_of_unchanged fun _ => loadCols_of_sound hs ..
  simp only [loadGroup, hvalues, scratchLoad_of_sound s c _ _ hs]

theorem loadBlock_foldKeeps {s : State} (hs : ScratchSound s) (w : Desc) (spar kb kRows c0 c1 : Nat) :
    FoldKeeps c quiet s (loadBlock s c w spar kb kRows c0 c1).2 := by
  have hdense (k0 k1 : Nat) : (loadDense s c w k0 k1 c0 c1).2 = s := by
    simp only [loadDense]
    exact loadEach_of_unchanged fun _ => loadCols_of_sound hs ..
  have hsparse (g0 g1 : Nat) : ∃ n, (loadSparse s c w spar g0 g1 c0 c1).2 = s.bumpBy 0x620301 n :=
    ⟨_, congrArg (State.bumpBy · _ _) (loadEach_of_unchanged fun _ => loadGroup_of_sound hs ..)⟩
  unfold loadBlock
  dsimp only
  split
  · rw [hdense]
    exact .refl s
  · obtain ⟨n, hn⟩ := hsparse (kb * kRows / 8) (cdiv (min (dExt1 w + 1) ((kb + 1) * kRows)) 8)
    rw [hn]
    exact .bumpBy ..

theorem foldActs_of_sound {s : State} (hs : ScratchSound s) (x : MmRun) (f : Fold) : (foldActs s c x f).2 = s :=
  loadEach_of_unchanged fun _ => loadCols_of_sound hs ..

/-! ### Engines (06 R126, R130) -/

theorem setAcc_withoutEngines (y : CoreState) (set e row col : Nat) (v : F32) :
    (y.setAcc set e row col v).withoutEngines = y.withoutEngines := rfl

theorem setRunning_withoutEngines (y : CoreState) (dk : Bool) (set e row col : Nat) (v : F32) :
    (y.setRunning dk set e row col v).withoutEngines = y.withoutEngines := by
  unfold CoreState.setRunning
  split
  · rfl
  · rfl

/-- Changes of a core that each write the engines alone write the engines alone together. -/
theorem foldl_withoutEngines {α : Type} (l : List α) {f : CoreState → α → CoreState}
    (h : ∀ y a, (f y a).withoutEngines = y.withoutEngines) (y : CoreState) :
    (l.foldl f y).withoutEngines = y.withoutEngines :=
  List.foldlRecOn (motive := fun z => z.withoutEngines = y.withoutEngines) l f rfl fun z hz a _ => (h z a).trans hz

theorem foldEngine_withoutEngines (x : MmRun) (f : Fold) (e : Nat) (cols : List (List (Nat × Val)))
    (as : List (Nat × (Nat → Val))) (y : CoreState) : (foldEngine x f e cols as y).withoutEngines = y.withoutEngines := by
  refine foldl_withoutEngines as (fun y a => ?_) y
  split
  · rfl
  · exact foldl_withoutEngines _ (fun z col => setRunning_withoutEngines ..) y

theorem runEngine_foldKeeps {s : State} (hs : ScratchSound s) (x : MmRun) (f : Fold) (held : Option WTile)
    (as : List (Nat × (Nat → Val))) (e : Nat) : FoldKeeps c quiet s (runEngine c x f held as s e) := by
  unfold runEngine
  dsimp only
  split
  · exact .bumpBy ..
  · refine FoldKeeps.trans ?_ (.modCore _ (foldEngine_withoutEngines ..))
    split
    · exact .refl s
    · dsimp only
      exact (loadBlock_foldKeeps hs ..).trans (.modCore _ rfl)

/-- The engines of a fold, one after the other. -/
theorem runEngines_foldKeeps {s : State} (hs : ScratchSound s) (x : MmRun) (f : Fold) (held : Option WTile)
    (as : List (Nat × (Nat → Val))) : FoldKeeps c quiet s (f.engines.foldl (runEngine c x f held as) s) :=
  List.foldlRecOn (motive := FoldKeeps c quiet s) _ _ (.refl s) fun _ ht e _ =>
    ht.trans (runEngine_foldKeeps (ht.sound hs) x f held as e)

/-! ### The end of a column group (04 R92) -/

theorem storeCols_foldKeeps {s : State} (hq : ¬quiet) (hs : ScratchSound s) (d : Desc) (rnd step r c0 : Nat) (vs : List F32) :
    FoldKeeps c quiet s (storeCols s c d rnd step r c0 vs).1 := by
  have hstore {t : State} (ht : ScratchSound t) (off : Nat) (bs : List Byte) : FoldKeeps c quiet t (scratchStore t c off bs) :=
    .ofKeepsBut hq (scratchStore_keepsBut ht fun _ hx => hx.elim)
  unfold storeCols
  dsimp only
  split
  · exact (hstore hs ..).trans (hstore ((hstore hs ..).sound hs) ..)
  · exact hstore hs ..

theorem storeAccRow_withoutEngines (x : MmRun) (g m : Nat) (vs : List F32) (y : CoreState) :
    (storeAccRow x g m vs y).withoutEngines = y.withoutEngines :=
  foldl_withoutEngines _ (fun _ _ => setAcc_withoutEngines ..) y

theorem groupRow_foldKeeps {acc : State × Option NfElem} (hq : ¬quiet) (hs : ScratchSound acc.1) (x : MmRun) (step g m : Nat) :
    FoldKeeps c quiet acc.1 (groupRow c x step g acc m).1 := by
  unfold groupRow
  dsimp only
  split
  · exact .modCore _ (storeAccRow_withoutEngines ..)
  · split
    · rw [loadRow_of_sound hs]
      exact storeCols_foldKeeps hq hs ..
    · exact storeCols_foldKeeps hq hs ..

theorem endGroup_foldKeeps {s : State} (hq : ¬quiet) (hs : ScratchSound s) (x : MmRun) (step g : Nat) (nf : Option NfElem) :
    FoldKeeps c quiet s (endGroup s c x step g nf).1 :=
  List.foldlRecOn (motive := fun acc : State × Option NfElem => FoldKeeps c quiet s acc.1) _ _ (.bumpBy ..) fun _ hacc m _ =>
    hacc.trans (groupRow_foldKeeps hq (hacc.sound hs) x step g m)

/-! ## A fold -/

/-- Arrays without a word in error give no engine to blame (01 R13). -/
theorem arrayError_of_valid {y : CoreState} (r : ArrayReads) (hacc : y.accDev = []) (hsum : y.sumDev = [])
    (hbuf : y.bufDev = []) : arrayError y r = none := by
  simp only [arrayError, hacc, hsum, hbuf, List.find?_nil, Option.map_none]
  rfl

/-- A fold once its engines have streamed: its reads and cycles counted, its running sums advanced. -/
def foldStreamed (s : State) (c : CoreId) (i : QInst) (x : MmRun) (f : Fold) (nextF : Option Fold) : State :=
  let bank := foldBank s x f (i.done == 0) i.resumed nextF
  let s1 := chargeEngine (((noteArrays s c (foldReads x f)).bump 0x620201).bumpBy 0x620203 (bank - f.rows.length)) c
    ((if x.m.wstat then 0 else 128) + max f.rows.length bank)
  let as := foldActs s1 c x f
  f.engines.foldl (runEngine c x f (s.core c).held as.1) as.2

/-- A fold with what the last fold of a column group writes. -/
def foldResults (s : State) (c : CoreId) (i : QInst) (x : MmRun) (f : Fold) (nextF : Option Fold) : State × Option NfElem :=
  if f.kb + 1 = x.nk then endGroup (foldStreamed s c i x f nextF) c x i.step f.g i.nf
  else (foldStreamed s c i x f nextF, i.nf)

/-- The head of the queue with one more fold done. -/
def QInst.folded (i : QInst) (nf : Option NfElem) : QInst := { i with done := i.done + 1, nf := nf, resumed := false }

theorem foldStreamed_foldKeeps {s : State} (hs : ScratchSound s) (i : QInst) (x : MmRun) (f : Fold) (nextF : Option Fold) :
    FoldKeeps c quiet s (foldStreamed s c i x f nextF) := by
  have hcounts (k n : Nat) : FoldKeeps c quiet s
      (chargeEngine (((noteArrays s c (foldReads x f)).bump 0x620201).bumpBy 0x620203 k) c n) :=
    (((noteArrays_foldKeeps s _).trans (.bumpBy ..)).trans (.bumpBy ..)).trans (chargeEngine_foldKeeps ..)
  have hsound (k n : Nat) := (hcounts k n).sound hs
  simp only [foldStreamed, foldActs_of_sound (hsound _ _)]
  exact (hcounts _ _).trans (runEngines_foldKeeps (hsound _ _) ..)

/-- A fold writes scratchpad only where it is the last of its column group. -/
theorem foldResults_foldKeeps {s : State} (hs : ScratchSound s) (i : QInst) (x : MmRun) (f : Fold) (nextF : Option Fold) :
    FoldKeeps c (f.kb + 1 ≠ x.nk) s (foldResults s c i x f nextF).1 := by
  have hstreamed : FoldKeeps c (f.kb + 1 ≠ x.nk) s (foldStreamed s c i x f nextF) := foldStreamed_foldKeeps hs ..
  unfold foldResults
  split
  · next hlast => exact hstreamed.trans (endGroup_foldKeeps (not_not_intro hlast) (hstreamed.sound hs) ..)
  · exact hstreamed

/-- A fold that meets no error has its results, counts at the head of the queue, and leaves the rest of the core alone. -/
theorem runFold_of_valid {s : State} (i : QInst) (x : MmRun) (f : Fold) (nextF : Option Fold)
    (hvalid : foldError (s.core c) x f = none) :
    FoldKeeps c quiet (setHead (foldResults s c i x f nextF).1 c 0 (i.folded (foldResults s c i x f nextF).2))
      (runFold s c i x f nextF) := by
  have hrun : runFold s c i x f nextF =
      let t := setHead (foldResults s c i x f nextF).1 c 0 (i.folded (foldResults s c i x f nextF).2)
      if nextF.isSome then t.modCore c fun y => drained y 0 else t := by
    unfold runFold
    rw [hvalid]
    rfl
  rw [hrun]
  dsimp only
  split
  · exact .modCore _ rfl
  · exact .refl _

theorem takeProduct_foldKeeps (s : State) : FoldKeeps c quiet s (takeProduct s c) := by
  unfold takeProduct
  split
  · exact ⟨id, rfl, by rw [State.core_modCore_same]; rfl, fun _ => rfl⟩
  · exact .refl s

/-! ## The head of the MATRIX queue (06 R127) -/

/-- The masks of an MMUL as its next fold has them: read before its first. -/
def startMmul (s : State) (c : CoreId) (i : QInst) (m : Mm) : QInst × State :=
  if i.masksRead then (i, s) else beginMmul s c i m

/-- Reading the masks from sound scratchpad counts an invalid KIND and drops the held blocks, and no more. -/
theorem beginMmul_of_sound {s : State} (hs : ScratchSound s) (i : QInst) (m : Mm) : ∃ bad : Bool,
    (beginMmul s c i m).2 = (s.when bad fun t => t.bump 0x620302).when (!m.wstat) fun t =>
      t.modCore c fun y => { y with held := none } := by
  simp only [beginMmul, scratchLoad_of_sound s c _ _ hs, apply_ite Prod.snd, ite_self]
  exact ⟨_, rfl⟩

theorem startMmul_foldKeeps {s : State} (hs : ScratchSound s) (i : QInst) (m : Mm) :
    FoldKeeps c quiet s (startMmul s c i m).2 := by
  unfold startMmul
  split
  · exact .refl s
  · obtain ⟨bad, hbegin⟩ := beginMmul_of_sound (c := c) hs i m
    rw [hbegin]
    exact (FoldKeeps.when bad (.bumpBy ..)).trans (.when _ (.modCore _ rfl))

/-- Reading the masks writes no word of the engines' arrays. -/
theorem startMmul_foldError {s : State} (hs : ScratchSound s) (i : QInst) (m : Mm) (x : MmRun) (f : Fold) :
    foldError ((startMmul s c i m).2.core c) x f = foldError (s.core c) x f := by
  unfold startMmul
  split
  · rfl
  · obtain ⟨bad, hbegin⟩ := beginMmul_of_sound (c := c) hs i m
    have hcore : (s.when bad fun t => t.bump 0x620302).core c = s.core c := State.when_keeps _ (State.core · c) _ _ rfl
    rw [hbegin]
    cases m.wstat with
    | true => exact congrArg (foldError · x f) hcore
    | false =>
      rw [Bool.not_false, State.when_true, State.core_modCore_same, hcore]
      rfl

theorem startMmul_entry (s : State) (i : QInst) (m : Mm) : (startMmul s c i m).1.op = i.op ∧
    (startMmul s c i m).1.done = i.done ∧ (startMmul s c i m).1.pc = i.pc := by
  unfold startMmul
  split
  · exact ⟨rfl, rfl, rfl⟩
  · exact ⟨rfl, rfl, rfl⟩

theorem exec_matrixFoldBoundary (s : State) : exec (.matrixFoldBoundary c) s = execMatrixFoldBoundary c s := rfl

/-- A fold boundary with an MMUL at the head of a queue that may work, while no Cirrus product runs on the engines. -/
theorem matrixFoldBoundary_mmul {s : State} {i : QInst} {rest : List QInst} {m : Mm} (hhead : HeadOf s c 0 i rest)
    (hop : mmOf i.op = some m) (hfree : c.val ∉ s.cirrusOn) :
    exec (.matrixFoldBoundary c) s = .next (takeProduct (mmulFold s c i m) c) := by
  obtain ⟨hqueue, hwork⟩ := hhead
  simp only [exec_matrixFoldBoundary, execMatrixFoldBoundary, List.contains_iff_mem, hfree, if_false, hqueue, hop, hwork,
    if_true]

/-- An MMUL that its banks let through runs the next fold of its list. -/
theorem mmulFold_of_pass {s : State} {i : QInst} {m : Mm} {f : Fold} {fs : List Fold}
    (hgate : mmGate s (s.core c) i m = .pass)
    (hfolds : (mmRun m ((s.core c).held.map (·.shape)) (startMmul s c i m).1).folds.drop i.done = f :: fs) :
    mmulFold s c i m = runFold (startMmul s c i m).2 c (startMmul s c i m).1
      (mmRun m ((s.core c).held.map (·.shape)) (startMmul s c i m).1) f fs.head? := by
  rw [startMmul] at hfolds
  simp only [mmulFold, hgate, startMmul, hfolds]

/-- The head of the queue replaced amid work of the matrix unit, and what that work left alone. -/
theorem FoldKeeps.around_setHead {s u t : State} {i j : QInst} {rest : List QInst} (hu : FoldKeeps c quiet s u)
    (ht : FoldKeeps c quiet (setHead u c 0 j) t) (hqueue : (s.core c).queue 0 = i :: rest) :
    (t.core c).queue 0 = j :: rest ∧ t.mem = s.mem ∧ (t.core c).sregs = (s.core c).sregs ∧
      (t.core c).adescs = (s.core c).adescs ∧ (t.core c).pc = (s.core c).pc ∧ (quiet → t.scratch = s.scratch) := by
  rw [setHead_of_cons u c ((hu.read (·.queue 0) fun _ => rfl).trans hqueue)] at ht
  have hset {β : Type} (g : CoreState → β) (hg : ∀ x : CoreState, g x.withoutEngines = g x) :
      g (t.core c) = g ((u.core c).setQueue 0 (j :: rest)) := by
    rw [ht.read g hg, State.core_modCore_same]
  have hkeep {β : Type} (g : CoreState → β) (hg : ∀ x : CoreState, g x.withoutEngines = g x)
      (hfree : g ((u.core c).setQueue 0 (j :: rest)) = g (u.core c)) : g (t.core c) = g (s.core c) :=
    (hset g hg).trans (hfree.trans (hu.read g hg))
  exact ⟨(hset (·.queue 0) fun _ => rfl).trans (queue_setQueue_same ..), ht.mem.trans hu.mem, hkeep (·.sregs) (fun _ => rfl) rfl,
    hkeep (·.adescs) (fun _ => rfl) rfl, hkeep (·.pc) (fun _ => rfl) rfl, fun hq => (ht.scratch hq).trans (hu.scratch hq)⟩

end Keeps

/-- Settles O18: the masks, operands and running sums of a fold write no scratchpad; only the end of its column group does. -/
theorem matrixFoldRuns : Obligations.MatrixFoldRuns := by
  intro c s i rest m f fs hhead hop hfree hgate hsound hacc hsum hbuf hfolds
  obtain ⟨hstartOp, hstartDone, hstartPc⟩ := startMmul_entry (c := c) s i m
  have hexec := matrixFoldBoundary_mmul hhead hop hfree
  rw [mmulFold_of_pass hgate hfolds] at hexec
  have hvalid (x : MmRun) : foldError ((startMmul s c i m).2.core c) x f = none :=
    (startMmul_foldError hsound i m x f).trans (arrayError_of_valid (foldReads x f) hacc hsum hbuf)
  have hstart (quiet : Prop) : FoldKeeps c quiet s (startMmul s c i m).2 := startMmul_foldKeeps hsound i m
  have hfold := (hstart _).trans (foldResults_foldKeeps ((hstart True).sound hsound) (startMmul s c i m).1
    (mmRun m ((s.core c).held.map (·.shape)) (startMmul s c i m).1) f fs.head?)
  obtain ⟨hqueue, hframe⟩ := hfold.around_setHead
    ((runFold_of_valid _ _ f fs.head? (hvalid _)).trans (takeProduct_foldKeeps _)) hhead.1
  exact ⟨_, _, hexec, hqueue, hstartOp, congrArg (· + 1) hstartDone, hstartPc, hframe⟩

end Sys2Proof.Machine
end

section
/-!
Proofs: every command, and every cycle without one, leaves the waiting commands alone and keeps memory and the scratchpads in
canonical form (log entries 2, 40, 147).
-/
namespace Sys2Proof.Machine

/-- Every command keeps what its meaning keeps. -/
theorem exec_steady (i : Instr) (s : State) : SteadyR s (exec i s) :=
  have h := Steady.refl s
  match i with
  | .sop .. => execSop_steady h ..
  | .sopi .. => execSopi_steady h ..
  | .sli .. => execSli_steady h ..
  | .sld .. => execSld_steady h ..
  | .sst .. => execSst_steady h ..
  | .scmp .. => execScmp_steady h ..
  | .scmpi .. => execScmpi_steady h ..
  | .pset .. => execPset_steady h ..
  | .br .. => execBr_steady h ..
  | .call .. => execCall_steady h ..
  | .jmpr .. => execJmpr_steady h ..
  | .srd .. => execSrd_steady h ..
  | .dset .. => execDset_steady h ..
  | .dget .. => execDget_steady h ..
  | .dld .. => execDld_steady h ..
  | .dst .. => execDst_steady h ..
  | .dadv .. => execDadv_steady h ..
  | .vbin .. => execVbin_steady h ..
  | .vfma .. => execVfma_steady h ..
  | .vun .. => execVun_steady h ..
  | .vred .. => execVred_steady h ..
  | .mmul .. => execMmul_steady h ..
  | .mwld .. => execMwld_steady h ..
  | .mrd .. => execMrd_steady h ..
  | .pmv .. => execPmv_steady h ..
  | .dma .. => execDma_steady h ..
  | .tld .. => execTld_steady h ..
  | .coll .. => execColl_steady h ..
  | .exch .. => execExch_steady h ..
  | .upd .. => execUpd_steady h ..
  | .fend .. => execFend_steady h ..
  | .waitq .. => execWaitq_steady h ..
  | .bankset .. => execBankset_steady h ..
  | .flagset .. => execFlagset_steady h ..
  | .flagrd .. => execFlagrd_steady h ..
  | .ptag .. => execPtag_steady h ..
  | .reservedOpcodeTrap .. => execReservedOpcodeTrap_steady h ..
  | .trapRecordWrite .. => execTrapRecordWrite_steady h ..
  | .icacheLineFill .. => execIcacheLineFill_steady h ..
  | .issueQueueSpace .. => execIssueQueueSpace_steady h ..
  | .scalarAccessDone .. => execScalarAccessDone_steady h ..
  | .descriptorFetchDone .. => execDescriptorFetchDone_steady h ..
  | .queueInstructionDone .. => execQueueInstructionDone_steady h ..
  | .waitqRelease .. => execWaitqRelease_steady h ..
  | .handoverEffect .. => execHandoverEffect_steady h ..
  | .fendRetire .. => execFendRetire_steady h ..
  | .flagrdPayloadFinal .. => execFlagrdPayloadFinal_steady h ..
  | .srdScaleRelease .. => execSrdScaleRelease_steady h ..
  | .matrixFoldBoundary .. => execMatrixFoldBoundary_steady h ..
  | .cirrusProductEnd .. => execCirrusProductEnd_steady h ..
  | .bulkChannelAssign .. => execBulkChannelAssign_steady h ..
  | .dmaSegmentDone .. => execDmaSegmentDone_steady h ..
  | .dmaSegmentFailed .. => execDmaSegmentFailed_steady h ..
  | .streamIn .. => execStreamIn_steady h ..
  | .streamOut .. => execStreamOut_steady h ..
  | .timebaseTick .. => execTimebaseTick_steady h ..
  | .tickInEdge .. => execTickInEdge_steady h ..
  | .markerReceive .. => execMarkerReceive_steady h ..
  | .tickConflictEnd .. => execTickConflictEnd_steady h ..
  | .tickArrival .. => execTickArrival_steady h ..
  | .waveReceive .. => execWaveReceive_steady h ..
  | .tickLoss .. => execTickLoss_steady h ..
  | .frameStart .. => execFrameStart_steady h ..
  | .frameComplete .. => execFrameComplete_steady h ..
  | .frameWatchdog .. => execFrameWatchdog_steady h ..
  | .coreStopRecord .. => execCoreStopRecord_steady h ..
  | .imageEnd .. => execImageEnd_steady h ..
  | .commandFetch .. => execCommandFetch_steady h ..
  | .nop .. => execNop_steady h ..
  | .copyToDevice .. => execCopyToDevice_steady h ..
  | .copyFromDevice .. => execCopyFromDevice_steady h ..
  | .copyChunkDone .. => execCopyChunkDone_steady h ..
  | .loadImage .. => execLoadImage_steady h ..
  | .start .. => execStart_steady h ..
  | .stop .. => execStop_steady h ..
  | .stopCommandComplete .. => execStopCommandComplete_steady h ..
  | .resume .. => execResume_steady h ..
  | .unload .. => execUnload_steady h ..
  | .exportShard .. => execExportShard_steady h ..
  | .importShard .. => execImportShard_steady h ..
  | .sqTailWrite .. => execSqTailWrite_steady h ..
  | .cqHeadWrite .. => execCqHeadWrite_steady h ..
  | .evrHeadWrite .. => execEvrHeadWrite_steady h ..
  | .queueEnable .. => execQueueEnable_steady h ..
  | .queueDisable .. => execQueueDisable_steady h ..
  | .eventRingEnable .. => execEventRingEnable_steady h ..
  | .eventRingDisable .. => execEventRingDisable_steady h ..
  | .winBaseWrite .. => execWinBaseWrite_steady h ..
  | .bar2Read .. => execBar2Read_steady h ..
  | .bar2Write .. => execBar2Write_steady h ..
  | .bar0BadAccess .. => execBar0BadAccess_steady h ..
  | .registerWrite .. => execRegisterWrite_steady h ..
  | .msixUnmask .. => execMsixUnmask_steady h ..
  | .lowHalfRead .. => execLowHalfRead_steady h ..
  | .highHalfRead .. => execHighHalfRead_steady h ..
  | .nfRecordClear .. => execNfRecordClear_steady h ..
  | .flrFunction0 .. => execFlrFunction0_steady h ..
  | .flrFunction1 .. => execFlrFunction1_steady h ..
  | .perstNAssert .. => execPerstNAssert_steady h ..
  | .perstNRelease .. => execPerstNRelease_steady h ..
  | .enytreRead .. => execEnytreRead_steady h ..
  | .enytreWrite .. => execEnytreWrite_steady h ..
  | .enytreLock .. => execEnytreLock_steady h ..
  | .enytreUnlock .. => execEnytreUnlock_steady h ..
  | .enytreDescribe .. => execEnytreDescribe_steady h ..
  | .enytreBadOpcode .. => execEnytreBadOpcode_steady h ..
  | .lockLeaseExpiry .. => execLockLeaseExpiry_steady h ..
  | .mailboxGo .. => execMailboxGo_steady h ..
  | .stateCommandOperational .. => execStateCommandOperational_steady h ..
  | .stateCommandPreop .. => execStateCommandPreop_steady h ..
  | .stateCommandStop .. => execStateCommandStop_steady h ..
  | .reservationWrite .. => execReservationWrite_steady h ..
  | .powerBudgetWrite .. => execPowerBudgetWrite_steady h ..
  | .packageResetWrite .. => execPackageResetWrite_steady h ..
  | .computeResetWrite .. => execComputeResetWrite_steady h ..
  | .computeResetBondWrite .. => execComputeResetBondWrite_steady h ..
  | .zenithWatchdogExpiry .. => execZenithWatchdogExpiry_steady h ..
  | .zenithRestartDone .. => execZenithRestartDone_steady h ..
  | .i3cEntdaa .. => execI3cEntdaa_steady h ..
  | .i3cSetdasa .. => execI3cSetdasa_steady h ..
  | .i3cSetmrl .. => execI3cSetmrl_steady h ..
  | .i3cSetmwl .. => execI3cSetmwl_steady h ..
  | .i3cRstdaa .. => execI3cRstdaa_steady h ..
  | .i3cTargetReset .. => execI3cTargetReset_steady h ..
  | .mctpMessageReceive .. => execMctpMessageReceive_steady h ..
  | .mctpSetEndpointId .. => execMctpSetEndpointId_steady h ..
  | .mctpGetEndpointId .. => execMctpGetEndpointId_steady h ..
  | .mctpGetVersionSupport .. => execMctpGetVersionSupport_steady h ..
  | .mctpGetMessageTypeSupport .. => execMctpGetMessageTypeSupport_steady h ..
  | .pldmBaseDiscovery .. => execPldmBaseDiscovery_steady h ..
  | .pldmSensorRead .. => execPldmSensorRead_steady h ..
  | .pldmSetThreshold .. => execPldmSetThreshold_steady h ..
  | .pldmRequestUpdate .. => execPldmRequestUpdate_steady h ..
  | .pldmTransferEnd .. => execPldmTransferEnd_steady h ..
  | .pldmActivateFirmware .. => execPldmActivateFirmware_steady h ..
  | .spdmGetVersion .. => execSpdmGetVersion_steady h ..
  | .spdmGetCapabilities .. => execSpdmGetCapabilities_steady h ..
  | .spdmNegotiateAlgorithms .. => execSpdmNegotiateAlgorithms_steady h ..
  | .spdmGetDigests .. => execSpdmGetDigests_steady h ..
  | .spdmGetCertificate .. => execSpdmGetCertificate_steady h ..
  | .spdmChallenge .. => execSpdmChallenge_steady h ..
  | .spdmGetMeasurements .. => execSpdmGetMeasurements_steady h ..
  | .spdmKeyExchange .. => execSpdmKeyExchange_steady h ..
  | .spdmFinish .. => execSpdmFinish_steady h ..
  | .spdmHeartbeat .. => execSpdmHeartbeat_steady h ..
  | .spdmKeyUpdate .. => execSpdmKeyUpdate_steady h ..
  | .spdmEndSession .. => execSpdmEndSession_steady h ..
  | .licenceInstall .. => execLicenceInstall_steady h ..
  | .licenceList .. => execLicenceList_steady h ..
  | .licenceRemove .. => execLicenceRemove_steady h ..
  | .sourceAssert .. => execSourceAssert_steady h ..
  | .stormWindowEnd .. => execStormWindowEnd_steady h ..
  | .extInputFilterChange .. => execExtInputFilterChange_steady h ..
  | .extInputGlitch input => execExtInputGlitch_steady h input
  | .quarantineRelease .. => execQuarantineRelease_steady h ..
  | .claimRead .. => execClaimRead_steady h ..
  | .completeWrite .. => execCompleteWrite_steady h ..
  | .claimFastRead .. => execClaimFastRead_steady h ..
  | .completeFastWrite .. => execCompleteFastWrite_steady h ..
  | .srcStatusLevelSample .. => execSrcStatusLevelSample_steady h ..
  | .icModeQueueWrite .. => execIcModeQueueWrite_steady h ..
  | .icModeClaimWrite .. => execIcModeClaimWrite_steady h ..
  | .eqHeadAdvance .. => execEqHeadAdvance_steady h ..
  | .contrailEventSend .. => execContrailEventSend_steady h ..
  | .regionApply .. => execRegionApply_steady h ..
  | .regionApplyDone .. => execRegionApplyDone_steady h ..
  | .scrubStep .. => execScrubStep_steady h ..
  | .ctReadRaw .. => execCtReadRaw_steady h ..
  | .ctWriteRaw .. => execCtWriteRaw_steady h ..
  | .ctEncode .. => execCtEncode_steady h ..
  | .ctReadDecoded .. => execCtReadDecoded_steady h ..
  | .cacheWriteBack .. => execCacheWriteBack_steady h ..
  | .cacheDemote .. => execCacheDemote_steady h ..
  | .keepWinWrite .. => execKeepWinWrite_steady h ..
  | .ringRegWrite .. => execRingRegWrite_steady h ..
  | .portEnable .. => execPortEnable_steady h ..
  | .portDisable .. => execPortDisable_steady h ..
  | .portRetrainWrite .. => execPortRetrainWrite_steady h ..
  | .portTrained .. => execPortTrained_steady h ..
  | .portTrainSlow .. => execPortTrainSlow_steady h ..
  | .probeSend .. => execProbeSend_steady h ..
  | .probeReceive .. => execProbeReceive_steady h ..
  | .probeTimeout .. => execProbeTimeout_steady h ..
  | .measureTimeout .. => execMeasureTimeout_steady h ..
  | .codewordLockLoss .. => execCodewordLockLoss_steady h ..
  | .retrainTimeout .. => execRetrainTimeout_steady h ..
  | .dataFrameSend .. => execDataFrameSend_steady h ..
  | .dataFrameReceive .. => execDataFrameReceive_steady h ..
  | .ctrlFrameReceive .. => execCtrlFrameReceive_steady h ..
  | .ackTimer .. => execAckTimer_steady h ..
  | .dropstitchTriggerOff .. => execDropstitchTriggerOff_steady h ..
  | .dropstitchTriggerNow .. => execDropstitchTriggerNow_steady h ..
  | .dropstitchTriggerTick .. => execDropstitchTriggerTick_steady h ..
  | .dropstitchSingleShot .. => execDropstitchSingleShot_steady h ..
  | .collAccept .. => execCollAccept_steady h ..
  | .collChunkReceive .. => execCollChunkReceive_steady h ..
  | .collComplete .. => execCollComplete_steady h ..
  | .exchAccept .. => execExchAccept_steady h ..
  | .manifestReceive .. => execManifestReceive_steady h ..
  | .grantReceive .. => execGrantReceive_steady h ..
  | .rowReceive .. => execRowReceive_steady h ..
  | .returnReceive .. => execReturnReceive_steady h ..
  | .dispatchFinish .. => execDispatchFinish_steady h ..
  | .exchComplete .. => execExchComplete_steady h ..
  | .updAccept .. => execUpdAccept_steady h ..
  | .gradientHandoff .. => execGradientHandoff_steady h ..
  | .bandReady .. => execBandReady_steady h ..
  | .blockWritten .. => execBlockWritten_steady h ..
  | .refreshEnd .. => execRefreshEnd_steady h ..
  | .fingerprintReceive .. => execFingerprintReceive_steady h ..
  | .gaugeTimeoutExpiry .. => execGaugeTimeoutExpiry_steady h ..
  | .repairDone .. => execRepairDone_steady h ..
  | .controllerStep .. => execControllerStep_steady h ..
  | .packageStep .. => execPackageStep_steady h ..
  | .avsbusCommandDone .. => execAvsbusCommandDone_steady h ..
  | .droopDetect .. => execDroopDetect_steady h ..
  | .vrAlertFall .. => execVrAlertFall_steady h ..
  | .vrAlertHoldEnd .. => execVrAlertHoldEnd_steady h ..
  | .brownoutDip .. => execBrownoutDip_steady h ..
  | .brownoutHoldEnd .. => execBrownoutHoldEnd_steady h ..
  | .railResetLevel group => execRailResetLevel_steady h group
  | .sensorRead .. => execSensorRead_steady h ..
  | .sensorCheck .. => execSensorCheck_steady h ..
  | .thermalThrottleStep .. => execThermalThrottleStep_steady h ..
  | .remoteConversion .. => execRemoteConversion_steady h ..
  | .thermalTrip .. => execThermalTrip_steady h ..
  | .ageingReplan .. => execAgeingReplan_steady h ..
  | .operatingHour .. => execOperatingHour_steady h ..
  | .bondTestGraceExpiry .. => execBondTestGraceExpiry_steady h ..
  | .vddAonRise .. => execVddAonRise_steady h ..
  | .sysResetNLow .. => execSysResetNLow_steady h ..
  | .bootRom .. => execBootRom_steady h ..
  | .firmwareStart .. => execFirmwareStart_steady h ..
  | .railsWaiting .. => execRailsWaiting_steady h ..
  | .stratusBringup .. => execStratusBringup_steady h ..
  | .hbmBringup .. => execHbmBringup_steady h ..
  | .computeBringup .. => execComputeBringup_steady h ..
  | .pendingSlotTimeout .. => execPendingSlotTimeout_steady h ..
  | .computeResetContinue .. => execComputeResetContinue_steady h ..
  | .pllUnlock .. => execPllUnlock_steady h ..
  | .pllRelock .. => execPllRelock_steady h ..
  | .refclkLoss .. => execRefclkLoss_steady h ..
  | .crossingTimeout .. => execCrossingTimeout_steady h ..
  | .crossInfoClear .. => execCrossInfoClear_steady h ..
  | .vrAlertRise .. => execVrAlertRise_steady h ..
  | .railAboveWarningLevel .. => execRailAboveWarningLevel_steady h ..
  | .refclkReturn .. => execRefclkReturn_steady h ..
  | .vddAonLoss .. => execVddAonLoss_steady h ..
  | .exportRecordDone .. => execExportRecordDone_steady h ..
  | .fuseUpdate .. => execFuseUpdate_steady h ..

/-- A step runs the front command on the queue's rest, or lets a cycle pass: either way memory stays canonical. -/
theorem memCanonical_of_step {s t : State} (hs : s.MemCanonical) (hstep : step s = .next t) : t.MemCanonical := by
  unfold step at hstep
  split at hstep
  case h_1 =>
    cases hstep
    exact (idle_steady (.refl s)).canonical hs
  case h_2 c rest _ =>
    have hrest : State.MemCanonical { s with pending := rest } := hs
    exact ((exec_steady c _).ofNext t hstep).canonical hrest

/-- Settles O59: the rule of every command, and that of a cycle without one. -/
theorem everyStepKeepsMemoryCanonical : Obligations.EveryStepKeepsMemoryCanonical := fun _ _ => memCanonical_of_step

end Sys2Proof.Machine
end

section
/-!
Proofs: segments of DMA (08 R175 to R180): zeros written into scratchpad, and a segment that fails for good.
-/
namespace Sys2Proof.Machine

theorem exec_dmaSegmentDone (c : CoreId) (ch : Fin 4) (how : MemOutcome) (s : State) :
    exec (.dmaSegmentDone c ch how) s = execDmaSegmentDone c ch how s := rfl

theorem exec_dmaSegmentFailed (c : CoreId) (ch : Fin 4) (atDest : Bool) (n : Fin 4) (s : State) :
    exec (.dmaSegmentFailed c ch atDest n) s = execDmaSegmentFailed c ch atDest n s := rfl

/-! ## Pieces without a poisoned byte -/

theorem badRuns_zero (n : Nat) : badRuns n 0 = [] := by
  have hgood (i : Nat) : bitAt 0 i = false := by simp [bitAt]
  simp only [badRuns, hgood, Bool.not_false, if_true, List.foldl_fixed, List.reverse_nil]

theorem poisonRuns_zero (s : State) (c : CoreId) (g : Seg) (off n hint : Nat) : poisonRuns s c g off n 0 hint = s := by
  rw [poisonRuns, badRuns_zero]
  rfl

/-! ## MODE ZERO into scratchpad (08 R176) -/

/-- The scratchpad byte at which a piece lands, in a segment that begins at `base`. -/
def Xfer.landing (x : Xfer) (c : CoreId) (base : Nat) (p : Nat × Nat × Nat) : Nat :=
  scratchKey c (base + (x.dstRow p.1 + p.2.1))

/-- The scratchpad places of pieces have become zero, and no other byte of memory, nor the program, nor the health of the
arrays has changed. -/
structure ZeroFills (c : CoreId) (x : Xfer) (base : Nat) (ps : List (Nat × Nat × Nat)) (s t : State) : Prop where
  mem : t.mem = s.mem
  run : t.run = s.run
  wear : t.wear = s.wear
  cores : t.cores = s.cores
  scratch : ∀ a, kvGet 0#8 t.scratch a =
    if (∃ p ∈ ps, x.landing c base p ≤ a ∧ a < x.landing c base p + (p.2.2 - p.2.1)) then 0#8 else kvGet 0#8 s.scratch a

section Zero
variable {c : CoreId} {x : Xfer} {base : Nat}

theorem ZeroFills.nil (s : State) : ZeroFills c x base [] s s := ⟨rfl, rfl, rfl, rfl, fun a => by simp⟩

theorem ZeroFills.cons {s t u : State} {p : Nat × Nat × Nat} {ps : List (Nat × Nat × Nat)}
    (h : ZeroFills c x base [p] s t) (k : ZeroFills c x base ps t u) : ZeroFills c x base (p :: ps) s u where
  mem := k.mem.trans h.mem
  run := k.run.trans h.run
  wear := k.wear.trans h.wear
  cores := k.cores.trans h.cores
  scratch a := by
    rw [k.scratch a, h.scratch a]
    simp only [List.mem_cons, List.not_mem_nil, or_false, exists_eq_or_imp, exists_eq_left]
    by_cases hp : x.landing c base p ≤ a ∧ a < x.landing c base p + (p.2.2 - p.2.1)
    · simp [hp]
    · simp only [hp, false_or, if_false]

theorem ZeroFills.when_bump {s t : State} {ps : List (Nat × Nat × Nat)} (h : ZeroFills c x base ps s t) (b : Bool) (key : Nat) :
    ZeroFills c x base ps s (t.when b fun u => u.bump key) := by
  cases b with
  | false => exact h
  | true => exact ⟨h.mem, h.run, h.wear, h.cores, h.scratch⟩

/-- Zeros written where no scratchpad word has a hard fault. -/
theorem zeroFills_scratchStore {s : State} (hdead : s.wear.dead = []) (p : Nat × Nat × Nat) :
    ZeroFills c x base [p] s (scratchStore s c (base + (x.dstRow p.1 + p.2.1)) (List.replicate (p.2.2 - p.2.1) 0#8)) := by
  rw [scratchStore_of_alive s c _ _ hdead]
  refine ⟨rfl, rfl, rfl, rfl, fun a => ?_⟩
  have hzero (i : Nat) : (List.replicate (p.2.2 - p.2.1) 0#8).getD i 0#8 = 0#8 := by
    rw [List.getD_eq_getElem?_getD, List.getElem?_replicate]
    split <;> rfl
  simp only [kvGet_memWrite, hzero, List.length_replicate, List.mem_singleton, exists_eq_left, Xfer.landing]

/-- A piece of a transfer in MODE ZERO is a write of zeros. -/
theorem movePiece_of_zero (hmode : x.mode = 3) (hout : x.zrOut = false) (how : MemOutcome) {o : SegOut} (hcode : o.code = 0)
    (p : Nat × Nat × Nat) : (movePiece c x none none how o p).code = 0 ∧ (movePiece c x none none how o p).s =
      moverStore o.s c (placeOf o.s x.dstSeg) (x.dstRow p.1 + p.2.1) (List.replicate (p.2.2 - p.2.1) 0#8) x.hint := by
  simp [movePiece, readPiece, writePiece, hmode, hout, hcode, poisonRuns_zero]

/-- Pieces in MODE ZERO, whatever the array hardware would do to reads. -/
theorem foldl_movePiece_of_zero (hmode : x.mode = 3) (hout : x.zrOut = false) (how : Nat → MemOutcome)
    (ps : List (Nat × Nat × Nat)) (n : Nat) {o : SegOut} (hcode : o.code = 0) (hdead : o.s.wear.dead = [])
    (hkind : (placeOf o.s x.dstSeg).kind = 1) :
    let o' := (ps.zipIdx n).foldl (fun a p => movePiece c x none none (how p.2) a p.1) o
    o'.code = 0 ∧ ZeroFills c x (placeOf o.s x.dstSeg).base ps o.s o'.s := by
  induction ps generalizing o n with
  | nil => exact ⟨hcode, .nil _⟩
  | cons p ps ih =>
    obtain ⟨hcode', hstate⟩ := movePiece_of_zero (c := c) hmode hout (how n) hcode p
    rw [moverStore, if_pos hkind] at hstate
    have hfill := zeroFills_scratchStore (c := c) (x := x) (base := (placeOf o.s x.dstSeg).base) hdead p
    rw [← hstate] at hfill
    have hplace : placeOf (movePiece c x none none (how n) o p).s x.dstSeg = placeOf o.s x.dstSeg := by
      simp only [placeOf, State.seg, hfill.run]
    obtain ⟨hcodes, hrest⟩ := ih (n + 1) hcode' (by rw [hfill.wear, hdead]) (by rw [hplace, hkind])
    rw [hplace] at hrest
    exact ⟨hcodes, hfill.cons hrest⟩

/-- A segment in MODE ZERO. -/
theorem moveSegment_of_zero {s : State} (hmode : x.mode = 3) (hout : x.zrOut = false) (hdead : s.wear.dead = [])
    (hkind : (placeOf s x.dstSeg).kind = 1) (how : MemOutcome) (row : Option (Nat × Row)) (k : Nat) :
    (moveSegment s c x how row k).code = 0 ∧
      ZeroFills c x (placeOf s x.dstSeg).base (x.pieces k) s (moveSegment s c x how row k).s := by
  obtain ⟨hcode, hfill⟩ : (movePieces c x none none how ⟨s, 0, 0, row⟩ (x.pieces k)).code = 0 ∧ ZeroFills c x
      (placeOf s x.dstSeg).base (x.pieces k) s (movePieces c x none none how ⟨s, 0, 0, row⟩ (x.pieces k)).s :=
    foldl_movePiece_of_zero hmode hout (fun n => if n = 0 then how else .good) (x.pieces k) 0 rfl hdead hkind
  simp only [moveSegment, hmode, if_true, hcode, OfNat.zero_ne_ofNat, zero_ne_one, if_false, decide_false, State.when_false]
  exact ⟨trivial, hfill.when_bump _ _⟩

end Zero

/-! ## The head of a channel (03 R60, 08 R178, R179) -/

section Head
variable {s : State} {c : CoreId} {ch : Nat} {i : QInst} {rest : List QInst} {x : Xfer}

theorem beginXfer_of_noFill (h : exbOf i.op = none) : beginXfer s c i = (i, s) := by
  simp [beginXfer, h]

/-- A segment that a channel's banks let through, moved without a failure. -/
theorem stepSegment_of_moved (hgate : bankGate (s.core c) 4 i.seq (segmentBanks s x i.done) = .pass) (hfill : exbOf i.op = none)
    (how : MemOutcome) {o : SegOut} (ho : moveSegment s c x how i.row i.done = o) (hcode : o.code ≠ 2) :
    stepSegment s c ch i x how =
      let t := setHead o.s c (3 + ch) { i with done := i.done + 1, codes := i.codes ++ [(o.code, o.out)], row := o.row }
      if i.done + 1 < x.segments then t.modCore c fun y => drained y (3 + ch) else t := by
  simp only [stepSegment, hgate, beginXfer_of_noFill hfill, runSegment, hfill, ho, hcode, if_false]

/-- A segment that a channel's banks let through, failed with none later in flight, ends the descriptor where it stands. -/
theorem failSegment_of_pass (hgate : bankGate (s.core c) 4 i.seq (segmentBanks s x i.done) = .pass) (hfill : exbOf i.op = none)
    (atDest : Bool) : failSegment s c ch i x atDest 0 = haltXfer ((poisonSegment s c x i.done).bump 0x640008) c ch i x
      (i.codes ++ [(if atDest then 3 else 2, 0)]) i.done := by
  simp [failSegment, hgate, beginXfer_of_noFill hfill]

theorem dmaSegmentDone_of_ready {ch : Fin 4} (hhead : HeadOf s c (3 + ch.val) i rest) (hxfer : xferOf i.op = some x)
    (hready : segmentReady s i x = true) (how : MemOutcome) :
    exec (.dmaSegmentDone c ch how) s = .next (stepSegment s c ch i x how) := by
  simp only [exec_dmaSegmentDone, execDmaSegmentDone, hhead.1, hxfer, hready, hhead.2, Bool.and_self, if_true]

theorem dmaSegmentFailed_of_ready {ch : Fin 4} (hhead : HeadOf s c (3 + ch.val) i rest) (hxfer : xferOf i.op = some x)
    (hready : segmentReady s i x = true) (atDest : Bool) (n : Fin 4) :
    exec (.dmaSegmentFailed c ch atDest n) s = .next (failSegment s c ch i x atDest n) := by
  have hsegments : x.stream = false := by
    simp only [segmentReady, Bool.and_eq_true, Bool.not_eq_true'] at hready
    exact hready.1.1
  simp only [exec_dmaSegmentFailed, execDmaSegmentFailed, hhead.1, hxfer, hsegments, Bool.false_eq_true, if_false, hready,
    hhead.2, Bool.and_self, if_true]

/-! ### A descriptor that halts (08 R179) -/

@[simp] theorem poisonPieces_program (s : State) (ring : Option RingView) (ps : List (Nat × Nat × Nat)) :
    (poisonPieces s c x ring ps).program = s.program := by
  refine State.each_program s _ _ fun t p => ?_
  cases ring with
  | some r => exact State.each_program t _ _ fun u q => moverPoison_program ..
  | none =>
    dsimp only
    split <;> exact moverPoison_program ..

@[simp] theorem poisonSegment_program (s : State) (k : Nat) : (poisonSegment s c x k).program = s.program :=
  poisonPieces_program ..

@[simp] theorem dmaHalted_core (s : State) (ch pc first : Nat) : (dmaHalted s c ch pc first).core c = s.core c :=
  core_of_program ((raiseOn_program ..).trans (State.bump_program ..)) c

/-- A descriptor that halts has every segment done: those not started have code 4. -/
theorem haltXfer_queue (hqueue : (s.core c).queue (3 + ch) = i :: rest) {codes : List (Nat × Nat)}
    (hlen : codes.length ≤ x.segments) (first : Nat) : ∃ j, ((haltXfer s c ch i x codes first).core c).queue (3 + ch) = j :: rest ∧
      j.op = i.op ∧ j.done = x.segments ∧
      j.codes.map (·.1) = codes.map (·.1) ++ List.replicate (x.segments - codes.length) 4 := by
  unfold haltXfer
  extract_lets left s1 all s2
  have hcore : s1.core c = s.core c :=
    core_of_program (State.each_program s _ _ fun t k => poisonSegment_program t k) c
  have hhead : s2 = s1.modCore c fun y => y.setQueue (3 + ch) ({ i with done := all.length, codes := all } :: rest) :=
    setHead_of_cons s1 c (by rw [hcore, hqueue]) _
  refine ⟨{ i with done := all.length, codes := all }, ?_, rfl, ?_, ?_⟩
  · rw [dmaHalted_core, hhead, State.core_modCore_same, queue_setQueue_same]
  · simp only [all, left, List.length_append, List.length_map, List.length_range]
    omega
  · simp [all, left, Function.comp_def]

end Head

/-- Settles O20: a piece of zeros is one write of scratchpad, and poison leaves the channel's queue alone. -/
theorem dmaSegmentOfZerosFillsItsPieces : Obligations.DmaSegmentOfZerosFillsItsPieces := by
  constructor
  · intro c ch how s i rest b hhead hop hmode hout hkind hready hdead hgate
    have hxfer : xferOf i.op = some (dmaOf b) := by rw [hop]; rfl
    have hnoFill : exbOf i.op = none := by rw [hop]; rfl
    obtain ⟨hcode, hfill⟩ := moveSegment_of_zero (c := c) hmode hout hdead hkind how i.row i.done
    have hexec := dmaSegmentDone_of_ready hhead hxfer hready how
    rw [stepSegment_of_moved hgate hnoFill how rfl (by omega)] at hexec
    generalize moveSegment s c (dmaOf b) how i.row i.done = o at hcode hfill hexec
    have hqueue : (o.s.core c).queue (3 + ch.val) = i :: rest := by
      rw [State.core, hfill.cores]
      exact hhead.1
    dsimp only at hexec
    rw [setHead_of_cons _ c hqueue, hcode] at hexec
    refine ⟨_, { i with done := i.done + 1, codes := i.codes ++ [(0, o.out)], row := o.row }, hexec, ?_, rfl, rfl, ?_, ?_, ?_⟩
    · split <;> simp [queue_setQueue_same]
    · simp
    · split <;> exact hfill.mem
    · split <;> exact hfill.scratch
  · intro c ch atDest s i rest b hhead hop hready hlen hgate
    have hxfer : xferOf i.op = some (dmaOf b) := by rw [hop]; rfl
    have hnoFill : exbOf i.op = none := by rw [hop]; rfl
    have hleft : i.done < (dmaOf b).segments := by
      simp only [segmentReady, Bool.and_eq_true, decide_eq_true_eq] at hready
      exact hready.1.2
    have hcore : ((poisonSegment s c (dmaOf b) i.done).bump 0x640008).core c = s.core c :=
      core_of_program ((State.bump_program ..).trans (poisonSegment_program ..)) c
    have hexec : exec (.dmaSegmentFailed c ch atDest 0) s = .next (failSegment s c ch i (dmaOf b) atDest 0) :=
      dmaSegmentFailed_of_ready hhead hxfer hready atDest 0
    rw [failSegment_of_pass hgate hnoFill] at hexec
    obtain ⟨j, hqueue, hjop, hjdone, hjcodes⟩ := haltXfer_queue (x := dmaOf b) (ch := ch.val)
      (codes := i.codes ++ [(if atDest then 3 else 2, 0)]) (by rw [hcore]; exact hhead.1)
      (by rw [List.length_append, hlen]; exact hleft) i.done
    refine ⟨_, j, hexec, hqueue, hjop, hjdone, ?_⟩
    rw [hjcodes]
    simp [hlen, Nat.sub_sub]

end Sys2Proof.Machine
end

section
/-!
Proofs: what accesses to memory leave in place: what lies beyond the caches, the queues of the cores, and the regions in force
(08 R167 to R173, 09 R190 to R203).
-/
namespace Sys2Proof.Machine

/-! ## What lies beyond the caches -/

/-- A die's memory system without what its cache slices hold. -/
def DieMem.withoutCache (m : DieMem) : DieMem := { m with cache := [], cacheWord := [], cacheDev := [] }

/-- The state with all put aside that a cache slice and the events it raises can reach: the slices, the memory they write back
to, and what `State.withoutEvents` puts aside. -/
def State.withoutCaches (s : State) : State :=
  { s.withoutEvents with mem := [], byteDev := [], dies := s.dies.map DieMem.withoutCache }

section Caches
variable (s : State)

@[simp] theorem State.bump_withoutCaches (key : Nat) : (s.bump key).withoutCaches = s.withoutCaches := (rfl)
@[simp] theorem State.bumpBy_withoutCaches (key n : Nat) : (s.bumpBy key n).withoutCaches = s.withoutCaches := (rfl)
@[simp] theorem State.setObj_withoutCaches (key v : Nat) : (s.setObj key v).withoutCaches = s.withoutCaches := (rfl)

@[simp] theorem State.when_withoutCaches (b : Bool) (f : State → State) (h : (f s).withoutCaches = s.withoutCaches) :
    (s.when b f).withoutCaches = s.withoutCaches := State.when_keeps s State.withoutCaches b f h

@[simp] theorem State.each_withoutCaches {α : Type} (l : List α) (f : State → α → State)
    (h : ∀ t a, (f t a).withoutCaches = t.withoutCaches) : (s.each l f).withoutCaches = s.withoutCaches :=
  State.each_keeps s State.withoutCaches l f h

/-- A change of one element leaves the elements' views alone when it leaves its own alone. -/
theorem map_vmod {α β : Type} {n : Nat} (g : α → β) (v : Vector α n) (i : Fin n) {f : α → α} (h : ∀ a, g (f a) = g a) :
    (vmod v i f).map g = v.map g := by
  ext j hj
  simp only [vmod, Vector.getElem_map, Vector.getElem_set]
  split
  · rename_i hij
    subst hij
    exact h _
  · rfl

theorem State.modDie_withoutCaches (d : DieId) {f : DieMem → DieMem} (h : ∀ m, (f m).withoutCache = m.withoutCache) :
    (s.modDie d f).withoutCaches = s.withoutCaches :=
  congrArg (fun ds : Vector DieMem 8 => { s.withoutCaches with dies := ds }) (map_vmod DieMem.withoutCache s.dies d h)

@[simp] theorem raiseOn_withoutCaches (d : DieId) (l d0 d1 : Nat) : (raiseOn s d l d0 d1).withoutCaches = s.withoutCaches :=
  congrArg (fun u : State => { u with mem := [], byteDev := [], dies := u.dies.map DieMem.withoutCache })
    (raise_withoutEvents s (512 * d.val + l) d0 d1)

@[simp] theorem poisonByte_withoutCaches (a : Nat) : (poisonByte s a).withoutCaches = s.withoutCaches := (rfl)

@[simp] theorem clearWords_withoutCaches (d : DieId) (k n : Nat) : (clearWords s d k n).withoutCaches = s.withoutCaches :=
  State.modDie_withoutCaches s d fun _ => rfl

@[simp] theorem setFrameWord_withoutCaches (d : DieId) (k v dev : Nat) :
    (setFrameWord s d k v dev).withoutCaches = s.withoutCaches := State.modDie_withoutCaches s d fun _ => rfl

@[simp] theorem loseWord_withoutCaches (d : DieId) (l : CacheLine) (k : Nat) :
    (loseWord s d l k).withoutCaches = s.withoutCaches := by
  simp [loseWord, sramUncorrectable]

@[simp] theorem backWord_withoutCaches (d : DieId) (l : CacheLine) (k : Nat) :
    (backWord d l s k).withoutCaches = s.withoutCaches := by
  unfold backWord
  dsimp only
  split
  · rfl
  · rfl
  · rfl
  · simp
  · simp

@[simp] theorem settleLine_withoutCaches (d : DieId) (l : CacheLine) : (settleLine d s l).withoutCaches = s.withoutCaches := by
  unfold settleLine
  dsimp only
  split <;> simp

@[simp] theorem setCacheSet_withoutCaches (d : DieId) (line : Nat) (ls : List CacheLine) :
    (setCacheSet s d line ls).withoutCaches = s.withoutCaches := by
  refine Eq.trans (State.modDie_withoutCaches _ d ?_) ?_
  · exact fun _ => rfl
  · simp

@[simp] theorem readFrameWord_withoutCaches (d : DieId) (k : Nat) :
    (readFrameWord s d k).2.withoutCaches = s.withoutCaches := by
  unfold readFrameWord
  dsimp only
  split
  · rfl
  · split
    · rfl
    · simp
    · simp
    · rfl
    · split <;> simp

@[simp] theorem readFrames_withoutCaches (d : DieId) (o n : Nat) : (readFrames s d o n).2.withoutCaches = s.withoutCaches := by
  unfold readFrames
  split
  · rfl
  · exact foldl_keeps (fun p : List (Nat × Nat) × State => p.2.withoutCaches) _ _ _ fun p k =>
      readFrameWord_withoutCaches p.2 d k

@[simp] theorem writeFrames_withoutCaches (d : DieId) (o : Nat) (bs : List Byte) :
    (writeFrames s d o bs).withoutCaches = s.withoutCaches := by
  unfold writeFrames
  split
  · rfl
  · refine State.each_withoutCaches s _ _ fun t k => ?_
    dsimp only
    split
    · simp
    · split
      · simp
      · refine Eq.trans (State.modDie_withoutCaches _ d ?_) (readFrameWord_withoutCaches t d k)
        exact fun _ => rfl

@[simp] theorem updatePairing_withoutCaches (d : DieId) (line : Nat) :
    (updatePairing s d line).withoutCaches = s.withoutCaches := by
  unfold updatePairing
  extract_lets ls
  split
  · extract_lets pair
    split
    · rfl
    · split
      · exact (State.bump_withoutCaches ..).trans (setCacheSet_withoutCaches ..)
      · exact (State.setObj_withoutCaches ..).trans (setCacheSet_withoutCaches ..)
  · rfl

@[simp] theorem cacheLineAccess_withoutCaches (d : DieId) (line : Nat) (mask : BitVec 4) (hint : Hint)
    (write byteRegion : Bool) : (cacheLineAccess s d line mask hint write byteRegion).withoutCaches = s.withoutCaches := by
  unfold cacheLineAccess
  extract_lets ls limit
  split
  · rw [updatePairing_withoutCaches, State.bumpBy_withoutCaches, State.bumpBy_withoutCaches, setCacheSet_withoutCaches]
  · rename_i s1 demote room s2 s3 new _ _
    split
    · rfl
    · have h2 : s2.withoutCaches = s.withoutCaches := State.when_withoutCaches s1 demote _ (State.bump_withoutCaches ..)
      have h3 : s3.withoutCaches = s2.withoutCaches := State.when_withoutCaches s2 _ _ (State.setObj_withoutCaches ..)
      rw [updatePairing_withoutCaches, setCacheSet_withoutCaches, h3, h2]

@[simp] theorem cacheAccess_withoutCaches (d : DieId) (o n : Nat) (hint : Hint) (write byteRegion : Bool) :
    (cacheAccess s d o n hint write byteRegion).withoutCaches = s.withoutCaches := by
  unfold cacheAccess
  split <;> simp

@[simp] theorem rePair_withoutCaches (d : DieId) (o n : Nat) : (rePair s d o n).withoutCaches = s.withoutCaches := by
  unfold rePair
  split <;> simp

@[simp] theorem dropFrames_withoutCaches (h : RegionHit) (a n : Nat) : (dropFrames s h a n).withoutCaches = s.withoutCaches := by
  simp [dropFrames]

@[simp] theorem storeByte_withoutCaches (h : RegionHit) (b : Nat) (v : Byte) :
    (storeByte s h b v).withoutCaches = s.withoutCaches := by
  unfold storeByte
  split <;> rfl

/-- A die's tables of fenced pages lie beyond its slices. -/
theorem isFenced_of_withoutCaches {s t : State} (h : t.withoutCaches = s.withoutCaches) (d : DieId) (a : Nat) :
    isFenced t d a = isFenced s d a := by
  have hdie : (t.die d).withoutCache = (s.die d).withoutCache := by
    have hdies : (t.dies.map DieMem.withoutCache)[d] = (s.dies.map DieMem.withoutCache)[d] :=
      congrArg (fun u : State => u.dies[d]) h
    simpa [State.die] using hdies
  have hview (m : DieMem) : m.withoutCache.fencedH = m.fencedH ∧ m.withoutCache.fencedS = m.fencedS ∧
      m.withoutCache.fencedX = m.fencedX := ⟨rfl, rfl, rfl⟩
  obtain ⟨hH, hS, hX⟩ := hview (t.die d)
  obtain ⟨hH', hS', hX'⟩ := hview (s.die d)
  rw [isFenced, isFenced, ← hH, ← hS, ← hX, hdie, hH', hS', hX']

end Caches

/-! ## The queues of the cores and the regions in force -/

/-- Where the work of the package stands and how its memories are laid out: the queues of each core, and the regions in force on
each die. -/
structure Layout where
  queues : Vector (Vector (List QInst) 10) 32
  applied : Vector (Vector (BitVec 64) 16) 8

/-- The layout of a state. -/
def State.layout (s : State) : Layout := ⟨s.cores.map (·.queues), s.dies.map (·.applied)⟩

theorem queue_of_layout {s t : State} (h : t.layout = s.layout) (c : CoreId) (q : Nat) :
    (t.core c).queue q = (s.core c).queue q := by
  have hqueues : (t.core c).queues = (s.core c).queues := by
    simpa [State.layout, State.core] using congrArg (fun v : Layout => v.queues[c]) h
  rw [CoreState.queue, CoreState.queue, hqueues]

theorem regionOf_of_layout {s t : State} (h : t.layout = s.layout) (a : Nat) : regionOf t a = regionOf s a := by
  have happlied (d : DieId) : (t.die d).applied = (s.die d).applied := by
    simpa [State.layout, State.die] using congrArg (fun v : Layout => v.applied[d]) h
  simp only [regionOf, happlied]

theorem layout_of_withoutCaches {s t : State} (h : t.withoutCaches = s.withoutCaches) : t.layout = s.layout := by
  have hview (u : State) : u.withoutCaches.layout = u.layout := by
    simp only [State.layout, State.withoutCaches, State.withoutEvents, Vector.map_map]
    rfl
  rw [← hview t, h, hview s]

theorem layout_of_withoutEvents {s t : State} (h : t.withoutEvents = s.withoutEvents) : t.layout = s.layout :=
  (congrArg State.layout h :)

section Layout
variable (s : State)

@[simp] theorem State.bump_layout (key : Nat) : (s.bump key).layout = s.layout := (rfl)
@[simp] theorem State.bumpBy_layout (key n : Nat) : (s.bumpBy key n).layout = s.layout := (rfl)

@[simp] theorem State.when_layout (b : Bool) (f : State → State) (h : (f s).layout = s.layout) :
    (s.when b f).layout = s.layout := State.when_keeps s State.layout b f h

@[simp] theorem State.each_layout {α : Type} (l : List α) (f : State → α → State) (h : ∀ t a, (f t a).layout = t.layout) :
    (s.each l f).layout = s.layout := State.each_keeps s State.layout l f h

theorem ite_layout {s t u : State} {p : Prop} {_ : Decidable p} (ht : t.layout = s.layout) (hu : u.layout = s.layout) :
    (if p then t else u).layout = s.layout := by
  split
  · exact ht
  · exact hu

theorem State.modDie_layout (d : DieId) {f : DieMem → DieMem} (h : ∀ m, (f m).applied = m.applied) :
    (s.modDie d f).layout = s.layout := congrArg (Layout.mk _) (map_vmod (·.applied) s.dies d h)

@[simp] theorem raise_layout (n d0 d1 : Nat) : (raise s n d0 d1).layout = s.layout :=
  layout_of_withoutEvents (raise_withoutEvents ..)

@[simp] theorem raiseOn_layout (d : DieId) (l d0 d1 : Nat) : (raiseOn s d l d0 d1).layout = s.layout := raise_layout ..

/-! ### Failures for good (01 R15, 09 R203) -/

@[simp] theorem setDeviceState_layout (st cause : Nat) : (setDeviceState s st cause).layout = s.layout := by
  have hmailbox (t : State) : (mailboxState t).layout = t.layout := (layout_of_withoutEvents (signalVector_withoutEvents ..)).trans rfl
  have hcontrail (t : State) (data : List Byte) : (notifyContrail t 0x1001 1 data).layout = t.layout := by
    unfold notifyContrail
    split <;> rfl
  have hobj (t : State) (key v : Nat) : (t.setObj key v).layout = t.layout := rfl
  unfold setDeviceState
  split
  · rfl
  · rw [hcontrail, hmailbox, raise_layout, hobj, hobj]

/-- An image that a failure stops leaves its queues where they are. -/
theorem freezeImage_layout : (freezeImage s).layout = s.layout := by
  simp only [State.layout, freezeImage, Vector.map_map]
  rfl

@[simp] theorem failUnit_layout (u : FailUnit) (cause : Nat) : (failUnit s u cause).layout = s.layout := by
  have hready (t : State) : (driveReady t false).layout = t.layout := by
    unfold driveReady
    split <;> rfl
  unfold failUnit enterFault
  split
  · rfl
  · exact (freezeImage_layout _).trans ((hready _).trans (setDeviceState_layout ..))

@[simp] theorem fencePage_layout (d : DieId) (a : Nat) : (fencePage s d a).layout = s.layout := by
  have hlog (t : State) (b : Bool) (p : Nat) : (logFence t d b.toNat p).layout = t.layout := rfl
  unfold fencePage
  extract_lets p m hbm tbl d0 s1
  have h1 : s1.layout = s.layout := State.modDie_layout s d fun m => by cases hbm <;> rfl
  refine ite_layout rfl (ite_layout ?_ ?_)
  · rw [failUnit_layout, hlog]
    exact State.modDie_layout s d fun _ => rfl
  · rw [raiseOn_layout, hlog, h1]

@[simp] theorem memUncorrectable_layout (d : DieId) (a : Nat) : (memUncorrectable s d a).layout = s.layout := raiseOn_layout ..

@[simp] theorem lastingError_layout (h : RegionHit) (a : Nat) (hard : Bool) : (lastingError s h a hard).layout = s.layout := by
  unfold lastingError
  dsimp only
  rw [State.when_layout _ _ _ (fencePage_layout ..), memUncorrectable_layout, State.bump_layout]
  split <;> rfl

@[simp] theorem takeUpset_layout (how : MemOutcome) : (takeUpset s how).2.layout = s.layout := by
  unfold takeUpset
  split <;> rfl

/-! ### Counts of bytes (07 R157, 08 Table 8.11) -/

@[simp] theorem countBytes_layout (kind unit n : Nat) : (countBytes s kind unit n).layout = s.layout := by
  unfold countBytes demandOverrun
  dsimp only
  split
  · rfl
  · split
    · rfl
    · split
      · rw [raise_layout]
        rfl
      · rfl

@[simp] theorem countAt_layout (d : DieId) (a m : Nat) (write : Bool) : (countAt s d a m write).layout = s.layout := by
  unfold countAt countPath
  dsimp only
  split
  · rfl
  · cases write <;> simp

@[simp] theorem countMove_layout (d : DieId) (a n : Nat) (write : Bool) : (countMove s d a n write).layout = s.layout :=
  countAt_layout ..

/-! ### The cache (08 R167 to R173) -/

@[simp] theorem cacheAccess_layout (d : DieId) (o n : Nat) (hint : Hint) (write byteRegion : Bool) :
    (cacheAccess s d o n hint write byteRegion).layout = s.layout := layout_of_withoutCaches (cacheAccess_withoutCaches ..)

@[simp] theorem readFrames_layout (d : DieId) (o n : Nat) : (readFrames s d o n).2.layout = s.layout :=
  layout_of_withoutCaches (readFrames_withoutCaches ..)

@[simp] theorem writeFrames_layout (d : DieId) (o : Nat) (bs : List Byte) : (writeFrames s d o bs).layout = s.layout :=
  layout_of_withoutCaches (writeFrames_withoutCaches ..)

@[simp] theorem rePair_layout (d : DieId) (o n : Nat) : (rePair s d o n).layout = s.layout :=
  layout_of_withoutCaches (rePair_withoutCaches ..)

@[simp] theorem dropFrames_layout (h : RegionHit) (a n : Nat) : (dropFrames s h a n).layout = s.layout :=
  layout_of_withoutCaches (dropFrames_withoutCaches ..)

@[simp] theorem storeByte_layout (h : RegionHit) (b : Nat) (v : Byte) : (storeByte s h b v).layout = s.layout :=
  layout_of_withoutCaches (storeByte_withoutCaches ..)

@[simp] theorem poisonByte_layout (a : Nat) : (poisonByte s a).layout = s.layout := (rfl)

/-! ### Memory (09 R194 to R203) -/

@[simp] theorem poisonPage_layout (t page : Nat) : (poisonPage s t page).layout = s.layout := (rfl)

@[simp] theorem poisonMem_layout (a n : Nat) (hint : Hint) : (poisonMem s a n hint).layout = s.layout := by
  unfold poisonMem
  split
  · rfl
  · dsimp only
    rw [State.when_layout _ _ _ (rePair_layout ..)]
    split
    · rw [State.each_layout]
      · simp
      · intro t b
        split <;> simp
    · rw [State.each_layout]
      · simp
      · intro t p
        split <;> simp

@[simp] theorem queueRewrite_layout (d : DieId) (a : Nat) : (queueRewrite s d a).layout = s.layout := by
  unfold queueRewrite
  extract_lets m q
  split
  · rfl
  · split
    · rfl
    · exact State.modDie_layout s d fun m => by cases isHbm a <;> rfl

@[simp] theorem loadPage_layout (h : RegionHit) (a n : Nat) (l : Load) (page : Nat) :
    (loadPage h a n l page).s.layout = l.s.layout := by
  unfold loadPage
  dsimp only
  split
  · rfl
  · split <;> simp

@[simp] theorem loadByte_layout (h : RegionHit) (a n : Nat) (l : Load) (b : Nat) :
    (loadByte h a n l b).s.layout = l.s.layout := by
  unfold loadByte
  dsimp only
  split
  · rfl
  · split <;> simp

@[simp] theorem overlay_layout (d : DieId) (a n : Nat) (l : Load) (p : Nat × Nat) :
    (overlay d a n l p).s.layout = l.s.layout := by
  unfold overlay
  dsimp only
  split
  · rfl
  · split <;> rfl

@[simp] theorem loadOutcome_layout (h : RegionHit) (a n : Nat) (how : MemOutcome) (l : Load) :
    (loadOutcome h a n how l).s.layout = l.s.layout := by
  cases how <;> simp [loadOutcome]

@[simp] theorem memLoad_layout (a n : Nat) (hint : Option Hint) (how : MemOutcome) :
    (memLoad s a n hint how).s.layout = s.layout := by
  unfold memLoad
  split
  · rfl
  · rename_i h _
    extract_lets s0 f l0 l1 l2 u
    have h0 : s0.layout = s.layout := by
      unfold s0
      split
      · rfl
      · split <;> simp
    have hf : f.2.layout = s0.layout := by
      unfold f
      split <;> simp
    have h1 : l1.s.layout = f.2.layout := by
      unfold l1
      split
      · exact foldl_keeps (fun l : Load => l.s.layout) _ _ l0 fun l b => loadByte_layout h a n l b
      · exact foldl_keeps (fun l : Load => l.s.layout) _ _ l0 fun l p => loadPage_layout h a n l p
    have h2 : l2.s.layout = l1.s.layout :=
      foldl_keeps (fun l : Load => l.s.layout) _ _ l1 fun l p => overlay_layout h.die a n l p
    exact (loadOutcome_layout ..).trans ((takeUpset_layout ..).trans (h2.trans (h1.trans (hf.trans h0))))

@[simp] theorem storePage_layout (h : RegionHit) (page : Nat) (bs : List Byte) : (storePage s h page bs).layout = s.layout := by
  unfold storePage
  split <;> rfl

@[simp] theorem storePart_layout (h : RegionHit) (page off : Nat) (bs : List Byte) :
    (storePart s h page off bs).layout = s.layout := by
  unfold storePart
  extract_lets s1 merge u lost s2
  have hu : u.2.layout = s.layout := takeUpset_layout ..
  have h2 : s2.layout = u.2.layout := State.when_layout _ _ _ (State.bump_layout ..)
  have hmerge (t : State) (old : List Byte) : (merge t old).layout = t.layout := storePage_layout ..
  have hlost (hard : Bool) : (lost hard).layout = u.2.layout := by simp [lost]
  split
  · rfl
  · split
    · exact (hlost _).trans hu
    · split
      · rw [hmerge, h2, hu]
      · rw [hmerge, State.bump_layout, h2, hu]
      · rw [hmerge, State.bump_layout, h2, hu]
      · rw [memUncorrectable_layout, State.bump_layout, h2, hu]
      · exact (hlost _).trans hu

@[simp] theorem storePageAt_layout (h : RegionHit) (a : Nat) (bs : List Byte) (page : Nat) :
    (storePageAt h a bs s page).layout = s.layout := by
  unfold storePageAt
  dsimp only
  split <;> simp

@[simp] theorem memStore_layout (a : Nat) (bs : List Byte) (hint : Option Hint) : (memStore s a bs hint).layout = s.layout := by
  unfold memStore
  split
  · rfl
  · rename_i h _
    extract_lets s0 sf s1
    have h0 : s0.layout = s.layout := by
      unfold s0
      split
      · rfl
      · split <;> simp
    have hf : sf.layout = s0.layout := by
      unfold sf
      split <;> simp
    have h1 : s1.layout = sf.layout := by
      unfold s1
      split
      · exact State.each_layout _ _ _ fun t p => storeByte_layout ..
      · exact foldl_keeps State.layout _ _ _ fun t p => storePageAt_layout ..
    split
    · rw [rePair_layout, h1, hf, h0]
    · rw [h1, hf, h0]

/-! ### Scratchpad (09 R196 to R203) -/

@[simp] theorem scratchLasting_layout (c : CoreId) (off : Nat) (hard : Bool) :
    (scratchLasting s c off hard).layout = s.layout := by
  unfold scratchLasting scratchUncorrectable
  dsimp only
  rw [State.when_layout _ _ _ rfl, raiseOn_layout]
  rfl

@[simp] theorem loadWord_layout (c : CoreId) (off n : Nat) (l : Load) (k : Nat) :
    (loadWord c off n l k).s.layout = l.s.layout := by
  unfold loadWord
  dsimp only
  split <;> simp

@[simp] theorem scratchLoad_layout (c : CoreId) (off n : Nat) (how : MemOutcome) :
    (scratchLoad s c off n how).s.layout = s.layout := by
  unfold scratchLoad
  extract_lets l u
  have hl : l.s.layout = s.layout := foldl_keeps (fun l : Load => l.s.layout) _ _ _ fun l k => loadWord_layout c off n l k
  have hu : u.2.layout = l.s.layout := takeUpset_layout ..
  split <;> simp [hl, hu]

@[simp] theorem scratchStore_layout (c : CoreId) (off : Nat) (bs : List Byte) :
    (scratchStore s c off bs).layout = s.layout := (rfl)

@[simp] theorem poisonScratch_layout (c : CoreId) (off n : Nat) : (poisonScratch s c off n).layout = s.layout :=
  State.each_layout s _ _ fun _ _ => rfl

/-! ### Movers (08 R175 to R180) -/

@[simp] theorem moverLoad_layout (c : CoreId) (g : Seg) (off n hint : Nat) (how : MemOutcome) :
    (moverLoad s c g off n hint how).s.layout = s.layout := by
  unfold moverLoad
  split <;> simp

@[simp] theorem moverStore_layout (c : CoreId) (g : Seg) (off : Nat) (bs : List Byte) (hint : Nat) :
    (moverStore s c g off bs hint).layout = s.layout := by
  unfold moverStore
  split <;> simp

@[simp] theorem moverPut_layout (c : CoreId) (g : Seg) (off : Nat) (bs : List Byte) (hint : Nat) :
    (moverPut s c g off bs hint).layout = s.layout := by
  unfold moverPut
  split <;> simp

@[simp] theorem moverPoison_layout (c : CoreId) (g : Seg) (off n hint : Nat) :
    (moverPoison s c g off n hint).layout = s.layout := by
  unfold moverPoison
  split
  · rfl
  · split <;> simp

@[simp] theorem poisonRuns_layout (c : CoreId) (g : Seg) (off n bad hint : Nat) :
    (poisonRuns s c g off n bad hint).layout = s.layout := by
  simp [poisonRuns]

end Layout
end Sys2Proof.Machine
end

section
/-!
Proofs: bytes written to a byte region of Stratus or HBM stand there: no changed word of a cache frame is written back over them
(08 R167, R173, 09 R190, R196, R197).
-/
namespace Sys2Proof.Machine

/-! ## Changed words of frames (09 R196) -/

/-- Does a die's cache hold cache word `i` otherwise than memory does. -/
def DieMem.Changed (m : DieMem) (i : Nat) : Prop := i ∈ m.cacheWord.map (·.1) ∨ i ∈ m.cacheDev.map (·.1)

theorem mem_keys_kvRange {α : Type} (m : Kv α) (lo n i : Nat) :
    i ∈ (kvRange m lo n).map (·.1) ↔ i ∈ m.map (·.1) ∧ lo ≤ i ∧ i < lo + n := by
  simp only [kvRange, List.mem_map, List.mem_filter, Bool.and_eq_true, decide_eq_true_eq]
  constructor
  · rintro ⟨p, ⟨hp, hrange⟩, rfl⟩
    exact ⟨⟨p, hp, rfl⟩, hrange⟩
  · rintro ⟨⟨p, hp, rfl⟩, hrange⟩
    exact ⟨p, ⟨hp, hrange⟩, rfl⟩

theorem mem_keys_kvClear {α : Type} (m : Kv α) (lo n i : Nat) :
    i ∈ (kvClear m lo n).map (·.1) ↔ i ∈ m.map (·.1) ∧ ¬(lo ≤ i ∧ i < lo + n) := by
  simp only [kvClear, List.mem_map, List.mem_filter, Bool.not_eq_true', Bool.and_eq_false_iff, decide_eq_false_iff_not]
  constructor
  · rintro ⟨p, ⟨hp, hrange⟩, rfl⟩
    exact ⟨⟨p, hp, rfl⟩, fun h => hrange.elim (· h.1) (· h.2)⟩
  · rintro ⟨⟨p, hp, rfl⟩, hrange⟩
    exact ⟨p, ⟨hp, by tauto⟩, rfl⟩

theorem mem_changedWords (m : DieMem) (k n i : Nat) : i ∈ changedWords m k n ↔ m.Changed i ∧ k ≤ i ∧ i < k + n := by
  simp only [changedWords, List.mem_append, List.mem_filter, Bool.not_eq_true', List.contains_eq_mem,
    decide_eq_false_iff_not, mem_keys_kvRange, DieMem.Changed]
  tauto

section Words
variable (s : State) (d : DieId)

theorem changed_clearWords (k n i : Nat) :
    ((clearWords s d k n).die d).Changed i ↔ (s.die d).Changed i ∧ ¬(k ≤ i ∧ i < k + n) := by
  simp only [clearWords, State.die_modDie_same, DieMem.Changed, mem_keys_kvClear]
  tauto

/-- Words cleared one after another are changed no more, and no other word has become so. -/
theorem changed_each_clearWords (ks : List Nat) (i : Nat) :
    ((s.each ks fun t k => clearWords t d k 1).die d).Changed i ↔ (s.die d).Changed i ∧ i ∉ ks := by
  unfold State.each
  induction ks generalizing s with
  | nil => simp
  | cons k ks ih =>
    rw [List.foldl_cons, ih, changed_clearWords, List.mem_cons, not_or]
    have hone : ¬(k ≤ i ∧ i < k + 1) ↔ i ≠ k := by omega
    rw [hone, and_assoc]

/-- Whole words written leave none of them changed. -/
theorem not_changed_writeFrames {k n : Nat} {bs : List Byte} (hlen : bs.length = 4 * n) {i : Nat} (hi : k ≤ i ∧ i < k + n) :
    ¬ ((writeFrames s d (4 * k) bs).die d).Changed i := by
  have hne : bs.isEmpty = false := by
    rw [List.isEmpty_eq_false_iff, ← List.length_pos_iff]
    omega
  have hspan : (4 * k + bs.length - 1) / 4 - 4 * k / 4 + 1 = n := by omega
  have hwhole : writeFrames s d (4 * k) bs = s.each (changedWords (s.die d) k n) fun x j => clearWords x d j 1 := by
    rw [writeFrames, hne, hspan, Nat.mul_div_cancel_left k (by decide : 0 < 4)]
    refine List.foldl_ext _ _ _ fun x j hj => ?_
    have hcovered : 4 * k ≤ 4 * j ∧ 4 * j + 4 ≤ 4 * k + bs.length := by
      have hj' := ((mem_changedWords ..).mp hj).2
      omega
    simp [hcovered]
  rw [hwhole, changed_each_clearWords, mem_changedWords]
  tauto

end Words

/-! ## Bytes that stand in HBM -/

/-- The HBM bytes of cache words `[k, k + n)` are those of `v`, and no frame holds anything else for them. -/
structure Stands (d : DieId) (k n : Nat) (v : Nat → Byte) (s : State) : Prop where
  words : ∀ i, k ≤ i → i < k + n → ¬ (s.die d).Changed i
  bytes : ∀ b, addrOf d true (4 * k) ≤ b → b < addrOf d true (4 * k) + 4 * n → kvGet 0#8 s.mem b = v b

section Stands
variable {d : DieId} {k n : Nat} {v : Nat → Byte} {s : State}

theorem Stands.congr {t : State} (h : Stands d k n v s) (hdie : t.die d = s.die d) (hmem : t.mem = s.mem) :
    Stands d k n v t := ⟨by rw [hdie]; exact h.words, by rw [hmem]; exact h.bytes⟩

theorem Stands.bump (h : Stands d k n v s) (key : Nat) : Stands d k n v (s.bump key) := h.congr rfl rfl

theorem Stands.setObj (h : Stands d k n v s) (key x : Nat) : Stands d k n v (s.setObj key x) := h.congr rfl rfl

theorem Stands.raiseOn (h : Stands d k n v s) (d' : DieId) (l d0 d1 : Nat) : Stands d k n v (raiseOn s d' l d0 d1) :=
  have hevents := raise_withoutEvents s (512 * d'.val + l) d0 d1
  h.congr (congrArg (fun u : State => u.die d) hevents :) (congrArg State.mem hevents :)

theorem Stands.clearWords (h : Stands d k n v s) (j m : Nat) : Stands d k n v (clearWords s d j m) :=
  ⟨fun i hlo hhi hi => h.words i hlo hhi ((changed_clearWords ..).mp hi).1, h.bytes⟩

/-- A byte of another cache word lies elsewhere. -/
theorem addr_of_other_word {j b : Nat} (hj : ¬(k ≤ j ∧ j < k + n)) (hlo : addrOf d true (4 * k) ≤ b)
    (hhi : b < addrOf d true (4 * k) + 4 * n) : b < addrOf d true (4 * j) ∨ addrOf d true (4 * j) + 4 ≤ b := by
  simp only [addrOf, if_true] at *
  omega

/-- Poison over another word. -/
theorem Stands.poisonWord {j : Nat} (h : Stands d k n v s) (hj : ¬(k ≤ j ∧ j < k + n)) :
    Stands d k n v (s.each ((List.range 4).map (addrOf d true (4 * j) + ·)) poisonByte) := by
  refine List.foldlRecOn (motive := Stands d k n v) _ _ h fun t ht a ha => ⟨ht.words, fun b hlo hhi => ?_⟩
  obtain ⟨o, ho, rfl⟩ := List.mem_map.mp ha
  have hne : b ≠ addrOf d true (4 * j) + o := by
    have hout := addr_of_other_word hj hlo hhi
    rw [List.mem_range] at ho
    omega
  exact (kvGet_kvSet_ne 0#8 t.mem 0#8 hne).trans (ht.bytes b hlo hhi)

theorem Stands.loseWord {j : Nat} (h : Stands d k n v s) (hj : ¬(k ≤ j ∧ j < k + n)) (l : CacheLine) :
    Stands d k n v (loseWord s d l j) := (((h.poisonWord hj).clearWords j 1).bump _).raiseOn ..

/-- Another word written back. -/
theorem Stands.backWord {j : Nat} (h : Stands d k n v s) (hj : ¬(k ≤ j ∧ j < k + n)) (l : CacheLine) :
    Stands d k n v (backWord d l s j) := by
  have hput (t : State) (x : Nat) (ht : Stands d k n v t) : Stands d k n v { t with
      mem := memWrite t.mem (addrOf d true (4 * j)) (leBytes 4 x), byteDev := kvClear t.byteDev (addrOf d true (4 * j)) 4 } := by
    refine ⟨ht.words, fun b hlo hhi => ?_⟩
    have hout := addr_of_other_word hj hlo hhi
    rw [← ht.bytes b hlo hhi]
    exact kvGet_memWrite_out _ _ _ _ (by rw [leBytes_length]; exact hout)
  unfold Machine.backWord
  dsimp only
  split
  · exact hput s _ h
  · exact hput _ _ (h.bump _)
  · exact hput _ _ (h.bump _)
  · exact h.poisonWord hj
  · exact h.loseWord hj l

/-- A line settled writes back words that were changed, so none of those that stand. -/
theorem Stands.settleLine (h : Stands d k n v s) (l : CacheLine) : Stands d k n v (settleLine d s l) := by
  have hback : Stands d k n v (s.each (changedWords (s.die d) (64 * l.line) 64) (Machine.backWord d l)) := by
    refine List.foldlRecOn (motive := Stands d k n v) _ _ h fun t ht j hj => ht.backWord (fun hrange => ?_) l
    exact h.words j hrange.1 hrange.2 ((mem_changedWords ..).mp hj).1
  unfold Machine.settleLine
  dsimp only
  split
  · exact h
  · refine Stands.clearWords ?_ ..
    cases l.dirty with
    | false => exact h
    | true => exact hback

theorem mem_keys_foldl_kvClear {α β : Type} (l : List β) (lo : β → Nat) (n : Nat) (m : Kv α) {i : Nat}
    (hi : i ∈ (l.foldl (fun w x => kvClear w (lo x) n) m).map (·.1)) : i ∈ m.map (·.1) := by
  induction l generalizing m with
  | nil => exact hi
  | cons x l ih => exact ((mem_keys_kvClear ..).mp (ih _ hi)).1

theorem Stands.setCacheSet (h : Stands d k n v s) (line : Nat) (ls : List CacheLine) :
    Stands d k n v (setCacheSet s d line ls) := by
  unfold Machine.setCacheSet
  extract_lets key gone
  have hgone : Stands d k n v (s.each gone (Machine.settleLine d)) :=
    State.each_invariant gone (fun t l ht => ht.settleLine l) h
  refine ⟨fun i hlo hhi hi => hgone.words i hlo hhi ?_, hgone.bytes⟩
  rw [State.die_modDie_same] at hi
  exact hi.imp (mem_keys_foldl_kvClear ls _ 64 _) (mem_keys_foldl_kvClear ls _ 64 _)

theorem Stands.updatePairing (h : Stands d k n v s) (line : Nat) : Stands d k n v (updatePairing s d line) := by
  unfold Machine.updatePairing
  extract_lets ls
  split
  · extract_lets pair
    split
    · exact h
    · split
      · exact (h.setCacheSet ..).bump _
      · exact (h.setCacheSet ..).setObj ..
  · exact h

theorem Stands.rePair (h : Stands d k n v s) (o m : Nat) : Stands d k n v (rePair s d o m) := by
  unfold Machine.rePair
  split
  · exact h
  · exact State.each_invariant _ (fun t line ht => ht.updatePairing line) h

end Stands

/-! ## Bytes of a byte region (09 R197) -/

/-- Bytes written one by one, on no fenced page, stand in memory, and the dies' memory systems are as before. -/
theorem each_storeByte (h : RegionHit) (a n : Nat) (bs : List Byte) (s : State)
    (hopen : ∀ b, a + n ≤ b → b < a + n + bs.length → isFenced s h.die b = false) :
    let t := s.each (bs.zipIdx n) fun x p => storeByte x h (a + p.2) p.1
    t.mem = memWrite s.mem (a + n) bs ∧ t.dies = s.dies := by
  unfold State.each
  induction bs generalizing s n with
  | nil => exact ⟨rfl, rfl⟩
  | cons b bs ih =>
    rw [List.length_cons] at hopen
    have hstore : storeByte s h (a + n) b = { s with mem := memSet s.mem (a + n) b, byteDev := kvSet 0 s.byteDev (a + n) 0 } := by
      simp [storeByte, hopen (a + n) (by omega) (by omega)]
    rw [List.zipIdx_cons, List.foldl_cons, hstore]
    exact ih (n + 1) _ fun x hlo hhi => hopen x (by omega) (by omega)

theorem memRead_eq_iff (m : List Host.Cell) (a : Nat) (bs : List Byte) :
    memRead m a bs.length = bs ↔ ∀ b, a ≤ b → b < a + bs.length → kvGet 0#8 m b = bs.getD (b - a) 0#8 := by
  constructor
  · intro h b hlo hhi
    rw [← h]
    have hb : b - a < bs.length := by omega
    simp [memRead, List.getD_eq_getElem?_getD, hb, Nat.add_sub_cancel' hlo]
  · intro h
    refine List.ext_getElem (by simp [memRead]) fun i hi hi' => ?_
    simp only [memRead, List.getElem_map, List.getElem_range]
    rw [h (a + i) (by omega) (by omega), Nat.add_sub_cancel_left]
    exact (List.getElem_eq_getD 0#8).symm

theorem home_of_regionOf {s : State} {a : Nat} {h : RegionHit} (hregion : regionOf s a = some h) :
    homeDie a = some h.die ∧ h.hbm = isHbm a := by
  unfold regionOf at hregion
  split at hregion
  · cases hregion
  · rename_i d hhome
    dsimp only at hregion
    split at hregion
    · cases hregion
    · cases hregion
      exact ⟨hhome, rfl⟩

/-- An address in HBM is its die's at its offset. -/
theorem addrOf_dieOffset {a : Nat} {d : DieId} (hhome : homeDie a = some d) (hhbm : isHbm a = true) :
    addrOf d true (dieOffset a) = a := by
  have hlow : 0x010000000000 ≤ a := by simpa [isHbm] using hhbm
  unfold homeDie at hhome
  rw [if_neg (by omega)] at hhome
  split at hhome
  · rename_i hrange
    cases hhome
    simp only [Bool.and_eq_true, decide_eq_true_eq] at hrange
    rw [dieOffset, if_pos hhbm, addrOf, if_pos rfl]
    change 0x010000000000 + a / 2 ^ 36 % 8 * 2 ^ 36 + a % 2 ^ 36 = a
    omega
  · cases hhome

/-- Whole words written to unfenced bytes of a byte region read back as they were written. -/
theorem memRead_memStore {s : State} {a : Nat} {h : RegionHit} {bs : List Byte} (hint : Option Hint) {n : Nat}
    (hregion : regionOf s a = some h) (hbyte : h.isByte = true) (halign : a % 4 = 0) (hlen : bs.length = 4 * n)
    (hopen : ∀ b, a ≤ b → b < a + bs.length → isFenced (memStore s a bs hint) h.die b = false) :
    memRead (memStore s a bs hint).mem a bs.length = bs := by
  obtain ⟨hhome, hhbm⟩ := home_of_regionOf hregion
  have hstore : ∃ sf, (h.hbm = true → ∃ s0, sf = writeFrames s0 h.die (dieOffset a) bs) ∧ memStore s a bs hint =
      let s1 := sf.each bs.zipIdx fun x p => storeByte x h (a + p.2) p.1
      if h.hbm && hint.isSome then rePair s1 h.die (dieOffset a) bs.length else s1 := by
    simp only [memStore, hregion, hbyte, if_true]
    exact ⟨_, fun hh => ⟨_, by rw [if_pos hh]⟩, rfl⟩
  obtain ⟨sf, hframes, hstore⟩ := hstore
  have hkept : (memStore s a bs hint).withoutCaches = sf.withoutCaches := by
    rw [hstore]
    dsimp only
    split <;> simp
  obtain ⟨hmem, hdies⟩ := each_storeByte h a 0 bs sf fun b hlo hhi => by
    rw [← isFenced_of_withoutCaches hkept]
    exact hopen b hlo hhi
  have hread : memRead (sf.each bs.zipIdx fun x p => storeByte x h (a + p.2) p.1).mem a bs.length = bs := by
    rw [hmem]
    exact memRead_memWrite ..
  rw [hstore]
  dsimp only
  split
  · rename_i hpair
    rw [Bool.and_eq_true] at hpair
    obtain ⟨s0, rfl⟩ := hframes hpair.1
    have haddr : addrOf h.die true (dieOffset a) = a := addrOf_dieOffset hhome (hhbm ▸ hpair.1)
    obtain ⟨k, hk⟩ : ∃ k, dieOffset a = 4 * k := ⟨dieOffset a / 4, by simp only [addrOf, if_true] at haddr; omega⟩
    rw [hk] at hdies haddr hread ⊢
    have hstands : Stands h.die k n (fun b => bs.getD (b - a) 0#8)
        ((writeFrames s0 h.die (4 * k) bs).each bs.zipIdx fun x p => storeByte x h (a + p.2) p.1) := by
      refine ⟨fun i hlo hhi => ?_, ?_⟩
      · rw [State.die, hdies]
        exact not_changed_writeFrames s0 h.die hlen ⟨hlo, hhi⟩
      · rw [haddr, ← hlen]
        exact (memRead_eq_iff ..).mp hread
    rw [memRead_eq_iff]
    have hbytes := (hstands.rePair (4 * k) bs.length).bytes
    rwa [haddr, ← hlen] at hbytes
  · exact hread

end Sys2Proof.Machine
end

section
/-!
Proofs: streams through ring buffers (08 R183 to R186): what their moves leave in place, the codes of their segments, and the
header's counts.
-/
namespace Sys2Proof.Machine

theorem exec_streamIn (c : CoreId) (ch : Fin 4) (s : State) : exec (.streamIn c ch) s = .next (streamHead s c ch 1 none) := rfl

theorem exec_streamOut (c : CoreId) (ch : Fin 4) (s : State) : exec (.streamOut c ch) s = .next (streamHead s c ch 2 none) := rfl

/-! ## What the moves of a stream leave in place -/

section Layout
variable (s : State) (c : CoreId) (x : Xfer)

@[simp] theorem loadPieces_layout (g : Seg) (hint : Nat) (how : MemOutcome) (ps : List (Nat × Nat)) :
    (loadPieces c g hint how s ps).s.layout = s.layout :=
  foldl_keeps (fun l : Load => l.s.layout) _ _ _ fun l p => moverLoad_layout l.s c g p.1 p.2 hint how

@[simp] theorem readZrRow_layout (how : MemOutcome) (i : Nat) : (readZrRow s c x how i).s.layout = s.layout :=
  moverLoad_layout ..

theorem readPiece_layout (ring : Option RingView) (how : MemOutcome) (held : Option (Nat × Row)) (i b0 b1 : Nat) :
    (readPiece s c x ring how held i b0 b1).1.s.layout = s.layout := by
  unfold readPiece
  dsimp only
  split
  · rfl
  · split
    · exact loadPieces_layout ..
    · split
      · exact moverLoad_layout ..
      · split
        · rfl
        · dsimp only
          split
          · exact readZrRow_layout ..
          · exact readZrRow_layout ..

theorem writeZrRow_layout (i : Nat) (raw : List Byte) (bad : Bool) : (writeZrRow s c x i raw bad).1.layout = s.layout := by
  simp [writeZrRow]

theorem writePiece_layout (ring : Option RingView) (i b0 : Nat) (bs : List Byte) (bad : Nat) :
    (writePiece s c x ring i b0 bs bad).1.layout = s.layout := by
  unfold writePiece
  cases ring with
  | some r => exact foldl_keeps (fun acc : State × Nat => acc.1.layout) _ _ _ fun acc p => by simp
  | none => simp

theorem poisonPieces_layout (ring : Option RingView) (ps : List (Nat × Nat × Nat)) :
    (poisonPieces s c x ring ps).layout = s.layout := by
  refine State.each_layout s _ _ fun t p => ?_
  cases ring with
  | some r => exact State.each_layout t _ _ fun u q => moverPoison_layout ..
  | none => exact ite_layout (moverPoison_layout ..) (moverPoison_layout ..)

theorem movePiece_layout (ringIn ringOut : Option RingView) (how : MemOutcome) (o : SegOut) (p : Nat × Nat × Nat) :
    (movePiece c x ringIn ringOut how o p).s.layout = o.s.layout := by
  have hread := readPiece_layout o.s c x ringIn how o.row p.1 p.2.1 p.2.2
  unfold movePiece
  dsimp only
  split
  · rfl
  · split
    · exact hread
    · split
      · exact (writePiece_layout ..).trans hread
      · split
        · exact hread
        · exact (writeZrRow_layout ..).trans hread

theorem movePieces_layout (ringIn ringOut : Option RingView) (how : MemOutcome) (o : SegOut) (ps : List (Nat × Nat × Nat)) :
    (movePieces c x ringIn ringOut how o ps).s.layout = o.s.layout :=
  foldl_keeps (fun o : SegOut => o.s.layout) _ _ _ fun o p => movePiece_layout c x ringIn ringOut _ o p.1

theorem countUnmoved_layout (v : StreamRun) (p : Nat × Nat × Nat) : (countUnmoved c x v s p).layout = s.layout := by
  have hput (g : Seg) (off m : Nat) (write : Bool) (t : State) :
      (if g.kind = 1 then t else countMove t (dieOf c) (g.base + off) m write).layout = t.layout :=
    ite_layout rfl (countMove_layout ..)
  unfold countUnmoved
  dsimp only
  split
  · rw [State.when_layout _ _ _ (hput ..)]
    exact State.each_layout s _ _ fun u q => hput ..
  · exact (State.each_layout _ _ _ fun u q => hput ..).trans (hput ..)
  · rfl

theorem poisonRing_layout (r : RingView) : (poisonRing s c x r).layout = s.layout :=
  ite_layout rfl (State.each_layout s _ _ fun _ _ => moverPoison_layout ..)

theorem streamSegment_layout (v : StreamRun) (acc : State × List (Nat × Nat)) (seg : Nat) :
    (streamSegment c x v acc seg).1.layout = acc.1.layout := by
  unfold streamSegment
  extract_lets live rest u o s1 code s2 o2
  have hu : u.2.layout = acc.1.layout := by
    unfold u
    split
    · rfl
    · exact takeUpset_layout ..
  have ho : o.s.layout = u.2.layout := movePieces_layout ..
  have h1 : s1.layout = o.s.layout :=
    (State.each_layout _ _ _ fun t p => countUnmoved_layout t c x v p).trans (State.when_layout _ _ _ (State.bump_layout ..))
  have h2 : s2.layout = s1.layout := State.when_layout _ _ _ (State.bump_layout ..)
  have ho2 : o2.s.layout = s2.layout := movePieces_layout ..
  split
  · exact (poisonPieces_layout ..).trans (h1.trans (ho.trans hu))
  · exact ho2.trans (h2.trans (h1.trans (ho.trans hu)))

theorem streamStep_layout (v : StreamRun) (limit : Nat) (acc : State × List (Nat × Nat)) (seg : Nat) :
    (streamStep c x v limit acc seg).1.layout = acc.1.layout := by
  unfold streamStep
  split
  · exact poisonPieces_layout ..
  · exact streamSegment_layout ..

theorem streamSegments_layout (v : StreamRun) : (streamSegments s c x v none).1.layout = s.layout :=
  foldl_keeps (fun acc : State × List (Nat × Nat) => acc.1.layout) _ _ _ fun acc seg => streamStep_layout c x v 0 acc seg

end Layout

/-! ## The codes of a stream's segments (08 R179, R185) -/

section Codes
variable {c : CoreId} {x : Xfer}

/-- Moving a piece keeps the code good or poisoned, or fails. -/
theorem movePiece_code (ringIn ringOut : Option RingView) (how : MemOutcome) {o : SegOut} (h : o.code ≤ 2)
    (p : Nat × Nat × Nat) : (movePiece c x ringIn ringOut how o p).code ≤ 2 := by
  have hbad (b : Prop) [Decidable b] : (if b then o.code else 1) ≤ 2 := by
    split <;> omega
  unfold movePiece
  dsimp only
  split
  · exact h
  · split
    · exact Nat.le_refl 2
    · split
      · exact hbad _
      · split
        · exact hbad _
        · dsimp only
          split
          · exact hbad _
          · exact Nat.le_succ 1

theorem movePieces_code (ringIn ringOut : Option RingView) (how : MemOutcome) {o : SegOut} (h : o.code ≤ 2)
    (ps : List (Nat × Nat × Nat)) : (movePieces c x ringIn ringOut how o ps).code ≤ 2 :=
  List.foldlRecOn (motive := fun o : SegOut => o.code ≤ 2) _ _ h fun _ ho p _ => movePiece_code ringIn ringOut _ ho p.1

/-- The code of segment `seg` of a stream that delivers `rows` rows, unless a segment has failed: none or poisoned where it is
delivered, SHORT or PADDED where it is not. -/
def StreamEnds (x : Xfer) (rows seg code : Nat) : Prop := code = 2 ∨ code = 4 ∨ ∃ e, e ≤ 1 ∧ code = streamCode x rows seg e

theorem streamSegment_codes (v : StreamRun) (acc : State × List (Nat × Nat)) (seg : Nat) : ∃ p : Nat × Nat,
    (streamSegment c x v acc seg).2 = acc.2 ++ [p] ∧ StreamEnds x v.rows seg p.1 := by
  unfold streamSegment
  extract_lets live rest u o s1 code s2 o2
  have ho : o.code ≤ 2 := movePieces_code _ _ _ (Nat.zero_le 2) _
  split
  · exact ⟨_, rfl, .inl rfl⟩
  · exact ⟨_, rfl, .inr (.inr ⟨o.code, by omega, rfl⟩)⟩

theorem streamStep_codes (v : StreamRun) (limit : Nat) (acc : State × List (Nat × Nat)) (seg : Nat) : ∃ p : Nat × Nat,
    (streamStep c x v limit acc seg).2 = acc.2 ++ [p] ∧ StreamEnds x v.rows seg p.1 := by
  unfold streamStep
  split
  · exact ⟨_, rfl, .inr (.inl rfl)⟩
  · exact streamSegment_codes ..

/-- A stream ends its segments one after another. -/
theorem streamSegments_codes (s : State) (v : StreamRun) : (streamSegments s c x v none).2.length = x.segments ∧
    ∀ seg, seg < x.segments → ∃ p, (streamSegments s c x v none).2[seg]? = some p ∧ StreamEnds x v.rows seg p.1 := by
  unfold streamSegments
  dsimp only
  induction x.segments with
  | zero => exact ⟨rfl, fun seg h => absurd h (Nat.not_lt_zero seg)⟩
  | succ n ih =>
    obtain ⟨hlen, hcodes⟩ := ih
    obtain ⟨p, hp, hends⟩ := streamStep_codes v 0 ((List.range n).foldl (streamStep c x v 0) (s, [])) n
    rw [List.range_succ, List.foldl_append, List.foldl_cons, List.foldl_nil, hp]
    refine ⟨by rw [List.length_append, hlen]; rfl, fun seg hseg => ?_⟩
    obtain hlt | rfl := Nat.lt_succ_iff_lt_or_eq.mp hseg
    · obtain ⟨q, hq, hends'⟩ := hcodes seg hlt
      exact ⟨q, by rw [List.getElem?_append_left (by omega), hq], hends'⟩
    · exact ⟨p, by rw [List.getElem?_append_right (by omega), hlen, Nat.sub_self]; rfl, hends⟩

end Codes
end Sys2Proof.Machine
end

section
/-!
Proofs: a stream at the head of a channel: its header's region, the ring it finds there, and the counts it advances (08 R183 to
R186, 09 R190, R191).
-/
namespace Sys2Proof.Machine

/-! ## The 64 bytes of a header lie in one region (08 R160, R183, 09 R191) -/

section Aligned
variable {a j : Nat} (halign : a % 64 = 0) (hj : j < 64)
include halign hj

theorem homeDie_add : homeDie (a + j) = homeDie a := by
  have h33 : (a + j) / 2 ^ 33 = a / 2 ^ 33 := by omega
  have h36 : (a + j) / 2 ^ 36 = a / 2 ^ 36 := by omega
  have hlow : a + j < 0x001000000000 ↔ a < 0x001000000000 := by omega
  have hhbm : (0x010000000000 ≤ a + j ∧ a + j < 0x018000000000) ↔ (0x010000000000 ≤ a ∧ a < 0x018000000000) := by omega
  simp only [homeDie, h33, h36, hlow, Bool.and_eq_true, decide_eq_true_eq, hhbm]

theorem isHbm_add : isHbm (a + j) = isHbm a := by
  have h : 0x010000000000 ≤ a + j ↔ 0x010000000000 ≤ a := by omega
  simp only [isHbm, h]

theorem dieOffset_add : dieOffset (a + j) = dieOffset a + j ∧ dieOffset a % 64 = 0 := by
  simp only [dieOffset, isHbm_add halign hj]
  split <;> omega

/-- Regions and their data areas begin and end at multiples of 64 bytes. -/
theorem regionOf_add (s : State) : regionOf s (a + j) = regionOf s a := by
  obtain ⟨hoff, hoffAlign⟩ := dieOffset_add halign hj
  have hbase (r : BitVec 64) : regBase r % 64 = 0 := by
    rw [regBase]
    omega
  have hdata (r : BitVec 64) : regData r % 64 = 0 := by
    rw [regData]
    split <;> omega
  have hcover (r : BitVec 64) : (regBase r ≤ dieOffset a + j ↔ regBase r ≤ dieOffset a) ∧
      (dieOffset a + j < regBase r + regData r ↔ dieOffset a < regBase r + regData r) := by
    have hb := hbase r
    have hd := hdata r
    constructor <;> omega
  simp only [regionOf, homeDie_add halign hj, isHbm_add halign hj, hoff, hcover]

end Aligned

theorem header_of_ringValid {s : State} {c : CoreId} {ch off dir : Nat} {g : Seg} {r : RingView}
    (h : ringValid s c ch g off dir r = true) :
    (g.base + off) % 64 = 0 ∧ ∃ hit, regionOf s (g.base + off) = some hit ∧ hit.isByte = true := by
  simp only [ringValid, Bool.and_eq_true] at h
  obtain ⟨⟨⟨⟨⟨hmatches, hbyte⟩, -⟩, -⟩, -⟩, -⟩ := h
  constructor
  · unfold ringMatches at hmatches
    split at hmatches
    · cases hmatches
    · obtain ⟨v, -, hv⟩ := List.any_eq_true.mp hmatches
      simp only [Bool.and_eq_true, beq_iff_eq, fld, pow_zero, Nat.div_one] at hv
      obtain ⟨⟨⟨⟨-, haddr⟩, hlow⟩, -⟩, -⟩ := hv
      omega
  · unfold inByteRegion at hbyte
    split at hbyte
    · rename_i hit hregion
      exact ⟨hit, hregion, hbyte⟩
    · cases hbyte

theorem dmaHalted_withoutEvents (s : State) (c : CoreId) (ch pc first : Nat) :
    (dmaHalted s c ch pc first).withoutEvents = s.withoutEvents := raise_withoutEvents ..

/-- A count of the header, written where its region takes bytes and its page is not fenced. -/
theorem memRead_advanceRing {s : State} {g : Seg} {off : Nat} {hit : RegionHit} (v hint : Nat)
    (hregion : regionOf s (g.base + off) = some hit) (hbyte : hit.isByte = true) (halign : (g.base + off) % 4 = 0)
    (hopen : ∀ b, g.base + off ≤ b → b < g.base + off + 8 → isFenced (advanceRing s g off v hint) hit.die b = false) :
    memRead (advanceRing s g off v hint).mem (g.base + off) 8 = leBytes 8 v := by
  have hlen : (leBytes 8 v).length = 8 := leBytes_length 8 v
  have hread := memRead_memStore (bs := leBytes 8 v) (some (hintOf hint)) (n := 2) hregion hbyte halign hlen
  rw [hlen] at hread
  exact hread hopen

/-! ## The stream runs (08 R183 to R186) -/

/-- What a stream of a direction finds at its ring's header: its segment and offset, the read of its 64 bytes, and the ring. -/
structure FindsRing (s : State) (c : CoreId) (x : Xfer) (inb : Bool) (g : Seg) (off : Nat) (l : Load) (r : RingView) : Prop where
  mode : x.mode = if inb then 1 else 2
  place : g = placeOf s (if inb then x.srcSeg else x.dstSeg)
  offset : off = if inb then x.srcOff else x.dstOff
  load : l = moverLoad s c g off 64 x.hint .good
  ring : r = ringView l.bytes

/-- The rings of a stream of a direction, and the rows it delivers. -/
def streamRun (x : Xfer) (inb : Bool) (r : RingView) : StreamRun :=
  ⟨if inb then some r else none, if inb then none else some r, streamRows x r⟩

/-- The header with the count of a stream of a direction moved past the rows delivered. -/
def advanceCount (s : State) (x : Xfer) (inb : Bool) (g : Seg) (off : Nat) (r : RingView) : State :=
  advanceRing s g (off + if inb then 8 else 0) ((if inb then r.consumed else r.produced) + streamRows x r * x.rowBytes) x.hint

/-- What a stream does once its header is advanced: the row-mask record, the count of streams that end short, the codes at the
head of the channel, and DMA_HALTED after a failure. -/
def endStream (s : State) (c : CoreId) (ch : Nat) (i : QInst) (x : Xfer) (rows : Nat) (codes : List (Nat × Nat)) : State :=
  let s2 := if x.mask then moverPut s c (placeOf s x.auxSeg) x.auxOff (maskRecord rows) x.hint else s
  let s3 := s2.when (endedShort codes) fun t => t.bump 0x64000C
  let s4 := setHead s3 c (3 + ch) { i with done := x.segments, codes := codes }
  match indexOf? (fun p => p.1 == 2 || p.1 == 3) codes with
  | some b => dmaHalted s4 c ch i.pc b
  | none => s4

section Stream
variable {s : State} {c : CoreId} {ch : Nat} {i : QInst} {rest : List QInst} {x : Xfer} {inb : Bool} {g : Seg} {off : Nat}
  {l : Load} {r : RingView}

theorem streamHead_of_ready (hhead : HeadOf s c (3 + ch) i rest) (hxfer : xferOf i.op = some x) (hdone : i.done = 0)
    (hbulk : (x.isBulk s && i.bulk.isNone) = false) (hgate : bankGate (s.core c) 4 i.seq (xferBanks s x) = .pass) :
    streamHead s c ch x.mode none = runStream s c ch i x none := by
  simp only [streamHead, hhead.1, hxfer, hdone, hhead.2, hbulk, hgate, bne_self_eq_false, Bool.not_true, Bool.or_self,
    Bool.false_eq_true, if_false]

theorem FindsRing.inbound (h : FindsRing s c x inb g off l r) : (x.mode == 1) = inb := by
  rw [h.mode]
  cases inb <;> rfl

theorem FindsRing.layout (h : FindsRing s c x inb g off l r) : l.s.layout = s.layout := by
  rw [h.load]
  exact moverLoad_layout ..

/-- A ring that is poisoned or not valid delivers nothing; a valid one has its segments run and its count advanced. -/
theorem FindsRing.runStream_eq (h : FindsRing s c x inb g off l r) : runStream s c ch i x none =
    if l.bad != 0 || !ringValid l.s c ch g off (if inb then 0 else 1) r then ringInvalid l.s c ch i x r
    else
      let o := streamSegments l.s c x (streamRun x inb r) none
      endStream (advanceCount o.1 x inb g off r) c ch i x (streamRows x r) o.2 := by
  have hinb := h.inbound
  obtain ⟨-, rfl, rfl, rfl, rfl⟩ := h
  unfold runStream
  rw [hinb]
  cases inb with
  | false => rfl
  | true => rfl

/-- What the end of a stream's run leaves: the codes at the head of the channel, and without a row-mask record memory and the
dies' memory systems as they were. -/
theorem endStream_spec (hqueue : (s.core c).queue (3 + ch) = i :: rest) (rows : Nat) (codes : List (Nat × Nat)) :
    ((endStream s c ch i x rows codes).core c).queue (3 + ch) = { i with done := x.segments, codes := codes } :: rest ∧
      (x.mask = false → (endStream s c ch i x rows codes).mem = s.mem ∧ (endStream s c ch i x rows codes).dies = s.dies) := by
  unfold endStream
  extract_lets s2 s3 s4
  have h3 : s3.layout = s.layout :=
    (State.when_layout _ _ _ (State.bump_layout ..)).trans (ite_layout (moverPut_layout ..) rfl)
  have h4 : s4 = s3.modCore c fun y => y.setQueue (3 + ch) ({ i with done := x.segments, codes := codes } :: rest) :=
    setHead_of_cons s3 c ((queue_of_layout h3 c _).trans hqueue) _
  have hframe : x.mask = false → s4.mem = s.mem ∧ s4.dies = s.dies := by
    intro hmask
    have h2 : s2 = s := by simp [s2, hmask]
    rw [h4, State.modCore_mem, State.modCore_dies, ← h2]
    exact ⟨State.when_keeps s2 State.mem _ _ rfl, State.when_keeps s2 State.dies _ _ rfl⟩
  have hhead : (s4.core c).queue (3 + ch) = { i with done := x.segments, codes := codes } :: rest := by
    rw [h4, State.core_modCore_same, queue_setQueue_same]
  split
  · rename_i b _
    have hevents := dmaHalted_withoutEvents s4 c ch i.pc b
    rw [dmaHalted_core]
    exact ⟨hhead, fun hmask => ⟨(congrArg State.mem hevents :).trans (hframe hmask).1,
      (congrArg State.dies hevents :).trans (hframe hmask).2⟩⟩
  · exact ⟨hhead, hframe⟩

/-- The count that a stream advances stands in the header of a valid ring. -/
theorem memRead_advanceCount {t u : State} (hvalid : ringValid t c ch g off (if inb then 0 else 1) r = true)
    (hlayout : u.layout = t.layout) (hopen : ∀ d, homeDie (g.base + off) = some d → ∀ b, g.base + off ≤ b →
      b < g.base + off + 64 → isFenced (advanceCount u x inb g off r) d b = false) :
    memRead (advanceCount u x inb g off r).mem (g.base + off + if inb then 8 else 0) 8 =
      leBytes 8 ((if inb then r.consumed else r.produced) + streamRows x r * x.rowBytes) := by
  obtain ⟨halign, hit, hregion, hbyte⟩ := header_of_ringValid hvalid
  have hcount : (if inb then 8 else 0) < 64 ∧ (if inb then 8 else 0) % 4 = 0 ∧ (if inb then 8 else 0) + 8 ≤ 64 := by
    cases inb <;> decide
  unfold advanceCount at hopen ⊢
  generalize (if inb then 8 else 0) = j at hcount hopen ⊢
  obtain ⟨hj, hjalign, hfit⟩ := hcount
  have hregion' : regionOf u (g.base + (off + j)) = some hit := by
    rw [regionOf_of_layout hlayout, ← Nat.add_assoc, regionOf_add halign hj, hregion]
  rw [Nat.add_assoc]
  exact memRead_advanceRing _ _ hregion' hbyte (by omega) fun b hlo hhi =>
    hopen hit.die (home_of_regionOf hregion).1 b (by omega) (by omega)

theorem ringInvalid_queue (hqueue : (s.core c).queue (3 + ch) = i :: rest) :
    ((ringInvalid s c ch i x r).core c).queue (3 + ch) =
      { i with done := x.segments, codes := List.replicate x.segments (4, 0), accepted := true } :: rest := by
  unfold ringInvalid
  extract_lets s1
  have h1 : s1.layout = s.layout :=
    ite_layout (poisonRing_layout ..) (State.each_layout s _ _ fun t k => poisonPieces_layout ..)
  rw [setHead_of_cons _ c ((queue_of_layout (t := s1.bump 0x64000D) h1 c _).trans hqueue), State.core_modCore_same,
    queue_setQueue_same]

/-- A segment that ends without a failure has the code that its rows give it. -/
theorem StreamEnds.code {rows seg code : Nat} (h : StreamEnds x rows seg code) (hfail : code ≠ 2 ∧ code ≠ 4) :
    if min x.total ((seg + 1) * x.segBytes) ≤ rows * x.rowBytes then code ≤ 1 else code = if x.pad then 6 else 5 := by
  obtain h2 | h4 | ⟨e, he, rfl⟩ := h
  · exact absurd h2 hfail.1
  · exact absurd h4 hfail.2
  · unfold streamCode
    split
    · exact he
    · rfl

end Stream

/-- Settles O21: no access of a stream moves a queue or a region, every segment gets one code, and what the header's count is
advanced to stands in its byte region. -/
theorem streamsDeliverWholeRows : Obligations.StreamsDeliverWholeRows := by
  intro c ch s i rest x inb g off l r k hhead hxfer hdone hbulk hgate hmode hg hoff hl hr hk
  have hring : FindsRing s c x inb g off l r := ⟨hmode, hg, hoff, hl, hr⟩
  have hrun := streamHead_of_ready hhead hxfer hdone hbulk hgate
  have hin : inb = true → exec (.streamIn c ch) s = .next (runStream s c ch i x none) := fun h => by
    rw [exec_streamIn, ← hrun, hmode, if_pos h]
  have hout : inb = false → exec (.streamOut c ch) s = .next (runStream s c ch i x none) := fun h => by
    rw [exec_streamOut, ← hrun, hmode, if_neg (by simp [h])]
  have heq := hring.runStream_eq (ch := ch) (i := i)
  have hqueue : (l.s.core c).queue (3 + ch.val) = i :: rest := (queue_of_layout hring.layout c _).trans hhead.1
  subst hk
  by_cases hvalid : l.bad = 0 ∧ ringValid l.s c ch g off (if inb then 0 else 1) r = true
  case neg =>
    rw [if_pos (by simpa [Decidable.not_and_iff_or_not, or_iff_not_imp_left] using hvalid)] at heq
    have hhead' := ringInvalid_queue (x := x) (r := r) hqueue
    rw [← heq] at hhead'
    exact ⟨_, _, hin, hout, hhead', rfl, rfl, List.length_replicate, fun _ => rfl, fun hgood hv => absurd ⟨hgood, hv⟩ hvalid⟩
  case pos =>
    rw [if_neg (by simp [hvalid])] at heq
    have hsegments := streamSegments_layout l.s c x (streamRun x inb r)
    obtain ⟨hlen, hcodes⟩ := streamSegments_codes (c := c) (x := x) l.s (streamRun x inb r)
    dsimp only at heq
    generalize streamSegments l.s c x (streamRun x inb r) none = o at heq hsegments hlen hcodes
    have hadvance : (advanceCount o.1 x inb g off r).layout = l.s.layout := (memStore_layout ..).trans hsegments
    obtain ⟨hhead', hframe⟩ := endStream_spec (x := x) ((queue_of_layout hadvance c _).trans hqueue) (streamRows x r) o.2
    rw [← heq] at hhead' hframe
    refine ⟨_, _, hin, hout, hhead', rfl, rfl, hlen, fun hbad => ?_, fun _ _ => ⟨fun hfail seg hseg => ?_, fun hmask hopen => ?_⟩⟩
    · rw [hvalid.1, hvalid.2] at hbad
      simp at hbad
    · obtain ⟨p, hp, hends⟩ := hcodes seg hseg
      exact ⟨p.1, p.2, hp, hends.code (hfail p (List.mem_of_getElem? hp))⟩
    · obtain ⟨hmem, hdies⟩ := hframe hmask
      rw [hmem]
      refine memRead_advanceCount hvalid.2 hsegments fun d hd b hlo hhi => ?_
      have hsame : isFenced (advanceCount o.1 x inb g off r) d b = isFenced (runStream s c ch i x none) d b := by
        simp only [isFenced, State.die, hdies]
      rw [hsame]
      exact hopen d hd b hlo hhi

end Sys2Proof.Machine
end

section
/-!
Proofs: the markers and waves that a follower takes (02 R25, 10 R224 to R229).
-/
namespace Sys2Proof.Machine

section Taken
variable (s : State)

/-! ## A frame that a port in service takes (10 R211, R213) -/

/-- The decoder of a port leaves its corrections in the port's own counter, and nothing else. -/
theorem noteFixed_eq_or (p : PortId) (n fixed : Nat) (bad : Bool) :
    noteFixed s p n fixed bad = s ∨ noteFixed s p n fixed bad = s.bumpBy (kPort p 1) fixed := by
  unfold noteFixed
  extract_lets x
  split
  · exact .inl rfl
  · cases fixed != 0
    · exact .inl rfl
    · exact .inr rfl

theorem noteFixed_tick (p : PortId) (n fixed : Nat) (bad : Bool) : (noteFixed s p n fixed bad).tick = s.tick := by
  obtain h | h := noteFixed_eq_or s p n fixed bad <;> rw [h]
  rfl

theorem noteFixed_port (p q : PortId) (n fixed : Nat) (bad : Bool) : (noteFixed s p n fixed bad).port q = s.port q := by
  obtain h | h := noteFixed_eq_or s p n fixed bad <;> rw [h]
  rfl

/-- The ports' counters stand behind every object of the tick network (10 Table 10.16). -/
theorem noteFixed_obj (p : PortId) (n fixed : Nat) (bad : Bool) {k : Nat} (hk : k < 0x660000) :
    (noteFixed s p n fixed bad).obj k = s.obj k := by
  obtain h | h := noteFixed_eq_or s p n fixed bad <;> rw [h]
  refine State.obj_bumpBy_ne s fixed ?_
  unfold kPort
  omega

/-- A frame that a port of the tick network takes: the port is in service with TICK_EN set, and the frame has the right type,
form and CRC in codewords that the FEC corrects. -/
structure TakesFrame (p : PortId) (type : Nat) (frame : List Byte) (fixed : Nat) : Prop where
  tickEn : (s.port p).tickEn = true
  carries : (s.port p).carries = true
  fec : fecFails (s.port p).fecNow frame.length fixed false = false
  crc : frameCrcOk frame = true
  type_eq : (frameHead frame).type = type
  form : frameFormOk frame = true

variable {s}

theorem takeFrameOf_taken {p : PortId} {type : Nat} {frame : List Byte} {fixed : Nat} (h : TakesFrame s p type frame fixed)
    (k : State → State) : takeFrameOf s p type frame fixed false k = k (noteFixed s p frame.length fixed false) := by
  simp [takeFrameOf, h.carries, h.fec, h.crc, h.type_eq, h.form]

/-! ## The first marker of the next tick (10 R224, R225) -/

/-- A marker taken has its effect behind the count of what the decoder corrected. -/
theorem exec_markerReceive_taken {p : PortId} {frame : List Byte} {fixed : Nat} (h : TakesFrame s p 3 frame fixed)
    (delays : List Nat) : exec (.markerReceive p frame ⟨fixed, false⟩ delays) s =
      .next (takeMarker (noteFixed s p frame.length fixed false) p (markerOf (framePayload frame)) delays) := by
  have hexec : exec (.markerReceive p frame ⟨fixed, false⟩ delays) s =
      execMarkerReceive p frame ⟨fixed, false⟩ delays s := rfl
  simp [hexec, execMarkerReceive, h.tickEn, takeFrameOf_taken h]

/-- A copy without a valid DELIVERED field is compared with nothing (10 R230). -/
theorem compareMarker_of_not_valid {m : Marker} (p : PortId) (h : m.valid = false) : compareMarker s p m = s := by
  unfold compareMarker
  split
  · rfl
  · simp [h]

/-- A follower takes the marker of the tick it expects as its first. -/
theorem takeMarker_next {p : PortId} {m : Marker} {t : Nat} (delays : List Nat) (hmode : s.obj kTickMode = modeFollower)
    (hseen : s.tick.seen = some t) (htick : m.tick = t + 1) (hvalid : m.valid = false) :
    takeMarker s p m delays = firstMarker s p m delays := by
  simp [takeMarker, hmode, hseen, htick, compareMarker_of_not_valid p hvalid, modeFollower, modeLocal]

/-- A marker in time is held behind the ticks that wait, and gives the base and the current period. -/
theorem firstMarker_tick {p : PortId} {m : Marker} (delays : List Nat)
    (helapsed : m.elapsed + (s.port p).d < 16 * s.obj 0x210005) (hhops : m.hops ≤ 4) :
    (firstMarker s p m delays).tick = { s.tick with
      markerBase := some m.base, period := m.period, seen := some m.tick, holds := s.tick.holds ++ [m.tick] } := by
  have hnear : ¬ 4 < m.hops := by omega
  have hsent := tick_of_program (sendMarkers_program s m.tick m.period (m.elapsed + (s.port p).d) (m.hops + 1) m.base
    m.origin delays)
  simp [firstMarker, helapsed, hnear, holdTick, State.modTick, State.setObj, hsent]

/-! ## A wave update within its window (10 R227, R229) -/

/-- A wave in the window of the tick counter is merged. -/
theorem exec_waveReceive_taken {p : PortId} {frame : List Byte} {fixed w : Nat} (h : TakesFrame s p 4 frame fixed)
    (hw : w = leAt (framePayload frame) 0 8) (hlow : s.tick.count ≤ w + s.latency) (hhigh : w ≤ s.tick.count + 1)
    (settle : Nat) : exec (.waveReceive p frame ⟨fixed, false⟩ settle) s =
      .next (takeWave (noteFixed s p frame.length fixed false) w
        ⟨leAt (framePayload frame) 8 8, leAt (framePayload frame) 0x10 128⟩ settle) := by
  have hexec : exec (.waveReceive p frame ⟨fixed, false⟩ settle) s =
      execWaveReceive p frame ⟨fixed, false⟩ settle s := rfl
  have hlatency : (noteFixed s p frame.length fixed false).latency = s.latency := noteFixed_obj s _ _ _ _ (by decide)
  simp [hexec, execWaveReceive, h.tickEn, takeFrameOf_taken h, noteFixed_tick, hlatency, ← hw, hlow, hhigh]

variable (s)

theorem stopRequest_tick (cause : Nat) : (stopRequest s cause).tick = s.tick := rfl

theorem wave_of_tick {s t : State} (h : t.tick = s.tick) (w : Nat) : t.wave w = s.wave w := by rw [State.wave, h, State.wave]

theorem setWave_wave (w : Nat) (v : Wave) : (setWave s w v).wave w = v := kvGet_kvSet_same ..

/-- An update leaves the tick network as it was when it adds no bit, and else with the joined wave in its place. -/
theorem takeWave_tick (w : Nat) (v : Wave) (settle : Nat) :
    (s.wave w).join v = s.wave w ∧ (takeWave s w v settle).tick = s.tick ∨
      (takeWave s w v settle).tick = (setWave s w ((s.wave w).join v)).tick := by
  unfold takeWave
  extract_lets old new s1 s2
  have h2 : s2.tick = (setWave s w new).tick := tick_of_program (sendWave_program ..)
  split
  next hsame => exact .inl ⟨hsame, rfl⟩
  next =>
    refine .inr ?_
    split
    · rw [stopRequest_tick, tick_of_program (raise_program ..), h2]
    · exact h2

theorem takeWave_wave (w : Nat) (v : Wave) (settle : Nat) : (takeWave s w v settle).wave w = (s.wave w).join v := by
  obtain ⟨hsame, htick⟩ | htick := takeWave_tick s w v settle
  · rw [hsame, wave_of_tick htick]
  · rw [wave_of_tick htick, setWave_wave]

theorem takeWave_count (w : Nat) (v : Wave) (settle : Nat) : (takeWave s w v settle).tick.count = s.tick.count := by
  obtain ⟨-, htick⟩ | htick := takeWave_tick s w v settle <;> rw [htick]
  rfl

end Taken

/-- Settles O28: the decoder's count of corrections hides nothing that a marker or a wave is tested against, and what a marker
or a wave then changes of the tick network is its hold and period, or the wave itself. -/
theorem markersAndWavesAreMerged : Obligations.MarkersAndWavesAreMerged := by
  refine ⟨fun port frame fixed delays s t0 hen hcarries hcrc htype hform hmode hseen htick hvalid helapsed hhops hfec => ?_,
    fun port frame fixed settle s w hen hcarries hcrc htype hform hw hlow hhigh hfec => ?_⟩
  · have hobj {k : Nat} (hk : k < 0x660000) := noteFixed_obj s port frame.length fixed false hk
    have hticks := noteFixed_tick s port frame.length fixed false
    refine ⟨_, exec_markerReceive_taken ⟨hen, hcarries, hfec, hcrc, htype, hform⟩ delays, ?_⟩
    rw [takeMarker_next delays ((hobj (by decide)).trans hmode) ((congrArg TickNet.seen hticks).trans hseen) htick hvalid,
      firstMarker_tick delays (by rwa [noteFixed_port, hobj (by decide)]) hhops, hticks, htick]
    exact ⟨rfl, rfl, rfl, rfl⟩
  · refine ⟨_, exec_waveReceive_taken ⟨hen, hcarries, hfec, hcrc, htype, hform⟩ hw hlow hhigh settle, ?_, ?_⟩
    · rw [takeWave_wave, wave_of_tick (noteFixed_tick ..)]
    · rw [takeWave_count, noteFixed_tick]

end Sys2Proof.Machine
end

section
/-!
Proofs: Dropstitch's triggers (10 R232, R233, 16 R372).
-/
namespace Sys2Proof.Machine

section Dropstitch
variable {s : State}

theorem State.modPort_modPort (p : PortId) (f g : Port → Port) :
    (s.modPort p f).modPort p g = s.modPort p fun x => g (f x) := by
  simp [State.modPort, vmod]

/-- TRIGGER is what a write of DS_CTRL gives it. -/
theorem fld_dsCtrlOf (drop corrupt reorder : BitVec 16) (classes : BitVec 4) {trigger : Nat} (h : trigger < 4) :
    fld (dsCtrlOf drop corrupt reorder classes trigger) 0 2 = trigger := by
  unfold fld dsCtrlOf
  omega

/-! ## Writes of DS_CTRL (10 R232, R233) -/

variable {p : PortId} {v : Nat}

theorem writeDsCtrl_locked (h : s.licensed 2 = false) : writeDsCtrl s p v = lockedWrite s := by
  simp [writeDsCtrl, h]

/-- TRIGGER 0 disarms, and leaves nothing for a frame boundary. -/
theorem writeDsCtrl_off (h : s.licensed 2 = true) (hoff : fld v 0 2 = 0) :
    writeDsCtrl s p v = s.modPort p fun x => { x with dsCtrl := v, dsArmed := none, dsWait := false } := by
  have hboundary (b : Bool) (t : State) (hwait : (t.port p).dsWait = false) : (t.when b fun u => dsBoundary u p) = t := by
    cases b
    · rfl
    · simp [dsBoundary, hwait]
  simp only [writeDsCtrl, h, hoff, Bool.not_true, Bool.false_eq_true, if_false, if_true]
  exact hboundary _ _ (by simp)

/-- A setting in force stays until the next frame boundary. -/
theorem writeDsCtrl_waits (h : s.licensed 2 = true) (hon : fld v 0 2 ≠ 0) (hbusy : fld (s.port p).dsCtrl 0 2 ≠ 0) :
    writeDsCtrl s p v = s.modPort p fun x => { x with dsCtrl := v, dsWait := true } := by
  simp [writeDsCtrl, h, hon, beq_false_of_ne hbusy]

/-- With no setting in force the write itself is the frame boundary; TRIGGER 1 and 3 begin there. -/
theorem writeDsCtrl_now (h : s.licensed 2 = true) (hon : fld v 0 2 ≠ 0) (htick : fld v 0 2 ≠ 2)
    (hidle : fld (s.port p).dsCtrl 0 2 = 0) : writeDsCtrl s p v = s.modPort p fun x => { x with
      dsCtrl := v, dsWait := false, dsJ := 0, dsArmed := some s.tick.count } := by
  simp [writeDsCtrl, h, hon, hidle, dsBoundary, State.modPort_modPort]

/-- TRIGGER 2 begins there if DS_TICK has arrived, and else at DS_TICK. -/
theorem writeDsCtrl_tick (h : s.licensed 2 = true) (htick : fld v 0 2 = 2) (hidle : fld (s.port p).dsCtrl 0 2 = 0) :
    writeDsCtrl s p v = s.modPort p fun x => { x with
      dsCtrl := v, dsWait := false, dsJ := 0
      dsArmed := if x.dsTick ≤ s.tick.count ∧ s.tick.arrived = true then some s.tick.count else none } := by
  cases harrived : s.tick.arrived <;> simp [writeDsCtrl, h, htick, hidle, dsBoundary, State.modPort_modPort, harrived]

/-! ## The commands that write DS_CTRL -/

variable (s p) (drop corrupt reorder : BitVec 16) (classes : BitVec 4)

theorem exec_dropstitchTriggerOff : exec (.dropstitchTriggerOff p drop corrupt reorder classes) s =
    .next (writeDsCtrl s p (dsCtrlOf drop corrupt reorder classes 0)) := rfl

theorem exec_dropstitchTriggerNow : exec (.dropstitchTriggerNow p drop corrupt reorder classes) s =
    .next (writeDsCtrl s p (dsCtrlOf drop corrupt reorder classes 1)) := rfl

theorem exec_dropstitchTriggerTick : exec (.dropstitchTriggerTick p drop corrupt reorder classes) s =
    .next (writeDsCtrl s p (dsCtrlOf drop corrupt reorder classes 2)) := rfl

theorem exec_dropstitchSingleShot : exec (.dropstitchSingleShot p drop corrupt reorder classes) s =
    .next (writeDsCtrl s p (dsCtrlOf drop corrupt reorder classes 3)) := rfl

end Dropstitch

/-- Settles O34: all four commands are writes of DS_CTRL, told apart by TRIGGER alone; a locked write is only counted. -/
theorem dropstitchTriggers : Obligations.DropstitchTriggers := by
  intro p drop corrupt reorder classes s
  simp only [exec_dropstitchTriggerOff, exec_dropstitchTriggerNow, exec_dropstitchTriggerTick, exec_dropstitchSingleShot]
  have hfld {k : Nat} (hk : k < 4) := fld_dsCtrlOf drop corrupt reorder classes hk
  have hne {k j : Nat} (hk : k < 4) (hj : k ≠ j) : fld (dsCtrlOf drop corrupt reorder classes k) 0 2 ≠ j := by rwa [hfld hk]
  refine ⟨fun hlic => ⟨?_, fun hbusy => ⟨?_, ?_, ?_⟩, fun hidle => ⟨?_, ?_, ?_⟩⟩, fun hlocked i hi => ?_⟩
  · rw [writeDsCtrl_off hlic (hfld (by decide))]
  · rw [writeDsCtrl_waits hlic (hne (by decide) (by decide)) hbusy]
  · rw [writeDsCtrl_waits hlic (hne (by decide) (by decide)) hbusy]
  · rw [writeDsCtrl_waits hlic (hne (by decide) (by decide)) hbusy]
  · rw [writeDsCtrl_now hlic (hne (by decide) (by decide)) (hne (by decide) (by decide)) hidle]
  · rw [writeDsCtrl_tick hlic (hfld (by decide)) hidle]
  · rw [writeDsCtrl_now hlic (hne (by decide) (by decide)) (hne (by decide) (by decide)) hidle]
  · have hexec : exec i s = .next (lockedWrite s) := by
      simp only [List.mem_cons, List.not_mem_nil, or_false] at hi
      obtain rfl | rfl | rfl | rfl := hi <;> exact congrArg Host.Outcome.next (writeDsCtrl_locked hlocked)
    exact ⟨_, hexec, rfl, rfl, rfl⟩

end Sys2Proof.Machine
end

section
/-!
Proofs: what events, failures and accesses to memory leave of the exchange units of the dies and of the units' counters
(08 R167 to R173, 09 R194 to R203, 17 R380 to R391).
-/
namespace Sys2Proof.Machine

/-! ## The exchange units and their counters -/

/-- The exchange units of the dies, and the entries of the dictionary whose keys are those of the units' objects. -/
structure UnitView where
  units : Vector DieUnits 8
  counts : Kv Nat

/-- Is a dictionary key that of an object of the ports, of an exchange unit or of training (objects 0x6600 to 0x68FF). -/
def unitKey (key : Nat) : Bool := 0x660000 ≤ key && key < 0x690000

/-- The unit view of a state. -/
def State.unitView (s : State) : UnitView := ⟨s.units, s.dict.filter fun e => unitKey e.1⟩

theorem unitKey_eq_false {key : Nat} (h : key < 0x660000 ∨ 0x690000 ≤ key) : unitKey key = false := by
  rw [unitKey, Bool.and_eq_false_iff, decide_eq_false_iff_not, decide_eq_false_iff_not]
  omega

theorem filter_unitKey_kvIns {m : Kv Nat} {key : Nat} (v : Nat) (h : unitKey key = false) :
    (kvIns m key v).filter (fun e => unitKey e.1) = m.filter fun e => unitKey e.1 := by
  induction m with
  | nil => simp [kvIns, h]
  | cons e m ih =>
    unfold kvIns
    split
    · simp [h]
    · simp only [List.filter_cons, ih]

theorem filter_unitKey_kvDel {m : Kv Nat} {key : Nat} (h : unitKey key = false) :
    (kvDel m key).filter (fun e => unitKey e.1) = m.filter fun e => unitKey e.1 := by
  rw [kvDel, List.filter_filter]
  refine List.filter_congr fun e _ => ?_
  by_cases he : e.1 = key <;> simp [he, h]

theorem kvGet_filter_unitKey (d : Nat) (m : Kv Nat) {key : Nat} (h : unitKey key = true) :
    kvGet d (m.filter fun e => unitKey e.1) key = kvGet d m key := by
  induction m with
  | nil => rfl
  | cons e m ih =>
    obtain ⟨k, v⟩ := e
    by_cases hk : k = key
    · simp [hk, h, kvGet]
    · cases hu : unitKey k <;> simp [hu, hk, kvGet, ih]

theorem unit_of_unitView {s t : State} (h : t.unitView = s.unitView) (d : DieId) : t.unit d = s.unit d :=
  congrArg (fun v : UnitView => v.units[d]) h

theorem obj_of_unitView {s t : State} (h : t.unitView = s.unitView) {key : Nat} (hkey : unitKey key = true) :
    t.obj key = s.obj key := by
  have hcounts := congrArg (fun v : UnitView => kvGet (objDefault key) v.counts key) h
  simpa only [State.unitView, State.obj, kvGet_filter_unitKey _ _ hkey] using hcounts

theorem ite_unitView {s t u : State} {p : Prop} {_ : Decidable p} (ht : t.unitView = s.unitView) (hu : u.unitView = s.unitView) :
    (if p then t else u).unitView = s.unitView := by
  split
  · exact ht
  · exact hu

section Units
variable (s : State)

@[simp] theorem State.setObj_unitView {key : Nat} (v : Nat) (h : key < 0x660000 ∨ 0x690000 ≤ key) :
    (s.setObj key v).unitView = s.unitView := by
  have hkey := unitKey_eq_false h
  have hdict : (kvSet (objDefault key) s.dict key v).filter (fun e => unitKey e.1) = s.dict.filter fun e => unitKey e.1 := by
    unfold kvSet
    split
    · exact filter_unitKey_kvDel hkey
    · exact (filter_unitKey_kvIns v hkey).trans (filter_unitKey_kvDel hkey)
  exact congrArg (UnitView.mk s.units) hdict

@[simp] theorem State.bumpBy_unitView {key : Nat} (n : Nat) (h : key < 0x660000 ∨ 0x690000 ≤ key) :
    (s.bumpBy key n).unitView = s.unitView := State.setObj_unitView s _ h

@[simp] theorem State.bump_unitView {key : Nat} (h : key < 0x660000 ∨ 0x690000 ≤ key) : (s.bump key).unitView = s.unitView :=
  State.setObj_unitView s _ h

@[simp] theorem State.setSrc_unitView (n : Nat) (r : SrcRec) : (s.setSrc n r).unitView = s.unitView := (rfl)
@[simp] theorem State.setIc_unitView (d : DieId) (x : IntCtl) : (s.setIc d x).unitView = s.unitView := (rfl)
@[simp] theorem State.modDie_unitView (d : DieId) (f : DieMem → DieMem) : (s.modDie d f).unitView = s.unitView := (rfl)

@[simp] theorem State.when_unitView (b : Bool) (f : State → State) (h : (f s).unitView = s.unitView) :
    (s.when b f).unitView = s.unitView := State.when_keeps s State.unitView b f h

@[simp] theorem State.each_unitView {α : Type} (l : List α) (f : State → α → State)
    (h : ∀ t a, (f t a).unitView = t.unitView) : (s.each l f).unitView = s.unitView := State.each_keeps s State.unitView l f h

/-! ### Events (17 R380 to R391) -/

@[simp] theorem signalVector_unitView (fn vec : Nat) : (signalVector s fn vec).unitView = s.unitView := by
  unfold signalVector
  dsimp only
  split
  · rfl
  · split <;> rfl

@[simp] theorem eqRecord_unitView (d : DieId) (n kind sev d0 d1 : Nat) :
    (eqRecord s d n kind sev d0 d1).unitView = s.unitView := by
  unfold eqRecord
  dsimp only
  split <;> simp

@[simp] theorem ringRecord_unitView (r : Fin 8) (n kind sev d0 d1 : Nat) :
    (ringRecord s r n kind sev d0 d1).unitView = s.unitView := by
  unfold ringRecord
  dsimp only
  split
  · rfl
  · split
    · exact (State.bump_unitView _ (by decide)).trans rfl
    · exact (State.when_unitView _ _ _ (signalVector_unitView ..)).trans rfl

@[simp] theorem contrailRecord_unitView (n kind sev d0 d1 : Nat) : (contrailRecord s n kind sev d0 d1).unitView = s.unitView := by
  unfold contrailRecord
  dsimp only
  split
  · exact (State.bump_unitView _ (by decide)).trans rfl
  · rfl

@[simp] theorem sendRecords_unitView (n kind d0 d1 : Nat) : (sendRecords s n kind d0 d1).unitView = s.unitView := by
  simp [sendRecords]

@[simp] theorem zenithSide_unitView (n kind d0 d1 : Nat) : (zenithSide s n kind d0 d1).unitView = s.unitView := by
  unfold zenithSide
  dsimp only
  exact ite_unitView rfl (ite_unitView rfl (eqRecord_unitView ..))

@[simp] theorem quarantine_unitView (n d0 d1 : Nat) : (quarantine s n d0 d1).unitView = s.unitView := by
  simp [quarantine]

@[simp] theorem raise_unitView (n d0 d1 : Nat) : (raise s n d0 d1).unitView = s.unitView := by
  unfold raise
  dsimp only
  split
  · rfl
  · exact ite_unitView rfl (ite_unitView (by simp) (by simp))

@[simp] theorem raiseOn_unitView (d : DieId) (l d0 d1 : Nat) : (raiseOn s d l d0 d1).unitView = s.unitView := raise_unitView ..

/-! ### Failures for good (01 R15, 09 R203) -/

@[simp] theorem setDeviceState_unitView (st cause : Nat) : (setDeviceState s st cause).unitView = s.unitView := by
  have hmailbox (t : State) : (mailboxState t).unitView = t.unitView := (signalVector_unitView ..).trans rfl
  have hcontrail (t : State) (data : List Byte) : (notifyContrail t 0x1001 1 data).unitView = t.unitView :=
    ite_unitView rfl rfl
  unfold setDeviceState
  refine ite_unitView rfl ?_
  rw [hcontrail, hmailbox, raise_unitView, State.setObj_unitView _ _ (by decide), State.setObj_unitView _ _ (by decide)]

@[simp] theorem failUnit_unitView (u : FailUnit) (cause : Nat) : (failUnit s u cause).unitView = s.unitView := by
  have hready (t : State) : (driveReady t false).unitView = t.unitView := ite_unitView rfl rfl
  unfold failUnit enterFault
  exact ite_unitView rfl ((hready (setDeviceState (fenceUnit s u) 4 cause)).trans (setDeviceState_unitView ..))

@[simp] theorem logFence_unitView (d : DieId) (memory a : Nat) : (logFence s d memory a).unitView = s.unitView := (rfl)

@[simp] theorem fencePage_unitView (d : DieId) (a : Nat) : (fencePage s d a).unitView = s.unitView := by
  unfold fencePage
  exact ite_unitView rfl (ite_unitView (by simp) (by simp))

/-! ### Counts of bytes (07 R157, 08 Table 8.11) -/

@[simp] theorem countBytes_unitView (kind unit n : Nat) : (countBytes s kind unit n).unitView = s.unitView := by
  unfold countBytes demandOverrun
  dsimp only
  refine ite_unitView rfl ?_
  split
  · rfl
  · refine ite_unitView ?_ rfl
    rw [raise_unitView, State.bump_unitView _ (by decide), State.bump_unitView _ (by decide)]
    rfl

@[simp] theorem countPath_unitView (a b : DieId) (n : Nat) : (countPath s a b n).unitView = s.unitView := by
  simp [countPath]

@[simp] theorem countAt_unitView (d : DieId) (a m : Nat) (write : Bool) : (countAt s d a m write).unitView = s.unitView := by
  unfold countAt
  split
  · rfl
  · cases write <;> simp

@[simp] theorem countMove_unitView (d : DieId) (a n : Nat) (write : Bool) : (countMove s d a n write).unitView = s.unitView :=
  countAt_unitView ..

/-! ### The cache (08 R167 to R173) -/

@[simp] theorem poisonByte_unitView (a : Nat) : (poisonByte s a).unitView = s.unitView :=
  (State.bump_unitView _ (by decide)).trans rfl

@[simp] theorem clearWords_unitView (d : DieId) (k n : Nat) : (clearWords s d k n).unitView = s.unitView := (rfl)

@[simp] theorem setFrameWord_unitView (d : DieId) (k v dev : Nat) : (setFrameWord s d k v dev).unitView = s.unitView := (rfl)

@[simp] theorem loseWord_unitView (d : DieId) (l : CacheLine) (k : Nat) : (loseWord s d l k).unitView = s.unitView := by
  simp [loseWord, sramUncorrectable]

@[simp] theorem backWord_unitView (d : DieId) (l : CacheLine) (k : Nat) : (backWord d l s k).unitView = s.unitView := by
  unfold backWord
  dsimp only
  split
  case h_1 => rfl
  case h_2 => exact State.bump_unitView s (by decide)
  case h_3 => exact State.bump_unitView s (by decide)
  case h_4 => simp
  case h_5 => simp

@[simp] theorem settleLine_unitView (d : DieId) (l : CacheLine) : (settleLine d s l).unitView = s.unitView := by
  unfold settleLine
  exact ite_unitView rfl (by simp)

@[simp] theorem setCacheSet_unitView (d : DieId) (line : Nat) (ls : List CacheLine) :
    (setCacheSet s d line ls).unitView = s.unitView := by
  simp [setCacheSet]

@[simp] theorem readFrameWord_unitView (d : DieId) (k : Nat) : (readFrameWord s d k).2.unitView = s.unitView := by
  unfold readFrameWord
  dsimp only
  split
  · rfl
  · split
    case h_5 => split <;> simp
    all_goals simp

@[simp] theorem readFrames_unitView (d : DieId) (o n : Nat) : (readFrames s d o n).2.unitView = s.unitView := by
  unfold readFrames
  split
  · rfl
  · exact foldl_keeps (fun p : List (Nat × Nat) × State => p.2.unitView) _ _ _ fun p k => readFrameWord_unitView p.2 d k

@[simp] theorem writeFrames_unitView (d : DieId) (o : Nat) (bs : List Byte) : (writeFrames s d o bs).unitView = s.unitView := by
  unfold writeFrames
  exact ite_unitView rfl (State.each_unitView s _ _ fun t k => ite_unitView (by simp) (ite_unitView (by simp) (by simp)))

@[simp] theorem updatePairing_unitView (d : DieId) (line : Nat) : (updatePairing s d line).unitView = s.unitView := by
  unfold updatePairing
  extract_lets ls
  split
  · exact ite_unitView rfl (ite_unitView
      ((State.bump_unitView _ (by decide)).trans (setCacheSet_unitView ..))
      ((State.setObj_unitView _ _ (by decide)).trans (setCacheSet_unitView ..)))
  · rfl

@[simp] theorem cacheLineAccess_unitView (d : DieId) (line : Nat) (mask : BitVec 4) (hint : Hint) (write byteRegion : Bool) :
    (cacheLineAccess s d line mask hint write byteRegion).unitView = s.unitView := by
  unfold cacheLineAccess
  extract_lets ls limit
  split
  · rw [updatePairing_unitView, State.bumpBy_unitView _ _ (by decide), State.bumpBy_unitView _ _ (by decide),
      setCacheSet_unitView]
  · rename_i s1 demote room s2 s3 new _ _
    have h1 : s1.unitView = s.unitView := State.bumpBy_unitView _ _ (by decide)
    have h2 : s2.unitView = s1.unitView := State.when_unitView _ _ _ (State.bump_unitView _ (by decide))
    have h3 : s3.unitView = s2.unitView := State.when_unitView _ _ _ (State.setObj_unitView _ _ (by decide))
    refine ite_unitView h1 ?_
    rw [updatePairing_unitView, setCacheSet_unitView, h3, h2, h1]

@[simp] theorem cacheAccess_unitView (d : DieId) (o n : Nat) (hint : Hint) (write byteRegion : Bool) :
    (cacheAccess s d o n hint write byteRegion).unitView = s.unitView := by
  unfold cacheAccess
  exact ite_unitView rfl (by simp)

@[simp] theorem rePair_unitView (d : DieId) (o n : Nat) : (rePair s d o n).unitView = s.unitView := by
  unfold rePair
  exact ite_unitView rfl (by simp)

/-! ### Memory (09 R194 to R203) -/

@[simp] theorem dropFrames_unitView (h : RegionHit) (a n : Nat) : (dropFrames s h a n).unitView = s.unitView := by
  simp [dropFrames]

@[simp] theorem poisonPage_unitView (t page : Nat) : (poisonPage s t page).unitView = s.unitView :=
  (State.bump_unitView _ (by decide)).trans rfl

@[simp] theorem poisonMem_unitView (a n : Nat) (hint : Hint) : (poisonMem s a n hint).unitView = s.unitView := by
  unfold poisonMem
  split
  · rfl
  · dsimp only
    rw [State.when_unitView _ _ _ (rePair_unitView ..)]
    refine ite_unitView ?_ ?_
    · rw [State.each_unitView _ _ _ fun t b => ite_unitView (by simp) (by simp)]
      simp
    · rw [State.each_unitView _ _ _ fun t p => ite_unitView (by simp) (by simp)]
      simp

@[simp] theorem memUncorrectable_unitView (d : DieId) (a : Nat) : (memUncorrectable s d a).unitView = s.unitView :=
  raiseOn_unitView ..

@[simp] theorem lastingError_unitView (h : RegionHit) (a : Nat) (hard : Bool) :
    (lastingError s h a hard).unitView = s.unitView := by
  have hform : (if h.isByte then poisonByte s a else poisonPage s h.t (pageOf a)).unitView = s.unitView :=
    ite_unitView (by simp) (by simp)
  simp [lastingError, hform]

@[simp] theorem queueRewrite_unitView (d : DieId) (a : Nat) : (queueRewrite s d a).unitView = s.unitView := by
  unfold queueRewrite
  exact ite_unitView rfl (ite_unitView (by simp) (by simp))

@[simp] theorem takeUpset_unitView (how : MemOutcome) : (takeUpset s how).2.unitView = s.unitView := by
  unfold takeUpset
  split <;> rfl

@[simp] theorem loadPage_unitView (h : RegionHit) (a n : Nat) (l : Load) (page : Nat) :
    (loadPage h a n l page).s.unitView = l.s.unitView := by
  unfold loadPage
  dsimp only
  split
  · simp
  · split <;> simp

@[simp] theorem loadByte_unitView (h : RegionHit) (a n : Nat) (l : Load) (b : Nat) :
    (loadByte h a n l b).s.unitView = l.s.unitView := by
  unfold loadByte
  dsimp only
  split
  · simp
  · split <;> simp

@[simp] theorem overlay_unitView (d : DieId) (a n : Nat) (l : Load) (p : Nat × Nat) :
    (overlay d a n l p).s.unitView = l.s.unitView := by
  unfold overlay
  dsimp only
  split
  · rfl
  · split <;> rfl

@[simp] theorem loadOutcome_unitView (h : RegionHit) (a n : Nat) (how : MemOutcome) (l : Load) :
    (loadOutcome h a n how l).s.unitView = l.s.unitView := by
  cases how <;> simp [loadOutcome]

/-- The cache's part of an access to memory. -/
theorem hintedAccess_unitView (h : RegionHit) (a n : Nat) (hint : Option Hint) (write : Bool) :
    (match hint with
      | none => s
      | some hi => if h.hbm then cacheAccess s h.die (dieOffset a) n hi write h.isByte else s).unitView = s.unitView := by
  split
  · rfl
  · exact ite_unitView (by simp) rfl

@[simp] theorem memLoad_unitView (a n : Nat) (hint : Option Hint) (how : MemOutcome) :
    (memLoad s a n hint how).s.unitView = s.unitView := by
  unfold memLoad
  split
  · rfl
  · rename_i h _
    extract_lets s0 f l0 l1 l2 u
    have h0 : s0.unitView = s.unitView := hintedAccess_unitView s h a n hint false
    have hf : f.2.unitView = s0.unitView := by
      unfold f
      split <;> simp
    have h1 : l1.s.unitView = f.2.unitView := by
      unfold l1
      split
      · exact foldl_keeps (fun l : Load => l.s.unitView) _ _ l0 fun l b => loadByte_unitView h a n l b
      · exact foldl_keeps (fun l : Load => l.s.unitView) _ _ l0 fun l p => loadPage_unitView h a n l p
    have h2 : l2.s.unitView = l1.s.unitView :=
      foldl_keeps (fun l : Load => l.s.unitView) _ _ l1 fun l p => overlay_unitView h.die a n l p
    exact (loadOutcome_unitView ..).trans ((takeUpset_unitView ..).trans (h2.trans (h1.trans (hf.trans h0))))

@[simp] theorem storePage_unitView (h : RegionHit) (page : Nat) (bs : List Byte) :
    (storePage s h page bs).unitView = s.unitView := by
  unfold storePage
  exact ite_unitView (by simp) rfl

@[simp] theorem storePart_unitView (h : RegionHit) (page off : Nat) (bs : List Byte) :
    (storePart s h page off bs).unitView = s.unitView := by
  unfold storePart
  dsimp only
  refine ite_unitView (by simp) (ite_unitView (by simp) ?_)
  split <;> simp

@[simp] theorem storePageAt_unitView (h : RegionHit) (a : Nat) (bs : List Byte) (page : Nat) :
    (storePageAt h a bs s page).unitView = s.unitView := by
  unfold storePageAt
  exact ite_unitView (by simp) (by simp)

@[simp] theorem storeByte_unitView (h : RegionHit) (b : Nat) (v : Byte) : (storeByte s h b v).unitView = s.unitView := by
  unfold storeByte
  exact ite_unitView (by simp) rfl

@[simp] theorem memStore_unitView (a : Nat) (bs : List Byte) (hint : Option Hint) :
    (memStore s a bs hint).unitView = s.unitView := by
  unfold memStore
  split
  · rfl
  · rename_i h _
    extract_lets s0 sf s1
    have h0 : s0.unitView = s.unitView := hintedAccess_unitView s h a bs.length hint true
    have hf : sf.unitView = s0.unitView := ite_unitView (by simp) rfl
    have h1 : s1.unitView = sf.unitView :=
      ite_unitView (by simp) (foldl_keeps State.unitView _ _ _ fun t p => storePageAt_unitView ..)
    exact ite_unitView ((rePair_unitView ..).trans (h1.trans (hf.trans h0))) (h1.trans (hf.trans h0))

/-! ### Scratchpad (09 R196 to R203) -/

@[simp] theorem poisonWord_unitView (k : Nat) : (poisonWord s k).unitView = s.unitView :=
  (State.bump_unitView _ (by decide)).trans rfl

@[simp] theorem scratchLasting_unitView (c : CoreId) (off : Nat) (hard : Bool) :
    (scratchLasting s c off hard).unitView = s.unitView := by
  unfold scratchLasting scratchUncorrectable
  dsimp only
  rw [State.when_unitView _ _ _ rfl]
  simp

@[simp] theorem loadWord_unitView (c : CoreId) (off n : Nat) (l : Load) (k : Nat) :
    (loadWord c off n l k).s.unitView = l.s.unitView := by
  unfold loadWord
  dsimp only
  split <;> simp

@[simp] theorem scratchLoad_unitView (c : CoreId) (off n : Nat) (how : MemOutcome) :
    (scratchLoad s c off n how).s.unitView = s.unitView := by
  unfold scratchLoad
  extract_lets l u
  have hl : l.s.unitView = s.unitView := foldl_keeps (fun l : Load => l.s.unitView) _ _ _ fun l k => loadWord_unitView c off n l k
  have hu : u.2.unitView = l.s.unitView := takeUpset_unitView ..
  split <;> simp [hl, hu]

@[simp] theorem scratchStore_unitView (c : CoreId) (off : Nat) (bs : List Byte) :
    (scratchStore s c off bs).unitView = s.unitView := (rfl)

@[simp] theorem poisonScratch_unitView (c : CoreId) (off n : Nat) : (poisonScratch s c off n).unitView = s.unitView := by
  simp [poisonScratch]

/-! ### Movers (08 R175 to R180) -/

@[simp] theorem moverLoad_unitView (c : CoreId) (g : Seg) (off n hint : Nat) (how : MemOutcome) :
    (moverLoad s c g off n hint how).s.unitView = s.unitView := by
  unfold moverLoad
  split <;> simp

@[simp] theorem moverStore_unitView (c : CoreId) (g : Seg) (off : Nat) (bs : List Byte) (hint : Nat) :
    (moverStore s c g off bs hint).unitView = s.unitView := by
  unfold moverStore
  exact ite_unitView (by simp) (by simp)

@[simp] theorem moverPut_unitView (c : CoreId) (g : Seg) (off : Nat) (bs : List Byte) (hint : Nat) :
    (moverPut s c g off bs hint).unitView = s.unitView := by
  unfold moverPut
  exact ite_unitView (by simp) (by simp)

@[simp] theorem moverPoison_unitView (c : CoreId) (g : Seg) (off n hint : Nat) :
    (moverPoison s c g off n hint).unitView = s.unitView := by
  unfold moverPoison
  exact ite_unitView rfl (ite_unitView (by simp) (by simp))

@[simp] theorem poisonRuns_unitView (c : CoreId) (g : Seg) (off n bad hint : Nat) :
    (poisonRuns s c g off n bad hint).unitView = s.unitView := by
  simp [poisonRuns]

end Units
end Sys2Proof.Machine
end

section
/-!
Proofs: the collectives of the dies: what leaves them as they are, how they are accepted and how they end
(11 R235, R236, R250, R251).
-/
namespace Sys2Proof.Machine

/-! ## Lists and the units of a die -/

@[simp] theorem getElem?_modAt_same {α : Type} (l : List α) (i : Nat) (f : α → α) : (modAt l i f)[i]? = l[i]?.map f := by
  induction l generalizing i with
  | nil => rfl
  | cons x xs ih => cases i <;> simp [modAt, ih]

theorem getElem?_modAt_ne {α : Type} (l : List α) {i j : Nat} (f : α → α) (h : j ≠ i) : (modAt l i f)[j]? = l[j]? := by
  induction l generalizing i j with
  | nil => rfl
  | cons x xs ih =>
    cases i <;> cases j
    case zero.zero => exact absurd rfl h
    case succ.succ => exact ih fun e => h (congrArg _ e)
    all_goals rfl

@[simp] theorem eraseIdx_modAt_same {α : Type} (l : List α) (i : Nat) (f : α → α) :
    (modAt l i f).eraseIdx i = l.eraseIdx i := by
  induction l generalizing i with
  | nil => rfl
  | cons x xs ih => cases i <;> simp [modAt, ih]

section Units
variable (s : State) (d : DieId)

@[simp] theorem State.unit_modUnit_same (f : DieUnits → DieUnits) : (s.modUnit d f).unit d = f (s.unit d) := vmod_same _ d f

theorem State.unit_modUnit_ne {d e : DieId} (f : DieUnits → DieUnits) (h : e ≠ d) : (s.modUnit d f).unit e = s.unit e :=
  vmod_ne _ f h

/-- A part of each die's units that a change of one die's units keeps. -/
theorem State.unit_modUnit_keeps {β : Type} (g : DieUnits → β) {f : DieUnits → DieUnits} (h : ∀ u, g (f u) = g u)
    (e : DieId) : g ((s.modUnit d f).unit e) = g (s.unit e) := by
  by_cases he : e = d
  · subst he
    rw [State.unit_modUnit_same, h]
  · rw [State.unit_modUnit_ne s f he]

@[simp] theorem modColl_coll (f : CollEngine → CollEngine) : ((modColl s d f).unit d).coll = f (s.unit d).coll :=
  congrArg DieUnits.coll (State.unit_modUnit_same s d _)

theorem modColl_runs {f : CollEngine → CollEngine} (e : DieId) (h : ∀ x, (f x).runs = x.runs := by exact fun _ => rfl) :
    ((modColl s d f).unit e).coll.runs = (s.unit e).coll.runs :=
  State.unit_modUnit_keeps s d (·.coll.runs) (fun u => h u.coll) e

@[simp] theorem modRun_runs (i : Nat) (f : CollRun → CollRun) :
    ((modRun s d i f).unit d).coll.runs = modAt (s.unit d).coll.runs i f := by
  simp [modRun]

@[simp] theorem collRunAt_modRun_same (i : Nat) (f : CollRun → CollRun) :
    collRunAt (modRun s d i f) d i = (collRunAt s d i).map f := by
  simp [collRunAt]

end Units

theorem queue_setQueue_ne (x : CoreState) {q p : Nat} (l : List QInst) (h : q % 10 ≠ p % 10) :
    (x.setQueue p l).queue q = x.queue q := by
  simp [CoreState.queue, CoreState.setQueue, h.symm]

theorem modEntry_queue_same (s : State) (c : CoreId) (q seq : Nat) (f : QInst → QInst) :
    ((modEntry s c q seq f).core c).queue q = ((s.core c).queue q).map fun i => if i.seq = seq then f i else i := by
  rw [modEntry, State.core_modCore_same, queue_setQueue_same]

/-- Every entry of that place in program order has been marked. -/
theorem modEntry_done (s : State) (c : CoreId) (q seq : Nat) {y : QInst}
    (hy : y ∈ ((modEntry s c q seq fun i => { i with done := 1 }).core c).queue q) (hseq : y.seq = seq) : y.done = 1 := by
  rw [modEntry_queue_same] at hy
  obtain ⟨i, -, rfl⟩ := List.mem_map.mp hy
  by_cases hi : i.seq = seq
  · rw [if_pos hi]
  · rw [if_neg hi] at hseq
    exact absurd hseq hi

/-! ## What leaves the collectives as they are -/

/-- A change that reaches no collectives engine, neither the queues that feed them nor the count of those completed. -/
structure CollsKept (s t : State) : Prop where
  coll : ∀ d, (t.unit d).coll = (s.unit d).coll
  completed : t.obj 0x663001 = s.obj 0x663001
  queue : ∀ c, (t.core c).queue 7 = (s.core c).queue 7

theorem CollsKept.refl (s : State) : CollsKept s s := ⟨fun _ => rfl, rfl, fun _ => rfl⟩

theorem CollsKept.trans {s t u : State} (h : CollsKept s t) (k : CollsKept t u) : CollsKept s u :=
  ⟨fun d => (k.coll d).trans (h.coll d), k.completed.trans h.completed, fun c => (k.queue c).trans (h.queue c)⟩

/-- What an access to memory leaves. -/
theorem CollsKept.ofViews {s t : State} (h : t.unitView = s.unitView) (k : t.layout = s.layout) : CollsKept s t :=
  ⟨fun d => congrArg DieUnits.coll (unit_of_unitView h d), obj_of_unitView h (by decide), fun c => queue_of_layout k c 7⟩

theorem CollsKept.when {s : State} (b : Bool) {f : State → State} (h : CollsKept s (f s)) : CollsKept s (s.when b f) := by
  cases b
  · exact .refl s
  · exact h

theorem CollsKept.ite {s t u : State} {p : Prop} {_ : Decidable p} (h : CollsKept s t) (k : CollsKept s u) :
    CollsKept s (if p then t else u) := by
  split
  · exact h
  · exact k

theorem CollsKept.each {α : Type} (s : State) (l : List α) {f : State → α → State} (h : ∀ t a, CollsKept t (f t a)) :
    CollsKept s (s.each l f) :=
  State.each_invariant (I := CollsKept s) l (fun t a k => k.trans (h t a)) (.refl s)

theorem CollsKept.runAt {s t : State} (h : CollsKept s t) (d : DieId) (i : Nat) : collRunAt t d i = collRunAt s d i := by
  rw [collRunAt, h.coll, collRunAt]

section Kept
variable (s : State)

theorem State.bumpBy_collsKept {key : Nat} (n : Nat) (h : 0x663001 ≠ key) : CollsKept s (s.bumpBy key n) :=
  ⟨fun _ => rfl, State.obj_bumpBy_ne s n h, fun _ => rfl⟩

theorem raiseFlags_collsKept (bits : Nat) : CollsKept s (raiseFlags s bits) := ⟨fun _ => rfl, rfl, fun _ => rfl⟩

theorem trapCore_collsKept (c : CoreId) (t : TrapInfo) (queue pc : Nat) : CollsKept s (trapCore s c t queue pc) := by
  unfold trapCore
  refine .ite (s.bumpBy_collsKept 1 (by decide)) ⟨fun _ => rfl, rfl, fun c' => ?_⟩
  by_cases hc : c' = c
  · subst hc
    rw [State.core_setCore_same]
    rfl
  · rw [State.core_setCore_ne s _ hc]

theorem modCirrus_collsKept (d : DieId) (f : CirrusUnit → CirrusUnit) : CollsKept s (modCirrus s d f) :=
  ⟨State.unit_modUnit_keeps s d DieUnits.coll fun _ => rfl, rfl, fun _ => rfl⟩

theorem modEntry_collsKept (c : CoreId) {q : Nat} (seq : Nat) (f : QInst → QInst) (h : 7 % 10 ≠ q % 10) :
    CollsKept s (modEntry s c q seq f) := by
  refine ⟨fun _ => rfl, rfl, fun c' => ?_⟩
  by_cases hc : c' = c
  · subst hc
    rw [modEntry, State.core_modCore_same, queue_setQueue_ne _ _ h]
  · rw [modEntry, State.core_modCore_ne s _ hc]

theorem moverStore_collsKept (c : CoreId) (g : Seg) (off : Nat) (bs : List Byte) (hint : Nat) :
    CollsKept s (moverStore s c g off bs hint) := .ofViews (moverStore_unitView ..) (moverStore_layout ..)

theorem moverPut_collsKept (c : CoreId) (g : Seg) (off : Nat) (bs : List Byte) (hint : Nat) :
    CollsKept s (moverPut s c g off bs hint) := .ofViews (moverPut_unitView ..) (moverPut_layout ..)

theorem storeOpt_collsKept (c : CoreId) (seg off : Nat) (bs : List (Option Byte)) : CollsKept s (storeOpt s c seg off bs) :=
  .ite (.refl s) ((moverStore_collsKept s ..).trans (.ofViews (poisonRuns_unitView ..) (poisonRuns_layout ..)))

theorem poisonOpen_collsKept (c : CoreId) (seg off n : Nat) : CollsKept s (poisonOpen s c seg off n) :=
  .ite (.each s _ fun _ _ => .ofViews (poisonScratch_unitView ..) (poisonScratch_layout ..))
    (.ofViews (moverPoison_unitView ..) (moverPoison_layout ..))

theorem poisonDst_collsKept (d : DieId) (i off n : Nat) : CollsKept s (poisonDst s d i off n) := by
  unfold poisonDst
  split
  · exact .refl s
  · exact .ite (.refl s) (poisonOpen_collsKept s ..)

theorem readMap_collsKept (c : CoreId) (l : Nat × Nat) (n seq pc : Nat) : CollsKept s (readMap s c l n seq pc).2 := by
  unfold readMap
  split
  · exact trapCore_collsKept s ..
  · exact .ofViews (moverLoad_unitView ..) (moverLoad_layout ..)

/-! ### Updates that a collective fed (14 R324, R331) -/

theorem failBlocks_collsKept (d : DieId) (i code : Nat) (sel : Nat → Bool) : CollsKept s (failBlocks s d i code sel) := by
  unfold failBlocks
  split
  · exact .refl s
  · rename_i u _
    extract_lets ks s1 s2
    have h2 : CollsKept s s2 := (modCirrus_collsKept s ..).trans (s1.bumpBy_collsKept _ (by decide))
    exact .ite (.refl s) (.ite (h2.trans (moverStore_collsKept s2 ..)) h2)

theorem settleUpd_collsKept (d : DieId) (i : Nat) : CollsKept s (settleUpd s d i) := by
  unfold settleUpd
  split
  · exact .refl s
  · rename_i u _
    extract_lets x c raw rec' s1 s2
    have h1 : CollsKept s s1 := .ite (moverPut_collsKept s ..) (.refl s)
    have h2 : CollsKept s1 s2 := .when _ (raiseFlags_collsKept s1 _)
    exact .ite (.refl s) ((h1.trans h2).trans ((modCirrus_collsKept s2 ..).trans (modEntry_collsKept _ _ _ _ (by decide))))

theorem feedEnded_collsKept (d : DieId) (r : CollRun) : CollsKept s (feedEnded s d r) := by
  refine .each s _ fun t i => ?_
  split
  · exact .refl t
  · exact .ite (.refl t) ((failBlocks_collsKept t ..).trans (settleUpd_collsKept _ ..))

end Kept

/-! ## A collective that ends (11 R250, R251) -/

/-- The segments of a collective that fail change nothing else of it. -/
theorem failSegs_run {s : State} {d : DieId} {i : Nat} {r : CollRun} (h : collRunAt s d i = some r) (code : Nat)
    (sel : Nat → Bool) : ∃ segs, collRunAt (failSegs s d i code sel) d i = some { r with segs := segs } := by
  simp only [failSegs, h, collRunAt_modRun_same, (CollsKept.each s _ fun t k => poisonDst_collsKept t ..).runAt]
  exact ⟨_, rfl⟩

theorem failSegs_others (s : State) (d : DieId) (i code : Nat) (sel : Nat → Bool) :
    ((failSegs s d i code sel).unit d).coll.runs.eraseIdx i = (s.unit d).coll.runs.eraseIdx i := by
  unfold failSegs
  split
  · rfl
  · dsimp only
    rw [modRun_runs, eraseIdx_modAt_same, (CollsKept.each s _ fun t k => poisonDst_collsKept t ..).coll]

theorem haltColl_run {s : State} {d : DieId} {i : Nat} {r : CollRun} (h : collRunAt s d i = some r) (dup : Bool) :
    ∃ segs, collRunAt (haltColl s d i dup) d i =
      some { r with segs := segs, phases := [], aborted := !dup, duplicate := dup } := by
  obtain ⟨segs, hsegs⟩ := failSegs_run h 4 fun _ => true
  exact ⟨segs, by simp only [haltColl, collRunAt_modRun_same, hsegs, Option.map_some]⟩

theorem haltColl_others (s : State) (d : DieId) (i : Nat) (dup : Bool) :
    ((haltColl s d i dup).unit d).coll.runs.eraseIdx i = (s.unit d).coll.runs.eraseIdx i := by
  rw [haltColl, modRun_runs, eraseIdx_modAt_same, failSegs_others]

/-- The collective in slot `i` of a die's engine has left it: the others keep their order, it is counted, and its queue entry is
done. -/
structure CollLeft (s : State) (d : DieId) (i : Nat) (r : CollRun) (t : State) : Prop where
  runs : (t.unit d).coll.runs = (s.unit d).coll.runs.eraseIdx i
  completed : t.obj 0x663001 = (s.obj 0x663001 + 1) % 2 ^ 64
  done : ∀ y ∈ (t.core (coreFin r.core)).queue 7, y.seq = r.seq → y.done = 1

theorem CollLeft.kept {s t u : State} {d : DieId} {i : Nat} {r : CollRun} (h : CollLeft s d i r t) (k : CollsKept t u) :
    CollLeft s d i r u where
  runs := (congrArg CollEngine.runs (k.coll d)).trans h.runs
  completed := k.completed.trans h.completed
  done y hy := h.done y (k.queue _ ▸ hy)

theorem finishColl_left (s : State) (d : DieId) (i : Nat) (r : CollRun) : CollLeft s d i r (finishColl s d i r) := by
  unfold finishColl
  extract_lets x c codes bad status raw rec' s1 s2 s3 s4
  have h1 : CollsKept s s1 := by
    refine .ite ?_ (.refl s)
    split
    · exact trapCore_collsKept s ..
    · exact moverPut_collsKept s ..
  have h2 : CollsKept (s1.bump 0x663001) s2 :=
    .when _ ((State.bumpBy_collsKept _ 1 (by decide)).trans (raiseFlags_collsKept _ _))
  have h3 : CollsKept (s1.bump 0x663001) s3 := h2.trans (.when _ (raiseFlags_collsKept s2 _))
  refine ⟨?_, ?_, fun y hy hseq => modEntry_done _ _ _ _ hy hseq⟩
  · calc (s4.unit d).coll.runs = (s3.unit d).coll.runs.eraseIdx i := by rw [modColl_coll]
      _ = (s1.unit d).coll.runs.eraseIdx i := by rw [h3.coll d]; rfl
      _ = (s.unit d).coll.runs.eraseIdx i := by rw [h1.coll d]
  · calc s3.obj 0x663001 = (s1.bump 0x663001).obj 0x663001 := h3.completed
      _ = (s1.obj 0x663001 + 1) % 2 ^ objWidth 0x663001 := State.obj_bump_same ..
      _ = (s.obj 0x663001 + 1) % 2 ^ 64 := by rw [h1.completed]; rfl

theorem completeColl_left (s : State) (d : DieId) (i : Nat) (r : CollRun) : CollLeft s d i r (completeColl s d i r) := by
  unfold completeColl
  dsimp only
  split
  · exact (finishColl_left s d i r).kept (feedEnded_collsKept _ d r)
  · exact finishColl_left s d i r

theorem endColl_eq {s : State} {d : DieId} {i : Nat} {r : CollRun} (h : collRunAt s d i = some r) :
    endColl s d i = completeColl s d i r := by
  simp only [endColl, h]

theorem exec_collComplete (d : DieId) (slot : Fin 8) (lost : Bool) (s : State) :
    exec (.collComplete d slot lost) s = execCollComplete d slot lost s := rfl

theorem collComplete_of_ended {s : State} {d : DieId} {slot : Fin 8} {r : CollRun} (lost : Bool)
    (h : collRunAt s d slot.val = some r) (hended : collEnded s d r = true) :
    exec (.collComplete d slot lost) s = .next (completeColl s d slot.val r) := by
  simp only [exec_collComplete, execCollComplete, h, hended, if_true]

/-! ## A collective that is accepted (11 R235, R236) -/

/-- The collective that a core's queue entry asks for, accepted with the incoming map as it was read. -/
def acceptColl (s : State) (d : DieId) (c : CoreId) (q : QInst) (b : List Byte) (inMap : List (Option PermRange)) : State :=
  modColl (modEntry s c 7 q.seq fun y => { y with accepted := true }) d fun e =>
    { e with runs := e.runs ++ [freshColl s d c q b inMap], last := c.val % 4 }

theorem exec_collAccept (d : DieId) (s : State) : exec (.collAccept d) s = execCollAccept d s := rfl

section Accept
variable {s : State} {d : DieId} {c : CoreId} {q : QInst} {b : List Byte} {m : List (Option PermRange) × State}

theorem acceptColl_coll (inMap : List (Option PermRange)) : ((acceptColl s d c q b inMap).unit d).coll =
    { (s.unit d).coll with runs := (s.unit d).coll.runs ++ [freshColl s d c q b inMap], last := c.val % 4 } :=
  modColl_coll ..

variable (hroom : (s.unit d).coll.runs.length < 8) (hnext : acceptCore s d 7 (s.unit d).coll.last = some (c, q))
  (hop : q.op = .coll b) (hwaits : collWaits s c q b = false)
  (hm : m = (if (collOf b).op ≠ 5 ∨ (collOf b).inEntries = 0 then ([], s)
    else readMap s c (collOf b).inMap (collOf b).inEntries q.seq q.pc))

include hm in
theorem acceptMap_collsKept : CollsKept s m.2 := by
  rw [hm]
  split
  · exact .refl s
  · exact readMap_collsKept s ..

include hm in
theorem acceptMap_eq : (if (collOf b).op != 5 || (collOf b).inEntries = 0 then ([], s)
    else readMap s c (collOf b).inMap (collOf b).inEntries q.seq q.pc) = m := by
  simp only [hm, Bool.or_eq_true, bne_iff_ne, decide_eq_true_eq]

include hroom hnext hop hwaits hm in
theorem collAccept_begins
    (hfirst : ((s.unit d).coll.runs.any fun y => y.frame == q.frame % 2 ^ 32 && y.id == (collOf b).id) = false)
    (hfaulted : s.faulted = none) :
    exec (.collAccept d) s = .next (beginColl (acceptColl m.2 d c q b m.1) d (s.unit d).coll.runs.length) := by
  rw [exec_collAccept]
  simp only [execCollAccept, if_neg (Nat.not_le.mpr hroom), hnext, hop, hwaits, Bool.false_eq_true, if_false, acceptMap_eq hm,
    freshColl, hfirst, hfaulted]
  rfl

include hroom hnext hop hwaits hm in
theorem collAccept_ends
    (hpair : ((s.unit d).coll.runs.any fun y => y.frame == q.frame % 2 ^ 32 && y.id == (collOf b).id) = true) :
    exec (.collAccept d) s = .next (endColl (raiseFlags (haltColl (acceptColl m.2 d c q b m.1) d (s.unit d).coll.runs.length true)
      flagExchange) d (s.unit d).coll.runs.length) := by
  rw [exec_collAccept]
  simp only [execCollAccept, if_neg (Nat.not_le.mpr hroom), hnext, hop, hwaits, Bool.false_eq_true, if_false, acceptMap_eq hm,
    freshColl, hpair, if_true]
  rfl

end Accept

/-- One of a pair in progress stands behind the others only until it is halted: what then ends it leaves them in order, and its
queue entry is done (11 R236). -/
theorem endColl_of_pair (s : State) (d : DieId) (c : CoreId) (q : QInst) (b : List Byte) (inMap : List (Option PermRange))
    {u : State} (hu : u = endColl (raiseFlags (haltColl (acceptColl s d c q b inMap) d (s.unit d).coll.runs.length true)
      flagExchange) d (s.unit d).coll.runs.length) :
    (u.unit d).coll.runs = (s.unit d).coll.runs ∧ ∀ i ∈ (u.core c).queue 7, i.seq = q.seq → i.done = 1 := by
  have hrun : collRunAt (acceptColl s d c q b inMap) d (s.unit d).coll.runs.length = some (freshColl s d c q b inMap) := by
    simp [collRunAt, acceptColl_coll]
  obtain ⟨segs, hhalted⟩ := haltColl_run hrun true
  have hflags := raiseFlags_collsKept (haltColl (acceptColl s d c q b inMap) d (s.unit d).coll.runs.length true) flagExchange
  rw [endColl_eq ((hflags.runAt _ _).trans hhalted)] at hu
  obtain ⟨hruns, -, hdone⟩ := hu ▸ completeColl_left ..
  have hcore : coreFin c.val = c := Fin.ext (Nat.mod_eq_of_lt c.isLt)
  refine ⟨?_, hcore ▸ hdone⟩
  rw [hruns, hflags.coll, haltColl_others, acceptColl_coll, List.eraseIdx_append_of_length_le le_rfl]
  simp

end Sys2Proof.Machine
end

section
/-!
Proofs: the frames of the collectives' buffers, and the data that arrives in a reduction (11 R242, R244, R245).
-/
namespace Sys2Proof.Machine

/-! ## The first frame that need not wait (11 R242) -/

theorem indexOf?_eq_findIdx? {α : Type} (p : α → Bool) (l : List α) : indexOf? p l = l.findIdx? p := by
  induction l with
  | nil => rfl
  | cons x xs ih => rw [indexOf?, List.findIdx?_cons, ih]

/-- The first frame of a buffer that need not wait. -/
theorem indexOf?_first_fate {α : Type} {fs : List α} (fate : α → FrameFate) {k : Nat} {f : α} {x : FrameFate}
    (hk : fs[k]? = some f) (hbefore : ∀ j < k, ∀ g, fs[j]? = some g → fate g = .wait) (hf : fate f = x) (hx : x ≠ .wait) :
    indexOf? (fun y => y != FrameFate.wait) (fs.map fate) = some k := by
  obtain ⟨hlt, rfl⟩ := List.getElem?_eq_some_iff.mp hk
  rw [indexOf?_eq_findIdx?, List.findIdx?_eq_some_iff_getElem]
  refine ⟨by simpa using hlt, by simpa [hf] using hx, fun j hj => ?_⟩
  simpa using hbefore j hj _ (List.getElem?_eq_getElem (hj.trans hlt))

section Receive
variable {s : State} {k : Nat}

theorem exec_collChunkReceive (src : FrameSrc) (s : State) : exec (.collChunkReceive src) s = execCollChunkReceive src s := rfl

theorem refuseColl_refused (s : State) : (refuseColl s).obj 0x663004 = (s.obj 0x663004 + 1) % 2 ^ 32 :=
  State.obj_bump_same s 0x663004

/-! ### From a port -/

section Port
variable {p : PortId} {f : RxFrame}

/-- The state once a frame of a port's collective buffer has left it for the die that it names. -/
def collFrameLeft (s : State) (p : PortId) (k : Nat) (f : RxFrame) : State :=
  countPath (takeRx s p 0 k) (portDie p) (dieFin (collHead f.payload).die) (16 + f.payload.length)

theorem raise_fabric (s : State) (n d0 d1 : Nat) : (raise s n d0 d1).fabric = s.fabric :=
  (congrArg State.fabric (raise_withoutEvents s n d0 d1) :)

theorem countPath_fabric (s : State) (a b : DieId) (n : Nat) : (countPath s a b n).fabric = s.fabric := by
  refine State.each_keeps s State.fabric _ _ fun t h => ?_
  unfold countBytes demandOverrun
  dsimp only
  split
  · rfl
  · split
    · rfl
    · split
      · exact (raise_fabric ..).trans rfl
      · rfl

theorem takeRx_rx (hk : (vcAt (s.port p).rx 0)[k]? = some f) :
    vcAt ((takeRx s p 0 k).port p).rx 0 = (vcAt (s.port p).rx 0).eraseIdx k := by
  simp only [takeRx, State.port_modPort_same, hk]
  split <;> simp [vcAt, vcSet]

theorem collFrameLeft_rx (hk : (vcAt (s.port p).rx 0)[k]? = some f) :
    vcAt ((collFrameLeft s p k f).port p).rx 0 = (vcAt (s.port p).rx 0).eraseIdx k := by
  rw [← takeRx_rx hk, collFrameLeft, State.port, countPath_fabric]
  rfl

theorem collFrameLeft_unitView (s : State) (p : PortId) (k : Nat) (f : RxFrame) :
    (collFrameLeft s p k f).unitView = s.unitView := (countPath_unitView ..).trans rfl

variable (hreset : s.life.resetting = false) (hk : (vcAt (s.port p).rx 0)[k]? = some f)
  (hbefore : ∀ j < k, ∀ g, (vcAt (s.port p).rx 0)[j]? = some g → collFate s (collHead g.payload).die g.payload = .wait)
include hreset hk hbefore

theorem collChunkReceive_port_take {i : Nat} (hfate : collFate s (collHead f.payload).die f.payload = .take i) :
    exec (.collChunkReceive (.port p)) s =
      .next (takeFrame (collFrameLeft s p k f) (dieFin (collHead f.payload).die) i f.payload) := by
  have hindex := indexOf?_first_fate (fun g : RxFrame => collFate s (collHead g.payload).die g.payload) hk hbefore hfate (by simp)
  simp [exec_collChunkReceive, execCollChunkReceive, hreset, hindex, hk, hfate, collFrameLeft]

theorem collChunkReceive_port_refuse (hfate : collFate s (collHead f.payload).die f.payload = .refuse) :
    exec (.collChunkReceive (.port p)) s = .next (refuseColl (collFrameLeft s p k f)) := by
  have hindex := indexOf?_first_fate (fun g : RxFrame => collFate s (collHead g.payload).die g.payload) hk hbefore hfate (by simp)
  simp [exec_collChunkReceive, execCollChunkReceive, hreset, hindex, hk, hfate, collFrameLeft]

end Port

/-! ### From another die -/

section Inbox
variable {d : DieId} {f : LocalFrame}

/-- The state once a frame of a die's collective buffer has left it. -/
def inboxFrameLeft (s : State) (d : DieId) (k : Nat) : State := modColl s d fun e => { e with inbox := e.inbox.eraseIdx k }

theorem inboxFrameLeft_inbox (s : State) (d : DieId) (k : Nat) :
    ((inboxFrameLeft s d k).unit d).coll.inbox = (s.unit d).coll.inbox.eraseIdx k :=
  congrArg CollEngine.inbox (modColl_coll ..)

theorem inboxFrameLeft_runs (s : State) (d : DieId) (k : Nat) (e : DieId) :
    ((inboxFrameLeft s d k).unit e).coll.runs = (s.unit e).coll.runs := modColl_runs s d e

variable (hk : (s.unit d).coll.inbox[k]? = some f)
  (hbefore : ∀ j < k, ∀ g, (s.unit d).coll.inbox[j]? = some g → collFate s d.val g.payload = .wait)
include hk hbefore

theorem collChunkReceive_die_take {i : Nat} (hfate : collFate s d.val f.payload = .take i) :
    exec (.collChunkReceive (.die d)) s = .next (takeFrame (inboxFrameLeft s d k) d i f.payload) := by
  have hindex := indexOf?_first_fate (fun g : LocalFrame => collFate s d.val g.payload) hk hbefore hfate (by simp)
  simp [exec_collChunkReceive, execCollChunkReceive, hindex, hk, hfate, inboxFrameLeft]

theorem collChunkReceive_die_refuse (hfate : collFate s d.val f.payload = .refuse) :
    exec (.collChunkReceive (.die d)) s = .next (refuseColl (inboxFrameLeft s d k)) := by
  have hindex := indexOf?_first_fate (fun g : LocalFrame => collFate s d.val g.payload) hk hbefore hfate (by simp)
  simp [exec_collChunkReceive, execCollChunkReceive, hindex, hk, hfate, inboxFrameLeft]

end Inbox
end Receive

end Sys2Proof.Machine
end

section
/-!
Proofs: what sends and arrivals of a collective leave of an earlier phase, and the sum that a reduction forms
(11 R244, R245, R250).
-/
namespace Sys2Proof.Machine

section Phases
variable (s : State) (d : DieId) (i : Nat) {k : Nat}

/-! ## A phase after a change of its collective -/

theorem phaseAt_eq (k : Nat) : phaseAt s d i k = (collRunAt s d i).bind fun r => r.phases[k]? := by
  unfold phaseAt
  cases collRunAt s d i <;> rfl

variable {s d i} in
theorem phaseAt_of_runs {t : State} (h : (t.unit d).coll.runs = (s.unit d).coll.runs) (k : Nat) :
    phaseAt t d i k = phaseAt s d i k := by
  rw [phaseAt_eq, phaseAt_eq, collRunAt, collRunAt, h]

variable {s d i} in
theorem CollsKept.phase {t : State} (h : CollsKept s t) (k : Nat) : phaseAt t d i k = phaseAt s d i k :=
  phaseAt_of_runs (congrArg CollEngine.runs (h.coll d)) k

theorem modRun_phaseAt {f : CollRun → CollRun} (h : ∀ q, (f q).phases = q.phases := by exact fun _ => rfl) :
    phaseAt (modRun s d i f) d i k = phaseAt s d i k := by
  rw [phaseAt_eq, phaseAt_eq, collRunAt_modRun_same]
  cases collRunAt s d i
  · rfl
  · exact congrArg (·[k]?) (h _)

theorem modPhase_phaseAt_same (f : CollPhase → CollPhase) : phaseAt (modPhase s d i k f) d i k = (phaseAt s d i k).map f := by
  rw [phaseAt_eq, phaseAt_eq, modPhase, collRunAt_modRun_same]
  cases collRunAt s d i
  · rfl
  · exact getElem?_modAt_same ..

theorem modPhase_phaseAt_ne {k' : Nat} (h : k ≠ k') (f : CollPhase → CollPhase) :
    phaseAt (modPhase s d i k' f) d i k = phaseAt s d i k := by
  rw [phaseAt_eq, phaseAt_eq, modPhase, collRunAt_modRun_same]
  cases collRunAt s d i
  · rfl
  · exact getElem?_modAt_ne _ f h

theorem State.each_phaseAt {α : Type} (l : List α) {f : State → α → State}
    (h : ∀ t a, phaseAt (f t a) d i k = phaseAt t d i k) :
    phaseAt (s.each l f) d i k = phaseAt s d i k := State.each_keeps s (fun t => phaseAt t d i k) l f h

/-! ## Sends (11 R482) -/

theorem queueFrame_units {s t : State} {d : DieId} {vc j : Nat} {f : OutFrame} (h : queueFrame s d vc j f = some t) (e : DieId) :
    t.unit e = s.unit e := by
  unfold queueFrame at h
  split at h
  · contradiction
  · obtain rfl := Option.some.inj h
    exact unit_of_unitView (countPath_unitView s ..) e

theorem unroutable_units (dest : Nat) (e : DieId) : (unroutable s d dest).unit e = s.unit e :=
  unit_of_unitView (raiseOn_unitView (s.bump 0x663005) ..) e

/-- A frame sent stands in a buffer or a queue at most. -/
theorem sendPiece_runs (r : CollRun) (t : CollDest) (j offset : Nat) (data : List Byte) (poison : Bool) (e : DieId) :
    ((sendPiece s d r t j offset data poison).1.unit e).coll.runs = (s.unit e).coll.runs := by
  unfold sendPiece
  dsimp only
  split
  · exact (modColl_runs _ _ e).trans (congrArg (·.coll.runs) (unit_of_unitView (countPath_unitView s ..) e))
  · split
    · rename_i hqueued
      rw [queueFrame_units hqueued]
    · rw [unroutable_units]

theorem sendChunk_runs (r : CollRun) (t : CollDest) (at' off : Nat) (bs : List (Option Byte)) (e : DieId) :
    ((sendChunk s d r t at' off bs).1.unit e).coll.runs = (s.unit e).coll.runs := by
  unfold sendChunk
  split
  · refine (foldl_keeps (fun o : State × Bool => (o.1.unit e).coll.runs) _ _ _ fun o p => ?_).trans rfl
    exact sendPiece_runs ..
  · refine foldl_keeps (fun o : State × Bool => (o.1.unit e).coll.runs) _ _ _ fun o p => ?_
    exact sendPiece_runs ..

theorem failSegs_phaseAt (code : Nat) (sel : Nat → Bool) : phaseAt (failSegs s d i code sel) d i k = phaseAt s d i k := by
  unfold failSegs
  split
  · rfl
  · exact (modRun_phaseAt _ d i).trans ((CollsKept.each s _ fun t k => poisonDst_collsKept t ..).phase k)

theorem chunkLost_phaseAt (lo hi : Nat) : phaseAt (chunkLost s d i lo hi) d i k = phaseAt s d i k := by
  unfold chunkLost
  split
  · rfl
  · exact ((raiseFlags_collsKept _ _).phase k).trans
      ((modRun_phaseAt _ d i).trans (failSegs_phaseAt s d i 3 _))

theorem sendOrLose_phaseAt (t : CollDest) (at' off : Nat) (bs : List (Option Byte)) :
    phaseAt (sendOrLose s d i t at' off bs) d i k = phaseAt s d i k := by
  unfold sendOrLose
  split
  · rfl
  · rename_i r _
    have hsent : phaseAt (sendChunk s d r t at' off bs).1 d i k = phaseAt s d i k :=
      phaseAt_of_runs (sendChunk_runs s d r t at' off bs d) k
    dsimp only
    split
    · exact hsent
    · exact (chunkLost_phaseAt _ d i _ _).trans hsent

theorem sendReady_phaseAt {k' : Nat} (h : k ≠ k') : phaseAt (sendReady s d i k') d i k = phaseAt s d i k := by
  unfold sendReady
  split
  · rfl
  · split
    · rfl
    · exact (State.each_phaseAt _ d i _ fun t u => sendOrLose_phaseAt t ..).trans (modPhase_phaseAt_ne s d i h _)

/-! ## Results that go on to later phases (11 R245, R246) -/

theorem writeDst_phaseAt (off : Nat) (bs : List (Option Byte)) : phaseAt (writeDst s d i off bs) d i k = phaseAt s d i k := by
  unfold writeDst
  split
  · rfl
  · dsimp only
    split
    · exact (failSegs_phaseAt _ d i 4 _).trans ((trapCore_collsKept s ..).phase k)
    · exact (modRun_phaseAt _ d i).trans ((storeOpt_collsKept s ..).phase k)

theorem gatherHere_phaseAt (n : Nat) {k' : Nat} (off : Nat) (bs : List (Option Byte)) (h : k < k') :
    phaseAt (gatherHere n s d i k' off bs) d i k = phaseAt s d i k := by
  induction n generalizing s k' off with
  | zero => rfl
  | succ n ih =>
    unfold gatherHere
    split
    · rfl
    · exact (ih _ _ (h.trans (Nat.lt_succ_self k'))).trans
        ((sendReady_phaseAt _ d i h.ne).trans (modPhase_phaseAt_ne s d i h.ne _))

theorem sumsHere_phaseAt {k' : Nat} (lo : Nat) (vs : List (Option F32)) (h : k < k') :
    phaseAt (sumsHere s d i k' lo vs) d i k = phaseAt s d i k := by
  have hmissed (t : State) (p : Bool) (sel : Nat → Bool) :
      phaseAt (if p then failSegs t d i 2 sel else t) d i k = phaseAt t d i k := by
    split
    · exact failSegs_phaseAt t d i 2 sel
    · rfl
  unfold sumsHere
  split
  · rfl
  · dsimp only
    split
    · exact (gatherHere_phaseAt _ d i _ _ _ h).trans (modRun_phaseAt s d i)
    · split
      · exact (modRun_phaseAt _ d i).trans (hmissed ..)
      · exact (gatherHere_phaseAt _ d i _ _ _ h).trans ((writeDst_phaseAt _ d i _ _).trans
          ((hmissed ..).trans (modRun_phaseAt s d i)))

theorem reduceHere_phaseAt (n : Nat) {k' : Nat} (lo : Nat) (vs : List (Option F32)) (h : k < k') :
    phaseAt (reduceHere n s d i k' lo vs) d i k = phaseAt s d i k := by
  induction n generalizing s k' lo with
  | zero => rfl
  | succ n ih =>
    unfold reduceHere
    split
    · exact sumsHere_phaseAt s d i lo vs h
    · split
      · exact sumsHere_phaseAt s d i lo vs h
      · dsimp only
        split
        · exact (ih _ _ (h.trans (Nat.lt_succ_self k'))).trans (modPhase_phaseAt_ne s d i h.ne _)
        · exact (sendReady_phaseAt _ d i h.ne).trans (modPhase_phaseAt_ne s d i h.ne _)

end Phases

/-! ## The sum (11 R244) -/

theorem optVals_length (fmt n : Nat) (bs : List (Option Byte)) : (optVals fmt n bs).length = n := by
  induction n generalizing bs with
  | zero => rfl
  | succ n ih => rw [optVals, List.length_cons, ih]

/-- A list whose elements from `lo` on are combined with those of another, element by element. -/
def spliceWith {α : Type} (f : α → α → α) (xs ys : List α) (lo : Nat) : List α :=
  ys.take lo ++ List.zipWith f xs ((ys.drop lo).take xs.length) ++ ys.drop (lo + xs.length)

section Splice
variable {α : Type} (f : α → α → α) {xs ys : List α} {lo : Nat} (h : lo + xs.length ≤ ys.length)
include h

theorem length_spliceWith : (spliceWith f xs ys lo).length = ys.length := by
  simp only [spliceWith, List.length_append, List.length_take, List.length_zipWith, List.length_drop]
  omega

theorem getElem?_spliceWith (a : α) (e : Nat) : (spliceWith f xs ys lo)[e]? =
    if lo ≤ e ∧ e < lo + xs.length then some (f (xs.getD (e - lo) a) (ys.getD e a)) else ys[e]? := by
  have htake : (ys.take lo).length = lo := by rw [List.length_take]; omega
  have hzip : (List.zipWith f xs ((ys.drop lo).take xs.length)).length = xs.length := by
    simp only [List.length_zipWith, List.length_take, List.length_drop]
    omega
  rw [spliceWith]
  by_cases hlo : e < lo
  · rw [if_neg (by omega), List.append_assoc, List.getElem?_append_left (by omega), List.getElem?_take_of_lt hlo]
  by_cases hhi : e < lo + xs.length
  · rw [if_pos ⟨by omega, hhi⟩, List.getElem?_append_left (by rw [List.length_append]; omega),
      List.getElem?_append_right (by omega), htake]
    have hx : e - lo < xs.length := by omega
    have hy : e < ys.length := by omega
    have hsub : lo + (e - lo) = e := by omega
    simp [List.getElem?_zipWith, hx, hy, hsub]
  · rw [if_neg (by omega), List.getElem?_append_right (by rw [List.length_append]; omega), List.length_append, htake, hzip,
      List.getElem?_drop]
    congr 1
    omega

end Splice

theorem partHere_phaseAt {s : State} {d : DieId} {i k : Nat} {p : CollPhase} (hp : phaseAt s d i k = some p) (t off n : Nat) :
    ∃ due, phaseAt (partHere s d i k t off n) d i k = some { p with due := due } :=
  ⟨_, by rw [partHere, modPhase_phaseAt_same, hp, Option.map_some]⟩

/-- The values of a phase once data of a ring step has arrived: the incoming ones, from element `lo`, plus its own. -/
theorem takeReduce_vals {s : State} {d : DieId} {i k : Nat} {p : CollPhase} (hp : phaseAt s d i k = some p) (step off : Nat)
    (bs : List (Option Byte)) {lo : Nat}
    (hlo : lo = chunkLo p.size p.n (reduceChunk p.n p.rank (step - p.step0 + 1)) + off / collFmtBytes p.wire) :
    ∃ q, phaseAt (takeReduce s d i k p step off bs) d i k = some q ∧
      q.vals = spliceWith addOpt (optVals p.wire (bs.length / collFmtBytes p.wire) bs) p.vals lo := by
  subst hlo
  obtain ⟨due, hdue⟩ := partHere_phaseAt hp (step - p.step0) off bs.length
  unfold takeReduce
  split
  · rename_i hnone
    rw [phaseAt_eq, hnone] at hp
    contradiction
  · extract_lets w t j lo vs sum s1
    have h1 : phaseAt s1 d i k = some { p with due := due, vals := spliceWith addOpt vs p.vals lo } := by
      unfold s1
      rw [modPhase_phaseAt_same, hdue]
      rfl
    refine ⟨{ p with due := due, vals := spliceWith addOpt vs p.vals lo }, ?_, rfl⟩
    split
    · exact (sendOrLose_phaseAt _ d i _ _ _ _).trans h1
    · exact (reduceHere_phaseAt _ d i _ _ _ (Nat.lt_succ_self k)).trans h1

/-- Settles O52: reading a map and halting one of a pair reach no other collective, a frame leaves its buffer before it is taken
or refused, and what a sum is passed on to are later phases. -/
theorem collectivesAreAcceptedReducedAndCompleted : Obligations.CollectivesAreAcceptedReducedAndCompleted := by
  refine ⟨fun d c q b s m hroom hnext hop hwaits hm => ?_,
    fun p k f s hreset hk hbefore => ⟨fun hfate => ?_, fun i hfate => ?_⟩,
    fun d k pl src i s hk hbefore => ⟨fun hfate => ?_, fun hfate => ?_⟩,
    fun d i k step off p bs s lo n hp hn hlo hfits => ?_, fun d slot lost r s hrun hended => ?_⟩
  · have hslot : (s.unit d).coll.runs.length = (m.2.unit d).coll.runs.length := by rw [(acceptMap_collsKept hm).coll]
    refine ⟨acceptColl m.2 d c q b m.1, congrArg CollEngine.runs (acceptColl_coll m.1),
      congrArg CollEngine.last (acceptColl_coll m.1), rfl, rfl, modEntry_queue_same ..,
      collAccept_begins hroom hnext hop hwaits hm, fun hpair => ?_⟩
    exact ⟨_, collAccept_ends hroom hnext hop hwaits hm hpair, rfl, endColl_of_pair m.2 d c q b m.1 (hslot ▸ rfl)⟩
  · have hview := collFrameLeft_unitView s p k f
    refine ⟨_, collChunkReceive_port_refuse hreset hk hbefore hfate, ?_, collFrameLeft_rx hk, fun d => ?_⟩
    · rw [refuseColl_refused, obj_of_unitView hview (by decide)]
    · exact congrArg (·.coll.runs) (unit_of_unitView hview d)
  · exact ⟨_, collChunkReceive_port_take hreset hk hbefore hfate, collFrameLeft_rx hk, fun d =>
      congrArg DieUnits.coll (unit_of_unitView (collFrameLeft_unitView s p k f) d)⟩
  · exact collChunkReceive_die_take hk hbefore hfate
  · exact ⟨_, collChunkReceive_die_refuse hk hbefore hfate, refuseColl_refused _, inboxFrameLeft_inbox s d k,
      inboxFrameLeft_runs s d k⟩
  · obtain ⟨r, hr, hvals⟩ := takeReduce_vals hp step off bs hlo
    have hlen := optVals_length p.wire (bs.length / collFmtBytes p.wire) bs
    rw [← hn] at hlen hvals
    have hbound : lo + (optVals p.wire n bs).length ≤ p.vals.length := by rwa [hlen]
    refine ⟨r, hr, hvals ▸ length_spliceWith addOpt hbound, fun e => ?_⟩
    rw [hvals, getElem?_spliceWith addOpt hbound none, hlen]
    rfl
  · obtain ⟨hruns, hcompleted, hdone⟩ := completeColl_left s d slot.val r
    exact ⟨_, collComplete_of_ended lost hrun hended, hruns, hcompleted, hdone⟩

end Sys2Proof.Machine
end

section
/-!
Proofs: the exchanges of the dies: how they are accepted, their frames, and how they end (12 R256, R257, R266 to R278).
-/
namespace Sys2Proof.Machine

/-! ## What leaves the exchanges of a die as they are -/

section Units
variable (s : State)

theorem trapCore_unitView (c : CoreId) (t : TrapInfo) (queue pc : Nat) : (trapCore s c t queue pc).unitView = s.unitView :=
  ite_unitView (State.bump_unitView s (by decide)) rfl

theorem raiseFlags_unitView (bits : Nat) : (raiseFlags s bits).unitView = s.unitView := rfl
theorem raiseFlags_obj (bits key : Nat) : (raiseFlags s bits).obj key = s.obj key := rfl

theorem storeOpt_unitView (c : CoreId) (seg off : Nat) (bs : List (Option Byte)) :
    (storeOpt s c seg off bs).unitView = s.unitView :=
  ite_unitView rfl ((poisonRuns_unitView ..).trans (moverStore_unitView ..))

theorem exchStore_unitView (c : CoreId) (l : Nat × Nat) (o : Nat) (bs : List Byte) :
    (exchStore s c l o bs).unitView = s.unitView := moverStore_unitView ..

theorem exchWrite_unitView (c : CoreId) (r : ExchRun) (l : Nat × Nat) (bs : List (Option Byte)) :
    (exchWrite s c r l bs).1.unitView = s.unitView := by
  unfold exchWrite
  split
  · exact trapCore_unitView s ..
  · exact storeOpt_unitView s ..

/-- The count of the rows written in poison form is not among the exchanges. -/
theorem exchRow_units (c : CoreId) (r : ExchRun) (l : Nat × Nat) (bs : List (Option Byte)) :
    (exchRow s c r l bs).1.units = s.units :=
  (State.when_keeps _ State.units _ _ rfl).trans (congrArg UnitView.units (exchWrite_unitView ..))

end Units

@[simp] theorem modSkein_skein (s : State) (d : DieId) (f : SkeinUnit → SkeinUnit) :
    ((modSkein s d f).unit d).skein = f (s.unit d).skein :=
  congrArg DieUnits.skein (State.unit_modUnit_same s d _)

@[simp] theorem modExch_runs (s : State) (d : DieId) (i : Nat) (f : ExchRun → ExchRun) :
    ((modExch s d i f).unit d).skein.runs = modAt (s.unit d).skein.runs i f := by
  simp [modExch]

/-! ## Work on one exchange -/

/-- Which queue entry an exchange came from: its core and its place in program order. -/
def ExchRun.source (r : ExchRun) : Nat × Nat := (r.core, r.seq)

/-- Of the exchanges of a die at most the one in slot `i` has changed, and that one came from the queue entry it came from. -/
structure SlotOnly (d : DieId) (i : Nat) (s t : State) : Prop where
  others : (t.unit d).skein.runs.eraseIdx i = (s.unit d).skein.runs.eraseIdx i
  source : (exchAt t d i).map ExchRun.source = (exchAt s d i).map ExchRun.source

section SlotOnly
variable {d : DieId} {i : Nat} {s t u : State}

theorem SlotOnly.ofUnits (h : t.units = s.units) : SlotOnly d i s t := by
  have hunit : t.unit d = s.unit d := congrArg (·[d]) h
  exact ⟨by rw [hunit], by rw [exchAt, hunit, exchAt]⟩

/-- What an access to memory leaves. -/
theorem SlotOnly.ofUnitView (h : t.unitView = s.unitView) : SlotOnly d i s t := .ofUnits (congrArg UnitView.units h)

theorem SlotOnly.trans (h : SlotOnly d i s t) (k : SlotOnly d i t u) : SlotOnly d i s u :=
  ⟨k.others.trans h.others, k.source.trans h.source⟩

theorem SlotOnly.ite {p : Prop} {_ : Decidable p} (h : SlotOnly d i s t) (k : SlotOnly d i s u) :
    SlotOnly d i s (if p then t else u) := by
  split
  · exact h
  · exact k

theorem SlotOnly.each {α : Type} (l : List α) {f : State → α → State} (h : ∀ t a, SlotOnly d i t (f t a)) :
    SlotOnly d i s (s.each l f) :=
  State.each_invariant (I := SlotOnly d i s) l (fun t a k => k.trans (h t a)) (.ofUnits rfl)

theorem SlotOnly.ofModExch {f : ExchRun → ExchRun} (h : ∀ r, (f r).source = r.source) : SlotOnly d i s (modExch s d i f) where
  others := by rw [modExch_runs, eraseIdx_modAt_same]
  source := by
    rw [exchAt, modExch_runs, getElem?_modAt_same, Option.map_map, exchAt]
    exact congrArg (Option.map · _) (funext h)

theorem SlotOnly.ofWithExch {f : ExchRun → ExchDesc → State} (h : ∀ r x, SlotOnly d i s (f r x)) :
    SlotOnly d i s (withExch s d i f) := by
  unfold withExch
  split
  · exact .ofUnits rfl
  · exact h ..

/-- The exchange that stands in the slot afterwards. -/
theorem SlotOnly.run {r : ExchRun} (h : SlotOnly d i s t) (hr : exchAt s d i = some r) :
    ∃ q, exchAt t d i = some q ∧ q.core = r.core ∧ q.seq = r.seq := by
  have hsource := h.source
  rw [hr, Option.map_some, Option.map_eq_some_iff] at hsource
  obtain ⟨q, hq, hqr⟩ := hsource
  obtain ⟨hcore, hseq⟩ := Prod.mk.inj hqr
  exact ⟨q, hq, hcore, hseq⟩

end SlotOnly

section Halt
variable (s : State) (d : DieId) (i : Nat)

theorem updateFill_slotOnly (e : Nat) : SlotOnly d i s (updateFill s d i e) :=
  .ofWithExch fun _ _ => .ite (.ofUnits rfl) (.ofUnitView (exchStore_unitView ..))

theorem failRow_slotOnly (e row code : Nat) : SlotOnly d i s (failRow s d i e row code) := by
  refine .ofWithExch fun r x => ?_
  extract_lets buf s1 s2
  have h1 : SlotOnly d i s s1 := .ofModExch fun _ => rfl
  have h2 : SlotOnly d i s1 s2 := .ite (.ofUnits (exchRow_units ..)) (.ofUnits rfl)
  exact (h1.trans h2).trans (updateFill_slotOnly ..)

theorem haltExch_slotOnly (dup : Bool) : SlotOnly d i s (haltExch s d i dup) := by
  refine SlotOnly.trans (.ofWithExch fun r x => ?_) (.ofModExch fun _ => rfl)
  extract_lets a b
  have ha : SlotOnly d i s a := .each _ fun t w => failRow_slotOnly ..
  have hb : SlotOnly d i a b := .each _ fun t k => .ofUnits (exchRow_units ..)
  exact (ha.trans hb).trans (.ofModExch fun _ => rfl)

theorem openRun_slotOnly (dup : Bool) : SlotOnly d i s (openRun s d i dup) := .ofWithExch fun _ _ => .ofModExch fun _ => rfl

end Halt

/-! ## An exchange that ends (12 R276) -/

/-- The exchange in slot `i` of a die has left its unit: the others keep their order, it is counted, and its queue entry is done. -/
structure ExchLeft (s : State) (d : DieId) (i : Nat) (r : ExchRun) (t : State) : Prop where
  runs : (t.unit d).skein.runs = (s.unit d).skein.runs.eraseIdx i
  completed : t.obj 0x662001 = (s.obj 0x662001 + 1) % 2 ^ 64
  done : ∀ y ∈ (t.core (coreFin r.core)).queue 8, y.seq = r.seq → y.done = 1

theorem finishExch_left (s : State) (d : DieId) (i : Nat) (r : ExchRun) : ExchLeft s d i r (finishExch s d i r) := by
  unfold finishExch
  extract_lets x c codes bad status rec' s1 s2 s3 s4
  have h1 : s1.unitView = s.unitView := by
    refine ite_unitView ?_ rfl
    split
    · exact trapCore_unitView s ..
    · exact moverPut_unitView s ..
  have h2 : s2.units = (s1.bump 0x662001).units := State.when_keeps _ State.units _ _ rfl
  have hcount : s2.obj 0x662001 = (s1.bump 0x662001).obj 0x662001 :=
    State.when_keeps _ (·.obj 0x662001) _ _ ((raiseFlags_obj ..).trans (State.obj_bump_ne _ (by decide)))
  have h3 : s3.unitView = s2.unitView := by
    refine State.when_unitView _ _ _ ((State.when_unitView _ _ _ ?_).trans (State.bump_unitView s2 (by decide)))
    rw [raiseFlags_unitView, State.bump_unitView _ (by decide)]
  have hunit : s3.unit d = s.unit d :=
    calc s3.unit d = s2.unit d := unit_of_unitView h3 d
      _ = s1.unit d := congrArg (fun units : Vector DieUnits 8 => units[d]) h2
      _ = s.unit d := unit_of_unitView h1 d
  refine ⟨?_, ?_, fun y hy hseq => modEntry_done _ _ _ _ hy hseq⟩
  · calc (s4.unit d).skein.runs = (s3.unit d).skein.runs.eraseIdx i := by rw [modSkein_skein]
      _ = (s.unit d).skein.runs.eraseIdx i := by rw [hunit]
  · calc s3.obj 0x662001 = s2.obj 0x662001 := obj_of_unitView h3 (by decide)
      _ = (s1.obj 0x662001 + 1) % 2 ^ objWidth 0x662001 := hcount.trans (State.obj_bump_same ..)
      _ = (s.obj 0x662001 + 1) % 2 ^ 64 := by rw [obj_of_unitView h1 (by decide)]; rfl

theorem endAtOnce_eq {s : State} {d : DieId} {i : Nat} {r : ExchRun} (h : exchAt s d i = some r) :
    endAtOnce s d i = finishExch s d i r := by
  simp only [endAtOnce, h]

theorem exec_exchComplete (d : DieId) (slot : Fin 8) (lost : Bool) (s : State) :
    exec (.exchComplete d slot lost) s = execExchComplete d slot lost s := rfl

theorem exchComplete_of_ended {s : State} {d : DieId} {slot : Fin 8} {r : ExchRun} (lost : Bool)
    (h : exchAt s d slot.val = some r) (hended : exchEnded s d r = true) :
    exec (.exchComplete d slot lost) s = .next (finishExch s d slot.val r) := by
  simp only [exec_exchComplete, execExchComplete, h, hended, if_true]

theorem exec_dispatchFinish (d : DieId) (slot : Fin 8) (s : State) :
    exec (.dispatchFinish d slot) s = execDispatchFinish d slot s := rfl

theorem dispatchFinish_of_done {s : State} {d : DieId} {slot : Fin 8} {r : ExchRun}
    (h : exchAt s d slot.val = some r) (hdone : dispatchDone s d r = true) :
    exec (.dispatchFinish d slot) s = .next (modExch s d slot.val fun q => { q with finished := true }) := by
  simp only [exec_dispatchFinish, execDispatchFinish, h, hdone, if_true]

/-! ## An exchange that is accepted (12 R256, R257) -/

/-- The exchange that a core's queue entry asks for, accepted. -/
def acceptExch (s : State) (d : DieId) (c : CoreId) (q : QInst) (b : List Byte) : State :=
  modSkein (modEntry s c 8 q.seq fun y => { y with accepted := true }) d fun e =>
    { e with runs := e.runs ++ [freshExch c q b], last := c.val % 4 }

/-- Is another exchange of the same frame and ID, neither a ROUTE, in progress on the die (12 R257). -/
def exchRepeats (s : State) (d : DieId) (q : QInst) (b : List Byte) : Bool :=
  (exchOf b).op != 0 && (s.unit d).skein.runs.any fun y =>
    y.frame == q.frame % 2 ^ 32 && y.id == (exchOf b).id && (exchOf y.desc).op != 0

/-- What ends one of a pair as it is accepted. -/
def endRepeated (s : State) (d : DieId) (i : Nat) : State :=
  endAtOnce (raiseFlags (haltExch (openRun s d i true) d i true) flagExchange) d i

theorem exec_exchAccept (d : DieId) (s : State) : exec (.exchAccept d) s = execExchAccept d s := rfl

section Accept
variable {s : State} {d : DieId} {c : CoreId} {q : QInst} {b : List Byte}

theorem acceptExch_skein : ((acceptExch s d c q b).unit d).skein =
    { (s.unit d).skein with runs := (s.unit d).skein.runs ++ [freshExch c q b], last := c.val % 4 } :=
  modSkein_skein ..

theorem acceptExch_exchAt : exchAt (acceptExch s d c q b) d (s.unit d).skein.runs.length = some (freshExch c q b) := by
  simp [exchAt, acceptExch_skein]

variable (hroom : (s.unit d).skein.runs.length < 8) (hnext : acceptCore s d 8 (s.unit d).skein.last = some (c, q))
  (hop : q.op = .exch b) (hwaits : exchWaits s c q b = false)
include hroom hnext hop hwaits

theorem exchAccept_begins (hfirst : exchRepeats s d q b = false) (hfaulted : s.faulted = none) :
    exec (.exchAccept d) s = .next (beginExch (acceptExch s d c q b) d (s.unit d).skein.runs.length) := by
  rw [exec_exchAccept]
  unfold exchRepeats at hfirst
  simp only [execExchAccept, if_neg (Nat.not_le.mpr hroom), hnext, hop, hwaits, Bool.false_eq_true, if_false, freshExch, hfirst,
    hfaulted]
  rfl

theorem exchAccept_ends (hpair : exchRepeats s d q b = true) :
    exec (.exchAccept d) s = .next (endRepeated (acceptExch s d c q b) d (s.unit d).skein.runs.length) := by
  rw [exec_exchAccept]
  unfold exchRepeats at hpair
  simp only [execExchAccept, if_neg (Nat.not_le.mpr hroom), hnext, hop, hwaits, Bool.false_eq_true, if_false, freshExch, hpair,
    if_true]
  rfl

end Accept

/-- One of a pair in progress stands last, and only until it is halted: what then ends it leaves the others in order, and its
queue entry is done (12 R257). -/
theorem endRepeated_accepted (s : State) (d : DieId) (c : CoreId) (q : QInst) (b : List Byte) {u : State}
    (hu : u = endRepeated (acceptExch s d c q b) d (s.unit d).skein.runs.length) :
    (u.unit d).skein.runs = (s.unit d).skein.runs ∧ ∀ i ∈ (u.core c).queue 8, i.seq = q.seq → i.done = 1 := by
  have hhalt := ((openRun_slotOnly (acceptExch s d c q b) d (s.unit d).skein.runs.length true).trans
    (haltExch_slotOnly _ _ _ true)).trans (.ofUnitView (raiseFlags_unitView (haltExch ..) flagExchange))
  obtain ⟨r, hr, hcore, hseq⟩ := hhalt.run acceptExch_exchAt
  rw [endRepeated, endAtOnce_eq hr] at hu
  obtain ⟨hruns, -, hdone⟩ := hu ▸ finishExch_left ..
  have hc : coreFin r.core = c := by rw [hcore]; exact Fin.ext (Nat.mod_eq_of_lt c.isLt)
  rw [hc, hseq] at hdone
  refine ⟨?_, hdone⟩
  rw [hruns, hhalt.others, acceptExch_skein, List.eraseIdx_append_of_length_le le_rfl]
  simp

/-! ## Frames (12 R275) -/

/-- The first element of a list that a test holds of. -/
theorem indexOf?_first {α : Type} {p : α → Bool} {l : List α} {k : Nat} {x : α} (hk : l[k]? = some x) (hx : p x = true)
    (hbefore : ∀ j < k, ∀ y, l[j]? = some y → p y = false) : indexOf? p l = some k := by
  obtain ⟨hlt, rfl⟩ := List.getElem?_eq_some_iff.mp hk
  rw [indexOf?_eq_findIdx?, List.findIdx?_eq_some_iff_getElem]
  refine ⟨hlt, hx, fun j hj => ?_⟩
  rw [hbefore j hj _ (List.getElem?_eq_getElem (hj.trans hlt))]
  exact Bool.false_ne_true

@[simp] theorem vcAt_vcSet_same {α : Type} (x : Vector α 3) (v : Nat) (a : α) : vcAt (vcSet x v a) v = a := by
  simp [vcAt, vcSet]

/-- The command that takes frames of a kind from a port's buffer. -/
def exchReceiver (p : PortId) : Fin 4 → Instr
  | 0 => .manifestReceive p
  | 1 => .grantReceive p
  | 2 => .rowReceive p
  | 3 => .returnReceive p

theorem exec_exchReceiver (p : PortId) (kind : Fin 4) (s : State) :
    exec (exchReceiver p kind) s = .next (receiveExch s p kind.val) := by
  match kind with
  | 0 | 1 | 2 | 3 => rfl

theorem eq_exchReceiver {p : PortId} {kind : Fin 4} {c : Instr}
    (h : (kind, c) ∈ [(0, Instr.manifestReceive p), (1, Instr.grantReceive p), (2, Instr.rowReceive p),
      (3, Instr.returnReceive p)]) : c = exchReceiver p kind := by
  simp only [List.mem_cons, Prod.mk.injEq, List.not_mem_nil, or_false] at h
  obtain ⟨rfl, rfl⟩ | ⟨rfl, rfl⟩ | ⟨rfl, rfl⟩ | ⟨rfl, rfl⟩ := h <;> rfl

section Receive
variable {s : State} {p : PortId} {k : Nat} {f : RxFrame}

theorem takeRx_rx_same {vc : Nat} (hk : (vcAt (s.port p).rx vc)[k]? = some f) :
    vcAt ((takeRx s p vc k).port p).rx vc = (vcAt (s.port p).rx vc).eraseIdx k := by
  simp only [takeRx, State.port_modPort_same, hk]
  split <;> exact vcAt_vcSet_same ..

/-- The state once a frame of a port's exchange buffer has left it for a die. -/
def exchFrameLeft (s : State) (p : PortId) (k : Nat) (d : DieId) (f : RxFrame) : State :=
  countPath (takeRx s p 1 k) (portDie p) d (16 + f.payload.length)

/-- The state once a frame of a port's exchange buffer has been refused. -/
def exchFrameRefused (s : State) (p : PortId) (k : Nat) : State :=
  raiseFlags ((takeRx s p 1 k).bump 0x662008) flagExchange

theorem exchFrameLeft_rx (d : DieId) (hk : (vcAt (s.port p).rx 1)[k]? = some f) :
    vcAt ((exchFrameLeft s p k d f).port p).rx 1 = (vcAt (s.port p).rx 1).eraseIdx k := by
  rw [← takeRx_rx_same hk, exchFrameLeft, State.port, countPath_fabric]
  rfl

theorem exchFrameLeft_unitView (s : State) (p : PortId) (k : Nat) (d : DieId) (f : RxFrame) :
    (exchFrameLeft s p k d f).unitView = s.unitView := (countPath_unitView ..).trans rfl

theorem exchFrameRefused_counted (s : State) (p : PortId) (k : Nat) :
    (exchFrameRefused s p k).obj 0x662008 = (s.obj 0x662008 + 1) % 2 ^ 32 :=
  State.obj_bump_same (takeRx s p 1 k) 0x662008

variable {kind : Nat} (hreset : s.life.resetting = false) (hk : (vcAt (s.port p).rx 1)[k]? = some f)
  (hkind : (exchHead f.payload).kind = kind)
  (hbefore : ∀ j < k, ∀ g, (vcAt (s.port p).rx 1)[j]? = some g → (exchHead g.payload).kind ≠ kind ∨ exchFate s g.payload = none)
include hk hkind hbefore

/-- A frame that need not wait is its buffer's first of its kind. -/
theorem indexOf?_exchFrame {x : Option (DieId × Nat)} (hfate : exchFate s f.payload = some x) :
    indexOf? (fun g : RxFrame => (exchHead g.payload).kind == kind && (exchFate s g.payload).isSome) (vcAt (s.port p).rx 1) =
      some k := by
  refine indexOf?_first hk (by simp [hkind, hfate]) fun j hj g hg => ?_
  obtain hne | hwaits := hbefore j hj g hg
  · rw [beq_false_of_ne hne, Bool.false_and]
  · rw [hwaits, Option.isSome_none, Bool.and_false]

include hreset

theorem receiveExch_refuse (hfate : exchFate s f.payload = some none) : receiveExch s p kind = exchFrameRefused s p k := by
  simp [receiveExch, hreset, indexOf?_exchFrame hk hkind hbefore hfate, hk, hfate, exchFrameRefused]

theorem receiveExch_take {d : DieId} {i : Nat} (hfate : exchFate s f.payload = some (some (d, i))) :
    receiveExch s p kind = takeExch (exchFrameLeft s p k d f) d i f.payload := by
  simp [receiveExch, hreset, indexOf?_exchFrame hk hkind hbefore hfate, hk, hfate, exchFrameLeft]

end Receive

/-- Settles O53: halting one of a pair reaches no other exchange, the four commands that take frames are one per kind, and what a
record's writing can do leaves the exchanges and their count. -/
theorem exchangesAreAcceptedFedAndCompleted : Obligations.ExchangesAreAcceptedFedAndCompleted := by
  refine ⟨fun d c q b dup s hroom hnext hop hwaits hdup => ?_,
    fun p kind k f c s hc hreset hk hkind hbefore => ?_,
    fun d slot r s hrun hdone => dispatchFinish_of_done hrun hdone,
    fun d slot lost r s hrun hended => ?_⟩
  · refine ⟨acceptExch s d c q b, congrArg SkeinUnit.runs acceptExch_skein, congrArg SkeinUnit.last acceptExch_skein, rfl, rfl,
      modEntry_queue_same .., fun hfirst => exchAccept_begins hroom hnext hop hwaits (hdup.symm.trans hfirst),
      fun hpair => ?_⟩
    exact ⟨_, exchAccept_ends hroom hnext hop hwaits (hdup.symm.trans hpair), rfl, endRepeated_accepted s d c q b rfl⟩
  · rw [eq_exchReceiver hc, exec_exchReceiver]
    refine ⟨fun hfate => ?_, fun d i hfate => ?_⟩
    · exact ⟨_, congrArg _ (receiveExch_refuse hreset hk hkind hbefore hfate), exchFrameRefused_counted s p k,
        takeRx_rx_same hk, fun _ => rfl⟩
    · exact ⟨_, congrArg _ (receiveExch_take hreset hk hkind hbefore hfate), exchFrameLeft_rx d hk, fun e =>
        congrArg DieUnits.skein (unit_of_unitView (exchFrameLeft_unitView s p k d f) e)⟩
  · obtain ⟨hruns, hcompleted, hdone⟩ := finishExch_left s d slot.val r
    exact ⟨_, exchComplete_of_ended lost hrun hended, hruns, hcompleted, hdone⟩

end Sys2Proof.Machine
end

section
/-!
Proofs: what events, failures and accesses to memory leave of the host interface (09 R194 to R203, 15 R340 to R348).
-/
namespace Sys2Proof.Machine

/-! ## The host interface beside its events -/

/-- The host interface with its event rings and pending vectors put aside: its queues, their order and the export in progress
among the rest. -/
def State.hostView (s : State) : HostIf := s.withoutEvents.host

theorem queue_of_hostView {s t : State} (h : t.hostView = s.hostView) (q : Fin 64) : t.queue q = s.queue q :=
  (congrArg (fun v : HostIf => v.queues[q]) h :)

theorem cmd_of_hostView {s t : State} (h : t.hostView = s.hostView) {q : Fin 64} {c : HostCmd}
    (hcmd : (s.queue q).cmd = some c) : (t.queue q).cmd = some c := by
  rw [queue_of_hostView h, hcmd]

theorem job_of_hostView {s t : State} (h : t.hostView = s.hostView) : t.host.job = s.host.job :=
  (congrArg HostIf.job h :)

theorem hostView_of_withoutEvents {s t : State} (h : t.withoutEvents = s.withoutEvents) : t.hostView = s.hostView :=
  congrArg State.host h

theorem hostView_of_withoutCaches {s t : State} (h : t.withoutCaches = s.withoutCaches) : t.hostView = s.hostView :=
  (congrArg State.host h :)

theorem ite_hostView {s t u : State} {p : Prop} {_ : Decidable p} (ht : t.hostView = s.hostView) (hu : u.hostView = s.hostView) :
    (if p then t else u).hostView = s.hostView := by
  split
  · exact ht
  · exact hu

section Host
variable (s : State)

@[simp] theorem State.bump_hostView (key : Nat) : (s.bump key).hostView = s.hostView := (rfl)
@[simp] theorem State.setObj_hostView (key v : Nat) : (s.setObj key v).hostView = s.hostView := (rfl)
@[simp] theorem State.emit_hostView (o : Output) : (s.emit o).hostView = s.hostView := (rfl)
@[simp] theorem State.draw_hostView : s.draw.2.hostView = s.hostView := (rfl)
@[simp] theorem State.modDie_hostView (d : DieId) (f : DieMem → DieMem) : (s.modDie d f).hostView = s.hostView := (rfl)

@[simp] theorem State.when_hostView (b : Bool) (f : State → State) (h : (f s).hostView = s.hostView) :
    (s.when b f).hostView = s.hostView := State.when_keeps s State.hostView b f h

@[simp] theorem State.each_hostView {α : Type} (l : List α) (f : State → α → State)
    (h : ∀ t a, (f t a).hostView = t.hostView) : (s.each l f).hostView = s.hostView := State.each_keeps s State.hostView l f h

@[simp] theorem signalVector_hostView (fn vec : Nat) : (signalVector s fn vec).hostView = s.hostView :=
  hostView_of_withoutEvents (signalVector_withoutEvents ..)

@[simp] theorem raise_hostView (n d0 d1 : Nat) : (raise s n d0 d1).hostView = s.hostView :=
  hostView_of_withoutEvents (raise_withoutEvents ..)

/-! ### Failures for good (01 R15, 09 R203) -/

@[simp] theorem setDeviceState_hostView (st cause : Nat) : (setDeviceState s st cause).hostView = s.hostView := by
  have hmailbox (t : State) : (mailboxState t).hostView = t.hostView := (signalVector_hostView ..).trans rfl
  have hcontrail (t : State) (data : List Byte) : (notifyContrail t 0x1001 1 data).hostView = t.hostView := ite_hostView rfl rfl
  unfold setDeviceState
  refine ite_hostView rfl ?_
  rw [hcontrail, hmailbox, raise_hostView, State.setObj_hostView, State.setObj_hostView]

@[simp] theorem failUnit_hostView (u : FailUnit) (cause : Nat) : (failUnit s u cause).hostView = s.hostView := by
  have hready (t : State) : (driveReady t false).hostView = t.hostView := ite_hostView rfl rfl
  unfold failUnit enterFault
  exact ite_hostView rfl ((hready (setDeviceState (fenceUnit s u) 4 cause)).trans (setDeviceState_hostView ..))

@[simp] theorem fencePage_hostView (d : DieId) (a : Nat) : (fencePage s d a).hostView = s.hostView := by
  have hlog (t : State) (memory p : Nat) : (logFence t d memory p).hostView = t.hostView := rfl
  unfold fencePage
  exact ite_hostView rfl (ite_hostView (by simp [hlog]) (by simp [raiseOn, hlog]))

@[simp] theorem memUncorrectable_hostView (d : DieId) (a : Nat) : (memUncorrectable s d a).hostView = s.hostView :=
  raise_hostView ..

@[simp] theorem lastingError_hostView (h : RegionHit) (a : Nat) (hard : Bool) :
    (lastingError s h a hard).hostView = s.hostView := by
  have hform : (if h.isByte then poisonByte s a else poisonPage s h.t (pageOf a)).hostView = s.hostView := ite_hostView rfl rfl
  simp [lastingError, hform]

/-! ### Reads (09 R194, R195) -/

@[simp] theorem queueRewrite_hostView (d : DieId) (a : Nat) : (queueRewrite s d a).hostView = s.hostView := by
  unfold queueRewrite
  exact ite_hostView rfl (ite_hostView (by simp) (by simp))

@[simp] theorem takeUpset_hostView (how : MemOutcome) : (takeUpset s how).2.hostView = s.hostView := by
  unfold takeUpset
  split <;> rfl

@[simp] theorem loadPage_hostView (h : RegionHit) (a n : Nat) (l : Load) (page : Nat) :
    (loadPage h a n l page).s.hostView = l.s.hostView := by
  unfold loadPage
  dsimp only
  split
  · simp
  · split <;> simp

@[simp] theorem loadByte_hostView (h : RegionHit) (a n : Nat) (l : Load) (b : Nat) :
    (loadByte h a n l b).s.hostView = l.s.hostView := by
  unfold loadByte
  dsimp only
  split
  · simp
  · split <;> simp

@[simp] theorem overlay_hostView (d : DieId) (a n : Nat) (l : Load) (p : Nat × Nat) :
    (overlay d a n l p).s.hostView = l.s.hostView := by
  unfold overlay
  dsimp only
  split
  · rfl
  · split <;> rfl

@[simp] theorem loadOutcome_hostView (h : RegionHit) (a n : Nat) (how : MemOutcome) (l : Load) :
    (loadOutcome h a n how l).s.hostView = l.s.hostView := by
  cases how <;> simp [loadOutcome]

@[simp] theorem memLoad_hostView (a n : Nat) (hint : Option Hint) (how : MemOutcome) :
    (memLoad s a n hint how).s.hostView = s.hostView := by
  unfold memLoad
  split
  · rfl
  · rename_i h _
    extract_lets s0 f l0 l1 l2 u
    have h0 : s0.hostView = s.hostView := by
      unfold s0
      split
      · rfl
      · exact ite_hostView (hostView_of_withoutCaches (cacheAccess_withoutCaches ..)) rfl
    have hf : f.2.hostView = s0.hostView := by
      unfold f
      split
      · exact hostView_of_withoutCaches (readFrames_withoutCaches ..)
      · rfl
    have h1 : l1.s.hostView = f.2.hostView := by
      unfold l1
      split
      · exact foldl_keeps (fun l : Load => l.s.hostView) _ _ l0 fun l b => loadByte_hostView h a n l b
      · exact foldl_keeps (fun l : Load => l.s.hostView) _ _ l0 fun l p => loadPage_hostView h a n l p
    have h2 : l2.s.hostView = l1.s.hostView :=
      foldl_keeps (fun l : Load => l.s.hostView) _ _ l1 fun l p => overlay_hostView h.die a n l p
    exact (loadOutcome_hostView ..).trans ((takeUpset_hostView ..).trans (h2.trans (h1.trans (hf.trans h0))))

/-! ### Writes (09 R197, R201) -/

@[simp] theorem storePage_hostView (h : RegionHit) (page : Nat) (bs : List Byte) :
    (storePage s h page bs).hostView = s.hostView := by
  unfold storePage
  exact ite_hostView rfl rfl

@[simp] theorem storePart_hostView (h : RegionHit) (page off : Nat) (bs : List Byte) :
    (storePart s h page off bs).hostView = s.hostView := by
  unfold storePart
  dsimp only
  refine ite_hostView rfl (ite_hostView (by simp) ?_)
  split <;> simp

@[simp] theorem storePageAt_hostView (h : RegionHit) (a : Nat) (bs : List Byte) (page : Nat) :
    (storePageAt h a bs s page).hostView = s.hostView := by
  unfold storePageAt
  exact ite_hostView (storePage_hostView ..) (storePart_hostView ..)

@[simp] theorem memStore_hostView (a : Nat) (bs : List Byte) (hint : Option Hint) :
    (memStore s a bs hint).hostView = s.hostView := by
  unfold memStore
  split
  · rfl
  · rename_i h _
    extract_lets s0 sf s1
    have h0 : s0.hostView = s.hostView := by
      unfold s0
      split
      · rfl
      · exact ite_hostView (hostView_of_withoutCaches (cacheAccess_withoutCaches ..)) rfl
    have hf : sf.hostView = s0.hostView :=
      ite_hostView (hostView_of_withoutCaches (writeFrames_withoutCaches ..)) rfl
    have h1 : s1.hostView = sf.hostView := ite_hostView
      (State.each_hostView _ _ _ fun t p => hostView_of_withoutCaches (storeByte_withoutCaches ..))
      (foldl_keeps State.hostView _ _ _ fun t p => storePageAt_hostView ..)
    have hs1 := h1.trans (hf.trans h0)
    exact ite_hostView ((hostView_of_withoutCaches (rePair_withoutCaches ..)).trans hs1) hs1

end Host
end Sys2Proof.Machine
end

section
/-!
Proofs: the completion of a command of the host (15 R345, Table 15.5).
-/
namespace Sys2Proof.Machine

/-! ## Fields of bytes written -/

theorem leNat_leBytes (n v : Nat) : leNat (leBytes n v) = v % 256 ^ n := by
  induction n generalizing v with
  | zero => simp [leBytes, leNat, Nat.mod_one]
  | succ n ih =>
    rw [Nat.pow_succ', Nat.mod_mul, leBytes, leNat, ih, BitVec.toNat_ofNat]

theorem bytesAt_append {off n : Nat} (xs ys zs : List Byte) (hoff : xs.length = off) (hn : ys.length = n) :
    bytesAt (xs ++ (ys ++ zs)) off n = ys := by
  refine List.ext_getElem (by simp [hn]) fun i hi hi' => ?_
  subst hoff
  have hplace : (xs ++ (ys ++ zs))[xs.length + i]? = some ys[i] := by
    rw [List.getElem?_append_right (Nat.le_add_right ..), Nat.add_sub_cancel_left, List.getElem?_append_left hi',
      List.getElem?_eq_getElem hi']
  simp [bytesAt, hplace]

/-- A field reads as the number that was written there, cut to its bytes. -/
theorem leAt_leBytes {off : Nat} (xs zs : List Byte) (n v : Nat) (hoff : xs.length = off) :
    leAt (xs ++ (leBytes n v ++ zs)) off n = v % 256 ^ n := by
  rw [leAt, bytesAt_append _ _ _ hoff (leBytes_length n v), leNat_leBytes]

/-! ## Completions (15 R345, Table 15.5) -/

/-- The completion entry of a queue's command. -/
def completionEntry (x : HostQueue) (q : Fin 64) (id status a b c : Nat) : List Byte :=
  leBytes 2 id ++ leBytes 1 q.val ++ leBytes 1 status ++ leBytes 4 x.sqHead ++ leBytes 8 a ++ leBytes 8 b
    ++ leBytes 4 c ++ leBytes 3 0 ++ leBytes 1 x.phase.toNat

theorem completionEntry_fields (x : HostQueue) (q : Fin 64) (id a b c : Nat) {status : Nat} (h : status < 256) :
    let bs := completionEntry x q id status a b c
    bs.length = 32 ∧ leAt bs 0 2 = id % 65536 ∧ leAt bs 2 1 = q.val ∧ leAt bs 3 1 = status := by
  simp only [completionEntry, List.append_assoc]
  refine ⟨by simp, leAt_leBytes [] _ 2 id rfl, ?_, ?_⟩
  · exact (leAt_leBytes (leBytes 2 id) _ 1 q.val rfl).trans (Nat.mod_eq_of_lt (by omega))
  · rw [← List.append_assoc (leBytes 2 id)]
    exact (leAt_leBytes (leBytes 2 id ++ leBytes 1 q.val) _ 1 status rfl).trans (Nat.mod_eq_of_lt h)

/-- A queue once its command has completed. -/
def HostQueue.completed (x : HostQueue) : HostQueue :=
  let w := (x.cqWrite + 1) % 2 ^ x.size
  { x with cmd := none, cqWrite := w, cqUsed := x.cqUsed + 1, phase := if w = 0 then !x.phase else x.phase }

/-- The state once a queue's completion entry is written, before it is counted and signalled. -/
def entryWritten (s : State) (q : Fin 64) (id status a b r : Nat) : State :=
  let x := s.queue q
  let t := (modQueue s q fun _ => x.completed).emit
    (.hostWrite (x.cqBase + 32 * x.cqWrite) (completionEntry x q id status a b r) false)
  { t with host := { t.host with order := t.host.order.filter (· != q.val) } }

section Complete
variable {s : State} {q : Fin 64}

theorem complete_of_idle (h : (s.queue q).cmd = none) (status a b r : Nat) : complete s q status a b r = s := by
  simp only [complete, h]

theorem complete_of_cmd {c : HostCmd} (h : (s.queue q).cmd = some c) (status a b r : Nat) : complete s q status a b r =
    ((entryWritten s q c.id status a b r).bump 0x690001).when (s.queue q).irqEn fun t => signalVector t 0 (s.queue q).vector := by
  simp only [complete, h]
  rfl

/-- What neither the entry nor its count and vector change, a completion leaves alone. -/
theorem complete_keeps {β : Type} (g : State → β) (status a b r : Nat)
    (hentry : ∀ id, g ((entryWritten s q id status a b r).bump 0x690001) = g s)
    (hsignal : ∀ t vec, g (signalVector t 0 vec) = g t) : g (complete s q status a b r) = g s := by
  cases hcmd : (s.queue q).cmd with
  | none => rw [complete_of_idle hcmd]
  | some c => rw [complete_of_cmd hcmd, State.when_keeps _ g _ _ (hsignal ..), hentry]

theorem complete_job (status a b r : Nat) : (complete s q status a b r).host.job = s.host.job :=
  complete_keeps (fun t => t.host.job) status a b r (fun _ => rfl) fun _ _ => job_of_hostView (signalVector_hostView ..)

theorem complete_unitView (status a b r : Nat) : (complete s q status a b r).unitView = s.unitView :=
  complete_keeps State.unitView status a b r (fun _ => State.bump_unitView _ (by decide)) fun _ _ => signalVector_unitView ..

theorem mem_signalVector_out {o : Output} (h : o ∈ s.out) (fn vec : Nat) : o ∈ (signalVector s fn vec).out := by
  unfold signalVector
  dsimp only
  split
  · exact h
  · split
    · exact h
    · exact List.mem_cons_of_mem _ h

/-- Outputs before a completion and its entry stand behind it. -/
theorem mem_complete_out {c : HostCmd} (hcmd : (s.queue q).cmd = some c) (status a b r : Nat) {o : Output}
    (h : o ∈ (entryWritten s q c.id status a b r).out) : o ∈ (complete s q status a b r).out := by
  rw [complete_of_cmd hcmd, State.when]
  split
  · exact mem_signalVector_out (s := (entryWritten ..).bump _) h ..
  · exact h

theorem complete_completed {c : HostCmd} (hcmd : (s.queue q).cmd = some c) {status : Nat} (h : status < 256) (a b r : Nat) :
    Completed s (complete s q status a b r) q c status := by
  have hqueue : (complete s q status a b r).queue q = (s.queue q).completed := by
    rw [complete_of_cmd hcmd,
      State.when_keeps _ (fun t => t.queue q) _ _ (queue_of_hostView (signalVector_hostView ..) q)]
    exact queue_modQueue_same ..
  rw [Completed, hqueue]
  exact ⟨rfl, rfl, completionEntry (s.queue q) q c.id status a b r, mem_complete_out hcmd _ _ _ _ List.mem_cons_self,
    completionEntry_fields _ q c.id a b r h⟩

end Complete

/-- A command that a state completes had its place in the queue of every state with the same host view. -/
theorem Completed.ofHostView {s t u : State} {q : Fin 64} {c : HostCmd} {status : Nat} (h : Completed t u q c status)
    (hview : t.hostView = s.hostView) : Completed s u q c status := by
  rwa [Completed, queue_of_hostView hview] at h

end Sys2Proof.Machine
end

section
/-!
Proofs: the export and import of shards (13 R296 to R299, Tables 13.6 and 13.7).
-/
namespace Sys2Proof.Machine

theorem exec_exportShard (q : Fin 64) (s : State) : exec (.exportShard q) s = execExportShard q s := rfl

theorem exec_exportRecordDone (s : State) : exec .exportRecordDone s = execExportRecordDone s := rfl

theorem exec_importShard (q : Fin 64) (bytes : Option (List Byte)) (s : State) :
    exec (.importShard q bytes) s = execImportShard q bytes s := rfl

/-! ## What the reads of a shard command leave as it was -/

section Reads
variable (s : State)

@[simp] theorem hostLoad_hostView (a n : Nat) : (hostLoad s a n).2.hostView = s.hostView := memLoad_hostView ..

@[simp] theorem hostTable_hostView (a : Nat) : (hostTable s a).2.2.hostView = s.hostView :=
  (hostLoad_hostView ..).trans (hostLoad_hostView ..)

@[simp] theorem commitScale_hostView (step : Nat) : (commitScale s step).2.2.hostView = s.hostView := by
  unfold commitScale
  dsimp only
  split <;> rfl

@[simp] theorem loadPayload_hostView (parts : List (Nat × Nat)) : (loadPayload s parts).2.2.hostView = s.hostView := by
  unfold loadPayload
  exact foldl_keeps (fun acc : List Byte × Bool × State => acc.2.2.hostView) _ _ _ fun _ _ => hostLoad_hostView ..

@[simp] theorem exportRecord_hostView (j : ExportJob) (t : Shard) (k : Nat) : (exportRecord s j t k).2.2.hostView = s.hostView := by
  unfold exportRecord
  extract_lets piece parts content l body
  exact loadPayload_hostView s parts

end Reads

/-! ## The ends of shard commands -/

/-- An image command in its turn is the command of its queue. -/
theorem cmd_of_imageCmd {s : State} {q : Fin 64} {op : Nat} {c : HostCmd} (h : imageCmd s q op = some c) :
    (s.queue q).cmd = some c := by
  unfold imageCmd waitingCmd at h
  split at h
  · split at h
    · rename_i hcmd
      rw [hcmd, (Option.ite_none_right_eq_some.mp h).2]
    · exact nomatch h
  · exact nomatch h

section Ends
variable {s : State} {q : Fin 64} {c : HostCmd} (hcmd : (s.queue q).cmd = some c)
include hcmd

theorem markStarted_cmd (chunks : List Nat) :
    ((markStarted s q chunks).queue q).cmd = some { c with started := true, chunks := chunks } := by
  rw [markStarted, queue_modQueue_same, hcmd]
  rfl

theorem completeShard_completed {status : Nat} (h : status < 256) (outcome count b : Nat) :
    Completed s (completeShard s q status outcome count b) q c status :=
  (complete_completed (s := s.draw.2) hcmd h ..).ofHostView s.draw_hostView

theorem mem_completeShard_out (status outcome count b : Nat) {o : Output} (h : o ∈ s.out) :
    o ∈ (completeShard s q status outcome count b).out :=
  mem_complete_out (s := s.draw.2) hcmd _ _ _ _ (List.mem_cons_of_mem _ h)

end Ends

theorem completeShard_unitView (s : State) (q : Fin 64) (status outcome count b : Nat) :
    (completeShard s q status outcome count b).unitView = s.unitView := (complete_unitView (s := s.draw.2) ..).trans rfl

/-! ## Export (13 R296, R297) -/

/-- The state with an export in progress, or none. -/
def State.setJob (s : State) (j : Option ExportJob) : State := { s with host := { s.host with job := j } }

/-- The status of an export's end: no room for its next record, or what its highest outcome says. -/
def exportStatus (outcome : Nat) (poisoned short : Bool) : Nat :=
  if short then 9 else if max outcome (if poisoned then 3 else 0) = 0 then 0 else 6

theorem exportStatus_of_records (poisoned : Bool) : exportStatus 0 poisoned false = if poisoned then 6 else 0 := by
  cases poisoned <;> rfl

theorem exportStatus_of_overrun (poisoned : Bool) : exportStatus 2 poisoned false = 6 := by
  cases poisoned <;> rfl

/-- An export that ends holds no job any more, completes its command, and keeps what it wrote. -/
theorem finishExport_ends {s : State} {j : ExportJob} {c : HostCmd} (hcmd : (s.queue (queueFin j.queue)).cmd = some c)
    (outcome : Nat) (short : Bool) :
    (finishExport s j outcome short).host.job = none ∧
      Completed s (finishExport s j outcome short) (queueFin j.queue) c (exportStatus outcome j.poisoned short) ∧
      ∀ o ∈ s.out, o ∈ (finishExport s j outcome short).out := by
  have hstatus : exportStatus outcome j.poisoned short < 256 := by
    unfold exportStatus
    split_ifs <;> omega
  exact ⟨complete_job .., completeShard_completed (s := s.setJob none) hcmd hstatus ..,
    fun o h => mem_completeShard_out (s := s.setJob none) hcmd _ _ _ _ h⟩

/-- A job, not overtaken, once its next record has been written. -/
def nextJob (s : State) (j : ExportJob) : ExportJob :=
  let r := exportRecord s j (shardOf j.table) j.next
  { j with next := j.next + 1, dest := j.dest + r.1.length, room := j.room - r.1.length, written := j.written + 1,
           bytes := j.bytes + r.1.length, poisoned := j.poisoned || r.2.1, overrun := false }

/-- The state once a job's next record has been written to the host and counted. -/
def recordWritten (s : State) (j : ExportJob) : State :=
  let r := exportRecord s j (shardOf j.table) j.next
  (r.2.2.emit (.hostWrite j.dest r.1 false)).bump 0x670007

theorem recordWritten_hostView (s : State) (j : ExportJob) : (recordWritten s j).hostView = s.hostView := by
  rw [recordWritten, State.bump_hostView, State.emit_hostView, exportRecord_hostView]

theorem recordWritten_out (s : State) (j : ExportJob) :
    Output.hostWrite j.dest (exportRecord s j (shardOf j.table) j.next).1 false ∈ (recordWritten s j).out := List.mem_cons_self

section Start
variable {q : Fin 64} {c : HostCmd} {s : State} (hcmd : imageCmd s q 0x20 = some c) (hpermits : statePermits s 0x20 = true)
  (haddrs : shardAddrsOk s c = true)
include hcmd hpermits haddrs

theorem exportShard_of_invalid (hinvalid : (hostTable s c.b).2.1 = false) :
    exec (.exportShard q) s = .next (completeShard (hostTable s c.b).2.2 q 6 1 0 0) := by
  simp [exec_exportShard, execExportShard, hcmd, hpermits, haddrs, hinvalid]

/-- An export starts, after the reads of its table and its commit record, as a job at record 0. -/
theorem exportShard_of_valid (hvalid : (hostTable s c.b).2.1 = true) : ∃ (u : State) (j : ExportJob),
    exec (.exportShard q) s = .next (markStarted (u.setJob (some j)) q []) ∧
      u.hostView = s.hostView ∧ j.queue = q.val ∧ j.table = (hostTable s c.b).1 ∧ j.next = 0 ∧ j.written = 0 ∧ j.commit = c.d ∧
      j.overrun = false := by
  simp only [exec_exportShard, execExportShard, hcmd, hpermits, haddrs, hvalid]
  exact ⟨_, _, rfl, (commitScale_hostView ..).trans (hostTable_hostView ..), rfl, rfl, rfl, rfl, rfl, rfl⟩

end Start

section Export
variable {s : State} {j : ExportJob} (hjob : s.host.job = some j)
include hjob

theorem exportRecordDone_of_overrun (h : j.overrun = true) :
    exec .exportRecordDone s = .next (finishExport (s.bump 0x670008) j 2 false) := by
  simp [exec_exportRecordDone, execExportRecordDone, hjob, h]

variable (hcurrent : j.overrun = false)
include hcurrent

theorem exportRecordDone_of_short (h : j.room < 128 + recordPayload (shardOf j.table) j.flags j.next) :
    exec .exportRecordDone s = .next (finishExport s j 0 true) := by
  simp [exec_exportRecordDone, execExportRecordDone, hjob, hcurrent, h]

theorem exportRecordDone_of_room (h : 128 + recordPayload (shardOf j.table) j.flags j.next ≤ j.room) :
    exec .exportRecordDone s = .next (if j.next + 1 < recordCount (shardOf j.table) j.flags
      then (recordWritten s j).setJob (some (nextJob s j)) else finishExport (recordWritten s j) (nextJob s j) 0 false) := by
  simp only [exec_exportRecordDone, execExportRecordDone, hjob, hcurrent, Bool.false_eq_true, if_false, if_neg h.not_gt]
  rfl

end Export

/-! ## Import (13 R298, R299) -/

section Import
variable (s : State)

theorem importHead_hostView (commit : Nat) (b : List Byte) : (importHead s commit b).hostView = s.hostView := by
  unfold importHead
  extract_lets put step e c s1
  have hput (x : State) (off n v : Nat) : (put x off n v).hostView = x.hostView := memStore_hostView ..
  have h1 : s1.hostView = s.hostView := (hput ..).trans ((hput ..).trans (hput ..))
  exact h1

theorem importHead_scale (commit : Nat) (b : List Byte) : (importHead s commit b).obj kScale = leAt b 0x2A 1 :=
  (State.obj_setObj_ne _ _ (by decide)).trans (State.obj_setObj_same ..)

theorem importHead_clean (commit : Nat) (b : List Byte) : (importHead s commit b).obj 0x670002 = leAt b 0x2C 2 :=
  State.obj_setObj_same ..

theorem flushImport_hostView (m : Kv (Option Byte)) : (flushImport s m).hostView = s.hostView :=
  State.each_hostView s _ _ fun _ _ => memStore_hostView ..

theorem flushImport_unitView (m : Kv (Option Byte)) : (flushImport s m).unitView = s.unitView :=
  State.each_unitView s _ _ fun _ _ => memStore_unitView ..

theorem importGauge_hostView (t : Shard) (commit : Nat) : (importGauge s t commit).hostView = s.hostView :=
  (memStore_hostView ..).trans (hostLoad_hostView ..)

theorem importGauge_unitView (t : Shard) (commit : Nat) : (importGauge s t commit).unitView = s.unitView :=
  (memStore_unitView ..).trans (memLoad_unitView ..)

end Import

/-- An import whose first accepted record has set the loss scale and the clean count. -/
structure ImportRun.Scaled (e c : Nat) (r : ImportRun) : Prop where
  begun : r.head.isSome = true
  scale : r.s.obj kScale = e
  clean : r.s.obj 0x670002 = c

section Record
variable {t : Shard} {r : ImportRun} {b : List Byte} (commit : Nat)

theorem importRecord_of_refused (h : refusals t r.head b ≠ []) : ∃ n,
    importRecord t commit r b = { r with outcome := n, s := r.s.bump 0x670009 } := by
  unfold importRecord
  split
  · contradiction
  · exact ⟨_, rfl⟩

/-- A record accepted changes the arrays, and before them the commit record, when it is the first. -/
theorem importRecord_of_accepted (h : refusals t r.head b = []) :
    let s1 := if r.head.isNone then importHead r.s commit b else r.s
    (importRecord t commit r b).head.isSome = true ∧ (importRecord t commit r b).s.hostView = s1.hostView ∧
      (importRecord t commit r b).s.unitView = s1.unitView := by
  unfold importRecord
  simp only [h]
  split
  · exact ⟨rfl, (memStore_hostView ..).trans (memStore_hostView ..), (memStore_unitView ..).trans (memStore_unitView ..)⟩
  · exact ⟨rfl, rfl, rfl⟩

theorem importRecord_hostView : (importRecord t commit r b).s.hostView = r.s.hostView := by
  by_cases h : refusals t r.head b = []
  · obtain ⟨-, hview, -⟩ := importRecord_of_accepted commit h
    exact hview.trans (ite_hostView (importHead_hostView ..) rfl)
  · obtain ⟨n, hrun⟩ := importRecord_of_refused commit h
    rw [hrun]
    rfl

theorem importRecord_scaled_first (hhead : r.head = none) (h : refusals t none b = []) :
    (importRecord t commit r b).Scaled (leAt b 0x2A 1) (leAt b 0x2C 2) := by
  obtain ⟨hbegun, -, hview⟩ := importRecord_of_accepted commit (hhead ▸ h)
  rw [hhead] at hview
  exact ⟨hbegun, (obj_of_unitView hview rfl).trans (importHead_scale ..), (obj_of_unitView hview rfl).trans (importHead_clean ..)⟩

theorem importRecord_scaled {e c : Nat} (hr : r.Scaled e c) : (importRecord t commit r b).Scaled e c := by
  obtain ⟨hbegun, hscale, hclean⟩ := hr
  by_cases h : refusals t r.head b = []
  · obtain ⟨hbegun', -, hview⟩ := importRecord_of_accepted commit h
    rw [Option.isNone_eq_false_iff.mpr hbegun] at hview
    exact ⟨hbegun', (obj_of_unitView hview rfl).trans hscale, (obj_of_unitView hview rfl).trans hclean⟩
  · obtain ⟨n, hrun⟩ := importRecord_of_refused commit h
    rw [hrun]
    exact ⟨hbegun, (State.obj_bump_ne _ (by decide)).trans hscale, (State.obj_bump_ne _ (by decide)).trans hclean⟩

end Record

/-- The records of a source taken in order. -/
def importAll (t : Shard) (commit : Nat) (s : State) (src : List (List Byte)) : ImportRun :=
  src.foldl (importRecord t commit) ⟨0, 0, none, List.replicate t.elems false, [], s⟩

theorem importAll_hostView (t : Shard) (commit : Nat) (s : State) (src : List (List Byte)) :
    (importAll t commit s src).s.hostView = s.hostView :=
  foldl_keeps (fun r : ImportRun => r.s.hostView) _ _ _ fun _ _ => importRecord_hostView commit

theorem importAll_scaled {t : Shard} {b : List Byte} (h : refusals t none b = []) (commit : Nat) (s : State)
    (bs : List (List Byte)) : (importAll t commit s (b :: bs)).Scaled (leAt b 0x2A 1) (leAt b 0x2C 2) :=
  List.foldlRecOn (motive := ImportRun.Scaled _ _) bs (importRecord t commit)
    (importRecord_scaled_first commit rfl h) fun _ hr _ _ => importRecord_scaled commit hr

/-- The state once an import's records are taken: arrays and fingerprint stand in memory when one was accepted. -/
def importStored (t : Shard) (commit : Nat) (r : ImportRun) : State :=
  if r.head.isSome then importGauge (flushImport r.s r.bytes) t commit else r.s

theorem importStored_hostView (t : Shard) (commit : Nat) (r : ImportRun) :
    (importStored t commit r).hostView = r.s.hostView :=
  ite_hostView ((importGauge_hostView ..).trans (flushImport_hostView ..)) rfl

theorem importStored_unitView (t : Shard) (commit : Nat) (r : ImportRun) :
    (importStored t commit r).unitView = r.s.unitView :=
  ite_unitView ((importGauge_unitView ..).trans (flushImport_unitView ..)) rfl

/-- The import that a command's source gives, in the state that the reading of its shard table leaves. -/
def importOf (s : State) (c : HostCmd) (raw : List Byte) : ImportRun :=
  importAll (shardOf (hostTable s c.b).1) c.d (hostTable s c.b).2.2 (cutRecords (c.c + 1) (fitBytes c.c raw))

/-- An import into a package with no image ends with what its records said, and after them changes no object of training. -/
theorem importShard_of_valid {q : Fin 64} {c : HostCmd} {s : State} (hcmd : imageCmd s q 0x21 = some c)
    (hpermits : statePermits s 0x21 = true) (himage : s.hasImage = false) (haddrs : shardAddrsOk s c = true)
    (hvalid : (hostTable s c.b).2.1 = true) (raw : List Byte) : ∃ u, exec (.importShard q (some raw)) s = .next u ∧
      Completed s u q c (if (importOf s c raw).outcome = 0 then 0 else 6) ∧ u.unitView = (importOf s c raw).s.unitView := by
  set t := shardOf (hostTable s c.b).1
  set r := importOf s c raw
  have hexec : exec (.importShard q (some raw)) s = .next (completeShard (importStored t c.d r) q
      (if r.outcome = 0 then 0 else 6) r.outcome r.accepted (r.covered.filter (!·)).length) := by
    have hlen : (fitBytes c.c raw).length = c.c := bytesAt_length ..
    simp only [exec_importShard, execImportShard, hcmd, hpermits, himage, haddrs, hvalid, hlen]
    rfl
  have hview : (importStored t c.d r).hostView = s.hostView :=
    (importStored_hostView ..).trans ((importAll_hostView ..).trans (hostTable_hostView ..))
  exact ⟨_, hexec, (completeShard_completed (cmd_of_hostView hview (cmd_of_imageCmd hcmd)) (by split <;> decide) ..).ofHostView
    hview, (completeShard_unitView ..).trans (importStored_unitView ..)⟩

/-- Settles O38: reads and writes of memory leave the queue of the command as it was, and of the records of a source the first
that is accepted alone sets the loss scale and the clean count. -/
theorem shardsAreExportedAndImported : Obligations.ShardsAreExportedAndImported := by
  refine ⟨fun q c s hcmd hpermits haddrs => ⟨fun hvalid => ?_, fun hinvalid => ?_⟩,
    fun s j hjob hcurrent hroom => ⟨fun hmore => ?_, fun c hlast hcmd => ?_⟩,
    fun s j c hjob hcmd => ⟨fun hoverrun => ?_, fun hcurrent hshort hclean => ?_⟩,
    fun q c raw s hcmd hpermits himage haddrs hvalid => ?_⟩
  · obtain ⟨u, j, hexec, hview, hqueue, htable, hnext, hwritten, hcommit, hoverrun⟩ :=
      exportShard_of_valid hcmd hpermits haddrs hvalid
    have hcmd' : (u.queue q).cmd = some c := cmd_of_hostView hview (cmd_of_imageCmd hcmd)
    exact ⟨_, j, hexec, rfl, hqueue, htable, hnext, hwritten, hcommit, hoverrun,
      markStarted_cmd (s := u.setJob (some j)) hcmd' []⟩
  · have hview := hostTable_hostView s c.b
    have hcmd' : ((hostTable s c.b).2.2.queue q).cmd = some c := cmd_of_hostView hview (cmd_of_imageCmd hcmd)
    exact ⟨_, exportShard_of_invalid hcmd hpermits haddrs hinvalid,
      (completeShard_completed hcmd' (by decide) ..).ofHostView hview⟩
  · exact ⟨_, _, (exportRecordDone_of_room hjob hcurrent hroom).trans (congrArg _ (if_pos hmore)), rfl, rfl, rfl,
      recordWritten_out s j⟩
  · have hview := recordWritten_hostView s j
    obtain ⟨hnone, hdone, hout⟩ := finishExport_ends (j := nextJob s j) (cmd_of_hostView hview hcmd) 0 false
    rw [exportStatus_of_records] at hdone
    exact ⟨_, (exportRecordDone_of_room hjob hcurrent hroom).trans (congrArg _ (if_neg hlast.not_gt)), hnone,
      hout _ (recordWritten_out s j), hdone.ofHostView hview⟩
  · obtain ⟨hnone, hdone, -⟩ := finishExport_ends (s := s.bump 0x670008) hcmd 2 false
    rw [exportStatus_of_overrun] at hdone
    exact ⟨_, exportRecordDone_of_overrun hjob hoverrun, hnone, hdone⟩
  · obtain ⟨hnone, hdone, -⟩ := finishExport_ends hcmd 0 true
    exact ⟨_, exportRecordDone_of_short hjob hcurrent hshort, hnone, hdone⟩
  · obtain ⟨u, hexec, hdone, hunits⟩ := importShard_of_valid hcmd hpermits himage haddrs hvalid raw
    refine ⟨u, hexec, hdone, fun b bs hsrc haccepted => ?_⟩
    obtain ⟨-, hscale, hclean⟩ := importAll_scaled haccepted c.d (hostTable s c.b).2.2 bs
    rw [← hsrc] at hscale hclean
    exact ⟨(obj_of_unitView hunits rfl).trans hscale, (obj_of_unitView hunits rfl).trans hclean⟩

end Sys2Proof.Machine
end

section
/-!
Proofs: the end of a Cirrus product on a core's engines (03 R66, 14 R322).
-/
namespace Sys2Proof

variable {α : Type}

/-! ## Keys below what a table has cleared or written -/

/-- A filter that keeps every entry of a key leaves what the key reads as. -/
theorem kvGet_filter_of_kept (d : α) (m : Kv α) {p : Nat × α → Bool} {k : Nat} (h : ∀ v, p (k, v) = true) :
    kvGet d (m.filter p) k = kvGet d m k := by
  induction m with
  | nil => rfl
  | cons e m ih =>
    obtain ⟨a, v⟩ := e
    by_cases ha : a = k
    · simp [ha, h, kvGet]
    · cases hp : p (a, v) <;> simp [hp, ha, kvGet, ih]

theorem kvGet_kvClear_below (d : α) (m : Kv α) {lo k : Nat} (n : Nat) (h : k < lo) :
    kvGet d (kvClear m lo n) k = kvGet d m k :=
  kvGet_filter_of_kept d m fun _ => by simp [Nat.not_le_of_lt h]

theorem kvGet_kvSetList_below [DecidableEq α] (d : α) (m : Kv α) (vs : List α) {a k : Nat} (h : k < a) :
    kvGet d (kvSetList d m a vs) k = kvGet d m k := by
  induction vs generalizing m a with
  | nil => rfl
  | cons v vs ih => rw [kvSetList, ih _ (Nat.lt_succ_of_lt h), kvGet_kvSet_ne d m v h.ne]

end Sys2Proof

namespace Sys2Proof.Machine

/-! ## What the end of a product leaves of a core and of memory -/

/-- What a product's end leaves as it was once the product is counted: the units, the list of cores with a product, memory,
and of the core its queues, its registers and the accumulator sets below acc3, Cirrus's own (03 R66). -/
structure ProductSettles (c : CoreId) (s t : State) : Prop where
  cirrusOn : t.cirrusOn = s.cirrusOn
  units : t.units = s.units
  queues : (t.core c).queues = (s.core c).queues
  sregs : (t.core c).sregs = (s.core c).sregs
  mem : t.mem = s.mem
  scratch : t.scratch = s.scratch
  acc : ∀ k, k < 3 * 65536 → kvGet 0#32 (t.core c).acc k = kvGet 0#32 (s.core c).acc k

section Settles
variable {c : CoreId}

theorem ProductSettles.trans {s t u : State} (h : ProductSettles c s t) (k : ProductSettles c t u) : ProductSettles c s u where
  cirrusOn := k.cirrusOn.trans h.cirrusOn
  units := k.units.trans h.units
  queues := k.queues.trans h.queues
  sregs := k.sregs.trans h.sregs
  mem := k.mem.trans h.mem
  scratch := k.scratch.trans h.scratch
  acc a ha := (k.acc a ha).trans (h.acc a ha)

theorem ProductSettles.ofEvents {s t : State} (h : t.withoutEvents = s.withoutEvents) : ProductSettles c s t where
  cirrusOn := (congrArg State.cirrusOn h :)
  units := (congrArg State.units h :)
  queues := (congrArg (fun u : State => (u.core c).queues) h :)
  sregs := (congrArg (fun u : State => (u.core c).sregs) h :)
  mem := (congrArg State.mem h :)
  scratch := (congrArg State.scratch h :)
  acc k _ := (congrArg (fun u : State => kvGet 0#32 (u.core c).acc k) h :)

theorem ProductSettles.setCore {s : State} {x : CoreState} (hqueues : x.queues = (s.core c).queues)
    (hsregs : x.sregs = (s.core c).sregs)
    (hacc : ∀ k, k < 3 * 65536 → kvGet 0#32 x.acc k = kvGet 0#32 (s.core c).acc k) :
    ProductSettles c s (s.setCore c x) := by
  refine ⟨rfl, rfl, ?_, ?_, rfl, rfl, ?_⟩ <;> rw [State.core_setCore_same]
  · exact hqueues
  · exact hsregs
  · exact hacc

theorem noteArrays_settles (s : State) (r : ArrayReads) : ProductSettles c s (noteArrays s c r) := by
  refine .ofEvents ?_
  rw [noteArrays, State.when_keeps _ State.withoutEvents _ _ rfl, State.when_keeps _ State.withoutEvents _ _ rfl]

theorem trapCore_settles (s : State) (t : TrapInfo) (queue pc : Nat) : ProductSettles c s (trapCore s c t queue pc) := by
  unfold trapCore
  dsimp only
  split
  · exact .ofEvents (State.bump_withoutEvents ..)
  · exact .setCore rfl rfl fun _ _ => rfl

/-- An engine that fails under a product is fenced and its core traps: neither takes anything from the queues. -/
theorem productFails_settles (s : State) (e : Nat) : ProductSettles c s (productFails s c e) := by
  refine ProductSettles.trans (t := s.modCore c fun y => { y with fenced := y.fenced ||| BitVec.ofNat 4 (2 ^ e) }) ?_
    (trapCore_settles ..)
  exact .setCore rfl rfl fun _ _ => rfl

/-- The free values lie in accumulator set 3, whose keys begin at 3 · 65536. -/
theorem scrambleAcc3_settles (s : State) : ProductSettles c s (scrambleAcc3 s c) := by
  have hdraw : ProductSettles c s s.draw.2 := ⟨rfl, rfl, rfl, rfl, rfl, rfl, fun _ _ => rfl⟩
  refine hdraw.trans (.setCore rfl rfl fun k hk => ?_)
  rw [kvGet_kvSetList_below _ _ _ hk, kvGet_kvClear_below _ _ _ hk]

end Settles

/-! ## The end of the last product -/

/-- A product counted as run: its core leaves the list of those with a product, and the die's first update has one less. -/
def productCounted (s : State) (c : CoreId) : State :=
  modUpd { s with cirrusOn := s.cirrusOn.erase c.val } (dieOf c) 0 fun q => { q with prods := countProduct c.val q.prods }

/-- The engines given back: an engine with an error that the product met fails, what the codes corrected is counted, and
acc3 is left with free values. -/
def enginesReturned (s : State) (c : CoreId) : State :=
  scrambleAcc3 ((productError (s.core c)).elim (noteArrays s c productReads) (productFails s c)) c

theorem enginesReturned_settles (s : State) (c : CoreId) : ProductSettles c s (enginesReturned s c) := by
  unfold enginesReturned
  cases productError (s.core c) with
  | none => exact (noteArrays_settles s productReads).trans (scrambleAcc3_settles _)
  | some e => exact (productFails_settles s e).trans (scrambleAcc3_settles _)

/-- Where no update has a product to run, an idle matrix unit takes none. -/
theorem takeIdle_of_noProducts {s : State} {c : CoreId} (h : ∀ u ∈ (s.unit (dieOf c)).cirrus.upds, u.prods = []) :
    takeIdle s c = s := by
  have hnone : ((s.unit (dieOf c)).cirrus.upds.any fun u => u.prods.any fun p => p.2.1 == c.val) = false :=
    List.any_eq_false.mpr fun u hu => by simp [h u hu]
  have htake : takeProduct s c = s := by
    rw [State.unit] at hnone
    rw [takeProduct, hnone, Bool.and_false, if_neg Bool.false_ne_true]
  rw [takeIdle, htake, ite_self]

theorem exec_cirrusProductEnd (c : CoreId) (s : State) : exec (.cirrusProductEnd c) s = execCirrusProductEnd c s := rfl

section Last
variable {c : CoreId} {s : State} {u : UpdRun} {j : Nat}

/-- The product that ends is of the die's only update, so it is counted there. -/
theorem cirrusProductEnd_of_only (hon : c.val ∈ s.cirrusOn) (hupds : (s.unit (dieOf c)).cirrus.upds = [u])
    (hprods : u.prods = [(j, c.val, 1)]) :
    exec (.cirrusProductEnd c) s = .next (takeIdle (enginesReturned (productCounted s c) c) c) := by
  have hindex : indexOf? (fun u : UpdRun => u.prods.any fun p => p.2.1 == c.val) (s.unit (dieOf c)).cirrus.upds = some 0 := by
    simp [hupds, hprods, indexOf?]
  have hon' : (!s.cirrusOn.contains c.val) = false := by simpa using hon
  have hcore : (productCounted s c).core c = s.core c := rfl
  simp only [exec_cirrusProductEnd, execCirrusProductEnd, hon', hindex, enginesReturned, hcore, Bool.false_eq_true, if_false]
  cases productError (s.core c) with
  | none => rfl
  | some e => rfl

theorem productCounted_upds (hupds : (s.unit (dieOf c)).cirrus.upds = [u]) (hprods : u.prods = [(j, c.val, 1)]) :
    ((productCounted s c).unit (dieOf c)).cirrus.upds = [{ u with prods := [] }] := by
  have hcount : countProduct c.val u.prods = [] := by simp [hprods, countProduct]
  have hupds' : (State.unit { s with cirrusOn := s.cirrusOn.erase c.val } (dieOf c)).cirrus.upds = [u] := hupds
  simp only [productCounted, modUpd, modCirrus, State.unit_modUnit_same, hupds', modAt, hcount]

end Last

/-- Settles O24: counting the product empties the update's list, so the idle matrix unit takes no other one, and what else a
product's end does, an engine's failure included, stays within set 3, the traps and the counters. -/
theorem cirrusProductLeavesTheEngines : Obligations.CirrusProductLeavesTheEngines := by
  intro c s u j hon hupds hprods
  have hcounted := productCounted_upds hupds hprods
  have hsettles := enginesReturned_settles (productCounted s c) c
  have hleft : ((enginesReturned (productCounted s c) c).unit (dieOf c)).cirrus.upds = [{ u with prods := [] }] := by
    rw [State.unit, hsettles.units]
    exact hcounted
  have hidle : takeIdle (enginesReturned (productCounted s c) c) c = enginesReturned (productCounted s c) c :=
    takeIdle_of_noProducts (by simp [hleft])
  exact ⟨_, _, (cirrusProductEnd_of_only hon hupds hprods).trans (congrArg _ hidle), hsettles.cirrusOn, hleft, rfl,
    hsettles.queues, hsettles.sregs, hsettles.mem, hsettles.scratch, hsettles.acc⟩

end Sys2Proof.Machine
end

section
/-!
Proofs: the waiting commands of the package, which no command changes (16 R359, R369).
-/
namespace Sys2Proof.Machine

/-- Settles O60: every command keeps the queue, and a step runs its command on the queue's rest. -/
theorem commandsLeaveTheWaitingQueue : Obligations.CommandsLeaveTheWaitingQueue := by
  have hkeep (c : Instr) (s t : State) (h : exec c s = .next t) : t.pending = s.pending :=
    ((exec_steady c s).ofNext t h).queue
  refine ⟨hkeep, fun c rest s t hq hstep => ?_⟩
  simp only [step, hq] at hstep
  exact hkeep c _ t hstep

end Sys2Proof.Machine
end

section
/-!
Proofs: what raising an event changes beside its source (17 R380 to R391).
-/
namespace Sys2Proof.Machine

/-- An object is read from the dictionary alone. -/
theorem obj_of_dict {s t : State} (h : t.dict = s.dict) (key : Nat) : t.obj key = s.obj key :=
  congrArg (fun d => kvGet (objDefault key) d key) h

/-! ## What an event leaves alone -/

/-- The counters that events and the ends of claims move: assertions, quarantines, vanished claims, and records that found no
room. -/
def eventCounters : List Nat := [0x691001, 0x691002, 0x691004, 0x691006, 0x691007, 0x690004]

/-- The part of the interrupt controllers that no event changes: inputs and Zenith cores that restart. -/
def Irq.inputs (i : Irq) : Irq := { i with src := [], ic := Irq.reset.ic, contrail := [], contrailSeq := 0 }

/-- What an event can do to the package: beside its counters, outputs, sources and records nothing changes, what was sent stays
sent, and the event rings stay enabled or disabled. -/
structure Noted (s t : State) : Prop where
  rest : t.withoutEvents = s.withoutEvents
  obj : ∀ k, k ∉ eventCounters → t.obj k = s.obj k
  out : ∀ o ∈ s.out, o ∈ t.out
  rings : ∀ r : Fin 8, t.host.rings[r].en = s.host.rings[r].en
  inputs : t.irq.inputs = s.irq.inputs

namespace Noted

theorem refl (s : State) : Noted s s := ⟨rfl, fun _ _ => rfl, fun _ => id, fun _ => rfl, rfl⟩

theorem trans {s t u : State} (h : Noted s t) (k : Noted t u) : Noted s u where
  rest := k.rest.trans h.rest
  obj key hkey := (k.obj key hkey).trans (h.obj key hkey)
  out o ho := k.out o (h.out o ho)
  rings r := (k.rings r).trans (h.rings r)
  inputs := k.inputs.trans h.inputs

theorem when {s : State} (b : Bool) {f : State → State} (h : Noted s (f s)) : Noted s (s.when b f) := by
  cases b
  · exact refl s
  · exact h

theorem each {α : Type} (s : State) (l : List α) {f : State → α → State} (h : ∀ t a, Noted t (f t a)) : Noted s (s.each l f) :=
  List.foldlRecOn (motive := Noted s) l f (refl s) fun t ht a _ => ht.trans (h t a)

theorem bump (s : State) {key : Nat} (hkey : key ∈ eventCounters) : Noted s (s.bump key) :=
  ⟨rfl, fun _ hk => State.obj_bump_ne s (fun e => hk (e ▸ hkey)), fun _ => id, fun _ => rfl, rfl⟩

theorem emit (s : State) (o : Output) : Noted s (s.emit o) :=
  ⟨rfl, fun _ _ => rfl, fun _ => List.mem_cons_of_mem _, fun _ => rfl, rfl⟩

theorem setSrc (s : State) (n : Nat) (r : SrcRec) : Noted s (s.setSrc n r) :=
  ⟨rfl, fun _ _ => rfl, fun _ => id, fun _ => rfl, rfl⟩

theorem setIc (s : State) (d : DieId) (x : IntCtl) : Noted s (s.setIc d x) :=
  ⟨rfl, fun _ _ => rfl, fun _ => id, fun _ => rfl, rfl⟩

/-- What the state holds beside all that events reach, an event leaves as it was. -/
theorem keeps {β : Type} (g : State → β) {s t : State} (h : Noted s t)
    (hg : ∀ u : State, g u.withoutEvents = g u := by intro _; rfl) :
    g t = g s := by
  rw [← hg t, h.rest, hg]

/-- What `keeps` is for: the commands that wait are no part of an event. -/
example {s t : State} (h : Noted s t) : t.pending = s.pending := h.keeps State.pending

section Fields
variable {s t : State} (h : Noted s t)
include h

theorem cores : t.cores = s.cores := h.keeps State.cores
theorem core (c : CoreId) : t.core c = s.core c := h.keeps (·.core c)
theorem mem : t.mem = s.mem := h.keeps State.mem
theorem run : t.run = s.run := h.keeps State.run
theorem life : t.life = s.life := h.keeps State.life
theorem power : t.power = s.power := h.keeps State.power
theorem mgmt : t.mgmt = s.mgmt := h.keeps State.mgmt
theorem clocks : t.clocks = s.clocks := h.keeps State.clocks
theorem fabric : t.fabric = s.fabric := h.keeps State.fabric
theorem units : t.units = s.units := h.keeps State.units
theorem dies : t.dies = s.dies := h.keeps State.dies
theorem wear : t.wear = s.wear := h.keeps State.wear
theorem scratch : t.scratch = s.scratch := h.keeps State.scratch
theorem queues : t.host.queues = s.host.queues := h.keeps (·.host.queues)

end Fields
end Noted

section Events
variable (s : State)

theorem signalVector_noted (fn vec : Nat) : Noted s (signalVector s fn vec) := by
  unfold signalVector
  dsimp only
  split
  · exact .refl s
  · split
    · exact ⟨rfl, fun _ _ => rfl, fun _ => id, fun _ => rfl, rfl⟩
    · exact .emit s _

theorem eqRecord_noted (d : DieId) (n kind sev d0 d1 : Nat) : Noted s (eqRecord s d n kind sev d0 d1) := by
  unfold eqRecord
  dsimp only
  split
  · exact (Noted.setIc ..).trans (.bump _ (by decide))
  · exact .setIc ..

theorem ringRecord_noted (r : Fin 8) (n kind sev d0 d1 : Nat) : Noted s (ringRecord s r n kind sev d0 d1) := by
  have hput (x : EventRing) (hx : x.en = s.host.rings[r].en) :
      Noted s { s with host := { s.host with rings := s.host.rings.set r x } } :=
    ⟨rfl, fun _ _ => rfl, fun _ => id, fun i => by
      by_cases hk : r.val = i.val
      · obtain rfl := Fin.ext hk
        simpa using hx
      · simp [hk], rfl⟩
  unfold ringRecord
  dsimp only
  split
  · exact .refl s
  · split
    · refine .trans ?_ (.bump _ (by decide))
      exact hput _ rfl
    · refine .trans ?_ (.when _ (signalVector_noted ..))
      refine .trans ?_ (.emit ..)
      exact hput _ rfl

theorem contrailRecord_noted (n kind sev d0 d1 : Nat) : Noted s (contrailRecord s n kind sev d0 d1) := by
  have hqueue (seq : Nat) (l : List (List Byte)) : Noted s { s with irq := { s.irq with contrailSeq := seq, contrail := l } } :=
    ⟨rfl, fun _ _ => rfl, fun _ => id, fun _ => rfl, rfl⟩
  unfold contrailRecord
  dsimp only
  split
  · exact (hqueue _ s.irq.contrail).trans (.bump _ (by decide))
  · exact hqueue ..

theorem sendRecords_noted (n kind d0 d1 : Nat) : Noted s (sendRecords s n kind d0 d1) := by
  unfold sendRecords
  extract_lets r s1 s2 s3
  have h1 : Noted s s1 := .when _ (ringRecord_noted ..)
  have h2 : Noted s1 s2 := .when _ (signalVector_noted ..)
  have h3 : Noted s2 s3 := .when _ (signalVector_noted ..)
  exact ((h1.trans h2).trans h3).trans (.when _ (contrailRecord_noted ..))

theorem zenithSide_noted (n kind d0 d1 : Nat) : Noted s (zenithSide s n kind d0 d1) := by
  unfold zenithSide
  dsimp only
  split
  · exact .refl s
  · split
    · exact .setSrc ..
    · exact eqRecord_noted ..

theorem quarantine_noted (n d0 d1 : Nat) : Noted s (quarantine s n d0 d1) := by
  unfold quarantine
  extract_lets r s1 d s2
  have h1 : Noted s s1 := (Noted.setSrc ..).trans (.bump _ (by decide))
  have h2 : Noted s1 s2 := .when _ (eqRecord_noted ..)
  exact (h1.trans h2).trans (sendRecords_noted ..)

theorem raise_noted (n d0 d1 : Nat) : Noted s (raise s n d0 d1) := by
  unfold raise
  split
  · exact .refl s
  · extract_lets r r' s1
    have h1 : Noted s s1 := (Noted.setSrc ..).trans (.bump _ (by decide))
    split
    · exact .setSrc ..
    · split
      · exact h1.trans (quarantine_noted ..)
      · exact (h1.trans (zenithSide_noted ..)).trans (sendRecords_noted ..)

theorem raiseOn_noted (d : DieId) (l d0 d1 : Nat) : Noted s (raiseOn s d l d0 d1) := raise_noted ..

theorem setLevel_noted (n : Nat) (on : Bool) (d0 d1 : Nat) : Noted s (setLevel s n on d0 d1) := by
  unfold setLevel
  exact (Noted.setSrc ..).trans (.when _ (raise_noted ..))

/-! ### Claims that end, and controllers that enter QUEUE (17 R385, R386, R389) -/

theorem sampleLevel_noted (n : Nat) : Noted s (sampleLevel s n) := by
  unfold sampleLevel
  dsimp only
  split
  · exact .refl s
  · split
    · exact .setSrc ..
    · exact (Noted.setSrc ..).trans (.bump _ (by decide))

theorem endClaim_noted (n : Nat) : Noted s (endClaim s n) := by
  unfold endClaim
  extract_lets s1 r done
  have h1 : Noted s s1 := sampleLevel_noted s n
  split
  · exact h1.trans (.setSrc ..)
  · split
    · split
      · exact (h1.trans (.setSrc ..)).trans (quarantine_noted ..)
      · exact h1.trans (.setSrc ..)
    · exact h1.trans (.setSrc ..)

theorem endClaims_noted (ns : List Nat) : Noted s (endClaims s ns) := .each s _ endClaim_noted

theorem flushSource_noted (n : Nat) : Noted s (flushSource s n) := by
  unfold flushSource
  dsimp only
  split
  · exact (Noted.setSrc ..).trans (eqRecord_noted ..)
  · exact .refl s

theorem enterQueue_noted (d : DieId) (entry : Nat) : Noted s (enterQueue s d entry) := by
  unfold enterQueue
  extract_lets s1 s2
  have h1 : Noted s s1 := endClaims_noted ..
  have h2 : Noted s1 s2 := .each s1 _ flushSource_noted
  exact (h1.trans h2).trans (.setIc ..)

end Events

end Sys2Proof.Machine
end

section
/-!
Proofs: the queues of the host: fetch, copies, doorbells and their registers (15 R341 to R350).
-/
namespace Sys2Proof.Machine

/-! ## Commands fetched and completed (15 R341 to R345) -/

section Queues
variable (s : State) (q : Fin 64)

theorem modQueue_congr {f g : HostQueue → HostQueue} (h : f (s.queue q) = g (s.queue q)) : modQueue s q f = modQueue s q g := by
  have hmod : vmod s.host.queues q f = vmod s.host.queues q g := congrArg (s.host.queues.set q) h
  rw [modQueue, modQueue, hmod]

theorem queueError_faults {cause : Nat} (hst : (s.queue q).st ≠ 2) :
    let t := queueError s q cause
    (t.queue q).st = 2 ∧ (t.queue q).cause = cause ∧ (t.queue q).cmd = (s.queue q).cmd ∧ ∀ r, r ≠ q → t.queue r = s.queue r := by
  have hview (r : Fin 64) := queue_of_hostView
    (raise_hostView (modQueue s q fun x => { x with st := 2, cause := cause }) 267 q.val cause) r
  simp only [queueError, if_neg hst, hview, queue_modQueue_same]
  exact ⟨trivial, trivial, trivial, fun r hr => queue_modQueue_ne s _ hr⟩

theorem complete_queue_ne {r : Fin 64} (hr : r ≠ q) (status a b c : Nat) : (complete s q status a b c).queue r = s.queue r :=
  complete_keeps (·.queue r) status a b c (fun _ => queue_modQueue_ne s _ hr) fun _ _ => queue_of_hostView (signalVector_hostView ..) r

/-- What a completion leaves alone: all but the host interface, the outputs and the counters. -/
theorem complete_rest {β : Type} (g : State → β) (status a b c : Nat)
    (hg : ∀ (u : State) (h : HostIf), g { u.withoutEvents with host := h } = g u) : g (complete s q status a b c) = g s :=
  have hfree {t u : State} (h : { t.withoutEvents with host := s.host } = { u.withoutEvents with host := s.host }) : g t = g u := by
    rw [← hg t s.host, h, hg]
  complete_keeps g status a b c (fun _ => hfree rfl) fun t vec =>
    hfree (congrArg (fun v : State => { v with host := s.host }) (signalVector_withoutEvents t 0 vec))

theorem completePlain_completed {c : HostCmd} (hcmd : (s.queue q).cmd = some c) {status : Nat} (h : status < 256) :
    Completed s (completePlain s q status) q c status :=
  complete_completed (s := s.draw.2.draw.2.draw.2) hcmd h ..

theorem completePlain_queue_ne {r : Fin 64} (hr : r ≠ q) (status : Nat) : (completePlain s q status).queue r = s.queue r :=
  complete_queue_ne s.draw.2.draw.2.draw.2 q hr ..

theorem completePlain_mem (status : Nat) : (completePlain s q status).mem = s.mem :=
  complete_rest s.draw.2.draw.2.draw.2 q State.mem _ _ _ _ fun _ _ => rfl

theorem completePlain_cores (status : Nat) : (completePlain s q status).cores = s.cores :=
  complete_rest s.draw.2.draw.2.draw.2 q State.cores _ _ _ _ fun _ _ => rfl

end Queues

theorem cmd_of_waitingCmd {s : State} {q : Fin 64} {op : Nat} {c : HostCmd} (h : waitingCmd s q op = some c) :
    (s.queue q).cmd = some c := by
  unfold waitingCmd at h
  split at h
  · rename_i hcmd
    rw [hcmd, (Option.ite_none_right_eq_some.mp h).2]
  · exact nomatch h

/-- A queue that round robin serves is running, so that an error found there is its first. -/
theorem st_of_nextQueue {s : State} {q : Fin 64} (h : nextQueue s = some q) : (s.queue q).st = 1 := by
  have hfetch := List.find?_some h
  simp only [fetchable, Bool.and_eq_true, beq_iff_eq] at hfetch
  obtain ⟨⟨⟨⟨-, hst⟩, -⟩, -⟩, -⟩ := hfetch
  exact hst

theorem exec_commandFetch (bytes : Option (List Byte)) (s : State) : exec (.commandFetch bytes) s = execCommandFetch bytes s := rfl

theorem exec_nop (q : Fin 64) (s : State) : exec (.nop q) s = execNop q s := rfl

/-- The state with a command of 64 bytes in its queue. -/
def fetched (s : State) (q : Fin 64) (c : HostCmd) : State :=
  modQueue { s with host := { s.host with lastQueue := q.val } } q fun x =>
    { x with cmd := some c, sqHead := (x.sqHead + 1) % 2 ^ x.size }

theorem commandFetch_of_taken {s : State} {q : Fin 64} (hnext : nextQueue s = some q) {raw : List Byte}
    (htaken : fetchStatus s (fitBytes 64 raw) = none) : ∃ order, exec (.commandFetch (some raw)) s =
      .next (let t := fetched s q (hostCmdOf (fitBytes 64 raw)); { t with host := { t.host with order := order } }) := by
  simp only [exec_commandFetch, execCommandFetch, hnext, htaken]
  split
  · exact ⟨_, rfl⟩
  · exact ⟨s.host.order, rfl⟩

/-- Settles O35: fetch, error and NOP. -/
theorem hostCommandsAreFetchedInTurn : Obligations.HostCommandsAreFetchedInTurn := by
  refine ⟨fun raw s q hnext htaken => ?_, fun s q hnext => ?_, fun q c s hcmd => ?_⟩
  · obtain ⟨order, hexec⟩ := commandFetch_of_taken hnext htaken
    have hq : (fetched s q (hostCmdOf (fitBytes 64 raw))).queue q = _ := queue_modQueue_same ..
    exact ⟨_, hexec, congrArg HostQueue.cmd hq, congrArg HostQueue.sqHead hq,
      fun r hr => queue_modQueue_ne { s with host := { s.host with lastQueue := q.val } } _ hr, rfl, rfl⟩
  · have hst : (s.queue q).st ≠ 2 := by simp [st_of_nextQueue hnext]
    have hfault := queueError_faults { s with host := { s.host with lastQueue := q.val } } q (cause := 3) hst
    refine ⟨_, ?_, hfault.1, hfault.2.1, hfault.2.2.1⟩
    simp only [exec_commandFetch, execCommandFetch, hnext]
  · refine ⟨completePlain s q 0, ?_, completePlain_completed s q (cmd_of_waitingCmd hcmd) (by decide),
      fun r hr => completePlain_queue_ne s q hr 0, completePlain_mem s q 0, completePlain_cores s q 0⟩
    simp only [exec_nop, execNop, hcmd]

end Sys2Proof.Machine
end

section
/-!
Proofs: copies between the host and the device (15 R343 to R346).
-/
namespace Sys2Proof.Machine

theorem exec_copyToDevice (q : Fin 64) (s : State) : exec (.copyToDevice q) s = .next (startCopy s q true) := rfl

theorem exec_copyFromDevice (q : Fin 64) (s : State) : exec (.copyFromDevice q) s = .next (startCopy s q false) := rfl

theorem exec_copyChunkDone (q : Fin 64) (slot : Fin 4) (data : Option (List Byte)) (retried : Bool) (how : MemOutcome)
    (inFlight : Fin 4) (s : State) :
    exec (.copyChunkDone q slot data retried how inFlight) s = execCopyChunkDone q slot data retried how inFlight s := rfl

/-- A queue's command marked as started, written out. -/
theorem markStarted_of_cmd {s : State} {q : Fin 64} {c : HostCmd} (hcmd : (s.queue q).cmd = some c) (chunks : List Nat) :
    markStarted s q chunks = modQueue s q fun x => { x with cmd := some { c with started := true, chunks := chunks } } :=
  modQueue_congr s q (by simp [hcmd])

theorem startCopy_of_ok {s : State} {q : Fin 64} {c : HostCmd} {toDevice : Bool} (hok : copyOk s c = true)
    (hcmd : waitingCmd s q (if toDevice then 1 else 2) = some c) (hcode : toDevice = true → inCode s c.b c.c = false) :
    startCopy s q toDevice = markStarted s q (List.replicate (copyCount c.b c.c) 255) := by
  have hfree : (toDevice && inCode s c.b c.c) = false := by
    cases toDevice
    · rfl
    · exact hcode rfl
  simp [startCopy, hcmd, hok, hfree]

/-- The state once a chunk of a copy to the device has arrived in good order and its code is noted. -/
def chunkTaken (s : State) (q : Fin 64) (c : HostCmd) (j : Nat) (bs : List Byte) : State :=
  let sp := copySpan c.b c.c j
  ((modQueue (memStore s sp.1 (fitBytes sp.2 bs) (some .normal)) q fun x =>
    { x with cmd := some { c with chunks := c.chunks.set j 0 } }).bumpBy 0x690003 0).bumpBy 0x690002 sp.2

section Chunk
variable {s : State} {q : Fin 64} {c : HostCmd} {j : Nat} (bs : List Byte)

theorem chunkTaken_queue : (chunkTaken s q c j bs).queue q = { s.queue q with cmd := some { c with chunks := c.chunks.set j 0 } } := by
  have hview := queue_of_hostView (memStore_hostView s (copySpan c.b c.c j).1 (fitBytes (copySpan c.b c.c j).2 bs) (some .normal)) q
  exact (queue_modQueue_same ..).trans (by rw [hview])

theorem chunkTaken_queue_ne {r : Fin 64} (hr : r ≠ q) : (chunkTaken s q c j bs).queue r = s.queue r :=
  (queue_modQueue_ne _ _ hr).trans (queue_of_hostView (memStore_hostView ..) r)

/-- A good chunk: the copy goes on while chunks are open, and ends with the last. -/
theorem copyChunkDone_of_good {slot inFlight : Fin 4} (hcmd : (s.queue q).cmd = some c) (hstarted : c.started = true)
    (hop : c.op = 1) (hopen : (copyOpen c.chunks)[slot.val]? = some j)
    (hready : initialising s (copySpan c.b c.c j).1 = false) (hended : c.ended = false) :
    exec (.copyChunkDone q slot (some bs) false .good inFlight) s = .next
      (let t := chunkTaken s q c j bs
       if (c.chunks.set j 0).contains 255 then t
       else finishCopy t q { c with chunks := c.chunks.set j 0 } (c.chunks.set j 0)
        (if (c.chunks.set j 0).all (· == 0) then 0 else 6)) := by
  have hin : copyIn s c j (some bs) .good = (0, memStore s (copySpan c.b c.c j).1 (fitBytes (copySpan c.b c.c j).2 bs)
      (some .normal)) := rfl
  have hcmd' : ((chunkTaken s q c j bs).queue q).cmd = some { c with chunks := c.chunks.set j 0 } :=
    congrArg HostQueue.cmd (chunkTaken_queue bs)
  have hnew : (MemOutcome.good == MemOutcome.transient) = false := rfl
  obtain ⟨op, flags, id, a, b, n, d, chunks, started, ended⟩ := c
  simp only at hstarted hop hended
  subst hstarted hop hended
  simp only [chunkTaken] at hcmd'
  simp [exec_copyChunkDone, execCopyChunkDone, hcmd, hopen, hready, hin, hnew, hcmd', chunkTaken]

end Chunk

/-- A copy that ends without a failed read writes its map and its completion entry. -/
theorem finishCopy_completed {s : State} {q : Fin 64} {c : HostCmd} (hcmd : (s.queue q).cmd = some c) {codes : List Nat}
    (hread : codes.contains 2 = false) {status : Nat} (hstatus : status < 256) :
    Completed s (finishCopy s q c codes status) q c status := by
  unfold finishCopy
  simp only [hread, State.when_false]
  unfold State.when
  split
  · exact (complete_completed (s := s.emit _) hcmd hstatus ..).ofHostView rfl
  · exact complete_completed hcmd hstatus ..

theorem contains_eq_false_of_all_zero {codes : List Nat} (h : ∀ k ∈ codes, k = 0) {n : Nat} (hn : n ≠ 0) :
    codes.contains n = false := by
  simp only [List.contains_eq_mem, decide_eq_false_iff_not]
  exact fun hmem => hn (h n hmem)

/-- Settles O36: the start of a copy, and the arrival of its chunks. -/
theorem copiesGoByChunks : Obligations.CopiesGoByChunks := by
  refine ⟨fun q c s hok => ⟨fun hcmd hcode => ?_, fun hcmd => ?_⟩,
    fun q slot bs inFlight c j s hcmd hstarted hop hopen hready hended => ⟨fun hmore => ?_, fun hall => ?_⟩⟩
  · rw [exec_copyToDevice, startCopy_of_ok (toDevice := true) hok hcmd fun _ => hcode,
      markStarted_of_cmd (cmd_of_waitingCmd hcmd)]
  · rw [exec_copyFromDevice, startCopy_of_ok (toDevice := false) hok hcmd nofun, markStarted_of_cmd (cmd_of_waitingCmd hcmd)]
  · refine ⟨_, copyChunkDone_of_good bs hcmd hstarted hop hopen hready hended, ?_⟩
    simp only [hmore, if_true]
    exact ⟨congrArg HostQueue.cmd (chunkTaken_queue bs), fun r hr => chunkTaken_queue_ne bs hr⟩
  · refine ⟨_, copyChunkDone_of_good bs hcmd hstarted hop hopen hready hended, ?_⟩
    have hzero : (c.chunks.set j 0).all (· == 0) = true := by simpa using hall
    simp only [contains_eq_false_of_all_zero hall (n := 255) (by decide), hzero, Bool.false_eq_true, if_false, if_true]
    have hqueue := chunkTaken_queue (s := s) (q := q) (c := c) (j := j) bs
    obtain ⟨hnone, hused, out, hout⟩ := finishCopy_completed (congrArg HostQueue.cmd hqueue)
      (contains_eq_false_of_all_zero hall (n := 2) (by decide)) (status := 0) (by decide)
    rw [hqueue] at hused hout
    exact ⟨hnone, hused, out, hout⟩

end Sys2Proof.Machine
end

section
/-!
Proofs: doorbells and the registers of queues, event rings and the window (15 R339, R341, R347, R349, R350).
-/
namespace Sys2Proof.Machine

theorem exec_sqTailWrite (q : Fin 64) (v : BitVec 32) (good ep : Bool) (s : State) :
    exec (.sqTailWrite q v good ep) s = execSqTailWrite q v good ep s := rfl

theorem exec_cqHeadWrite (q : Fin 64) (v : BitVec 32) (good ep : Bool) (s : State) :
    exec (.cqHeadWrite q v good ep) s = execCqHeadWrite q v good ep s := rfl

theorem exec_evrHeadWrite (r : Fin 8) (v : BitVec 32) (good ep : Bool) (s : State) :
    exec (.evrHeadWrite r v good ep) s = execEvrHeadWrite r v good ep s := rfl

theorem exec_queueEnable (q : Fin 64) (v : BitVec 64) (s : State) :
    exec (.queueEnable q v) s = .next (writeQCtrl s q (setBitAt v.toNat 63 true)) := rfl

theorem exec_queueDisable (q : Fin 64) (v : BitVec 64) (s : State) :
    exec (.queueDisable q v) s = .next (writeQCtrl s q (setBitAt v.toNat 63 false)) := rfl

theorem exec_eventRingEnable (r : Fin 8) (v : BitVec 64) (s : State) :
    exec (.eventRingEnable r v) s = .next (writeRingCtrl s r (setBitAt v.toNat 63 true)) := rfl

theorem exec_eventRingDisable (r : Fin 8) (v : BitVec 64) (s : State) :
    exec (.eventRingDisable r v) s = .next (writeRingCtrl s r (setBitAt v.toNat 63 false)) := rfl

theorem exec_winBaseWrite (v : BitVec 64) (s : State) : exec (.winBaseWrite v) s = .next (writeWinBase s v.toNat) := rfl

/-! ## Bits of a value written -/

@[simp] theorem bitAt_setBitAt_same (x i : Nat) (b : Bool) : bitAt (setBitAt x i b) i = b := by
  rw [bitAt_eq_testBit, testBit_setBitAt, if_pos rfl]

/-- EN is above the size of a control register. -/
theorem size_setEn (v : Nat) (b : Bool) : fld (setBitAt v 63 b) 0 5 = fld v 0 5 := by
  simp only [fld, setBitAt, setFld]
  omega

/-! ## Doorbells (15 R341, R347, R349) -/

section Doorbells
variable (s : State) (q : Fin 64) (v : BitVec 32)

/-- A doorbell of 4 aligned bytes without EP to an enabled queue or ring acts. -/
theorem doorbell_good (f : State → State) : doorbell s true true false f = f s := rfl

theorem sqTailWrite_of_slot (hen : (s.queue q).en = true) (hv : v.toNat < 2 ^ (s.queue q).size) :
    exec (.sqTailWrite q v true false) s = .next (modQueue s q fun x => { x with sqTail := v.toNat }) := by
  simp [exec_sqTailWrite, execSqTailWrite, hen, doorbell_good, hv]

theorem sqTailWrite_beyond (hen : (s.queue q).en = true) (hv : 2 ^ (s.queue q).size ≤ v.toNat) :
    exec (.sqTailWrite q v true false) s = .next (queueError s q 1) := by
  simp [exec_sqTailWrite, execSqTailWrite, hen, doorbell_good, hv]

theorem cqHeadWrite_of_used (hen : (s.queue q).en = true) (hv : v.toNat < 2 ^ (s.queue q).size)
    (hused : (v.toNat + 2 ^ (s.queue q).size - (s.queue q).cqHead) % 2 ^ (s.queue q).size ≤ (s.queue q).cqUsed) :
    exec (.cqHeadWrite q v true false) s = .next (modQueue s q fun x => { x with
      cqHead := v.toNat, cqUsed := x.cqUsed - (v.toNat + 2 ^ x.size - x.cqHead) % 2 ^ x.size }) := by
  simp only [exec_cqHeadWrite, execCqHeadWrite, hen, doorbell_good]
  rw [if_neg (by simp [hv, hused])]
  exact congrArg _ (modQueue_congr s q rfl)

theorem cqHeadWrite_beyond (hen : (s.queue q).en = true) (hv : 2 ^ (s.queue q).size ≤ v.toNat) :
    exec (.cqHeadWrite q v true false) s = .next (queueError s q 2) := by
  simp [exec_cqHeadWrite, execCqHeadWrite, hen, doorbell_good, hv]

theorem evrHeadWrite_of_slot (r : Fin 8) (hen : s.host.rings[r].en = true) (hv : v.toNat < 2 ^ s.host.rings[r].size) :
    exec (.evrHeadWrite r v true false) s = .next { s with host := { s.host with rings := vmod s.host.rings r fun y => { y with
      head := v.toNat, used := (y.tail + 2 ^ y.size - v.toNat) % 2 ^ y.size } } } := by
  simp only [exec_evrHeadWrite, execEvrHeadWrite, hen, doorbell_good, if_neg hv.not_ge]
  rfl

end Doorbells

/-! ## Queue and ring registers (15 R350) -/

section Control
variable (s : State) (q : Fin 64) (r : Fin 8) (v : Nat)

theorem sizeOk_of_range {n : Nat} (hlow : 4 ≤ n) (hhigh : n ≤ 16) : sizeOk n = true := by
  simp [sizeOk, hlow, hhigh]

/-- A disabled queue enabled with a size it may have starts at slot 0. -/
theorem writeQCtrl_enable (hoff : (s.queue q).en = false) (hsize : sizeOk (fld v 0 5) = true) :
    (writeQCtrl s q (setBitAt v 63 true)).queue q = { s.queue q with
      irqEn := bitAt (setBitAt v 63 true) 62, vector := fld (setBitAt v 63 true) 32 11, size := fld v 0 5, en := true, st := 1
      cause := 0, sqHead := 0, sqTail := 0, cqHead := 0, cqWrite := 0, cqUsed := 0, phase := true } := by
  rw [writeQCtrl, queue_modQueue_same]
  simp [hoff, size_setEn, hsize]

theorem writeQCtrl_disable : ((writeQCtrl s q (setBitAt v 63 false)).queue q).en = false := by
  rw [writeQCtrl, queue_modQueue_same]
  simp

theorem writeRingCtrl_ring : (writeRingCtrl s r v).host.rings[r] =
    let x := s.host.rings[r]
    if x.en && bitAt v 63 then x
    else
      let y := { x with irqEn := bitAt v 62, vector := fld v 32 11, size := fld v 0 5 }
      if bitAt v 63 && sizeOk (fld v 0 5) then { y with en := true, head := 0, tail := 0, used := 0, phase := true, seq := 0 }
      else { y with en := false } := vmod_same ..

theorem writeRingCtrl_ring_ne {k : Fin 8} (hk : k ≠ r) : (writeRingCtrl s r v).host.rings[k] = s.host.rings[k] := vmod_ne _ _ hk

/-- A disabled event ring enabled with a size it may have starts at slot 0. -/
theorem writeRingCtrl_enable (hoff : s.host.rings[r].en = false) (hsize : sizeOk (fld v 0 5) = true) :
    (writeRingCtrl s r (setBitAt v 63 true)).host.rings[r] = { s.host.rings[r] with
      irqEn := bitAt (setBitAt v 63 true) 62, vector := fld (setBitAt v 63 true) 32 11, size := fld v 0 5, en := true
      head := 0, tail := 0, used := 0, phase := true, seq := 0 } := by
  simp only [writeRingCtrl_ring, hoff, bitAt_setBitAt_same, size_setEn, hsize, Bool.false_and, Bool.and_self,
    Bool.false_eq_true, if_false, if_true]

theorem writeRingCtrl_disable : (writeRingCtrl s r (setBitAt v 63 false)).host.rings[r].en = false := by
  rw [writeRingCtrl_ring]
  simp

end Control

/-- Settles O39, one lemma for each register. -/
theorem doorbellsAndRingRegisters : Obligations.DoorbellsAndRingRegisters := by
  refine ⟨fun q v s hen => ⟨fun hv => ⟨sqTailWrite_of_slot s q v hen hv, cqHeadWrite_of_used s q v hen hv⟩, fun hv hst => ?_⟩,
    fun r v s => evrHeadWrite_of_slot s v r, fun q v s hoff hlow hhigh => ?_, fun q v s => ?_, fun r v s hoff hlow hhigh => ?_,
    fun r v s => ?_, fun v s hbase => ?_⟩
  · obtain ⟨hst1, hcause1, -, hne1⟩ := queueError_faults s q (cause := 1) hst
    obtain ⟨hst2, hcause2, -, hne2⟩ := queueError_faults s q (cause := 2) hst
    exact ⟨⟨_, sqTailWrite_beyond s q v hen hv, hst1, hcause1, hne1⟩, ⟨_, cqHeadWrite_beyond s q v hen hv, hst2, hcause2, hne2⟩⟩
  · refine ⟨_, exec_queueEnable q v s, ?_⟩
    rw [writeQCtrl_enable s q _ hoff (sizeOk_of_range hlow hhigh)]
    exact ⟨rfl, rfl, rfl, rfl, rfl, rfl, rfl, rfl, fun r hr => queue_modQueue_ne s _ hr⟩
  · exact ⟨_, exec_queueDisable q v s, writeQCtrl_disable s q _, fun r hr => queue_modQueue_ne s _ hr⟩
  · refine ⟨_, exec_eventRingEnable r v s, ?_⟩
    rw [writeRingCtrl_enable s r _ hoff (sizeOk_of_range hlow hhigh)]
    exact ⟨rfl, rfl, rfl, rfl, rfl, rfl, fun k hk => writeRingCtrl_ring_ne s r _ hk⟩
  · exact ⟨_, exec_eventRingDisable r v s, writeRingCtrl_disable s r _, fun k hk => writeRingCtrl_ring_ne s r _ hk⟩
  · rw [exec_winBaseWrite, writeWinBase]
    simp only [hbase, if_true]

end Sys2Proof.Machine
end

section
/-!
Proofs: answers to the two masters, and what they leave alone (16 R355 to R362).
-/
namespace Sys2Proof.Machine

/-! ## Answers to the two masters (16 R360 to R362) -/

/-- The state with what an answer can reach put aside: outputs, pending vectors and the buffers of the mailbox. -/
def State.withoutMail (s : State) : State :=
  { s with out := [], host := { s.host with msixPend := [] }
           mgmt := { s.mgmt with response := [], busy := false, mbxDone := false } }

/-- An answer has been sent to a master: from the mailbox to the host, in an MCTP message of a type to the other. -/
def Sent (t : State) (m : Fin 2) (type : Nat) (bs : List Byte) : Prop :=
  (m = 0 → Output.reply 0 bs ∈ t.out) ∧ (m = 1 → Output.mctp type bs ∈ t.out)

/-- What the state holds beside all that answers reach, equal states but for an answer share. -/
theorem keeps_of_withoutMail {β : Type} (g : State → β) {s t : State} (h : t.withoutMail = s.withoutMail)
    (hg : ∀ u : State, g u.withoutMail = g u := by intro _; rfl) : g t = g s := by
  rw [← hg t, h, hg]

section Answers
variable (s : State)

theorem signalVector_withoutMail (fn vec : Nat) : (signalVector s fn vec).withoutMail = s.withoutMail := by
  unfold signalVector
  dsimp only
  split
  · rfl
  · split <;> rfl

theorem answerHost_withoutMail (bs : List Byte) : (answerHost s bs).withoutMail = s.withoutMail := by
  have hsignal (t : State) : (t.when t.mgmt.irqEn fun u => signalVector u 1 0).withoutMail = t.withoutMail :=
    State.when_keeps _ State.withoutMail _ _ (signalVector_withoutMail ..)
  exact hsignal _

theorem answerContrail_withoutMail (type : Nat) (bs : List Byte) : (answerContrail s type bs).withoutMail = s.withoutMail := rfl

theorem deliverAnswer_withoutMail (m : Fin 2) (bs : List Byte) : (deliverAnswer s m bs).withoutMail = s.withoutMail := by
  unfold deliverAnswer
  split
  · exact answerHost_withoutMail ..
  · exact answerContrail_withoutMail ..

/-- The mailbox after an answer: the response buffer is filled, BUSY clear and DONE set. -/
theorem answerHost_mgmt (bs : List Byte) :
    (answerHost s bs).mgmt = { s.mgmt with response := bs, busy := false, mbxDone := true } :=
  State.when_keeps _ State.mgmt _ (fun t => signalVector t 1 0) (signalVector_noted ..).mgmt

theorem mem_answerHost_out (bs : List Byte) : Output.reply 0 bs ∈ (answerHost s bs).out := List.mem_cons_self

theorem mem_answerContrail_out (type : Nat) (bs : List Byte) : Output.mctp type bs ∈ (answerContrail s type bs).out :=
  List.mem_cons_of_mem _ List.mem_cons_self

theorem deliverAnswer_told (m : Fin 2) (q : EnyReq) (a : EnyAnswer) :
    Told (deliverAnswer s m (answerBytes q a)) m q a.status a.off a.data := by
  refine ⟨fun hm => ?_, fun hm => ?_⟩
  · rw [deliverAnswer, if_pos (by simp [hm])]
    exact mem_answerHost_out ..
  · rw [deliverAnswer, if_neg (by simp [hm])]
    exact mem_answerContrail_out ..

end Answers

/-! ## Requests (16 R355 to R359) -/

section Request
variable {s : State} {m : Fin 2} {q : EnyReq} {secure : Bool}

/-- A served request that does not reset the package is answered once it has acted. -/
theorem request_of_answer (hserved : served s m = true) {a : EnyAnswer} {t : State} (hanswer : answerRequest s m q secure = (a, t))
    (hstage : t.life.stage = s.life.stage) : request s m q secure = deliverAnswer t m (answerBytes q a) := by
  have hnot : ¬ s.life.stage = 1 := by
    simp only [served, Bool.and_eq_true, bne_iff_ne] at hserved
    exact hserved.1.2
  simp [request, hserved, hanswer, hstage, hnot]

theorem answerRequest_of_badOpcode (hop : q.op = 0 ∨ 5 < q.op) : answerRequest s m q secure = (plainAnswer q stOpcode, s) := by
  simp [answerRequest, hop]

variable (hlen : q.len ≤ 1024) (hsecure : notSecure s m q.op secure = false)
include hlen hsecure

/-- A request that names an object, in a state that permits it. -/
theorem answerRequest_of_object {o : Obj} (hop : q.op = 1 ∨ q.op = 2 ∨ q.op = 5) (hobj : objFind q.index q.sub = some o)
    (hpermits : statePermitsReq s (q.op == 2) q.index = true) (hlicence : unlicensed s q.key = false) :
    answerRequest s m q secure = if q.op = 1 then readObject s m o q else if q.op = 2 then writeObject s m o q
      else describeObject s o q := by
  have hlen' : ¬ 1024 < q.len := by omega
  obtain h | h | h := hop <;> simp only [h, Nat.reduceBEq] at hsecure hpermits <;>
    simp [answerRequest, h, hlen', hsecure, hobj, hpermits, hlicence]

/-- A request that names an index to lock or free, in a state that permits it. -/
theorem answerRequest_of_lock (hop : q.op = 3 ∨ q.op = 4) (hindex : objIndexExists q.index = true)
    (hpermits : statePermitsReq s true q.index = true) :
    answerRequest s m q secure = if q.op = 3 then lockIndex s m q else unlockIndex s m q := by
  have hlen' : ¬ 1024 < q.len := by omega
  obtain h | h := hop <;> simp only [h] at hsecure <;> simp [answerRequest, h, hlen', hsecure, hindex, hpermits]

end Request

/-! ## Objects read and written (16 R357, R358, R365) -/

section Objects
variable {s : State} {m : Fin 2} {o : Obj} {q : EnyReq}

/-- A READ from offset 0 answers the value and takes a snapshot. -/
theorem readObject_of_start (haccess : o.access ≠ .wo) (hoff : q.off = 0) : readObject s m o q =
    (⟨stOk, (objBytes (bringUpToDate s q.key) o q.key).length, (objBytes (bringUpToDate s q.key) o q.key).take q.len⟩,
      setObjSnap (clearRead (bringUpToDate s q.key) q.key) m ⟨q.key, objBytes (bringUpToDate s q.key) o q.key, s.now⟩) := by
  simp [readObject, haccess, hoff]

/-- What a READ changes of the dictionary are the two objects brought up to date and the two that it clears. -/
theorem clearRead_obj {key k : Nat} (h : k ≠ 0x610007 ∧ k ≠ 0xA10003) : (clearRead s key).obj k = s.obj k := by
  obtain ⟨hsettle, hpeak⟩ := h
  unfold clearRead State.when
  split
  · rename_i hkey
    refine State.obj_setObj_ne s 0 fun e => ?_
    subst e
    simp_all
  · rfl

theorem bringUpToDate_obj {key k : Nat} (h : k ≠ 0x64000E ∧ k ≠ 0x692004) : (bringUpToDate s key).obj k = s.obj k := by
  obtain ⟨htags, hcross⟩ := h
  unfold bringUpToDate
  split
  · rename_i hkey
    exact State.obj_setObj_ne s.draw.2 _ (hkey ▸ htags)
  · split
    · rename_i hkey
      exact State.obj_bumpBy_ne s.draw.2 _ (hkey ▸ hcross)
    · rfl

/-- What is neither in the dictionary nor the count of free values, a READ leaves as it was, but for its snapshot. -/
theorem clearRead_keeps {β : Type} (g : State → β) (hg : ∀ (u : State) d, g { u with dict := d } = g u := by intros; rfl)
    (key : Nat) : g (clearRead s key) = g s := State.when_keeps s g _ _ (hg ..)

theorem bringUpToDate_keeps {β : Type} (g : State → β)
    (hg : ∀ (u : State) d n, g { u with dict := d, free := n } = g u := by intros; rfl) (key : Nat) :
    g (bringUpToDate s key) = g s := by
  unfold bringUpToDate
  split
  · exact hg s _ _
  · split
    · exact hg s _ _
    · rfl

/-- STATE_COMMAND and the resets are write-only: no writable object holds a command. -/
theorem key_of_writable (hsub : q.sub < 256) (hobj : objFind q.index q.sub = some o) (haccess : o.access = .rw ∨ o.access = .rwp) :
    q.key ≠ 0x100102 ∧ q.key ≠ 0x2A0001 ∧ q.key ≠ 0x2A0002 := by
  have hcommand (i k : Nat) (hk : k < 256) (hwo : (objFind i k).map (·.access) = some .wo) : q.key ≠ objKey i k := by
    intro hkey
    simp only [EnyReq.key, objKey] at hkey
    obtain ⟨hi, hs⟩ : q.index = i ∧ q.sub = k := by omega
    rw [← hi, ← hs, hobj] at hwo
    have hwo' : o.access = .wo := Option.some.inj hwo
    simp [hwo'] at haccess
  exact ⟨hcommand 0x1001 2 (by decide) (by decide), hcommand 0x2A00 1 (by decide) (by decide),
    hcommand 0x2A00 2 (by decide) (by decide)⟩

/-- Outside 0x2110 while an image is loaded, an object that holds no command takes the value written. -/
theorem storeObject_of_value {v : Nat} (hsub : q.sub < 256)
    (hkey : q.key ≠ 0x100102 ∧ q.key ≠ 0x2A0001 ∧ q.key ≠ 0x2A0002) (hshare : q.index ≠ 0x2110 ∨ s.hasImage = false) :
    ∃ t, storeObject s q v = (plainAnswer q stOk, t) ∧ t.obj q.key = v ∧ t.cores = s.cores ∧ t.life = s.life := by
  have hreservation (h : q.key = 0x211002 ∨ q.key = 0x211004 ∨ q.key = 0x211005) :
      writeReservation s q v = (plainAnswer q stOk, s.setObj q.key v) := by
    have hindex : q.index = 0x2110 := by
      simp only [EnyReq.key, objKey] at h
      omega
    have himage : s.run.image = none := by simpa [State.hasImage] using hshare.resolve_left (not_not_intro hindex)
    simp [writeReservation, himage]
  have hafter : (afterWrite (s.setObj q.key v) q.key).dict = (s.setObj q.key v).dict ∧
      (afterWrite (s.setObj q.key v) q.key).cores = s.cores ∧ (afterWrite (s.setObj q.key v) q.key).life = s.life := by
    unfold afterWrite
    split
    · exact ⟨rfl, rfl, rfl⟩
    · split <;> exact ⟨rfl, rfl, rfl⟩
  have hset : (s.setObj q.key v).obj q.key = v := State.obj_setObj_same ..
  obtain ⟨hcommand, hpackage, hcompute⟩ := hkey
  unfold storeObject
  split
  · contradiction
  · contradiction
  · contradiction
  · exact ⟨_, hreservation (by omega), hset, rfl, rfl⟩
  · exact ⟨_, hreservation (by omega), hset, rfl, rfl⟩
  · exact ⟨_, hreservation (by omega), hset, rfl, rfl⟩
  · obtain ⟨hdict, hcores, hlife⟩ := hafter
    exact ⟨_, rfl, (congrArg (fun d => kvGet (objDefault q.key) d q.key) hdict).trans hset, hcores, hlife⟩

section Write
variable (haccess : o.access = .rw ∨ o.access = .rwp)
include haccess

theorem writeObject_of_locked (hmay : mayWrite s m q = false) : writeObject s m o q = (plainAnswer q stLocked, s) := by
  obtain h | h := haccess <;> simp [writeObject, h, hmay]

/-- A WRITE that passes the checks of R357 stores its value. -/
theorem writeObject_of_allowed (hmay : mayWrite s m q = true) (hoff : q.off = 0) (hlen : q.len = o.type.width / 8)
    (hpreop : o.access = .rwp → s.obj kDeviceState = stPreop) (hlocked : imageLocked q.index = false ∨ s.hasImage = false)
    (hvalue : valueOk s o q.key (leAt q.data 0 (o.type.width / 8)) = true) :
    writeObject s m o q = storeObject s q (leAt q.data 0 (o.type.width / 8)) := by
  have hstate : (o.access = .rwp && s.obj kDeviceState != stPreop : Bool) = false := by
    by_cases h : o.access = .rwp
    · simp [h, hpreop h]
    · simp [h]
  have hlocked' : (imageLocked q.index && s.hasImage) = false := by
    obtain h | h := hlocked <;> simp [h]
  obtain h | h := haccess <;> simp_all [writeObject]

end Write
end Objects
end Sys2Proof.Machine
end

section
/-!
Proofs: requests of the two masters (16 R355 to R368).
-/
namespace Sys2Proof.Machine

/-! ## What changing the device state changes -/

/-- The state with all that an announcement of a new device state can reach put aside. -/
def State.withoutNews (s : State) : State :=
  { s.withoutEvents with free := 0, mgmt := { s.mgmt with evState := false, evLock := false, evIndex := 0 } }

/-- What a message to the masters can do: outputs, event records and their counters, the mailbox's events and the free values it
draws. -/
structure Announced (s t : State) : Prop where
  rest : t.withoutNews = s.withoutNews
  obj : ∀ k, k ∉ eventCounters → t.obj k = s.obj k
  out : ∀ o ∈ s.out, o ∈ t.out
  rings : ∀ r : Fin 8, t.host.rings[r].en = s.host.rings[r].en
  inputs : t.irq.inputs = s.irq.inputs

theorem Noted.announced {s t : State} (h : Noted s t) : Announced s t where
  rest := h.keeps State.withoutNews
  obj := h.obj
  out := h.out
  rings := h.rings
  inputs := h.inputs

namespace Announced

theorem refl (s : State) : Announced s s := (Noted.refl s).announced

theorem trans {s t u : State} (h : Announced s t) (k : Announced t u) : Announced s u where
  rest := k.rest.trans h.rest
  obj key hkey := (k.obj key hkey).trans (h.obj key hkey)
  out o ho := k.out o (h.out o ho)
  rings r := (k.rings r).trans (h.rings r)
  inputs := k.inputs.trans h.inputs

/-- What the state holds beside all that an announcement reaches, it leaves as it was. -/
theorem keeps {β : Type} (g : State → β) {s t : State} (h : Announced s t)
    (hg : ∀ u : State, g u.withoutNews = g u := by intro _; rfl) : g t = g s := by
  rw [← hg t, h.rest, hg]

end Announced

section News
variable (s : State)

theorem notifyContrail_announced (index sub : Nat) (data : List Byte) : Announced s (notifyContrail s index sub data) := by
  unfold notifyContrail
  split
  · exact .refl s
  · exact ⟨rfl, fun _ _ => rfl, fun _ ho => List.mem_cons_of_mem _ (List.mem_cons_of_mem _ ho), fun _ => rfl, rfl⟩

theorem mailboxState_announced : Announced s (mailboxState s) := by
  unfold mailboxState
  refine .trans ?_ (signalVector_noted ..).announced
  exact ⟨rfl, fun _ _ => rfl, fun _ => id, fun _ => rfl, rfl⟩

end News

/-! ## Locks (16 R364 to R368) -/

section Locks
variable {s : State} {m : Fin 2} {q : EnyReq}

theorem lockIndex_of_free (hfree : holder s q.index = none) (hroom : lockCount s m.val < 64) : lockIndex s m q =
    (plainAnswer q stOk, { s with mgmt := { s.mgmt with locks := (q.index, m.val) :: s.mgmt.locks } }) := by
  simp [lockIndex, hfree, Nat.not_le.mpr hroom]

theorem unlockIndex_of_own (hown : holder s q.index = some m.val) : unlockIndex s m q =
    (plainAnswer q stOk, { s with mgmt := { s.mgmt with locks := s.mgmt.locks.filter fun l => l.1 != q.index } }) := by
  simp [unlockIndex, hown]

theorem holder_of_locks {t : State} {locks : List (Nat × Nat)} (h : t.mgmt.locks = locks) (i : Nat) :
    holder t i = (locks.find? fun l => l.1 == i).map (·.2) := by
  rw [holder, h]

theorem holder_cons {t : State} {index master : Nat} (h : t.mgmt.locks = (index, master) :: s.mgmt.locks) (i : Nat) :
    holder t i = if i = index then some master else holder s i := by
  rw [holder_of_locks h, holder, List.find?_cons]
  by_cases hi : i = index
  · simp [hi]
  · have hne : (index == i) = false := by simpa using fun e => hi e.symm
    simp [hne, hi]

theorem holder_filter {t : State} {index : Nat} (h : t.mgmt.locks = s.mgmt.locks.filter fun l => l.1 != index) (i : Nat) :
    holder t i = if i = index then none else holder s i := by
  rw [holder_of_locks h, holder, List.find?_filter]
  by_cases hi : i = index
  · subst hi
    rw [if_pos rfl, Option.map_eq_none_iff, List.find?_eq_none]
    intro l _
    simp
  · have hpred : (fun l : Nat × Nat => decide ((l.1 != index) = true ∧ (l.1 == i) = true)) = fun l => l.1 == i := by
      funext l
      by_cases hl : l.1 = i
      · simp [hl, hi]
      · simp [hl]
    rw [hpred, if_neg hi]

theorem tellBroken_announced (master index : Nat) : Announced (s.bump 0x110102) (tellBroken s master index) := by
  have hset (t : State) : Announced t { t with mgmt := { t.mgmt with evLock := true, evIndex := index } } :=
    ⟨rfl, fun _ _ => rfl, fun _ => id, fun _ => rfl, rfl⟩
  unfold tellBroken
  split
  · exact (hset _).trans (signalVector_noted ..).announced
  · exact notifyContrail_announced ..

theorem objWidth_locksBroken : objWidth 0x110102 = 32 := by decide

/-- Locks broken one after another are counted one after another, and no lock that is left is touched. -/
theorem tellBrokens_counts (master : Nat) (is : List Nat) :
    let t := s.each is fun t i => tellBroken t master i
    t.obj 0x110102 % 2 ^ 32 = (s.obj 0x110102 + is.length) % 2 ^ 32 ∧ t.mgmt.locks = s.mgmt.locks ∧ t.mem = s.mem ∧
      t.cores = s.cores := by
  induction is generalizing s with
  | nil => exact ⟨rfl, rfl, rfl, rfl⟩
  | cons i is ih =>
    have h := tellBroken_announced (s := s) master i
    obtain ⟨hcount, hlocks, hmem, hcores⟩ := ih (s := tellBroken s master i)
    refine ⟨hcount.trans ?_, hlocks.trans (h.keeps (·.mgmt.locks)), hmem.trans (h.keeps State.mem),
      hcores.trans (h.keeps State.cores)⟩
    rw [h.obj _ (by decide), State.obj_bump_same, objWidth_locksBroken, List.length_cons]
    omega

end Locks

/-! ## The requests (16 R355 to R359) -/

theorem exec_enytreBadOpcode (m : Fin 2) (op seq : BitVec 8) (index : BitVec 16) (sub : BitVec 8) (s : State) :
    exec (.enytreBadOpcode m op seq index sub) s = execEnytreBadOpcode m op seq index sub s := rfl

theorem exec_lockLeaseExpiry (m : Fin 2) (s : State) : exec (.lockLeaseExpiry m) s = execLockLeaseExpiry m s := rfl

section Served
variable {s t : State} {m : Fin 2} {q : EnyReq} {a : EnyAnswer} {secure : Bool}

/-- A served request is told its answer, and what answers do not reach is as the request left it. -/
theorem request_told (hserved : served s m = true) (hanswer : answerRequest s m q secure = (a, t))
    (hstage : t.life.stage = s.life.stage) :
    ∃ u, request s m q secure = u ∧ Told u m q a.status a.off a.data ∧ u.withoutMail = t.withoutMail :=
  ⟨_, request_of_answer hserved hanswer hstage, deliverAnswer_told .., deliverAnswer_withoutMail ..⟩

end Served

/-- The widest value of an object that can be written has 8 bytes. -/
theorem width_le (t : ObjType) : t.width / 8 ≤ 8 := by
  cases t <;> decide

/-- Settles O43, one case for each operation. -/
theorem enytreRequestsAreAnswered : Obligations.EnytreRequestsAreAnswered := by
  refine ⟨?_, ?_, ?_, ?_, ?_, ?_⟩
  case refine_1 =>
    intro m seq index sub len secure o s ⟨hserved, hsecure, hpermits⟩ hobj hlen hlicence haccess
    have hread := (answerRequest_of_object (q := ⟨1, seq.toNat, index.toNat, sub.toNat, len.toNat, 0, []⟩) hlen hsecure
      (.inl rfl) hobj hpermits hlicence).trans ((if_pos rfl).trans (readObject_of_start haccess rfl))
    have hkeeps {β : Type} (g : State → β) (hg : ∀ (u : State) d n, g { u with dict := d, free := n } = g u) :
        g (clearRead (bringUpToDate s (objKey index.toNat sub.toNat)) (objKey index.toNat sub.toNat)) = g s :=
      (clearRead_keeps g (fun u d => hg u d u.free) _).trans (bringUpToDate_keeps g hg _)
    obtain ⟨u, hu, htold, hview⟩ := request_told hserved hread (hkeeps (·.life.stage) fun _ _ _ => rfl)
    refine ⟨u, congrArg _ hu, htold, fun k hsettle hpeak htags hcross => ?_, ?_, ?_⟩
    · exact (keeps_of_withoutMail (·.obj k) hview).trans
        ((clearRead_obj ⟨hsettle, hpeak⟩).trans (bringUpToDate_obj ⟨htags, hcross⟩))
    · exact (keeps_of_withoutMail State.mem hview).trans (hkeeps State.mem fun _ _ _ => rfl)
    · exact (keeps_of_withoutMail State.cores hview).trans (hkeeps State.cores fun _ _ _ => rfl)
  case refine_2 =>
    intro m seq index sub data secure o s ⟨hserved, hsecure, hpermits⟩ hobj hlicence haccess hpreop hdata
    set q := writeReq seq index.toNat sub.toNat 0 data
    have hlen : q.len ≤ 1024 := by
      have hwidth := width_le o.type
      have hq : q.len = o.type.width / 8 := hdata
      omega
    have hsub : q.sub < 256 := sub.isLt
    have hwrite := (answerRequest_of_object (q := q) (secure := secure) hlen hsecure (.inr (.inl rfl)) hobj hpermits
      hlicence).trans ((if_neg (show ¬ 2 = 1 by decide)).trans (if_pos rfl))
    refine ⟨fun hmay hlocked hshare hvalue => ?_, fun hmay => ?_⟩
    · obtain ⟨t, hstore, hvalue', hcores, hlife⟩ := storeObject_of_value (v := leAt q.data 0 (o.type.width / 8)) hsub
        (key_of_writable hsub hobj haccess) hshare
      have hall := hwrite.trans ((writeObject_of_allowed haccess hmay rfl hdata hpreop hlocked hvalue).trans hstore)
      obtain ⟨u, hu, htold, hview⟩ := request_told hserved hall (congrArg Life.stage hlife)
      exact ⟨u, congrArg _ hu, htold, (keeps_of_withoutMail (·.obj q.key) hview).trans hvalue',
        (keeps_of_withoutMail State.cores hview).trans hcores⟩
    · obtain ⟨u, hu, htold, hview⟩ := request_told hserved (hwrite.trans (writeObject_of_locked haccess hmay)) rfl
      exact ⟨u, congrArg _ hu, htold, keeps_of_withoutMail State.dict hview, keeps_of_withoutMail State.cores hview⟩
  case refine_3 =>
    intro m seq index sub secure s hindex
    refine ⟨fun ⟨hserved, hsecure, hpermits⟩ hfree hroom => ?_, fun ⟨hserved, hsecure, hpermits⟩ hown => ?_⟩
    · have hlock := (answerRequest_of_lock (q := ⟨3, seq.toNat, index.toNat, sub.toNat, 0, 0, []⟩) (secure := secure)
        (Nat.zero_le _) hsecure (.inl rfl) hindex hpermits).trans ((if_pos rfl).trans (lockIndex_of_free hfree hroom))
      obtain ⟨u, hu, htold, hview⟩ := request_told hserved hlock rfl
      exact ⟨u, congrArg _ hu, htold, holder_cons (keeps_of_withoutMail (·.mgmt.locks) hview),
        (keeps_of_withoutMail State.dict hview :)⟩
    · have hunlock := (answerRequest_of_lock (q := ⟨4, seq.toNat, index.toNat, sub.toNat, 0, 0, []⟩) (secure := secure)
        (Nat.zero_le _) hsecure (.inr rfl) hindex hpermits).trans ((if_neg (show ¬ 4 = 3 by decide)).trans
        (unlockIndex_of_own hown))
      obtain ⟨u, hu, htold, hview⟩ := request_told hserved hunlock rfl
      exact ⟨u, congrArg _ hu, htold, holder_filter (keeps_of_withoutMail (·.mgmt.locks) hview),
        (keeps_of_withoutMail State.dict hview :)⟩
  case refine_4 =>
    intro m seq index sub o s ⟨hserved, hsecure, hpermits⟩ hobj hlicence
    have hdescribe := (answerRequest_of_object (q := ⟨5, seq.toNat, index.toNat, sub.toNat, 0, 0, []⟩) (secure := false)
      (Nat.zero_le _) hsecure (.inr (.inr rfl)) hobj hpermits hlicence).trans ((if_neg (show ¬ 5 = 1 by decide)).trans
        (if_neg (show ¬ 5 = 2 by decide)))
    obtain ⟨u, hu, htold, hview⟩ := request_told hserved hdescribe rfl
    exact ⟨u, congrArg _ hu, htold, keeps_of_withoutMail State.dict hview, keeps_of_withoutMail State.cores hview⟩
  case refine_5 =>
    intro m op seq index sub s hserved hop
    obtain ⟨u, hu, htold, hview⟩ := request_told (q := ⟨op.toNat, seq.toNat, index.toNat, sub.toNat, 0, 0, []⟩)
      (secure := false) hserved (answerRequest_of_badOpcode hop) rfl
    refine ⟨u, ?_, htold, keeps_of_withoutMail State.dict hview, keeps_of_withoutMail State.cores hview⟩
    have hnone : ¬ (1 ≤ op.toNat && op.toNat ≤ 5) = true := by
      simp only [Bool.and_eq_true, decide_eq_true_eq]
      omega
    rw [exec_enytreBadOpcode, execEnytreBadOpcode, if_neg hnone, hu]
  case refine_6 =>
    intro m s
    obtain ⟨hcount, hlocks, hmem, hcores⟩ := tellBrokens_counts (s := dropLocks s m.val) m.val
      ((s.mgmt.locks.filter fun l => l.2 == m.val).map (·.1))
    refine ⟨_, exec_lockLeaseExpiry m s, hlocks, hcount.trans ?_, hmem, hcores⟩
    rw [List.length_map]
    rfl

end Sys2Proof.Machine
end

section
/-!
Proofs: what a package reset leaves and sends (18 R396 to R398).
-/
namespace Sys2Proof.Machine

/-- A package reset: of what is kept, with the pins it drives sent, nothing changes but what announcing BOOT changes. -/
theorem packageReset_kept (s : State) (cause : Nat) (cool : Bool) : ∃ out tripped, (∀ o ∈ s.out, o ∈ out) ∧
    Announced (keptState { s with out := out } cause tripped) (packageReset s cause cool) := by
  have hpin (t : State) (b : Bool) (o : Output) : t.when b (fun u => u.emit o) = { t with out := (t.when b fun u => u.emit o).out } := by
    cases b <;> rfl
  have hmem (t : State) (b : Bool) (o : Output) : ∀ x ∈ t.out, x ∈ (t.when b fun u => u.emit o).out := by
    cases b
    · exact fun _ => id
    · exact fun _ => List.mem_cons_of_mem _
  unfold packageReset
  extract_lets held s1 s2 s3
  have h1 : s1 = { s with out := s1.out } := hpin ..
  have h2 : s2 = { s1 with out := s2.out } := hpin ..
  have h3 : s3 = keptState { s with out := s2.out } cause held := by
    rw [h1] at h2
    exact congrArg (fun t => keptState t cause held) h2
  refine ⟨s2.out, held, fun o ho => hmem s1 _ _ o (hmem s _ _ o ho), ?_⟩
  rw [h3]
  unfold State.when
  split
  · exact (raise_noted ..).announced.trans (mailboxState_announced _)
  · exact .refl _

theorem mem_packageReset_out {s : State} {o : Output} (h : o ∈ s.out) (cause : Nat) (cool : Bool) :
    o ∈ (packageReset s cause cool).out := by
  obtain ⟨out, tripped, hout, hkept⟩ := packageReset_kept s cause cool
  exact hkept.out o (hout o h)

end Sys2Proof.Machine
end

section
/-!
Proofs: the mailbox and the restarts of the Zenith cores (16 R353, R360).
-/
namespace Sys2Proof.Machine

/-- Every served request is answered, also one that then resets the package. -/
theorem request_answered {s : State} {m : Fin 2} (hserved : served s m = true) (q : EnyReq) (secure : Bool) :
    ∃ a : EnyAnswer, Told (request s m q secure) m q a.status a.off a.data := by
  refine ⟨(answerRequest s m q secure).1, ?_⟩
  simp only [request, hserved, Bool.not_true, Bool.false_eq_true, if_false]
  split
  · obtain ⟨hhost, hcontrail⟩ := deliverAnswer_told s m q (answerRequest s m q secure).1
    exact ⟨fun hm => mem_packageReset_out (hhost hm) .., fun hm => mem_packageReset_out (hcontrail hm) ..⟩
  · exact deliverAnswer_told ..

/-- An answer echoes its request's opcode with bit 7 set, its SEQ, INDEX and SUBINDEX (16 Table 16.3). -/
theorem answerBytes_echoes (q : EnyReq) (a : EnyAnswer) :
    leAt (answerBytes q a) 0 1 = q.op % 128 + 128 ∧ leAt (answerBytes q a) 1 1 = q.seq % 256 ∧
      leAt (answerBytes q a) 2 2 = q.index % 65536 ∧ leAt (answerBytes q a) 4 1 = q.sub % 256 := by
  simp only [answerBytes, enytreHead, List.append_assoc]
  refine ⟨?_, ?_, ?_, ?_⟩
  · exact (leAt_leBytes [] _ 1 _ rfl).trans (Nat.mod_eq_of_lt (by omega))
  · exact leAt_leBytes (leBytes 1 _) _ 1 _ rfl
  · simp only [← List.append_assoc (leBytes 1 (q.op % 128 + 128))]
    exact leAt_leBytes (leBytes 1 _ ++ leBytes 1 _) _ 2 _ rfl
  · simp only [← List.append_assoc (leBytes 1 (q.op % 128 + 128)), ← List.append_assoc (_ ++ leBytes 1 q.seq)]
    exact leAt_leBytes (leBytes 1 _ ++ leBytes 1 _ ++ leBytes 2 _) _ 1 _ rfl

theorem exec_mailboxGo (v : BitVec 32) (s : State) : exec (.mailboxGo v) s = .next (mailboxGo s (setBitAt v.toNat 0 true)) := rfl

theorem exec_zenithWatchdogExpiry (d : DieId) (s : State) :
    exec (.zenithWatchdogExpiry d) s = execZenithWatchdogExpiry d s := rfl

theorem exec_zenithRestartDone (d : DieId) (s : State) : exec (.zenithRestartDone d) s = execZenithRestartDone d s := rfl

section Go
variable {s : State}

/-- The mailbox with IRQ_EN and KIND as written to MBX_CTRL. -/
def mailboxSet (s : State) (v : Nat) : State := { s with mgmt := { s.mgmt with irqEn := bitAt v 8, kind := bitAt v 1 } }

theorem mailboxRequest_set (v : Nat) : mailboxRequest (mailboxSet s v) = mailboxRequest s := by
  unfold mailboxRequest mailboxSet
  rfl

theorem mailboxGo_of_idle {v : Nat} (hserved : served s 0 = true) (hidle : s.mgmt.busy = false) (hkind : bitAt v 1 = false) :
    mailboxGo s (setBitAt v 0 true) = request (mailboxSet s (setBitAt v 0 true)) 0 (mailboxRequest s) false := by
  have hruns : s.irq.restarting.getLsbD 0 = false := by
    simp only [served, Bool.and_eq_true, Bool.not_eq_true'] at hserved
    exact hserved.1.1.2
  have hkind' : bitAt (setBitAt v 0 true) 1 = false := by
    rwa [bitAt_eq_testBit, testBit_setBitAt, if_neg (by decide), ← bitAt_eq_testBit]
  have hready : ¬ (bitAt (setBitAt v 0 true) 1 || s.irq.restarting.getLsbD 0) = true := by
    rw [hkind', hruns]
    decide
  rw [← mailboxRequest_set (setBitAt v 0 true), mailboxGo, if_neg (by simp), if_neg (by simp [hidle]), if_neg hready]
  rfl

theorem mailboxGo_of_busy {v : Nat} (hbusy : s.mgmt.busy = true) : mailboxGo s (setBitAt v 0 true) =
    (mailboxSet s (setBitAt v 0 true)).bump 0x110105 := by
  rw [mailboxGo, if_neg (by simp), if_pos hbusy]
  rfl

end Go

/-- The state with a Zenith core restarting since `now`. -/
def zenithMarked (s : State) (d : DieId) (now : Nat) : State :=
  { s with irq := { s.irq with restarting := s.irq.restarting ||| 1#8 <<< d.val }
           mgmt := { s.mgmt with watchdog := s.mgmt.watchdog.set d (some now) } }

theorem zenithMarked_dict (s : State) (d : DieId) (now : Nat) : (zenithMarked s d now).dict = s.dict := rfl

theorem zenithMarked_cores (s : State) (d : DieId) (now : Nat) : (zenithMarked s d now).cores = s.cores := rfl

/-- The state once a Zenith core's claims have ended, its die's controller is in QUEUE mode and its restart is counted. -/
def zenithDown (s : State) (d : DieId) : State := (enterQueue (endClaims s (claimsOf s d)) d 2).bump 0x100206

theorem zenithDown_counts (s : State) (d : DieId) : (zenithDown s d).obj 0x100206 = (s.obj 0x100206 + 1) % 2 ^ 32 ∧
    (zenithDown s d).cores = s.cores := by
  have hqueue := (endClaims_noted s (claimsOf s d)).trans (enterQueue_noted _ d 2)
  have hwidth : objWidth 0x100206 = 32 := by decide
  rw [zenithDown, State.obj_bump_same, hqueue.obj _ (by decide), hwidth, State.bump_cores]
  exact ⟨rfl, hqueue.cores⟩

theorem zenithWatchdogExpiry_first {s : State} {d : DieId}
    (h : ∀ x, s.mgmt.watchdog[d] = some x → x + cyclesOfMs 1000 ≤ s.now) : ∃ n, exec (.zenithWatchdogExpiry d) s =
      .next (raiseOn (zenithMarked (zenithDown s d) d s.now) d 35 n 0) := by
  rw [exec_zenithWatchdogExpiry]
  unfold execZenithWatchdogExpiry
  have hdown : (enterQueue (endClaims s (claimsOf s d)) d 2).bump 0x100206 = zenithDown s d := rfl
  simp only [hdown]
  generalize zenithDown s d = t
  cases hlast : s.mgmt.watchdog[d] with
  | none => exact ⟨_, rfl⟩
  | some x =>
    have hpast : ¬ s.now < x + cyclesOfMs 1000 := (h x hlast).not_gt
    simp only [hpast, decide_false, Bool.not_false, if_true]
    exact ⟨_, rfl⟩

theorem getLsbD_or_bit (x : BitVec 8) (d : DieId) : (x ||| 1#8 <<< d.val).getLsbD d.val = true := by
  have hd : d.val < 8 := d.isLt
  simp [hd]

theorem zenithMarked_restarting (s : State) (d : DieId) (now : Nat) :
    (zenithMarked s d now).irq.restarting.getLsbD d.val = true := getLsbD_or_bit _ d

/-- The state with a Zenith core running again. -/
def zenithUp (s : State) (d : DieId) : State :=
  { s with irq := { s.irq with restarting := s.irq.restarting &&& ~~~(1#8 <<< d.val) } }

theorem zenithRestartDone_eq (s : State) (d : DieId) : exec (.zenithRestartDone d) s =
    .next (if d.val = 0 && s.mgmt.busy && !s.mgmt.kind && s.irq.restarting.getLsbD 0 then
      answerHost (zenithUp s d) (answerBytes (mailboxRequest (zenithUp s d)) (plainAnswer (mailboxRequest (zenithUp s d)) stBusy))
    else zenithUp s d) := by
  rw [exec_zenithRestartDone]
  unfold execZenithRestartDone zenithUp
  rfl

theorem mailboxRequest_up (s : State) (d : DieId) : mailboxRequest (zenithUp s d) = mailboxRequest s := by
  unfold mailboxRequest zenithUp
  rfl

/-- Settles O45, one lemma for each clause. -/
theorem mailboxAndZenithRestarts : Obligations.MailboxAndZenithRestarts := by
  refine ⟨fun v s hserved hidle hkind => ?_, fun v s hbusy => ?_, fun d s hfirst => ?_, fun d s => ⟨?_, fun hd hbusy hkind hdown => ?_⟩⟩
  · have hkind' : bitAt v.toNat 1 = false := (bitAt_eq_testBit ..).trans hkind
    obtain ⟨a, htold, -⟩ := request_answered (s := mailboxSet s (setBitAt v.toNat 0 true)) hserved (mailboxRequest s) false
    exact ⟨_, _, (exec_mailboxGo v s).trans (congrArg _ (mailboxGo_of_idle hserved hidle hkind')), htold rfl,
      answerBytes_echoes (mailboxRequest s) ⟨a.status, a.off, a.data⟩⟩
  · have hwidth : objWidth 0x110105 = 32 := by decide
    refine ⟨_, (exec_mailboxGo v s).trans (congrArg _ (mailboxGo_of_busy hbusy)), ?_, hbusy, rfl, rfl, rfl⟩
    rw [State.obj_bump_same, hwidth]
    rfl
  · obtain ⟨hcount, hcores⟩ := zenithDown_counts s d
    obtain ⟨n, hexec⟩ := zenithWatchdogExpiry_first hfirst
    have hraise := raiseOn_noted (zenithMarked (zenithDown s d) d s.now) d 35 n 0
    refine ⟨_, hexec, ?_, ?_, ?_⟩
    · exact (congrArg (fun i : Irq => i.restarting.getLsbD d.val) hraise.inputs :).trans (zenithMarked_restarting _ d s.now)
    · rw [hraise.cores, zenithMarked_cores, hcores]
    · rw [hraise.obj _ (by decide), obj_of_dict (zenithMarked_dict ..), hcount]
  · refine ⟨_, zenithRestartDone_eq s d, ?_⟩
    split
    · have hview := answerHost_withoutMail (zenithUp s d)
        (answerBytes (mailboxRequest (zenithUp s d)) (plainAnswer (mailboxRequest (zenithUp s d)) stBusy))
      exact ⟨(keeps_of_withoutMail (·.irq.restarting) hview :), (keeps_of_withoutMail State.dict hview :),
        (keeps_of_withoutMail State.cores hview :)⟩
    · exact ⟨rfl, rfl, rfl⟩
  · subst hd
    have hcond : ((0 : DieId).val = 0 && s.mgmt.busy && !s.mgmt.kind && s.irq.restarting.getLsbD 0 : Bool) = true := by
      rw [hbusy, hkind, hdown]
      decide
    refine ⟨_, (zenithRestartDone_eq s 0).trans (congrArg _ (if_pos hcond)), ?_⟩
    rw [mailboxRequest_up]
    have hmgmt := answerHost_mgmt (zenithUp s 0) (answerBytes (mailboxRequest s) (plainAnswer (mailboxRequest s) stBusy))
    exact ⟨congrArg Mgmt.busy hmgmt, congrArg Mgmt.response hmgmt,
      (keeps_of_withoutMail State.dict (answerHost_withoutMail ..) :)⟩

end Sys2Proof.Machine
end

section
/-!
Proofs: Contrail's bus and messages, PLDM, SPDM and licences (16 R361 to R377).
-/
namespace Sys2Proof.Machine

/-! ## The I3C bus (16 R361, R367) -/

theorem exec_i3cEntdaa (a : BitVec 7) (s : State) : exec (.i3cEntdaa a) s = execI3cEntdaa a s := rfl
theorem exec_i3cSetdasa (st a : BitVec 7) (s : State) : exec (.i3cSetdasa st a) s = execI3cSetdasa st a s := rfl
theorem exec_i3cRstdaa (s : State) : exec .i3cRstdaa s = execI3cRstdaa s := rfl
theorem exec_i3cTargetReset (s : State) : exec .i3cTargetReset s = execI3cTargetReset s := rfl
theorem exec_i3cSetmrl (n : BitVec 16) (s : State) : exec (.i3cSetmrl n) s = execI3cSetmrl n s := rfl
theorem exec_i3cSetmwl (n : BitVec 16) (s : State) : exec (.i3cSetmwl n) s = execI3cSetmwl n s := rfl

section Bus
variable {s : State} (hbus : onBus s = true)
include hbus

theorem i3cEntdaa_of_free (a : BitVec 7) (hfree : s.obj 0x110002 = 0) :
    exec (.i3cEntdaa a) s = .next (s.setObj 0x110002 a.toNat) := by
  simp [exec_i3cEntdaa, execI3cEntdaa, hbus, hfree]

theorem i3cSetdasa_of_free (st a : BitVec 7) (hfree : s.obj 0x110002 = 0) (hstatic : st.toNat = s.obj 0x110001) :
    exec (.i3cSetdasa st a) s = .next (s.setObj 0x110002 a.toNat) := by
  simp [exec_i3cSetdasa, execI3cSetdasa, hbus, hfree, hstatic]

theorem i3cRstdaa_onBus : exec .i3cRstdaa s = .next (dropLocks (s.setObj 0x110002 0) 1) := by
  simp [exec_i3cRstdaa, execI3cRstdaa, hbus]

theorem i3cTargetReset_onBus : exec .i3cTargetReset s = .next (dropLocks s 1) := by
  simp [exec_i3cTargetReset, execI3cTargetReset, hbus]

theorem i3cSetmrl_onBus (n : BitVec 16) : exec (.i3cSetmrl n) s = .next { s with mgmt := { s.mgmt with
    mrl := if 64 ≤ n.toNat ∧ n.toNat ≤ 256 then n.toNat else s.mgmt.mrl } } := by
  rw [exec_i3cSetmrl, execI3cSetmrl]
  by_cases hn : 64 ≤ n.toNat ∧ n.toNat ≤ 256
  · simp [hbus, busLengthOk, hn]
  · simp [hbus, busLengthOk, hn]

theorem i3cSetmwl_onBus (n : BitVec 16) : exec (.i3cSetmwl n) s = .next { s with mgmt := { s.mgmt with
    mwl := if 64 ≤ n.toNat ∧ n.toNat ≤ 256 then n.toNat else s.mgmt.mwl } } := by
  rw [exec_i3cSetmwl, execI3cSetmwl]
  by_cases hn : 64 ≤ n.toNat ∧ n.toNat ≤ 256
  · simp [hbus, busLengthOk, hn]
  · simp [hbus, busLengthOk, hn]

end Bus

/-! ## MCTP (16 R362) -/

theorem exec_mctpMessageReceive (type : BitVec 8) (body : List Byte) (good secure : Bool) (s : State) :
    exec (.mctpMessageReceive type body good secure) s = execMctpMessageReceive type body good secure s := rfl
theorem exec_mctpSetEndpointId (eid : BitVec 8) (s : State) : exec (.mctpSetEndpointId eid) s = execMctpSetEndpointId eid s := rfl
theorem exec_mctpGetEndpointId (s : State) : exec .mctpGetEndpointId s = execMctpGetEndpointId s := rfl
theorem exec_mctpGetVersionSupport (s : State) : exec .mctpGetVersionSupport s = execMctpGetVersionSupport s := rfl
theorem exec_mctpGetMessageTypeSupport (s : State) : exec .mctpGetMessageTypeSupport s = execMctpGetMessageTypeSupport s := rfl

section Messages
variable {s : State} (hreach : reachable s = true) {type : BitVec 8} (body : List Byte) (secure : Bool)
include hreach

theorem mctpMessageReceive_bad : exec (.mctpMessageReceive type body false secure) s = .next (s.bump 0x110005) := by
  simp [exec_mctpMessageReceive, execMctpMessageReceive, hreach]

theorem mctpMessageReceive_own (htype : type = 0 ∨ type = 1 ∨ type = 5) :
    exec (.mctpMessageReceive type body true secure) s = .next (s.bump 0x110004) := by
  obtain rfl | rfl | rfl := htype <;> simp [exec_mctpMessageReceive, execMctpMessageReceive, hreach]

theorem mctpMessageReceive_other (h0 : type ≠ 0) (h1 : type ≠ 1) (h5 : type ≠ 5) (hvendor : type ≠ 0x7E) :
    exec (.mctpMessageReceive type body true secure) s = .next ((s.bump 0x110004).bump 0x110005) := by
  have hne {n : BitVec 8} (h : type ≠ n) : ¬ type.toNat = n.toNat := fun e => h (BitVec.eq_of_toNat_eq e)
  have hn0 : ¬ type.toNat = 0 := hne h0
  have hn1 : ¬ type.toNat = 1 := hne h1
  have hn5 : ¬ type.toNat = 5 := hne h5
  have hn7E : ¬ type.toNat = 0x7E := hne hvendor
  simp [exec_mctpMessageReceive, execMctpMessageReceive, hreach, hn0, hn1, hn5, hn7E]

theorem mctpMessageReceive_vendor (hbody : body.take 2 = mctpVendor) :
    exec (.mctpMessageReceive 0x7E body true secure) s =
      .next (request (s.bump 0x110004) 1 (enyReqOf (body.drop 2)) secure) := by
  simp [exec_mctpMessageReceive, execMctpMessageReceive, hreach, hbody]

theorem served_of_reachable : served s 1 = true := by
  rw [reachable, Bool.and_eq_true] at hreach
  exact hreach.1

theorem mctpSetEndpointId_good {eid : BitVec 8} (h0 : eid ≠ 0) (h255 : eid ≠ 255) : exec (.mctpSetEndpointId eid) s =
    .next (answerContrail (s.setObj 0x110003 eid.toNat) 0 [eid]) := by
  have hbyte : leBytes 1 ((s.setObj 0x110003 eid.toNat).obj 0x110003) = [eid] := by
    rw [State.obj_setObj_same]
    simp [leBytes]
  have hset : (eid != 0 && eid != 255) = true := by
    rw [Bool.and_eq_true, bne_iff_ne, bne_iff_ne]
    exact ⟨h0, h255⟩
  simp only [exec_mctpSetEndpointId, execMctpSetEndpointId, hreach, hset, State.when_true, hbyte]
  rfl

end Messages

/-- The count of discarded messages has 32 bits. -/
theorem objWidth_discarded : objWidth 0x110005 = 32 := by decide

/-- Settles O46, one lemma for each command. -/
theorem contrailIsAddressedAndAnswered : Obligations.ContrailIsAddressedAndAnswered := by
  refine ⟨fun a s hbus hfree => ⟨i3cEntdaa_of_free hbus a hfree, fun st => i3cSetdasa_of_free hbus st a hfree⟩, fun s hbus => ?_,
    fun s hreach => ⟨fun type body secure => ⟨?_, mctpMessageReceive_own hreach body secure, fun h0 h1 h5 hvendor => ?_,
      fun hbody => ?_⟩, fun eid h0 h255 => ?_, ?_, ?_, ?_⟩⟩
  · exact ⟨⟨_, i3cRstdaa_onBus hbus, (obj_of_dict rfl _).trans (State.obj_setObj_same s 0x110002 0), rfl⟩,
      ⟨_, i3cTargetReset_onBus hbus, rfl, rfl⟩,
      fun n => ⟨i3cSetmrl_onBus hbus n, i3cSetmwl_onBus hbus n⟩⟩
  · exact ⟨_, mctpMessageReceive_bad hreach body secure, rfl⟩
  · refine ⟨_, mctpMessageReceive_other hreach body secure h0 h1 h5 hvendor, rfl, rfl, ?_⟩
    rw [State.obj_bump_same, State.obj_bump_ne _ (by decide), objWidth_discarded]
  · obtain ⟨a, -, htold⟩ := request_answered (s := s.bump 0x110004) (m := 1) (served_of_reachable (s := s) hreach)
      (enyReqOf (body.drop 2)) secure
    exact ⟨_, _, mctpMessageReceive_vendor hreach body secure hbody, htold rfl⟩
  · exact ⟨_, mctpSetEndpointId_good hreach h0 h255, State.obj_setObj_same .., mem_answerContrail_out ..⟩
  · refine ⟨answerContrail s 0 (leBytes 1 (s.obj 0x110003)), ?_, rfl, mem_answerContrail_out ..⟩
    simp [exec_mctpGetEndpointId, execMctpGetEndpointId, hreach]
  · refine ⟨answerContrail s.draw.2 0 (leBytes 4 s.draw.1), _, ?_, rfl, leBytes_length .., mem_answerContrail_out ..⟩
    simp [exec_mctpGetVersionSupport, execMctpGetVersionSupport, hreach]
  · refine ⟨answerContrail s 0 [0, 1, 5, 0x7E], ?_, rfl, mem_answerContrail_out ..⟩
    simp [exec_mctpGetMessageTypeSupport, execMctpGetMessageTypeSupport, hreach]

end Sys2Proof.Machine
end

section
/-!
Proofs: PLDM: sensors, thresholds and firmware updates (16 R363, R370).
-/
namespace Sys2Proof.Machine

/-! ## Answers (16 R363) -/

section Pldm
variable {s : State} {m : Fin 2}

theorem answerPldm_sent (s : State) (m : Fin 2) (code : Nat) (data : List Byte) :
    Sent (answerPldm s m code data) m 1 (leBytes 1 code ++ data) := by
  refine ⟨fun hm => ?_, fun hm => ?_⟩
  · rw [answerPldm, if_pos (by simp [hm])]
    exact mem_answerHost_out ..
  · rw [answerPldm, if_neg (by simp [hm])]
    exact mem_answerContrail_out ..

theorem answerPldm_withoutMail (s : State) (m : Fin 2) (code : Nat) (data : List Byte) :
    (answerPldm s m code data).withoutMail = s.withoutMail := by
  unfold answerPldm
  dsimp only
  split
  · exact answerHost_withoutMail ..
  · exact answerContrail_withoutMail ..

/-- A PLDM request that can be in progress is answered, and what answers do not reach is as the request left it. -/
theorem pldm_answers (hserved : pldmServed s m = true) {f : State → Nat × List Byte × State} {code : Nat} {data : List Byte}
    {t : State} (hf : f s = (code, data, t)) :
    Sent (pldm s m f) m 1 (leBytes 1 code ++ data) ∧ (pldm s m f).withoutMail = t.withoutMail := by
  simp only [pldm, hserved, if_true, hf]
  exact ⟨answerPldm_sent .., answerPldm_withoutMail ..⟩

end Pldm


/-! ## Slots (16 R370) -/

theorem inactiveSlot_ne (s : State) : inactiveSlot s ≠ s.life.running := by
  rw [inactiveSlot, otherSlot]
  split <;> omega

theorem slots_modSlot_same (s : State) (i : Fin 2) (f : FwSlot → FwSlot) : (modSlot s i f).life.slots[i] = f s.life.slots[i] :=
  vmod_same ..

theorem slots_modSlot_ne (s : State) {i j : Fin 2} (f : FwSlot → FwSlot) (h : j ≠ i) :
    (modSlot s i f).life.slots[j] = s.life.slots[j] := vmod_ne _ f h

/-- An update writes the slot that does not run. -/
def slotWritten (s : State) (f : FwSlot → FwSlot) (update : Option Bool) : State :=
  (modSlot s (inactiveSlot s) f).modLife fun l => { l with update := update }

section Slots
variable {s u : State} {f : FwSlot → FwSlot} {update : Option Bool}
  (h : u.withoutMail = (slotWritten s f update).withoutMail)
include h

theorem slotWritten_life : u.life.update = update ∧ u.life.running = s.life.running ∧
    u.life.slots[inactiveSlot s] = f s.life.slots[inactiveSlot s] ∧
      u.life.slots[s.life.running] = s.life.slots[s.life.running] := by
  have hlife : u.life = (slotWritten s f update).life := keeps_of_withoutMail State.life h
  rw [hlife]
  exact ⟨rfl, rfl, slots_modSlot_same .., slots_modSlot_ne _ _ (inactiveSlot_ne s).symm⟩

end Slots

/-! ## The requests -/

/-- What reading a sensor answers and does. -/
def sensorRequest (id : Nat) (t : State) : Nat × List Byte × State :=
  match sensorEntry id with
  | none => (1, [], t)
  | some (index, sub, unit, modifier, _) =>
    match objFind index sub with
    | none => (1, [], t)
    | some o =>
      if !statePermitsReq t false index || unlicensed t (objKey index sub) || o.access == .wo then (1, [], t)
      else (0, objBytes t o (objKey index sub) ++ leBytes 1 unit ++ leBytes 1 modifier, clearRead t (objKey index sub))

theorem exec_pldmSensorRead (m : Fin 2) (id : BitVec 16) (s : State) :
    exec (.pldmSensorRead m id) s = .next (pldm s m (sensorRequest id.toNat)) := rfl

/-- Reading a sensor changes at most an object that a read clears. -/
theorem sensorRequest_keeps {β : Type} (g : State → β) (hg : ∀ (u : State) d, g { u with dict := d } = g u) (id : Nat)
    (s : State) : g (sensorRequest id s).2.2 = g s := by
  unfold sensorRequest
  split
  · rfl
  · split
    · rfl
    · split
      · rfl
      · exact clearRead_keeps g hg _

theorem sensorRequest_of_object {s : State} {id index sub unit modifier thr : Nat} {o : Obj}
    (hentry : sensorEntry id = some (index, sub, unit, modifier, thr)) (hobj : objFind index sub = some o) (haccess : o.access ≠ .wo)
    (hpermits : statePermitsReq s false index = true) (hlicence : unlicensed s (objKey index sub) = false) :
    sensorRequest id s = (0, objBytes s o (objKey index sub) ++ leBytes 1 unit ++ leBytes 1 modifier,
      clearRead s (objKey index sub)) := by
  have haccess' : (o.access == .wo) = false := by simpa using haccess
  simp [sensorRequest, hentry, hobj, hpermits, hlicence, haccess']

/-- What writing a threshold answers and does. -/
def thresholdRequest (m : Fin 2) (id sub : Nat) (data : List Byte) (t : State) : Nat × List Byte × State :=
  match sensorEntry id with
  | none => (1, [], t)
  | some (_, _, _, _, index) =>
    match objFind index sub with
    | none => (1, [], t)
    | some o =>
      if index = 0 || !statePermitsReq t true index then (1, [], t)
      else
        let r := writeObject t m o ⟨2, 0, index, sub, data.length, 0, data⟩
        (if r.1.status = 0 then 0 else 1, [], r.2)

theorem exec_pldmSetThreshold (m : Fin 2) (id : BitVec 16) (sub : BitVec 8) (data : List Byte) (s : State) :
    exec (.pldmSetThreshold m id sub data) s = .next (pldm s m (thresholdRequest m id.toNat sub.toNat data)) := rfl

/-- A threshold's object that the master may write takes the value. -/
theorem thresholdRequest_writes {s : State} {m : Fin 2} {id sub index : Nat} {data : List Byte} {o : Obj}
    {e : Nat × Nat × Nat × Nat} (hentry : sensorEntry id = some (e.1, e.2.1, e.2.2.1, e.2.2.2, index)) (hindex : index ≠ 0)
    (hsub : sub < 256) (hobj : objFind index sub = some o) (haccess : o.access = .rw)
    (hpermits : statePermitsReq s true index = true) (hholder : holder s index = none ∨ holder s index = some m.val)
    (hlocked : imageLocked index = false ∨ s.hasImage = false) (hshare : index ≠ 0x2110 ∨ s.hasImage = false)
    (hlen : data.length = o.type.width / 8)
    (hvalue : valueOk s o (objKey index sub) (leAt data 0 (o.type.width / 8)) = true) :
    ∃ t, thresholdRequest m id sub data s = (0, [], t) ∧ t.obj (objKey index sub) = leAt data 0 (o.type.width / 8) ∧
      t.cores = s.cores := by
  have hmay : mayWrite s m ⟨2, 0, index, sub, data.length, 0, data⟩ = true := by
    obtain h | h := hholder <;> simp [mayWrite, h]
  obtain ⟨t, hstore, hobj', hcores, -⟩ := storeObject_of_value (s := s) (q := ⟨2, 0, index, sub, data.length, 0, data⟩)
    (v := leAt data 0 (o.type.width / 8)) hsub (key_of_writable hsub hobj (.inl haccess)) hshare
  have hwrite := (writeObject_of_allowed (.inl haccess) hmay rfl hlen (by simp [haccess]) hlocked hvalue).trans hstore
  refine ⟨t, ?_, hobj', hcores⟩
  simp only [thresholdRequest, hentry, hobj, hwrite, hpermits]
  rw [if_neg (by simp [hindex])]
  rfl

section Requests
variable {s : State} {m : Fin 2} (hserved : pldmServed s m = true)
include hserved

theorem pldmRequestUpdate_of_idle (hidle : s.life.update = none) : ∃ u, exec (.pldmRequestUpdate m) s = .next u ∧
    u.withoutMail = (slotWritten s (fun x => { x with valid := false, pending := false }) (some false)).withoutMail := by
  exact ⟨_, rfl, (pldm_answers hserved (if_neg (by simp [hidle]))).2⟩

theorem pldmTransferEnd_of_update (image : List Byte) (version : BitVec 32) (rollback : BitVec 16)
    (hupdate : s.life.update.isSome = true) :
    let ok := Config.signed image && decide (s.life.fuseRollback ≤ rollback.toNat)
    ∃ u, exec (.pldmTransferEnd m image version rollback) s = .next u ∧ u.withoutMail = (slotWritten s
      (fun _ => ⟨ok, version.toNat, rollback.toNat, false, some (Config.sha384 image)⟩) (some ok)).withoutMail := by
  have hsome : ¬ s.life.update.isNone = true := by simpa using Option.isSome_iff_ne_none.mp hupdate
  exact ⟨_, rfl, (pldm_answers hserved (if_neg hsome)).2⟩

theorem pldmActivateFirmware_of_verified (hupdate : s.life.update = some true) :
    ∃ u, exec (.pldmActivateFirmware m false) s = .next u ∧
      u.withoutMail = (slotWritten s (fun x => { x with pending := true }) none).withoutMail := by
  exact ⟨_, rfl, (pldm_answers hserved (if_neg (by simp [hupdate]))).2⟩

end Requests

/-- Settles O47: the slot that does not run is written, and the running one is another. -/
theorem pldmServesSensorsAndUpdates : Obligations.PldmServesSensorsAndUpdates := by
  refine ⟨fun m s hserved => ⟨?_, fun id => ?_, fun id sub data => ?_⟩,
    fun m s hserved => ⟨fun hidle => ?_, fun image version rollback hupdate => ?_, fun hupdate => ?_⟩⟩
  · obtain ⟨⟨hhost, hcontrail⟩, hview⟩ := pldm_answers hserved (f := fun t => (0, [0#8, 2#8, 5#8], t)) rfl
    exact ⟨_, _, rfl, keeps_of_withoutMail State.dict hview, rfl, hhost, hcontrail⟩
  · have hview := (pldm_answers hserved (f := sensorRequest id.toNat) rfl).2
    refine ⟨_, exec_pldmSensorRead m id s,
      (keeps_of_withoutMail State.cores hview).trans (sensorRequest_keeps State.cores (fun _ _ => rfl) ..),
      (keeps_of_withoutMail State.mem hview).trans (sensorRequest_keeps State.mem (fun _ _ => rfl) ..),
      fun index sub unit modifier thr o hentry hobj haccess hpermits hlicence => ⟨_, rfl, ?_⟩⟩
    exact (pldm_answers hserved (sensorRequest_of_object hentry hobj haccess hpermits hlicence)).1
  · refine ⟨_, exec_pldmSetThreshold m id sub data s,
      fun index o e hentry hindex hobj haccess hpermits hholder hlocked hshare hlen hvalue => ?_⟩
    obtain ⟨t, hwrite, hobj', hcores⟩ := thresholdRequest_writes hentry hindex sub.isLt hobj haccess hpermits hholder hlocked
      hshare hlen hvalue
    have hview := (pldm_answers hserved hwrite).2
    exact ⟨(keeps_of_withoutMail (·.obj (objKey index sub.toNat)) hview).trans hobj',
      (keeps_of_withoutMail State.cores hview).trans hcores⟩
  · obtain ⟨u, hexec, hview⟩ := pldmRequestUpdate_of_idle hserved hidle
    obtain ⟨hupdate, hrunning, hslot, hother⟩ := slotWritten_life hview
    exact ⟨u, hexec, hupdate, hrunning, congrArg FwSlot.valid hslot, congrArg FwSlot.pending hslot, hother⟩
  · obtain ⟨u, hexec, hview⟩ := pldmTransferEnd_of_update hserved image version rollback hupdate
    obtain ⟨-, hrunning, hslot, hother⟩ := slotWritten_life hview
    refine ⟨u, hexec, hrunning, ?_, congrArg FwSlot.version hslot, congrArg FwSlot.pending hslot, hother⟩
    rw [hslot, Bool.and_eq_true, decide_eq_true_eq]
  · obtain ⟨u, hexec, hview⟩ := pldmActivateFirmware_of_verified hserved hupdate
    obtain ⟨hupdate, hrunning, hslot, hother⟩ := slotWritten_life hview
    exact ⟨u, hexec, hupdate, hrunning, congrArg FwSlot.pending hslot, (congrArg FwSlot.valid hslot :), hother⟩

end Sys2Proof.Machine
end

section
/-!
Proofs: SPDM and licences (16 R372 to R377).
-/
namespace Sys2Proof.Machine

/-! ## Answers (16 R375) -/

section Spdm
variable {s : State} {m : Fin 2}

theorem answerSpdm_sent (s : State) (m : Fin 2) (bs : List Byte) : Sent (answerSpdm s m bs) m 5 bs := by
  refine ⟨fun hm => ?_, fun hm => ?_⟩
  · rw [answerSpdm, if_pos (by simp [hm])]
    exact List.mem_cons_self
  · rw [answerSpdm, if_neg (by simp [hm])]
    exact mem_answerContrail_out ..

/-- An SPDM answer is an output alone. -/
theorem answerSpdm_keeps {β : Type} (g : State → β) (s : State) (m : Fin 2) (bs : List Byte)
    (hg : ∀ (u : State) o, g { u with out := o } = g u := by intros; rfl) : g (answerSpdm s m bs) = g s := by
  unfold answerSpdm
  split <;> exact hg s _

/-- A request whose conditions hold is answered with code 0, and its connection becomes as it says. -/
theorem spdm_answers (hserved : spdmServed s m = true) {ok : Spdm → Bool} (hok : ok s.mgmt.spdm[m] = true)
    {f : State → Spdm → Spdm × List Byte × State} {x : Spdm} {data : List Byte} {t : State}
    (hf : f s s.mgmt.spdm[m] = (x, data, t)) (hspdm : t.mgmt.spdm = s.mgmt.spdm := by rfl) (hdict : t.dict = s.dict := by rfl)
    (hcores : t.cores = s.cores := by rfl) :
    let u := spdm s m ok f
    Sent u m 5 ([0] ++ data) ∧ u.mgmt.spdm = s.mgmt.spdm.set m x ∧ u.dict = s.dict ∧ u.cores = s.cores := by
  have hu : spdm s m ok f = answerSpdm (setSpdm t m x) m ([0] ++ data) := by
    simp only [spdm, hserved, Bool.not_true, Bool.false_eq_true, if_false, hok, if_true, hf]
    rfl
  rw [hu, ← hspdm, ← hdict, ← hcores]
  exact ⟨answerSpdm_sent .., answerSpdm_keeps (·.mgmt.spdm) _ m _, answerSpdm_keeps State.dict _ m _,
    answerSpdm_keeps State.cores _ m _⟩

/-- A request whose conditions do not hold is counted. -/
theorem spdm_refuses (hserved : spdmServed s m = true) {ok : Spdm → Bool} (hok : ok s.mgmt.spdm[m] = false)
    (f : State → Spdm → Spdm × List Byte × State) :
    let u := spdm s m ok f
    u.mgmt.spdm = s.mgmt.spdm ∧ u.obj 0xD01002 = (s.obj 0xD01002 + 1) % 2 ^ 32 ∧ u.cores = s.cores := by
  have hu : spdm s m ok f = answerSpdm (s.bump 0xD01002) m (leBytes 1 1) := by
    simp only [spdm, hserved, Bool.not_true, Bool.false_eq_true, if_false, hok]
  have hwidth : objWidth 0xD01002 = 32 := by decide
  have hobj : (spdm s m ok f).obj 0xD01002 = (s.bump 0xD01002).obj 0xD01002 := by
    rw [hu]
    exact obj_of_dict (answerSpdm_keeps State.dict _ m _) _
  rw [State.obj_bump_same, hwidth] at hobj
  rw [hu] at hobj ⊢
  exact ⟨answerSpdm_keeps (·.mgmt.spdm) _ m _, hobj, answerSpdm_keeps State.cores _ m _⟩

theorem set_own (v : Vector Spdm 2) (m : Fin 2) : v.set m v[m] = v := by simp

theorem getElem_of_set {v w : Vector Spdm 2} {m : Fin 2} {x : Spdm} (h : w = v.set m x) : w[m] = x := by simp [h]

end Spdm

/-! ## The requests of a served master -/

section Requests
variable {s : State} {m : Fin 2} (hserved : spdmServed s m = true)
include hserved

theorem spdmGetVersion_answers : ∃ t, exec (.spdmGetVersion m) s = .next t ∧ t.mgmt.spdm[m] = ⟨1, false, false⟩ ∧
    t.dict = s.dict ∧ t.cores = s.cores := by
  obtain ⟨-, hspdm, hdict, hcores⟩ := spdm_answers hserved (ok := fun _ => true) rfl
    (f := fun t _ => (⟨1, false, false⟩, [0x13#8], t)) rfl
  exact ⟨_, rfl, getElem_of_set hspdm, hdict, hcores⟩

theorem spdmGetCapabilities_answers (hstep : 1 ≤ (s.mgmt.spdm[m]).step) : ∃ t, exec (.spdmGetCapabilities m) s = .next t ∧
    2 ≤ (t.mgmt.spdm[m]).step ∧ t.dict = s.dict ∧ t.cores = s.cores := by
  obtain ⟨-, hspdm, hdict, hcores⟩ := spdm_answers hserved (ok := fun x => decide (1 ≤ x.step)) (decide_eq_true hstep)
    (f := fun t x => let r := t.draw; ({ x with step := max x.step 2 }, leBytes 4 r.1, r.2)) rfl
  refine ⟨_, rfl, ?_, hdict, hcores⟩
  rw [getElem_of_set hspdm]
  exact Nat.le_max_right ..

theorem spdmNegotiateAlgorithms_answers (hstep : 2 ≤ (s.mgmt.spdm[m]).step) :
    ∃ t, exec (.spdmNegotiateAlgorithms m true) s = .next t ∧ (t.mgmt.spdm[m]).step = 3 ∧ t.dict = s.dict ∧ t.cores = s.cores := by
  obtain ⟨-, hspdm, hdict, hcores⟩ := spdm_answers hserved (ok := fun x => 2 ≤ x.step && true) (by simpa using hstep)
    (f := fun t x => ({ x with step := 3 }, [], t)) rfl
  refine ⟨_, rfl, ?_, hdict, hcores⟩
  rw [getElem_of_set hspdm]

theorem spdmFinish_answers (hexchanging : (s.mgmt.spdm[m]).exchanging = true) : ∃ t, exec (.spdmFinish m true) s = .next t ∧
    (t.mgmt.spdm[m]).session = true ∧ (t.mgmt.spdm[m]).exchanging = false ∧ t.dict = s.dict ∧ t.cores = s.cores := by
  obtain ⟨-, hspdm, hdict, hcores⟩ := spdm_answers hserved (ok := fun x => x.exchanging && true) (by simpa using hexchanging)
    (f := fun t x => ({ x with exchanging := false, session := true }, [], t)) rfl
  have hexec : exec (.spdmFinish m true) s = .next (spdm s m (fun x => x.exchanging && true)
      fun t x => ({ x with exchanging := false, session := true }, [], t)) := rfl
  exact ⟨_, hexec, congrArg Spdm.session (getElem_of_set hspdm), congrArg Spdm.exchanging (getElem_of_set hspdm), hdict, hcores⟩

end Requests

/-! ## A complete connection -/

section Complete
variable {s : State} {m : Fin 2} (hserved : spdmServed s m = true) (hstep : (s.mgmt.spdm[m]).step = 3)
include hserved hstep

theorem spdmGetDigests_answers : ∃ t, exec (.spdmGetDigests m) s = .next t ∧ t.mgmt.spdm = s.mgmt.spdm ∧
    Sent t m 5 ([0, 1] ++ leBytes 48 (Config.sha384 Config.certChain)) ∧ t.dict = s.dict ∧ t.cores = s.cores := by
  obtain ⟨hsent, hspdm, hdict, hcores⟩ := spdm_answers hserved (ok := fun x => x.step == 3) (by simpa using hstep)
    (f := fun t x => (x, 1#8 :: chainDigest, t)) rfl
  exact ⟨_, rfl, hspdm.trans (set_own ..), hsent, hdict, hcores⟩

theorem spdmGetCertificate_answers {off : BitVec 16} (len : BitVec 16) (hoff : off.toNat ≤ Config.certChain.length) :
    ∃ t, exec (.spdmGetCertificate m 0 off len) s = .next t ∧ t.mgmt.spdm = s.mgmt.spdm ∧
      Sent t m 5 ([0] ++ (Config.certChain.drop off.toNat).take len.toNat) ∧ t.dict = s.dict ∧ t.cores = s.cores := by
  obtain ⟨hsent, hspdm, hdict, hcores⟩ := spdm_answers hserved
    (ok := fun x => x.step == 3 && (0 : BitVec 8) == 0 && off.toNat ≤ Config.certChain.length) (by simpa using ⟨hstep, hoff⟩)
    (f := fun t x => (x, (Config.certChain.drop off.toNat).take len.toNat, t)) rfl
  exact ⟨_, rfl, hspdm.trans (set_own ..), hsent, hdict, hcores⟩

theorem spdmChallenge_answers : ∃ t sig, exec (.spdmChallenge m 0) s = .next t ∧ t.mgmt.spdm = s.mgmt.spdm ∧
    Sent t m 5 ([0] ++ (leBytes 48 (Config.sha384 Config.certChain) ++ sig)) ∧ t.dict = s.dict ∧ t.cores = s.cores := by
  obtain ⟨hsent, hspdm, hdict, hcores⟩ := spdm_answers hserved (ok := fun x => x.step == 3 && (0 : BitVec 8) == 0)
    (by simpa using hstep) (f := fun t x => let g := signature t; (x, chainDigest ++ g.1, g.2)) rfl
  exact ⟨_, _, rfl, hspdm.trans (set_own ..), hsent, hdict, hcores⟩

theorem spdmGetMeasurements_answers {i : BitVec 8} (signed : Bool) (hi : i.toNat ≤ 6 ∨ i = 255) :
    ∃ t sig, exec (.spdmGetMeasurements m i signed) s = .next t ∧ t.mgmt.spdm = s.mgmt.spdm ∧
      Sent t m 5 ([0] ++ (measurements s i.toNat ++ sig)) ∧ (signed = false → sig = []) ∧ t.dict = s.dict ∧ t.cores = s.cores := by
  have hok : ((s.mgmt.spdm[m]).step == 3 && (decide (i.toNat ≤ 6) || i == 255) : Bool) = true := by simpa using ⟨hstep, hi⟩
  cases signed
  · obtain ⟨hsent, hspdm, hdict, hcores⟩ := spdm_answers hserved
      (ok := fun x => x.step == 3 && (decide (i.toNat ≤ 6) || i == 255)) hok
      (f := fun t x => let g := ([], t); (x, measurements t i.toNat ++ g.1, g.2)) rfl
    exact ⟨_, _, rfl, hspdm.trans (set_own ..), hsent, fun _ => rfl, hdict, hcores⟩
  · obtain ⟨hsent, hspdm, hdict, hcores⟩ := spdm_answers hserved
      (ok := fun x => x.step == 3 && (decide (i.toNat ≤ 6) || i == 255)) hok
      (f := fun t x => let g := signature t; (x, measurements t i.toNat ++ g.1, g.2)) rfl
    exact ⟨_, _, rfl, hspdm.trans (set_own ..), hsent, nofun, hdict, hcores⟩

theorem spdmKeyExchange_answers (hsession : (s.mgmt.spdm[m]).session = false) : ∃ t, exec (.spdmKeyExchange m 0) s = .next t ∧
    (t.mgmt.spdm[m]).exchanging = true ∧ (t.mgmt.spdm[m]).session = false ∧ t.dict = s.dict ∧ t.cores = s.cores := by
  obtain ⟨-, hspdm, hdict, hcores⟩ := spdm_answers hserved (ok := fun x => x.step == 3 && (0 : BitVec 8) == 0 && !x.session)
    (by simpa using ⟨hstep, hsession⟩) (f := fun t x => let g := signature t; ({ x with exchanging := true }, g.1, g.2)) rfl
  refine ⟨_, rfl, ?_, ?_, hdict, hcores⟩ <;> rw [getElem_of_set hspdm]
  exact hsession

end Complete

/-! ## Sessions -/

section Session
variable {s : State} {m : Fin 2} (hserved : spdmServed s m = true) (hsession : (s.mgmt.spdm[m]).session = true)
include hserved hsession

theorem spdmHeartbeat_answers : ∃ t, exec (.spdmHeartbeat m) s = .next t ∧ t.mgmt.spdm = s.mgmt.spdm ∧ t.dict = s.dict ∧
    t.cores = s.cores := by
  obtain ⟨-, hspdm, hdict, hcores⟩ := spdm_answers hserved (ok := (·.session)) hsession (f := fun t x => (x, [], t)) rfl
  exact ⟨_, rfl, hspdm.trans (set_own ..), hdict, hcores⟩

theorem spdmEndSession_answers : ∃ t, exec (.spdmEndSession m) s = .next t ∧ (t.mgmt.spdm[m]).session = false ∧
    t.dict = s.dict ∧ t.cores = s.cores := by
  obtain ⟨-, hspdm, hdict, hcores⟩ := spdm_answers hserved (ok := (·.session)) hsession
    (f := fun t x => ({ x with session := false }, [], t)) rfl
  refine ⟨_, rfl, ?_, hdict, hcores⟩
  rw [getElem_of_set hspdm]

end Session

/-- Settles O48: each request by its conditions, and an error where they do not hold. -/
theorem spdmNegotiatesAndAttests : Obligations.SpdmNegotiatesAndAttests := by
  refine ⟨fun m s hserved => ⟨spdmGetVersion_answers hserved, spdmGetCapabilities_answers hserved,
    spdmNegotiateAlgorithms_answers hserved, fun hstep => ⟨?_, fun off len hoff => ?_, ?_, fun i signed hi => ?_,
      spdmKeyExchange_answers hserved hstep⟩, spdmFinish_answers hserved, fun hsession =>
      ⟨spdmHeartbeat_answers hserved hsession, spdmHeartbeat_answers hserved hsession, spdmEndSession_answers hserved hsession⟩⟩,
    fun m i off len signed c s hserved hc => ?_⟩
  · obtain ⟨t, hexec, hspdm, ⟨hhost, hcontrail⟩, hdict, hcores⟩ := spdmGetDigests_answers hserved hstep
    exact ⟨t, _, hexec, hspdm, rfl, hhost, hcontrail, hdict, hcores⟩
  · obtain ⟨t, hexec, hspdm, ⟨hhost, hcontrail⟩, hdict, hcores⟩ := spdmGetCertificate_answers hserved hstep len hoff
    exact ⟨t, _, hexec, hspdm, rfl, hhost, hcontrail, hdict, hcores⟩
  · obtain ⟨t, sig, hexec, hspdm, ⟨hhost, hcontrail⟩, hdict, hcores⟩ := spdmChallenge_answers hserved hstep
    refine ⟨t, _, hexec, hspdm, ?_, hhost, hcontrail, hdict, hcores⟩
    rw [List.isPrefixOf_iff_prefix, ← List.append_assoc]
    exact List.prefix_append ..
  · obtain ⟨t, sig, hexec, hspdm, ⟨hhost, hcontrail⟩, hsig, hdict, hcores⟩ := spdmGetMeasurements_answers hserved hstep signed hi
    refine ⟨t, _, hexec, hspdm, hdict, hcores, ?_, fun h => ?_, hhost, hcontrail⟩
    · rw [List.isPrefixOf_iff_prefix, ← List.append_assoc]
      exact List.prefix_append ..
    · rw [hsig h, List.append_nil]
  · simp only [List.mem_cons, List.not_mem_nil, or_false] at hc
    obtain ⟨hstep, rfl⟩ | ⟨hstep, rfl⟩ | ⟨hstep, hc⟩ | ⟨hexchanging, rfl⟩ | ⟨hsession, rfl⟩ | ⟨hsession, rfl | rfl | rfl⟩ := hc
    · exact ⟨_, rfl, spdm_refuses hserved (decide_eq_false (by omega)) _⟩
    · exact ⟨_, rfl, spdm_refuses hserved (Bool.and_eq_false_imp.mpr fun h => absurd (of_decide_eq_true h) (by omega)) _⟩
    · have hfar : ((s.mgmt.spdm[m]).step == 3) = false := beq_eq_false_iff_ne.mpr hstep
      obtain rfl | rfl | rfl | rfl | rfl := hc
      · exact ⟨_, rfl, spdm_refuses hserved hfar _⟩
      · exact ⟨_, rfl, spdm_refuses hserved (by simp only [hfar, Bool.false_and]) _⟩
      · exact ⟨_, rfl, spdm_refuses hserved (by simp only [hfar, Bool.false_and]) _⟩
      · exact ⟨_, rfl, spdm_refuses hserved (by simp only [hfar, Bool.false_and]) _⟩
      · exact ⟨_, rfl, spdm_refuses hserved (by simp only [hfar, Bool.false_and]) _⟩
    · exact ⟨_, rfl, spdm_refuses hserved (by simp only [hexchanging, Bool.false_and]) _⟩
    · exact ⟨_, rfl, spdm_refuses hserved (by simp only [hsession, Bool.not_true, Bool.and_false]) _⟩
    · exact ⟨_, rfl, spdm_refuses hserved hsession _⟩
    · exact ⟨_, rfl, spdm_refuses hserved hsession _⟩
    · exact ⟨_, rfl, spdm_refuses hserved hsession _⟩

/-! ## Licences (16 R372 to R374) -/

theorem exec_licenceInstall (m : Fin 2) (rec : List Byte) (s : State) : exec (.licenceInstall m rec) s = execLicenceInstall m rec s := rfl
theorem exec_licenceList (m : Fin 2) (s : State) : exec (.licenceList m) s = execLicenceList m s := rfl
theorem exec_licenceRemove (m : Fin 2) (serial : BitVec 64) (secure : Bool) (s : State) :
    exec (.licenceRemove m serial secure) s = execLicenceRemove m serial secure s := rfl

/-- The state with another store of licences. -/
def State.setLicences (s : State) (l : List Licence) : State := { s with mgmt := { s.mgmt with licences := l } }

section Licences
variable {s : State} {m : Fin 2} (hserved : spdmServed s m = true)
include hserved

theorem licenceInstall_answers (rec : List Byte) : exec (.licenceInstall m rec) s = .next (answerSpdm (s.setLicences
    (if installOutcome s rec = 0 then s.mgmt.licences ++ [⟨rec, true⟩] else s.mgmt.licences)) m
      (leBytes 1 (installOutcome s rec))) := by
  have hbytes : leBytes 1 (installOutcome s rec) ++ [] = leBytes 1 (installOutcome s rec) := List.append_nil _
  simp only [exec_licenceInstall, execLicenceInstall, hserved, answerLicence, hbytes]
  by_cases h : installOutcome s rec = 0
  · simp only [h]
    rfl
  · simp only [h, beq_eq_false_iff_ne.mpr h, if_false]
    rfl

theorem licenceRemove_answers {serial : BitVec 64} {l : Licence} (hsession : (s.mgmt.spdm[m]).session = true)
    (hfind : s.mgmt.licences.find? (fun x => x.serial == serial.toNat) = some l) (hfree : licenceInUse s l = false) :
    exec (.licenceRemove m serial true) s = .next (answerSpdm
      (s.setLicences (s.mgmt.licences.filter fun x => x.serial != serial.toNat)) m [0]) := by
  have hcode : removeOutcome s m serial.toNat true = 0 := by
    simp only [removeOutcome, hsession, hfind, hfree]
    rfl
  simp only [exec_licenceRemove, execLicenceRemove, hserved, hcode]
  rfl

end Licences

/-- Settles O49, one lemma for each request. -/
theorem licencesAndFuses : Obligations.LicencesAndFuses := by
  refine ⟨fun m rec s hserved => ?_, fun m s hserved => ?_, fun m serial l s hserved hsession hfind hfree => ?_,
    fun _ _ _ => rfl⟩
  · obtain ⟨hhost, hcontrail⟩ := answerSpdm_sent (s.setLicences
      (if installOutcome s rec = 0 then s.mgmt.licences ++ [⟨rec, true⟩] else s.mgmt.licences)) m (leBytes 1 (installOutcome s rec))
    exact ⟨_, licenceInstall_answers hserved rec, answerSpdm_keeps (·.mgmt.licences) _ m _, hhost, hcontrail,
      (answerSpdm_keeps State.dict _ m _ :), (answerSpdm_keeps State.cores _ m _ :)⟩
  · obtain ⟨hhost, hcontrail⟩ := answerSpdm_sent s m ([0] ++ (s.mgmt.licences.map (·.bytes)).flatten)
    refine ⟨_, _, ?_, answerSpdm_keeps (·.mgmt.licences) _ m _, rfl, hhost, hcontrail⟩
    simp only [exec_licenceList, execLicenceList, hserved]
    rfl
  · obtain ⟨hhost, hcontrail⟩ := answerSpdm_sent (s.setLicences (s.mgmt.licences.filter fun x => x.serial != serial.toNat)) m [0]
    have hstore : (answerSpdm (s.setLicences (s.mgmt.licences.filter fun x => x.serial != serial.toNat)) m [0]).mgmt.licences =
      s.mgmt.licences.filter fun x => x.serial != serial.toNat := answerSpdm_keeps (·.mgmt.licences) _ m _
    refine ⟨_, licenceRemove_answers hserved hsession hfind hfree, fun x hx => ?_, fun x hx hne => ?_, hhost, hcontrail⟩
    · rw [hstore, List.mem_filter, bne_iff_ne] at hx
      exact hx.2
    · rw [hstore, List.mem_filter, bne_iff_ne]
      exact ⟨hx, hne⟩

end Sys2Proof.Machine
end

section
/-!
Proofs: the event sources: assertions, quarantine, claims and completions, and the modes of a controller (17 R380 to R391).
-/
namespace Sys2Proof.Machine

/-! ## What the parts of an assertion leave of the sources -/

theorem src_of_irqSrc {s t : State} (h : t.irq.src = s.irq.src) (k : Nat) : t.src k = s.src k :=
  congrArg (fun m => kvGet (srcReset k) m k) h

/-- A source that the table does not list is as reset left it. -/
theorem src_of_not_live {s : State} {k : Nat} (h : k ∉ liveSources s) : s.src k = srcReset k := by
  have hget (m : Kv SrcRec) (hm : k ∉ m.map (·.1)) : kvGet (srcReset k) m k = srcReset k := by
    induction m with
    | nil => rfl
    | cons c m ih =>
      obtain ⟨a, v⟩ := c
      simp only [List.map_cons, List.mem_cons, not_or] at hm
      rw [kvGet, if_neg (Ne.symm hm.1), ih hm.2]
  exact hget _ h

theorem live_of_st {s : State} {k : Nat} (h : (s.src k).st ≠ .idle) : k ∈ liveSources s := by
  by_contra hk
  rw [src_of_not_live hk] at h
  exact h rfl

section Records
variable (s : State)

theorem when_irqSrc {s : State} (b : Bool) {f : State → State} (h : ∀ t, (f t).irq.src = t.irq.src) :
    (s.when b f).irq.src = s.irq.src := by
  cases b
  · rfl
  · exact h s

theorem signalVector_irqSrc (fn vec : Nat) : (signalVector s fn vec).irq.src = s.irq.src := by
  unfold signalVector
  dsimp only
  split
  · rfl
  · split <;> rfl

theorem eqRecord_irqSrc (d : DieId) (n kind sev d0 d1 : Nat) : (eqRecord s d n kind sev d0 d1).irq.src = s.irq.src := by
  unfold eqRecord
  dsimp only
  split <;> rfl

theorem ringRecord_irqSrc (r : Fin 8) (n kind sev d0 d1 : Nat) : (ringRecord s r n kind sev d0 d1).irq.src = s.irq.src := by
  unfold ringRecord
  dsimp only
  split
  · rfl
  · split
    · rfl
    · exact when_irqSrc _ fun t => signalVector_irqSrc t ..

theorem contrailRecord_irqSrc (n kind sev d0 d1 : Nat) : (contrailRecord s n kind sev d0 d1).irq.src = s.irq.src := by
  unfold contrailRecord
  dsimp only
  split <;> rfl

theorem sendRecords_irqSrc (n kind d0 d1 : Nat) : (sendRecords s n kind d0 d1).irq.src = s.irq.src := by
  unfold sendRecords
  dsimp only
  rw [when_irqSrc _ fun t => contrailRecord_irqSrc t .., when_irqSrc _ fun t => signalVector_irqSrc t ..,
    when_irqSrc _ fun t => signalVector_irqSrc t .., when_irqSrc _ fun t => ringRecord_irqSrc t ..]

end Records

/-! ## Assertions (17 R380 to R383) -/

/-- A source that an assertion below its storm limit has reached, before it pends. -/
def SrcRec.asserted (r : SrcRec) (d0 d1 : Nat) : SrcRec :=
  { r with count := (r.count + 1) % 65536, storm := r.storm + 1, detail0 := d0 % 2 ^ 64, detail1 := d1 % 2 ^ 32 }

/-- A source with the quarantine that its claim leaves it. -/
def SrcRec.quarantined (r : SrcRec) : SrcRec := if r.st = .active then { r with quar := true } else { r with st := .quarantined }

theorem pendSource_st (r : SrcRec) : (pendSource r).st = if r.st = .idle then .pending else r.st := by
  unfold pendSource
  split <;> simp_all

theorem pendSource_repend {r : SrcRec} (h : r.st = .active) : (pendSource r).repend = true := by
  simp [pendSource, h]

/-- What a change of a source's state alone leaves of it. -/
theorem pendSource_keeps {β : Type} (g : SrcRec → β) (hg : ∀ (r : SrcRec) st rep, g { r with st := st, repend := rep } = g r)
    (r : SrcRec) : g (pendSource r) = g r := by
  unfold pendSource
  split
  · exact hg r _ r.repend
  · rfl
  · exact hg r r.st _
  · rfl

section Assertion
variable (s : State) {n k : Nat}

theorem zenithSide_src_same (n kind d0 d1 : Nat) : (zenithSide s n kind d0 d1).src n =
    if (s.src n).en = true ∧ (s.ic (dieFin (n / 512))).claimMode = true then pendSource (s.src n) else s.src n := by
  unfold zenithSide
  dsimp only
  by_cases hen : (s.src n).en = true
  · by_cases hmode : (s.ic (dieFin (n / 512))).claimMode = true
    · simp [hen, hmode, State.src_setSrc_same]
    · simp [hen, hmode, src_of_irqSrc (eqRecord_irqSrc ..)]
  · simp [hen]

theorem zenithSide_src_ne (hk : k ≠ n) (kind d0 d1 : Nat) : (zenithSide s n kind d0 d1).src k = s.src k := by
  unfold zenithSide
  dsimp only
  split
  · rfl
  · split
    · exact State.src_setSrc_ne s _ hk
    · exact src_of_irqSrc (eqRecord_irqSrc ..) k

theorem quarantine_irqSrc (n d0 d1 : Nat) : (quarantine s n d0 d1).irq.src = (s.setSrc n (s.src n).quarantined).irq.src := by
  unfold quarantine
  dsimp only
  rw [sendRecords_irqSrc, when_irqSrc _ fun t => eqRecord_irqSrc t ..]
  rfl

theorem quarantine_src_same (n d0 d1 : Nat) : (quarantine s n d0 d1).src n = (s.src n).quarantined :=
  (src_of_irqSrc (quarantine_irqSrc ..) n).trans (State.src_setSrc_same ..)

theorem quarantine_src_ne (hk : k ≠ n) (d0 d1 : Nat) : (quarantine s n d0 d1).src k = s.src k :=
  (src_of_irqSrc (quarantine_irqSrc ..) k).trans (State.src_setSrc_ne s _ hk)

/-- The state in which an assertion below the storm limit has been counted. -/
def counted (n d0 d1 : Nat) : State := (s.setSrc n ((s.src n).asserted d0 d1)).bump 0x691001

theorem counted_src_same (n d0 d1 : Nat) : (counted s n d0 d1).src n = (s.src n).asserted d0 d1 := State.src_setSrc_same ..

theorem counted_src_ne (hk : k ≠ n) (d0 d1 : Nat) : (counted s n d0 d1).src k = s.src k := State.src_setSrc_ne s _ hk

theorem raise_of_reserved (hinfo : srcInfo n = none) (d0 d1 : Nat) : raise s n d0 d1 = s := by simp only [raise, hinfo]

/-- An assertion of a source in quarantine is only counted, one above the storm limit brings the source there, and any other is
sent to every destination. -/
theorem raise_of_assigned {i : SrcInfo} (hinfo : srcInfo n = some i) (d0 d1 : Nat) : raise s n d0 d1 =
    if ((s.src n).st = .quarantined || (s.src n).quar) = true then s.setSrc n { s.src n with count := ((s.src n).count + 1) % 65536 }
    else if s.obj 0x290001 < (s.src n).storm + 1 then quarantine (counted s n d0 d1) n d0 d1
    else sendRecords (zenithSide (counted s n d0 d1) n 0 d0 d1) n 0 d0 d1 := by
  simp only [raise, hinfo]
  rfl

theorem raise_src_ne (hk : k ≠ n) (d0 d1 : Nat) : (raise s n d0 d1).src k = s.src k := by
  cases hinfo : srcInfo n with
  | none => rw [raise_of_reserved s hinfo]
  | some i =>
    rw [raise_of_assigned s hinfo]
    split
    · exact State.src_setSrc_ne s _ hk
    · split
      · rw [quarantine_src_ne _ hk, counted_src_ne _ hk]
      · rw [src_of_irqSrc (sendRecords_irqSrc ..), zenithSide_src_ne _ hk, counted_src_ne _ hk]

section Counted
variable {s} (hinfo : (srcInfo n).isSome = true) (hst : (s.src n).st ≠ .quarantined) (hquar : (s.src n).quar = false) (d0 d1 : Nat)
include hinfo hst hquar

/-- A source below its storm limit is counted, and pends when its controller offers claims. -/
theorem raise_src_same (hroom : (s.src n).storm + 1 ≤ s.obj 0x290001) : (raise s n d0 d1).src n =
    if (s.src n).en = true ∧ (s.ic (dieFin (n / 512))).claimMode = true then pendSource ((s.src n).asserted d0 d1)
    else (s.src n).asserted d0 d1 := by
  obtain ⟨i, hi⟩ := Option.isSome_iff_exists.mp hinfo
  rw [raise_of_assigned s hi, if_neg (by simp [hst, hquar]), if_neg (by omega), src_of_irqSrc (sendRecords_irqSrc ..),
    zenithSide_src_same]
  simp only [counted_src_same]
  rfl

/-- A source above its storm limit goes into quarantine. -/
theorem raise_src_same_of_storm (hstorm : s.obj 0x290001 < (s.src n).storm + 1) (hactive : (s.src n).st ≠ .active) :
    ((raise s n d0 d1).src n).st = .quarantined := by
  obtain ⟨i, hi⟩ := Option.isSome_iff_exists.mp hinfo
  rw [raise_of_assigned s hi, if_neg (by simp [hst, hquar]), if_pos hstorm, quarantine_src_same, counted_src_same,
    SrcRec.quarantined, if_neg (c := ((s.src n).asserted d0 d1).st = .active) hactive]

end Counted

/-- What a source below its limit keeps, and what it becomes where claims are offered. -/
theorem raise_asserts (hinfo : (srcInfo n).isSome = true) (hst : (s.src n).st ≠ .quarantined) (hquar : (s.src n).quar = false)
    (hroom : (s.src n).storm + 1 ≤ s.obj 0x290001) (d0 d1 : Nat) :
    let t := raise s n d0 d1
    (t.src n).level = (s.src n).level ∧ (t.src n).count = ((s.src n).count + 1) % 65536 ∧
      (t.src n).detail0 = d0 % 2 ^ 64 ∧ (t.src n).detail1 = d1 % 2 ^ 32 ∧
      ((s.src n).en = true → (s.ic (dieFin (n / 512))).claimMode = true →
        (t.src n).st = (if (s.src n).st = .idle then .pending else (s.src n).st) ∧
        ((s.src n).st = .active → (t.src n).repend = true)) ∧
      ((t.src n).st = (s.src n).st ∨ (t.src n).st = .pending) := by
  dsimp only
  rw [raise_src_same hinfo hst hquar d0 d1 hroom]
  split
  · refine ⟨pendSource_keeps SrcRec.level (fun _ _ _ => rfl) _, pendSource_keeps SrcRec.count (fun _ _ _ => rfl) _,
      pendSource_keeps SrcRec.detail0 (fun _ _ _ => rfl) _, pendSource_keeps SrcRec.detail1 (fun _ _ _ => rfl) _,
      fun _ _ => ⟨pendSource_st _, fun hactive => pendSource_repend hactive⟩, ?_⟩
    rw [pendSource_st]
    split
    · exact .inr rfl
    · exact .inl rfl
  · rename_i hmode
    exact ⟨rfl, rfl, rfl, rfl, fun hen hclaim => absurd ⟨hen, hclaim⟩ hmode, .inl rfl⟩

theorem zenithSide_src_level (n kind d0 d1 : Nat) : ((zenithSide s n kind d0 d1).src n).level = (s.src n).level := by
  rw [zenithSide_src_same]
  split
  · exact pendSource_keeps SrcRec.level (fun _ _ _ => rfl) _
  · rfl

theorem SrcRec.quarantined_level (r : SrcRec) : r.quarantined.level = r.level := by
  unfold SrcRec.quarantined
  split <;> rfl

/-- An assertion changes no source's level. -/
theorem raise_src_level (n d0 d1 k : Nat) : ((raise s n d0 d1).src k).level = (s.src k).level := by
  by_cases hk : k = n
  · subst hk
    have hcounted : ((counted s k d0 d1).src k).level = (s.src k).level := by rw [counted_src_same]; rfl
    cases hinfo : srcInfo k with
    | none => rw [raise_of_reserved s hinfo]
    | some i =>
      rw [raise_of_assigned s hinfo]
      split
      · rw [State.src_setSrc_same]
      · split
        · rw [quarantine_src_same, SrcRec.quarantined_level, hcounted]
        · rw [src_of_irqSrc (sendRecords_irqSrc ..), zenithSide_src_level, hcounted]
  · rw [raise_src_ne s hk]

theorem setLevel_src_level (n : Nat) (on : Bool) (d0 d1 : Nat) : ((setLevel s n on d0 d1).src n).level = on := by
  have hset : ((s.setSrc n { s.src n with level := on }).src n).level = on := by rw [State.src_setSrc_same]
  unfold setLevel
  dsimp only
  cases on && !(s.src n).level
  · exact hset
  · exact (raise_src_level ..).trans hset

end Assertion

/-! ## Storm windows (17 R382) -/

/-- STORM_WINDOW_END's work for one source. -/
def clearStorm (t : State) (n : Nat) : State := t.setSrc n { t.src n with storm := 0 }

theorem clearStorm_src (t : State) (n k : Nat) :
    (clearStorm t n).src k = if k = n then { t.src k with storm := 0 } else t.src k := by
  split
  · rename_i hk
    rw [hk]
    exact State.src_setSrc_same ..
  · exact State.src_setSrc_ne t _ ‹_›

theorem clearStorms_src (s : State) (l : List Nat) (k : Nat) :
    (s.each l clearStorm).src k = if k ∈ l then { s.src k with storm := 0 } else s.src k := by
  unfold State.each
  induction l generalizing s with
  | nil => rfl
  | cons n l ih =>
    rw [List.foldl_cons, ih, clearStorm_src]
    by_cases hk : k = n
    · simp [hk]
    · simp [hk]

theorem exec_stormWindowEnd (s : State) : exec .stormWindowEnd s = .next (s.each (liveSources s) clearStorm) := rfl

theorem stormWindowEnd_src (s : State) (k : Nat) : (s.each (liveSources s) clearStorm).src k = { s.src k with storm := 0 } := by
  rw [clearStorms_src]
  split
  · rfl
  · rename_i hk
    rw [src_of_not_live hk]
    rfl

/-! ## Samples and completions (17 R385, R386) -/

section Completion
variable (s : State) {n k : Nat}

theorem sampleLevel_src_ne (hk : k ≠ n) : (sampleLevel s n).src k = s.src k := by
  unfold sampleLevel
  dsimp only
  split
  · rfl
  · split
    · exact State.src_setSrc_ne s _ hk
    · exact State.src_setSrc_ne s _ hk

theorem sampleLevel_src_sample (hlevel : isLevelSrc n = true) :
    ((sampleLevel s n).src n).sample = some ((s.src n).sample.getD (s.src n).level) := by
  unfold sampleLevel
  dsimp only
  cases hsample : (s.src n).sample with
  | some b => simp [hlevel, hsample]
  | none =>
    cases h : (s.src n).level
    · rw [if_neg (by simp [hlevel]), if_neg (by simp)]
      exact congrArg SrcRec.sample (State.src_setSrc_same s n _)
    · rw [if_neg (by simp [hlevel]), if_pos rfl, State.src_setSrc_same]
      rfl

/-- A sample changes nothing of its source but the sample and the count of vanished claims. -/
theorem sampleLevel_src_keeps {β : Type} (g : SrcRec → β)
    (hg : ∀ (r : SrcRec) x v, g { r with sample := x, vanished := v } = g r) (n : Nat) :
    g ((sampleLevel s n).src n) = g (s.src n) := by
  unfold sampleLevel
  dsimp only
  split
  · rfl
  · split
    · exact (congrArg g (State.src_setSrc_same ..)).trans (hg (s.src n) _ _)
    · exact (congrArg g (State.src_setSrc_same s n _)).trans (hg (s.src n) _ _)

theorem endClaim_src_ne (hk : k ≠ n) : (endClaim s n).src k = s.src k := by
  have hset (r : SrcRec) : ((sampleLevel s n).setSrc n r).src k = s.src k :=
    (State.src_setSrc_ne _ _ hk).trans (sampleLevel_src_ne s hk)
  unfold endClaim
  dsimp only
  split
  · exact hset _
  · split
    · split
      · exact (quarantine_src_ne _ hk ..).trans (hset _)
      · exact hset _
    · exact hset _

/-- Does a completion assert its source again: on a re-pend, or where a level source's sample and its level are active. -/
def pendsAgain (n : Nat) (r : SrcRec) : Bool := r.repend || (isLevelSrc n && r.sample.getD r.level && r.level)

/-- What a completion leaves of its source's state. -/
theorem endClaim_src_st (n : Nat) : ((endClaim s n).src n).st =
    if (s.src n).quar = true then .quarantined
    else if pendsAgain n (s.src n) = true then
      if s.obj 0x290001 < (s.src n).storm + 1 then .quarantined else .pending
    else .idle := by
  have hquar : ((sampleLevel s n).src n).quar = (s.src n).quar := sampleLevel_src_keeps s SrcRec.quar (fun _ _ _ => rfl) n
  have hstorm : ((sampleLevel s n).src n).storm = (s.src n).storm := sampleLevel_src_keeps s SrcRec.storm (fun _ _ _ => rfl) n
  have hlimit : (sampleLevel s n).obj 0x290001 = s.obj 0x290001 := (sampleLevel_noted s n).obj _ (by decide)
  have hagain : (((sampleLevel s n).src n).repend || (isLevelSrc n && ((sampleLevel s n).src n).sample == some true &&
      ((sampleLevel s n).src n).level)) = pendsAgain n (s.src n) := by
    rw [pendsAgain, sampleLevel_src_keeps s SrcRec.repend (fun _ _ _ => rfl) n, sampleLevel_src_keeps s SrcRec.level (fun _ _ _ => rfl) n]
    cases hlevel : isLevelSrc n
    · simp
    · rw [sampleLevel_src_sample s hlevel]
      cases (s.src n).sample.getD (s.src n).level <;> rfl
  simp only [endClaim, hquar, hagain, hstorm, hlimit]
  split
  · rw [State.src_setSrc_same]
  · split
    · split
      · rw [quarantine_src_same, State.src_setSrc_same]
        rfl
      · rw [State.src_setSrc_same]
    · rw [State.src_setSrc_same]

theorem pendsAgain_of_edge (hedge : isLevelSrc n = false) (r : SrcRec) : pendsAgain n r = r.repend := by simp [pendsAgain, hedge]

theorem pendsAgain_of_level (hlevel : isLevelSrc n = true) (r : SrcRec) :
    pendsAgain n r = (r.repend || (r.sample.getD r.level && r.level)) := by simp [pendsAgain, hlevel]

theorem completeClaim_of_holder {c : DieId} {fast : Bool} (hst : (s.src n).st = .active) (hcore : (s.src n).core = c.val)
    (hfast : (s.src n).fast = fast) : completeClaim s c n fast = endClaim s n := by
  simp [completeClaim, hst, hcore, hfast]

theorem completeClaim_of_other {c : DieId} {fast : Bool}
    (h : (s.src n).st ≠ .active ∨ (s.src n).core ≠ c.val ∨ (s.src n).fast ≠ fast) :
    completeClaim s c n fast = s.bump 0x691005 := by
  have hno : ((s.src n).st = .active && (s.src n).core = c.val && (s.src n).fast == fast : Bool) = false := by
    obtain h | h | h := h
    · simp [h]
    · simp [h]
    · simp [h]
  simp only [completeClaim, hno, Bool.false_eq_true, if_false]

end Completion

/-! ## Claims (17 R384, R385, R387) -/

section Claims
variable {s : State} {n : Nat} {z : DieId}

/-- The core of lowest running priority is one of those offered. -/
theorem lowestRun_mem {l : List DieId} (h : lowestRun s l = some z) : z ∈ l := by
  induction l with
  | nil => exact nomatch h
  | cons c l ih =>
    cases hl : lowestRun s l with
    | none =>
      simp only [lowestRun, hl, Option.some.injEq] at h
      exact List.mem_cons.mpr (.inl h.symm)
    | some d =>
      simp only [lowestRun, hl] at h
      split at h
      · exact List.mem_cons_of_mem _ (ih (hl.trans h))
      · exact List.mem_cons.mpr (.inl (Option.some.inj h).symm)

theorem target_of_mem {r : SrcRec} (h : z ∈ targetCores s r) : bitAt r.targets z.val = true := by
  have hmem := (List.mem_filter.mp h).2
  rw [Bool.and_eq_true] at hmem
  exact hmem.1

theorem pending_of_routedTo (h : routedTo s n = some z) : (s.src n).st = .pending := by
  by_contra hst
  simp [routedTo, hst] at h

/-- A normal source is routed to a core that it targets and that runs below its priority. -/
theorem routedTo_normal (h : routedTo s n = some z) (hnormal : (s.src n).isFast = false) :
    bitAt (s.src n).targets z.val = true ∧ runPrio s z < (s.src n).prio := by
  have hst := pending_of_routedTo h
  simp only [routedTo, hst, hnormal] at h
  cases hlow : lowestRun s (targetCores s (s.src n)) with
  | none => simp [hlow] at h
  | some c =>
    by_cases hprio : runPrio s c < (s.src n).prio
    · simp only [hlow, hprio] at h
      obtain rfl : c = z := by simpa using h
      exact ⟨target_of_mem (lowestRun_mem hlow), hprio⟩
    · simp [hlow, hprio] at h

/-- A fast source is routed to a core that it targets. -/
theorem routedTo_fast (h : routedTo s n = some z) (hfast : (s.src n).isFast = true) : bitAt (s.src n).targets z.val = true := by
  have hst := pending_of_routedTo h
  have hlow : lowestRun s ((targetCores s (s.src n)).filter fun c => !holdsFast s c) = some z := by
    simpa [routedTo, hst, hfast] using h
  exact target_of_mem (List.mem_filter.mp (lowestRun_mem hlow)).1

/-- The better of two sources to claim: the one with the higher priority, the first one where they are equal. -/
def betterClaim (s : State) (best n : Nat) : Nat := if best = 0 || (s.src best).prio < (s.src n).prio then n else best

/-- The best of a list of sources, none of which is source 0, is one of them and none is above it. -/
theorem foldl_betterClaim {l : List Nat} (hl : ∀ k ∈ l, k ≠ 0) {b : Nat} (hb : b ≠ 0) :
    let m := l.foldl (betterClaim s) b
    m ≠ 0 ∧ (m = b ∨ m ∈ l) ∧ (s.src b).prio ≤ (s.src m).prio ∧ ∀ k ∈ l, (s.src k).prio ≤ (s.src m).prio := by
  induction l generalizing b with
  | nil => exact ⟨hb, .inl rfl, Nat.le_refl _, by simp⟩
  | cons n l ih =>
    have hn : n ≠ 0 := hl n (by simp)
    have hrest : ∀ k ∈ l, k ≠ 0 := fun k hk => hl k (List.mem_cons_of_mem _ hk)
    rw [List.foldl_cons]
    by_cases hless : (s.src b).prio < (s.src n).prio
    · have hbest : betterClaim s b n = n := by simp [betterClaim, hless]
      rw [hbest]
      obtain ⟨hm, hin, hle, hall⟩ := ih hrest hn
      refine ⟨hm, .inr ?_, by omega, ?_⟩
      · obtain h | h := hin
        · exact List.mem_cons.mpr (.inl h)
        · exact List.mem_cons_of_mem _ h
      · simpa using ⟨hle, hall⟩
    · have hbest : betterClaim s b n = b := by simp [betterClaim, hless, hb]
      rw [hbest]
      obtain ⟨hm, hin, hle, hall⟩ := ih hrest hb
      refine ⟨hm, hin.imp_right (List.mem_cons_of_mem _), hle, ?_⟩
      simpa using ⟨by omega, hall⟩

/-- The normal sources routed to a core. -/
def normalFor (s : State) (z : DieId) : List Nat := (liveSources s).filter fun n => !(s.src n).isFast && routedTo s n == some z

theorem mem_normalFor : n ∈ normalFor s z ↔ (s.src n).isFast = false ∧ routedTo s n = some z := by
  rw [normalFor, List.mem_filter]
  refine ⟨fun h => by simpa using h.2, fun h => ⟨live_of_st ?_, by simpa using h⟩⟩
  rw [pending_of_routedTo h.2]
  decide

/-- What CLAIM answers: a source routed to the core with the highest priority of those, or 0 where there is none. -/
theorem claimNormal_spec (hlive : ∀ k ∈ liveSources s, k ≠ 0) (z : DieId) :
    (claimNormal s z ≠ 0 → claimNormal s z ∈ normalFor s z ∧
      ∀ k ∈ normalFor s z, (s.src k).prio ≤ (s.src (claimNormal s z)).prio) ∧
    (claimNormal s z = 0 → normalFor s z = []) := by
  have hne : ∀ k ∈ normalFor s z, k ≠ 0 := fun k hk => hlive k (List.mem_filter.mp hk).1
  have hclaim : claimNormal s z = (normalFor s z).foldl (betterClaim s) 0 := rfl
  rw [hclaim]
  cases hl : normalFor s z with
  | nil => exact ⟨fun h => absurd rfl h, fun _ => rfl⟩
  | cons a l =>
    rw [hl] at hne
    have hfirst : betterClaim s 0 a = a := by simp [betterClaim]
    rw [List.foldl_cons, hfirst]
    obtain ⟨hm, hin, hle, hall⟩ := foldl_betterClaim (s := s) (fun k hk => hne k (List.mem_cons_of_mem _ hk)) (hne a (by simp))
    refine ⟨fun _ => ⟨?_, by simpa using ⟨hle, hall⟩⟩, fun h => absurd h hm⟩
    obtain h | h := hin
    · exact List.mem_cons.mpr (.inl h)
    · exact List.mem_cons_of_mem _ h

/-- What CLAIM_FAST answers: a fast source routed to the core, which then holds no other. -/
theorem claimFast_spec (h : claimFast s z ≠ 0) : holdsFast s z = false ∧ (s.src (claimFast s z)).isFast = true ∧
    routedTo s (claimFast s z) = some z := by
  unfold claimFast at h ⊢
  by_cases hholds : holdsFast s z = true
  · simp [hholds] at h
  · simp only [hholds] at h ⊢
    cases hhead : ((liveSources s).filter fun n => (s.src n).isFast && routedTo s n == some z).head? with
    | none => simp [hhead] at h
    | some n =>
      have hmem := (List.mem_filter.mp (List.mem_of_head? hhead)).2
      rw [Bool.and_eq_true, beq_iff_eq] at hmem
      exact ⟨trivial, hmem.1, hmem.2⟩

theorem takeClaim_none (s : State) (z : DieId) (fast : Bool) : (takeClaim s z 0 fast).irq = s.irq := rfl

theorem takeClaim_src_same (hn : n ≠ 0) (fast : Bool) : (takeClaim s z n fast).src n =
    { s.src n with st := .active, core := z.val, fast := fast, repend := false, sample := none } := by
  unfold takeClaim
  rw [if_neg hn]
  exact State.src_setSrc_same ..

theorem takeClaim_src_ne {k : Nat} (hk : k ≠ n) (fast : Bool) : (takeClaim s z n fast).src k = s.src k := by
  unfold takeClaim
  split
  · rfl
  · exact State.src_setSrc_ne s _ hk

theorem takeClaim_out (s : State) (z : DieId) (n : Nat) (fast : Bool) :
    (takeClaim s z n fast).out = .zenithRead z.val n :: s.out := by
  unfold takeClaim
  split <;> rfl

end Claims

/-! ## Controllers that enter QUEUE (17 R389) -/

theorem endClaim_inactive (s : State) (n : Nat) : ((endClaim s n).src n).st ≠ .active := by
  rw [endClaim_src_st]
  split
  · decide
  · split
    · split <;> decide
    · decide

theorem endClaims_inactive {s : State} {ns : List Nat} {k : Nat} (hk : k ∈ ns) : ((endClaims s ns).src k).st ≠ .active := by
  have hkept (t : State) (n : Nat) (h : (t.src k).st ≠ .active) : ((endClaim t n).src k).st ≠ .active := by
    by_cases hn : k = n
    · rw [hn]
      exact endClaim_inactive t n
    · rwa [endClaim_src_ne t hn]
  by_cases hactive : (s.src k).st = .active
  · exact State.each_reaches (I := fun _ => True) (P := fun t => (t.src k).st ≠ .active)
      (List.mem_filter.mpr ⟨hk, by simp [hactive]⟩) (fun _ _ h => h) (fun t _ => endClaim_inactive t k)
      (fun t n _ h => hkept t n h) trivial
  · exact State.each_invariant (I := fun t => (t.src k).st ≠ .active) _ (fun t n h => hkept t n h) hactive

theorem flushSource_src_same (s : State) (n : Nat) : ((flushSource s n).src n).st = if (s.src n).st = .pending then .idle else (s.src n).st := by
  unfold flushSource
  dsimp only
  split
  · rw [src_of_irqSrc (eqRecord_irqSrc ..), State.src_setSrc_same]
  · rfl

theorem flushSource_src_ne {n k : Nat} (s : State) (hk : k ≠ n) : (flushSource s n).src k = s.src k := by
  unfold flushSource
  dsimp only
  split
  · exact (src_of_irqSrc (eqRecord_irqSrc ..) k).trans (State.src_setSrc_ne s _ hk)
  · rfl

/-- A source that is neither claimed nor pending. -/
def SrcRec.settled (r : SrcRec) : Prop := r.st ≠ .active ∧ r.st ≠ .pending

theorem flushSource_settles {s : State} {n : Nat} (h : (s.src n).st ≠ .active) : ((flushSource s n).src n).settled := by
  rw [SrcRec.settled, flushSource_src_same]
  split
  · exact ⟨by decide, by decide⟩
  · exact ⟨h, ‹_›⟩

/-- Flushing a list of sources, none of which is claimed, settles each of them. -/
theorem flushed_settled {s : State} {ns : List Nat} {k : Nat} (hactive : (s.src k).st ≠ .active)
    (hk : k ∈ ns ∨ (s.src k).st ≠ .pending) : ((s.each ns flushSource).src k).settled := by
  have hinactive (t : State) (n : Nat) (h : (t.src k).st ≠ .active) : ((flushSource t n).src k).st ≠ .active := by
    by_cases hn : k = n
    · rw [← hn]
      exact (flushSource_settles h).1
    · rwa [flushSource_src_ne t hn]
  have hkept (t : State) (n : Nat) (h : (t.src k).settled) : ((flushSource t n).src k).settled := by
    by_cases hn : k = n
    · rw [← hn]
      exact flushSource_settles h.1
    · rwa [flushSource_src_ne t hn]
  obtain hk | hk := hk
  · exact State.each_reaches (I := fun t => (t.src k).st ≠ .active) (P := fun t => (t.src k).settled) hk hinactive
      (fun t h => flushSource_settles h) (fun t n _ h => hkept t n h) hactive
  · exact State.each_invariant (I := fun t => (t.src k).settled) _ hkept ⟨hactive, hk⟩

theorem mem_dieSources {s : State} {d : DieId} {k : Nat} (hdie : k / 512 = d.val) (h : (s.src k).st ≠ .idle) :
    k ∈ dieSources s d := List.mem_filter.mpr ⟨live_of_st h, by simp [hdie]⟩

theorem endClaims_of_die {s : State} {d : DieId} {k : Nat} (hdie : k / 512 = d.val) :
    ((endClaims s (dieSources s d)).src k).st ≠ .active := by
  by_cases hk : k ∈ dieSources s d
  · exact endClaims_inactive hk
  · have hidle : (s.src k).st = .idle := by
      by_contra h
      exact hk (mem_dieSources hdie h)
    have hkept (t : State) (n : Nat) (h : (t.src k).st ≠ .active) : ((endClaim t n).src k).st ≠ .active := by
      by_cases hn : k = n
      · rw [hn]
        exact endClaim_inactive t n
      · rwa [endClaim_src_ne t hn]
    exact State.each_invariant (I := fun t => (t.src k).st ≠ .active) _ (fun t n h => hkept t n h) (by rw [hidle]; decide)

theorem enterQueue_settles (s : State) (entry : Nat) {d : DieId} {k : Nat} (hdie : k / 512 = d.val) :
    ((enterQueue s d entry).src k).settled := by
  have hactive := endClaims_of_die (s := s) hdie
  refine flushed_settled hactive ?_
  by_cases hpending : ((endClaims s (dieSources s d)).src k).st = .pending
  · exact .inl (mem_dieSources hdie (by rw [hpending]; decide))
  · exact .inr hpending

theorem enterQueue_ic (s : State) (d : DieId) (entry : Nat) :
    ((enterQueue s d entry).ic d).claimMode = false ∧ ((enterQueue s d entry).ic d).entry = entry := by
  have hset (t : State) (x : IntCtl) : (t.setIc d x).ic d = x := by simp [State.setIc, State.ic]
  unfold enterQueue
  dsimp only
  rw [hset]
  exact ⟨rfl, rfl⟩

/-! ## The operations -/

theorem exec_sourceAssert (source : BitVec 12) (d0 : BitVec 64) (d1 : BitVec 32) (s : State) :
    exec (.sourceAssert source d0 d1) s = execSourceAssert source d0 d1 s := rfl
theorem exec_extInputFilterChange (i : Fin 21) (s : State) : exec (.extInputFilterChange i) s = execExtInputFilterChange i s := rfl
theorem exec_quarantineRelease (source : BitVec 12) (s : State) :
    exec (.quarantineRelease source) s = .next (releaseSource s source.toNat) := rfl
theorem exec_srcStatusLevelSample (z : DieId) (source : BitVec 12) (s : State) :
    exec (.srcStatusLevelSample z source) s = execSrcStatusLevelSample z source s := rfl
theorem exec_contrailEventSend (s : State) : exec .contrailEventSend s = execContrailEventSend s := rfl
theorem exec_claimRead (z : DieId) (s : State) : exec (.claimRead z) s = .next (takeClaim s z (claimNormal s z) false) := rfl
theorem exec_claimFastRead (z : DieId) (s : State) : exec (.claimFastRead z) s = .next (takeClaim s z (claimFast s z) true) := rfl
theorem exec_completeWrite (z : DieId) (source : BitVec 12) (s : State) :
    exec (.completeWrite z source) s = .next (completeClaim s z source.toNat false) := rfl
theorem exec_completeFastWrite (z : DieId) (source : BitVec 12) (s : State) :
    exec (.completeFastWrite z source) s = .next (completeClaim s z source.toNat true) := rfl
theorem exec_icModeQueueWrite (d : DieId) (s : State) : exec (.icModeQueueWrite d) s = .next (enterQueue s d 3) := rfl
theorem exec_icModeClaimWrite (d : DieId) (s : State) : exec (.icModeClaimWrite d) s = execIcModeClaimWrite d s := rfl

/-- Either of the two registers that complete a claim. -/
theorem exec_complete (z : DieId) (source : BitVec 12) (fast : Bool) (s : State) :
    (fast = false → exec (.completeWrite z source) s = .next (completeClaim s z source.toNat fast)) ∧
    (fast = true → exec (.completeFastWrite z source) s = .next (completeClaim s z source.toNat fast)) := by
  cases fast
  · exact ⟨fun _ => exec_completeWrite .., nofun⟩
  · exact ⟨nofun, fun _ => exec_completeFastWrite ..⟩

section Operations
variable (s : State)

theorem releaseSource_of_absent {n : Nat} (hst : (s.src n).st = .quarantined)
    (h : isLevelSrc n = false ∨ (s.src n).level = false) :
    releaseSource s n = s.setSrc n { s.src n with st := .idle, quar := false } := by
  have hno : (isLevelSrc n && (s.src n).level) = false := by
    obtain h | h := h
    · simp [h]
    · simp [h]
  simp [releaseSource, hst, hno, State.when_false]

/-- A level source whose condition still stands asserts again when it leaves quarantine. -/
theorem releaseSource_of_present {n : Nat} (hst : (s.src n).st = .quarantined) (hlevel : isLevelSrc n = true)
    (hpresent : (s.src n).level = true) : releaseSource s n =
      raise (s.setSrc n { s.src n with st := .idle, quar := false }) n (s.src n).detail0 (s.src n).detail1 := by
  simp [releaseSource, hst, hlevel, hpresent, State.when_true]

theorem isSome_of_level {n : Nat} (h : isLevelSrc n = true) : (srcInfo n).isSome = true := by
  unfold isLevelSrc at h
  cases hinfo : srcInfo n with
  | none => simp [hinfo] at h
  | some i => rfl

theorem sourceAssert_of_level {source : BitVec 12} (hext : isExternalSrc source.toNat = false)
    (hlevel : isLevelSrc source.toNat = true) (habsent : (s.src source.toNat).level = false) (d0 : BitVec 64) (d1 : BitVec 32) :
    exec (.sourceAssert source d0 d1) s = .next (raise (s.setSrc source.toNat { s.src source.toNat with level := true })
      source.toNat d0.toNat d1.toNat) := by
  simp [exec_sourceAssert, execSourceAssert, hext, hlevel, setLevel, habsent, State.when_true]

theorem sourceAssert_of_edge {source : BitVec 12} (hext : isExternalSrc source.toNat = false)
    (hedge : isLevelSrc source.toNat = false) (d0 : BitVec 64) (d1 : BitVec 32) :
    exec (.sourceAssert source d0 d1) s = .next (raise s source.toNat d0.toNat d1.toNat) := by
  simp [exec_sourceAssert, execSourceAssert, hext, hedge]

/-- The first read of a level source's status by the core that claimed it. -/
theorem srcStatusLevelSample_of_claim {z : DieId} {source : BitVec 12} (hst : (s.src source.toNat).st = .active)
    (hcore : (s.src source.toNat).core = z.val) : exec (.srcStatusLevelSample z source) s =
      .next ((sampleLevel s source.toNat).emit (.zenithRead z.val ((sampleLevel s source.toNat).src source.toNat).status)) := by
  simp [exec_srcStatusLevelSample, execSrcStatusLevelSample, hst, hcore, State.when_true]

/-- The state in which an external input's filtered level has flipped. -/
def flipped (i : Fin 21) : State :=
  { s with irq := { s.irq with ext := vmod s.irq.ext i fun y => { y with filtered := !y.filtered } } }

theorem extInputFilterChange_flips {i : Fin 21} (h : (s.irq.ext[i]).filtered = true ∨ alertsIgnored s = false) :
    ∃ t, exec (.extInputFilterChange i) s = .next t ∧ (t.irq.ext[i]).filtered = !(s.irq.ext[i]).filtered ∧
      (t.src (288 + i.val)).level = !(s.irq.ext[i]).filtered := by
  have hheard : (!(s.irq.ext[i]).filtered && alertsIgnored s) = false := by
    obtain h | h := h
    · simp only [h, Bool.not_true, Bool.false_and]
    · simp only [h, Bool.and_false]
  have hexec : exec (.extInputFilterChange i) s = .next
      (setLevel (flipped s i) (288 + i.val) (!(s.irq.ext[i]).filtered) (if i.val < 20 then i.val else 0) 0) := by
    simp only [exec_extInputFilterChange, execExtInputFilterChange, hheard]
    rfl
  refine ⟨_, hexec, ?_, setLevel_src_level ..⟩
  have hext : (setLevel (flipped s i) (288 + i.val) (!(s.irq.ext[i]).filtered) (if i.val < 20 then i.val else 0) 0).irq.ext =
    (flipped s i).irq.ext := (congrArg Irq.ext (setLevel_noted (flipped s i) _ _ _ _).inputs :)
  have hown : (flipped s i).irq.ext[i] = { s.irq.ext[i] with filtered := !(s.irq.ext[i]).filtered } := vmod_same ..
  rw [hext, hown]

theorem claims_answer (z : DieId) (hlive : ∀ k ∈ liveSources s, k ≠ 0) : (claimNormal s z ≠ 0 →
      (s.src (claimNormal s z)).isFast = false ∧ routedTo s (claimNormal s z) = some z ∧
      ∀ k, routedTo s k = some z → (s.src k).isFast = false → (s.src k).prio ≤ (s.src (claimNormal s z)).prio) ∧
    (claimNormal s z = 0 → ∀ k ∈ liveSources s, (s.src k).isFast = true ∨ routedTo s k ≠ some z) := by
  obtain ⟨hsome, hnone⟩ := claimNormal_spec hlive z
  refine ⟨fun h => ?_, fun h k _ => ?_⟩
  · obtain ⟨hmem, hbest⟩ := hsome h
    obtain ⟨hnormal, hrouted⟩ := mem_normalFor.mp hmem
    exact ⟨hnormal, hrouted, fun k hk hfast => hbest k (mem_normalFor.mpr ⟨hfast, hk⟩)⟩
  · by_contra hcontra
    rw [not_or, not_ne_iff, Bool.not_eq_true] at hcontra
    have hmem : k ∈ normalFor s z := mem_normalFor.mpr hcontra
    rw [hnone h] at hmem
    exact nomatch hmem

theorem claimRead_answers (z : DieId) (hlive : ∀ k ∈ liveSources s, k ≠ 0) :
    ∃ t n, exec (.claimRead z) s = .next t ∧ t.out = .zenithRead z.val n :: s.out ∧
      (n ≠ 0 → (s.src n).st = .pending ∧ (s.src n).isFast = false ∧ bitAt (s.src n).targets z.val = true ∧
        runPrio s z < (s.src n).prio ∧ (t.src n).st = .active ∧ (t.src n).core = z.val ∧ (t.src n).fast = false ∧
        (∀ k, routedTo s k = some z → (s.src k).isFast = false → (s.src k).prio ≤ (s.src n).prio) ∧ ∀ k, k ≠ n → t.src k = s.src k) ∧
      (n = 0 → t.irq = s.irq ∧ ∀ k ∈ liveSources s, (s.src k).isFast = true ∨ routedTo s k ≠ some z) := by
  obtain ⟨hsome, hnone⟩ := claims_answer s z hlive
  refine ⟨_, claimNormal s z, exec_claimRead z s, takeClaim_out .., fun h => ?_, fun h => ⟨?_, hnone h⟩⟩
  · obtain ⟨hnormal, hrouted, hbest⟩ := hsome h
    obtain ⟨htarget, hprio⟩ := routedTo_normal hrouted hnormal
    refine ⟨pending_of_routedTo hrouted, hnormal, htarget, hprio, ?_, ?_, ?_, hbest, fun k hk => takeClaim_src_ne hk _⟩
    · rw [takeClaim_src_same h]
    · rw [takeClaim_src_same h]
    · rw [takeClaim_src_same h]
  · rw [h]
    exact takeClaim_none ..

theorem claimFastRead_answers (z : DieId) :
    ∃ t n, exec (.claimFastRead z) s = .next t ∧ t.out = .zenithRead z.val n :: s.out ∧
      (n ≠ 0 → (s.src n).st = .pending ∧ (s.src n).isFast = true ∧ bitAt (s.src n).targets z.val = true ∧ holdsFast s z = false ∧
        (t.src n).st = .active ∧ (t.src n).core = z.val ∧ (t.src n).fast = true ∧ ∀ k, k ≠ n → t.src k = s.src k) ∧
      (n = 0 → t.irq = s.irq) := by
  refine ⟨_, claimFast s z, exec_claimFastRead z s, takeClaim_out .., fun h => ?_, fun h => ?_⟩
  · obtain ⟨hholds, hfast, hrouted⟩ := claimFast_spec h
    refine ⟨pending_of_routedTo hrouted, hfast, routedTo_fast hrouted hfast, hholds, ?_, ?_, ?_, fun k hk => takeClaim_src_ne hk _⟩
    · rw [takeClaim_src_same h]
    · rw [takeClaim_src_same h]
    · rw [takeClaim_src_same h]
  · rw [h]
    exact takeClaim_none ..

/-- What the end of a claim leaves, for a source that does or does not assert again. -/
theorem endClaim_ends (n : Nat) :
    ((s.src n).quar = true → ((endClaim s n).src n).st = .quarantined) ∧
    ((s.src n).quar = false → pendsAgain n (s.src n) = true → (s.src n).storm + 1 ≤ s.obj 0x290001 →
      ((endClaim s n).src n).st = .pending) ∧
    ((s.src n).quar = false → pendsAgain n (s.src n) = false → ((endClaim s n).src n).st = .idle) := by
  rw [endClaim_src_st]
  refine ⟨fun h => if_pos h, fun hquar hagain hroom => ?_, fun hquar hagain => ?_⟩
  · rw [if_neg (by simp [hquar]), if_pos hagain, if_neg (by omega)]
  · rw [if_neg (by simp [hquar]), if_neg (by simp [hagain])]

theorem modes_written (d : DieId) (n : Nat) :
    (∃ t, exec (.icModeQueueWrite d) s = .next t ∧ (t.ic d).claimMode = false ∧ (t.ic d).entry = 3 ∧
      ∀ k, k / 512 = d.val → (t.src k).st ≠ .active ∧ (t.src k).st ≠ .pending) ∧
    ((s.ic d).head = (s.ic d).tail → exec (.icModeClaimWrite d) s = .next (s.setIc d { s.ic d with claimMode := true })) ∧
    ((s.ic d).head ≠ (s.ic d).tail → exec (.icModeClaimWrite d) s = .next s) ∧
    ((s.ic d).head < 2 ^ (s.ic d).sizeLog2 → (s.ic d).tail < 2 ^ (s.ic d).sizeLog2 →
      ∃ t, exec (.eqHeadAdvance d n) s = .next t ∧ (t.ic d).tail = (s.ic d).tail ∧ (t.ic d).head =
        ((s.ic d).head + min n (((s.ic d).tail + 2 ^ (s.ic d).sizeLog2 - (s.ic d).head) % 2 ^ (s.ic d).sizeLog2)) % 2 ^ (s.ic d).sizeLog2 ∧
        t.irq.src = s.irq.src) := by
  have hset (x : IntCtl) : (s.setIc d x).ic d = x := by simp [State.setIc, State.ic]
  obtain ⟨hmode, hentry⟩ := enterQueue_ic s d 3
  refine ⟨⟨_, exec_icModeQueueWrite d s, hmode, hentry, fun k hk => enterQueue_settles s 3 hk⟩, fun h => ?_, fun h => ?_,
    fun _ _ => ⟨_, rfl, (congrArg IntCtl.tail (hset _) :), (congrArg IntCtl.head (hset _) :), rfl⟩⟩
  · rw [exec_icModeClaimWrite, execIcModeClaimWrite]
    exact congrArg Host.Outcome.next (if_pos h)
  · rw [exec_icModeClaimWrite, execIcModeClaimWrite]
    exact congrArg Host.Outcome.next (if_neg h)

end Operations

/-- Settles O50: assertions, claims, completions and modes, each by the rule of its operation. -/
theorem interruptsAreAssertedClaimedAndCompleted : Obligations.InterruptsAreAssertedClaimedAndCompleted := by
  refine ⟨fun source d0 d1 s hinfo hext hlevel habsent hst hquar hroom => ?_,
    fun source d0 d1 s hinfo hext hedge hst hquar => ⟨fun hroom => ?_, fun hstorm hactive => ?_⟩,
    fun s => ⟨_, exec_stormWindowEnd s, stormWindowEnd_src s⟩, fun i s => extInputFilterChange_flips s, fun _ _ => rfl,
    fun source s hst => ⟨fun h => congrArg Host.Outcome.next (releaseSource_of_absent s hst h), fun hlevel hpresent hroom => ?_⟩,
    fun z source s hst hcore hlevel hsample => ?_, fun s r rs h => ?_,
    fun z s hlive => ⟨claimRead_answers s z hlive, claimFastRead_answers s z⟩, fun z source fast r s hr => ?_,
    fun d n s => modes_written s d n⟩
  · have hset : (s.setSrc source.toNat { s.src source.toNat with level := true }).src source.toNat =
      { s.src source.toNat with level := true } := State.src_setSrc_same ..
    obtain ⟨hl, hcount, h0, h1, hpends, -⟩ := raise_asserts (s.setSrc source.toNat { s.src source.toNat with level := true })
      hinfo (by rw [hset]; exact hst) (by rw [hset]; exact hquar) (by rw [hset]; exact hroom) d0.toNat d1.toNat
    rw [hset] at hl hcount hpends
    exact ⟨_, sourceAssert_of_level s hext hlevel habsent d0 d1, hl, hcount, h0.trans (Nat.mod_eq_of_lt d0.isLt),
      h1.trans (Nat.mod_eq_of_lt d1.isLt), hpends, fun k hk => (raise_src_ne _ hk ..).trans (State.src_setSrc_ne s _ hk)⟩
  · obtain ⟨-, hcount, h0, h1, hpends, -⟩ := raise_asserts s hinfo hst hquar hroom d0.toNat d1.toNat
    exact ⟨_, sourceAssert_of_edge s hext hedge d0 d1, hcount, h0.trans (Nat.mod_eq_of_lt d0.isLt),
      h1.trans (Nat.mod_eq_of_lt d1.isLt), hpends, fun k hk => raise_src_ne s hk ..⟩
  · exact ⟨_, sourceAssert_of_edge s hext hedge d0 d1, raise_src_same_of_storm hinfo hst hquar _ _ hstorm hactive,
      fun k hk => raise_src_ne s hk ..⟩
  · have hset : (s.setSrc source.toNat { s.src source.toNat with st := .idle, quar := false }).src source.toNat =
      { s.src source.toNat with st := .idle, quar := false } := State.src_setSrc_same ..
    obtain ⟨-, hcount, -, -, -, hends⟩ := raise_asserts (s.setSrc source.toNat { s.src source.toNat with st := .idle, quar := false })
      (isSome_of_level hlevel) (by rw [hset]; nofun) (by rw [hset]) (by rw [hset]; exact hroom) (s.src source.toNat).detail0
      (s.src source.toNat).detail1
    rw [hset] at hcount hends
    refine ⟨_, (exec_quarantineRelease source s).trans (congrArg Host.Outcome.next (releaseSource_of_present s hst hlevel hpresent)),
      ?_, hcount⟩
    obtain h | h := hends
    · rw [h]; nofun
    · rw [h]; nofun
  · refine ⟨_, srcStatusLevelSample_of_claim s hst hcore, ?_, List.mem_cons_self ..⟩
    exact (sampleLevel_src_sample s hlevel).trans (by rw [hsample]; rfl)
  · simp only [exec_contrailEventSend, execContrailEventSend, h]
  · subst hr
    refine ⟨fun hst hcore hfast hedge => ?_, fun hst hcore hfast hlevel => ?_, fun h => ?_⟩
    · obtain ⟨hslow, hquick⟩ := exec_complete z source fast s
      rw [completeClaim_of_holder s hst hcore hfast] at hslow hquick
      obtain ⟨hquar, hpending, hidle⟩ := endClaim_ends s source.toNat
      rw [pendsAgain_of_edge hedge] at hpending hidle
      exact ⟨_, hslow, hquick, hquar, hpending, hidle, fun k hk => endClaim_src_ne s hk⟩
    · obtain ⟨hslow, hquick⟩ := exec_complete z source fast s
      rw [completeClaim_of_holder s hst hcore hfast] at hslow hquick
      obtain ⟨hquar, hpending, hidle⟩ := endClaim_ends s source.toNat
      rw [pendsAgain_of_level hlevel] at hpending hidle
      refine ⟨_, hslow, hquick, hquar, fun h hagain => hpending h ?_, fun h hrepend hgone => hidle h ?_,
        fun k hk => endClaim_src_ne s hk⟩
      · simpa using hagain
      · obtain hgone | hgone := hgone
        · simp [hrepend, hgone]
        · simp [hrepend, hgone]
    · rw [← completeClaim_of_other s h]
      exact exec_complete z source fast s

end Sys2Proof.Machine
end

section
/-!
Proofs: the state right after a package reset (18 R398; 17 R384; 16 Table 16.14).
-/
namespace Sys2Proof.Machine

/-- The priority and the severity of a source fit their fields of SRC_CFG. -/
def SrcInfo.fits (i : SrcInfo) : Bool := i.prio < 16 && i.sev < 4

theorem srcInfoAll_fits (l : Nat) : (srcInfoAll l).all SrcInfo.fits = true := by
  unfold srcInfoAll
  iterate 6 (split; · rfl)
  split <;> rfl

theorem srcInfoDie0_fits (l : Nat) : (srcInfoDie0 l).all SrcInfo.fits = true := by
  unfold srcInfoDie0
  split
  · rfl
  · split <;> rfl

theorem srcInfo_fits {n : Nat} {i : SrcInfo} (h : srcInfo n = some i) : i.prio < 16 ∧ i.sev < 4 := by
  have hfits : i.fits = true := by
    unfold srcInfo at h
    split at h
    · exact nomatch h
    · split at h
      · rename_i hall
        have hl := srcInfoAll_fits (n % 512)
        rw [hall, h] at hl
        exact hl
      · split at h
        · have hl := srcInfoDie0_fits n
          rw [h] at hl
          exact hl
        · exact nomatch h
  simpa [SrcInfo.fits] using hfits

/-- Fields of SRC_CFG as Table 17.6 places them. -/
theorem srcCfg_fields {f p t v : Nat} (hf : f < 2) (hp : p < 16) (ht : t < 256) (hv : v < 4) :
    let x := (2 ^ 63 + f * 2 ^ 62 + p * 2 ^ 58 + t * 2 ^ 50 + v * 2 ^ 48) % 2 ^ 64
    x / 2 ^ 63 % 2 = 1 ∧ x / 2 ^ 50 % 2 ^ 8 = t := by
  omega

/-- An assigned source is enabled after reset, and routed as R384 gives it. -/
theorem srcReset_routed {n : Nat} {i : SrcInfo} (hinfo : srcInfo n = some i) (htarget : srcTargets n < 256) :
    (srcReset n).en = true ∧ (srcReset n).targets = srcTargets n := by
  obtain ⟨hprio, hsev⟩ := srcInfo_fits hinfo
  have hcfg : (srcReset n).cfg.toNat =
      (2 ^ 63 + i.fast.toNat * 2 ^ 62 + i.prio * 2 ^ 58 + srcTargets n * 2 ^ 50 + i.sev * 2 ^ 48) % 2 ^ 64 := by
    simp only [srcReset, srcCfgReset, hinfo, BitVec.toNat_ofNat]
  obtain ⟨hen, htargets⟩ := srcCfg_fields (Bool.toNat_lt i.fast) hprio htarget hsev
  rw [SrcRec.en, SrcRec.targets, hcfg, bitAt, fld, hen, htargets]
  exact ⟨rfl, rfl⟩

theorem srcTargets_of_own {n : Nat} (hn : n < 4096) (hrestart : n % 512 ≠ 35) :
    srcTargets n = 2 ^ (n / 512) ∧ srcTargets n < 256 := by
  have heq : srcTargets n = 2 ^ (n / 512) := if_neg hrestart
  have hdie : n / 512 < 8 := by omega
  exact ⟨heq, heq ▸ Nat.pow_lt_pow_right (by decide) hdie⟩

theorem src_reset (n : Nat) : State.reset.src n = srcReset n := rfl

theorem core_reset (c : CoreId) : State.reset.core c = CoreState.reset := by simp [State.core, State.reset]

theorem port_reset (p : PortId) : State.reset.port p = Port.reset := by simp [State.port, State.reset, Fabric.reset]

theorem queue_reset (q : Fin 64) : State.reset.queue q = HostQueue.reset q.val := by simp [State.queue, State.reset, HostIf.reset]

theorem ring_reset (r : Fin 8) : State.reset.host.rings[r] = EventRing.reset (64 + r.val) := by simp [State.reset, HostIf.reset]

theorem die_reset (d : DieId) : State.reset.die d = DieMem.reset := by simp [State.die, State.reset]

/-- Settles O58: each field of the reset state by its definition. -/
theorem resetLeavesTheStatedValues : Obligations.ResetLeavesTheStatedValues := by
  refine ⟨by decide, rfl, rfl, rfl, rfl, by decide, by decide, by decide, by decide, fun d k => ?_, fun p => ?_, fun c => ?_,
    fun q => ?_, fun r => ?_, fun k => rfl, fun n => ⟨rfl, rfl⟩, fun n hinfo hrestart hn => ?_, ⟨rfl, rfl⟩,
    ⟨rfl, nofun⟩, fun c => ?_⟩
  · rw [die_reset]
    decide +revert
  · rw [port_reset]
    exact ⟨rfl, rfl⟩
  · rw [core_reset]
    exact ⟨rfl, rfl⟩
  · rw [queue_reset]
    exact ⟨rfl, rfl⟩
  · rw [ring_reset]
    rfl
  · obtain ⟨i, hi⟩ := Option.isSome_iff_exists.mp hinfo
    obtain ⟨heq, hfits⟩ := srcTargets_of_own hn hrestart
    rw [src_reset, ← heq]
    exact srcReset_routed hi hfits
  · rw [core_reset]
    exact ⟨rfl, rfl⟩

end Sys2Proof.Machine
end

section
/-!
Proofs: what a step of the power controller changes (19 R423 to R432).
-/
namespace Sys2Proof.Machine

/-! ## Steering -/

/-- The state without what the power controller steers, and without what events reach. -/
def State.withoutPower (s : State) : State := { s.withoutEvents with free := 0, power := Power.reset }

/-- The objects in which a controller reports its limits and the shares of the dies. -/
def planObjects : List Nat := [0xA03001, 0xA03003, 0xA30007] ++ allDies.map (kDie · 3)

/-- What a controller step can do beside its budget, its reports and its steps over the limits of a die: clocks, voltages and
events. -/
structure Steered (s t : State) : Prop where
  rest : t.withoutPower = s.withoutPower
  obj : ∀ k, k ∉ eventCounters → k ∉ planObjects → t.obj k = s.obj k
  budget : t.power.budget = s.power.budget
  groups : t.power.groups = s.power.groups
  steps : ∀ d, (t.pdie d).stackSteps = (s.pdie d).stackSteps

namespace Steered

theorem refl (s : State) : Steered s s := ⟨rfl, fun _ _ _ => rfl, rfl, rfl, fun _ => rfl⟩

theorem trans {s t u : State} (h : Steered s t) (k : Steered t u) : Steered s u where
  rest := k.rest.trans h.rest
  obj key hevent hplan := (k.obj key hevent hplan).trans (h.obj key hevent hplan)
  budget := k.budget.trans h.budget
  groups := k.groups.trans h.groups
  steps d := (k.steps d).trans (h.steps d)

theorem when {s : State} (b : Bool) {f : State → State} (h : Steered s (f s)) : Steered s (s.when b f) := by
  cases b
  · exact refl s
  · exact h

theorem each {α : Type} (s : State) (l : List α) {f : State → α → State} (h : ∀ t a, Steered t (f t a)) : Steered s (s.each l f) :=
  List.foldlRecOn (motive := Steered s) l f (refl s) fun t ht a _ => ht.trans (h t a)

theorem ofNoted {s t : State} (h : Noted s t) : Steered s t where
  rest := h.keeps State.withoutPower
  obj k hk _ := h.obj k hk
  budget := congrArg Power.budget h.power
  groups := congrArg Power.groups h.power
  steps d := congrArg (fun p : Power => (p.dies[d]).stackSteps) h.power

theorem draw (s : State) : Steered s s.draw.2 := ⟨rfl, fun _ _ _ => rfl, rfl, rfl, fun _ => rfl⟩

theorem report (s : State) {key : Nat} (hkey : key ∈ planObjects) (v : Nat) : Steered s (s.setObj key v) :=
  ⟨rfl, fun _ _ hplan => State.obj_setObj_ne s _ fun e => hplan (e ▸ hkey), rfl, rfl, fun _ => rfl⟩

/-- Power state of another kind than the budget, the rail groups and the steps over a die's limit. -/
theorem power (s : State) (p : Power) (hbudget : p.budget = s.power.budget := by rfl) (hgroups : p.groups = s.power.groups := by rfl)
    (hdies : p.dies = s.power.dies := by rfl) : Steered s { s with power := p } :=
  ⟨rfl, fun _ _ _ => rfl, hbudget, hgroups, fun d => congrArg (fun v : Vector PowerDie 8 => (v[d]).stackSteps) hdies⟩

theorem pdie (s : State) (d : DieId) {f : PowerDie → PowerDie} (hf : ∀ x, (f x).stackSteps = x.stackSteps := by intro _; rfl) :
    Steered s (s.modPdie d f) :=
  ⟨rfl, fun _ _ _ => rfl, rfl, rfl, fun e => by
    by_cases he : e = d
    · rw [he, State.pdie_modPdie_same, hf]
    · rw [State.pdie_modPdie_ne s f he]⟩

/-- What is neither power state nor an event, the controller leaves as it was. -/
theorem keeps {β : Type} (g : State → β) {s t : State} (h : Steered s t)
    (hg : ∀ u : State, g u.withoutPower = g u := by intro _; rfl) : g t = g s := by
  rw [← hg t, h.rest, hg]

end Steered

/-! ## The parts of a step -/

section Parts
variable (s : State) (d : DieId)

theorem refreshClocks_steered : Steered s (refreshClocks s d) := by
  unfold refreshClocks
  dsimp only
  refine .trans ?_ (.each _ _ fun t j => .power t _)
  exact .when _ (.pdie s d)

theorem refreshAllClocks_steered : Steered s (refreshAllClocks s) := .each s _ refreshClocks_steered

/-- What bringing a die's clocks up to date leaves alone: all but its cores' clocks and its mark of a throttled die. -/
theorem refreshClocks_keeps {β : Type} (g : State → β)
    (hthrottled : ∀ u : State, g (u.modPdie d fun x => { x with throttled := true }) = g u := by intros; rfl)
    (hclk : ∀ (u : State) c n, g (u.modClk c fun x => { x with now := n }) = g u := by intros; rfl) : g (refreshClocks s d) = g s := by
  unfold refreshClocks
  dsimp only
  refine (State.each_keeps _ g _ _ fun t _ => hclk t _ _).trans ?_
  cases dieThrottled s d
  · rfl
  · exact hthrottled s

/-- A die's power state without the mark that it is throttled. -/
def PowerDie.unthrottled (x : PowerDie) : PowerDie := { x with throttled := false }

theorem refreshClocks_pdie (e : DieId) : ((refreshClocks s d).pdie e).unthrottled = (s.pdie e).unthrottled := by
  refine refreshClocks_keeps s d (fun t => (t.pdie e).unthrottled) fun u => ?_
  by_cases he : e = d
  · rw [he, State.pdie_modPdie_same]
    rfl
  · rw [State.pdie_modPdie_ne u _ he]

theorem refreshAllClocks_cap : (refreshAllClocks s).power.cap = s.power.cap :=
  State.each_keeps s (·.power.cap) _ _ fun t d => refreshClocks_keeps t d (·.power.cap)

/-- The state with another power budget in force. -/
def withBudget (b : Nat) : State := { s with power := { s.power with budget := b } }

/-- A step brings its limits up to date, and then takes the budget that stands in the dictionary. -/
theorem applyBudget_steered : ∃ t, Steered s t ∧ Steered (withBudget t (s.obj 0xA00001)) (applyBudget s) := by
  unfold applyBudget
  extract_lets g old s1 age s2 b s3 s4
  have h1 : Steered s s1 := .power s _
  have h2 : Steered s1 s2 := .when _ ((Steered.report s1 (by decide) age).trans (.when _ (.ofNoted (raise_noted ..))))
  have h3 : Steered s2 s3 := .report s2 (by decide) _
  have h4 : Steered s3 s4 := .when _ (((Steered.draw s3).trans (.power _ _)).trans (refreshAllClocks_steered _))
  have hb : b = s.obj 0xA00001 := (h1.trans h2).obj _ (by decide) (by decide)
  refine ⟨s4, ((h1.trans h2).trans h3).trans h4, ?_⟩
  rw [← hb]
  split
  · rename_i hsame
    rw [withBudget, hsame]
    exact .refl s4
  · exact .ofNoted (raise_noted ..)

/-- What counting energy leaves alone: all but the energy of the die's tags and what its cores' engines have used. -/
theorem countEnergy_keeps {β : Type} (g : State → β) (cores : List Nat) (rest : Nat)
    (henergy : ∀ (u : State) e (f : PowerDie → Kv Nat), g (u.modPdie e fun x => { x with energy := f x }) = g u)
    (huse : ∀ (u : State) c, g (u.modCore c fun x => { x with use := { x.use with tagsWas := [] } }) = g u)
    (hdraw : ∀ u : State, g u.draw.2 = g u := by intros; rfl) : g (countEnergy s d cores rest) = g s := by
  have hsplit (t : State) (c : CoreId) (uj : Nat) : g (splitEnergy t c uj) = g t := by
    unfold splitEnergy
    dsimp only
    rw [huse, addEnergy, henergy]
    exact foldl_keeps (fun acc : State × Nat => g acc.1) _ _ (t, uj) fun acc tag => (henergy ..).trans (hdraw acc.1)
  unfold countEnergy
  split
  · rfl
  · exact (State.each_keeps _ g _ _ fun t _ => hsplit t _ _).trans (henergy ..)

theorem stackLimit_noted (mw : Nat) : Noted (s.modPdie d fun x => { x with
    stackMw := mw, stackSteps := if 420000 < mw then x.stackSteps + 1 else 0 }) (stackLimit s d mw) := by
  unfold stackLimit
  dsimp only
  exact setLevel_noted ..

theorem planVoltage_steered (soon : Bool) : Steered s (planVoltage s d soon) := by
  unfold planVoltage
  dsimp only
  split
  · exact .refl s
  · split
    · exact .refl s
    · exact (Steered.pdie s d).trans (.ofNoted (.emit ..))

theorem setShares_steered : Steered s (setShares s) := by
  have hkey (e : DieId) : kDie e 3 ∈ planObjects := List.mem_append_right _ (List.mem_map.mpr ⟨e, List.mem_finRange e, rfl⟩)
  exact .each s _ fun t e => (Steered.draw t).trans (.report _ (hkey e) _)

theorem budgetLimit_steered (mw : Nat) : Steered s (budgetLimit s mw) := by
  unfold budgetLimit
  dsimp only
  split
  · refine .trans ?_ (.ofNoted (setLevel_noted ..))
    refine .trans (.trans (.draw s) (.power _ _)) (.when _ ?_)
    exact .report _ (by decide) _
  · exact (Steered.power s _).trans (.ofNoted (setLevel_noted ..))

theorem budgetLimit_cap {mw : Nat} (h : mw ≤ s.power.budget * 1020) : (budgetLimit s mw).power.cap = none := by
  have hnot : ¬ s.power.budget * 1020 < mw := by omega
  unfold budgetLimit
  dsimp only
  rw [if_neg (by simpa using hnot)]
  exact congrArg Power.cap (setLevel_noted ..).power

end Parts

/-! ## Steps of a die's controller and of the package's (19 R423, R427, R431) -/

theorem kDie_not_event : ∀ d : DieId, kDie d 1 ∉ eventCounters ∧ kDie d 2 ∉ eventCounters := by decide
theorem kDie_not_plan : ∀ d : DieId, kDie d 1 ∉ planObjects ∧ kDie d 2 ∉ planObjects := by decide
theorem kDie_ne : ∀ d : DieId, kDie d 1 ≠ kDie d 2 := by decide
theorem kDie_ne_budget : ∀ d : DieId, (0xA00001 : Nat) ≠ kDie d 1 ∧ (0xA00001 : Nat) ≠ kDie d 2 := by decide

section Step
variable (s : State) (d : DieId)

/-- Counting energy does nothing while no frame runs. -/
theorem countEnergy_of_idle {s : State} (h : s.run.active = false) (cores : List Nat) (rest : Nat) : countEnergy s d cores rest = s := by
  simp [countEnergy, h]

/-- What counting energy leaves alone of a core: all but what its engines have used. -/
theorem countEnergy_core (cores : List Nat) (rest : Nat) (c : CoreId) (use : CoreUse) :
    { (countEnergy s d cores rest).core c with use := use } = { s.core c with use := use } := by
  refine countEnergy_keeps s d (fun t => { t.core c with use := use }) cores rest (fun _ _ _ => rfl) fun u e => ?_
  by_cases hc : c = e
  · rw [hc, State.core_modCore_same]
  · rw [State.core_modCore_ne u _ hc]

theorem countEnergy_steps (cores : List Nat) (rest : Nat) (e : DieId) :
    ((countEnergy s d cores rest).pdie e).stackSteps = (s.pdie e).stackSteps := by
  refine countEnergy_keeps s d (fun t => (t.pdie e).stackSteps) cores rest (fun u a f => ?_) fun _ _ => rfl
  by_cases he : e = a
  · rw [he, State.pdie_modPdie_same]
  · rw [State.pdie_modPdie_ne u _ he]

/-- The power of a die and of its stack reported. -/
def powerReported (dieMw stackMw : Nat) : State := (s.setObj (kDie d 1) (wattsF32 dieMw)).setObj (kDie d 2) (wattsF32 stackMw)

theorem powerReported_obj (dieMw stackMw : Nat) : (powerReported s d dieMw stackMw).obj (kDie d 1) = wattsF32 dieMw ∧
    (powerReported s d dieMw stackMw).obj (kDie d 2) = wattsF32 stackMw ∧
    (powerReported s d dieMw stackMw).obj 0xA00001 = s.obj 0xA00001 := by
  obtain ⟨h1, h2⟩ := kDie_ne_budget d
  refine ⟨?_, State.obj_setObj_same .., ?_⟩
  · rw [powerReported, State.obj_setObj_ne _ _ (kDie_ne d), State.obj_setObj_same]
  · rw [powerReported, State.obj_setObj_ne _ _ h2, State.obj_setObj_ne _ _ h1]

theorem controllerStep_steers (dieMw stackMw rest : Nat) (cores : List Nat) (soon : Bool) :
    ∃ t, exec (.controllerStep d dieMw stackMw cores rest soon) s = .next t ∧ t.power.budget = s.obj 0xA00001 ∧
      t.obj (kDie d 1) = wattsF32 dieMw ∧ t.obj (kDie d 2) = wattsF32 stackMw ∧
      (t.pdie d).stackSteps = (if 420000 < stackMw then (s.pdie d).stackSteps + 1 else 0) ∧ t.mem = s.mem ∧
      (∀ c, { t.core c with use := (s.core c).use } = s.core c) ∧ (s.run.active = false → t.cores = s.cores) := by
  obtain ⟨b, hlimits, hbudget⟩ := applyBudget_steered (powerReported s d dieMw stackMw)
  obtain ⟨hdie, hstack, hwanted⟩ := powerReported_obj s d dieMw stackMw
  have hend (u : State) : Steered (u.modPdie d fun x => { x with stackMw := stackMw, stackSteps := if 420000 < stackMw then x.stackSteps + 1 else 0 })
      (refreshClocks (planVoltage (stackLimit u d stackMw) d soon) d) :=
    ((Steered.ofNoted (stackLimit_noted ..)).trans (planVoltage_steered ..)).trans (refreshClocks_steered ..)
  generalize hr : powerReported s d dieMw stackMw = r at hlimits hbudget hdie hstack hwanted
  generalize ha : applyBudget r = a at hbudget
  have hobj (k : Nat) (h1 : k ∉ eventCounters) (h2 : k ∉ planObjects) :
      (refreshClocks (planVoltage (stackLimit (countEnergy a d cores rest) d stackMw) d soon) d).obj k = r.obj k := by
    rw [(hend _).obj k h1 h2]
    refine (countEnergy_keeps a d (·.obj k) cores rest (fun _ _ _ => rfl) fun _ _ => rfl).trans ?_
    exact (hbudget.obj k h1 h2).trans (hlimits.obj k h1 h2)
  have hcores : a.cores = s.cores := (hbudget.keeps State.cores).trans ((hlimits.keeps State.cores).trans (hr ▸ rfl))
  have hrun : a.run = s.run := (hbudget.keeps State.run).trans ((hlimits.keeps State.run).trans (hr ▸ rfl))
  have hsteps : (a.pdie d).stackSteps = (s.pdie d).stackSteps := (hbudget.steps d).trans ((hlimits.steps d).trans (hr ▸ rfl))
  have hmem : a.mem = s.mem := (hbudget.keeps State.mem).trans ((hlimits.keeps State.mem).trans (hr ▸ rfl))
  refine ⟨refreshClocks (planVoltage (stackLimit (countEnergy a d cores rest) d stackMw) d soon) d, ?_, ?_,
    (hobj _ (kDie_not_event d).1 (kDie_not_plan d).1).trans hdie, (hobj _ (kDie_not_event d).2 (kDie_not_plan d).2).trans hstack,
    ?_, ?_, fun c => ?_, fun hidle => ?_⟩
  · rw [← ha, ← hr]
    rfl
  · rw [(hend _).budget]
    refine (countEnergy_keeps a d (·.power.budget) cores rest (fun _ _ _ => rfl) fun _ _ => rfl).trans ?_
    exact hbudget.budget.trans hwanted
  · rw [(hend _).steps d, State.pdie_modPdie_same, ← hsteps, ← countEnergy_steps a d cores rest d]
  · rw [(hend _).keeps State.mem]
    exact (countEnergy_keeps a d State.mem cores rest (fun _ _ _ => rfl) fun _ _ => rfl).trans hmem
  · have hcore : a.core c = s.core c := congrArg (fun v : Vector CoreState 32 => v[c]) hcores
    rw [(hend _).keeps (·.core c)]
    refine (countEnergy_core a d cores rest c _).trans ?_
    rw [hcore]
  · rw [(hend _).keeps State.cores, countEnergy_of_idle d (by rw [hrun, hidle])]
    exact hcores

/-- The power and the energy of the package reported. -/
def energyReported (mw mj : Nat) : State :=
  let s1 := (s.setObj 0xA10001 (wattsF32 mw)).bumpBy 0xA10002 mj
  s1.when (execPackageStep.vLess (s1.obj 0xA10003) (wattsF32 mw)) fun t => t.setObj 0xA10003 (wattsF32 mw)

theorem energyReported_obj (mw mj : Nat) : (energyReported s mw mj).obj 0xA10001 = wattsF32 mw ∧
    (energyReported s mw mj).obj 0xA10002 = (s.obj 0xA10002 + mj) % 2 ^ objWidth 0xA10002 ∧
    (energyReported s mw mj).obj 0xA00001 = s.obj 0xA00001 := by
  have hpeak (t : State) (b : Bool) (v k : Nat) (hk : k ≠ 0xA10003) : (t.when b fun u => u.setObj 0xA10003 v).obj k = t.obj k := by
    cases b
    · rfl
    · exact State.obj_setObj_ne t v hk
  unfold energyReported
  dsimp only
  rw [hpeak _ _ _ _ (by decide), hpeak _ _ _ _ (by decide), hpeak _ _ _ _ (by decide)]
  refine ⟨?_, ?_, ?_⟩
  · exact (State.obj_setObj_ne _ _ (by decide)).trans (State.obj_setObj_same ..)
  · exact (State.obj_setObj_same ..).trans (by rw [State.obj_setObj_ne s _ (by decide)])
  · exact (State.obj_setObj_ne _ _ (by decide)).trans (State.obj_setObj_ne s _ (by decide))

theorem packageStep_steers (mw mj : Nat) : ∃ t, exec (.packageStep mw mj) s = .next t ∧ t.power.budget = s.obj 0xA00001 ∧
    t.obj 0xA10001 = wattsF32 mw ∧ t.obj 0xA10002 = (s.obj 0xA10002 + mj) % 2 ^ objWidth 0xA10002 ∧ t.cores = s.cores ∧
    (mw ≤ s.obj 0xA00001 * 1020 → t.power.cap = none) := by
  obtain ⟨b, hlimits, hbudget⟩ := applyBudget_steered (energyReported s mw mj)
  obtain ⟨hpower, henergy, hwanted⟩ := energyReported_obj s mw mj
  have hcores : (energyReported s mw mj).cores = s.cores := by
    have hpeak (t : State) (b : Bool) (v : Nat) : (t.when b fun u => u.setObj 0xA10003 v).cores = t.cores := by
      cases b <;> rfl
    exact hpeak ..
  have hend (u : State) : Steered u (refreshAllClocks (budgetLimit (setShares u) mw)) :=
    ((setShares_steered u).trans (budgetLimit_steered ..)).trans (refreshAllClocks_steered _)
  have hexec : exec (.packageStep mw mj) s =
    .next (refreshAllClocks (budgetLimit (setShares (applyBudget (energyReported s mw mj))) mw)) := rfl
  generalize energyReported s mw mj = r at hlimits hbudget hpower henergy hwanted hcores hexec
  generalize applyBudget r = a at hbudget hexec
  have hinforce : a.power.budget = s.obj 0xA00001 := hbudget.budget.trans hwanted
  have hobj (k : Nat) (h1 : k ∉ eventCounters) (h2 : k ∉ planObjects) :
      (refreshAllClocks (budgetLimit (setShares a) mw)).obj k = r.obj k :=
    ((hend a).obj k h1 h2).trans ((hbudget.obj k h1 h2).trans (hlimits.obj k h1 h2))
  refine ⟨_, hexec, (hend a).budget.trans hinforce, (hobj _ (by decide) (by decide)).trans hpower,
    (hobj _ (by decide) (by decide)).trans henergy, ?_, fun hbelow => ?_⟩
  · exact ((hend a).keeps State.cores).trans ((hbudget.keeps State.cores).trans ((hlimits.keeps State.cores).trans hcores))
  · rw [refreshAllClocks_cap]
    refine budgetLimit_cap _ ?_
    rw [(setShares_steered a).budget, hinforce]
    exact hbelow

end Step

end Sys2Proof.Machine
end

section
/-!
Proofs: voltages, droops, alerts and dips (19 R430 to R434), and rails at their reset level (19 R422).
-/
namespace Sys2Proof.Machine

/-! ## What a package reset leaves of the dictionary (18 R398) -/

/-- An object that a package reset does not keep reads its default. -/
theorem keptState_obj {key : Nat} (s : State) (cause : Nat) (tripped : Bool) (h : key ∉ keptObjects) :
    (keptState s cause tripped).obj key = objDefault key := by
  have hfold (l : List Nat) (m : Kv Nat) (hl : key ∉ l) (hm : kvGet (objDefault key) m key = objDefault key) :
      kvGet (objDefault key) (l.foldl (fun m k => kvSet (objDefault k) m k (s.obj k)) m) key = objDefault key := by
    refine List.foldlRecOn (motive := fun m => kvGet (objDefault key) m key = objDefault key) l _ hm fun m hm k hk => ?_
    have hne : key ≠ k := fun e => hl (e ▸ hk)
    exact (State.obj_setObj_ne { s with dict := m } (s.obj k) hne).trans hm
  exact hfold keptObjects [] h rfl

theorem packageReset_life (s : State) (cause : Nat) (cool : Bool) :
    (packageReset s cause cool).life = { keptLife s.life cause with beganAt := s.now } := by
  obtain ⟨out, tripped, -, hkept⟩ := packageReset_kept s cause cool
  exact hkept.keeps State.life

theorem packageReset_mem (s : State) (cause : Nat) (cool : Bool) : (packageReset s cause cool).mem = [] := by
  obtain ⟨out, tripped, -, hkept⟩ := packageReset_kept s cause cool
  exact hkept.keeps State.mem

theorem packageReset_run (s : State) (cause : Nat) (cool : Bool) : (packageReset s cause cool).run = Run.reset := by
  obtain ⟨out, tripped, -, hkept⟩ := packageReset_kept s cause cool
  exact hkept.keeps State.run

theorem packageReset_boots (s : State) (cause : Nat) (cool : Bool) : (packageReset s cause cool).obj kDeviceState = stBoot := by
  obtain ⟨out, tripped, -, hkept⟩ := packageReset_kept s cause cool
  rw [hkept.obj kDeviceState (by decide), keptState_obj _ _ _ (by decide)]
  decide

/-! ## Voltages and droops (19 R430, R432) -/

theorem exec_avsbusCommandDone (d : DieId) (ok : Bool) (status : BitVec 32) (s : State) :
    exec (.avsbusCommandDone d ok status) s = execAvsbusCommandDone d ok status s := rfl

section Avsbus
variable {s : State} {d : DieId} {mv : Nat} {again : Bool} (hasked : (s.pdie d).asked = some (mv, again)) (status : BitVec 32)
include hasked

theorem avsbusCommandDone_confirmed : ∃ t, exec (.avsbusCommandDone d true status) s = .next t ∧ (t.pdie d).voltage = mv ∧
    (t.pdie d).asked = none ∧ (t.pdie d).avsFault = false ∧ t.dict = s.dict := by
  have hdie := refreshClocks_pdie (s.modPdie d fun x => { x with voltage := mv, asked := none, avsFault := false }) d d
  rw [State.pdie_modPdie_same] at hdie
  refine ⟨refreshClocks (s.modPdie d fun x => { x with voltage := mv, asked := none, avsFault := false }) d, ?_,
    (congrArg PowerDie.voltage hdie :), (congrArg PowerDie.asked hdie :), (congrArg PowerDie.avsFault hdie :),
    refreshClocks_keeps _ d State.dict⟩
  simp [exec_avsbusCommandDone, execAvsbusCommandDone, hasked]

/-- The state after an AVSBus command that stays unconfirmed: it is repeated once, and then counted as an error. -/
def avsUnconfirmed (s : State) (d : DieId) (mv : Nat) (again : Bool) (status : BitVec 32) : State :=
  if again then refreshClocks (raiseOn ((s.modPdie d fun x => { x with asked := none, avsFault := true }).bump 0xA30008)
    d 73 d.val status.toNat) d
  else (s.modPdie d fun x => { x with asked := some (mv, true) }).emit (.avs d.val d.val mv)

theorem avsbusCommandDone_unconfirmed :
    exec (.avsbusCommandDone d false status) s = .next (avsUnconfirmed s d mv again status) := by
  cases again <;> simp [exec_avsbusCommandDone, execAvsbusCommandDone, hasked, avsUnconfirmed]

end Avsbus

/-- A counted AVSBus error: the voltage stands, the die is in AVS fault, and the error is counted. -/
theorem avsUnconfirmed_again (s : State) (d : DieId) (mv : Nat) (status : BitVec 32) :
    let t := avsUnconfirmed s d mv true status
    (t.pdie d).voltage = (s.pdie d).voltage ∧ (t.pdie d).asked = none ∧ (t.pdie d).avsFault = true ∧
      t.obj 0xA30008 = (s.obj 0xA30008 + 1) % 2 ^ 32 := by
  have hwidth : objWidth 0xA30008 = 32 := by decide
  have hcount : (((s.modPdie d fun x => { x with asked := none, avsFault := true }).bump 0xA30008).obj 0xA30008) =
      (s.obj 0xA30008 + 1) % 2 ^ 32 := by
    rw [State.obj_bump_same, hwidth]
    rfl
  have hown : ((s.modPdie d fun x => { x with asked := none, avsFault := true }).bump 0xA30008).pdie d =
    { s.pdie d with asked := none, avsFault := true } := State.pdie_modPdie_same ..
  generalize hu : (s.modPdie d fun x => { x with asked := none, avsFault := true }).bump 0xA30008 = u at hcount hown
  have hraise : (raiseOn u d 73 d.val status.toNat).pdie d = u.pdie d := (raiseOn_noted ..).keeps (·.pdie d)
  have hdie := refreshClocks_pdie (raiseOn u d 73 d.val status.toNat) d d
  rw [hraise, hown] at hdie
  have ht : avsUnconfirmed s d mv true status = refreshClocks (raiseOn u d 73 d.val status.toNat) d := by
    rw [← hu]
    rfl
  rw [ht]
  refine ⟨(congrArg PowerDie.voltage hdie :), (congrArg PowerDie.asked hdie :), (congrArg PowerDie.avsFault hdie :), ?_⟩
  rw [refreshClocks_keeps _ d (·.obj 0xA30008), (raiseOn_noted ..).obj _ (by decide), hcount]

theorem droopDetect_counts (d : DieId) (s : State) : ∃ t, exec (.droopDetect d) s = .next t ∧
    t.obj 0xA30002 = (s.obj 0xA30002 + 1) % 2 ^ objWidth 0xA30002 ∧ (t.pdie d).throttled = true ∧ t.cores = s.cores := by
  have hraised (u : State) (b : Bool) (n : Nat) (hu : (u.pdie d).throttled = true) :
      let t := u.when b fun t => (raiseOn t d 69 n 0).modPdie d fun y => { y with droops := 0, droopAt := some s.now }
      t.obj 0xA30002 = u.obj 0xA30002 ∧ (t.pdie d).throttled = true ∧ t.cores = u.cores := by
    cases b
    · exact ⟨rfl, hu, rfl⟩
    · have hdie : (raiseOn u d 69 n 0).pdie d = u.pdie d := (raiseOn_noted ..).keeps (·.pdie d)
      refine ⟨(raiseOn_noted u d 69 n 0).obj _ (by decide), ?_, (raiseOn_noted u d 69 n 0).cores⟩
      rw [State.when_true, State.pdie_modPdie_same, hdie]
      exact hu
  have hown : (((s.bump 0xA30002).modPdie d fun x => { x with droops := x.droops + 1, throttled := true }).pdie d).throttled = true := by
    rw [State.pdie_modPdie_same]
  have hcount : ((s.bump 0xA30002).modPdie d fun x => { x with droops := x.droops + 1, throttled := true }).obj 0xA30002 =
    (s.obj 0xA30002 + 1) % 2 ^ objWidth 0xA30002 := State.obj_bump_same ..
  obtain ⟨hobj, hthrottled, hcores⟩ := hraised _ (match ((((s.bump 0xA30002).modPdie d fun x =>
      { x with droops := x.droops + 1, throttled := true })).pdie d).droopAt with
    | none => true
    | some t => t + cyclesOfMs 1 ≤ s.now) _ hown
  exact ⟨_, rfl, hobj.trans hcount, hthrottled, hcores⟩

/-! ## Alerts and dips (19 R433, R434) -/

theorem exec_vrAlertFall (g : Fin 20) (s : State) : exec (.vrAlertFall g) s = execVrAlertFall g s := rfl
theorem exec_brownoutDip (g : Fin 20) (mv : Nat) (s : State) : exec (.brownoutDip g mv) s = execBrownoutDip g mv s := rfl
theorem exec_brownoutHoldEnd (g : Fin 20) (s : State) : exec (.brownoutHoldEnd g) s = execBrownoutHoldEnd g s := rfl
theorem exec_railResetLevel (g : Fin 20) (s : State) : exec (.railResetLevel g) s = execRailResetLevel g s := rfl

section Groups
variable (s : State) (g : Fin 20)

/-- The change of a group depends on the group alone. -/
theorem modGroup_congr {f f' : RailGroup → RailGroup} (h : f s.power.groups[g] = f' s.power.groups[g]) :
    s.modGroup g f = s.modGroup g f' := by
  have hmod : vmod s.power.groups g f = vmod s.power.groups g f' := congrArg (s.power.groups.set g) h
  rw [State.modGroup, State.modGroup, hmod]

theorem groupClocks_keeps : (groupClocks s g).power.groups = s.power.groups ∧ ∀ k, (groupClocks s g).obj k = s.obj k := by
  unfold groupClocks
  cases decide (g.val < 8)
  · exact ⟨rfl, fun _ => rfl⟩
  · exact ⟨(refreshClocks_steered ..).groups, fun k => refreshClocks_keeps s _ (·.obj k)⟩

theorem vrAlertFall_heard (hheard : alertsIgnored s = false) : ∃ t, exec (.vrAlertFall g) s = .next t ∧
    t.power.groups = s.power.groups.set g { s.power.groups[g] with alertLow := true, alertHeld := decide (g.val < 18) } ∧
    t.obj 0xA30003 = (if g.val < 18 ∧ (s.power.groups[g]).alertHeld = false then (s.obj 0xA30003 + 1) % 2 ^ objWidth 0xA30003
      else s.obj 0xA30003) := by
  have hcount (u : State) (b : Bool) : (u.when b fun t => t.bump 0xA30003).power.groups = u.power.groups ∧
      (u.when b fun t => t.bump 0xA30003).obj 0xA30003 =
        if b = true then (u.obj 0xA30003 + 1) % 2 ^ objWidth 0xA30003 else u.obj 0xA30003 := by
    cases b
    · exact ⟨rfl, rfl⟩
    · exact ⟨rfl, State.obj_bump_same ..⟩
  obtain ⟨hgroups, hobj⟩ := hcount (s.modGroup g fun x => { x with alertLow := true, alertHeld := decide (g.val < 18) })
    (decide (g.val < 18) && !(s.power.groups[g]).alertHeld)
  obtain ⟨hclocks, hclockObj⟩ := groupClocks_keeps ((s.modGroup g fun x => { x with alertLow := true, alertHeld := decide (g.val < 18) }).when
    (decide (g.val < 18) && !(s.power.groups[g]).alertHeld) fun t => t.bump 0xA30003) g
  refine ⟨_, ?_, hclocks.trans hgroups, (hclockObj _).trans (hobj.trans ?_)⟩
  · simp only [exec_vrAlertFall, execVrAlertFall, hheard]
    rfl
  · simp only [Bool.and_eq_true, decide_eq_true_eq, Bool.not_eq_true']
    rfl

theorem vrAlertHoldEnd_releases : ∃ t, exec (.vrAlertHoldEnd g) s = .next t ∧ (t.power.groups[g]).alertHeld =
    ((s.power.groups[g]).alertLow && (s.power.groups[g]).alertHeld) ∧ t.dict = s.dict ∧ t.cores = s.cores := by
  have hown : (s.modGroup g fun x => if x.alertLow then x else { x with alertHeld := false }).power.groups[g] =
    if (s.power.groups[g]).alertLow then s.power.groups[g] else { s.power.groups[g] with alertHeld := false } := vmod_same ..
  refine ⟨_, rfl, ?_, rfl, rfl⟩
  rw [hown]
  cases (s.power.groups[g]).alertLow <;> simp

/-- A dip that has ended is counted, and the groups stand as they were. -/
theorem reportDip_counts : (reportDip s g).power.groups = s.power.groups ∧
    (reportDip s g).obj 0xA30004 = (s.obj 0xA30004 + 1) % 2 ^ objWidth 0xA30004 :=
  ⟨congrArg Power.groups (raiseOn_noted ..).power, ((raiseOn_noted ..).obj _ (by decide)).trans (State.obj_bump_same ..)⟩

/-- A group that dips. -/
def RailGroup.dipped (x : RailGroup) (mv now : Nat) : RailGroup := { x with dipLow := true, dipHeld := true, dipMv := mv, dipAt := now }

theorem brownoutDip_of_high {mv : Nat} (hhigh : (s.power.groups[g]).dipLow = false) :
    ∃ t, exec (.brownoutDip g mv) s = .next t ∧
      t.power.groups = s.power.groups.set g ((s.power.groups[g]).dipped mv s.now) ∧
      t.obj 0xA30004 = if (s.power.groups[g]).dipHeld then (s.obj 0xA30004 + 1) % 2 ^ objWidth 0xA30004 else s.obj 0xA30004 := by
  have hreport : (s.when (s.power.groups[g]).dipHeld fun t => reportDip t g).power.groups = s.power.groups ∧
      (s.when (s.power.groups[g]).dipHeld fun t => reportDip t g).obj 0xA30004 =
        if (s.power.groups[g]).dipHeld then (s.obj 0xA30004 + 1) % 2 ^ objWidth 0xA30004 else s.obj 0xA30004 := by
    cases (s.power.groups[g]).dipHeld
    · exact ⟨rfl, rfl⟩
    · exact reportDip_counts s g
  have hexec : exec (.brownoutDip g mv) s = .next (groupClocks ((s.when (s.power.groups[g]).dipHeld fun t => reportDip t g).modGroup g
      fun x => x.dipped mv s.now) g) := by
    simp only [exec_brownoutDip, execBrownoutDip, hhigh]
    rfl
  generalize s.when (s.power.groups[g]).dipHeld (fun t => reportDip t g) = u at hreport hexec
  obtain ⟨hgroups, hcount⟩ := hreport
  obtain ⟨hclocks, hclockObj⟩ := groupClocks_keeps (u.modGroup g fun x => x.dipped mv s.now) g
  refine ⟨_, hexec, hclocks.trans ?_, (hclockObj _).trans hcount⟩
  have hmod : (u.modGroup g fun x => x.dipped mv s.now).power.groups = u.power.groups.set g ((u.power.groups[g]).dipped mv s.now) := rfl
  rw [hmod, hgroups]

theorem brownoutDip_of_low {mv : Nat} (hlow : (s.power.groups[g]).dipLow = true) :
    exec (.brownoutDip g mv) s = .next (s.modGroup g fun x => { x with dipMv := min x.dipMv mv }) := by
  rw [exec_brownoutDip, execBrownoutDip]
  exact congrArg Host.Outcome.next (if_pos hlow)

theorem railAboveWarningLevel_of_low {mv us : Nat} (hlow : (s.power.groups[g]).dipLow = true) :
    exec (.railAboveWarningLevel g mv us) s = .next (s.modGroup g fun x => { x with
      dipLow := false, dipMv := min x.dipMv mv, dipUs := us, upAt := some s.now }) :=
  congrArg Host.Outcome.next (modGroup_congr s g (if_pos hlow))

theorem brownoutHoldEnd_of_held (hheld : (s.power.groups[g]).dipHeld = true) (hhigh : (s.power.groups[g]).dipLow = false) :
    ∃ t, exec (.brownoutHoldEnd g) s = .next t ∧
      t.power.groups = s.power.groups.set g { s.power.groups[g] with dipHeld := false } ∧
      t.obj 0xA30004 = (s.obj 0xA30004 + 1) % 2 ^ objWidth 0xA30004 := by
  have hexec : exec (.brownoutHoldEnd g) s = .next ((reportDip s g).modGroup g fun x => { x with dipHeld := false }) := by
    simp only [exec_brownoutHoldEnd, execBrownoutHoldEnd, hheld, hhigh]
    rfl
  have hreport := reportDip_counts s g
  generalize reportDip s g = u at hreport hexec
  obtain ⟨hgroups, hcount⟩ := hreport
  refine ⟨_, hexec, ?_, hcount⟩
  have hmod : (u.modGroup g fun x => { x with dipHeld := false }).power.groups =
    u.power.groups.set g { u.power.groups[g] with dipHeld := false } := rfl
  rw [hmod, hgroups]

theorem railResetLevel_resets (hpowered : s.powered = true) : ∃ t, exec (.railResetLevel g) s = .next t ∧ t.life.stage = 1 ∧
    t.life.lastPackage = 4 ∧ t.obj kDeviceState = stBoot ∧ t.mem = [] ∧ t.run = Run.reset := by
  refine ⟨packageReset s 4 false, ?_, ?_, ?_, packageReset_boots .., packageReset_mem .., packageReset_run ..⟩
  · simp [exec_railResetLevel, execRailResetLevel, hpowered]
  · rw [packageReset_life]
    rfl
  · rw [packageReset_life]
    rfl

end Groups

/-- Settles O55, one lemma for each command. -/
theorem powerRailsAndDroops : Obligations.PowerRailsAndDroops := by
  refine ⟨fun d dieMw stackMw rest cores soon s => controllerStep_steers s d dieMw stackMw rest cores soon,
    fun mw mj s => packageStep_steers s mw mj, fun d mv again status s hasked => ⟨avsbusCommandDone_confirmed hasked status, ?_⟩,
    droopDetect_counts, fun g s => ⟨vrAlertFall_heard s g, fun hignored => ?_, rfl, vrAlertHoldEnd_releases s g⟩,
    fun g mv us s => ⟨brownoutDip_of_high s g, brownoutDip_of_low s g, railAboveWarningLevel_of_low s g,
      brownoutHoldEnd_of_held s g, railResetLevel_resets s g⟩⟩
  · have hown : ((avsUnconfirmed s d mv false status).pdie d) = { s.pdie d with asked := some (mv, true) } :=
      State.pdie_modPdie_same ..
    refine ⟨_, avsbusCommandDone_unconfirmed hasked status, ?_, ?_, ?_⟩
    · cases again
      · rw [hown]
      · exact (avsUnconfirmed_again s d mv status).1
    · rintro rfl
      exact ⟨by rw [hown], List.mem_cons_self ..⟩
    · rintro rfl
      exact (avsUnconfirmed_again s d mv status).2
  · simp [exec_vrAlertFall, execVrAlertFall, hignored]

end Sys2Proof.Machine
end

section
/-!
Proofs: what work on the memories, the units and the image, and its stop, leave of the rest of the package (02 R42, 03 R71,
chapter 09).
-/
namespace Sys2Proof.Machine

/-! ## What work leaves alone -/

/-- The state with all that the work of the package can reach put aside: memories, cores, units, the run and the tick network, the
fenced units, and the stage and READY, which a failure changes. -/
def State.withoutWork (s : State) : State :=
  { s.withoutNews with
    mem := [], pageDev := [], byteDev := [], scratch := [], wordDev := [], fenceLog := [], wear := .reset, cores := State.reset.cores
    dies := State.reset.dies, units := State.reset.units, run := .reset, tick := .reset, cirrusOn := [], faulted := none
    life := { s.life with stage := 0, ready := false } }

/-- The objects that work does not write: those of power and temperatures, and those of the clocks (chapters 19 and 20). -/
def farKey (k : Nat) : Bool := (0xA00000 ≤ k && k < 0xB00000) || k / 256 == 0x6920

/-- What work on memories, cores and units can do: the power controller, the clocks and their objects, the management's state and
the host's queues stand as they were, and the event rings stay enabled or disabled. -/
structure Worked (s t : State) : Prop where
  rest : t.withoutWork = s.withoutWork
  obj : ∀ k, farKey k = true → t.obj k = s.obj k
  rings : ∀ r : Fin 8, t.host.rings[r].en = s.host.rings[r].en

namespace Worked

theorem refl (s : State) : Worked s s := ⟨rfl, fun _ _ => rfl, fun _ => rfl⟩

theorem trans {s t u : State} (h : Worked s t) (k : Worked t u) : Worked s u where
  rest := k.rest.trans h.rest
  obj key hkey := (k.obj key hkey).trans (h.obj key hkey)
  rings r := (k.rings r).trans (h.rings r)

theorem when {s : State} (b : Bool) {f : State → State} (h : Worked s (f s)) : Worked s (s.when b f) := by
  cases b
  · exact refl s
  · exact h

theorem ite {s t u : State} {p : Prop} {_ : Decidable p} (h : Worked s t) (k : Worked s u) : Worked s (if p then t else u) := by
  split
  · exact h
  · exact k

theorem each {α : Type} (s : State) (l : List α) {f : State → α → State} (h : ∀ t a, Worked t (f t a)) : Worked s (s.each l f) :=
  List.foldlRecOn (motive := Worked s) l f (refl s) fun t ht a _ => ht.trans (h t a)

/-- A fold that carries more than the state. -/
theorem foldl {α β : Type} (g : β → State) (b : β) (l : List α) {f : β → α → β} (h : ∀ x a, Worked (g x) (g (f x a))) :
    Worked (g b) (g (l.foldl f b)) :=
  List.foldlRecOn (motive := fun x => Worked (g b) (g x)) l f (refl _) fun x hx a _ => hx.trans (h x a)

theorem ofAnnounced {s t : State} (h : Announced s t) : Worked s t where
  rest := h.keeps State.withoutWork
  obj k hfar := h.obj k fun hk => by
    have hnear : ∀ k ∈ eventCounters, farKey k = false := by decide
    rw [hnear k hk] at hfar
    exact nomatch hfar
  rings := h.rings

theorem ofNoted {s t : State} (h : Noted s t) : Worked s t := ofAnnounced h.announced

theorem write (s : State) {key : Nat} (v : Nat) (hkey : farKey key = false) : Worked s (s.setObj key v) :=
  ⟨rfl, fun k hfar => State.obj_setObj_ne s v fun e => absurd hfar (by simp [e, hkey]), fun _ => rfl⟩

theorem count (s : State) {key : Nat} (n : Nat) (hkey : farKey key = false) : Worked s (s.bumpBy key n) := write s _ hkey

theorem bump (s : State) {key : Nat} (hkey : farKey key = false) : Worked s (s.bump key) := write s _ hkey

theorem bumped {s t : State} (h : Worked s t) {key : Nat} (hkey : farKey key = false) : Worked s (t.bump key) :=
  h.trans (.bump t hkey)

theorem noted {s t u : State} (h : Worked s t) (k : Noted t u) : Worked s u := h.trans (.ofNoted k)

/-- A change of what work reaches, that writes no object. -/
theorem done {s t : State} (hrest : t.withoutWork = s.withoutWork := by rfl) (hdict : t.dict = s.dict := by rfl)
    (hrings : t.host.rings = s.host.rings := by rfl) : Worked s t :=
  ⟨hrest, fun k _ => obj_of_dict hdict k, fun r => congrArg (fun v : Vector EventRing 8 => (v[r]).en) hrings⟩

/-- What work does not reach stands as it was. -/
theorem keeps {β : Type} (g : State → β) {s t : State} (h : Worked s t)
    (hg : ∀ u : State, g u.withoutWork = g u := by intro _; rfl) : g t = g s := by
  rw [← hg t, h.rest, hg]

end Worked

/-! ## Failures for good (01 R15, 09 R203) -/

section Work
variable (s : State)

theorem setDeviceState_worked (st cause : Nat) : Worked s (setDeviceState s st cause) := by
  unfold setDeviceState
  refine .ite (.refl s) (.trans ?_ (.ofAnnounced (notifyContrail_announced ..)))
  refine .trans ?_ (.ofAnnounced (mailboxState_announced _))
  exact ((Worked.write s st (by decide)).trans (.write _ cause (by decide))).trans (.ofNoted (raise_noted ..))

theorem driveReady_worked (level : Bool) : Worked s (driveReady s level) := by
  unfold driveReady
  exact .ite (.refl s) (.noted .done (.emit ..))

theorem enterFault_worked (cause : Nat) : Worked s (enterFault s cause) := by
  unfold enterFault
  refine .ite (.refl s) (.trans ?_ .done)
  exact ((setDeviceState_worked s 4 cause).trans (driveReady_worked _ false)).trans .done

theorem failUnit_worked (u : FailUnit) (cause : Nat) : Worked s (failUnit s u cause) :=
  (Worked.done (t := fenceUnit s u)).trans (enterFault_worked ..)

theorem fencePage_worked (d : DieId) (a : Nat) : Worked s (fencePage s d a) := by
  unfold fencePage
  exact .ite (.refl s) (.ite (.trans .done (failUnit_worked ..)) (.noted .done (raiseOn_noted ..)))

/-! ## Counts of bytes (07 R157, 08 Table 8.11) -/

theorem countBytes_worked (kind unit n : Nat) : Worked s (countBytes s kind unit n) := by
  unfold countBytes demandOverrun
  dsimp only
  refine .ite (.refl s) ?_
  split
  · exact .done
  · exact .ite (.noted (.bumped (.bumped .done (by decide)) (by decide)) (raise_noted ..)) .done

theorem countAt_worked (d : DieId) (a m : Nat) (write : Bool) : Worked s (countAt s d a m write) := by
  have hpath (t : State) (a b : DieId) : Worked t (countPath t a b m) := .each t _ fun _ _ => countBytes_worked ..
  unfold countAt
  split
  · exact .refl s
  · exact .ite ((countBytes_worked ..).trans (hpath ..)) ((countBytes_worked ..).trans (hpath ..))

/-! ## The cache (08 R167 to R173) -/

theorem poisonByte_worked (a : Nat) : Worked s (poisonByte s a) := .bumped .done (by decide)

theorem clearWords_worked (d : DieId) (k n : Nat) : Worked s (clearWords s d k n) := .done

theorem loseWord_worked (d : DieId) (l : CacheLine) (k : Nat) : Worked s (loseWord s d l k) :=
  .noted (.bumped (.trans (.each s _ poisonByte_worked) (clearWords_worked ..)) (by decide)) (raiseOn_noted ..)

theorem backWord_worked (d : DieId) (l : CacheLine) (k : Nat) : Worked s (backWord d l s k) := by
  unfold backWord
  dsimp only
  split
  · exact .done
  · exact (Worked.bump s (key := 0xC10002) (by decide)).trans .done
  · exact (Worked.bump s (key := 0xC10001) (by decide)).trans .done
  · exact .each s _ poisonByte_worked
  · exact loseWord_worked ..

theorem settleLine_worked (d : DieId) (l : CacheLine) : Worked s (settleLine d s l) := by
  unfold settleLine
  exact .ite (.refl s) (.trans (.when _ (.each s _ fun t k => backWord_worked t d l k)) (clearWords_worked ..))

theorem setCacheSet_worked (d : DieId) (line : Nat) (ls : List CacheLine) : Worked s (setCacheSet s d line ls) :=
  (Worked.each s _ fun t l => settleLine_worked t d l).trans .done

theorem readFrameWord_worked (d : DieId) (k : Nat) : Worked s (readFrameWord s d k).2 := by
  unfold readFrameWord
  dsimp only
  split
  · exact .refl s
  · split
    · exact .refl s
    · exact .bumped .done (by decide)
    · exact .bumped .done (by decide)
    · exact .bump s (by decide)
    · split
      · exact loseWord_worked ..
      · exact .bumped .done (by decide)

theorem readFrames_worked (d : DieId) (o n : Nat) : Worked s (readFrames s d o n).2 := by
  unfold readFrames
  split
  · exact .refl s
  · exact .foldl (fun p : List (Nat × Nat) × State => p.2) ([], s) _ fun p k => readFrameWord_worked p.2 d k

theorem writeFrames_worked (d : DieId) (o : Nat) (bs : List Byte) : Worked s (writeFrames s d o bs) := by
  unfold writeFrames
  refine .ite (.refl s) (.each s _ fun t k => .ite .done ?_)
  exact .ite (readFrameWord_worked ..) ((readFrameWord_worked ..).trans .done)

theorem updatePairing_worked (d : DieId) (line : Nat) : Worked s (updatePairing s d line) := by
  unfold updatePairing
  extract_lets ls
  split
  · exact .ite (.refl s) (.ite (.bumped (setCacheSet_worked ..) (by decide))
      ((setCacheSet_worked ..).trans (.write _ _ (by decide))))
  · exact .refl s

theorem cacheLineAccess_worked (d : DieId) (line : Nat) (mask : BitVec 4) (hint : Hint) (write byteRegion : Bool) :
    Worked s (cacheLineAccess s d line mask hint write byteRegion) := by
  unfold cacheLineAccess
  extract_lets ls limit
  split
  · refine .trans ?_ (updatePairing_worked ..)
    exact ((setCacheSet_worked ..).trans (.count _ _ (by decide))).trans (.count _ _ (by decide))
  · rename_i s1 demote room s2 s3 new _ _
    have h1 : Worked s s1 := .count s _ (by decide)
    have h2 : Worked s1 s2 := .when _ (.bump _ (by decide))
    have h3 : Worked s2 s3 := .when _ (.write _ _ (by decide))
    exact .ite h1 ((((h1.trans h2).trans h3).trans (setCacheSet_worked ..)).trans (updatePairing_worked ..))

theorem cacheAccess_worked (d : DieId) (o n : Nat) (hint : Hint) (write byteRegion : Bool) :
    Worked s (cacheAccess s d o n hint write byteRegion) := by
  unfold cacheAccess
  exact .ite (.refl s) (.each s _ fun t line => cacheLineAccess_worked ..)

theorem rePair_worked (d : DieId) (o n : Nat) : Worked s (rePair s d o n) := by
  unfold rePair
  exact .ite (.refl s) (.each s _ fun t line => updatePairing_worked ..)

/-- What `Worked` is for: an access of the cache leaves the locks of the masters alone. -/
example (d : DieId) (o n : Nat) (hint : Hint) (write byteRegion : Bool) :
    (cacheAccess s d o n hint write byteRegion).mgmt.locks = s.mgmt.locks :=
  (cacheAccess_worked ..).keeps (·.mgmt.locks)

/-! ## Memory (09 R194 to R203) -/

theorem poisonPage_worked (t page : Nat) : Worked s (poisonPage s t page) := .bumped .done (by decide)

theorem dropFrames_worked (h : RegionHit) (a n : Nat) : Worked s (dropFrames s h a n) := .when _ .done

theorem poisonMem_worked (a n : Nat) (hint : Hint) : Worked s (poisonMem s a n hint) := by
  unfold poisonMem
  split
  · exact .refl s
  · rename_i h _
    extract_lets s0 s1
    have h0 : Worked s s0 := .when _ (cacheAccess_worked ..)
    have h1 : Worked s0 s1 := .ite
      ((dropFrames_worked ..).trans (.each _ _ fun t b => .ite (.bump t (by decide)) (poisonByte_worked ..)))
      (.each _ _ fun t p => .ite (.bump t (by decide)) ((dropFrames_worked ..).trans (poisonPage_worked ..)))
    exact (h0.trans h1).trans (.when _ (rePair_worked ..))

theorem lastingError_worked (h : RegionHit) (a : Nat) (hard : Bool) : Worked s (lastingError s h a hard) := by
  unfold lastingError memUncorrectable
  dsimp only
  refine .trans (.noted ?_ (raiseOn_noted ..)) (.when _ (fencePage_worked ..))
  exact .bumped (.ite (poisonByte_worked ..) (poisonPage_worked ..)) (by decide)

theorem queueRewrite_worked (d : DieId) (a : Nat) : Worked s (queueRewrite s d a) := by
  unfold queueRewrite
  exact .ite (.refl s) (.ite (.bump s (by decide)) .done)

theorem takeUpset_worked (how : MemOutcome) : Worked s (takeUpset s how).2 := by
  unfold takeUpset
  split
  · exact .done
  · exact .refl s

theorem loadPage_worked (h : RegionHit) (a n : Nat) (l : Load) (page : Nat) : Worked l.s (loadPage h a n l page).s := by
  unfold loadPage
  dsimp only
  split
  · exact .bump _ (by decide)
  · split
    · exact .refl _
    · exact .bump _ (by decide)
    · exact (Worked.bump l.s (key := 0xC10002) (by decide)).trans (queueRewrite_worked ..)
    · exact (Worked.bump l.s (key := 0xC10001) (by decide)).trans (queueRewrite_worked ..)
    · exact lastingError_worked l.s h page false

theorem loadByte_worked (h : RegionHit) (a n : Nat) (l : Load) (b : Nat) : Worked l.s (loadByte h a n l b).s := by
  unfold loadByte
  dsimp only
  split
  · exact .bump _ (by decide)
  · split
    · exact .refl _
    · exact .bump _ (by decide)
    · exact .bump _ (by decide)
    · exact .bump _ (by decide)
    · exact lastingError_worked l.s h b false

theorem overlay_worked (d : DieId) (a n : Nat) (l : Load) (p : Nat × Nat) : Worked l.s (overlay d a n l p).s := by
  unfold overlay
  dsimp only
  split
  · exact .refl _
  · split
    · exact .refl _
    · exact .refl _

theorem loadOutcome_worked (h : RegionHit) (a n : Nat) (how : MemOutcome) (l : Load) : Worked l.s (loadOutcome h a n how l).s := by
  cases how
  case good => exact .refl _
  case transient => exact .bump _ (by decide)
  case lasting => exact lastingError_worked l.s h a false
  case hard => exact lastingError_worked l.s h a true

/-- The cache's part of an access to memory. -/
theorem hintedAccess_worked (h : RegionHit) (a n : Nat) (hint : Option Hint) (write : Bool) :
    Worked s (match hint with
      | none => s
      | some hi => if h.hbm then cacheAccess s h.die (dieOffset a) n hi write h.isByte else s) := by
  split
  · exact .refl s
  · exact .ite (cacheAccess_worked ..) (.refl s)

theorem memLoad_worked (a n : Nat) (hint : Option Hint) (how : MemOutcome) : Worked s (memLoad s a n hint how).s := by
  unfold memLoad
  split
  · exact .refl s
  · rename_i h _
    extract_lets s0 f l0 l1 l2 u
    have h0 : Worked s s0 := hintedAccess_worked s h a n hint false
    have hf : Worked s0 f.2 := by
      unfold f
      split
      · exact readFrames_worked ..
      · exact .refl s0
    have h1 : Worked l0.s l1.s := by
      unfold l1
      split
      · exact .foldl (fun l : Load => l.s) _ _ fun l b => loadByte_worked h a n l b
      · exact .foldl (fun l : Load => l.s) _ _ fun l p => loadPage_worked h a n l p
    have h2 : Worked l1.s l2.s := .foldl (fun l : Load => l.s) _ _ fun l p => overlay_worked h.die a n l p
    exact (((h0.trans hf).trans h1).trans h2).trans
      ((takeUpset_worked ..).trans (loadOutcome_worked h a n u.1 { l2 with s := u.2 }))

theorem storePage_worked (h : RegionHit) (page : Nat) (bs : List Byte) : Worked s (storePage s h page bs) := by
  unfold storePage
  exact .ite (.bump s (by decide)) .done

theorem storePart_worked (h : RegionHit) (page off : Nat) (bs : List Byte) : Worked s (storePart s h page off bs) := by
  unfold storePart
  extract_lets s1 merge u lost s2
  have h1 : Worked s s1 := .bump s (by decide)
  have hu : Worked s u.2 := h1.trans (takeUpset_worked ..)
  have h2 : Worked s s2 := hu.trans (.when _ (.bump _ (by decide)))
  have hmerge (t : State) (old : List Byte) : Worked t (merge t old) := storePage_worked ..
  have hlost (hard : Bool) : Worked s (lost hard) := by
    refine hu.trans ((lastingError_worked u.2 h page hard).trans (.trans ?_ (.ofNoted (raiseOn_noted ..))))
    exact .bump _ (by decide)
  refine .ite (h1.trans (.bump _ (by decide))) (.ite (hlost _) ?_)
  split
  · exact h2.trans (hmerge ..)
  · exact h2.trans ((Worked.bump _ (by decide)).trans (hmerge ..))
  · exact h2.trans ((Worked.bump _ (by decide)).trans (hmerge ..))
  · refine h2.trans (.trans ?_ (.ofNoted (raiseOn_noted ..)))
    exact .bump _ (by decide)
  · exact hlost _

theorem storePageAt_worked (h : RegionHit) (a : Nat) (bs : List Byte) (page : Nat) : Worked s (storePageAt h a bs s page) := by
  unfold storePageAt
  exact .ite (storePage_worked ..) (storePart_worked ..)

theorem storeByte_worked (h : RegionHit) (b : Nat) (v : Byte) : Worked s (storeByte s h b v) := by
  unfold storeByte
  exact .ite (.bump s (by decide)) .done

theorem memStore_worked (a : Nat) (bs : List Byte) (hint : Option Hint) : Worked s (memStore s a bs hint) := by
  unfold memStore
  split
  · exact .refl s
  · rename_i h _
    extract_lets s0 sf s1
    have h0 : Worked s s0 := hintedAccess_worked s h a bs.length hint true
    have hf : Worked s0 sf := .ite (writeFrames_worked ..) (.refl s0)
    have h1 : Worked sf s1 := .ite (.each sf _ fun t p => storeByte_worked ..) (.each sf _ fun t p => storePageAt_worked ..)
    exact .ite (((h0.trans hf).trans h1).trans (rePair_worked ..)) ((h0.trans hf).trans h1)

/-- A store to memory leaves the queues of the host alone. -/
example (a : Nat) (bs : List Byte) (hint : Option Hint) : (memStore s a bs hint).host.queues = s.host.queues :=
  (memStore_worked ..).keeps (·.host.queues)

/-! ## Scratchpads and movers (08 R175 to R180, 09 R196) -/

theorem poisonScratch_worked (c : CoreId) (off n : Nat) : Worked s (poisonScratch s c off n) :=
  .each s _ fun _ _ => .bumped .done (by decide)

theorem scratchStore_worked (c : CoreId) (off : Nat) (bs : List Byte) : Worked s (scratchStore s c off bs) := .done

theorem moverStore_worked (c : CoreId) (g : Seg) (off : Nat) (bs : List Byte) (hint : Nat) :
    Worked s (moverStore s c g off bs hint) := by
  unfold moverStore
  exact .ite (scratchStore_worked ..) ((countAt_worked ..).trans (memStore_worked ..))

theorem moverPut_worked (c : CoreId) (g : Seg) (off : Nat) (bs : List Byte) (hint : Nat) : Worked s (moverPut s c g off bs hint) := by
  unfold moverPut
  exact .ite (scratchStore_worked ..) ((countAt_worked ..).trans (memStore_worked ..))

theorem moverPoison_worked (c : CoreId) (g : Seg) (off n hint : Nat) : Worked s (moverPoison s c g off n hint) := by
  unfold moverPoison
  exact .ite (.refl s) (.ite (poisonScratch_worked ..) (poisonMem_worked ..))

theorem poisonRuns_worked (c : CoreId) (g : Seg) (off n bad hint : Nat) : Worked s (poisonRuns s c g off n bad hint) :=
  .each s _ fun _ _ => moverPoison_worked ..

theorem storeOpt_worked (c : CoreId) (seg off : Nat) (bs : List (Option Byte)) : Worked s (storeOpt s c seg off bs) := by
  unfold storeOpt
  split
  · exact .refl s
  · exact (moverStore_worked ..).trans (poisonRuns_worked ..)

/-- A package address is no place in a scratchpad. -/
theorem absLoad_worked (c : CoreId) (a n : Nat) : Worked s (absLoad s c a n).2 := by
  have hseg : ¬ absSeg.kind = 1 := by decide
  simp only [absLoad, moverLoad, if_neg hseg]
  exact (countAt_worked ..).trans (memLoad_worked ..)

/-- A read by a mover leaves the power controller alone. -/
example (c : CoreId) (a n : Nat) : (absLoad s c a n).2.power = s.power := (absLoad_worked ..).keeps State.power

/-! ## Exchanges that a stop aborts (12 R278) -/

theorem setCore_worked (c : CoreId) (x : CoreState) : Worked s (s.setCore c x) := .done

theorem modExch_worked (d : DieId) (i : Nat) (f : ExchRun → ExchRun) : Worked s (modExch s d i f) := .done

theorem trapCore_worked (c : CoreId) (t : TrapInfo) (queue pc : Nat) : Worked s (trapCore s c t queue pc) := by
  unfold trapCore
  exact .ite (.bump s (by decide)) (setCore_worked ..)

theorem withExch_worked (d : DieId) (i : Nat) {f : ExchRun → ExchDesc → State} (h : ∀ r x, Worked s (f r x)) :
    Worked s (withExch s d i f) := by
  unfold withExch
  split
  · exact .refl s
  · exact h ..

theorem exchRow_worked (c : CoreId) (r : ExchRun) (l : Nat × Nat) (bs : List (Option Byte)) : Worked s (exchRow s c r l bs).1 := by
  have hwrite (bs : List (Option Byte)) : Worked s (exchWrite s c r l bs).1 := by
    unfold exchWrite
    split
    · exact trapCore_worked ..
    · exact storeOpt_worked ..
  unfold exchRow
  extract_lets bad o
  have ho : Worked s o.1 := hwrite _
  change Worked s (o.1.when (bad && o.2) fun t => t.bump 0x662007)
  exact ho.trans (.when _ (.bump _ (by decide)))

theorem updateFill_worked (d : DieId) (i e : Nat) : Worked s (updateFill s d i e) :=
  withExch_worked s d i fun _ _ => .ite (.refl s) (moverStore_worked ..)

theorem failRow_worked (d : DieId) (i e row code : Nat) : Worked s (failRow s d i e row code) := by
  refine withExch_worked s d i fun r x => ?_
  extract_lets buf s1 s2
  have h1 : Worked s s1 := modExch_worked ..
  have h2 : Worked s1 s2 := .ite (exchRow_worked ..) (.refl s1)
  exact (h1.trans h2).trans (updateFill_worked ..)

theorem haltExch_worked (d : DieId) (i : Nat) (dup : Bool) : Worked s (haltExch s d i dup) := by
  refine .trans (withExch_worked s d i fun r x => ?_) (modExch_worked ..)
  extract_lets a b
  have ha : Worked s a := .each s _ fun t w => failRow_worked ..
  have hb : Worked a b := .each a _ fun t k => exchRow_worked ..
  exact (ha.trans hb).trans (modExch_worked ..)

theorem abortExchs_worked (n : Nat) (stop : Bool) : Worked s (abortExchs s n stop) := by
  refine .each s _ fun t d => .each t _ fun u i => ?_
  split
  · exact .refl u
  · exact .ite (.refl u) (.ite (.bumped (haltExch_worked ..) (by decide)) (.refl u))

/-- Exchanges that a stop aborts leave the clocks alone. -/
example (n : Nat) (stop : Bool) : (abortExchs s n stop).clocks = s.clocks := (abortExchs_worked ..).keeps State.clocks

/-! ## Update blocks that a stop ends (14 R332) -/

theorem raiseFlags_worked (bits : Nat) : Worked s (raiseFlags s bits) := .done

theorem setRecField_worked (c : CoreId) (a off n v : Nat) : Worked s (setRecField s c a off n v) := moverStore_worked ..

theorem failBlocks_worked (d : DieId) (i code : Nat) (sel : Nat → Bool) : Worked s (failBlocks s d i code sel) := by
  unfold failBlocks
  split
  · exact .refl s
  · rename_i u _
    extract_lets ks s1 s2
    have h1 : Worked s s1 := .done
    have h2 : Worked s s2 := h1.trans (.count _ _ (by decide))
    exact .ite (.refl s) (.ite (h2.trans (setRecField_worked ..)) h2)

theorem settleUpd_worked (d : DieId) (i : Nat) : Worked s (settleUpd s d i) := by
  unfold settleUpd
  split
  · exact .refl s
  · rename_i u _
    extract_lets x c raw rec' s1 s2
    have h1 : Worked s s1 := .ite (moverPut_worked ..) (.refl s)
    have h2 : Worked s1 s2 := .when _ (raiseFlags_worked ..)
    exact .ite (.refl s) ((h1.trans h2).trans .done)

theorem stopUpds_worked (c : CoreId) : Worked s (stopUpds s c) := by
  refine .each s _ fun t i => ?_
  split
  · exact .refl t
  · exact .ite (.refl t) ((failBlocks_worked ..).trans (settleUpd_worked ..))

/-! ## Steps that a stop abandons (14 Table 14.3) -/

theorem modRec_worked (d : DieId) (i : Nat) (f : RecTrack → RecTrack) : Worked s (modRec s d i f) := .done

theorem readTable_worked (c : CoreId) (a : Nat) : Worked s (readTable s c a).2.2 := (absLoad_worked ..).trans (absLoad_worked ..)

theorem startRepair_worked (d : DieId) (i k : Nat) : Worked s (startRepair s d i k) := by
  unfold startRepair
  split
  · exact .refl s
  · rename_i r _
    extract_lets c s1 tb t gen a b
    have h1 : Worked s s1 := (setRecField_worked ..).trans (modRec_worked ..)
    have hb : Worked s1 b := ((readTable_worked ..).trans (absLoad_worked ..)).trans (absLoad_worked ..)
    exact .ite h1 ((h1.trans hb).trans (absLoad_worked ..))

theorem idleRec_worked (d : DieId) (i : Nat) : Worked s (idleRec s d i) := by
  unfold idleRec
  split
  · exact .refl s
  · split
    · exact startRepair_worked ..
    · exact .refl s

theorem decideDie_worked (d : DieId) (step outcome : Nat) : Worked s (decideDie s d step outcome) := by
  refine .each s _ fun t i => ?_
  split
  · exact .refl t
  · rename_i r _
    extract_lets c st t1 a b a'
    have h1 : Worked t t1 := absLoad_worked ..
    have hb : Worked t1 b := ((setRecField_worked ..).trans (setRecField_worked ..)).trans (setRecField_worked ..)
    have ha : Worked t1 a' := .ite (.refl t1) (setRecField_worked ..)
    refine .ite (.refl t) (.ite ((Worked.bumped (h1.trans hb) (by decide)).trans (modRec_worked ..)) ?_)
    refine .trans ?_ (idleRec_worked ..)
    refine .trans ?_ (modRec_worked ..)
    exact (Worked.bumped (h1.trans ha) (by decide)).trans (.when _ (.bump _ (by decide)))

theorem abandonStep_worked (r : StepRec) : Worked s (abandonStep s r) := by
  have h : Worked s (decideRecords (s.bump 0x670006) r.num 3) :=
    (Worked.bump s (by decide)).trans (.each _ _ fun t d => decideDie_worked t d r.num 3)
  unfold abandonStep
  generalize decideRecords (s.bump 0x670006) r.num 3 = t at h ⊢
  exact h.trans .done

/-- A step abandoned leaves the ports alone. -/
example (r : StepRec) : (abandonStep s r).fabric = s.fabric := (abandonStep_worked ..).keeps State.fabric

/-! ## Stops (02 R42, 03 R71) -/

theorem stopRequest_worked (cause : Nat) : Worked s (stopRequest s cause) := .done

theorem stopCore_worked (c : CoreId) : Worked s (stopCore s c) := by
  unfold stopCore
  dsimp only
  split
  · exact setCore_worked ..
  · exact setCore_worked ..
  · exact setCore_worked ..
  · exact .refl s

theorem settleStop_worked : Worked s (settleStop s) := by
  unfold settleStop
  refine .ite ?_ (.refl s)
  extract_lets s1
  have h1 : Worked s s1 := .when _ (Worked.done (t := sealFrame s))
  exact h1.trans (.when _ (setDeviceState_worked ..))

theorem stopImage_worked (t cause : Nat) : Worked s (stopImage s t cause) := by
  unfold stopImage
  refine .ite (.refl s) ?_
  extract_lets r s1 s2 s3 r3 s4 s5
  have h1 : Worked s s1 := .done
  have h2 : Worked s1 s2 := (Worked.each s1 _ stopCore_worked).trans (.each _ _ stopUpds_worked)
  have h3 : Worked s2 s3 := .each s2 _ abandonStep_worked
  have h4 : Worked s3 s4 := .done
  have h5 : Worked s4 s5 := .when _ (Worked.done (t := parkFlags s4))
  exact ((((h1.trans h2).trans h3).trans h4).trans h5).trans ((abortExchs_worked ..).trans (settleStop_worked _))

end Work

end Sys2Proof.Machine
end

section
/-!
Proofs: temperatures, limits, trips and ageing (19 R436 to R445, 18 R417).
-/
namespace Sys2Proof.Machine

/-! ## The orderly stop of a hot package (19 R440) -/

theorem Worked.withPower {s t : State} (h : Worked s t) (p : Power) : Worked { s with power := p } { t with power := p } where
  rest := (congrArg (fun u : State => { u with power := p }) h.rest :)
  obj := h.obj
  rings := h.rings

/-- The state with the halt of R440 in force or not. -/
def withHalt (s : State) (halted : Bool) : State := { s with power := { s.power with halted := halted } }

/-- A thermal stop halts the cores' clocks, and is work for the rest. -/
theorem thermalStop_worked (s : State) (d : DieId) (sensor : Nat) (reading : Int) :
    ∃ halted, Worked (withHalt s halted) (thermalStop s d sensor reading) := by
  unfold thermalStop
  extract_lets n s1 old s2
  have h1 : Worked s s1 := (Worked.ofNoted (raise_noted ..)).trans (stopRequest_worked ..)
  have hpower : s1.power = s.power := h1.keeps State.power
  have h2 : Worked (withHalt s (s1.power.halted || s1.hasImage)) s2 := by
    have h := h1.withPower { s1.power with halted := s1.power.halted || s1.hasImage }
    rw [withHalt, ← hpower]
    exact h
  exact ⟨_, h2.trans (stopImage_worked ..)⟩

section Stop
variable (s : State) (d : DieId) (sensor : Nat) (reading : Int)

theorem thermalStop_pdie (e : DieId) : (thermalStop s d sensor reading).pdie e = s.pdie e := by
  obtain ⟨halted, h⟩ := thermalStop_worked s d sensor reading
  exact h.keeps (·.pdie e)

theorem thermalStop_remote : (thermalStop s d sensor reading).power.remote = s.power.remote := by
  obtain ⟨halted, h⟩ := thermalStop_worked s d sensor reading
  exact h.keeps (·.power.remote)

theorem thermalStop_obj {key : Nat} (hlo : 0xA00000 ≤ key) (hhi : key < 0xB00000) :
    (thermalStop s d sensor reading).obj key = s.obj key := by
  obtain ⟨halted, h⟩ := thermalStop_worked s d sensor reading
  exact h.obj key (by simp [farKey, hlo, hhi])

end Stop

/-! ## Sensors (19 R436 to R438) -/

theorem exec_thermalTrip (d : DieId) (v : Int) (s : State) : exec (.thermalTrip d v) s = execThermalTrip d v s := rfl
theorem exec_bondTestGraceExpiry (s : State) : exec .bondTestGraceExpiry s = execBondTestGraceExpiry s := rfl

section Sensors
variable (s : State) (d : DieId)

/-- The hottest sensor depends on the die's sensors alone. -/
theorem hottest_congr {s t : State} (h : (t.pdie d).sensors = (s.pdie d).sensors) : hottest t d = hottest s d := by
  have htemps : dieTemps t d = dieTemps s d := by rw [dieTemps, dieTemps, h]
  rw [hottest, hottest, htemps]

theorem checkCritical_pdie : (checkCritical s d).pdie d = { s.pdie d with crit := decide (880 ≤ (hottest s d).1) } := by
  unfold checkCritical
  extract_lets h hot was
  have hown : (s.modPdie d fun x => { x with crit := hot }).pdie d = { s.pdie d with crit := decide hot } := State.pdie_modPdie_same ..
  unfold State.when
  split
  · exact (thermalStop_pdie ..).trans hown
  · exact hown

/-- A die's readings replaced, with its HBM's temperature where the read brings one. -/
def sensorsRead (readings : List Int) (stack : Option (Int × Bool)) : State :=
  let s1 := s.modPdie d fun x => { x with
    sensors := Vector.ofFn fun k => { x.sensors[k] with reading := readings.getD k.val x.sensors[k].reading } }
  match stack with
  | none => s1
  | some (t, hot) =>
    setLevelOn ((s1.modPdie d fun x => { x with hbmTemp := t }).setObj (kDie d 4) (celsiusF32 t)) d 9 hot (t / 8).toNat 0

/-- The HBM's temperature after a read. -/
def stackTemp (stack : Option (Int × Bool)) (old : Int) : Int :=
  match stack with
  | some p => p.1
  | none => old

theorem sensorsRead_pdie (readings : List Int) (stack : Option (Int × Bool)) : (sensorsRead s d readings stack).pdie d =
    { s.pdie d with
      sensors := Vector.ofFn fun k => { (s.pdie d).sensors[k] with reading := readings.getD k.val (s.pdie d).sensors[k].reading }
      hbmTemp := stackTemp stack (s.pdie d).hbmTemp } := by
  unfold sensorsRead
  cases stack with
  | none => exact State.pdie_modPdie_same ..
  | some p =>
    refine ((setLevel_noted ..).keeps (·.pdie d)).trans ?_
    exact (State.pdie_modPdie_same ..).trans (by rw [State.pdie_modPdie_same]; rfl)

theorem sensorRead_reads (readings : List Int) (stack : Option (Int × Bool)) :
    ∃ t, exec (.sensorRead d readings stack) s = .next t ∧
    (t.pdie d).hbmTemp = (match stack with
      | some p => p.1
      | none => (s.pdie d).hbmTemp) ∧
    (∀ k : Fin 64, ((t.pdie d).sensors[k]).reading = readings.getD k.val ((s.pdie d).sensors[k]).reading ∧
      ((t.pdie d).sensors[k]).suspect = ((s.pdie d).sensors[k]).suspect) ∧
    ((t.pdie d).crit = true ↔ 880 ≤ (hottest t d).1) := by
  have hread := sensorsRead_pdie s d readings stack
  have hexec : exec (.sensorRead d readings stack) s = .next (checkCritical (sensorsRead s d readings stack) d) := by
    cases stack <;> rfl
  generalize sensorsRead s d readings stack = u at hread hexec
  have ht := checkCritical_pdie u d
  refine ⟨_, hexec, ?_, fun k => ?_, ?_⟩
  · rw [ht, hread]
    rfl
  · rw [ht, hread]
    simp
  · rw [hottest_congr d (congrArg PowerDie.sensors ht :), ht]
    exact decide_eq_true_iff

theorem reportSensors_power (l : List ((Sensor × Sensor) × Nat)) (s : State) : (l.foldl (reportSensor d) s).power = s.power := by
  refine foldl_keeps State.power l _ s fun t p => ?_
  unfold reportSensor
  dsimp only
  split
  · exact (raiseOn_noted ..).power
  · split
    · exact (raiseOn_noted ..).power
    · rfl

/-- A trusted sensor is distrusted at its fourth reading in a row that is off. -/
theorem checkSensor_trusted {est : Int} {x : Sensor} (h : x.suspect = false) :
    (checkSensor est x).suspect = true ↔ 3 ≤ x.off ∧ 64 < (x.reading - est).natAbs := by
  unfold checkSensor
  by_cases hdiff : 64 < (x.reading - est).natAbs
  · simp [h, hdiff]
  · simp [h, hdiff]

/-- A distrusted sensor is trusted again at its thousandth reading in a row that agrees. -/
theorem checkSensor_suspect {est : Int} {x : Sensor} (h : x.suspect = true) :
    (checkSensor est x).suspect = false ↔ 999 ≤ x.agree ∧ (x.reading - est).natAbs ≤ 32 := by
  unfold checkSensor
  by_cases hdiff : (x.reading - est).natAbs ≤ 32
  · simp [h, hdiff]
  · simp [h, hdiff]

theorem checkSensor_reading (est : Int) (x : Sensor) : (checkSensor est x).reading = x.reading := by
  unfold checkSensor
  dsimp only
  split <;> rfl

theorem sensorCheck_judges (estimates : List Int) : ∃ t, exec (.sensorCheck d estimates) s = .next t ∧
    ∀ k : Fin 64, ((t.pdie d).sensors[k]).reading = ((s.pdie d).sensors[k]).reading ∧
      (((s.pdie d).sensors[k]).suspect = false → (((t.pdie d).sensors[k]).suspect = true ↔ 3 ≤ ((s.pdie d).sensors[k]).off ∧
        64 < (((s.pdie d).sensors[k]).reading - estimates.getD k.val ((s.pdie d).sensors[k]).estimate).natAbs)) ∧
      (((s.pdie d).sensors[k]).suspect = true → (((t.pdie d).sensors[k]).suspect = false ↔ 999 ≤ ((s.pdie d).sensors[k]).agree ∧
        (((s.pdie d).sensors[k]).reading - estimates.getD k.val ((s.pdie d).sensors[k]).estimate).natAbs ≤ 32)) := by
  refine ⟨_, rfl, fun k => ?_⟩
  have hk (u : State) (l : List ((Sensor × Sensor) × Nat)) (new : Vector Sensor 64) (hu : u.pdie d = { s.pdie d with sensors := new }) :
      ((l.foldl (reportSensor d) u).pdie d).sensors[k] = new[k] := by
    have hpower : (l.foldl (reportSensor d) u).pdie d = u.pdie d := congrArg (fun p : Power => p.dies[d]) (reportSensors_power d l u)
    rw [hpower, hu]
  rw [hk _ _ _ (State.pdie_modPdie_same ..)]
  simp only [Fin.getElem_fin, Vector.getElem_ofFn]
  exact ⟨checkSensor_reading .., checkSensor_trusted, checkSensor_suspect⟩

end Sensors

/-! ## Throttling (19 R438) -/

section Throttle
variable (s : State) (d : DieId)

/-- The state in which a throttle step has counted the steps of a die's limits. -/
def throttleSteps : State :=
  s.modPdie d fun y => { y with
    thermal := thermalSteps (s.pdie d).thermal (hottest s d).1 (8 * s.obj 0xA01001)
    hbm := thermalSteps (s.pdie d).hbm (s.pdie d).hbmTemp (8 * s.obj 0xA01004) }

theorem thermalThrottleStep_counts : ∃ t, exec (.thermalThrottleStep d) s = .next t ∧ t.cores = s.cores ∧
    (t.pdie d).thermal = (if (8 * s.obj 0xA01001 : Int) < (hottest s d).1 then (s.pdie d).thermal + 1
      else if (hottest s d).1 < 8 * s.obj 0xA01001 - 24 then 0 else (s.pdie d).thermal) ∧
    (t.pdie d).hbm = (if (8 * s.obj 0xA01004 : Int) < (s.pdie d).hbmTemp then (s.pdie d).hbm + 1
      else if (s.pdie d).hbmTemp < 8 * s.obj 0xA01004 - 24 then 0 else (s.pdie d).hbm) := by
  have hown : (throttleSteps s d).pdie d = { s.pdie d with
      thermal := thermalSteps (s.pdie d).thermal (hottest s d).1 (8 * s.obj 0xA01001)
      hbm := thermalSteps (s.pdie d).hbm (s.pdie d).hbmTemp (8 * s.obj 0xA01004) } := State.pdie_modPdie_same ..
  have hcores : (throttleSteps s d).cores = s.cores := rfl
  have hlimits (u : State) (b on off : Bool) (a0 a1 b0 b1 : Nat) :
      let t := refreshClocks (setLevelOn (setLevelOn (u.when b fun z => z.bump 0xA30001) d 64 on a0 a1) d 72 off b0 b1) d
      t.cores = u.cores ∧ (t.pdie d).unthrottled = (u.pdie d).unthrottled := by
    have hbump : (u.when b fun z => z.bump 0xA30001).cores = u.cores ∧ (u.when b fun z => z.bump 0xA30001).pdie d = u.pdie d := by
      cases b <;> exact ⟨rfl, rfl⟩
    generalize u.when b (fun z => z.bump 0xA30001) = v at hbump
    obtain ⟨hcores, hpdie⟩ := hbump
    have hlevels : Noted v (setLevelOn (setLevelOn v d 64 on a0 a1) d 72 off b0 b1) := (setLevel_noted ..).trans (setLevel_noted ..)
    refine ⟨(refreshClocks_keeps _ d State.cores).trans (hlevels.cores.trans hcores), ?_⟩
    rw [refreshClocks_pdie, ← hpdie]
    exact congrArg PowerDie.unthrottled (hlevels.keeps (·.pdie d))
  obtain ⟨hsame, hdie⟩ := hlimits (throttleSteps s d)
    (thermalSteps (s.pdie d).thermal (hottest s d).1 (8 * s.obj 0xA01001) != 0 ||
      thermalSteps (s.pdie d).hbm (s.pdie d).hbmTemp (8 * s.obj 0xA01004) != 0)
    (thermalSteps (s.pdie d).thermal (hottest s d).1 (8 * s.obj 0xA01001) != 0)
    (thermalSteps (s.pdie d).hbm (s.pdie d).hbmTemp (8 * s.obj 0xA01004) != 0)
    (hottest s d).2 (detail32 (hottest s d).1) ((s.pdie d).hbmTemp / 8).toNat 0
  rw [hown] at hdie
  exact ⟨_, rfl, hsame.trans hcores, (congrArg PowerDie.thermal hdie :), (congrArg PowerDie.hbm hdie :)⟩

end Throttle

/-! ## Remote channels (19 R439) -/

theorem kRemote_bounds (n : Fin 8) {sub : Nat} (h : sub < 256) : 0xA00000 ≤ kRemote n sub ∧ kRemote n sub < 0xB00000 := by
  have hkey : kRemote n sub = (0xA020 + n.val) * 256 + sub := by
    rw [kRemote, objKey]
  have hn := n.isLt
  omega

/-- The objects of remote channels, and the count of their faults, are no counters of events. -/
theorem thermal_not_event {key : Nat} (h : 0xA00000 ≤ key) : key ∉ eventCounters := by
  intro hk
  have hfar : ∀ k ∈ eventCounters, k < 0xA00000 := by decide
  exact absurd (hfar key hk) (by omega)

theorem kRemote_ne : ∀ n : Fin 8, kRemote n 8 ≠ kRemote n 9 ∧ (0xA30006 : Nat) ≠ kRemote n 9 := by decide

section Remotes
variable (s : State) (n : Fin 8)

/-- A channel that reads a fault code, with the limits it stands at. -/
def channelAt (code : Nat) (r : Remote) : State := (s.setObj (kRemote n 9) code).modRemote n fun _ => r

theorem remoteConversion_of_off (r : RemoteResult) (hoff : s.obj (kRemote n 1) = 0) :
    ∃ t, exec (.remoteConversion n r) s = .next t ∧ t.obj (kRemote n 9) = 3 ∧ t.obj (kRemote n 8) = s.obj (kRemote n 8) ∧
      t.obj 0xA30006 = s.obj 0xA30006 ∧ t.power.remote = s.power.remote.set n ⟨false, false⟩ ∧ t.cores = s.cores ∧ t.run = s.run := by
  obtain ⟨h8, hcount⟩ := kRemote_ne n
  have hobj (k : Nat) : (channelAt s n 3 ⟨false, false⟩).obj k = if k = kRemote n 9 then 3 else s.obj k := by
    split
    · rename_i hk
      rw [hk]
      exact State.obj_setObj_same ..
    · exact State.obj_setObj_ne s 3 ‹_›
  have hquiet (u : State) (b : Bool) : Noted u (u.when b fun t => setLevel t 322 false 0 0) := .when b (setLevel_noted ..)
  have hlevel := hquiet (channelAt s n 3 ⟨false, false⟩) (!(channelAt s n 3 ⟨false, false⟩).power.remote.toList.any (·.warn))
  have hkept (k : Nat) (hk : 0xA00000 ≤ k) := (hlevel.obj k (thermal_not_event hk)).trans (hobj k)
  refine ⟨_, congrArg Host.Outcome.next (if_pos hoff), ?_, ?_, ?_, congrArg Power.remote hlevel.power, hlevel.cores, hlevel.run⟩
  · exact (hkept _ (kRemote_bounds n (by decide)).1).trans (if_pos rfl)
  · exact (hkept _ (kRemote_bounds n (by decide)).1).trans (if_neg h8)
  · exact (hkept _ (by decide)).trans (if_neg hcount)

theorem remoteFault_counts (kind : Nat) : (remoteFault s n kind).obj (kRemote n 9) = kind ∧
    (remoteFault s n kind).obj 0xA30006 = (s.obj 0xA30006 + 1) % 2 ^ objWidth 0xA30006 := by
  obtain ⟨-, hcount⟩ := kRemote_ne n
  have hcode : ((s.setObj (kRemote n 9) kind).bump 0xA30006).obj (kRemote n 9) = kind := by
    rw [State.obj_bump_ne _ hcount.symm, State.obj_setObj_same]
  have hbump : ((s.setObj (kRemote n 9) kind).bump 0xA30006).obj 0xA30006 = (s.obj 0xA30006 + 1) % 2 ^ objWidth 0xA30006 := by
    rw [State.obj_bump_same, State.obj_setObj_ne s _ hcount]
  unfold remoteFault
  generalize (s.setObj (kRemote n 9) kind).bump 0xA30006 = u at hcode hbump
  exact ⟨((raise_noted ..).obj _ (thermal_not_event (kRemote_bounds n (by decide)).1)).trans hcode,
    ((raise_noted ..).obj _ (by decide)).trans hbump⟩

/-- A good reading reported, with the limits that the channel then stands above. -/
def readingReported (v : Int) : State :=
  ((s.setObj (kRemote n 9) 0).setObj (kRemote n 8) (celsiusF32 v)).modRemote n fun _ =>
    ⟨8 * sgn 16 (s.obj (kRemote n 5)) < v, 8 * sgn 16 (s.obj (kRemote n 6)) < v⟩

theorem remoteReading_reports (v : Int) : (remoteReading s n v).obj (kRemote n 9) = 0 ∧
    (remoteReading s n v).obj (kRemote n 8) = celsiusF32 v ∧
    (remoteReading s n v).power.remote[n] = ⟨8 * sgn 16 (s.obj (kRemote n 5)) < v, 8 * sgn 16 (s.obj (kRemote n 6)) < v⟩ := by
  have hhot (u : State) (b stop : Bool) (d0 d1 : Nat) :
      let t := u.when b fun x => (raise x 323 d0 d1).when stop fun y => thermalStop y (dieFin 0) (64 + n.val) v
      (∀ k, 0xA00000 ≤ k → k < 0xB00000 → t.obj k = u.obj k) ∧ t.power.remote = u.power.remote := by
    have hraise := raise_noted u 323 d0 d1
    have hobj (k : Nat) (hlo : 0xA00000 ≤ k) : (raise u 323 d0 d1).obj k = u.obj k := hraise.obj k (thermal_not_event hlo)
    cases b
    · exact ⟨fun _ _ _ => rfl, rfl⟩
    · cases stop
      · exact ⟨fun k hlo _ => hobj k hlo, congrArg Power.remote hraise.power⟩
      · exact ⟨fun k hlo hhi => (thermalStop_obj _ _ _ _ hlo hhi).trans (hobj k hlo),
          (thermalStop_remote ..).trans (congrArg Power.remote hraise.power)⟩
  have hcode : (readingReported s n v).obj (kRemote n 9) = 0 := by
    change ((s.setObj (kRemote n 9) 0).setObj (kRemote n 8) (celsiusF32 v)).obj (kRemote n 9) = 0
    rw [State.obj_setObj_ne _ _ (kRemote_ne n).1.symm, State.obj_setObj_same]
  have hvalue : (readingReported s n v).obj (kRemote n 8) = celsiusF32 v :=
    State.obj_setObj_same (s.setObj (kRemote n 9) 0) (kRemote n 8) (celsiusF32 v)
  have hown : (readingReported s n v).power.remote[n] =
    ⟨8 * sgn 16 (s.obj (kRemote n 5)) < v, 8 * sgn 16 (s.obj (kRemote n 6)) < v⟩ := vmod_same ..
  have hlevel := setLevel_noted (readingReported s n v) 322 ((readingReported s n v).power.remote.toList.any (·.warn)) n.val (detail32 v)
  obtain ⟨hobj, hremote⟩ := hhot (setLevel (readingReported s n v) 322 ((readingReported s n v).power.remote.toList.any (·.warn)) n.val
    (detail32 v)) (decide (8 * sgn 16 (s.obj (kRemote n 6)) < v) && !(s.power.remote[n]).crit) (s.obj (kRemote n 7) == 1) n.val (detail32 v)
  have hkept (sub : Nat) (hsub : sub < 256) : (remoteReading s n v).obj (kRemote n sub) = (readingReported s n v).obj (kRemote n sub) := by
    obtain ⟨hlo, hhi⟩ := kRemote_bounds n hsub
    exact (hobj _ hlo hhi).trans (hlevel.obj _ (thermal_not_event hlo))
  refine ⟨(hkept 9 (by decide)).trans hcode, (hkept 8 (by decide)).trans hvalue, ?_⟩
  exact (congrArg (fun r : Vector Remote 8 => r[n]) (hremote.trans (congrArg Power.remote hlevel.power))).trans hown

theorem remoteConversion_of_on (hon : s.obj (kRemote n 1) ≠ 0) (v : Int) :
    (∃ t, exec (.remoteConversion n (.good v)) s = .next t ∧ t.obj (kRemote n 9) = 0 ∧ t.obj (kRemote n 8) = celsiusF32 v ∧
      ((t.power.remote[n]).warn = true ↔ 8 * sgn 16 (s.obj (kRemote n 5)) < v) ∧
      ((t.power.remote[n]).crit = true ↔ 8 * sgn 16 (s.obj (kRemote n 6)) < v)) ∧
    (∃ t, exec (.remoteConversion n .opened) s = .next t ∧ t.obj (kRemote n 9) = 1 ∧
      t.obj 0xA30006 = (s.obj 0xA30006 + 1) % 2 ^ objWidth 0xA30006) ∧
    (∃ t, exec (.remoteConversion n .shorted) s = .next t ∧ t.obj (kRemote n 9) = 2 ∧
      t.obj 0xA30006 = (s.obj 0xA30006 + 1) % 2 ^ objWidth 0xA30006) := by
  obtain ⟨hcode, hvalue, hown⟩ := remoteReading_reports s n v
  refine ⟨⟨_, congrArg Host.Outcome.next (if_neg hon), hcode, hvalue, ?_, ?_⟩,
    ⟨_, congrArg Host.Outcome.next (if_neg hon), remoteFault_counts s n 1⟩,
    ⟨_, congrArg Host.Outcome.next (if_neg hon), remoteFault_counts s n 2⟩⟩
  · exact (congrArg (fun r : Remote => r.warn = true) hown).to_iff.trans decide_eq_true_iff
  · exact (congrArg (fun r : Remote => r.crit = true) hown).to_iff.trans decide_eq_true_iff

end Remotes

/-! ## The trip (19 R441) -/

theorem portsDown_carries (s : State) (p : PortId) : ((portsDown s).port p).carries = false := by
  have hdown (t : State) (a : PortId) :
      ((t.modPort a fun x => { Port.reset with trim := x.trim, fec := x.fec, tickEn := x.tickEn }).port a).carries = false := by
    rw [State.port_modPort_same]
    rfl
  refine State.each_reaches (I := fun _ => True) (P := fun t => (t.port p).carries = false) (List.mem_finRange p) (fun _ _ h => h)
    (fun t _ => hdown t p) (fun t a _ h => ?_) trivial
  by_cases hp : p = a
  · rw [hp]
    exact hdown t a
  · rwa [State.port_modPort_ne t _ hp]

/-- What the end of all links leaves alone. -/
theorem portsDown_keeps {β : Type} (g : State → β) (s : State) (hg : ∀ (u : State) f, g { u with fabric := f } = g u := by intros; rfl) :
    g (portsDown s) = g s := State.each_keeps s g _ _ fun _ _ => hg ..

theorem thermalTrip_ends (d : DieId) (v : Int) (s : State) (hprivileged : privileged d 31 = true) (hfirst : s.power.tripped = false) :
    ∃ t, exec (.thermalTrip d v) s = .next t ∧ t.power.tripped = true ∧ Output.pin 1 false ∈ t.out ∧ t.run = Run.reset ∧
      (∀ c, t.core c = CoreState.reset) ∧ (∀ p, (t.port p).carries = false) ∧ t.mem = s.mem := by
  have hraise := raiseOn_noted (s.emit (.pin 1 false)) d 66 31 (detail32 v)
  have hpin := hraise.out _ (List.mem_cons_self ..)
  have hmem := hraise.mem
  have hexec : exec (.thermalTrip d v) s = .next (portsDown (endWork { raiseOn (s.emit (.pin 1 false)) d 66 31 (detail32 v) with
      power := { (raiseOn (s.emit (.pin 1 false)) d 66 31 (detail32 v)).power with tripped := true } })) := by
    rw [exec_thermalTrip, execThermalTrip]
    exact congrArg Host.Outcome.next (if_neg (by simp [hprivileged, hfirst]))
  generalize raiseOn (s.emit (.pin 1 false)) d 66 31 (detail32 v) = u at hpin hmem hexec
  refine ⟨_, hexec, ?_, ?_, portsDown_keeps State.run _, fun c => ?_, portsDown_carries _, ?_⟩
  · rw [portsDown_keeps (·.power.tripped)]
    rfl
  · rw [portsDown_keeps State.out]
    exact hpin
  · rw [portsDown_keeps (·.core c)]
    exact core_reset c
  · exact (portsDown_keeps State.mem _).trans hmem

/-! ## Ageing and hours (19 R443 to R445, 18 R417) -/

section Ageing
variable (s : State) (growth : List Nat)

/-- The guard band of a die after a re-plan: what its growth asks for, and no less than those in force and planned before. -/
def newGuard (d : Nat) : Nat :=
  max (guardBandOf (maxOf ((List.range 4).map fun j => growth.getD (4 * d + j) 0)))
    (max (s.power.guard.toList.getD d 0) (((s.power.replans.head?).map (·.guards.getD d 0)).getD 0))

theorem newGuard_inForce (d : Fin 8) : s.power.guard[d] ≤ newGuard s growth d.val := by
  have hget : s.power.guard.toList.getD d.val 0 = s.power.guard[d] := by simp
  rw [← hget]
  exact (Nat.le_max_left ..).trans (Nat.le_max_right ..)

theorem le_maxOf {l : List Nat} {n : Nat} (h : n ∈ l) : n ≤ maxOf l := by
  have hfold (l : List Nat) (m : Nat) : m ≤ l.foldl Nat.max m ∧ ∀ n ∈ l, n ≤ l.foldl Nat.max m := by
    induction l generalizing m with
    | nil => exact ⟨Nat.le_refl _, by simp⟩
    | cons a l ih =>
      obtain ⟨hm, hl⟩ := ih (Nat.max m a)
      refine ⟨(Nat.le_max_left m a).trans hm, fun n hn => ?_⟩
      obtain rfl | hn := List.mem_cons.mp hn
      · exact (Nat.le_max_right m n).trans hm
      · exact hl n hn
  exact (hfold l 0).2 n h

theorem guardBandOf_covers {g m : Nat} (h : g ≤ m) : 9 * g ≤ 1000 * guardBandOf m := by
  have hband : guardBandOf m = (9 * m + 1000 - 1) / 1000 := by
    rw [guardBandOf, cdiv, if_neg (by decide)]
  omega

theorem newGuard_covers (d : Fin 8) {j : Nat} (hj : j < 4) : 9 * growth.getD (4 * d.val + j) 0 ≤ 1000 * newGuard s growth d.val := by
  have hmem : growth.getD (4 * d.val + j) 0 ∈ (List.range 4).map fun j => growth.getD (4 * d.val + j) 0 :=
    List.mem_map.mpr ⟨j, List.mem_range.mpr hj, rfl⟩
  have hband := guardBandOf_covers (le_maxOf hmem)
  have hnew : guardBandOf (maxOf ((List.range 4).map fun j => growth.getD (4 * d.val + j) 0)) ≤ newGuard s growth d.val :=
    Nat.le_max_left ..
  exact hband.trans (Nat.mul_le_mul_left 1000 hnew)

/-- A re-plan's record. -/
def newReplan : Replan := ⟨s.obj 0xC21001, (List.range 8).map (newGuard s growth)⟩

theorem newReplan_guard (d : Fin 8) : (newReplan s growth).guards.getD d.val 0 = newGuard s growth d.val := by
  simp [newReplan]

/-- The state in which a re-plan is recorded, with its margin and the hours left. -/
def replanned : State :=
  let rs := (newReplan s growth :: s.power.replans).take 8
  let m := leastMargin s (newReplan s growth).guards
  (({ s with power := { s.power with replans := rs, growth := growth } }.setObj 0xC30004 (s.obj 0xC21001)).setObj 0xC30002
    (unsgn 16 m.1)).setObj 0xC30003 (hoursToEol rs m.2 ((880 : Int) - (Config.fusedMv m.2 s.grade.clockMax : Nat)) (s.obj 0xC21001))

theorem replan_eq : replan s growth = writeHealth ((replanned s growth).each allDies fun t d =>
    raiseOn t d 74 ((newReplan s growth).guards.getD d.val 0) (s.obj 0xC21001)) := rfl

theorem replanned_hour : (replanned s growth).obj 0xC30004 = s.obj 0xC21001 := by
  unfold replanned
  dsimp only
  rw [State.obj_setObj_ne _ _ (by decide), State.obj_setObj_ne _ _ (by decide), State.obj_setObj_same]

theorem ageingReplan_records : ∃ t r, exec (.ageingReplan growth) s = .next t ∧ t.power.replans.head? = some r ∧
    r.hour = s.obj 0xC21001 ∧ t.obj 0xC30004 = s.obj 0xC21001 ∧ t.power.guard = s.power.guard ∧
    (∀ d : Fin 8, s.power.guard[d] ≤ r.guards.getD d.val 0 ∧ ∀ j < 4, 9 * growth.getD (4 * d.val + j) 0 ≤ 1000 * r.guards.getD d.val 0) ∧
    t.power.replans.length ≤ 8 := by
  have hevents : Noted (replanned s growth) ((replanned s growth).each allDies fun t d =>
    raiseOn t d 74 ((newReplan s growth).guards.getD d.val 0) (s.obj 0xC21001)) := .each _ _ fun t d => raiseOn_noted ..
  have hreplans := congrArg Power.replans hevents.power
  have hlist : (replanned s growth).power.replans = (newReplan s growth :: s.power.replans).take 8 := rfl
  have hguard := congrArg Power.guard hevents.power
  have hhour := (hevents.obj 0xC30004 (by decide)).trans (replanned_hour s growth)
  have hexec : exec (.ageingReplan growth) s = _ := congrArg Host.Outcome.next (replan_eq s growth)
  generalize (replanned s growth).each allDies (fun t d =>
    raiseOn t d 74 ((newReplan s growth).guards.getD d.val 0) (s.obj 0xC21001)) = u at hreplans hguard hhour hexec
  refine ⟨_, newReplan s growth, hexec, ?_, rfl, hhour, hguard, fun d => ?_, ?_⟩
  · exact congrArg List.head? (hreplans.trans hlist)
  · rw [newReplan_guard]
    exact ⟨newGuard_inForce s growth d, fun j hj => newGuard_covers s growth d hj⟩
  · have hlen := congrArg List.length (hreplans.trans hlist)
    exact hlen.le.trans (by simp)

theorem operatingHour_counts : ∃ t, exec .operatingHour s = .next t ∧
    t.obj 0xC21001 = (s.obj 0xC21001 + 1) % 2 ^ objWidth 0xC21001 ∧
    (s.life.bondDue.isSome = true → t.life.bondDue = s.life.bondDue) ∧ t.cores = s.cores := by
  have hcount := State.obj_bump_same s 0xC21001
  have hlife : (s.bump 0xC21001).life = s.life := rfl
  have hcores : (s.bump 0xC21001).cores = s.cores := rfl
  have hexec : exec .operatingHour s = .next (if (s.bump 0xC21001).life.bondDue.isNone && (s.bump 0xC21001).obj 0x2A0003 ≤
      ((s.bump 0xC21001).obj 0xC21001 + 2 ^ 32 - (s.bump 0xC21001).obj 0xC21002) % 2 ^ 32 then
      showBondDue ((s.bump 0xC21001).modLife fun l => { l with bondDue := some ((s.bump 0xC21001).obj 0xC21001) })
    else s.bump 0xC21001) := rfl
  generalize s.bump 0xC21001 = u at hcount hlife hcores hexec
  refine ⟨_, hexec, ?_, fun hdue => ?_, ?_⟩
  · split
    · rw [showBondDue, State.obj_setObj_ne _ _ (by decide)]
      exact hcount
    · exact hcount
  · have hno : u.life.bondDue.isNone = false := by
      rw [hlife]
      simpa using hdue
    rw [hno, Bool.false_and, if_neg (by decide), hlife]
  · split
    · exact hcores
    · exact hcores

theorem bondTestGraceExpiry_raises {h : Nat} (hdue : s.life.bondDue = some h) (hgrace : h + s.obj 0x2A0004 ≤ s.obj 0xC21001)
    (hagain : ∀ r, s.life.bondRaised = some r → r + 24 ≤ s.obj 0xC21001) :
    ∃ t, exec .bondTestGraceExpiry s = .next t ∧ t.life.bondRaised = some (s.obj 0xC21001) ∧ t.life.bondDue = some h ∧
      t.cores = s.cores := by
  have hevents : Noted s (s.each allDies fun u d => raiseOn u d 166 ((s.obj 0xC21001 + 2 ^ 32 - s.obj 0xC21002) % 2 ^ 32) 0) :=
    .each _ _ fun t d => raiseOn_noted ..
  have hcond : (decide (h + s.obj 0x2A0004 ≤ s.obj 0xC21001) && (match s.life.bondRaised with
      | none => true
      | some r => decide (r + 24 ≤ s.obj 0xC21001))) = true := by
    rw [Bool.and_eq_true, decide_eq_true_eq]
    refine ⟨hgrace, ?_⟩
    cases hraised : s.life.bondRaised with
    | none => rfl
    | some r => exact decide_eq_true (hagain r hraised)
  have hexec : exec .bondTestGraceExpiry s = .next
      ((s.each allDies fun u d => raiseOn u d 166 ((s.obj 0xC21001 + 2 ^ 32 - s.obj 0xC21002) % 2 ^ 32) 0).modLife fun l =>
        { l with bondRaised := some (s.obj 0xC21001) }) := by
    simp only [exec_bondTestGraceExpiry, execBondTestGraceExpiry, hdue]
    exact congrArg Host.Outcome.next (if_pos hcond)
  generalize (s.each allDies fun u d => raiseOn u d 166 ((s.obj 0xC21001 + 2 ^ 32 - s.obj 0xC21002) % 2 ^ 32) 0) = u at hevents hexec
  exact ⟨_, hexec, rfl, (congrArg Life.bondDue hevents.life).trans hdue, hevents.cores⟩

end Ageing

/-- Settles O56, one lemma for each command. -/
theorem temperaturesAgeingAndHours : Obligations.TemperaturesAgeingAndHours :=
  ⟨fun d readings stack s => sensorRead_reads s d readings stack, fun d estimates s => sensorCheck_judges s d estimates,
    fun d s => thermalThrottleStep_counts s d, fun n r s hoff => remoteConversion_of_off s n r hoff,
    fun n v s hon => remoteConversion_of_on s n hon v, thermalTrip_ends, fun growth s => ageingReplan_records s growth,
    operatingHour_counts, fun _ s hdue hgrace hagain => bondTestGraceExpiry_raises s hdue hgrace hagain⟩

end Sys2Proof.Machine
end

section
/-!
Proofs: the memory window, vectors, and resets by the host (15 R338 to R340, R346, R348, 18 R404).
-/
namespace Sys2Proof.Machine

theorem exec_msixUnmask (fn : Fin 2) (what : MsixWrite) (s : State) : exec (.msixUnmask fn what) s = execMsixUnmask fn what s := rfl
theorem exec_flrFunction0 (s : State) : exec .flrFunction0 s = .next (flr0 s 6) := rfl
theorem exec_flrFunction1 (s : State) : exec .flrFunction1 s = .next (flr1 s) := rfl
theorem exec_perstNRelease (rate : BitVec 8) (link : LinkSetup) (s : State) :
    exec (.perstNRelease rate link) s = execPerstNRelease rate link s := rfl

/-! ## The memory window (15 R339) -/

section Window
variable (s : State)

/-- A range that ends within its page is one piece. -/
theorem pagePieces_of_page {a n : Nat} (hn : 1 ≤ n) (hend : a % 512 + n ≤ 512) : pagePieces a n = [(a, n)] := by
  have hpages : pagesOf a n = [a / 512 * 512] := by
    have hlast : (a + n - 1) / 512 = a / 512 := by omega
    have hne : n ≠ 0 := by omega
    simp [pagesOf, hne, hlast]
  have hstart : max a (a / 512 * 512) = a := by omega
  have hlen : min (a + n) (a / 512 * 512 + 512) - a = n := by omega
  rw [pagePieces, hpages]
  simp [hstart, hlen]

/-- What answers a read of the window from one page. -/
def windowAnswer (l : Load) (n : Nat) : State :=
  let bad := l.bad != 0 || l.failed.isSome
  (l.s.emit (.readData (if bad then List.replicate n 0xFF#8 else l.bytes) bad)).when bad fun t => t.emit (.aer 1)

theorem bar2Read_of_page {o n : Nat} (hsize : o < 2 ^ s.host.bar2Log2) (hn : 1 ≤ n) (hend : (s.host.winBase + o) % 512 + n ≤ 512)
    (hareas : inDataAreas s (s.host.winBase + o) n = true) (hready : initialising s (s.host.winBase + o) = false) :
    bar2Read s o n .good = windowAnswer (memLoad s (s.host.winBase + o) n (some .normal) .good) n := by
  have hin : (decide (2 ^ s.host.bar2Log2 ≤ o) || !inDataAreas s (s.host.winBase + o) n) = false := by
    simp [hareas, hsize]
  simp only [bar2Read, hin, hready, Bool.false_eq_true, if_false, pagePieces_of_page hn hend]
  rfl

theorem windowAnswer_good {l : Load} (n : Nat) (hbad : l.bad = 0) (hfailed : l.failed = none) :
    windowAnswer l n = l.s.emit (.readData l.bytes false) := by
  simp [windowAnswer, hbad, hfailed, State.when_false]

theorem windowAnswer_bad {l : Load} (n : Nat) (hbad : l.bad ≠ 0 ∨ l.failed ≠ none) :
    windowAnswer l n = (l.s.emit (.readData (List.replicate n 0xFF#8) true)).emit (.aer 1) := by
  have htrue : (l.bad != 0 || l.failed.isSome) = true := by
    obtain h | h := hbad
    · simp [h]
    · simp [Option.isSome_iff_ne_none.mpr h]
  simp only [windowAnswer, htrue, if_true, State.when_true]

theorem bar2Read_outside {o n : Nat} (how : MemOutcome) (h : inDataAreas s (s.host.winBase + o) n = false) :
    bar2Read s o n how = (s.emit .unsupported).emit (.aer 0) := by
  simp [bar2Read, h]

theorem bar2Write_outside {o : Nat} {bs : List Byte} (ep : Bool) (h : inDataAreas s (s.host.winBase + o) bs.length = false) :
    bar2Write s o bs ep = s.emit (.aer 0) := by
  simp [bar2Write, h]

theorem bar2Write_stores {o : Nat} {bs : List Byte} (hsize : o < 2 ^ s.host.bar2Log2)
    (hareas : inDataAreas s (s.host.winBase + o) bs.length = true) (hcode : inCode s (s.host.winBase + o) bs.length = false)
    (hready : initialising s (s.host.winBase + o) = false) : bar2Write s o bs false =
      s.each (pagePieces (s.host.winBase + o) bs.length) fun u p =>
        memStore u p.1 (bytesAt bs (p.1 - (s.host.winBase + o)) p.2) (some .normal) := by
  have hin : (decide (2 ^ s.host.bar2Log2 ≤ o) || !inDataAreas s (s.host.winBase + o) bs.length) = false := by
    simp [hareas, hsize]
  simp only [bar2Write, hin, hcode, hready, Bool.false_eq_true, if_false]

end Window

/-! ## Vectors (15 R348) -/

section Vectors
variable {s : State}

/-- A vector that nothing masks is signalled. -/
theorem signalVector_of_unmasked {fn vec : Nat} (hen : (s.fnConfig fn).msixEn = true) (hmask : (s.fnConfig fn).fnMask = false)
    (hown : bitAt (kvGet msixDataReset s.host.msixData (fn * 4096 + vec)) 32 = false) : signalVector s fn vec =
      s.emit (.msix fn vec (kvGet 0 s.host.msixAddr (fn * 4096 + vec)) (fld (kvGet msixDataReset s.host.msixData (fn * 4096 + vec)) 0 32)) := by
  simp [signalVector, hen, hmask, hown]

/-- The state with another table of vectors' data and other pending bits. -/
def State.withVectors (s : State) (data : Kv Nat) (pend : Kv Bool) : State :=
  { s with host := { s.host with msixData := data, msixPend := pend } }

/-- The keys of function 0's vectors are their numbers. -/
theorem vectorKey_function0 (k : Nat) : 0 * 4096 + k = k := by rw [Nat.zero_mul, Nat.zero_add]

theorem signalVector_withVectors {k : Nat} {data : Kv Nat} (pend : Kv Bool) (hen : (s.fnConfig 0).msixEn = true)
    (hmask : (s.fnConfig 0).fnMask = false) (hown : bitAt (kvGet msixDataReset data k) 32 = false) :
    ∃ d, signalVector (s.withVectors data pend) 0 k = (s.withVectors data pend).emit (.msix 0 k (kvGet 0 s.host.msixAddr k) d) := by
  have hsignal := signalVector_of_unmasked (s := s.withVectors data pend) (fn := 0) (vec := k) hen hmask
    (by rw [vectorKey_function0]; exact hown)
  rw [vectorKey_function0] at hsignal
  exact ⟨_, hsignal⟩

theorem signalPending_withVectors {k : Nat} (data : Kv Nat) {pend : Kv Bool} (hpending : kvGet false pend k = true) :
    signalPending (s.withVectors data pend) 0 k = signalVector (s.withVectors data (kvSet false pend k false)) 0 k := by
  have hheld : kvGet false (s.withVectors data pend).host.msixPend k = true := hpending
  rw [signalPending]
  simp only [vectorKey_function0]
  exact if_pos hheld

theorem unmaskVector_function0 (k : Nat) : unmaskVector s 0 k =
    signalPending (s.withVectors (kvMod msixDataReset s.host.msixData k fun d => setBitAt d 32 false) s.host.msixPend) 0 k := by
  rw [unmaskVector, vectorKey_function0]
  rfl

/-- A vector of function 0 that nothing masks any more sends its message, and is no longer pending. -/
theorem unmaskVector_signals {k : Nat} (hpending : kvGet false s.host.msixPend k = true) (hen : (s.fnConfig 0).msixEn = true)
    (hmask : (s.fnConfig 0).fnMask = false) : ∃ data pend d, kvGet false pend k = false ∧
      unmaskVector s 0 k = (s.withVectors data pend).emit (.msix 0 k (kvGet 0 s.host.msixAddr k) d) := by
  have hown : bitAt (kvGet msixDataReset (kvMod msixDataReset s.host.msixData k fun d => setBitAt d 32 false) k) 32 = false := by
    rw [kvMod, kvGet_kvSet_same, bitAt_setBitAt_same]
  obtain ⟨d, hsignal⟩ := signalVector_withVectors (kvSet false s.host.msixPend k false) hen hmask hown
  have hunmask := (unmaskVector_function0 k).trans ((signalPending_withVectors _ hpending).trans hsignal)
  exact ⟨_, _, d, kvGet_kvSet_same false s.host.msixPend k false, hunmask⟩

theorem exec_msixUnmask_vector (vec : Fin 2048) (s : State) : exec (.msixUnmask 0 (.vector vec)) s = .next (unmaskVector s 0 vec.val) := by
  have hvector : ¬ vectorCount (0 : Fin 2).val ≤ vec.val := by
    have hcount : vectorCount (0 : Fin 2).val = 2048 := by decide
    omega
  simp only [exec_msixUnmask, execMsixUnmask, if_neg hvector]
  rfl

theorem msixUnmask_signals {vec : Fin 2048} (hpending : kvGet false s.host.msixPend vec.val = true)
    (hen : (s.fnConfig 0).msixEn = true) (hmask : (s.fnConfig 0).fnMask = false) :
    ∃ t a d, exec (.msixUnmask 0 (.vector vec)) s = .next t ∧ kvGet false t.host.msixPend vec.val = false ∧
      t.out = .msix 0 vec.val a d :: s.out ∧ a = kvGet 0 s.host.msixAddr vec.val := by
  obtain ⟨data, pend, d, hpend, hunmask⟩ := unmaskVector_signals hpending hen hmask
  refine ⟨(s.withVectors data pend).emit (.msix 0 vec.val (kvGet 0 s.host.msixAddr vec.val) d), _, d, ?_, hpend, rfl, rfl⟩
  rw [exec_msixUnmask_vector, hunmask]

end Vectors

/-! ## Commands that end (15 R340, R345) -/

/-- The command that an ended queue may still hold: a copy whose chunks in flight complete. -/
def HostQueue.Aborted (x : HostQueue) : Prop :=
  ∀ c, x.cmd = some c → c.ended = true ∧ c.started = true ∧ (c.op = 1 ∨ c.op = 2)

section Abort
variable (s : State) (q : Fin 64)

theorem complete_rings (status a b c : Nat) (r : Fin 8) : (complete s q status a b c).host.rings[r].en = s.host.rings[r].en :=
  complete_keeps (fun t => t.host.rings[r].en) status a b c (fun _ => rfl) fun _ _ => (signalVector_noted ..).rings r

theorem complete_queue_en (status a b c : Nat) : ((complete s q status a b c).queue q).en = (s.queue q).en :=
  complete_keeps (fun t => (t.queue q).en) status a b c 
    (fun _ => (congrArg HostQueue.en (queue_modQueue_same s q fun _ => (s.queue q).completed) :))
    fun _ _ => congrArg HostQueue.en (queue_of_hostView (signalVector_hostView ..) q)

/-- The queue of a command dropped as a copy. -/
theorem copyDrop_queue (c : HostCmd) (keep : Nat) : ((copyDrop s q c keep).queue q).en = (s.queue q).en ∧
    (∃ chunks, ((copyDrop s q c keep).queue q).cmd = some { c with chunks := chunks }) ∧
    (∀ r, r ≠ q → (copyDrop s q c keep).queue r = s.queue r) ∧
    ∀ r : Fin 8, (copyDrop s q c keep).host.rings[r].en = s.host.rings[r].en := by
  unfold copyDrop
  extract_lets late s1
  have h1 : Worked s s1 := .when _ (.each s late fun t j => poisonMem_worked t ..)
  have hqueue (r : Fin 64) : s1.queue r = s.queue r := h1.keeps (·.queue r)
  refine ⟨?_, ⟨_, congrArg HostQueue.cmd (queue_modQueue_same s1 q _)⟩, fun r hr => ?_, h1.rings⟩
  · rw [queue_modQueue_same, hqueue]
  · rw [queue_modQueue_ne s1 _ hr, hqueue]

/-- A command aborted: its queue stays as it was but for the command, and every other as it was. -/
theorem abortCmd_spec : ((abortCmd s q).queue q).en = (s.queue q).en ∧ ((abortCmd s q).queue q).Aborted ∧
    (∀ r, r ≠ q → (abortCmd s q).queue r = s.queue r) ∧ ∀ r : Fin 8, (abortCmd s q).host.rings[r].en = s.host.rings[r].en := by
  unfold abortCmd
  split
  · rename_i hcmd
    exact ⟨rfl, fun c hc => absurd (hcmd.symm.trans hc) (by simp), fun _ _ => rfl, fun _ => rfl⟩
  · rename_i c hcmd
    split
    · rename_i hcopy
      obtain ⟨hen, ⟨chunks, hheld⟩, hothers, hrings⟩ := copyDrop_queue s q { c with ended := true } 4
      refine ⟨hen, fun d hd => ?_, hothers, hrings⟩
      obtain rfl := Option.some.inj (hheld.symm.trans hd)
      simpa using hcopy
    · have hdone := completePlain_completed s q hcmd (status := 8) (by decide)
      refine ⟨complete_queue_en s.draw.2.draw.2.draw.2 q .., fun d hd => ?_, fun r hr => completePlain_queue_ne s q hr 8,
        fun r => complete_rings s.draw.2.draw.2.draw.2 q (r := r) ..⟩
      exact absurd (hdone.1.symm.trans hd) (by simp)

end Abort

/-! ## Queues and rings that stay as they are -/

/-- The queues of the host stand as they were, and its event rings enabled or disabled. -/
structure HostKept (s t : State) : Prop where
  queues : t.host.queues = s.host.queues
  rings : ∀ r : Fin 8, t.host.rings[r].en = s.host.rings[r].en

namespace HostKept

theorem trans {s t u : State} (h : HostKept s t) (k : HostKept t u) : HostKept s u :=
  ⟨k.queues.trans h.queues, fun r => (k.rings r).trans (h.rings r)⟩

theorem ofHost {s t : State} (h : t.host = s.host := by rfl) : HostKept s t :=
  ⟨congrArg HostIf.queues h, fun r => congrArg (fun v : HostIf => v.rings[r].en) h⟩

theorem ofNoted {s t : State} (h : Noted s t) : HostKept s t := ⟨h.queues, h.rings⟩

end HostKept

theorem emitFrame_host (s : State) (p : PortId) (type : Nat) (bs : List Byte) : (emitFrame s p type bs).host = s.host := by
  unfold emitFrame
  extract_lets s1
  split
  · rfl
  · exact (State.each_keeps _ State.host _ (fun t h => t.emit (.frame p.val h)) fun _ _ => rfl).trans rfl

theorem sendRaw_host (s : State) (p : PortId) (type : Nat) (bs : List Byte) : (sendRaw s p type bs).host = s.host := by
  have hboundary : (dsBoundary s p).host = s.host := by
    unfold dsBoundary
    extract_lets x
    split
    · rfl
    · rfl
  unfold sendRaw
  extract_lets s1 x
  refine Eq.trans ?_ hboundary
  split
  · exact emitFrame_host ..
  · extract_lets a single s2
    split
    · exact emitFrame_host ..
    · split
      · rfl
      · exact emitFrame_host s2 ..
      · rfl
      · exact emitFrame_host s2 ..

theorem sendWave_host (s : State) (w : Nat) : (sendWave s w).host = s.host :=
  State.each_keeps s State.host _ _ fun _ _ => sendRaw_host ..

theorem sealStop_host (s : State) : (sealStop s).host = s.host := by
  unfold sealStop
  split
  · rfl
  · extract_lets n s1 s2 w
    split
    · rfl
    · exact sendWave_host ..

theorem quiesce_host (s : State) (on : Bool) : (quiesce s on).host = s.host := State.each_keeps s State.host _ _ fun _ _ => rfl

/-! ## The host's interface closed (15 R340, 18 Table 18.3) -/

/-- No queue and no event ring is enabled, and no command is left but copies whose chunks in flight complete. -/
structure HostClosed (s : State) : Prop where
  queues : ∀ q : Fin 64, (s.queue q).en = false ∧ (s.queue q).Aborted
  rings : ∀ r : Fin 8, s.host.rings[r].en = false

theorem HostKept.queue {s t : State} (k : HostKept s t) (q : Fin 64) : t.queue q = s.queue q :=
  (congrArg (fun v : Vector HostQueue 64 => v[q]) k.queues :)

theorem HostClosed.ofKept {s t : State} (h : HostClosed s) (k : HostKept s t) : HostClosed t :=
  ⟨fun q => k.queue q ▸ h.queues q, fun r => (k.rings r).trans (h.rings r)⟩

theorem abortCmd_closed {s : State} (h : HostClosed s) (q : Fin 64) : HostClosed (abortCmd s q) := by
  obtain ⟨hen, haborted, hothers, hrings⟩ := abortCmd_spec s q
  refine ⟨fun r => ?_, fun r => (hrings r).trans (h.rings r)⟩
  by_cases hr : r = q
  · subst hr
    exact ⟨hen.trans (h.queues r).1, haborted⟩
  · rw [hothers r hr]
    exact h.queues r

/-- The state with no command in round robin's order and no job. -/
def State.withoutJobs (s : State) : State := { s with host := { s.host with order := [], job := none } }

theorem abortCmds_eq (s : State) : abortCmds s = (s.each (List.finRange 64) abortCmd).withoutJobs := rfl

theorem HostKept.withoutJobs (s : State) : HostKept s s.withoutJobs := ⟨rfl, fun _ => rfl⟩

theorem abortCmds_closed {s : State} (h : HostClosed s) : HostClosed (abortCmds s) := by
  have heach : HostClosed (s.each (List.finRange 64) abortCmd) := State.each_invariant _ (fun _ q ht => abortCmd_closed ht q) h
  rw [abortCmds_eq]
  exact heach.ofKept (.withoutJobs _)

/-- Once every command has been aborted, a queue holds nothing but a copy that still completes. -/
theorem abortCmds_aborted (s : State) (q : Fin 64) : ((abortCmds s).queue q).Aborted := by
  have hkeep (t : State) (r : Fin 64) (ht : (t.queue q).Aborted) : ((abortCmd t r).queue q).Aborted := by
    obtain ⟨-, haborted, hothers, -⟩ := abortCmd_spec t r
    by_cases hq : q = r
    · exact hq ▸ haborted
    · rw [hothers q hq]
      exact ht
  have heach : ((s.each (List.finRange 64) abortCmd).queue q).Aborted :=
    State.each_reaches (I := fun _ => True) (P := fun t => (t.queue q).Aborted) (List.mem_finRange q) (fun _ _ _ => trivial)
      (fun t _ => (abortCmd_spec t q).2.1) (fun t r _ => hkeep t r) trivial
  rw [abortCmds_eq, (HostKept.withoutJobs _).queue]
  exact heach

theorem disableHost_closed {s : State} (h : ∀ q, (s.queue q).Aborted) : HostClosed (disableHost s) := by
  have hqueue (q : Fin 64) : (disableHost s).queue q = (fun x : HostQueue => { x with
      en := false, st := 0, cmd := x.cmd.filter (·.ended) }) (s.queue q) := Vector.getElem_map ..
  have hring (r : Fin 8) : (disableHost s).host.rings[r] = { s.host.rings[r] with en := false } := Vector.getElem_map ..
  refine ⟨fun q => ⟨by rw [hqueue], fun c hc => h q c ?_⟩, fun r => by rw [hring]⟩
  rw [hqueue] at hc
  exact (Option.filter_eq_some_iff.mp hc).1

theorem computeReset_closed {s : State} (h : HostClosed s) (cause : Nat) (bond : Bool) : HostClosed (computeReset s cause bond) := by
  unfold computeReset
  split
  · exact h.ofKept .ofHost
  · split
    · exact h
    · extract_lets s1 s2 s3 s4
      have h1 : HostKept s s1 := ⟨(driveReady_worked s false).keeps (·.host.queues), (driveReady_worked s false).rings⟩
      have h2 : HostKept s1 s2 := .ofHost
      have hquiet : HostKept s2 (quiesce (sealStop s2) true) := .ofHost ((quiesce_host ..).trans (sealStop_host ..))
      have hrecords : HostKept (quiesce (sealStop s2) true) ((quiesce (sealStop s2) true).each allDies fun t d => enterQueue t d 1) :=
        .ofNoted (.each _ _ fun t d => enterQueue_noted t d 1)
      have h3 : HostClosed s3 := abortCmds_closed (h.ofKept (((h1.trans h2).trans hquiet).trans hrecords))
      exact h3.ofKept .ofHost

theorem flr0_closed (s : State) (cause : Nat) : HostClosed (flr0 s cause) := by
  have hreset := computeReset_closed (disableHost_closed (abortCmds_aborted s)) cause false
  unfold flr0
  generalize computeReset (disableHost (abortCmds s)) cause false = t at hreset ⊢
  exact hreset.ofKept ⟨rfl, fun _ => rfl⟩

/-! ## PERST_N and the link (18 R404) -/

/-- The host holds no lock once function 1 is reset. -/
theorem flr1_locks (s : State) : ∀ l ∈ (flr1 s).mgmt.locks, l.2 ≠ 0 := by
  intro l hl
  have hkept : l ∈ s.mgmt.locks.filter fun l => l.2 != 0 := hl
  simpa using (List.mem_filter.mp hkept).2

/-- The state after PERST_N's assertion, from that after the reset of function 0. -/
def perstDown (s : State) : State :=
  let t := linkDown (flr1 s)
  { t with host := { t.host with perstLow := true } }

theorem perstDown_kept (s : State) : HostKept s (perstDown s) := ⟨rfl, fun _ => rfl⟩

/-- The state with PERST_N released and its link trained. -/
def linkTrained (s : State) (rate width : Nat) : State :=
  let t := (s.setObj 0x690006 rate).setObj 0x690007 width
  { t with host := { t.host with perstLow := false, linkUp := true } }

theorem linkTrained_objects (s : State) (rate width : Nat) :
    (linkTrained s rate width).obj 0x690006 = rate ∧ (linkTrained s rate width).obj 0x690007 = width := by
  have hrate : ((s.setObj 0x690006 rate).setObj 0x690007 width).obj 0x690006 = rate := by
    rw [State.obj_setObj_ne _ _ (by decide), State.obj_setObj_same]
  have hwidth : ((s.setObj 0x690006 rate).setObj 0x690007 width).obj 0x690007 = width := State.obj_setObj_same ..
  exact ⟨hrate, hwidth⟩

theorem resizeBar2_host (s : State) (log2 : Nat) :
    (resizeBar2 s log2).host = { s.host with bar2Log2 := if 30 ≤ log2 ∧ log2 ≤ 41 then log2 else s.host.bar2Log2 } ∧
      (resizeBar2 s log2).dict = s.dict := by
  unfold resizeBar2
  by_cases h : 30 ≤ log2 ∧ log2 ≤ 41
  · simp [h]
  · simp [h]

theorem perstNRelease_trains {s : State} {rate width bar2 : BitVec 8} (hlow : s.host.perstLow = true) (hstage : 3 ≤ s.life.stage)
    (hclock : s.clocks.pcieOk = true) (htrip : s.power.tripped = false) :
    ∃ t, exec (.perstNRelease rate ⟨width, bar2⟩) s = .next t ∧ t.host.perstLow = false ∧ t.host.linkUp = true ∧
      t.obj 0x690006 = rate.toNat ∧ t.obj 0x690007 = width.toNat ∧ t.host.queues = s.host.queues ∧
      t.host.bar2Log2 = if 30 ≤ bar2.toNat ∧ bar2.toNat ≤ 41 then bar2.toNat else s.host.bar2Log2 := by
  have htrain : trainLink { s with host := { s.host with perstLow := false } } rate.toNat width.toNat =
      linkTrained s rate.toNat width.toNat := if_neg (by simp [hclock, htrip]; omega)
  have hexec : exec (.perstNRelease rate ⟨width, bar2⟩) s = .next (resizeBar2 (linkTrained s rate.toNat width.toNat) bar2.toNat) := by
    rw [exec_perstNRelease, execPerstNRelease, if_pos hlow, htrain]
    rfl
  obtain ⟨hhost, hdict⟩ := resizeBar2_host (linkTrained s rate.toNat width.toNat) bar2.toNat
  obtain ⟨hrate, hwidth⟩ := linkTrained_objects s rate.toNat width.toNat
  refine ⟨_, hexec, ?_, ?_, (obj_of_dict hdict _).trans hrate, (obj_of_dict hdict _).trans hwidth, ?_, ?_⟩ <;> rw [hhost] <;> rfl

/-- Settles O41: the window, vectors, function level resets and PERST_N. -/
theorem hostWindowAndFunctionResets : Obligations.HostWindowAndFunctionResets := by
  refine ⟨fun o n s hsize hn hend hareas hready => ⟨fun hbad hfailed => ?_, fun hbad => ?_⟩,
    fun o n how bs ep s => ⟨rfl, fun hareas => ?_, fun hareas => ?_, fun hsize hareas hcode hready => ?_⟩,
    fun vec s hpending hen hmask => msixUnmask_signals hpending hen hmask, fun s => ?_, fun s => ?_, fun s hhigh => ?_,
    fun rate width bar2 s hlow hstage hclock htrip => ?_⟩
  · have hread := (bar2Read_of_page s hsize hn hend hareas hready).trans (windowAnswer_good n hbad hfailed)
    refine ⟨_, congrArg Host.Outcome.next hread, rfl, ?_⟩
    exact ((memLoad_worked s _ n (some .normal) .good).keeps (·.host.queues) :)
  · have hread := (bar2Read_of_page s hsize hn hend hareas hready).trans (windowAnswer_bad n hbad)
    exact ⟨_, _, congrArg Host.Outcome.next hread, rfl⟩
  · exact congrArg Host.Outcome.next (bar2Read_outside s how hareas)
  · exact congrArg Host.Outcome.next (bar2Write_outside s ep hareas)
  · exact congrArg Host.Outcome.next (bar2Write_stores s hsize hareas hcode hready)
  · have hclosed := flr0_closed s 6
    refine ⟨_, exec_flrFunction0 s, fun q => ⟨(hclosed.queues q).1, (hclosed.queues q).2, hclosed.rings⟩⟩
  · refine ⟨_, exec_flrFunction1 s, flr1_locks s, rfl, rfl, rfl, rfl, rfl⟩
  · have hclosed := (flr0_closed s 7).ofKept (perstDown_kept (flr0 s 7))
    refine ⟨perstDown (flr0 s 7), congrArg Host.Outcome.next (if_neg (by simp [hhigh])), rfl, rfl,
      fun q => (hclosed.queues q).1, flr1_locks (flr0 s 7)⟩
  · exact perstNRelease_trains hlow hstage hclock htrip

end Sys2Proof.Machine
end

section
/-!
Proofs: the image commands of the host (02 R28 to R42, 03 R47, R73, 15 R343).
-/
namespace Sys2Proof.Machine

theorem exec_loadImage (q : Fin 64) (bytes : Option (List Byte)) (s : State) : exec (.loadImage q bytes) s = execLoadImage q bytes s := rfl
theorem exec_start (q : Fin 64) (s : State) : exec (.start q) s = execStart q s := rfl
theorem exec_stop (q : Fin 64) (s : State) : exec (.stop q) s = execStop q s := rfl
theorem exec_stopCommandComplete (q : Fin 64) (s : State) : exec (.stopCommandComplete q) s = execStopCommandComplete q s := rfl
theorem exec_resume (q : Fin 64) (s : State) : exec (.resume q) s = execResume q s := rfl
theorem exec_unload (q : Fin 64) (s : State) : exec (.unload q) s = execUnload q s := rfl

/-! ## The cores of an image set one after another -/

section Cores
variable {s : State} {l : List CoreId} {g : CoreId → CoreState → CoreState}

/-- A core of the list is as its change makes it, whatever comes after it. -/
theorem eachCore_satisfies {P : CoreState → Prop} {c : CoreId} (hc : c ∈ l) (hnew : ∀ x, P (g c x)) :
    P ((s.each l fun t c => t.modCore c (g c)).core c) := by
  refine State.each_reaches (I := fun _ => True) (P := fun t => P (t.core c)) hc (fun _ _ h => h)
    (fun t _ => by rw [State.core_modCore_same]; exact hnew _) (fun t b _ ht => ?_) trivial
  by_cases hb : c = b
  · subst hb
    rw [State.core_modCore_same]
    exact hnew _
  · rwa [State.core_modCore_ne t _ hb]

/-- What is not of the cores, their changes leave alone. -/
theorem eachCore_keeps {β : Type} (f : State → β) (hf : ∀ t c x, f (State.setCore t c x) = f t := by intros; rfl) :
    f (s.each l fun t c => t.modCore c (g c)) = f s :=
  State.each_keeps s f _ _ fun t c => hf t c _

/-- A field that no change writes stays as it was in every core. -/
theorem eachCore_field {β : Type} (f : CoreState → β) (c : CoreId) (hf : ∀ b x, f (g b x) = f x) :
    f ((s.each l fun t c => t.modCore c (g c)).core c) = f (s.core c) := by
  refine State.each_keeps s (fun t => f (t.core c)) _ _ fun t b => ?_
  by_cases hb : c = b
  · subst hb
    rw [State.core_modCore_same, hf]
  · rw [State.core_modCore_ne t _ hb]

end Cores

/-! ## Completions of image commands -/

section Ends
variable {s u t : State} {q : Fin 64} {c : HostCmd} {status : Nat}

theorem completed_of_queue (hqueue : u.queue q = s.queue q) (h : Completed u t q c status) : Completed s t q c status := by
  simpa only [Completed, hqueue] using h

/-- A command completes in a state whose host interface is still that of the command's turn. -/
theorem completePlain_ends (hview : u.hostView = s.hostView) (hcmd : (s.queue q).cmd = some c) (hstatus : status < 256) :
    Completed s (completePlain u q status) q c status :=
  completed_of_queue (queue_of_hostView hview q) (completePlain_completed u q (cmd_of_hostView hview hcmd) hstatus)

theorem completePlain_run (u : State) (q : Fin 64) (status : Nat) : (completePlain u q status).run = u.run :=
  complete_rest u.draw.2.draw.2.draw.2 q State.run _ _ _ _ fun _ _ => rfl

theorem complete_program (u : State) (q : Fin 64) (status a b r : Nat) : (complete u q status a b r).program = u.program :=
  complete_keeps State.program status a b r (fun _ => rfl) fun _ _ => signalVector_program ..

/-- The verdict of an admitted image completes its command with status 0. -/
theorem completeVerdict_ends {v : Verdict} (hview : u.hostView = s.hostView) (hcmd : (s.queue q).cmd = some c) (hv : v.reason = 0) :
    Completed s (completeVerdict u q v) q c 0 := by
  have hset : (setVerdict u.draw.2 v).hostView = s.hostView := hview
  have hdone := complete_completed (cmd_of_hostView hset hcmd) (status := if v.reason = 0 then 0 else 3) (by split <;> decide)
    (v.reason + v.unit * 2 ^ 16 + v.desc * 2 ^ 32) (v.demand + v.budget * 2 ^ 32) u.draw.1
  rw [if_pos hv] at hdone
  refine completed_of_queue (queue_of_hostView hset q) ?_
  rw [completeVerdict, if_pos hv]
  exact hdone

theorem completeVerdict_program (u : State) (q : Fin 64) (v : Verdict) : (completeVerdict u q v).program = u.program :=
  (complete_program (setVerdict u.draw.2 v) q ..).trans rfl

/-- A field of the run that is not of its byte counts. -/
theorem completeVerdict_run {α : Type} (g : Run → α) (u : State) (q : Fin 64) (v : Verdict)
    (hg : ∀ r : Run, g { r with bytes := [], overs := [] } = g r := by intro _; rfl) : g (completeVerdict u q v).run = g u.run :=
  run_of_program g hg (congrArg ProgramView.run (completeVerdict_program u q v))

end Ends

/-! ## LOAD_IMAGE (02 R31 to R35) -/

section Load
variable (s : State) (bs : List Byte)

theorem placeSegs_hostView (img : Image) : (placeSegs s img bs).hostView = s.hostView := by
  unfold placeSegs
  refine (State.each_hostView _ _ _ fun t g => ?_).trans (State.each_hostView _ _ _ fun t g => memStore_hostView ..)
  dsimp only
  split
  · rfl
  · exact memStore_hostView ..

/-- The state with another run and the bytes of its image. -/
def State.withImage (r : Run) : State := { s with run := r, mgmt := { s.mgmt with imageBytes := bs } }

theorem State.withImage_hostView (r : Run) : (s.withImage bs r).hostView = s.hostView := rfl

/-- The memory and scratchpads with the image's segments in place. -/
def segsPlaced : State := placeSegs (clearPhases (s.each allDies demoteDie)) (imageOf bs) bs

theorem segsPlaced_hostView : (segsPlaced s bs).hostView = s.hostView := by
  have hdemote : (s.each allDies demoteDie).hostView = s.hostView := State.each_hostView _ _ _ fun _ _ => rfl
  have hphases : (clearPhases (s.each allDies demoteDie)).hostView = (s.each allDies demoteDie).hostView :=
    State.each_hostView _ _ _ fun _ _ => rfl
  exact (placeSegs_hostView _ bs (imageOf bs)).trans (hphases.trans hdemote)

/-- The run of a loaded image, before its cores wait. -/
def imagePlaced : State :=
  (segsPlaced s bs).withImage bs { Run.reset with
    image := some (imageOf bs), imported := s.run.imported, scales := s.run.scales, decided := s.run.decided
    frame := s.run.frame, contrib := s.run.contrib }

theorem loadImage_eq : loadImage s bs = (imagePlaced s bs).each (imagePlaced s bs).runCores fun t c =>
    t.modCore c fun x => { x with st := .waiting, lines := [], badLines := [] } := by
  unfold loadImage imagePlaced segsPlaced State.withImage
  rfl

theorem imagePlaced_hostView : (imagePlaced s bs).hostView = s.hostView :=
  (State.withImage_hostView (segsPlaced s bs) bs _).trans (segsPlaced_hostView s bs)

theorem loadImage_hostView : (loadImage s bs).hostView = s.hostView := by
  rw [loadImage_eq]
  exact (eachCore_keeps State.hostView).trans (imagePlaced_hostView s bs)

theorem loadImage_run : (loadImage s bs).run = (imagePlaced s bs).run := by
  rw [loadImage_eq]
  exact eachCore_keeps State.run

theorem loadImage_runCores : (loadImage s bs).runCores = (imagePlaced s bs).runCores := by
  refine State.runCores_congr (congrArg Run.image (loadImage_run s bs)) ?_
  rw [loadImage_eq]
  exact eachCore_keeps (·.life.present)

theorem loadImage_waits {k : CoreId} (hk : k ∈ (loadImage s bs).runCores) : ((loadImage s bs).core k).st = .waiting := by
  rw [loadImage_runCores] at hk
  rw [loadImage_eq]
  exact eachCore_satisfies (P := fun x => x.st = .waiting) hk fun _ => rfl

end Load

theorem loadImage_completes {q : Fin 64} {c : HostCmd} {raw : List Byte} {s : State} (hturn : imageCmd s q 0x10 = some c)
    (hlong : 128 ≤ c.c) (hadmit : (admitBytes s (fitBytes c.c raw)).reason = 0) :
    ∃ t, exec (.loadImage q (some raw)) s = .next t ∧ Completed s t q c 0 ∧ t.run.image = some (imageOf (fitBytes c.c raw)) ∧
      t.run.phase = .loaded ∧ ∀ k ∈ t.runCores, (t.core k).st = .waiting := by
  generalize hbs : fitBytes c.c raw = bs at hadmit ⊢
  have hexec : exec (.loadImage q (some raw)) s = .next (completeVerdict (loadImage s bs) q (admitBytes s bs)) := by
    have hshort : ¬ c.c < 128 := by omega
    simp only [exec_loadImage, execLoadImage, hturn, if_neg hshort, hbs, hadmit, beq_self_eq_true, State.when_true]
  have hrun := loadImage_run s bs
  have hprogram := completeVerdict_program (loadImage s bs) q (admitBytes s bs)
  refine ⟨_, hexec, completeVerdict_ends (loadImage_hostView s bs) (cmd_of_imageCmd hturn) hadmit,
    (completeVerdict_run Run.image _ q _).trans (congrArg Run.image hrun),
    (completeVerdict_run Run.phase _ q _).trans (congrArg Run.phase hrun), fun k hk => ?_⟩
  rw [State.runCores_congr (completeVerdict_run Run.image (loadImage s bs) q _) (present_of_program hprogram)] at hk
  rw [core_of_program hprogram]
  exact loadImage_waits s bs hk

/-! ## START (02 R28, 03 R47) -/

section Start
variable (s : State) (tick step : Nat)

/-- The run armed, before its cores start anew. -/
def imageArmed : State :=
  let s1 := s.when (!s.run.imported) fun t => (t.setObj kScale (t.obj 0x270002)).setObj 0x670002 0
  { s1 with run := { Run.reset with
    image := s1.run.image, phase := .armed, startTick := tick, startStep := step, next := tick, step := step
    frame := s1.run.frame, contrib := s1.run.contrib
    scales := kvSet 25 (s1.run.scales.filter fun p => p.1 < step) step (s1.obj kScale)
    decided := s1.run.decided } }

/-- A core as the armed image leaves it. -/
def armedCore (run : List CoreId) (c : CoreId) (x : CoreState) : CoreState :=
  if run.contains c then startedCore x else { startedCore x with st := x.st, trap := x.trap }

theorem armImage_eq : armImage s tick step =
    (imageArmed s tick step).each allCores fun t c => t.modCore c (armedCore (imageArmed s tick step).runCores c) := rfl

theorem imageArmed_keeps {β : Type} (f : State → β) (hdict : ∀ (t : State) k v, f (t.setObj k v) = f t := by intros; rfl)
    (hrun : ∀ (t : State) r, f { t with run := r } = f t := by intros; rfl) : f (imageArmed s tick step) = f s := by
  refine (hrun _ _).trans ?_
  exact State.when_keeps s f _ _ ((hdict _ _ _).trans (hdict _ _ _))

theorem imageArmed_image : (imageArmed s tick step).run.image = s.run.image :=
  State.when_keeps s (·.run.image) (!s.run.imported) _ rfl

theorem imageArmed_runCores : (imageArmed s tick step).runCores = s.runCores :=
  State.runCores_congr (imageArmed_image ..) (imageArmed_keeps s tick step (·.life.present))

theorem armImage_hostView : (armImage s tick step).hostView = s.hostView := by
  rw [armImage_eq]
  exact (eachCore_keeps State.hostView).trans (imageArmed_keeps s tick step State.hostView)

theorem armImage_run : (armImage s tick step).run = (imageArmed s tick step).run := by
  rw [armImage_eq]
  exact eachCore_keeps State.run

theorem armImage_starts {k : CoreId} (hk : k ∈ s.runCores) :
    ((armImage s tick step).core k).st = .waiting ∧ ∀ i, ((armImage s tick step).core k).sreg i = 0 := by
  rw [armImage_eq, imageArmed_runCores]
  refine eachCore_satisfies (P := fun x => x.st = .waiting ∧ ∀ i, x.sreg i = 0) (List.mem_finRange k) fun x => ?_
  rw [armedCore, if_pos (by simpa using hk)]
  refine ⟨rfl, fun i => ?_⟩
  unfold CoreState.sreg
  split
  · rfl
  · exact Vector.getElem_replicate ..

end Start

theorem start_completes {q : Fin 64} {c : HostCmd} {img : Image} {s : State} (hturn : imageCmd s q 0x11 = some c)
    (himage : s.run.image = some img) (hstate : s.obj kDeviceState = stOperational)
    (hphase : s.run.phase = .loaded ∨ s.run.phase = .ended) (hadmit : (admission s img true (some c.a)).reason = 0) :
    ∃ t, exec (.start q) s = .next t ∧ Completed s t q c 0 ∧ t.run.phase = .armed ∧ t.run.next = c.a ∧ t.run.step = c.b ∧
      ∀ k ∈ s.runCores, (t.core k).st = .waiting ∧ ∀ i, (t.core k).sreg i = 0 := by
  have hpermit : statePermits s 0x11 = true := by simp [statePermits, hstate]
  have hready : (!statePermits s 0x11 || (s.run.phase != .loaded && s.run.phase != .ended)) = false := by
    rcases hphase with h | h <;> simp [hpermit, h]
  have hexec : exec (.start q) s = .next (completeVerdict (armImage s c.a c.b) q (admission s img true (some c.a))) := by
    simp only [exec_start, execStart, hturn, himage, hready, hadmit, Bool.false_eq_true, if_false, beq_self_eq_true, State.when_true]
  have hrun {α : Type} (g : Run → α) (hg : ∀ r : Run, g { r with bytes := [], overs := [] } = g r) :=
    (completeVerdict_run g (armImage s c.a c.b) q (admission s img true (some c.a)) hg).trans (congrArg g (armImage_run s c.a c.b))
  refine ⟨_, hexec, completeVerdict_ends (armImage_hostView s c.a c.b) (cmd_of_imageCmd hturn) hadmit,
    hrun Run.phase fun _ => rfl, hrun Run.next fun _ => rfl, hrun Run.step fun _ => rfl, fun k hk => ?_⟩
  rw [core_of_program (completeVerdict_program ..)]
  exact armImage_starts s c.a c.b hk

/-! ## STOP (02 R42) -/

theorem stop_requests {q : Fin 64} {c : HostCmd} {s : State} (hturn : imageCmd s q 0x12 = some c) (himage : s.hasImage = true)
    (hpermit : statePermits s 0x12 = true) (hphase : s.run.phase = .armed ∨ s.run.phase = .running) :
    ∃ t, exec (.stop q) s = .next t ∧ t.run.contrib = s.run.contrib ||| flagStop ∧
      (t.queue q).cmd = some { c with started := true, chunks := [] } ∧ t.cores = s.cores := by
  have hstop : stopNow (markStarted s q []) = stopRequest (markStarted s q []) 0 := by
    have hmarked : (markStarted s q []).run.phase = s.run.phase := rfl
    rcases hphase with h | h <;> simp only [stopNow, hmarked, h]
  have hready : (!s.hasImage || !statePermits s 0x12) = false := by simp [himage, hpermit]
  have hexec : exec (.stop q) s = .next (stopRequest (markStarted s q []) 0) := by
    simp only [exec_stop, execStop, hturn, hready, Bool.false_eq_true, if_false, hstop]
  have hqueue : ((markStarted s q []).queue q).cmd = (s.queue q).cmd.map fun c => { c with started := true, chunks := [] } :=
    congrArg HostQueue.cmd (queue_modQueue_same ..)
  rw [cmd_of_imageCmd hturn] at hqueue
  exact ⟨_, hexec, rfl, hqueue, rfl⟩

theorem stopCommandComplete_completes {q : Fin 64} {c : HostCmd} {s : State} (hcmd : (s.queue q).cmd = some c) (hop : c.op = 0x12)
    (hstarted : c.started = true) (hhalted : allHalted s = true) :
    ∃ t, exec (.stopCommandComplete q) s = .next t ∧ Completed s t q c 0 ∧ t.cores = s.cores ∧ t.run = s.run := by
  have hready : (decide (c.op = 0x12) && c.started && allHalted s) = true := by simp [hop, hstarted, hhalted]
  have hexec : exec (.stopCommandComplete q) s = .next (complete s.draw.2.draw.2.draw.2 q 0 (s.run.stopTick.getD s.draw.1)
      s.draw.2.draw.1 s.draw.2.draw.2.draw.1) := by
    simp only [exec_stopCommandComplete, execStopCommandComplete, hcmd, hready, if_true]
  exact ⟨_, hexec, complete_completed (s := s.draw.2.draw.2.draw.2) hcmd (by decide) ..,
    complete_rest s.draw.2.draw.2.draw.2 q State.cores _ _ _ _ fun _ _ => rfl,
    complete_rest s.draw.2.draw.2.draw.2 q State.run _ _ _ _ fun _ _ => rfl⟩

/-! ## RESUME and UNLOAD (03 R73) -/

section Resume
variable (s : State)

/-- A stopped package with its image is OPERATIONAL again, and the clocks follow. -/
def serviceResumed : State :=
  refreshAllClocks (s.when (s.obj kDeviceState == stStopped) fun t => setDeviceState t stOperational 0)

theorem serviceResumed_program : (serviceResumed s).program = s.program :=
  (refreshAllClocks_program _).trans (State.when_program _ _ _ (setDeviceState_program ..))

theorem refreshAllClocks_hostView : (refreshAllClocks s).hostView = s.hostView :=
  (refreshAllClocks_steered s).keeps State.hostView

theorem clearFloors_hostView : (clearFloors s).hostView = s.hostView := State.each_hostView _ _ _ fun _ _ => rfl

theorem serviceResumed_hostView : (serviceResumed s).hostView = s.hostView :=
  (refreshAllClocks_hostView _).trans (State.when_hostView _ _ _ (setDeviceState_hostView ..))

/-- The run that goes on at a tick, before its cores wait. -/
def runResumed (tick : Nat) : State :=
  { s with run := { s.run with
             phase := if s.run.cursor == Cursor.mk 0 0 0 then .armed else .running
             next := tick, stopTick := none, stopCause := 0 }
           power := { s.power with halted := false } }

theorem runResumed_runCores (tick : Nat) : (runResumed s tick).runCores = s.runCores := State.runCores_congr rfl rfl

theorem runResumed_phase (tick : Nat) : (runResumed s tick).run.phase ≠ .stopped := by
  simp only [runResumed]
  split <;> simp

/-- The cores of the resumed run wait, with their registers as they were. -/
def coresResumed (tick : Nat) : State :=
  (runResumed s tick).each (runResumed s tick).runCores fun t c => t.modCore c fun x => { x with st := .waiting, trap := .empty }

theorem resumeImage_hostView (tick : Nat) : (resumeImage s tick).hostView = s.hostView :=
  (serviceResumed_hostView _).trans (eachCore_keeps State.hostView)

theorem resumeImage_program (tick : Nat) : (resumeImage s tick).program = (coresResumed s tick).program := serviceResumed_program _

theorem coresResumed_run (tick : Nat) : (coresResumed s tick).run = (runResumed s tick).run := eachCore_keeps State.run

theorem coresResumed_waits (tick : Nat) {k : CoreId} (hk : k ∈ s.runCores) :
    ((coresResumed s tick).core k).st = .waiting ∧ ((coresResumed s tick).core k).trap.valid = false := by
  rw [coresResumed, runResumed_runCores]
  exact eachCore_satisfies (P := fun x => x.st = .waiting ∧ x.trap.valid = false) hk fun _ => ⟨rfl, rfl⟩

theorem coresResumed_sregs (tick : Nat) (k : CoreId) : ((coresResumed s tick).core k).sregs = (s.core k).sregs :=
  eachCore_field CoreState.sregs k fun _ _ => rfl

end Resume

section Unload
variable (s : State)

/-- The package without a run, and with nothing in progress but the work on commit records. -/
def runEmptied : State :=
  { s with run := { Run.reset with
             imported := s.run.imported, scales := s.run.scales, decided := s.run.decided
             frame := s.run.frame, contrib := s.run.contrib }
           units := s.units.map idleUnits
           mgmt := { s.mgmt with imageBytes := [] }, power := { s.power with halted := false } }

/-- The package without a run, before its cores are idle. -/
def runDiscarded : State := (runEmptied s).each allDies fun t d => t.modDie d fun m => { m with bulk := Vector.replicate 8 none }

theorem runDiscarded_keeps {β : Type} (f : State → β) (hf : ∀ (t : State) d m, f (t.modDie d m) = f t := by intros; rfl) :
    f (runDiscarded s) = f (runEmptied s) :=
  State.each_keeps _ f _ _ fun t d => hf t d _

/-- The package without a run, its cores idle. -/
def coresDiscarded : State :=
  (runDiscarded s).each allCores fun t c => t.modCore c fun x =>
    { x with st := .idle, trap := .empty, trapPend := none, drain := 0, stall := .none, fend := false, completed := false
             queues := Vector.replicate 10 [], hand := [] }

theorem unloadImage_eq : unloadImage s = refreshAllClocks (clearFloors
    ((coresDiscarded s).when ((coresDiscarded s).obj kDeviceState == stStopped) fun t => setDeviceState t stOperational 0)) := rfl

theorem coresDiscarded_idle (k : CoreId) : ((coresDiscarded s).core k).st = .idle ∧ ((coresDiscarded s).core k).trap.valid = false := by
  unfold coresDiscarded
  exact eachCore_satisfies (P := fun x => x.st = .idle ∧ x.trap.valid = false) (List.mem_finRange k) fun _ => ⟨rfl, rfl⟩

theorem coresDiscarded_image : (coresDiscarded s).run.image = none := by
  unfold coresDiscarded
  exact (eachCore_keeps (·.run.image)).trans (runDiscarded_keeps s (·.run.image))

theorem coresDiscarded_hostView : (coresDiscarded s).hostView = s.hostView := by
  unfold coresDiscarded
  exact (eachCore_keeps State.hostView).trans (runDiscarded_keeps s State.hostView)

theorem unloadImage_program : (unloadImage s).program = (coresDiscarded s).program := by
  rw [unloadImage_eq, refreshAllClocks_program, clearFloors_program, State.when_program _ _ _ (setDeviceState_program ..)]

theorem unloadImage_hostView : (unloadImage s).hostView = s.hostView := by
  rw [unloadImage_eq, refreshAllClocks_hostView]
  rw [clearFloors_hostView, State.when_hostView _ _ _ (setDeviceState_hostView ..), coresDiscarded_hostView]

end Unload

/-- Settles O37: LOAD_IMAGE, START, STOP and its end, RESUME and UNLOAD. -/
theorem imageCommandsRunTheImage : Obligations.ImageCommandsRunTheImage := by
  refine ⟨fun q c raw s => loadImage_completes, fun q c img s => start_completes, fun q c s => stop_requests,
    fun q c s => stopCommandComplete_completes, fun q c s hturn himage hpermit hresume => ?_,
    fun q c s hturn himage hpermit hunload => ?_⟩
  · have hready : (!s.hasImage || !statePermits s 0x13) = false := by simp [himage, hpermit]
    have hexec : exec (.resume q) s = .next (completePlain (resumeImage s c.a) q 0) := by
      simp only [exec_resume, execResume, hturn, hready, hresume, Bool.not_true, Bool.false_eq_true, if_false]
    have hprogram := resumeImage_program s c.a
    have hrun {α : Type} (g : Run → α) (hg : ∀ r : Run, g { r with bytes := [], overs := [] } = g r) :
        g (completePlain (resumeImage s c.a) q 0).run = g (runResumed s c.a).run := by
      rw [completePlain_run, run_of_program g hg (congrArg ProgramView.run hprogram), coresResumed_run]
    refine ⟨_, hexec, completePlain_ends (resumeImage_hostView s c.a) (cmd_of_imageCmd hturn) (by decide),
      hrun Run.next fun _ => rfl, (hrun Run.phase fun _ => rfl).trans_ne (runResumed_phase s c.a), fun k hk => ?_⟩
    have hcore : (completePlain (resumeImage s c.a) q 0).core k = (coresResumed s c.a).core k :=
      (congrArg (fun v : Vector CoreState 32 => v[k]) (completePlain_cores ..)).trans (core_of_program hprogram k)
    obtain ⟨hwaits, htrap⟩ := coresResumed_waits s c.a hk
    rw [hcore]
    exact ⟨hwaits, htrap, coresResumed_sregs s c.a k⟩
  · have hready : (!statePermits s 0x14 || !s.hasImage || !unloadable s) = false := by simp [himage, hpermit, hunload]
    have hexec : exec (.unload q) s = .next (completePlain (unloadImage s) q 0) := by
      simp only [exec_unload, execUnload, hturn, hready, Bool.false_eq_true, if_false]
    have hprogram := unloadImage_program s
    refine ⟨_, hexec, completePlain_ends (unloadImage_hostView s) (cmd_of_imageCmd hturn) (by decide), ?_, fun k => ?_⟩
    · rw [completePlain_run, run_of_program Run.image (fun _ => rfl) (congrArg ProgramView.run hprogram), coresDiscarded_image]
    · have hcore : (completePlain (unloadImage s) q 0).core k = (coresDiscarded s).core k :=
        (congrArg (fun v : Vector CoreState 32 => v[k]) (completePlain_cores ..)).trans (core_of_program hprogram k)
      rw [hcore]
      exact coresDiscarded_idle s k

end Sys2Proof.Machine
end

section
/-!
Proofs: the frames of ports that leave service, and the loss and the return of PLLs and references (10 R219, R220, 20 R456, R457).
-/
namespace Sys2Proof.Machine

/-! ## Exchanges and collectives whose frames are lost (11 R250, 12 R278) -/

section Lost
variable (s : State)

theorem exchStore_worked (c : CoreId) (l : Nat × Nat) (off : Nat) (bs : List Byte) : Worked s (exchStore s c l off bs) := moverStore_worked ..

theorem markEntry_worked (c : CoreId) (l : Nat × Nat) (i status rank row : Nat) : Worked s (markEntry s c l i status rank row) := by
  unfold markEntry
  exact .ite (.refl s) (exchStore_worked ..)

theorem listCounts_worked (c : CoreId) (l : Nat × Nat) (n : Nat) : Worked s (listCounts s c l n) := exchStore_worked ..

theorem headerCounts_worked (c : CoreId) (x : ExchDesc) : Worked s (headerCounts s c x) := by
  unfold headerCounts
  extract_lets s1
  have h1 : Worked s s1 := listCounts_worked ..
  split
  · exact .ite h1 (h1.trans (listCounts_worked ..))
  · exact h1

theorem dispatchHeader_worked (d : DieId) (i : Nat) : Worked s (dispatchHeader s d i) := by
  refine withExch_worked s d i fun r x => ?_
  extract_lets c s0 s1 s2
  have h0 : Worked s s0 := .each s _ fun t m => .ite (markEntry_worked ..) (.refl t)
  have h1 : Worked s0 s1 := exchStore_worked ..
  have h2 : Worked s1 s2 := exchStore_worked ..
  exact ((h0.trans h1).trans h2).trans (headerCounts_worked ..)

theorem closeRank_worked (d : DieId) (i rank : Nat) : Worked s (closeRank s d i rank) := by
  refine withExch_worked s d i fun r x => .ite (.refl s) ?_
  exact .ite ((modExch_worked ..).trans (dispatchHeader_worked ..)) (modExch_worked ..)

theorem failEntry_worked (d : DieId) (i m : Nat) : Worked s (failEntry s d i m) := by
  refine withExch_worked s d i fun r x => ?_
  extract_lets c l e s1 s2
  have h1 : Worked s s1 := .ite (.refl s) (markEntry_worked ..)
  have h2 : Worked s1 s2 := .ite (headerCounts_worked ..) (.refl s1)
  exact (h1.trans h2).trans (modExch_worked ..)

theorem exchLost_worked (d : DieId) (i kind item : Nat) : Worked s (exchLost s d i kind item) := by
  refine withExch_worked s d i fun r x => ?_
  split
  · exact (Worked.each s _ fun t m => failEntry_worked t d i m).trans (closeRank_worked ..)
  · exact .each s _ fun t w => failRow_worked ..
  · exact failEntry_worked ..
  · exact modExch_worked ..

theorem modRun_worked (d : DieId) (i : Nat) (f : CollRun → CollRun) : Worked s (modRun s d i f) := .done

theorem poisonDst_worked (d : DieId) (i off n : Nat) : Worked s (poisonDst s d i off n) := by
  unfold poisonDst
  split
  · exact .refl s
  · refine .ite (.refl s) ?_
    exact .ite (.foldl (fun t => t) s _ fun t b => poisonScratch_worked t ..) (moverPoison_worked ..)

theorem failSegs_worked (d : DieId) (i code : Nat) (sel : Nat → Bool) : Worked s (failSegs s d i code sel) := by
  unfold failSegs
  split
  · exact .refl s
  · exact (Worked.each s _ fun t k => poisonDst_worked t ..).trans (modRun_worked ..)

theorem chunkLost_worked (d : DieId) (i lo hi : Nat) : Worked s (chunkLost s d i lo hi) := by
  unfold chunkLost
  split
  · exact .refl s
  · exact ((failSegs_worked ..).trans (modRun_worked ..)).trans (raiseFlags_worked ..)

theorem ownerLost_worked (o : FrameOwner) : Worked s (ownerLost s o) := by
  unfold ownerLost
  split
  · exact .refl s
  · split
    · exact chunkLost_worked ..
    · exact .refl s
  · split
    · exact (raiseFlags_worked ..).trans (exchLost_worked ..)
    · exact .refl s
  · exact .refl s

theorem unroutable_worked (d : DieId) (dest : Nat) : Worked s (unroutable s d dest) :=
  ((Worked.bump s (key := 0x663005) (by decide)).noted (raiseOn_noted ..)).trans (raiseFlags_worked ..)

end Lost

/-! ## Ports that keep their state -/

/-- The clocks and their objects stand as they were, and every port is in its state. -/
structure PortsKept (s t : State) : Prop where
  clocks : t.clocks = s.clocks
  obj : ∀ k, farKey k = true → t.obj k = s.obj k
  st : ∀ p, (t.port p).st = (s.port p).st

namespace PortsKept

theorem refl (s : State) : PortsKept s s := ⟨rfl, fun _ _ => rfl, fun _ => rfl⟩

theorem trans {s t u : State} (h : PortsKept s t) (k : PortsKept t u) : PortsKept s u :=
  ⟨k.clocks.trans h.clocks, fun key hkey => (k.obj key hkey).trans (h.obj key hkey), fun p => (k.st p).trans (h.st p)⟩

theorem each {α : Type} (s : State) (l : List α) {f : State → α → State} (h : ∀ t a, PortsKept t (f t a)) : PortsKept s (s.each l f) :=
  List.foldlRecOn (motive := PortsKept s) l f (refl s) fun t ht a _ => ht.trans (h t a)

theorem ofWorked {s t : State} (h : Worked s t) : PortsKept s t :=
  ⟨h.keeps State.clocks, h.obj, fun p => congrArg (fun f : Fabric => (f.ports[p]).st) (h.keeps State.fabric)⟩

theorem modPort (s : State) (p : PortId) {f : Port → Port} (hf : ∀ x, (f x).st = x.st := by intro _; rfl) :
    PortsKept s (s.modPort p f) := by
  refine ⟨rfl, fun _ _ => rfl, fun q => ?_⟩
  by_cases hq : q = p
  · rw [hq, State.port_modPort_same, hf]
  · rw [State.port_modPort_ne s f hq]

end PortsKept

section Fail
variable (s : State) (p : PortId)

theorem queueFrame_portsKept {d : DieId} {vc i : Nat} {f : OutFrame} {t : State} (h : queueFrame s d vc i f = some t) :
    PortsKept s t := by
  unfold queueFrame at h
  split at h
  · exact nomatch h
  · obtain rfl := Option.some.inj h
    exact (PortsKept.ofWorked (.each s _ fun u h => countBytes_worked ..)).trans (.modPort _ _)

theorem freeCredit_portsKept (a : Nat × Nat) (vc units : Nat) : PortsKept s (freeCredit s a vc units) :=
  .modPort s _ fun x => by split <;> rfl

theorem requeue_portsKept (vc : Nat) (f : OutFrame × Nat) : PortsKept s (requeue s p vc f) := by
  unfold requeue
  split
  · rename_i t hqueued
    exact queueFrame_portsKept s hqueued
  · extract_lets s1
    have h1 : PortsKept s s1 := .ofWorked ((unroutable_worked ..).trans (ownerLost_worked ..))
    split
    · exact h1.trans (freeCredit_portsKept ..)
    · exact h1

theorem farKey_kPort (i : Nat) (h : i < 256) : farKey (kPort p i) = false := by
  have hp := p.isLt
  have hdiv : kPort p i / 256 = 0x6600 + p.val := by
    unfold kPort
    omega
  have hlt : kPort p i < 0xA00000 := by
    unfold kPort
    omega
  simp [farKey, hdiv]
  omega

theorem failFrames_portsKept : PortsKept s (failFrames s p) := by
  unfold failFrames
  extract_lets x s1 s2
  have h1 : PortsKept s s1 := .modPort s p
  have h2 : PortsKept s1 s2 := .each s1 _ fun t f =>
    .ofWorked ((Worked.bump t (farKey_kPort p 6 (by decide))).trans (ownerLost_worked ..))
  exact (h1.trans h2).trans (.each s2 _ fun t vc => .each t _ fun u f => requeue_portsKept ..)

theorem settlePort_portsKept (r : State × Bool) : PortsKept r.1 (settlePort p r) := by
  unfold settlePort
  split
  · exact failFrames_portsKept ..
  · exact .refl _

end Fail

/-! ## Ports and PLLs that lose their references (10 R219, 20 R456, R457) -/

/-- A port is no longer UP, the others are in their states, and the clocks stand as they were. -/
structure PortLost (p : PortId) (s t : State) : Prop where
  clocks : t.clocks = s.clocks
  obj : ∀ k, farKey k = true → t.obj k = s.obj k
  others : ∀ q, q ≠ p → (t.port q).st = (s.port q).st
  down : (t.port p).st ≠ .up

section PortLoss
variable {s t u : State} {p : PortId}

theorem PortLost.kept (h : PortLost p s t) (k : PortsKept t u) : PortLost p s u :=
  ⟨k.clocks.trans h.clocks, fun key hkey => (k.obj key hkey).trans (h.obj key hkey), fun q hq => (k.st q).trans (h.others q hq),
    fun hup => h.down ((k.st p).symm.trans hup)⟩

theorem PortLost.mod {f : Port → Port} (hf : (f (s.port p)).st ≠ .up) : PortLost p s (s.modPort p f) :=
  ⟨rfl, fun _ _ => rfl, fun _ hq => congrArg Port.st (State.port_modPort_ne s f hq), by rwa [State.port_modPort_same]⟩

theorem portEvent_portsKept (s : State) (p : PortId) (base d1 : Nat) : PortsKept s (portEvent s p base d1) :=
  .ofWorked (.ofNoted (raiseOn_noted ..))

theorem PortLost.trans (h : PortLost p s t) (k : PortLost p t u) : PortLost p s u :=
  ⟨k.clocks.trans h.clocks, fun key hkey => (k.obj key hkey).trans (h.obj key hkey),
    fun q hq => (k.others q hq).trans (h.others q hq), k.down⟩

theorem enterRetraining_lost (s : State) (p : PortId) (cause : Nat) : PortLost p s (enterRetraining s p cause).1 := by
  unfold enterRetraining
  split
  · rename_i hdown
    exact ⟨rfl, fun _ _ => rfl, fun _ _ => rfl, by simpa using hdown⟩
  · extract_lets s1 s2
    have h1 : PortLost p s s1 := .mod (by simp)
    have h2 : PortLost p s s2 := h1.kept (portEvent_portsKept s1 p 22 0)
    split
    · exact (h2.trans (.mod (by simp))).kept (portEvent_portsKept ..)
    · exact h2

theorem losePort_lost (s : State) (p : PortId) : PortLost p s (settlePort p (enterRetraining s p 2)) :=
  (enterRetraining_lost s p 2).kept (settlePort_portsKept p _)

theorem losePorts_clocks (s : State) : (losePorts s).clocks = s.clocks :=
  State.each_keeps s State.clocks _ _ fun t p => (losePort_lost t p).clocks

theorem losePorts_obj (s : State) {k : Nat} (hk : farKey k = true) : (losePorts s).obj k = s.obj k :=
  State.each_keeps s (·.obj k) _ _ fun t p => (losePort_lost t p).obj k hk

theorem losePorts_down (s : State) (p : PortId) : ((losePorts s).port p).st ≠ .up := by
  refine State.each_reaches (I := fun _ => True) (P := fun t => (t.port p).st ≠ .up) (List.mem_finRange p) (fun _ _ h => h)
    (fun t _ => (losePort_lost t p).down) (fun t q _ ht => ?_) trivial
  by_cases hq : p = q
  · exact hq ▸ (losePort_lost t q).down
  · rwa [(losePort_lost t q).others p hq]

end PortLoss

/-- Locks are only lost: beside them and the count of losses, references, ports and the count of lost references stand. -/
structure LocksLost (s t : State) : Prop where
  locks : ∀ (d : DieId) k, bitAt s.clocks.lock[d] k = false → bitAt t.clocks.lock[d] k = false
  serdes : t.clocks.serdesOk = s.clocks.serdesOk
  obj : t.obj 0x692003 = s.obj 0x692003
  ports : t.fabric = s.fabric

section Locks
variable {s t u : State}

theorem LocksLost.refl (s : State) : LocksLost s s := ⟨fun _ _ h => h, rfl, rfl, rfl⟩

theorem LocksLost.trans (h : LocksLost s t) (k : LocksLost t u) : LocksLost s u :=
  ⟨fun d n hlost => k.locks d n (h.locks d n hlost), k.serdes.trans h.serdes, k.obj.trans h.obj, k.ports.trans h.ports⟩

theorem LocksLost.each {α : Type} (s : State) (l : List α) {f : State → α → State} (h : ∀ t a, LocksLost t (f t a)) :
    LocksLost s (s.each l f) :=
  List.foldlRecOn (motive := LocksLost s) l f (.refl s) fun t ht a _ => ht.trans (h t a)

/-- The state with a PLL's lock lost, before it is counted and reported. -/
def lockCleared (s : State) (d : DieId) (pll : Nat) : State :=
  s.modClocks fun c => { c with
    lock := vmod c.lock d fun v => setBitAt v pll false, lost := kvSet none c.lost (16 * d.val + pll) (some s.now) }

/-- The count and the report of a lock lost, and the fault that a second loss is. -/
theorem loseLock_of_locked {d : DieId} {pll : Nat} (us : Nat) (hpll : hasPll d pll = true) (hlocked : bitAt s.clocks.lock[d] pll = true) :
    Worked ((lockCleared s d pll).bump 0x692002) (loseLock s d pll us) := by
  unfold loseLock
  rw [if_neg (by rw [hpll, hlocked]; decide)]
  extract_lets k twice s1 s2
  have h2 : Worked ((lockCleared s d pll).bump 0x692002) s2 := .ofNoted (raiseOn_noted ..)
  exact h2.trans (.when _ (enterFault_worked ..))

theorem loseLock_of_unlocked {d : DieId} {pll : Nat} (us : Nat) (h : hasPll d pll = true → bitAt s.clocks.lock[d] pll = false) :
    loseLock s d pll us = s := by
  unfold loseLock
  refine if_pos ?_
  cases hpll : hasPll d pll
  · rfl
  · rw [h hpll]
    rfl

theorem lockCleared_same (s : State) (d : DieId) (pll : Nat) : bitAt (lockCleared s d pll).clocks.lock[d] pll = false := by
  have hlock : (lockCleared s d pll).clocks.lock[d] = setBitAt s.clocks.lock[d] pll false := vmod_same ..
  rw [hlock, bitAt_setBitAt_same]

/-- A lock lost sets no other. -/
theorem lockCleared_locks (s : State) (d : DieId) (pll : Nat) (e : DieId) {k : Nat} (h : bitAt s.clocks.lock[e] k = false) :
    bitAt (lockCleared s d pll).clocks.lock[e] k = false := by
  by_cases he : e = d
  · have hlock : (lockCleared s d pll).clocks.lock[e] = setBitAt s.clocks.lock[e] pll false := by
      rw [he]
      exact vmod_same ..
    rw [bitAt_eq_testBit] at h
    rw [hlock, bitAt_eq_testBit, testBit_setBitAt, h, ite_self]
  · have hlock : (lockCleared s d pll).clocks.lock[e] = s.clocks.lock[e] := vmod_ne _ _ he
    rw [hlock, h]

theorem loseLock_lost (s : State) (d : DieId) (pll us : Nat) : LocksLost s (loseLock s d pll us) := by
  by_cases h : hasPll d pll = true ∧ bitAt s.clocks.lock[d] pll = true
  · have hw := loseLock_of_locked us h.1 h.2
    have hclocks : (loseLock s d pll us).clocks = (lockCleared s d pll).clocks := hw.keeps State.clocks
    refine ⟨fun e k hlost => ?_, (congrArg Clocks.serdesOk hclocks).trans rfl, ?_, hw.keeps State.fabric⟩
    · rw [hclocks]
      exact lockCleared_locks s d pll e hlost
    · exact (hw.obj 0x692003 (by decide)).trans (State.obj_bump_ne (s := lockCleared s d pll) (by decide))
  · rw [loseLock_of_unlocked us fun hpll => by simpa [hpll] using h]
    exact .refl s

theorem loseLock_clears {d : DieId} {pll : Nat} (us : Nat) (hpll : hasPll d pll = true) :
    bitAt (loseLock s d pll us).clocks.lock[d] pll = false := by
  cases hlocked : bitAt s.clocks.lock[d] pll
  · rw [loseLock_of_unlocked us fun _ => hlocked, hlocked]
  · rw [(loseLock_of_locked us hpll hlocked).keeps State.clocks]
    exact lockCleared_same s d pll

theorem losePlls_lost (s : State) : LocksLost s (losePlls s) := by
  have hdraw : LocksLost s s.draw.2 := ⟨fun _ _ h => h, rfl, rfl, rfl⟩
  exact hdraw.trans (.each _ _ fun t d => .each t _ fun u pll => loseLock_lost ..)

/-- Every die has PLLs 0 to 8, which the SerDes reference feeds. -/
theorem hasPll_serdes (d : DieId) {k : Nat} (hk : k < 9) : hasPll d k = true := by
  have hall : ∀ d : DieId, ∀ k : Fin 9, hasPll d k.val = true := by decide
  exact hall d ⟨k, hk⟩

theorem losePlls_clears (s : State) (d : DieId) {k : Nat} (hk : k < 9) : bitAt (losePlls s).clocks.lock[d] k = false := by
  have hdie (t : State) (us : Nat) :
      bitAt (t.each (List.range 9) fun u pll => loseLock u d pll us).clocks.lock[d] k = false :=
    State.each_reaches (I := fun _ => True) (P := fun u => bitAt u.clocks.lock[d] k = false) (List.mem_range.mpr hk)
      (fun _ _ h => h) (fun u _ => loseLock_clears us (hasPll_serdes d hk)) (fun u pll _ h => (loseLock_lost u d pll us).locks d k h)
      trivial
  exact State.each_reaches (I := fun _ => True) (P := fun t => bitAt t.clocks.lock[d] k = false) (List.mem_finRange d)
    (fun _ _ h => h) (fun t _ => hdie t _) (fun t e _ h => (LocksLost.each t _ fun u pll => loseLock_lost ..).locks d k h) trivial

end Locks

/-! ## Faults of the package (16 R354, 18 R413) -/

section Faults
variable (s : State)

theorem setDeviceState_state (st cause : Nat) : (setDeviceState s st cause).obj kDeviceState = st := by
  unfold setDeviceState
  split
  · assumption
  · rw [(notifyContrail_announced ..).obj _ (by decide), (mailboxState_announced _).obj _ (by decide),
      (raise_noted ..).obj _ (by decide), State.obj_setObj_ne _ _ (by decide), State.obj_setObj_same]

theorem setDeviceState_cause {st : Nat} (cause : Nat) (hst : s.obj kDeviceState ≠ st) :
    (setDeviceState s st cause).obj 0x100103 = cause := by
  unfold setDeviceState
  rw [if_neg hst, (notifyContrail_announced ..).obj _ (by decide), (mailboxState_announced _).obj _ (by decide),
    (raise_noted ..).obj _ (by decide), State.obj_setObj_same]

/-- The state in FAULT, before the bring-up's stage says so. -/
def faultEntered (cause : Nat) : State := freezeImage (driveReady (setDeviceState s 4 cause) false)

theorem driveReady_dict (level : Bool) : (driveReady s level).dict = s.dict := by
  unfold driveReady
  split <;> rfl

theorem enterFault_obj {cause : Nat} (hstate : s.obj kDeviceState ≠ 4) (k : Nat) :
    (enterFault s cause).obj k = (setDeviceState s 4 cause).obj k := by
  unfold enterFault
  rw [if_neg hstate]
  exact obj_of_dict (driveReady_dict (setDeviceState s 4 cause) false) k

theorem enterFault_state (cause : Nat) : (enterFault s cause).obj kDeviceState = stFault := by
  by_cases hstate : s.obj kDeviceState = 4
  · unfold enterFault
    rw [if_pos hstate, hstate]
    rfl
  · rw [enterFault_obj s hstate, setDeviceState_state]
    rfl

theorem enterFault_cause {cause : Nat} (hstate : s.obj kDeviceState ≠ 4) : (enterFault s cause).obj 0x100103 = cause := by
  rw [enterFault_obj s hstate, setDeviceState_cause s cause hstate]

end Faults

/-! ## The commands (20 R456, R457) -/

theorem exec_pllUnlock (d : DieId) (pll : Fin 13) (us : Nat) (s : State) :
    exec (.pllUnlock d pll us) s = .next (loseLock s d pll.val us) := rfl
theorem exec_refclkReturn (ref : Fin 2) (rate width : BitVec 8) (s : State) :
    exec (.refclkReturn ref rate width) s = execRefclkReturn ref rate width s := rfl

section Clocks
variable {s : State}

theorem pllUnlock_loses {d : DieId} {pll : Fin 13} (us : Nat) (hpll : hasPll d pll.val = true)
    (hlocked : bitAt s.clocks.lock[d] pll.val = true) : ∃ t, exec (.pllUnlock d pll us) s = .next t ∧
      bitAt t.clocks.lock[d] pll.val = false ∧ t.obj 0x692002 = (s.obj 0x692002 + 1) % 2 ^ objWidth 0x692002 := by
  refine ⟨_, exec_pllUnlock .., loseLock_clears us hpll, ?_⟩
  rw [(loseLock_of_locked us hpll hlocked).obj 0x692002 (by decide), State.obj_bump_same]
  rfl

theorem pllRelock_locks {d : DieId} {pll : Fin 13} (hpll : hasPll d pll.val = true) (hfed : fedPll s pll.val = true)
    (hstage : 3 ≤ s.life.stage) : ∃ t, exec (.pllRelock d pll) s = .next t ∧
      bitAt t.clocks.lock[d] pll.val = true ∧ t.dict = s.dict ∧ t.cores = s.cores := by
  refine ⟨s.modClocks fun c => { c with lock := vmod c.lock d fun v => setBitAt v pll.val true },
    congrArg Host.Outcome.next (if_pos (by simp [hpll, hfed, hstage])), ?_, rfl, rfl⟩
  have hlock : (vmod s.clocks.lock d fun v => setBitAt v pll.val true)[d] = setBitAt s.clocks.lock[d] pll.val true := vmod_same ..
  exact (congrArg (bitAt · pll.val) hlock).trans (bitAt_setBitAt_same ..)

/-- The state in which the loss of a reference is counted and reported. -/
def refLost (s : State) (ref khz : Nat) : State := raise (s.bump 0x692003) 98 ref khz

theorem refLost_counts (s : State) (ref khz : Nat) :
    (refLost s ref khz).obj 0x692003 = (s.obj 0x692003 + 1) % 2 ^ objWidth 0x692003 := by
  rw [refLost, (raise_noted ..).obj _ (by decide), State.obj_bump_same]

theorem linkDown_obj (s : State) {k : Nat} (hrate : k ≠ 0x690006) (hwidth : k ≠ 0x690007) : (linkDown s).obj k = s.obj k :=
  (State.obj_setObj_ne (s.setObj 0x690006 0) 0 hwidth).trans (State.obj_setObj_ne s 0 hrate)

theorem refLost_cores (s : State) (ref khz : Nat) : (refLost s ref khz).cores = s.cores := (raise_noted (s.bump 0x692003) 98 ref khz).cores

/-- Without the PCIe reference. -/
def pcieLost (s : State) : State := s.modClocks fun c => { c with pcieOk := false }

/-- Without the SerDes reference. -/
def serdesLost (s : State) : State := s.modClocks fun c => { c with serdesOk := false }

/-- On the internal always-on clock, with the image asked to stop. -/
def aonLost (s : State) : State := stopRequest (s.modClocks fun c => { c with aonInternal := true }) 98

theorem exec_refclkLoss_pcie (khz : Nat) (s : State) : exec (.refclkLoss 0 khz) s = .next (linkDown (pcieLost (refLost s 0 khz))) := rfl
theorem exec_refclkLoss_serdes (khz : Nat) (s : State) :
    exec (.refclkLoss 1 khz) s = .next (losePlls (losePorts (serdesLost (refLost s 1 khz)))) := rfl
theorem exec_refclkLoss_aon (khz : Nat) (s : State) : exec (.refclkLoss 2 khz) s = .next (enterFault (aonLost (refLost s 2 khz)) 98) := rfl

theorem pcieLost_linkDown (s : State) : (linkDown (pcieLost s)).host.linkUp = false ∧ (linkDown (pcieLost s)).clocks.pcieOk = false ∧
    (linkDown (pcieLost s)).cores = s.cores ∧ (linkDown (pcieLost s)).obj 0x692003 = s.obj 0x692003 :=
  ⟨rfl, rfl, rfl, linkDown_obj (pcieLost s) (by decide) (by decide)⟩

theorem serdesLost_stops (s : State) : (losePlls (losePorts (serdesLost s))).clocks.serdesOk = false ∧
    (∀ p, ((losePlls (losePorts (serdesLost s))).port p).st ≠ .up) ∧
    (losePlls (losePorts (serdesLost s))).obj 0x692003 = s.obj 0x692003 := by
  have hplls := losePlls_lost (losePorts (serdesLost s))
  refine ⟨?_, fun p => ?_, hplls.obj.trans (losePorts_obj (serdesLost s) (by decide))⟩
  · rw [hplls.serdes, losePorts_clocks]
    rfl
  · have hport : (losePlls (losePorts (serdesLost s))).port p = (losePorts (serdesLost s)).port p :=
      congrArg (fun f : Fabric => f.ports[p]) hplls.ports
    rw [hport]
    exact losePorts_down _ p

theorem aonLost_faults (s : State) : (enterFault (aonLost s) 98).clocks.aonInternal = true ∧
    (enterFault (aonLost s) 98).obj 0x692003 = s.obj 0x692003 := by
  have hworked := enterFault_worked (aonLost s) 98
  refine ⟨?_, hworked.obj 0x692003 (by decide)⟩
  rw [hworked.keeps State.clocks]
  rfl

theorem refclkLoss_takes (ref : Fin 3) (khz : Nat) (s : State) : ∃ t, exec (.refclkLoss ref khz) s = .next t ∧
    t.obj 0x692003 = (s.obj 0x692003 + 1) % 2 ^ objWidth 0x692003 ∧
    (ref = 0 → t.host.linkUp = false ∧ t.clocks.pcieOk = false ∧ t.cores = s.cores) ∧
    (ref = 1 → t.clocks.serdesOk = false ∧ (∀ d : DieId, ∀ k < 9, bitAt t.clocks.lock[d] k = false) ∧ ∀ p, (t.port p).st ≠ .up) ∧
    (ref = 2 → t.clocks.aonInternal = true ∧ t.obj kDeviceState = stFault) := by
  have href : ref = 0 ∨ ref = 1 ∨ ref = 2 := by omega
  rcases href with rfl | rfl | rfl
  · obtain ⟨hlink, hclock, hcores, hobj⟩ := pcieLost_linkDown (refLost s 0 khz)
    exact ⟨_, exec_refclkLoss_pcie khz s, hobj.trans (refLost_counts ..),
      fun _ => ⟨hlink, hclock, hcores.trans (refLost_cores ..)⟩, fun h => absurd h (by decide), fun h => absurd h (by decide)⟩
  · obtain ⟨hserdes, hports, hobj⟩ := serdesLost_stops (refLost s 1 khz)
    exact ⟨_, exec_refclkLoss_serdes khz s, hobj.trans (refLost_counts ..), fun h => absurd h (by decide),
      fun _ => ⟨hserdes, fun d k hk => losePlls_clears _ d hk, hports⟩, fun h => absurd h (by decide)⟩
  · obtain ⟨haon, hobj⟩ := aonLost_faults (refLost s 2 khz)
    exact ⟨_, exec_refclkLoss_aon khz s, hobj.trans (refLost_counts ..), fun h => absurd h (by decide),
      fun h => absurd h (by decide), fun _ => ⟨haon, enterFault_state _ 98⟩⟩

theorem trainLink_trains {rate width : Nat} (hlow : s.host.perstLow = false) (hstage : 3 ≤ s.life.stage)
    (hclock : s.clocks.pcieOk = true) (htrip : s.power.tripped = false) : (trainLink s rate width).host.linkUp = true ∧
      (trainLink s rate width).clocks = s.clocks ∧ (trainLink s rate width).obj 0x690006 = rate ∧
      (trainLink s rate width).obj 0x690007 = width := by
  have hready : ¬ (s.host.perstLow || s.life.stage < 3 || !s.clocks.pcieOk || s.power.tripped) = true := by
    simp [hlow, hclock, htrip]
    omega
  unfold trainLink
  rw [if_neg hready]
  have hrate : ((s.setObj 0x690006 rate).setObj 0x690007 width).obj 0x690006 = rate := by
    rw [State.obj_setObj_ne _ _ (by decide), State.obj_setObj_same]
  have hwidth : ((s.setObj 0x690006 rate).setObj 0x690007 width).obj 0x690007 = width := State.obj_setObj_same ..
  exact ⟨rfl, rfl, hrate, hwidth⟩

theorem refclkReturn_returns (rate width : BitVec 8) (hstage : 3 ≤ s.life.stage) :
    (s.clocks.pcieOk = false → s.host.perstLow = false → s.power.tripped = false →
      ∃ t, exec (.refclkReturn 0 rate width) s = .next t ∧ t.clocks.pcieOk = true ∧ t.host.linkUp = true ∧
        t.obj 0x690006 = rate.toNat ∧ t.obj 0x690007 = width.toNat) ∧
    exec (.refclkReturn 1 rate width) s = .next (s.modClocks fun c => { c with serdesOk := true }) := by
  have hstarted : ¬ s.life.stage < 3 := by omega
  refine ⟨fun hlost hlow htrip => ?_, ?_⟩
  · obtain ⟨hup, hclocks, hrate, hwidth⟩ := trainLink_trains (s := s.modClocks fun c => { c with pcieOk := true })
      (rate := rate.toNat) (width := width.toNat) hlow hstage rfl htrip
    refine ⟨trainLink (s.modClocks fun c => { c with pcieOk := true }) rate.toNat width.toNat, ?_, by rw [hclocks]; rfl, hup, hrate, hwidth⟩
    rw [exec_refclkReturn, execRefclkReturn, if_neg hstarted, if_pos (show (0 : Fin 2).val = 0 from rfl), if_neg (by simp [hlost])]
  · rw [exec_refclkReturn, execRefclkReturn, if_neg hstarted, if_neg (by decide)]

end Clocks

end Sys2Proof.Machine
end

section
/-!
Proofs: package resets, and bring-up to its third stage (18 R396 to R402).
-/
namespace Sys2Proof.Machine

theorem exec_vddAonRise (testEn cool : Bool) (s : State) : exec (.vddAonRise testEn cool) s = execVddAonRise testEn cool s := rfl
theorem exec_sysResetNLow (testEn cool : Bool) (s : State) : exec (.sysResetNLow testEn cool) s = execSysResetNLow testEn cool s := rfl
theorem exec_vddAonLoss (s : State) : exec .vddAonLoss s = execVddAonLoss s := rfl
theorem exec_bootRom (s : State) : exec .bootRom s = execBootRom s := rfl
theorem exec_firmwareStart (rails : BitVec 20) (order : List (Fin 20)) (bridges : BitVec 10) (rate width : BitVec 8) (s : State) :
    exec (.firmwareStart rails order bridges rate width) s = execFirmwareStart rails order bridges rate width s := rfl
theorem exec_railsWaiting (rails : BitVec 20) (s : State) : exec (.railsWaiting rails) s = execRailsWaiting rails s := rfl
theorem exec_pendingSlotTimeout (s : State) : exec .pendingSlotTimeout s = execPendingSlotTimeout s := rfl

/-! ## Resets of the package (18 R396 to R398, R401) -/

section Resets
variable (s : State)

/-- The state of a package that was reset, with TEST_EN as its pin is. -/
def testLatched (cause : Nat) (cool testEn : Bool) : State := (packageReset s cause cool).modLife fun l => { l with testEn := testEn }

theorem testLatched_starts (cause : Nat) (cool testEn : Bool) : (testLatched s cause cool testEn).powered = true ∧
    (testLatched s cause cool testEn).life.stage = 1 ∧ (testLatched s cause cool testEn).life.lastPackage = cause ∧
    (testLatched s cause cool testEn).life.testEn = testEn ∧ (testLatched s cause cool testEn).obj kDeviceState = stBoot ∧
    (testLatched s cause cool testEn).mem = [] := by
  have hlife (α : Type) (g : Life → α) : g (testLatched s cause cool testEn).life =
      g { keptLife s.life cause with beganAt := s.now, testEn := testEn } :=
    congrArg (fun l : Life => g { l with testEn := testEn }) (packageReset_life s cause cool)
  exact ⟨hlife Bool fun l => !l.aonOff, hlife Nat Life.stage, hlife Nat Life.lastPackage, hlife Bool Life.testEn,
    packageReset_boots s cause cool, packageReset_mem s cause cool⟩

/-- The package without VDD_AON. -/
def aonOff : State :=
  let t := keptState s 0 s.power.tripped
  { t with
    dict := [], dies := Vector.replicate 8 DieMem.reset
    power := { Power.reset with tripped := s.power.tripped }
    life := { t.life with lastPackage := 0, packageResets := 0, fails := [], aonOff := true, aonLost := true } }

theorem vddAonLoss_loses (hup : s.powered = true) : exec .vddAonLoss s = .next (aonOff s) := by
  rw [exec_vddAonLoss]
  exact congrArg Host.Outcome.next (if_neg (by simp [hup]))

/-- The package with the mark of the running slot cleared. -/
def slotUnmarked : State :=
  s.modLife fun l => { l with slots := vmod l.slots s.life.running fun x => { x with pending := false } }

theorem abandonSlot_noted : Noted (packageReset (slotUnmarked s) 5 false) (abandonSlot s) := by
  unfold abandonSlot
  exact raise_noted ..

theorem pendingSlotTimeout_abandons (htrial : s.life.trial = true) (hstate : s.obj kDeviceState = stBoot) :
    ∃ t, exec .pendingSlotTimeout s = .next t ∧ t.life.stage = 1 ∧ t.life.lastPackage = 5 ∧
      (t.life.slots[s.life.running]).pending = false ∧ t.mem = [] := by
  have hlife : (abandonSlot s).life = { keptLife (slotUnmarked s).life 5 with beganAt := s.now } :=
    (abandonSlot_noted s).life.trans (packageReset_life ..)
  have hslot : (vmod s.life.slots s.life.running fun x => { x with pending := false })[s.life.running] =
      { s.life.slots[s.life.running] with pending := false } := vmod_same ..
  refine ⟨abandonSlot s, ?_, ?_, ?_, ?_, (abandonSlot_noted s).mem.trans (packageReset_mem ..)⟩
  · rw [exec_pendingSlotTimeout]
    exact congrArg Host.Outcome.next (if_pos (by simp [htrial, hstate]))
  · rw [hlife]
    rfl
  · rw [hlife]
    rfl
  · rw [hlife]
    exact congrArg FwSlot.pending hslot

end Resets

theorem packageResets_restart (testEn cool : Bool) (s : State) :
    (s.powered = false → ∃ t, exec (.vddAonRise testEn cool) s = .next t ∧ t.powered = true ∧ t.life.stage = 1 ∧
      t.life.lastPackage = 1 ∧ t.life.testEn = testEn ∧ t.obj kDeviceState = stBoot ∧ t.mem = []) ∧
    (s.powered = true → (∃ t, exec (.sysResetNLow testEn cool) s = .next t ∧ t.life.stage = 1 ∧ t.life.lastPackage = 2 ∧
        t.life.testEn = testEn ∧ t.obj kDeviceState = stBoot ∧ t.mem = []) ∧
      (∃ t, exec .vddAonLoss s = .next t ∧ t.powered = false ∧ t.mem = [] ∧ t.dict = [] ∧ t.life.slots = s.life.slots ∧
        t.life.fuse = s.life.fuse ∧ t.life.health = s.life.health)) := by
  refine ⟨fun hdown => ?_, fun hup => ⟨?_, aonOff s, vddAonLoss_loses s hup, rfl, rfl, rfl, rfl, rfl, rfl⟩⟩
  · refine ⟨testLatched (s.modLife fun l => { l with aonOff := false }) 1 cool testEn, ?_, testLatched_starts ..⟩
    rw [exec_vddAonRise]
    exact congrArg Host.Outcome.next (if_neg (by simp [hdown]))
  · refine ⟨testLatched s 2 cool testEn, ?_, (testLatched_starts ..).2⟩
    rw [exec_sysResetNLow]
    exact congrArg Host.Outcome.next (if_pos hup)

/-! ## The boot ROM (18 R401) -/

section Boot
variable {s : State}

/-- The boot ROM runs. -/
structure Boots (s : State) : Prop where
  powered : s.powered = true
  stage : s.life.stage = 1
  testEn : s.life.testEn = false
  tripped : s.power.tripped = false

theorem bootRom_of_boots (h : Boots s) : exec .bootRom s = .next (match gradeOf s.life.fuse with
      | none => enterFault (raise s 172 s.life.fuse 0) 172
      | some _ =>
        match chooseSlot s with
        | none => enterFault s 0
        | some (i, trial, fallback) =>
          let s1 := gradeObjects (s.modLife fun l => { l with stage := 2, running := i, trial := trial })
          s1.when fallback fun t => raise t 169 i.val (otherSlot i).val) := by
  rw [exec_bootRom]
  exact congrArg Host.Outcome.next (if_neg (by simp [h.powered, h.stage, h.testEn, h.tripped]))

theorem gradeObjects_cap (s : State) : (gradeObjects s).obj 0xA00001 = s.grade.cap := by
  unfold gradeObjects
  extract_lets g s1 s2 s3
  have h1 : s1.obj 0xA00001 = g.cap := by
    rw [State.obj_setObj_ne _ _ (by decide), State.obj_setObj_ne _ _ (by decide), State.obj_setObj_ne _ _ (by decide),
      State.obj_setObj_same]
  have h3 : s3.obj 0xA00001 = s1.obj 0xA00001 := by
    rw [State.obj_setObj_ne _ _ (by decide), State.obj_setObj_ne _ _ (by decide)]
  exact h3.trans h1

theorem gradeObjects_budget (s : State) : (gradeObjects s).power.budget = s.grade.cap := by
  unfold gradeObjects
  extract_lets g s1 s2 s3
  rfl

/-- What is neither an object nor the power budget, the grade does not fix. -/
theorem gradeObjects_keeps {β : Type} (f : State → β) (hobj : ∀ (t : State) k v, f (t.setObj k v) = f t := by intros; rfl)
    (hpower : ∀ (t : State) p, f { t with power := p } = f t := by intros; rfl) (s : State) : f (gradeObjects s) = f s := by
  unfold gradeObjects
  extract_lets g s1 s2 s3
  have h1 : f s1 = f s := (hobj ..).trans ((hobj ..).trans ((hobj ..).trans (hobj ..)))
  exact (hpower ..).trans ((hobj ..).trans ((hobj ..).trans h1))

/-- The state in which a slot starts in stage 2. -/
def slotStarted (s : State) (i : Fin 2) (trial : Bool) : State :=
  gradeObjects (s.modLife fun l => { l with stage := 2, running := i, trial := trial })

theorem slotStarted_starts {g : Grade} (hgrade : gradeOf s.life.fuse = some g) (i : Fin 2) (trial : Bool) :
    (slotStarted s i trial).life.stage = 2 ∧ (slotStarted s i trial).life.running = i ∧ (slotStarted s i trial).life.trial = trial ∧
      (slotStarted s i trial).obj 0xA00001 = g.cap ∧ (slotStarted s i trial).power.budget = g.cap ∧
      (slotStarted s i trial).mem = s.mem := by
  have hfused : (s.modLife fun l => { l with stage := 2, running := i, trial := trial }).grade = g := by
    have hsame : (s.modLife fun l => { l with stage := 2, running := i, trial := trial }).grade = s.grade := rfl
    rw [hsame, State.grade, hgrade]
    rfl
  have hlife : (slotStarted s i trial).life = { s.life with stage := 2, running := i, trial := trial } :=
    gradeObjects_keeps State.life (s := _)
  refine ⟨by rw [hlife], by rw [hlife], by rw [hlife], ?_, ?_, gradeObjects_keeps State.mem (s := _)⟩
  · rw [slotStarted, gradeObjects_cap, hfused]
  · rw [slotStarted, gradeObjects_budget, hfused]

/-- What a fallback raises is an event. -/
theorem slotFallback_noted (t : State) (fallback : Bool) (n d0 d1 : Nat) : Noted t (t.when fallback fun u => raise u n d0 d1) :=
  .when _ (raise_noted ..)

theorem bootRom_starts (h : Boots s) (hstate : s.obj kDeviceState = stBoot) :
    (gradeOf s.life.fuse = none → ∃ t, exec .bootRom s = .next t ∧ t.obj kDeviceState = stFault ∧ t.obj 0x100103 = 172) ∧
    (∀ g, gradeOf s.life.fuse = some g → (chooseSlot s = none → ∃ t, exec .bootRom s = .next t ∧ t.obj kDeviceState = stFault) ∧
      ∀ i trial fb, chooseSlot s = some (i, trial, fb) → ∃ t, exec .bootRom s = .next t ∧ t.life.stage = 2 ∧
        t.life.running = i ∧ t.life.trial = trial ∧ t.obj 0xA00001 = g.cap ∧ t.power.budget = g.cap ∧ t.mem = s.mem) := by
  have hexec := bootRom_of_boots h
  refine ⟨fun hgrade => ?_, fun g hgrade => ⟨fun hslot => ?_, fun i trial fb hslot => ?_⟩⟩
  · rw [hgrade] at hexec
    have hboot : (raise s 172 s.life.fuse 0).obj kDeviceState ≠ 4 := by
      rw [(raise_noted ..).obj _ (by decide), hstate]
      decide
    exact ⟨_, hexec, enterFault_state _ 172, enterFault_cause _ hboot⟩
  · rw [hgrade, hslot] at hexec
    exact ⟨_, hexec, enterFault_state s 0⟩
  · rw [hgrade, hslot] at hexec
    have hnoted := slotFallback_noted (slotStarted s i trial) fb 169 i.val (otherSlot i).val
    obtain ⟨hstage, hrunning, htrial, hcap, hbudget, hmem⟩ := slotStarted_starts hgrade i trial
    refine ⟨_, hexec, (congrArg Life.stage hnoted.life).trans hstage, (congrArg Life.running hnoted.life).trans hrunning,
      (congrArg Life.trial hnoted.life).trans htrial, (hnoted.obj _ (by decide)).trans hcap,
      (congrArg Power.budget hnoted.power).trans hbudget, hnoted.mem.trans hmem⟩

end Boot

/-! ## The firmware's start (18 R402) -/

section Start
variable (s : State) (order : List Nat)

/-- The objects that the health record restores. -/
def healthObjects : List Nat := [0xC21001, 0xC30004, 0xC21002, 0xA03003, 0xC30002, 0xA03001]

theorem restoreHealth_keeps {β : Type} (f : State → β) (hobj : ∀ (t : State) k v, k ∈ healthObjects → f (t.setObj k v) = f t)
    (hrest : ∀ (t : State) lost fails p, f { t with life := { t.life with aonLost := lost, fails := fails }, power := p } = f t) :
    f (restoreHealth s) = f s := by
  have hlost : f (s.modLife fun l => { l with aonLost := false }) = f s := hrest s false s.life.fails s.power
  unfold restoreHealth
  split
  · rfl
  · extract_lets s1
    split
    · exact hlost
    · rename_i ns fails _
      extract_lets guards s2 power life s3 s4
      have h2 : f s2 = f s1 :=
        (hobj _ _ _ (by decide)).trans ((hobj _ _ _ (by decide)).trans (hobj _ _ _ (by decide)))
      have h3 : f s3 = f s2 := hrest s2 s2.life.aonLost fails _
      have h4 : f s4 = f s3 := (hobj _ _ _ (by decide)).trans (hobj _ _ _ (by decide))
      exact (hobj _ _ _ (by decide)).trans (h4.trans (h3.trans (h2.trans hlost)))

theorem restoreHealth_obj {key : Nat} (h : key ∉ healthObjects) : (restoreHealth s).obj key = s.obj key :=
  restoreHealth_keeps s (·.obj key) (fun t _ v hk => State.obj_setObj_ne t v fun e => h (e ▸ hk)) fun _ _ _ _ => rfl

theorem recordRails_noted : Noted (s.modLife fun l => { l with railOrder := order }) (recordRails s order) := by
  unfold recordRails
  extract_lets s1
  split
  · exact .refl s1
  · exact raise_noted ..

/-- The health record restored, and the order of the rails recorded. -/
def railsRecorded : State := recordRails (setLevel (restoreHealth s) 170 false 0 0) order

theorem railsRecorded_order : (railsRecorded s order).life.railOrder = order :=
  congrArg Life.railOrder (recordRails_noted (setLevel (restoreHealth s) 170 false 0 0) order).life

theorem railsRecorded_obj {key : Nat} (hhealth : key ∉ healthObjects) (hevent : key ∉ eventCounters) :
    (railsRecorded s order).obj key = s.obj key := by
  have hrails : (railsRecorded s order).obj key = (setLevel (restoreHealth s) 170 false 0 0).obj key :=
    (recordRails_noted (setLevel (restoreHealth s) 170 false 0 0) order).obj key hevent
  rw [hrails, (setLevel_noted ..).obj key hevent, restoreHealth_obj s hhealth]

/-- Stage 3 begun, before ports and links train. -/
def clocksStarted : State :=
  State.modLife { s with
    clocks := { s.clocks with lock := Vector.ofFn fun d => allLocked d.val, serdesOk := true, pcieOk := true }
    power := { s.power with dies := s.power.dies.map fun (x : PowerDie) => { x with voltage := 750 } } }
    fun l => { l with stage := 3, railsWaited := false }

theorem clocksStarted_lock (d : DieId) : (clocksStarted s).clocks.lock[d] = allLocked d.val := Vector.getElem_ofFn ..

theorem clocksStarted_stage : (clocksStarted s).life.stage = 3 := rfl

theorem clocksStarted_order : (clocksStarted s).life.railOrder = s.life.railOrder := rfl

theorem startPorts_keeps {β : Type} (f : State → β) (hport : ∀ (t : State) p g, f (t.modPort p g) = f t := by intros; rfl) :
    f (startPorts s) = f s :=
  State.each_keeps s f _ _ fun t p => hport t p _

theorem startPorts_trains {p : PortId} (h : bitAt (s.obj 0x260001) p.val = true) :
    ((startPorts s).port p).en = true ∧ ((startPorts s).port p).st = .training := by
  refine State.each_reaches (I := fun _ => True) (P := fun t => (t.port p).en = true ∧ (t.port p).st = .training)
    (List.mem_filter.mpr ⟨List.mem_finRange p, h⟩) (fun _ _ h => h) (fun t _ => ?_) (fun t q _ ht => ?_) trivial
  · rw [State.port_modPort_same]
    exact ⟨rfl, rfl⟩
  · by_cases hq : p = q
    · subst hq
      rw [State.port_modPort_same]
      exact ⟨rfl, rfl⟩
    · rwa [State.port_modPort_ne t _ hq]

theorem trainLink_keeps {β : Type} (f : State → β) (rate width : Nat) (hobj : ∀ (t : State) k v, f (t.setObj k v) = f t := by intros; rfl)
    (hhost : ∀ (t : State) h, f { t with host := h } = f t := by intros; rfl) : f (trainLink s rate width) = f s := by
  unfold trainLink
  split
  · rfl
  · exact (hhost ..).trans ((hobj ..).trans (hobj ..))

/-- Stage 3 begun: PLLs, ports and the host link. -/
def firmwareUp (rate width : Nat) : State := trainLink (startPorts (clocksStarted (railsRecorded s order))) rate width

theorem firmwareUp_keeps {β : Type} (f : State → β) (rate width : Nat) (hobj : ∀ (t : State) k v, f (t.setObj k v) = f t := by intros; rfl)
    (hhost : ∀ (t : State) h, f { t with host := h } = f t := by intros; rfl)
    (hport : ∀ (t : State) p g, f (t.modPort p g) = f t := by intros; rfl) :
    f (firmwareUp s order rate width) = f (clocksStarted (railsRecorded s order)) :=
  (trainLink_keeps _ f rate width hobj hhost).trans (startPorts_keeps _ f hport)

theorem firmwareUp_port (rate width : Nat) {p : PortId} (h : bitAt (s.obj 0x260001) p.val = true) :
    ((firmwareUp s order rate width).port p).en = true ∧ ((firmwareUp s order rate width).port p).st = .training := by
  have hfabric : (firmwareUp s order rate width).fabric = (startPorts (clocksStarted (railsRecorded s order))).fabric :=
    trainLink_keeps _ State.fabric rate width
  have hport : (firmwareUp s order rate width).port p = (startPorts (clocksStarted (railsRecorded s order))).port p :=
    congrArg (fun f : Fabric => f.ports[p]) hfabric
  have hobj : (clocksStarted (railsRecorded s order)).obj 0x260001 = s.obj 0x260001 :=
    railsRecorded_obj s order (by decide) (by decide)
  rw [hport]
  exact startPorts_trains _ (by rw [hobj, h])

end Start

section Firmware
variable {s : State} (order : List (Fin 20)) (rate width : BitVec 8)

theorem firmwareStart_of_rails (bridges : BitVec 10) (hstage : s.life.stage = 2) :
    exec (.firmwareStart 0 order bridges rate width) s = .next ((firmwareUp s (order.map (·.val)) rate.toNat width.toNat).each
      (onesOf 10 bridges.toNat) fun t n => failUnit t (.bridge n) 0) := by
  have hready : ¬ (s.life.stage != 2 || (0 : BitVec 20) != 0) = true := by simp [hstage]
  rw [exec_firmwareStart, execFirmwareStart, if_neg hready]
  rfl

theorem firmwareStart_starts (hstage : s.life.stage = 2) : ∃ t, exec (.firmwareStart 0 order 0 rate width) s = .next t ∧
    t.life.stage = 3 ∧ t.life.railOrder = order.map (·.val) ∧ (∀ d : DieId, t.clocks.lock[d] = allLocked d.val) ∧
    ∀ p : PortId, bitAt (s.obj 0x260001) p.val = true → (t.port p).en = true ∧ (t.port p).st = .training := by
  have hnone : onesOf 10 (0 : BitVec 10).toNat = [] := by decide
  have hexec : exec (.firmwareStart 0 order 0 rate width) s = .next (firmwareUp s (order.map (·.val)) rate.toNat width.toNat) := by
    rw [firmwareStart_of_rails order rate width 0 hstage, hnone]
    rfl
  have hlife := firmwareUp_keeps s (order.map (·.val)) State.life rate.toNat width.toNat
  have hclocks := firmwareUp_keeps s (order.map (·.val)) State.clocks rate.toNat width.toNat
  refine ⟨_, hexec, ?_, ?_, fun d => ?_, fun p hp => firmwareUp_port s _ _ _ hp⟩
  · rw [hlife, clocksStarted_stage]
  · rw [hlife, clocksStarted_order, railsRecorded_order]
  · rw [hclocks, clocksStarted_lock]

/-- A number that is not 0 has one of its bits set. -/
theorem onesOf_of_ne_zero {b : BitVec 10} (h : b ≠ 0) : ∃ n, n ∈ onesOf 10 b.toNat := by
  have hne : b.toNat ≠ 0 := fun e => h (BitVec.eq_of_toNat_eq e)
  obtain ⟨n, hn⟩ := Nat.exists_testBit_of_ne_zero hne
  have hlt : n < 10 := by
    by_contra hge
    have hsmall : b.toNat < 2 ^ n := Nat.lt_of_lt_of_le b.isLt (Nat.pow_le_pow_right (by decide) (by omega))
    rw [Nat.testBit_lt_two_pow hsmall] at hn
    exact nomatch hn
  exact ⟨n, List.mem_filter.mpr ⟨List.mem_range.mpr hlt, by rw [bitAt_eq_testBit, hn]⟩⟩

theorem firmwareStart_faults {bridges : BitVec 10} (hstage : s.life.stage = 2) (hbridges : bridges ≠ 0) :
    ∃ t, exec (.firmwareStart 0 order bridges rate width) s = .next t ∧ t.obj kDeviceState = stFault := by
  obtain ⟨n, hn⟩ := onesOf_of_ne_zero hbridges
  exact ⟨_, firmwareStart_of_rails order rate width bridges hstage, State.each_reaches (I := fun _ => True)
    (P := fun t => t.obj kDeviceState = stFault) hn (fun _ _ h => h) (fun t _ => enterFault_state _ 0)
    (fun t b _ _ => enterFault_state _ 0) trivial⟩

theorem railsWaiting_raises (rails : BitVec 20) (hstage : s.life.stage = 2) (hwaited : s.life.railsWaited = false) :
    ∃ t, exec (.railsWaiting rails) s = .next t ∧ t.life.railsWaited = true ∧ t.life.stage = 2 ∧ (t.src 170).level = true := by
  have hlife := (setLevel_noted (s.modLife fun l => { l with railsWaited := true }) 170 true rails.toNat 0).life
  refine ⟨_, ?_, congrArg Life.railsWaited hlife, (congrArg Life.stage hlife).trans hstage, setLevel_src_level ..⟩
  rw [exec_railsWaiting]
  exact congrArg Host.Outcome.next (if_neg (by simp [hstage, hwaited]))

end Firmware

end Sys2Proof.Machine
end

section
/-!
Proofs: bring-up from its third stage to PREOP, and the end of a compute reset (18 R403 to R416).
-/
namespace Sys2Proof.Machine

theorem exec_stratusBringup (d : DieId) (bond : BondResult) (s : State) :
    exec (.stratusBringup d bond) s = execStratusBringup d bond s := rfl
theorem exec_hbmBringup (d : DieId) (fails repaired : List Nat) (s : State) :
    exec (.hbmBringup d fails repaired) s = execHbmBringup d fails repaired s := rfl
theorem exec_computeBringup (swatch : List (List (Nat × Nat))) (s : State) :
    exec (.computeBringup swatch) s = execComputeBringup swatch s := rfl
theorem exec_computeResetContinue (bond : List BondResult) (swatch : List (List (Nat × Nat))) (s : State) :
    exec (.computeResetContinue bond swatch) s = execComputeResetContinue bond swatch s := rfl

/-! ## What the tests of bring-up leave alone -/

/-- The state with all that the tests of bring-up and the faults they find can reach put aside: memory, the dictionary, the cores,
the run's phase, the fenced units, and of the life cycle the stage, READY, spare lanes and rows and the map of the cores. -/
def State.withoutBringup (s : State) : State :=
  { s.withoutNews with
    dict := [], mem := [], pageDev := [], byteDev := [], cores := State.reset.cores, run := { s.run with phase := .loaded }
    wear := .reset
    life := { s.life with
      stage := 0, ready := false, lanes := [], rows := [], fails := [], phys := Life.reset.phys, present := 0, dGrade := false
      bondDue := none, bondRaised := none } }

/-- What a test of bring-up can do: the units, the run's image, the dies' tables and the rest of the life cycle stand as they were. -/
def Brought (s t : State) : Prop := t.withoutBringup = s.withoutBringup

namespace Brought

theorem refl (s : State) : Brought s s := rfl

theorem trans {s t u : State} (h : Brought s t) (k : Brought t u) : Brought s u := Eq.trans k h

theorem when {s : State} (b : Bool) {f : State → State} (h : Brought s (f s)) : Brought s (s.when b f) := by
  cases b
  · exact refl s
  · exact h

theorem ite {s t u : State} {p : Prop} {_ : Decidable p} (h : Brought s t) (k : Brought s u) : Brought s (if p then t else u) := by
  split
  · exact h
  · exact k

theorem each {α : Type} (s : State) (l : List α) {f : State → α → State} (h : ∀ t a, Brought t (f t a)) : Brought s (s.each l f) :=
  List.foldlRecOn (motive := Brought s) l f (refl s) fun t ht a _ => ht.trans (h t a)

theorem ofAnnounced {s t : State} (h : Announced s t) : Brought s t := h.keeps State.withoutBringup

theorem ofNoted {s t : State} (h : Noted s t) : Brought s t := ofAnnounced h.announced

theorem setObj (s : State) (k v : Nat) : Brought s (s.setObj k v) := rfl

/-- What no test of bring-up reaches stands as it was. -/
theorem keeps {β : Type} (g : State → β) {s t : State} (h : Brought s t)
    (hg : ∀ u : State, g u.withoutBringup = g u := by intro _; rfl) : g t = g s := by
  rw [← hg t, h, hg]

end Brought

section Tests
variable (s : State)

theorem driveReady_brought (level : Bool) : Brought s (driveReady s level) := by
  unfold driveReady
  exact .ite (.refl s) rfl

theorem setDeviceState_brought (st cause : Nat) : Brought s (setDeviceState s st cause) := by
  unfold setDeviceState
  refine .ite (.refl s) (.trans ?_ (.ofAnnounced (notifyContrail_announced ..)))
  refine .trans ?_ (.ofAnnounced (mailboxState_announced _))
  exact ((Brought.setObj s kDeviceState st).trans (.setObj _ 0x100103 cause)).trans (.ofNoted (raise_noted ..))

theorem freezeImage_brought : Brought s (freezeImage s) := rfl

theorem enterFault_brought (cause : Nat) : Brought s (enterFault s cause) := by
  unfold enterFault
  refine .ite (.refl s) (.trans ?_ (show Brought (faultEntered s cause) _ from rfl))
  exact ((setDeviceState_brought s 4 cause).trans (driveReady_brought _ false)).trans (freezeImage_brought _)

theorem failUnit_brought (u : FailUnit) (cause : Nat) : Brought s (failUnit s u cause) :=
  Brought.trans (t := fenceUnit s u) rfl (enterFault_brought ..)

theorem initRegion_brought (d : DieId) (n : Nat) : Brought s (initRegion s d n) := by
  unfold initRegion
  exact .ite rfl (.refl s)

theorem spareLane_brought (d : DieId) (p : Nat × Nat) : Brought s (spareLane d s p) := by
  unfold spareLane
  extract_lets layer group k s1
  have h1 : Brought s s1 := rfl
  exact .ite (failUnit_brought ..) (h1.trans (.ofNoted (raiseOn_noted ..)))

theorem spareRow_brought (d : DieId) (a : Nat) : Brought s (spareRow d s a) := by
  unfold spareRow
  extract_lets page layer used
  refine .ite (failUnit_brought ..) (.trans ?_ (.ofNoted (raiseOn_noted ..)))
  rfl

theorem bondObjects_brought : Brought s (bondObjects s) := by
  unfold bondObjects
  exact (Brought.setObj s 0xC21003 _).trans (.setObj _ 0xC21004 _)

theorem bondTest_brought (d : DieId) (r : BondResult) : Brought s (bondTest s d r) := by
  unfold bondTest
  extract_lets s1 s2
  have h1 : Brought s s1 := .each s _ fun t p => spareLane_brought t d p
  have h2 : Brought s1 s2 := (Brought.each s1 _ fun t a => spareRow_brought t d a).trans (bondObjects_brought _)
  clear_value s2
  have h3 : Brought s2 ((s2.setObj 0xC21002 (s2.obj 0xC21001)).modLife fun l => { l with bondDue := none, bondRaised := none }) := rfl
  exact ((h1.trans h2).trans h3).trans (.setObj ..)

end Tests

/-! ## Stage 3 (18 R403, R415, R416) -/

section Stage3
variable (s : State)

theorem endStage3_stage : (endStage3 s).life.stage =
    if s.life.stage = 3 ∧ s.life.stratusUp = 0xFF ∧ s.life.hbmUp = 0xFF then 5 else s.life.stage := by
  unfold endStage3
  simp only [Bool.and_eq_true, decide_eq_true_eq, and_assoc]
  split
  · rfl
  · rfl

/-- The end of stage 3 changes nothing but the stage. -/
theorem endStage3_keeps {β : Type} (g : State → β)
    (hg : ∀ (t : State) n, g { t with life := { t.life with stage := n } } = g t := by intros; rfl) : g (endStage3 s) = g s := by
  unfold endStage3
  split
  · exact hg s 5
  · rfl

theorem initRegions_keeps {β : Type} (d : DieId) (ns : List Nat) (g : State → β)
    (hg : ∀ (t : State) a n, g (clearRegion t a n) = g t := by intros; rfl) : g (s.each ns fun t n => initRegion t d n) = g s := by
  refine State.each_keeps s g _ _ fun t n => ?_
  unfold initRegion
  dsimp only
  split
  · exact hg ..
  · rfl

/-- A die's Stratus tested and its fenced pages repaired, before its regions are initialised. -/
def stratusTested (d : DieId) (bond : BondResult) : State :=
  let s1 := bondTest s d bond
  bondObjects (s1.each (s1.die d).fencedS (spareRow d))

theorem stratusTested_brought (d : DieId) (bond : BondResult) : Brought s (stratusTested s d bond) :=
  ((bondTest_brought s d bond).trans (.each _ _ fun t a => spareRow_brought t d a)).trans (bondObjects_brought _)

/-- A test that finds nothing, on a die with no fenced page, keeps the stage. -/
theorem stratusTested_stage {d : DieId} (hfenced : (s.die d).fencedS = []) :
    (stratusTested s d ⟨[], []⟩).life.stage = s.life.stage := by
  have hdie : ((bondTest s d ⟨[], []⟩).die d).fencedS = [] :=
    ((bondTest_brought s d ⟨[], []⟩).keeps fun t => (t.die d).fencedS).trans hfenced
  have htest : (bondTest s d ⟨[], []⟩).life.stage = s.life.stage := rfl
  rw [stratusTested, hdie]
  exact htest

/-- A die's Stratus ready, before the stage ends. -/
def stratusReady (d : DieId) (bond : BondResult) : State :=
  (((stratusTested s d bond).modDie d fun m => { m with fencedS := [] }).each (List.range 8) fun t n => initRegion t d n).modLife
    fun l => { l with stratusUp := l.stratusUp ||| 1#8 <<< d.val }

theorem stratusReady_life (d : DieId) (bond : BondResult) : (stratusReady s d bond).life =
    { (stratusTested s d bond).life with stratusUp := (stratusTested s d bond).life.stratusUp ||| 1#8 <<< d.val } := by
  have hinit := initRegions_keeps ((stratusTested s d bond).modDie d fun m => { m with fencedS := [] }) d (List.range 8) State.life
  exact congrArg (fun l : Life => { l with stratusUp := l.stratusUp ||| 1#8 <<< d.val }) hinit

theorem stratusReady_fenced (d : DieId) (bond : BondResult) : ((stratusReady s d bond).die d).fencedS = [] := by
  have hinit := initRegions_keeps ((stratusTested s d bond).modDie d fun m => { m with fencedS := [] }) d (List.range 8)
    fun t => (t.die d).fencedS
  rw [State.die_modDie_same] at hinit
  exact hinit

theorem stratusBringup_readies (d : DieId) (bond : BondResult) (hstage : s.life.stage = 3)
    (hdown : s.life.stratusUp.getLsbD d.val = false) : ∃ t, exec (.stratusBringup d bond) s = .next t ∧ (t.die d).fencedS = [] ∧
      t.life.stratusUp = s.life.stratusUp ||| 1#8 <<< d.val ∧ (bond = ⟨[], []⟩ → (s.die d).fencedS = [] →
        t.life.stage = if s.life.stratusUp ||| 1#8 <<< d.val = 0xFF ∧ s.life.hbmUp = 0xFF then 5 else 3) := by
  have hlife := stratusReady_life s d bond
  have htested := stratusTested_brought s d bond
  have hstratus : (stratusReady s d bond).life.stratusUp = s.life.stratusUp ||| 1#8 <<< d.val := by
    rw [hlife]
    exact congrArg (· ||| 1#8 <<< d.val) (htested.keeps (·.life.stratusUp))
  have hhbm : (stratusReady s d bond).life.hbmUp = s.life.hbmUp := by
    rw [hlife]
    exact htested.keeps (·.life.hbmUp)
  refine ⟨endStage3 (stratusReady s d bond), ?_, ?_, ?_, fun hbond hfenced => ?_⟩
  · have hready : ¬ (s.life.stage != 3 || s.life.stratusUp.getLsbD d.val) = true := by rw [hstage, hdown]; decide
    rw [exec_stratusBringup, execStratusBringup, if_neg hready]
    rfl
  · exact (endStage3_keeps _ fun t => (t.die d).fencedS).trans (stratusReady_fenced s d bond)
  · exact (endStage3_keeps _ (·.life.stratusUp)).trans hstratus
  · have hstill : (stratusReady s d bond).life.stage = 3 := by
      rw [hlife, hbond]
      exact (stratusTested_stage s hfenced).trans hstage
    rw [endStage3_stage, hstill, hstratus, hhbm]
    simp only [true_and]

/-- A die's HBM whose first training failed is reported. -/
def trainingReported (d : DieId) (fails : List Nat) : State :=
  match fails with
  | [] => s
  | f :: _ => raiseOn s d 165 f 0

theorem trainingReported_noted (d : DieId) (fails : List Nat) : Noted s (trainingReported s d fails) := by
  unfold trainingReported
  split
  · exact .refl s
  · exact raiseOn_noted ..

/-- A die's HBM fenced, and the failure kept for the end of bring-up. -/
def hbmFenced (d : DieId) : State :=
  (fenceUnit s (.hbm d.val)).modLife fun l => { l with failCause := some (l.failCause.getD (512 * d.val + 165)) }

/-- A die's HBM after its training and one retry. -/
def hbmTrained (d : DieId) (fails : List Nat) : State := (trainingReported s d fails).when (2 ≤ fails.length) fun t => hbmFenced t d

/-- What training leaves alone: all but events, the fenced units and the failure's cause. -/
theorem hbmTrained_keeps {β : Type} (d : DieId) (fails : List Nat) (g : State → β) (hnoted : ∀ {u t : State}, Noted u t → g t = g u)
    (hfence : ∀ t : State, g (hbmFenced t d) = g t := by intro _; rfl) : g (hbmTrained s d fails) = g s :=
  (State.when_keeps _ g _ _ (hfence _)).trans (hnoted (trainingReported_noted s d fails))

theorem hbmTrained_of_trained (d : DieId) {fails : List Nat} (h : fails.length < 2) : (hbmTrained s d fails).life = s.life := by
  have hfalse : decide (2 ≤ fails.length) = false := by simpa using h
  unfold hbmTrained
  rw [hfalse]
  exact (trainingReported_noted s d fails).life

theorem hbmTrained_of_failed (d : DieId) {fails : List Nat} (h : 2 ≤ fails.length) :
    (hbmTrained s d fails).life.failCause.isSome = true ∧ FailUnit.hbm d.val ∈ (hbmTrained s d fails).wear.units := by
  have htrue : decide (2 ≤ fails.length) = true := by simpa using h
  unfold hbmTrained
  rw [htrue]
  exact ⟨rfl, List.mem_cons_self⟩

/-- A die's HBM ready, before the stage ends. -/
def hbmReady (d : DieId) (fails repaired : List Nat) : State :=
  (((hbmTrained s d fails).modDie d fun m => { m with fencedH := m.fencedH.filter fun a => !repaired.contains a }).each
    ((List.range 8).map (8 + ·)) fun t n => initRegion t d n).modLife fun l => { l with hbmUp := l.hbmUp ||| 1#8 <<< d.val }

theorem hbmReady_life (d : DieId) (fails repaired : List Nat) : (hbmReady s d fails repaired).life =
    { (hbmTrained s d fails).life with hbmUp := (hbmTrained s d fails).life.hbmUp ||| 1#8 <<< d.val } := by
  have hinit := initRegions_keeps ((hbmTrained s d fails).modDie d fun m =>
    { m with fencedH := m.fencedH.filter fun a => !repaired.contains a }) d ((List.range 8).map (8 + ·)) State.life
  exact congrArg (fun l : Life => { l with hbmUp := l.hbmUp ||| 1#8 <<< d.val }) hinit

theorem hbmReady_cause (d : DieId) (fails repaired : List Nat) :
    (hbmReady s d fails repaired).life.failCause = (hbmTrained s d fails).life.failCause := by rw [hbmReady_life]

theorem hbmReady_fenced (d : DieId) (fails repaired : List Nat) :
    ((hbmReady s d fails repaired).die d).fencedH = (s.die d).fencedH.filter fun a => !repaired.contains a := by
  have hinit := initRegions_keeps ((hbmTrained s d fails).modDie d fun m =>
    { m with fencedH := m.fencedH.filter fun a => !repaired.contains a }) d ((List.range 8).map (8 + ·)) fun t => (t.die d).fencedH
  have htrained : (hbmTrained s d fails).dies = s.dies := hbmTrained_keeps s d fails State.dies fun h => h.dies
  have hdie : (hbmTrained s d fails).die d = s.die d := congrArg (fun v : Vector DieMem 8 => v[d]) htrained
  rw [State.die_modDie_same, hdie] at hinit
  exact hinit

theorem hbmReady_wear (d : DieId) (fails repaired : List Nat) : (hbmReady s d fails repaired).wear = (hbmTrained s d fails).wear :=
  initRegions_keeps ((hbmTrained s d fails).modDie d fun m => { m with fencedH := m.fencedH.filter fun a => !repaired.contains a })
    d ((List.range 8).map (8 + ·)) State.wear

theorem hbmBringup_readies (d : DieId) (fails repaired : List Nat) (hstage : s.life.stage = 3)
    (hdown : s.life.hbmUp.getLsbD d.val = false) : ∃ t, exec (.hbmBringup d fails repaired) s = .next t ∧
      (t.die d).fencedH = (s.die d).fencedH.filter (fun a => !repaired.contains a) ∧
      t.life.hbmUp = s.life.hbmUp ||| 1#8 <<< d.val ∧ (fails.length < 2 → t.life.failCause = s.life.failCause) ∧
      (2 ≤ fails.length → t.life.failCause.isSome = true ∧ FailUnit.hbm d.val ∈ t.wear.units) ∧
      t.life.stage = if s.life.stratusUp = 0xFF ∧ s.life.hbmUp ||| 1#8 <<< d.val = 0xFF then 5 else 3 := by
  have hlife := hbmReady_life s d fails repaired
  have htrained {β : Type} (g : Life → β) (hg : ∀ (l : Life) c, g { l with failCause := c } = g l) :
      g (hbmTrained s d fails).life = g s.life :=
    hbmTrained_keeps s d fails (fun t => g t.life) (fun h => congrArg g h.life) fun t => hg t.life _
  have hhbm : (hbmReady s d fails repaired).life.hbmUp = s.life.hbmUp ||| 1#8 <<< d.val := by
    rw [hlife]
    exact congrArg (· ||| 1#8 <<< d.val) (htrained Life.hbmUp fun _ _ => rfl)
  have hcause : (endStage3 (hbmReady s d fails repaired)).life.failCause = (hbmTrained s d fails).life.failCause :=
    (endStage3_keeps _ (·.life.failCause)).trans (hbmReady_cause ..)
  have hwear : (endStage3 (hbmReady s d fails repaired)).wear = (hbmTrained s d fails).wear :=
    (endStage3_keeps _ State.wear).trans (hbmReady_wear ..)
  refine ⟨endStage3 (hbmReady s d fails repaired), ?_, ?_, ?_, fun hfew => ?_, fun hmany => ?_, ?_⟩
  · have hready : ¬ (s.life.stage != 3 || s.life.hbmUp.getLsbD d.val) = true := by rw [hstage, hdown]; decide
    rw [exec_hbmBringup]
    unfold execHbmBringup
    rw [if_neg hready]
    rfl
  · exact (endStage3_keeps _ fun t => (t.die d).fencedH).trans (hbmReady_fenced s d fails repaired)
  · exact (endStage3_keeps _ (·.life.hbmUp)).trans hhbm
  · rw [hcause, hbmTrained_of_trained s d hfew]
  · rw [hcause, hwear]
    exact hbmTrained_of_failed s d hmany
  · have hstill : (hbmReady s d fails repaired).life.stage = 3 := by
      rw [hlife]
      exact (htrained Life.stage fun _ _ => rfl).trans hstage
    have hstratus : (hbmReady s d fails repaired).life.stratusUp = s.life.stratusUp := by
      rw [hlife]
      exact htrained Life.stratusUp fun _ _ => rfl
    rw [endStage3_stage, hstill, hstratus, hhbm]
    simp only [true_and]

end Stage3

/-! ## The swatch test (18 R405 to R410) -/

section Swatch
variable (s : State) (swatch : List (List (Nat × Nat)))

/-- The scratchpads, the engines and the cores as the swatch test leaves them. -/
def swatchCleared : State :=
  { s with scratch := [], wordDev := [], wear := { s.wear with dead := [] }, cores := Vector.replicate 32 CoreState.reset }

/-- The units that fail counted and reported, and the cores mapped. -/
def coresTested : State :=
  (((swatchCleared s).bump 0xC20003).each (List.range 32) fun t i => t.each (swatch.getD i []) (reportFails i)).modLife fun l =>
    { l with phys := Vector.ofFn fun i => testedCore (swatch.getD i.val []) }

/-- Spares and lost cores reported. -/
def coresReported : State :=
  (coresTested s swatch).each (List.range 32) (reportCore s.life.phys.toList (coresTested s swatch).life.phys.toList)

/-- The cores present and the grade that follows, reported. -/
def coresMapped : State :=
  let t := coresReported s swatch
  let mask := presentMask t
  let d := mask != 2 ^ 32 - 1
  let u := mapObjects (t.modLife fun l => { l with present := BitVec.ofNat 32 mask, dGrade := d })
  u.when (d != t.life.dGrade) fun t => raise t 168 (t.life.fuse + d.toNat * 256) (popBits 32 mask)

theorem swatchTest_eq : swatchTest s swatch = if presentMask (coresReported s swatch) = 0 then
    enterFault (coresMapped s swatch) (512 * lostDie s.life.phys.toList (coresTested s swatch).life.phys.toList + 162)
    else coresMapped s swatch := rfl

/-- The swatch test up to the fault of a package without cores: what neither it nor an event writes stays. -/
theorem coresMapped_keeps {β : Type} (g : State → β) (hnoted : ∀ {u t : State}, Noted u t → g t = g u)
    (hobj : ∀ (t : State) k v, k ≠ kDeviceState → g (t.setObj k v) = g t)
    (hlife : ∀ (t : State) fails phys present grade, g { t with life := { t.life with
      fails := fails, phys := phys, present := present, dGrade := grade } } = g t) :
    g (coresMapped s swatch) = g (swatchCleared s) := by
  have hbump (t : State) (k : Nat) (hk : k ≠ kDeviceState) : g (t.bump k) = g t := hobj t k _ hk
  have hfail (i : Nat) (t : State) (f : Nat × Nat) : g (reportFails i t f) = g t := by
    unfold reportFails
    extract_lets s1
    have h1 : g s1 = g t := (hnoted (raiseOn_noted ..)).trans (hbump t 0xC20004 (by decide))
    exact (State.when_keeps s1 g _ _ (hlife s1 _ s1.life.phys s1.life.present s1.life.dGrade)).trans h1
  have hcore (old new : List PhysCore) (t : State) (i : Nat) : g (reportCore old new t i) = g t := by
    unfold reportCore
    extract_lets a b s1
    exact (State.when_keeps s1 g _ _ (hnoted (raiseOn_noted ..))).trans (State.when_keeps t g _ _ (hnoted (raiseOn_noted ..)))
  have hcounted : g ((swatchCleared s).bump 0xC20003) = g (swatchCleared s) := hbump _ _ (by decide)
  have hreported : g (((swatchCleared s).bump 0xC20003).each (List.range 32) fun t i => t.each (swatch.getD i []) (reportFails i)) =
      g ((swatchCleared s).bump 0xC20003) :=
    State.each_keeps _ g _ _ fun t i => State.each_keeps t g _ _ (hfail i)
  have htested : g (coresTested s swatch) = g (swatchCleared s) :=
    (hlife _ _ _ _ _).trans (hreported.trans hcounted)
  have hspares : g (coresReported s swatch) = g (coresTested s swatch) := State.each_keeps _ g _ _ (hcore _ _)
  have hmap (t : State) : g (mapObjects t) = g t :=
    (hobj _ _ _ (by decide)).trans ((hobj _ _ _ (by decide)).trans (hobj _ _ _ (by decide)))
  unfold coresMapped
  extract_lets t mask d u
  have hu : g u = g t := (hmap _).trans (hlife t t.life.fails t.life.phys _ d)
  exact (State.when_keeps u g _ _ (hnoted (raise_noted ..))).trans (hu.trans (hspares.trans htested))

/-- The bits of the cores present are those of 32 cores. -/
theorem presentMask_lt : presentMask s < 2 ^ 32 := by
  have hsum (l : List CoreId) (p : CoreId → Prop) [DecidablePred p] (a : Nat) :
      l.foldl (fun acc c => if p c then acc + 2 ^ c.val else acc) a ≤ a + (l.map fun c => 2 ^ c.val).sum := by
    induction l generalizing a with
    | nil => simp
    | cons c l ih =>
      rw [List.foldl_cons, List.map_cons, List.sum_cons]
      refine (ih _).trans ?_
      split
      · rw [Nat.add_assoc]
      · exact Nat.add_le_add_left (Nat.le_add_left ..) a
  have hall : (allCores.map fun c => 2 ^ c.val).sum = 2 ^ 32 - 1 := by decide
  have hle := hsum allCores (fun c => c.val % 4 < (positions s (dieOf c)).length) 0
  rw [hall] at hle
  exact Nat.lt_of_le_of_lt hle (by decide)

theorem mapObjects_life : (mapObjects s).life = s.life := by
  have hobj (t : State) (k v : Nat) : (t.setObj k v).life = t.life := rfl
  unfold mapObjects
  rw [hobj, hobj, hobj]

theorem coresMapped_present : (coresMapped s swatch).life.present = BitVec.ofNat 32 (presentMask (coresReported s swatch)) := by
  unfold coresMapped
  extract_lets t mask d u
  have hu : u.life.present = BitVec.ofNat 32 mask := congrArg Life.present (mapObjects_life _)
  have hraised : (u.when (d != t.life.dGrade) fun t => raise t 168 (t.life.fuse + d.toNat * 256) (popBits 32 mask)).life = u.life :=
    State.when_keeps u State.life _ _ (raise_noted ..).life
  rw [hraised, hu]

/-- No core is present exactly when no bit is set. -/
theorem coresMapped_absent : (coresMapped s swatch).life.present = 0 ↔ presentMask (coresReported s swatch) = 0 := by
  have hlt := presentMask_lt (coresReported s swatch)
  rw [coresMapped_present]
  constructor
  · intro h
    have hnat : (BitVec.ofNat 32 (presentMask (coresReported s swatch))).toNat = 0 := by rw [h]; rfl
    rwa [BitVec.toNat_ofNat, Nat.mod_eq_of_lt hlt] at hnat
  · intro h
    rw [h]
    rfl

theorem swatchTest_of_present (h : presentMask (coresReported s swatch) ≠ 0) : swatchTest s swatch = coresMapped s swatch := by
  rw [swatchTest_eq, if_neg h]

theorem swatchTest_of_absent (h : presentMask (coresReported s swatch) = 0) :
    ∃ cause, swatchTest s swatch = enterFault (coresMapped s swatch) cause := by
  rw [swatchTest_eq, if_pos h]
  exact ⟨_, rfl⟩

theorem coresMapped_brought : Brought (swatchCleared s) (coresMapped s swatch) :=
  coresMapped_keeps s swatch State.withoutBringup (fun h => Brought.ofNoted h) (fun _ _ _ _ => rfl) fun _ _ _ _ _ => rfl

theorem swatchTest_brought : Brought (swatchCleared s) (swatchTest s swatch) := by
  rw [swatchTest_eq]
  exact .ite ((coresMapped_brought ..).trans (enterFault_brought ..)) (coresMapped_brought ..)

theorem swatchTest_scratch : (swatchTest s swatch).scratch = [] := (swatchTest_brought s swatch).keeps State.scratch

theorem swatchTest_present : (swatchTest s swatch).life.present = (coresMapped s swatch).life.present := by
  by_cases h : presentMask (coresReported s swatch) = 0
  · obtain ⟨cause, htest⟩ := swatchTest_of_absent s swatch h
    rw [htest]
    exact (enterFault_worked ..).keeps (·.life.present)
  · rw [swatchTest_of_present s swatch h]

theorem swatchTest_state_of_absent (h : (swatchTest s swatch).life.present = 0) : (swatchTest s swatch).obj kDeviceState = stFault := by
  rw [swatchTest_present, coresMapped_absent] at h
  obtain ⟨cause, htest⟩ := swatchTest_of_absent s swatch h
  rw [htest, enterFault_state]

theorem swatchTest_state_of_present (h : (swatchTest s swatch).life.present ≠ 0) :
    (swatchTest s swatch).obj kDeviceState = s.obj kDeviceState := by
  rw [swatchTest_present, ne_eq, coresMapped_absent] at h
  rw [swatchTest_of_present s swatch h]
  exact coresMapped_keeps s swatch (·.obj kDeviceState) (fun hn => hn.obj _ (by decide))
    (fun t _ v hk => State.obj_setObj_ne t v hk.symm) fun _ _ _ _ _ => rfl

/-- A core that is as after reset, an image's stop leaves as it is. -/
theorem enterFault_cores {cause : Nat} (h : s.cores = Vector.replicate 32 CoreState.reset) :
    (enterFault s cause).cores = Vector.replicate 32 CoreState.reset := by
  unfold enterFault
  split
  · exact h
  · have hstate : (driveReady (setDeviceState s 4 cause) false).cores = s.cores :=
      cores_of_program ((driveReady_program ..).trans (setDeviceState_program ..))
    have hfrozen (t : State) : (freezeImage t).cores = t.cores.map fun x =>
      { x with st := if x.st == .trapped || x.st == .idle then x.st else .stopped, drain := 0 } := rfl
    change (freezeImage (driveReady (setDeviceState s 4 cause) false)).cores = _
    rw [hfrozen, hstate, h, Vector.map_replicate]
    rfl

theorem swatchTest_cores : (swatchTest s swatch).cores = Vector.replicate 32 CoreState.reset := by
  have hmapped : (coresMapped s swatch).cores = Vector.replicate 32 CoreState.reset :=
    coresMapped_keeps s swatch State.cores (fun h => h.cores) (fun _ _ _ _ => rfl) fun _ _ _ _ _ => rfl
  rw [swatchTest_eq]
  split
  · exact enterFault_cores _ hmapped
  · exact hmapped

end Swatch

/-! ## PREOP with READY (18 R400, R413) -/

section Preop
variable (s : State)

theorem driveReady_life (level : Bool) : (driveReady s level).life = { s.life with ready := level } := by
  unfold driveReady
  split
  · rename_i h
    rw [← beq_iff_eq.mp h]
  · rfl

/-- PREOP entered with READY. -/
def serviceEntered : State := enterPreop (raiseReady (keepFirmware s))

theorem setDeviceState_life (st cause : Nat) : (setDeviceState s st cause).life = s.life := by
  unfold setDeviceState
  split
  · rfl
  · have hraised := (raise_noted ((s.setObj kDeviceState st).setObj 0x100103 cause) 265 (st + cause * 256) 0).life
    exact ((notifyContrail_announced ..).keeps State.life).trans (((mailboxState_announced _).keeps State.life).trans hraised)

theorem raiseReady_life : (raiseReady s).life = { s.life with stage := 7, ready := true } := by
  unfold raiseReady
  extract_lets us
  rw [driveReady_life]
  rfl

/-- The licences checked again, and the health record written, before PREOP is entered. -/
def licencesChecked : State :=
  writeHealth { s with
    mgmt := { s.mgmt with licences := s.mgmt.licences.map fun l => { l with valid := licenceValid s l.bytes } }
    life := { s.life with epoch := s.life.fuseEpoch } }

theorem enterPreop_eq : enterPreop s = setDeviceState (licencesChecked s) stPreop 0 := rfl

theorem enterPreop_life : (enterPreop s).life = (licencesChecked s).life := by rw [enterPreop_eq, setDeviceState_life]

theorem serviceEntered_life : (serviceEntered s).life.stage = 7 ∧ (serviceEntered s).life.ready = true ∧
    (serviceEntered s).life.present = s.life.present := by
  have hchecked {β : Type} (g : Life → β) (t : State) (hg : ∀ (l : Life) e h, g { l with epoch := e, health := h } = g l) :
      g (licencesChecked t).life = g t.life := hg t.life _ _
  have hready := raiseReady_life (keepFirmware s)
  rw [serviceEntered, enterPreop_life, hchecked Life.stage _ fun _ _ _ => rfl, hchecked Life.ready _ fun _ _ _ => rfl,
    hchecked Life.present _ fun _ _ _ => rfl, hready]
  exact ⟨rfl, rfl, rfl⟩

theorem serviceEntered_state : (serviceEntered s).obj kDeviceState = stPreop := by
  rw [serviceEntered, enterPreop_eq, setDeviceState_state]

theorem driveReady_keeps {β : Type} (g : State → β) (level : Bool)
    (hg : ∀ (t : State) l o, g { t with life := l, out := o } = g t := by intros; rfl) : g (driveReady s level) = g s := by
  unfold driveReady
  split
  · rfl
  · exact hg s { s.life with ready := level } (.pin 0 level :: s.out)

theorem serviceEntered_scratch : (serviceEntered s).scratch = s.scratch := by
  have hpreop (t : State) : (enterPreop t).scratch = t.scratch := (setDeviceState_brought (licencesChecked t) stPreop 0).keeps State.scratch
  rw [serviceEntered, hpreop]
  unfold raiseReady
  extract_lets us
  exact driveReady_keeps _ State.scratch true

/-- The swatch test, and the fault that an earlier failure leads to. -/
def computeTested (swatch : List (List (Nat × Nat))) : State :=
  match (swatchTest s swatch).life.failCause with
  | none => swatchTest s swatch
  | some c => enterFault (swatchTest s swatch) c

theorem computeBringup_of_stage {swatch : List (List (Nat × Nat))} (hstage : s.life.stage = 5) : exec (.computeBringup swatch) s =
    .next (if (computeTested s swatch).obj kDeviceState = stFault then computeTested s swatch
      else serviceEntered (computeTested s swatch)) := by
  have hready : ¬ (s.life.stage != 5) = true := by rw [hstage]; decide
  rw [exec_computeBringup]
  unfold execComputeBringup
  rw [if_neg hready]
  rfl

theorem swatchTest_failCause (swatch : List (List (Nat × Nat))) : (swatchTest s swatch).life.failCause = s.life.failCause :=
  (swatchTest_brought s swatch).keeps (·.life.failCause)

theorem computeTested_of_good {swatch : List (List (Nat × Nat))} (h : s.life.failCause = none) :
    computeTested s swatch = swatchTest s swatch := by
  unfold computeTested
  rw [swatchTest_failCause, h]

theorem computeTested_of_failed {swatch : List (List (Nat × Nat))} {c : Nat} (h : s.life.failCause = some c) :
    computeTested s swatch = enterFault (swatchTest s swatch) c := by
  unfold computeTested
  rw [swatchTest_failCause, h]

theorem computeTested_scratch (swatch : List (List (Nat × Nat))) : (computeTested s swatch).scratch = [] := by
  cases h : s.life.failCause with
  | none => rw [computeTested_of_good s h, swatchTest_scratch]
  | some c =>
    rw [computeTested_of_failed s h, (enterFault_brought ..).keeps State.scratch, swatchTest_scratch]

theorem computeBringup_ends {swatch : List (List (Nat × Nat))} (hstage : s.life.stage = 5) (hboot : s.obj kDeviceState = stBoot) :
    ∃ t, exec (.computeBringup swatch) s = .next t ∧ t.scratch = [] ∧
      (t.life.present = 0 ∨ s.life.failCause ≠ none → t.obj kDeviceState = stFault) ∧
      (t.life.present ≠ 0 → s.life.failCause = none → t.obj kDeviceState = stPreop ∧ t.life.stage = 7 ∧ t.life.ready = true) := by
  have hexec := computeBringup_of_stage s (swatch := swatch) hstage
  have hscratch := computeTested_scratch s swatch
  by_cases hfault : (computeTested s swatch).obj kDeviceState = stFault
  · rw [if_pos hfault] at hexec
    refine ⟨_, hexec, hscratch, fun _ => hfault, fun hpresent hgood => ?_⟩
    rw [computeTested_of_good s hgood] at hpresent hfault
    rw [swatchTest_state_of_present s swatch hpresent, hboot] at hfault
    exact absurd hfault (by decide)
  · rw [if_neg hfault] at hexec
    obtain ⟨hseven, hready, hpresent⟩ := serviceEntered_life (computeTested s swatch)
    refine ⟨_, hexec, (serviceEntered_scratch _).trans hscratch, fun hbad => ?_, fun _ _ => ⟨serviceEntered_state _, hseven, hready⟩⟩
    cases hcause : s.life.failCause with
    | none =>
      rw [computeTested_of_good s hcause] at hpresent hfault
      have habsent : (swatchTest s swatch).life.present = 0 := by
        rw [hcause, computeTested_of_good s hcause, hpresent] at hbad
        simpa using hbad
      exact absurd (swatchTest_state_of_absent s swatch habsent) hfault
    | some c =>
      rw [computeTested_of_failed s hcause] at hfault
      exact absurd (enterFault_state ..) hfault

end Preop

/-! ## The end of a compute reset (18 R399, R411) -/

section ComputeReset
variable (s : State)

/-- Units and cores reset and the image discarded, before bulk channels and clocks follow. -/
def unitsCleared : State :=
  { s with
    run := { Run.reset with imported := s.run.imported, scales := s.run.scales, decided := s.run.decided }
    units := Vector.replicate 8 DieUnits.reset, cirrusOn := [], faulted := none
    cores := Vector.replicate 32 CoreState.reset, mgmt := { s.mgmt with imageBytes := [] }
    power := { s.power with halted := false }, tick := { s.tick with contribs := [] } }

/-- The bulk channels of every die free. -/
def bulkFreed : State := s.each allDies fun t d => t.modDie d fun m => { m with bulk := Vector.replicate 8 none }

theorem resetUnits_eq : resetUnits s = refreshAllClocks (clearFloors (bulkFreed (unitsCleared s))) := rfl

theorem resetUnits_keeps {β : Type} (g : State → β) (hclocks : ∀ {u t : State}, Steered u t → g t = g u)
    (hfloor : ∀ (t : State) c f, g (t.modClk c f) = g t := by intros; rfl)
    (hdie : ∀ (t : State) d f, g (t.modDie d f) = g t := by intros; rfl) : g (resetUnits s) = g (unitsCleared s) := by
  have hbulk (t : State) : g (bulkFreed t) = g t := State.each_keeps t g _ _ fun u d => hdie u d _
  have hfloors (t : State) : g (clearFloors t) = g t := State.each_keeps t g _ _ fun u c => hfloor u c _
  rw [resetUnits_eq, hclocks (refreshAllClocks_steered _), hfloors, hbulk]

theorem resetUnits_units : (resetUnits s).units = Vector.replicate 8 DieUnits.reset ∧ (resetUnits s).run.image = none :=
  ⟨resetUnits_keeps s State.units fun h => h.keeps State.units, resetUnits_keeps s (·.run.image) fun h => h.keeps (·.run.image)⟩

theorem resetStratus_brought (bond : List BondResult) : Brought s (resetStratus s bond) := by
  unfold resetStratus
  extract_lets s1
  have h1 : Brought s s1 := .when _ (.each s _ fun u d => bondTest_brought u d _)
  exact h1.trans (.each s1 _ fun t d => .each t _ fun u n => initRegion_brought u d n)

/-- The state of a compute reset once its units are tested. -/
def resetTested (bond : List BondResult) (swatch : List (List (Nat × Nat))) : State :=
  swatchTest (resetStratus (resetUnits s) bond) swatch

theorem resetTested_units (bond : List BondResult) (swatch : List (List (Nat × Nat))) :
    (resetTested s bond swatch).units = Vector.replicate 8 DieUnits.reset ∧ (resetTested s bond swatch).run.image = none := by
  have htest {β : Type} (g : State → β) (hg : ∀ u : State, g u.withoutBringup = g u) (hclear : ∀ u, g (swatchCleared u) = g u) :
      g (resetTested s bond swatch) = g (resetUnits s) :=
    ((swatchTest_brought _ swatch).keeps g hg).trans ((hclear _).trans ((resetStratus_brought _ bond).keeps g hg))
  obtain ⟨hunits, himage⟩ := resetUnits_units s
  exact ⟨(htest State.units (fun _ => rfl) fun _ => rfl).trans hunits, (htest (·.run.image) (fun _ => rfl) fun _ => rfl).trans himage⟩

/-- Ports out of QUIESCENT, and the compute reset over. -/
def resetOver : State := (quiesce s false).modLife fun l => { l with resetting := false, withBond := false }

theorem resetOver_keeps {β : Type} (g : State → β) (hport : ∀ (t : State) p f, g (t.modPort p f) = g t := by intros; rfl)
    (hlife : ∀ (t : State) a b, g { t with life := { t.life with resetting := a, withBond := b } } = g t := by intros; rfl) :
    g (resetOver s) = g s :=
  (hlife (quiesce s false) false false).trans (State.each_keeps s g _ _ fun t p => hport t p _)

theorem endReset_keeps {β : Type} (g : State → β) (hannounced : ∀ {u t : State}, Announced u t → g t = g u)
    (hobj : ∀ (t : State) k v, g (t.setObj k v) = g t := by intros; rfl)
    (hready : ∀ (t : State) l, g (driveReady t l) = g t)
    (hlife : ∀ (t : State) n, g { t with life := { t.life with stage := n } } = g t := by intros; rfl) :
    g (endReset s) = g (resetOver s) := by
  have hraised (t : State) : g (raiseReady t) = g t := (hready ..).trans ((hlife ..).trans (hobj ..))
  have hstate (t : State) (st cause : Nat) : g (setDeviceState t st cause) = g t := by
    unfold setDeviceState
    split
    · rfl
    · exact (hannounced (notifyContrail_announced ..)).trans ((hannounced (mailboxState_announced _)).trans
        ((hannounced (raise_noted ..).announced).trans ((hobj ..).trans (hobj ..))))
  unfold endReset
  extract_lets s1 s2
  split
  · rfl
  · exact (State.when_keeps s2 g _ _ (hstate ..)).trans (hraised _)

/-- What neither the ports, the device state, the outputs nor the life cycle is, the end of a compute reset leaves alone. -/
theorem resetEnded_keeps {β : Type} (g : State → β) (hannounced : ∀ {u t : State}, Announced u t → g t = g u)
    (hport : ∀ (t : State) p f, g (t.modPort p f) = g t := by intros; rfl)
    (hobj : ∀ (t : State) k v, g (t.setObj k v) = g t := by intros; rfl)
    (hlife : ∀ (t : State) l o, g { t with life := l, out := o } = g t := by intros; rfl) : g (endReset s) = g s :=
  (endReset_keeps s g hannounced hobj (fun t l => driveReady_keeps t g l hlife) fun t n => hlife t { t.life with stage := n } t.out).trans
    (resetOver_keeps s g hport fun t a b => hlife t { t.life with resetting := a, withBond := b } t.out)

theorem computeResetContinue_ends (bond : List BondResult) (swatch : List (List (Nat × Nat))) (hresetting : s.life.resetting = true)
    (hidle : cirrusBusy s = false) : ∃ t, exec (.computeResetContinue bond swatch) s = .next t ∧ t.life.resetting = false ∧
      t.run.image = none ∧ (∀ d, t.unit d = DieUnits.reset) ∧ (∀ c, t.core c = CoreState.reset) ∧ t.scratch = [] := by
  obtain ⟨hunits, himage⟩ := resetTested_units s bond swatch
  have hcores : (resetTested s bond swatch).cores = Vector.replicate 32 CoreState.reset := swatchTest_cores ..
  have hscratch : (resetTested s bond swatch).scratch = [] := swatchTest_scratch ..
  generalize hu : resetTested s bond swatch = u at hunits himage hcores hscratch
  have hexec : exec (.computeResetContinue bond swatch) s = .next (endReset u) := by
    have hready : ¬ (!s.life.resetting || cirrusBusy s) = true := by rw [hresetting, hidle]; decide
    rw [exec_computeResetContinue, execComputeResetContinue, if_neg hready, ← hu]
    rfl
  have hfinal : (endReset u).units = u.units := resetEnded_keeps u State.units fun h => h.keeps State.units
  have hends : (endReset u).cores = u.cores := resetEnded_keeps u State.cores fun h => h.keeps State.cores
  refine ⟨_, hexec, ?_, ?_, fun d => ?_, fun c => ?_, ?_⟩
  · exact (endReset_keeps u (·.life.resetting) (fun h => h.keeps (·.life.resetting)) (hready := fun t l => by rw [driveReady_life])).trans rfl
  · exact (resetEnded_keeps u (·.run.image) fun h => h.keeps (·.run.image)).trans himage
  · have hunit : (endReset u).unit d = (Vector.replicate 8 DieUnits.reset)[d] :=
      congrArg (fun v : Vector DieUnits 8 => v[d]) (hfinal.trans hunits)
    exact hunit.trans (Vector.getElem_replicate ..)
  · have hcore : (endReset u).core c = (Vector.replicate 32 CoreState.reset)[c] :=
      congrArg (fun v : Vector CoreState 32 => v[c]) (hends.trans hcores)
    exact hcore.trans (Vector.getElem_replicate ..)
  · exact (resetEnded_keeps u State.scratch fun h => h.keeps State.scratch).trans hscratch

end ComputeReset

/-- Settles O57: resets, bring-up, compute resets, and the loss and return of PLLs and references. -/
theorem resetsBringUpAndClocks : Obligations.ResetsBringUpAndClocks := by
  refine ⟨packageResets_restart, fun s hup hstage htest htrip hstate => bootRom_starts ⟨hup, hstage, htest, htrip⟩ hstate,
    fun order bridges rate width s hstage => ⟨fun hgood => ?_, fun hbad _ => firmwareStart_faults order rate width hstage hbad,
      fun rails hwaited => railsWaiting_raises rails hstage hwaited⟩,
    fun d bond fails repaired s hstage => ⟨fun hdown => stratusBringup_readies s d bond hstage hdown,
      fun hdown => hbmBringup_readies s d fails repaired hstage hdown⟩,
    fun swatch s hstage hboot => computeBringup_ends s hstage hboot,
    fun s htrial hstate => pendingSlotTimeout_abandons s htrial hstate,
    fun bond swatch s hresetting hidle => computeResetContinue_ends s bond swatch hresetting hidle,
    fun d pll us s hpll => ⟨fun hlocked => pllUnlock_loses us hpll hlocked, fun hfed hstage => pllRelock_locks hpll hfed hstage⟩,
    refclkLoss_takes, fun rate width s hstage => refclkReturn_returns rate width hstage⟩
  subst hgood
  exact firmwareStart_starts order rate width hstage

end Sys2Proof.Machine
end
